-- ==== Sys2Proof/Word.lean ====
section
/-!
DEFINITION. The word types of the AX416 model (R1, R5) and the type of sparse tables.
-/
namespace Sys2Proof

/-- A 32-bit word: one lane of a vector register, one uniform register, one lane mask, one instruction word (R5, R68). -/
abbrev Word := BitVec 32

/-- A 64-bit word: a register pair, an address operand, an 8-byte field (R5). -/
abbrev DWord := BitVec 64

/-- One byte of memory (R1). -/
abbrev Byte := BitVec 8

/-- A sparse table of `w`-bit values keyed by a natural number.
A key that is not listed reads as zero; the table's canonical form is `Sparse.wf` of Machine/Sparse.lean. -/
abbrev Sparse (w : Nat) := List (Nat × BitVec w)

end Sys2Proof
end

