-- ==== Sys2Proof/Config.lean ====
section
/-!
DEFINITION. The values that the spec leaves open, as constants without a body: nothing can evaluate them, so a
statement about them holds whatever they are. Those that take a number take the model's counter `State.free` of free
values drawn so far.
-/
namespace Sys2Proof

/-- Core cycles that pass while a path issues one instruction, beyond the first: issue costs, stalls and waits (R9, R26; assumption
1). -/
opaque Config.elapsed : Nat → BitVec 32

/-- A byte of team memory that exists no more, because its team has ended or is bivouacked with a carry window elsewhere, as
an engine thread that runs on reads it (R215, R304; assumption 31). -/
opaque Config.goneByte : Nat → Byte

/-- The physical address and the channel that a base-die controller's entry of a training failure names (R387; assumption
33). -/
opaque Config.trainingPa : Nat → Nat
opaque Config.trainingChannel : Nat → Nat

/-- What the firmware of a base-die controller fixes (R386; assumption 103): the channel and the row of a granule, the corrected errors
after which a row is repaired, and the temperature above which refresh doubles. -/
opaque Config.channelOf : Nat → BitVec 5
opaque Config.rowOf : Nat → Nat
opaque Config.rowThreshold : Nat
opaque Config.refreshTemp : Nat

/-- STKSTAT.OWNER of a stack that is FAILED (R380; assumption 34). -/
opaque Config.failedOwner : Nat → BitVec 2

/-- The bytes of a save image, whose layout the spec gives in part, as a host that reads the save area finds them (R331;
assumption 35). -/
opaque Config.imageByte : Nat → Byte

/-- The link field of a bivouac record: how it names the next record (R305; assumption 36). -/
opaque Config.recordLink : Nat → DWord

/-- ERRHDR of a packet whose header cannot be read (R352; assumption 38). -/
opaque Config.unreadHeader : Nat → DWord

/-- What a read of the write-only doorbell register returns (R343, R406; assumption 41). -/
opaque Config.writeOnly : Nat → DWord

/-- A byte of lost data as the host, or another package, finds it (R375; assumption 42). -/
opaque Config.lostByte : Nat → Byte

/-- The peer that a trained port finds at its other end: PEERPKG and PEERPORT (R410; assumption 43). -/
opaque Config.peerPkg : Nat → BitVec 6
opaque Config.peerPort : Nat → BitVec 4

/-- The digests of Breonet's two public keys that the ROM holds for a key slot: of the ECDSA key, and of the LMS key (R419). -/
opaque Config.romEcdsa : Nat → BitVec 384
opaque Config.romLms : Nat → BitVec 384

/-- Whether another package accepts an access of n bytes at a domain address: the windows that its EXPT holds (R411; assumption 54). -/
opaque Config.peerExports : Nat → Nat → Bool → Bool

/-- Whether the switches lead from a port of this package to another package (R411; assumption 54), and whether the host refuses an
access of n bytes at a host address (R408; assumption 99). -/
opaque Config.switchPath : Nat → Nat → Bool
opaque Config.hostRefuses : Nat → Nat → Bool → Bool

/-- The seed that the PUF and its helper data give; the salt and the two contexts of its HKDF; the identifier of the LMS key of a seed; and
the numbers that signatures take at random: the per-message number of an ECDSA one, the randomizer of an LMS one (R421, R422; assumption
44). -/
opaque Config.pufSeed : List Byte → BitVec 384
opaque Config.hkdfSalt : List Byte
opaque Config.keyInfo : List Byte
opaque Config.lmsInfo : List Byte
opaque Config.lmsId : BitVec 256 → BitVec 128
opaque Config.signNumber : Nat → Nat
opaque Config.lmsRandom : Nat → BitVec 256

/-- Codes of STATUS that have no number in the spec: EXHAUSTED, and an ATTEST without an identity key (R421; assumption
45). -/
opaque Config.exhausted : BitVec 16
opaque Config.noIdentity : BitVec 16

/-- A byte of a staged image that no FLASH-WRITE has written (R420; assumption 46). -/
opaque Config.stagedByte : Nat → Byte

/-- Whether the word at an address, written since a launch read it, has its old content when it is read again (R118). -/
opaque Config.rereadOld : Nat → Nat → Bool

/-- The largest duty, in sixteenths, that keeps the module inside its power envelope (R33, R35; assumption 47). -/
opaque Config.envelopeDuty : Nat → Nat

end Sys2Proof
end

