-- ==== Sys2Proof/Fields.lean ====
section
/-!
DEFINITION. The operand fields of instructions: register numbers as bit vectors of the field's width, and one
enumeration for every coded field whose reserved codes the decoder refuses (R72, R74, R77, R78, R81, R94, R53).
The last section holds the arguments of the table's hardware steps.
-/
namespace Sys2Proof

/-- A guard field GRD: 0-6 name p0-p6, 7 means no guard (R70). -/
abbrev Guard := BitVec 3
/-- A vector register number (R70). -/
abbrev VReg := BitVec 7
/-- A uniform register number (R79). -/
abbrev SReg := BitVec 6
/-- A predicate number, 7 being `pt` (R71). -/
abbrev PReg := BitVec 3

/-- The compare conditions of R72. -/
inductive Cond where
  | eq | ne | lt | le | gt | ge | num | nan
  deriving DecidableEq, Repr

/-- The operand types of R77. -/
inductive Ty where
  | i8 | i16 | i32 | i64 | n8 | n16 | n32 | n64 | b32 | b64 | f16 | bf16 | f32 | f64 | e4m3 | e5m2
  deriving DecidableEq, Repr

/-- The rounding codes of R53. -/
inductive Rnd where
  | rne | rz | sr | ru | rd
  deriving DecidableEq, Repr

/-- The ORD codes of R74; `acqRel` is the atomics' fourth code (R78). -/
inductive MemOrder where
  | plain | acq | rel | acqRel
  deriving DecidableEq, Repr

/-- The spaces a lane instruction reaches (R74, R119). -/
inductive Space where
  | team | die | priv
  deriving DecidableEq, Repr

/-- The eight scopes of R4. -/
inductive Scope where
  | grp | team | core | clu | die | pkg | dom | sys
  deriving DecidableEq, Repr

/-- The branch conditions BC of R81. -/
inductive BrCond where
  | always | z | nz | neg | nneg
  deriving DecidableEq, Repr

/-- The space field of `watch` (R292, R94): `p` and `m` encode validly and fault WATCH-SPACE. -/
inductive WatchSpace where
  | t | d | p | m
  deriving DecidableEq, Repr

/-- The element types of a collective (R412). -/
inductive CollTy where
  | f32 | bf16 | i32
  deriving DecidableEq, Repr

/-- The register forms that `lit.i` stands for: SUBOP 0x00-0x10 (R73). -/
inductive LitOp where
  | iadd | isub | imul | imulhiI | imulhiN | iminI | iminN | imaxI | imaxN | and | or | xor | andn | shl | shrN | shrI | rotl
  deriving DecidableEq, Repr

/-- The register forms that `lit.f` stands for: SUBOP 0x18-0x1C (R73). -/
inductive LitFOp where
  | fadd | fsub | fmul | fmin | fmax
  deriving DecidableEq, Repr

/-- The uniform opcodes that accept a literal: 0x00-0x10, 0x14-0x1C (R79, R93). -/
inductive UOp where
  | iadd | isub | imul | imulhiI | imulhiN | iminI | iminN | imaxI | imaxN | and | or | xor | andn | shl | shrN | shrI | rotl
  | mov | icmpI | icmpN | fadd | fsub | fmul | fmin | fmax | fcmp
  deriving DecidableEq, Repr

/-- The extended arithmetic operations that the UX form carries: XOP 0x00-0x1C and 0x40 (R91, R194). -/
inductive XOp where
  | iadd | isub | imul | imulhi | imad | imin | imax | iabs | ineg | clamp | sel | shl | shr | bfe | bfi
  | fadd | fsub | fmul | fma | fmin | fmax | fdiv | fsqrt | frcp | frsqrt | fexp2 | flog2 | frint | cvt
  deriving DecidableEq, Repr

/-- The MOD fields of an arithmetic or conversion XOP (R78); `st` is STYP, and `i8` (code 0) where the XOP marks none. -/
structure XMod where
  sat : Bool
  na : Bool
  nb : Bool
  nc : Bool
  hi : Bool
  st : Ty
  deriving DecidableEq, Repr

/-! ### Arguments of the hardware steps -/

/-- What a translated access wants to do: decides the leaf check of R369 and the cache used (R370). -/
inductive AccKind where
  | fetch | read | write
  deriving DecidableEq, Repr

/-- The translation cache that a walk serves: a core's fetch or private TLB, or the TLB of one of a die's copy engines
(R370). -/
inductive WalkUnit where
  | fetch (site : Nat)
  | priv (site : Nat)
  | engine (n : Nat)
  deriving DecidableEq, Repr

/-- The queue-table registers with a write rule of their own (R343). -/
inductive QTReg where
  | qtbase | qtlog | mbtbase
  deriving DecidableEq, Repr

/-- What a patrol-scrub read of a granule finds (R386, R387). -/
inductive ScrubFinding where
  | clean
  | corrected
  | uncorrectable
  deriving DecidableEq, Repr

/-- The kinds of RESET request of the management mailbox (R423). -/
inductive ResetKind where
  | cold | warm | partition
  deriving DecidableEq, Repr

/-- An access that another package of the domain makes here through a TGT 3 address (R411). -/
structure RemoteAccess where
  pa : Nat
  write : Bool
  data : List Byte
  len : Nat
  deriving DecidableEq, Repr

/-- The contribution of another member package to a collective instance: what its participant sends (R414). -/
structure CollPart where
  pkg : Nat
  members : DWord
  op : BitVec 2
  ty : CollTy
  vals : List Word
  deriving DecidableEq, Repr

end Sys2Proof
end

