-- ==== Sys2Proof/Syntax.lean ====
section
/-!
DEFINITION. The instructions and hardware steps of the AX416: one constructor per row of spec/opcode_table.json.
The first 228 constructors are instruction words and carry the fields of their encoding that R70-R83 and R91-R95 give
them, unused fields (always zero) left out. The others are the steps that the table lists for the hardware's own
agents and carry the identifiers and outside inputs the step needs.
-/
namespace Sys2Proof

/-- One step of the part: an instruction of a group, or an indivisible step of another agent (R143). -/
inductive Instr where
  /-- `iadd.i32` (R171): Lane 32-bit wrapping add of VA and VB into VD in active lanes. -/
  | iaddI32 (g : Guard) (d a b : VReg)
  /-- `isub.i32` (R171): Lane 32-bit wrapping subtract. -/
  | isubI32 (g : Guard) (d a b : VReg)
  /-- `imul.i32` (R171): Lane low 32 bits of the product. -/
  | imulI32 (g : Guard) (d a b : VReg)
  /-- `imulhi.i32` (R171): Lane signed high 32 bits of the product. -/
  | imulhiI32 (g : Guard) (d a b : VReg)
  /-- `imulhi.n32` (R171): Lane unsigned high 32 bits of the product. -/
  | imulhiN32 (g : Guard) (d a b : VReg)
  /-- `imin.i32` (R171): Lane signed minimum. -/
  | iminI32 (g : Guard) (d a b : VReg)
  /-- `imin.n32` (R171): Lane unsigned minimum. -/
  | iminN32 (g : Guard) (d a b : VReg)
  /-- `imax.i32` (R171): Lane signed maximum. -/
  | imaxI32 (g : Guard) (d a b : VReg)
  /-- `imax.n32` (R171): Lane unsigned maximum. -/
  | imaxN32 (g : Guard) (d a b : VReg)
  /-- `and.b32` (R171): Lane bitwise and. -/
  | andB32 (g : Guard) (d a b : VReg)
  /-- `or.b32` (R171): Lane bitwise or. -/
  | orB32 (g : Guard) (d a b : VReg)
  /-- `xor.b32` (R171): Lane bitwise exclusive or. -/
  | xorB32 (g : Guard) (d a b : VReg)
  /-- `andn.b32` (R171): Lane VA and not VB. -/
  | andnB32 (g : Guard) (d a b : VReg)
  /-- `shl.b32` (R172): Lane shift left by the amount in VB. -/
  | shlB32 (g : Guard) (d a b : VReg)
  /-- `shr.n32` (R172): Lane logical shift right. -/
  | shrN32 (g : Guard) (d a b : VReg)
  /-- `shr.i32` (R172): Lane arithmetic shift right. -/
  | shrI32 (g : Guard) (d a b : VReg)
  /-- `rotl.b32` (R172): Lane rotate left by the amount mod 32. -/
  | rotlB32 (g : Guard) (d a b : VReg)
  /-- `popc.b32` (R171): Lane population count. -/
  | popcB32 (g : Guard) (d a : VReg)
  /-- `clz.b32` (R171): Lane count of leading zeros. -/
  | clzB32 (g : Guard) (d a : VReg)
  /-- `brev.b32` (R171): Lane bit reversal. -/
  | brevB32 (g : Guard) (d a : VReg)
  /-- `mov.b32` (R171): Lane 32-bit register move. -/
  | movB32 (g : Guard) (d a : VReg)
  /-- `iabs.i32` (R171): Lane signed absolute value, wrapping. -/
  | iabsI32 (g : Guard) (d a : VReg)
  /-- `ineg.i32` (R171): Lane signed negation, wrapping. -/
  | inegI32 (g : Guard) (d a : VReg)
  /-- `fadd.f32.rne` (R174): Lane f32 add rounded RNE. -/
  | faddF32 (g : Guard) (d a b : VReg)
  /-- `fsub.f32.rne` (R174): Lane f32 subtract rounded RNE. -/
  | fsubF32 (g : Guard) (d a b : VReg)
  /-- `fmul.f32.rne` (R174): Lane f32 multiply rounded RNE. -/
  | fmulF32 (g : Guard) (d a b : VReg)
  /-- `fmin.f32` (R175): Lane f32 minimum with NaN and signed-zero rules. -/
  | fminF32 (g : Guard) (d a b : VReg)
  /-- `fmax.f32` (R175): Lane f32 maximum. -/
  | fmaxF32 (g : Guard) (d a b : VReg)
  /-- `fabs.f32` (R174): Lane f32 absolute value. -/
  | fabsF32 (g : Guard) (d a : VReg)
  /-- `fneg.f32` (R174): Lane f32 negation. -/
  | fnegF32 (g : Guard) (d a : VReg)
  /-- `fadd.f64.rne` (R174): Lane f64 add rounded RNE on pairs. -/
  | faddF64 (g : Guard) (d a b : VReg)
  /-- `fsub.f64.rne` (R174): Lane f64 subtract rounded RNE. -/
  | fsubF64 (g : Guard) (d a b : VReg)
  /-- `fmul.f64.rne` (R174): Lane f64 multiply rounded RNE. -/
  | fmulF64 (g : Guard) (d a b : VReg)
  /-- `fmin.f64` (R175): Lane f64 minimum. -/
  | fminF64 (g : Guard) (d a b : VReg)
  /-- `fmax.f64` (R175): Lane f64 maximum. -/
  | fmaxF64 (g : Guard) (d a b : VReg)
  /-- `fabs.f64` (R174): Lane f64 absolute value. -/
  | fabsF64 (g : Guard) (d a : VReg)
  /-- `fneg.f64` (R174): Lane f64 negation. -/
  | fnegF64 (g : Guard) (d a : VReg)
  /-- `mov.b64` (R171): Lane 64-bit pair move. -/
  | movB64 (g : Guard) (d a : VReg)
  /-- `iadd.i64` (R171): Lane 64-bit wrapping add. -/
  | iaddI64 (g : Guard) (d a b : VReg)
  /-- `isub.i64` (R171): Lane 64-bit wrapping subtract. -/
  | isubI64 (g : Guard) (d a b : VReg)
  /-- `lit.i` (R191): Lane integer operation with a 32-bit literal as the B operand. -/
  | litI (op : LitOp) (g : Guard) (d a : VReg) (lit : Word)
  /-- `lit.f` (R191): Lane f32 operation with a literal f32 B operand. -/
  | litF (op : LitFOp) (g : Guard) (d a : VReg) (lit : Word)
  /-- `lit.mov` (R191): Writes a 32-bit literal to VD in active lanes. -/
  | litMov (g : Guard) (d : VReg) (lit : Word)
  /-- `icmp.c.i32` (R181): Lane signed 32-bit compare into predicate PD. -/
  | icmpI32 (g : Guard) (c : Cond) (p : PReg) (a b : VReg)
  /-- `icmp.c.n32` (R181): Lane unsigned 32-bit compare. -/
  | icmpN32 (g : Guard) (c : Cond) (p : PReg) (a b : VReg)
  /-- `icmp.c.i64` (R181): Lane signed 64-bit compare. -/
  | icmpI64 (g : Guard) (c : Cond) (p : PReg) (a b : VReg)
  /-- `icmp.c.n64` (R181): Lane unsigned 64-bit compare. -/
  | icmpN64 (g : Guard) (c : Cond) (p : PReg) (a b : VReg)
  /-- `fcmp.c.f32` (R181): Lane f32 compare with NaN conditions. -/
  | fcmpF32 (g : Guard) (c : Cond) (p : PReg) (a b : VReg)
  /-- `fcmp.c.f64` (R181): Lane f64 compare. -/
  | fcmpF64 (g : Guard) (c : Cond) (p : PReg) (a b : VReg)
  /-- `pand` (R182): Predicate and in active lanes. -/
  | pand (g : Guard) (p q r : PReg)
  /-- `por` (R182): Predicate or. -/
  | por (g : Guard) (p q r : PReg)
  /-- `pxor` (R182): Predicate exclusive or. -/
  | pxor (g : Guard) (p q r : PReg)
  /-- `pandn` (R182): Predicate and-not. -/
  | pandn (g : Guard) (p q r : PReg)
  /-- `xch.at.b32` (R184): Each active lane reads VA from the lane named by its operand. -/
  | xchAt (g : Guard) (d a b : VReg)
  /-- `xch.sub.b32` (R184): Each active lane reads VA from lane l minus d. -/
  | xchSub (g : Guard) (d a b : VReg)
  /-- `xch.add.b32` (R184): Each active lane reads VA from lane l plus d. -/
  | xchAdd (g : Guard) (d a b : VReg)
  /-- `xch.flip.b32` (R184): Each active lane reads VA from lane l xor d. -/
  | xchFlip (g : Guard) (d a b : VReg)
  /-- `cen.all` (R186): Writes whether the predicate holds in every active lane. -/
  | cenAll (g : Guard) (p q : PReg)
  /-- `cen.any` (R186): Writes whether the predicate holds in any active lane. -/
  | cenAny (g : Guard) (p q : PReg)
  /-- `cen.bits.b32` (R186): Writes the active-lane mask of the predicate to every active lane. -/
  | cenBits (g : Guard) (d : VReg) (q : PReg)
  /-- `get.lane` (R187): Writes the lane number into VD in active lanes. -/
  | getLane (g : Guard) (d : VReg)
  /-- `ld.S.n8` (R197): Lane load of one byte zero-extended, raising KA. -/
  | ldN8 (g : Guard) (d a : VReg) (o : MemOrder) (sc : Scope) (sp : Space)
  /-- `ld.S.i8` (R197): Lane load of one byte sign-extended. -/
  | ldI8 (g : Guard) (d a : VReg) (o : MemOrder) (sc : Scope) (sp : Space)
  /-- `ld.S.n16` (R197): Lane load of two bytes zero-extended. -/
  | ldN16 (g : Guard) (d a : VReg) (o : MemOrder) (sc : Scope) (sp : Space)
  /-- `ld.S.i16` (R197): Lane load of two bytes sign-extended. -/
  | ldI16 (g : Guard) (d a : VReg) (o : MemOrder) (sc : Scope) (sp : Space)
  /-- `ld.S.b32` (R197): Lane load of a 32-bit word. -/
  | ldB32 (g : Guard) (d a : VReg) (o : MemOrder) (sc : Scope) (sp : Space)
  /-- `ld.S.b64` (R197): Lane load of 8 bytes into a pair. -/
  | ldB64 (g : Guard) (d a : VReg) (o : MemOrder) (sc : Scope) (sp : Space)
  /-- `ld.S.b128` (R197): Lane load of 16 bytes into four registers. -/
  | ldB128 (g : Guard) (d a : VReg) (o : MemOrder) (sc : Scope) (sp : Space)
  /-- `st.S.b8` (R197): Lane store of one byte. -/
  | stB8 (g : Guard) (d a : VReg) (o : MemOrder) (sc : Scope) (sp : Space)
  /-- `st.S.b16` (R197): Lane store of two bytes. -/
  | stB16 (g : Guard) (d a : VReg) (o : MemOrder) (sc : Scope) (sp : Space)
  /-- `st.S.b32` (R197): Lane store of a 32-bit word. -/
  | stB32 (g : Guard) (d a : VReg) (o : MemOrder) (sc : Scope) (sp : Space)
  /-- `st.S.b64` (R197): Lane store of a pair. -/
  | stB64 (g : Guard) (d a : VReg) (o : MemOrder) (sc : Scope) (sp : Space)
  /-- `st.S.b128` (R197): Lane store of four registers. -/
  | stB128 (g : Guard) (d a : VReg) (o : MemOrder) (sc : Scope) (sp : Space)
  /-- `iadd.t` (R171): Extended integer add with optional saturation. -/
  | iaddExt (g : Guard) (d a b : VReg) (t : Ty) (sat : Bool)
  /-- `isub.t` (R171): Extended integer subtract with optional saturation. -/
  | isubExt (g : Guard) (d a b : VReg) (t : Ty) (sat : Bool)
  /-- `imul.t` (R171): Extended low product. -/
  | imulExt (g : Guard) (d a b : VReg) (t : Ty)
  /-- `imulhi.t` (R171): Extended high product. -/
  | imulhiExt (g : Guard) (d a b : VReg) (t : Ty)
  /-- `imad.t` (R171): Integer multiply-add with one wrap or saturation. -/
  | imad (g : Guard) (d a b c : VReg) (t : Ty) (sat : Bool)
  /-- `imin.t` (R171): Extended integer minimum. -/
  | iminExt (g : Guard) (d a b : VReg) (t : Ty)
  /-- `imax.t` (R171): Extended integer maximum. -/
  | imaxExt (g : Guard) (d a b : VReg) (t : Ty)
  /-- `iabs.t` (R171): Extended absolute value with optional saturation. -/
  | iabsExt (g : Guard) (d a : VReg) (t : Ty) (sat : Bool)
  /-- `ineg.t` (R171): Extended negation with optional saturation. -/
  | inegExt (g : Guard) (d a : VReg) (t : Ty) (sat : Bool)
  /-- `clamp.t` (R171): Clamps VA between VB and VC, integer or float. -/
  | clamp (g : Guard) (d a b c : VReg) (t : Ty)
  /-- `sel.t` (R183): Selects VA or VB per lane by a predicate. -/
  | sel (g : Guard) (d a b : VReg) (p : PReg) (t : Ty)
  /-- `shl.t` (R172): Extended shift left. -/
  | shlExt (g : Guard) (d a b : VReg) (t : Ty)
  /-- `shr.t` (R172): Extended shift right. -/
  | shrExt (g : Guard) (d a b : VReg) (t : Ty)
  /-- `bfe.t` (R173): Bit-field extract. -/
  | bfe (g : Guard) (d a b c : VReg) (t : Ty)
  /-- `bfi.b32` (R173): Bit-field insert. -/
  | bfi (g : Guard) (d a b c : VReg)
  /-- `fadd.t.rnd` (R174): Float add in the instruction's rounding mode. -/
  | faddExt (g : Guard) (d a b : VReg) (t : Ty) (rnd : Rnd) (na nb : Bool)
  /-- `fsub.t.rnd` (R174): Float subtract in the instruction's rounding mode. -/
  | fsubExt (g : Guard) (d a b : VReg) (t : Ty) (rnd : Rnd) (na nb : Bool)
  /-- `fmul.t.rnd` (R174): Float multiply in the instruction's rounding mode. -/
  | fmulExt (g : Guard) (d a b : VReg) (t : Ty) (rnd : Rnd) (na nb : Bool)
  /-- `fma.t.rnd` (R174): Fused multiply-add with one rounding. -/
  | fma (g : Guard) (d a b c : VReg) (t : Ty) (rnd : Rnd) (na nb nc : Bool)
  /-- `fmin.t` (R175): Extended float minimum with negation modifiers. -/
  | fminExt (g : Guard) (d a b : VReg) (t : Ty) (na nb : Bool)
  /-- `fmax.t` (R175): Extended float maximum. -/
  | fmaxExt (g : Guard) (d a b : VReg) (t : Ty) (na nb : Bool)
  /-- `fdiv.t.rnd` (R174): Float divide. -/
  | fdiv (g : Guard) (d a b : VReg) (t : Ty) (rnd : Rnd) (na nb : Bool)
  /-- `fsqrt.t.rnd` (R174): Float square root. -/
  | fsqrt (g : Guard) (d a : VReg) (t : Ty) (rnd : Rnd)
  /-- `frcp.t.rnd` (R174): Float reciprocal. -/
  | frcp (g : Guard) (d a : VReg) (t : Ty) (rnd : Rnd)
  /-- `frsqrt.t` (R174): Correctly rounded reciprocal square root. -/
  | frsqrt (g : Guard) (d a : VReg) (t : Ty)
  /-- `fexp2.f32` (R174): Correctly rounded base-2 exponential of f32. -/
  | fexp2 (g : Guard) (d a : VReg)
  /-- `flog2.f32` (R174): Correctly rounded base-2 logarithm of f32. -/
  | flog2 (g : Guard) (d a : VReg)
  /-- `frint.t.rnd` (R174): Rounds to an integral value in the same format. -/
  | frint (g : Guard) (d a : VReg) (t : Ty) (rnd : Rnd)
  /-- `cvt.D.S.rnd` (R176): Converts each active lane between types with rounding and saturation. -/
  | cvt (g : Guard) (d a : VReg) (t st : Ty) (rnd : Rnd) (sat hi : Bool)
  /-- `cvt.pk` (R180): Packs two f32 sources into f16 or bf16 halves. -/
  | cvtPk (g : Guard) (d a b : VReg) (t : Ty) (rnd : Rnd)
  /-- `cvt.pk4` (R180): Packs four f32 sources into FP8 bytes. -/
  | cvtPk4 (g : Guard) (d a : VReg) (t : Ty) (rnd : Rnd)
  /-- `red.add.t` (R188): Fixed-tree sum over active lanes written to every active lane. -/
  | redAdd (g : Guard) (d a : VReg) (t : Ty)
  /-- `red.min.t` (R188): Fixed-tree minimum over active lanes. -/
  | redMin (g : Guard) (d a : VReg) (t : Ty)
  /-- `red.max.t` (R188): Fixed-tree maximum over active lanes. -/
  | redMax (g : Guard) (d a : VReg) (t : Ty)
  /-- `scan.add.t` (R189): Inclusive wrapped prefix sum over active lanes. -/
  | scanAdd (g : Guard) (d a : VReg) (t : Ty)
  /-- `atm.S.add.t` (R200): Lane atomic add on team memory or die scratchpad. -/
  | atmAdd (g : Guard) (d a b : VReg) (t : Ty) (o : MemOrder) (sc : Scope) (sp : Space) (ret : Bool)
  /-- `atm.S.min.t` (R200): Lane atomic minimum. -/
  | atmMin (g : Guard) (d a b : VReg) (t : Ty) (o : MemOrder) (sc : Scope) (sp : Space) (ret : Bool)
  /-- `atm.S.max.t` (R200): Lane atomic maximum. -/
  | atmMax (g : Guard) (d a b : VReg) (t : Ty) (o : MemOrder) (sc : Scope) (sp : Space) (ret : Bool)
  /-- `atm.S.and.t` (R200): Lane atomic and. -/
  | atmAnd (g : Guard) (d a b : VReg) (t : Ty) (o : MemOrder) (sc : Scope) (sp : Space) (ret : Bool)
  /-- `atm.S.or.t` (R200): Lane atomic or. -/
  | atmOr (g : Guard) (d a b : VReg) (t : Ty) (o : MemOrder) (sc : Scope) (sp : Space) (ret : Bool)
  /-- `atm.S.xor.t` (R200): Lane atomic exclusive or. -/
  | atmXor (g : Guard) (d a b : VReg) (t : Ty) (o : MemOrder) (sc : Scope) (sp : Space) (ret : Bool)
  /-- `atm.S.xchg.t` (R200): Lane atomic exchange. -/
  | atmXchg (g : Guard) (d a b : VReg) (t : Ty) (o : MemOrder) (sc : Scope) (sp : Space) (ret : Bool)
  /-- `atm.S.cas.t` (R200): Lane atomic compare-and-swap. -/
  | atmCas (g : Guard) (d a b c : VReg) (t : Ty) (o : MemOrder) (sc : Scope) (sp : Space) (ret : Bool)
  /-- `iadd.i32` (R192): Uniform add on s registers or x pairs. -/
  | uniformIadd (d a b : SReg) (w : Bool)
  /-- `isub.i32` (R192): Uniform subtract. -/
  | uniformIsub (d a b : SReg) (w : Bool)
  /-- `imul.i32` (R192): Uniform low product. -/
  | uniformImul (d a b : SReg) (w : Bool)
  /-- `imulhi.i32` (R192): Uniform signed high product. -/
  | uniformImulhiI (d a b : SReg) (w : Bool)
  /-- `imulhi.n32` (R192): Uniform unsigned high product. -/
  | uniformImulhiN (d a b : SReg) (w : Bool)
  /-- `imin.i32` (R192): Uniform signed minimum. -/
  | uniformIminI (d a b : SReg) (w : Bool)
  /-- `imin.n32` (R192): Uniform unsigned minimum. -/
  | uniformIminN (d a b : SReg) (w : Bool)
  /-- `imax.i32` (R192): Uniform signed maximum. -/
  | uniformImaxI (d a b : SReg) (w : Bool)
  /-- `imax.n32` (R192): Uniform unsigned maximum. -/
  | uniformImaxN (d a b : SReg) (w : Bool)
  /-- `and.b32` (R192): Uniform bitwise and. -/
  | uniformAnd (d a b : SReg) (w : Bool)
  /-- `or.b32` (R192): Uniform bitwise or. -/
  | uniformOr (d a b : SReg) (w : Bool)
  /-- `xor.b32` (R192): Uniform exclusive or. -/
  | uniformXor (d a b : SReg) (w : Bool)
  /-- `andn.b32` (R192): Uniform and-not. -/
  | uniformAndn (d a b : SReg) (w : Bool)
  /-- `shl.b32` (R192): Uniform shift left. -/
  | uniformShl (d a b : SReg) (w : Bool)
  /-- `shr.n32` (R192): Uniform logical shift right. -/
  | uniformShrN (d a b : SReg) (w : Bool)
  /-- `shr.i32` (R192): Uniform arithmetic shift right. -/
  | uniformShrI (d a b : SReg) (w : Bool)
  /-- `rotl.b32` (R192): Uniform rotate left. -/
  | uniformRotl (d a b : SReg) (w : Bool)
  /-- `popc.b32` (R192): Uniform population count. -/
  | uniformPopc (d a : SReg) (w : Bool)
  /-- `clz.b32` (R192): Uniform leading-zero count. -/
  | uniformClz (d a : SReg) (w : Bool)
  /-- `brev.b32` (R192): Uniform bit reversal. -/
  | uniformBrev (d a : SReg) (w : Bool)
  /-- `mov.b32` (R192): Uniform register move. -/
  | uniformMov (d a : SReg) (w : Bool)
  /-- `icmp.c.i32` (R192): Uniform signed compare writing 1 or 0. -/
  | uniformIcmpI (d a b : SReg) (w : Bool) (c : Cond)
  /-- `icmp.c.n32` (R192): Uniform unsigned compare writing 1 or 0. -/
  | uniformIcmpN (d a b : SReg) (w : Bool) (c : Cond)
  /-- `fadd.f32.rne` (R193): Uniform f32 add RNE. -/
  | uniformFadd (d a b : SReg)
  /-- `fsub.f32.rne` (R193): Uniform f32 subtract RNE. -/
  | uniformFsub (d a b : SReg)
  /-- `fmul.f32.rne` (R193): Uniform f32 multiply RNE. -/
  | uniformFmul (d a b : SReg)
  /-- `fmin.f32` (R193): Uniform f32 minimum. -/
  | uniformFmin (d a b : SReg)
  /-- `fmax.f32` (R193): Uniform f32 maximum. -/
  | uniformFmax (d a b : SReg)
  /-- `fcmp.c.f32` (R193): Uniform f32 compare writing 1 or 0. -/
  | uniformFcmp (d a b : SReg) (c : Cond)
  /-- `op` (R79): Uniform arithmetic with LIT = 1, the literal word replacing SB or SA. -/
  | uniformLiteralForm (op : UOp) (d a : SReg) (w : Bool) (c : Cond) (lit : Word)
  /-- `op.t` (R194): UX form carrying an LX arithmetic XOP or cvt onto uniform registers. -/
  | uniformExtended (op : XOp) (d a b c : SReg) (t : Ty) (rnd : Rnd) (m : XMod) (lit : Option Word)
  /-- `bra.cond` (R260): Uniform branch of one path on a condition of SA. -/
  | bra (c : BrCond) (a : SReg) (disp : BitVec 16)
  /-- `brd` (R261): Divergent branch on a lane predicate, splitting the path and pushing a REC. -/
  | brd (p : PReg) (neg : Bool) (disp rdisp : BitVec 16)
  /-- `call` (R270): Pushes a CALL entry and jumps to the target. -/
  | call (disp : BitVec 16)
  /-- `call.fk` (R275): Forkable call that may start a speculative continuation. -/
  | callFk (disp : BitVec 16) (nret : BitVec 3) (r0 r1 r2 r3 : VReg)
  /-- `bra.ind` (R271): Indirect branch to X(SA). -/
  | braInd (a : SReg)
  /-- `call.ind` (R270): Indirect call to X(SA). -/
  | callInd (a : SReg)
  /-- `ret` (R272): Pops the innermost CALL and returns, training and resolving forks or driving the refinement controller. -/
  | ret
  /-- `exit` (R273): Ends the active lanes, merging and unwinding the split stack. -/
  | exit
  /-- `wait.k` (R138): Parks until a counter falls to a limit, then clears proven pending bits. -/
  | waitK (a : SReg) (n : BitVec 4)
  /-- `get.group` (R95): Reads the group index into SD. -/
  | getGroup (d : SReg)
  /-- `get.team.x` (R95): Reads team index x. -/
  | getTeamX (d : SReg)
  /-- `get.team.y` (R95): Reads team index y. -/
  | getTeamY (d : SReg)
  /-- `get.team.z` (R95): Reads team index z. -/
  | getTeamZ (d : SReg)
  /-- `get.grid.x` (R95): Reads grid size x. -/
  | getGridX (d : SReg)
  /-- `get.grid.y` (R95): Reads grid size y. -/
  | getGridY (d : SReg)
  /-- `get.grid.z` (R95): Reads grid size z. -/
  | getGridZ (d : SReg)
  /-- `get.core` (R95): Reads the core identifier. -/
  | getCore (d : SReg)
  /-- `get.cluster` (R95): Reads the cluster identifier. -/
  | getCluster (d : SReg)
  /-- `get.die` (R95): Reads the die number. -/
  | getDie (d : SReg)
  /-- `get.ctx` (R95): Reads the context identifier. -/
  | getCtx (d : SReg)
  /-- `get.cycle` (R95): Reads the core cycle counter into an x pair. -/
  | getCycle (d : SReg)
  /-- `get.em` (R95): Reads the execute mask. -/
  | getEm (d : SReg)
  /-- `get.lm` (R95): Reads the live mask. -/
  | getLm (d : SReg)
  /-- `get.fmt` (R95): Reads fmt zero-extended. -/
  | getFmt (d : SReg)
  /-- `em.set` (R259): Writes the top of the path's predicate stack. -/
  | emSet (a : SReg)
  /-- `pm.push` (R258): Pushes the top mask ANDed with a predicate. -/
  | pmPush (p : PReg)
  /-- `pm.inv` (R258): Inverts the top mask against the entry below. -/
  | pmInv
  /-- `pm.pop` (R258): Pops the predicate stack. -/
  | pmPop
  /-- `blk.give` (R242): Returns register blocks to the team's quadrant pool. -/
  | blkGive (n : BitVec 5)
  /-- `blk.take` (R242): Takes register blocks from the pool, parking if too few. -/
  | blkTake (n : BitVec 5)
  /-- `fmt.set` (R224): Writes fmt from a uniform register. -/
  | fmtSet (a : SReg)
  /-- `fmt.set` (R224): Writes fmt from a literal word. -/
  | fmtSetImm (lit : Word)
  /-- `nop` (R274): Changes nothing. -/
  | nop
  /-- `bcp.t1` (R202): Starts a one-dimensional bulk copy thread. -/
  | bcpT1 (a : SReg)
  /-- `bcp.t2` (R202): Starts a two-dimensional bulk copy thread. -/
  | bcpT2 (a : SReg)
  /-- `bcp.t3` (R202): Starts a three-dimensional bulk copy thread. -/
  | bcpT3 (a : SReg)
  /-- `bcp.fill` (R202): Starts a fill thread. -/
  | bcpFill (a : SReg)
  /-- `bgs.gather` (R202): Starts a gather thread. -/
  | bgsGather (a : SReg)
  /-- `bgs.scatter` (R202): Starts a scatter thread. -/
  | bgsScatter (a : SReg)
  /-- `bam.add` (R202): Starts a bulk atomic add thread. -/
  | bamAdd (a : SReg)
  /-- `bam.min` (R202): Starts a bulk atomic minimum thread. -/
  | bamMin (a : SReg)
  /-- `bam.max` (R202): Starts a bulk atomic maximum thread. -/
  | bamMax (a : SReg)
  /-- `bam.and` (R202): Starts a bulk atomic and thread. -/
  | bamAnd (a : SReg)
  /-- `bam.or` (R202): Starts a bulk atomic or thread. -/
  | bamOr (a : SReg)
  /-- `bam.xor` (R202): Starts a bulk atomic xor thread. -/
  | bamXor (a : SReg)
  /-- `bam.xchg` (R202): Starts a bulk atomic exchange thread. -/
  | bamXchg (a : SReg)
  /-- `bam.cas` (R202): Starts a bulk compare-and-swap thread. -/
  | bamCas (a : SReg)
  /-- `mld.e` (R231): Checks and queues a load of the shadow plane's element store. -/
  | mldE (a : SReg)
  /-- `mld.s` (R231): Checks and queues a load of the shadow plane's scale store. -/
  | mldS (a : SReg)
  /-- `mswp` (R232): Queues the exchange of active and shadow planes. -/
  | mswp
  /-- `mlp` (R234): Checks and queues a matrix loop. -/
  | mlp (a : SReg)
  /-- `mlp.zero` (R234): Queues a matrix loop that clears rows first. -/
  | mlpZero (a : SReg)
  /-- `mdrn` (R238): Checks and queues a drain of accumulator rows. -/
  | mdrn (a : SReg)
  /-- `mdrn.scl` (R238): Queues a scaled drain. -/
  | mdrnScl (a : SReg)
  /-- `rope.take` (R225): Takes the rope or joins the rope queue. -/
  | ropeTake
  /-- `rope.give` (R225): Releases the rope. -/
  | ropeGive
  /-- `tbar.pass` (R289): Arrives at a named team barrier without waiting for completion. -/
  | tbarPass (c : BitVec 6) (n : BitVec 4)
  /-- `tbar.hold` (R289): Arrives at a named team barrier and holds until completion. -/
  | tbarHold (c : BitVec 6) (n : BitVec 4)
  /-- `gbar.hold` (R301): Grid barrier arrival that holds or bivouacs. -/
  | gbarHold (a : SReg)
  /-- `gbar.pass` (R301): Grid barrier arrival that continues. -/
  | gbarPass (a : SReg)
  /-- `cbar.hold` (R301): Cluster barrier arrival that holds. -/
  | cbarHold (a : SReg)
  /-- `cbar.pass` (R301): Cluster barrier arrival that continues. -/
  | cbarPass (a : SReg)
  /-- `watch.S` (R292): Installs the group's cairn on a word. -/
  | watch (a : SReg) (sp : WatchSpace)
  /-- `unwatch` (R292): Releases the group's cairn if it names the offset. -/
  | unwatch (a : SReg)
  /-- `wait.w` (R292): Parks until the cairn fires, then clears FIRED. -/
  | waitW (a : SReg)
  /-- `fence.S` (R151): Waits for the path's lane accesses and joins the fence order. -/
  | fence (sc : Scope)
  /-- `tfence.S` (R156): Discards cached translations of the context within its scope. -/
  | tfence (sc : Scope)
  /-- `lnch` (R312): Takes a pending-launch entry and starts a launch thread, parking if the queue is full. -/
  | lnch (a : SReg)
  /-- `q.bell` (R359): Sends a doorbell value for a queue to the front end. -/
  | qBell (a b : SReg)
  /-- `mbx.get` (R360): Sends a mailbox get and waits for its value. -/
  | mbxGet (d a : SReg)
  /-- `mbx.put` (R360): Sends a mailbox put and waits until served. -/
  | mbxPut (a b : SReg)
  /-- `sint` (R340): Sends a soft interrupt to a queue or management core. -/
  | sint (a : SReg)
  /-- `coll.sum.t` (R412): Starts a collective sum thread. -/
  | collSum (a : SReg) (t : CollTy)
  /-- `coll.max.t` (R412): Starts a collective maximum thread. -/
  | collMax (a : SReg) (t : CollTy)
  /-- `coll.min.t` (R412): Starts a collective minimum thread. -/
  | collMin (a : SReg) (t : CollTy)
  /-- `stk.hand` (R381): Checks rights and ownership, marks the stack HANDING and starts the hand-over thread. -/
  | stkHand (stack : BitVec 4) (die : BitVec 2)
  /-- `rfl.run` (R395): Starts a refinement run and enters the solve routine. -/
  | rflRun (a : SReg)
  /-- `rfl.put` (R399): Reports residual and right-hand-side norms to the innermost controller frame. -/
  | rflPut (a b : SReg)
  /-- `trap` (R337): Raises a TRAP program fault with a code. -/
  | trap (code : BitVec 6)
  /-- `sys.rd` (R338): Reads a performance counter or PERFCTL. -/
  | sysRd (d : SReg) (n : BitVec 6)
  /-- `sys.wr` (R339): Writes PERFCTL, taking ownership and clearing counters. -/
  | sysWr (a : SReg) (n : BitVec 6)
  /-- `CLAUSE_ENTRY` (R86): A path enters a clause: fetch, header checks, WAIT test and parking. -/
  | clauseEntry
  /-- `STARVATION_PROMOTION` (R255): A path passed over for 256 cycles becomes the current path. -/
  | starvationPromotion (die site quad : Nat)
  /-- `LANE_ACCESS_COMPLETE` (R132): A lane load, store or atomic completes on path T, D or P. -/
  | laneAccessComplete (grp seq : Nat)
  /-- `WAIT_K_WAKE` (R138): A group parked on a counter wakes after the satisfying lowering. -/
  | waitKWake (grp : Nat) (slot : Bool)
  /-- `HELD_RECORD_RELEASE` (R336): A record held for a full ring is written once FRTAIL shows room. -/
  | heldRecordRelease (ctx : Nat)
  /-- `FRTAIL_REREAD` (R336): Periodic re-read of FRTAIL every 4,096 hub-die cycles while a record is held. -/
  | frtailReread (ctx : Nat)
  /-- `SPLIT_STACK_SPILL` (R268): Background write of the ninth newest split-stack position to the spill area. -/
  | splitStackSpill (grp : Nat)
  /-- `SPLIT_STACK_REFILL` (R268): Background read back of a spilled split-stack position. -/
  | splitStackRefill (grp : Nat)
  /-- `ROPE_GRANT` (R226): The head of the rope queue is granted the rope. -/
  | ropeGrant (die site : Nat)
  /-- `MATRIX_LOAD_THREAD` (R231): An mld thread reads team memory into the shadow plane and completes. -/
  | matrixLoadThread (die site : Nat)
  /-- `MSWP_EXCHANGE` (R232): The planes exchange once earlier sequencer threads complete. -/
  | mswpExchange (die site : Nat)
  /-- `MATRIX_LOOP_STEP` (R236): One K-step of a matrix loop accumulates into a row. -/
  | matrixLoopStep (die site : Nat)
  /-- `DRAIN_THREAD` (R240): A drain converts rows to the output format and writes team memory. -/
  | drainThread (die site : Nat)
  /-- `MATRIX_RELEASE` (R230): The matrix unit is reset when its team ceases to be the matrix team. -/
  | matrixRelease (die site : Nat)
  /-- `BLOCK_WAKE` (R242): A parked blk.take is satisfied by a give or exit. -/
  | blockWake (team quad : Nat)
  /-- `ENGINE_DESCRIPTOR_READ` (R211): An engine thread reads and checks its descriptor. -/
  | engineDescriptorRead (tid : Nat)
  /-- `COPY_THREAD` (R205): A copy or fill thread moves its elements. -/
  | copyThread (tid : Nat)
  /-- `GATHER_SCATTER_THREAD` (R207): A gather or scatter thread moves indexed elements. -/
  | gatherScatterThread (tid : Nat)
  /-- `BULK_ATOMIC_THREAD` (R209): A bulk atomic thread performs its element RMWs. -/
  | bulkAtomicThread (tid : Nat)
  /-- `ENGINE_COMPLETION` (R210): An engine thread writes its completion word and lowers KB. -/
  | engineCompletion (tid : Nat)
  /-- `TABLE_WALK` (R369): The translation unit walks page tables for a missing translation. -/
  | tableWalk (die ctx va : Nat) (u : WalkUnit)
  /-- `TFENCE_COMPLETE` (R156): A translation fence completes after affected accesses finish. -/
  | tfenceComplete (tid : Nat)
  /-- `GROUP_RETIRE` (R273): An exited group frees its slot once its accesses complete. -/
  | groupRetire (grp : Nat)
  /-- `GROUP_BARRIER_ARRIVAL` (R289): A group arrives at a barrier once all its live lanes are parked there. -/
  | groupBarrierArrival (grp : Nat)
  /-- `TEAM_SLOT_ARRIVAL` (R303): A team's arrival at a grid or cluster barrier slot. -/
  | teamSlotArrival (team : Nat)
  /-- `SLOT_RELEASE` (R303): A slot leaves RELEASING after its records are handed on and advances its generation. -/
  | slotRelease (slot cluster : Nat)
  /-- `BIVOUAC` (R304): A holding team with a carry set writes a bivouac record and frees its core space. -/
  | bivouac (team : Nat)
  /-- `BIVOUAC_DISPATCH` (R306): A bivouac record is placed as a team with poisoned registers. -/
  | bivouacDispatch (team : Nat)
  /-- `WAIT_W_WAKE` (R292): A group parked in wait.w wakes when its cairn fires. -/
  | waitWWake (grp : Nat) (slot : Bool)
  /-- `SPIN_RECOGNITION` (R295): The idle-loop count reaches SPINT and the group parks with a wake filter. -/
  | spinRecognition (grp : Nat)
  /-- `SPIN_WAKE` (R295): A write to a filter line wakes a recognised spin. -/
  | spinWake (grp : Nat)
  /-- `WAITING_TEAM_EVICTION` (R297): Waiting teams are evicted to make room for an absent team. -/
  | waitingTeamEviction (die ctx : Nat)
  /-- `ROTATION_EVICTION` (R299): A team whose retired count reaches QUANT is evicted. -/
  | rotationEviction (team : Nat)
  /-- `PRE_EMPTION` (R329): Lower-priority teams of other contexts are evicted for a higher-priority team. -/
  | preEmption (die team : Nat)
  /-- `TEAM_SAVE` (R330): An evicted team's image is written to the save area. -/
  | teamSave (team : Nat)
  /-- `TEAM_RESTORE` (R332): A saved team is restored onto a core. -/
  | teamRestore (team : Nat)
  /-- `TEAM_DEAL` (R361): The front end arbitrates and deals a team or cluster to a die. -/
  | teamDeal (die : Nat)
  /-- `TEAM_PLACE` (R320): A dispatcher places a team on a fitting core. -/
  | teamPlace (die ctx : Nat)
  /-- `CLUSTER_PLACE` (R322): A cluster is placed whole on a rectangle with a window. -/
  | clusterPlace (die ctx : Nat)
  /-- `TEAM_DONE` (R318): A team's last group exits and its resources are freed. -/
  | teamDone (team : Nat)
  /-- `CLASSIFIER_CLOSE` (R323): The intensity class is set when the team count closes. -/
  | classifierClose (grid : Nat)
  /-- `LAUNCH_THREAD` (R312): The launch thread reads and checks its record and passes it to the front end. -/
  | launchThread (tid : Nat)
  /-- `LAUNCH_QUEUE_WAKE` (R314): A launcher parked on a full pending-launch queue wakes when an entry frees. -/
  | launchQueueWake (die site : Nat)
  /-- `LAUNCH_ACCEPT` (R116): The front end accepts a launch, selects a variant and checks it. -/
  | launchAccept (tid : Nat)
  /-- `GRID_DISPATCH` (R310): A submitted grid gets its barrier slots and enters DISPATCHING. -/
  | gridDispatch (grid : Nat)
  /-- `GRID_RETIRE` (R310): A draining grid retires once its teams and threads end. -/
  | gridRetire (grid : Nat)
  /-- `GRID_REPORT` (R313): Writes the status word and decrements the completion word. -/
  | gridReport (grid : Nat)
  /-- `LOAD` (R327): CTXCMD LOAD reads and checks a context record. -/
  | load (ctx : Nat)
  /-- `ACTIVATE` (R327): CTXCMD ACTIVATE returns an OUT context to READY. -/
  | activate (ctx : Nat)
  /-- `SWITCH_OUT` (R327): CTXCMD SWITCH-OUT saves every resident team and stops fetch. -/
  | switchOut (ctx : Nat)
  /-- `RESUME_FAULT` (R334): CTXCMD RESUME-FAULT services a recoverable fault by sequence number. -/
  | resumeFault (ctx : Nat)
  /-- `CLEAR` (R327): CTXCMD CLEAR returns a FAULTED context to READY. -/
  | clear (ctx : Nat)
  /-- `KILL` (R327): CTXCMD KILL moves a context to DEAD. -/
  | kill (ctx : Nat)
  /-- `FREE` (R327): CTXCMD FREE returns a DEAD context to FREE. -/
  | free (ctx : Nat)
  /-- `CTXCMD_RESERVED_OP` (R326): A CTXCMD write with a reserved OP sets STATUS 4. -/
  | ctxcmdReservedOp (op ctx : Nat)
  /-- `QUEUE_CREATE` (R344): QCMD CREATE checks a QCB and activates the queue. -/
  | queueCreate (q : Nat)
  /-- `QUEUE_DESTROY` (R349): QCMD DESTROY makes the queue ABSENT. -/
  | queueDestroy (q : Nat)
  /-- `QUEUE_RESET` (R349): QCMD RESET leaves ERROR with new indices. -/
  | queueReset (q : Nat)
  /-- `QCMD_RESERVED_OP` (R343): A QCMD write with a reserved OP sets STATUS 4. -/
  | qcmdReservedOp (op q : Nat)
  /-- `QUEUE_TABLE_REGISTER_WRITE` (R343): Write of QTBASE, QTLOG or MBTBASE, discarded when not permitted. -/
  | queueTableRegisterWrite (reg : QTReg) (v : DWord)
  /-- `REGISTER_WRITE` (R406): Write to a register-window register without behaviour of its own. -/
  | registerWrite (off : Nat) (v : DWord)
  /-- `DOORBELL` (R348): A doorbell value raises TAIL by maximum or overruns. -/
  | doorbell (q : Nat) (v : DWord)
  /-- `QBELL_DELIVERY` (R359): A q.bell value reaches the doorbell. -/
  | qbellDelivery
  /-- `SINT_DELIVERY` (R340): A soft interrupt reaches its queue or management core. -/
  | sintDelivery
  /-- `PACKET_FETCH` (R350): The fetcher reads and validates the header and body at RDIDX. -/
  | packetFetch (q : Nat)
  /-- `STALL_REREAD` (R349): Timed re-read of a stalled queue's header every 4,096 hub-die cycles. -/
  | stallReread (q : Nat)
  /-- `LAUNCH_PACKET` (R353): A LAUNCH packet starts when its grid is accepted. -/
  | launchPacket (q : Nat)
  /-- `MBX_PUT_PACKET` (R353): An MBX-PUT packet sends a put request. -/
  | mbxPutPacket (q : Nat)
  /-- `MBX_GET_PACKET` (R353): An MBX-GET packet sends a get request and writes DEST when served. -/
  | mbxGetPacket (q : Nat)
  /-- `SIGNAL_PACKET` (R353): A SIGNAL packet writes VALUE at ADDR as a release. -/
  | signalPacket (q : Nat)
  /-- `MAILBOX_WAKE` (R360): A path parked on a mailbox request wakes when served. -/
  | mailboxWake (grp : Nat) (slot : Bool)
  /-- `FRONT_END_WATCHDOG` (R342): The fetcher watchdog expires after 2^24 hub-die cycles. -/
  | frontEndWatchdog (q : Nat)
  /-- `CONFIG_ECC_ERROR` (R342): Configuration-memory ECC detects a soft error in the logic block. -/
  | configEccError
  /-- `LOGIC_BLOCK_RELOAD` (R342): The recovery core finishes reloading the logic block and applies held requests. -/
  | logicBlockReload
  /-- `SENSOR_SWEEP` (R35): The PKC reads junction sensors and adjusts duties or holds the device in reset. -/
  | sensorSweep (t0 t1 t2 t3 : Nat)
  /-- `THERMAL_RELEASE` (R35): After 64 cool sweeps the PKC releases the device as a warm reset. -/
  | thermalRelease
  /-- `STACK_TRAINING_COMPLETE` (R379): A BDC ends training and the stack becomes OWNED or FAILED. -/
  | stackTrainingComplete (n : Nat) (ok : Bool)
  /-- `STACK_LOST` (R388): A BDC declares its stack lost. -/
  | stackLost (n : Nat)
  /-- `HANDOVER_DRAIN` (R382): Step 2: pre-fence accesses to the stack finish. -/
  | handoverDrain (tid : Nat)
  /-- `STACK_CACHE_FLUSH` (R382): Step 3: write-back and invalidation of the stack's lines. -/
  | stackCacheFlush (tid : Nat)
  /-- `HANDOVER_TRANSLATION_DISCARD` (R382): Step 4: translations of the stack's frames are discarded. -/
  | handoverTranslationDiscard (tid : Nat)
  /-- `PORT_SWITCH` (R382): Step 5: the BDC closes one port and opens the other. -/
  | portSwitch (tid : Nat)
  /-- `OWNERSHIP_UPDATE` (R382): Step 6: the receiving die's copy becomes OWNED. -/
  | ownershipUpdate (tid : Nat)
  /-- `HANDOVER_COMPLETE` (R382): Step 7: KB lowers and HSEQ is incremented as a release. -/
  | handoverComplete (tid : Nat)
  /-- `PATROL_SCRUB` (R386): The BDC scrubs one granule per idle channel interval. -/
  | patrolScrub (n : Nat) (found : ScrubFinding)
  /-- `REFRESH` (R386): The BDC issues DRAM refresh. -/
  | refresh (n : Nat) (temp : Nat)
  /-- `LOG_DRAIN` (R387): The PKC drains BDC log entries into the management log. -/
  | logDrain (n : Nat)
  /-- `STKSTAT_READ` (R380): A host read of STKSTAT served as an acquire at package scope. -/
  | stkstatRead (n : Nat)
  /-- `HSIG_CLEAR` (R407): Write-one-to-clear of HSIG bits. -/
  | hsigClear (mask : BitVec 4)
  /-- `HOST_READ` (R404): A host read transaction to device memory or the register window. -/
  | hostRead (addr : DWord) (size : Nat) (ord : Bool)
  /-- `HOST_WRITE` (R404): A host write transaction, ordered when ORD = 1. -/
  | hostWrite (addr : DWord) (mask data : Nat) (ord : Bool)
  /-- `REMOTE_ACCESS` (R411): A TGT 3 access served by a package within its export windows. -/
  | remoteAccess (acc : RemoteAccess)
  /-- `FLIT_REPLAY` (R409): A flit failing CRC is replayed from its sequence number. -/
  | flitReplay (p : Nat)
  /-- `REPLAY_LIMIT` (R410): Sixteen failed replays of one flit send the port to TRAINING. -/
  | replayLimit (p : Nat)
  /-- `PORT_ENABLE` (R410): The PKC enables a Horhorn port for training. -/
  | portEnable (p : Nat)
  /-- `PORT_TRAINING_RESULT` (R410): Training ends UP, DEGRADED or FAILED by lanes passed; 9 stands for an attempt that fails without a
  result of its lanes. -/
  | portTrainingResult (p lanes : Nat)
  /-- `LANE_FAILURE` (R410): A lane of an UP port fails and the port degrades. -/
  | laneFailure (p : Nat)
  /-- `PORT_DISABLE` (R410): The PKC disables a port. -/
  | portDisable (p : Nat)
  /-- `COLLECTIVE_INSTANCE` (R414): A collective instance reduces over its participants and writes every DST. -/
  | collectiveInstance (cg : Nat) (remote : List CollPart)
  /-- `POWER_GOOD` (R417): Power-good starts Stage A. -/
  | powerGood
  /-- `STAGE_A` (R417): Verifies PKC firmware and records and derives the identity key. -/
  | stageA
  /-- `STAGE_B` (R417): Loads BDC firmware and trains the stacks. -/
  | stageB
  /-- `STAGE_C` (R417): Loads the bitstream and computes the module signature. -/
  | stageC
  /-- `STAGE_D` (R417): Starts dispatchers and enables Horhorn ports. -/
  | stageD
  /-- `MGMT_STATUS` (R423): Management STATUS request. -/
  | mgmtStatus (seq : Word)
  /-- `LOG_READ` (R423): Management LOG-READ request. -/
  | logRead (seq : Word)
  /-- `ATTEST` (R422): Management ATTEST request returning a signed report. -/
  | attest (seq : Word) (nonce : Nat)
  /-- `MGMT_RESET` (R423): Management RESET request. -/
  | mgmtReset (seq : Word) (kind : ResetKind) (preserve : Bool) (dies : BitVec 4)
  /-- `FLASH_WRITE` (R420): Management FLASH-WRITE of a staged image chunk. -/
  | flashWrite (seq : Word) (slot off : Nat) (chunk : List Byte)
  /-- `MGMT_UNKNOWN_OP` (R423): An unassigned management OP replies STATUS 0xFFFF. -/
  | mgmtUnknownOp (seq : Word) (op : BitVec 16)
  /-- `COLD_RESET` (R426): Cold reset of the device. -/
  | coldReset
  /-- `WARM_RESET` (R426): Warm reset, preserving DRAM when the flag is set. -/
  | warmReset (preserve : Bool)
  /-- `PARTITION_RESET` (R426): Reset of one partition. -/
  | partitionReset (dies : BitVec 4)
  /-- `PARTITION_CHANGE` (R116): The set of dies in a context's partition changes after some grids were accepted. -/
  | partitionChange (ctx : Nat) (dies : BitVec 4)
  /-- `APERTURE_BASE_WRITE` (R405): Host firmware sets HRWBASE and HMABASE through the sideband at Stage A. -/
  | apertureBaseWrite (hrw hma : DWord)
  /-- `MODULE_LEVEL_RETRY` (R403): A UCIe module retries a failed transfer on the host attachment. -/
  | moduleLevelRetry (mod : Nat)
  /-- `LANE_REPAIR` (R403): A UCIe module repairs a failing lane of the host attachment. -/
  | laneRepair (mod lane : Nat)
  deriving DecidableEq, Repr

end Sys2Proof
end

