-- ==== Sys2Proof/Machine/Encoding.lean ====
section
/-!
DEFINITION. The encoding tables of R70-R95 that the well-formedness check, the decoder and the encoder share: the codes
of the enumerated fields, the layouts of the instruction words, and what R91 accepts for each extended operation.
-/
namespace Sys2Proof

/-! ### Codes of the enumerated fields -/

/-- COND codes (R72). -/
def Cond.code : Cond → BitVec 4
  | .eq => 0 | .ne => 1 | .lt => 2 | .le => 3 | .gt => 4 | .ge => 5 | .num => 6 | .nan => 7

/-- The condition of a COND code; codes 8-15 are reserved (R72). -/
def Cond.ofCode (c : BitVec 4) : Option Cond :=
  match c.toNat with
  | 0 => some .eq | 1 => some .ne | 2 => some .lt | 3 => some .le | 4 => some .gt | 5 => some .ge
  | 6 => some .num | 7 => some .nan | _ => none

/-- The conditions `num` and `nan` are valid only in floating-point compares (R72). -/
def Cond.isFloatOnly : Cond → Bool
  | .num | .nan => true
  | _ => false

/-- TYP codes (R77). -/
def Ty.code : Ty → BitVec 4
  | .i8 => 0 | .i16 => 1 | .i32 => 2 | .i64 => 3 | .n8 => 4 | .n16 => 5 | .n32 => 6 | .n64 => 7
  | .b32 => 8 | .b64 => 9 | .f16 => 10 | .bf16 => 11 | .f32 => 12 | .f64 => 13 | .e4m3 => 14 | .e5m2 => 15

/-- The type of a TYP code (R77). -/
def Ty.ofCode (c : BitVec 4) : Ty :=
  match c.toNat with
  | 0 => .i8 | 1 => .i16 | 2 => .i32 | 3 => .i64 | 4 => .n8 | 5 => .n16 | 6 => .n32 | 7 => .n64
  | 8 => .b32 | 9 => .b64 | 10 => .f16 | 11 => .bf16 | 12 => .f32 | 13 => .f64 | 14 => .e4m3 | _ => .e5m2

/-- The types whose operands are register pairs (R5). -/
def Ty.is64 : Ty → Bool
  | .i64 | .n64 | .b64 | .f64 => true
  | _ => false

/-- The width of a type in bits (R47, R39, R42). -/
def Ty.bits : Ty → Nat
  | .i8 | .n8 | .e4m3 | .e5m2 => 8
  | .i16 | .n16 | .f16 | .bf16 => 16
  | .i32 | .n32 | .b32 | .f32 => 32
  | .i64 | .n64 | .b64 | .f64 => 64

/-- The signed and unsigned integer types (R47). -/
def Ty.isInt : Ty → Bool
  | .i8 | .i16 | .i32 | .i64 | .n8 | .n16 | .n32 | .n64 => true
  | _ => false

/-- The signed integer types. -/
def Ty.isSigned : Ty → Bool
  | .i8 | .i16 | .i32 | .i64 => true
  | _ => false

/-- The floating-point types. -/
def Ty.isFloat : Ty → Bool
  | .f16 | .bf16 | .f32 | .f64 | .e4m3 | .e5m2 => true
  | _ => false

/-- Rounding codes (R53). -/
def Rnd.code : Rnd → BitVec 3
  | .rne => 0 | .rz => 1 | .sr => 2 | .ru => 3 | .rd => 4

/-- The mode of a rounding code; 5-7 are reserved (R53). -/
def Rnd.ofCode (c : BitVec 3) : Option Rnd :=
  match c.toNat with
  | 0 => some .rne | 1 => some .rz | 2 => some .sr | 3 => some .ru | 4 => some .rd | _ => none

/-- ORD codes of R74 and, for atomics, R78. -/
def MemOrder.code : MemOrder → BitVec 2
  | .plain => 0 | .acq => 1 | .rel => 2 | .acqRel => 3

/-- The order of an ORD code (R74, R78). -/
def MemOrder.ofCode (c : BitVec 2) : MemOrder :=
  match c.toNat with
  | 0 => .plain | 1 => .acq | 2 => .rel | _ => .acqRel

/-- SCOPE codes, in the order of R4 (R74). -/
def Scope.code : Scope → BitVec 3
  | .grp => 0 | .team => 1 | .core => 2 | .clu => 3 | .die => 4 | .pkg => 5 | .dom => 6 | .sys => 7

/-- The scope of a SCOPE code (R74). -/
def Scope.ofCode (c : BitVec 3) : Scope :=
  match c.toNat with
  | 0 => .grp | 1 => .team | 2 => .core | 3 => .clu | 4 => .die | 5 => .pkg | 6 => .dom | _ => .sys

/-- SP codes (R74). -/
def Space.code : Space → BitVec 2
  | .team => 0 | .die => 1 | .priv => 2

/-- The space of an SP code; 3 is reserved (R74). -/
def Space.ofCode (c : BitVec 2) : Option Space :=
  match c.toNat with
  | 0 => some .team | 1 => some .die | 2 => some .priv | _ => none

/-- BC codes (R81). -/
def BrCond.code : BrCond → BitVec 3
  | .always => 0 | .z => 1 | .nz => 2 | .neg => 3 | .nneg => 4

/-- The branch condition of a BC code; 5-7 are reserved (R81). -/
def BrCond.ofCode (c : BitVec 3) : Option BrCond :=
  match c.toNat with
  | 0 => some .always | 1 => some .z | 2 => some .nz | 3 => some .neg | 4 => some .nneg | _ => none

/-- The space codes of `watch` (R94). -/
def WatchSpace.code : WatchSpace → BitVec 6
  | .t => 0 | .d => 1 | .p => 2 | .m => 3

/-- The watch space of an SB field; bits 5:2 must be zero (R292). -/
def WatchSpace.ofCode (c : BitVec 6) : Option WatchSpace :=
  match c.toNat with
  | 0 => some .t | 1 => some .d | 2 => some .p | 3 => some .m | _ => none

/-- The type codes of a collective (R94). -/
def CollTy.code : CollTy → BitVec 4
  | .f32 => 0 | .bf16 => 1 | .i32 => 2

/-- The type of a collective's code; 3-15 are reserved (R94). -/
def CollTy.ofCode (c : BitVec 4) : Option CollTy :=
  match c.toNat with
  | 0 => some .f32 | 1 => some .bf16 | 2 => some .i32 | _ => none

/-- SUBOP codes of `lit.i` (R73, R90). -/
def LitOp.code : LitOp → BitVec 7
  | .iadd => 0x00 | .isub => 0x01 | .imul => 0x02 | .imulhiI => 0x03 | .imulhiN => 0x04 | .iminI => 0x05
  | .iminN => 0x06 | .imaxI => 0x07 | .imaxN => 0x08 | .and => 0x09 | .or => 0x0A | .xor => 0x0B | .andn => 0x0C
  | .shl => 0x0D | .shrN => 0x0E | .shrI => 0x0F | .rotl => 0x10

/-- The operation of a `lit.i` SUBOP (R73, R191). -/
def LitOp.ofCode (c : BitVec 7) : Option LitOp :=
  match c.toNat with
  | 0x00 => some .iadd | 0x01 => some .isub | 0x02 => some .imul | 0x03 => some .imulhiI | 0x04 => some .imulhiN
  | 0x05 => some .iminI | 0x06 => some .iminN | 0x07 => some .imaxI | 0x08 => some .imaxN | 0x09 => some .and
  | 0x0A => some .or | 0x0B => some .xor | 0x0C => some .andn | 0x0D => some .shl | 0x0E => some .shrN
  | 0x0F => some .shrI | 0x10 => some .rotl | _ => none

/-- SUBOP codes of `lit.f` (R73). -/
def LitFOp.code : LitFOp → BitVec 7
  | .fadd => 0x18 | .fsub => 0x19 | .fmul => 0x1A | .fmin => 0x1B | .fmax => 0x1C

/-- The operation of a `lit.f` SUBOP (R73, R191). -/
def LitFOp.ofCode (c : BitVec 7) : Option LitFOp :=
  match c.toNat with
  | 0x18 => some .fadd | 0x19 => some .fsub | 0x1A => some .fmul | 0x1B => some .fmin | 0x1C => some .fmax | _ => none

/-- The opcodes of the uniform operations that accept a literal (R93). -/
def UOp.code : UOp → BitVec 6
  | .iadd => 0x00 | .isub => 0x01 | .imul => 0x02 | .imulhiI => 0x03 | .imulhiN => 0x04 | .iminI => 0x05
  | .iminN => 0x06 | .imaxI => 0x07 | .imaxN => 0x08 | .and => 0x09 | .or => 0x0A | .xor => 0x0B | .andn => 0x0C
  | .shl => 0x0D | .shrN => 0x0E | .shrI => 0x0F | .rotl => 0x10 | .mov => 0x14 | .icmpI => 0x15 | .icmpN => 0x16
  | .fadd => 0x17 | .fsub => 0x18 | .fmul => 0x19 | .fmin => 0x1A | .fmax => 0x1B | .fcmp => 0x1C

/-- The operation of a uniform opcode (R93). -/
def UOp.ofCode (c : BitVec 6) : Option UOp :=
  match c.toNat with
  | 0x00 => some .iadd | 0x01 => some .isub | 0x02 => some .imul | 0x03 => some .imulhiI | 0x04 => some .imulhiN
  | 0x05 => some .iminI | 0x06 => some .iminN | 0x07 => some .imaxI | 0x08 => some .imaxN | 0x09 => some .and
  | 0x0A => some .or | 0x0B => some .xor | 0x0C => some .andn | 0x0D => some .shl | 0x0E => some .shrN
  | 0x0F => some .shrI | 0x10 => some .rotl | 0x14 => some .mov | 0x15 => some .icmpI | 0x16 => some .icmpN
  | 0x17 => some .fadd | 0x18 => some .fsub | 0x19 => some .fmul | 0x1A => some .fmin | 0x1B => some .fmax
  | 0x1C => some .fcmp | _ => none

/-- The compares write one register and use COND (R79, R192). -/
def UOp.isCompare : UOp → Bool
  | .icmpI | .icmpN | .fcmp => true
  | _ => false

/-- The float operations take no W64 (R79, R193). -/
def UOp.isFloat : UOp → Bool
  | .fadd | .fsub | .fmul | .fmin | .fmax | .fcmp => true
  | _ => false

/-- The operations whose letter is i, whose 64-bit literal is sign-extended (R79, R93). -/
def UOp.isSigned : UOp → Bool
  | .iadd | .isub | .imul | .imulhiI | .iminI | .imaxI | .shrI | .icmpI => true
  | _ => false

/-- XOP codes (R91). -/
def XOp.code : XOp → BitVec 8
  | .iadd => 0x00 | .isub => 0x01 | .imul => 0x02 | .imulhi => 0x03 | .imad => 0x04 | .imin => 0x05 | .imax => 0x06
  | .iabs => 0x07 | .ineg => 0x08 | .clamp => 0x09 | .sel => 0x0A | .shl => 0x0B | .shr => 0x0C | .bfe => 0x0D
  | .bfi => 0x0E | .fadd => 0x10 | .fsub => 0x11 | .fmul => 0x12 | .fma => 0x13 | .fmin => 0x14 | .fmax => 0x15
  | .fdiv => 0x16 | .fsqrt => 0x17 | .frcp => 0x18 | .frsqrt => 0x19 | .fexp2 => 0x1A | .flog2 => 0x1B
  | .frint => 0x1C | .cvt => 0x40

/-- The operation of an XOP code that both LX and UX carry (R91, R194). -/
def XOp.ofCode (c : BitVec 8) : Option XOp :=
  match c.toNat with
  | 0x00 => some .iadd | 0x01 => some .isub | 0x02 => some .imul | 0x03 => some .imulhi | 0x04 => some .imad
  | 0x05 => some .imin | 0x06 => some .imax | 0x07 => some .iabs | 0x08 => some .ineg | 0x09 => some .clamp
  | 0x0A => some .sel | 0x0B => some .shl | 0x0C => some .shr | 0x0D => some .bfe | 0x0E => some .bfi
  | 0x10 => some .fadd | 0x11 => some .fsub | 0x12 => some .fmul | 0x13 => some .fma | 0x14 => some .fmin
  | 0x15 => some .fmax | 0x16 => some .fdiv | 0x17 => some .fsqrt | 0x18 => some .frcp | 0x19 => some .frsqrt
  | 0x1A => some .fexp2 | 0x1B => some .flog2 | 0x1C => some .frint | 0x40 => some .cvt | _ => none

/-! ### What R91 accepts for an extended operation -/

/-- One row of R91: whether the operation reads B and C, the types it accepts, the rounding modes it accepts, and the
MOD bits it marks. -/
structure XSpec where
  b : Bool
  c : Bool
  tys : List Ty
  rnds : List Rnd
  sat : Bool
  na : Bool
  nb : Bool
  nc : Bool

/-- The integer types of the arithmetic rows of R91. -/
def intTys : List Ty := [.i32, .n32, .i64, .n64]
/-- The rounding modes of an arithmetic row that rounds (R91). -/
def ieeeRnds : List Rnd := [.rne, .rz, .ru, .rd]

/-- The rows 0x00-0x1C of R91; `cvt` has its own rules (R176). -/
def XOp.spec : XOp → XSpec
  | .iadd => ⟨true, false, intTys, [.rne], true, false, false, false⟩
  | .isub => ⟨true, false, intTys, [.rne], true, false, false, false⟩
  | .imul => ⟨true, false, intTys, [.rne], false, false, false, false⟩
  | .imulhi => ⟨true, false, intTys, [.rne], false, false, false, false⟩
  | .imad => ⟨true, true, intTys, [.rne], true, false, false, false⟩
  | .imin => ⟨true, false, intTys, [.rne], false, false, false, false⟩
  | .imax => ⟨true, false, intTys, [.rne], false, false, false, false⟩
  | .iabs => ⟨false, false, [.i32, .i64], [.rne], true, false, false, false⟩
  | .ineg => ⟨false, false, [.i32, .i64], [.rne], true, false, false, false⟩
  | .clamp => ⟨true, true, intTys ++ [.f32, .f64], [.rne], false, false, false, false⟩
  | .sel => ⟨true, true, [.b32, .b64], [.rne], false, false, false, false⟩
  | .shl => ⟨true, false, [.b32, .b64], [.rne], false, false, false, false⟩
  | .shr => ⟨true, false, intTys, [.rne], false, false, false, false⟩
  | .bfe => ⟨true, true, [.i32, .n32], [.rne], false, false, false, false⟩
  | .bfi => ⟨true, true, [.b32], [.rne], false, false, false, false⟩
  | .fadd => ⟨true, false, [.f32, .f64], ieeeRnds, false, true, true, false⟩
  | .fsub => ⟨true, false, [.f32, .f64], ieeeRnds, false, true, true, false⟩
  | .fmul => ⟨true, false, [.f32, .f64], ieeeRnds, false, true, true, false⟩
  | .fma => ⟨true, true, [.f32, .f64], ieeeRnds, false, true, true, true⟩
  | .fmin => ⟨true, false, [.f32, .f64], [.rne], false, true, true, false⟩
  | .fmax => ⟨true, false, [.f32, .f64], [.rne], false, true, true, false⟩
  | .fdiv => ⟨true, false, [.f32, .f64], ieeeRnds, false, true, true, false⟩
  | .fsqrt => ⟨false, false, [.f32, .f64], ieeeRnds, false, false, false, false⟩
  | .frcp => ⟨false, false, [.f32, .f64], ieeeRnds, false, false, false, false⟩
  | .frsqrt => ⟨false, false, [.f32, .f64], [.rne], false, false, false, false⟩
  | .fexp2 => ⟨false, false, [.f32], [.rne], false, false, false, false⟩
  | .flog2 => ⟨false, false, [.f32], [.rne], false, false, false, false⟩
  | .frint => ⟨false, false, [.f32, .f64], ieeeRnds, false, false, false, false⟩
  | .cvt => ⟨false, false, [], [.rne], true, false, false, false⟩

/-- A floating-to-floating conversion is exact in the pairs that R177 lists. -/
def exactPair (d st : Ty) : Bool :=
  match d, st with
  | .f64, .f16 | .f64, .bf16 | .f64, .f32 | .f64, .e4m3 | .f64, .e5m2 => true
  | .f32, .f16 | .f32, .bf16 | .f32, .e4m3 | .f32, .e5m2 => true
  | .f16, .e4m3 | .f16, .e5m2 | .bf16, .e4m3 | .bf16, .e5m2 => true
  | _, _ => false

/-- The type pairs of `cvt`: distinct, and neither of them a b type (R91). -/
def cvtTys (d st : Ty) : Bool :=
  d != st && (d.isInt || d.isFloat) && (st.isInt || st.isFloat)

/-- The rounding modes that `cvt` accepts for a type pair (R176). -/
def cvtRnds (d st : Ty) : List Rnd :=
  if d.isInt && st.isInt then [.rne]
  else if d.isInt || st.isInt || exactPair d st then ieeeRnds
  else [.rne, .rz, .sr, .ru, .rd]

/-- SAT in a `cvt` needs two integer types, HI a source f16 or bf16 (R91, R176). -/
def cvtMods (d st : Ty) (sat hi : Bool) : Bool :=
  (!sat || (d.isInt && st.isInt)) && (!hi || st == .f16 || st == .bf16)

/-- The rounding modes of the packing conversions (R180). -/
def packRnds : List Rnd := [.rne, .rz, .ru, .rd, .sr]

/-- The types of the lane atomics 0x80-0x82, and of 0x83-0x87 (R91). -/
def atomicArithTys : List Ty := [.i32, .n32, .i64, .n64, .f32]
def atomicBitTys : List Ty := [.b32, .b64]

/-- A register field of an operand of type `t`: even where the operand is a pair (R6). -/
def pairOk {n : Nat} (wide : Bool) (r : BitVec n) : Bool := !wide || r.toNat % 2 == 0

/-- The bits of ORD, SCOPE and SP that R199 accepts in a lane atomic. -/
def atomicMods (o : MemOrder) (sc : Scope) (sp : Space) : Bool :=
  sp != .priv && (o != .plain || sc == .grp)

/-- The order, scope and space combinations of R75. -/
def memMods (store : Bool) (o : MemOrder) (sc : Scope) (sp : Space) : Bool :=
  o != .acqRel && !(o == .rel && !store) && !(o == .acq && store) && (o != .plain || sc == .grp)
    && (sp != .priv || o == .plain)

/-- The compare conditions an integer or a float compare accepts (R72). -/
def condOk (float : Bool) (c : Cond) : Bool := float || !c.isFloatOnly

/-! ### Word layouts -/

/-- Bits lo+n-1:lo of a word. -/
def fld {w : Nat} (x : BitVec w) (lo n : Nat) : BitVec n := x.extractLsb' lo n

/-- The lane form LR, and with other names for its fields LL and the first word of LX (R70, R73, R76). -/
def packLR (opc : BitVec 7) (g : BitVec 3) (d a b : BitVec 7) : Word := 0#1 ++ opc ++ g ++ d ++ a ++ b
/-- Bits 6:0 of LM: ORD, SCOPE, SP (R74). -/
def packLM (o : BitVec 2) (sc : BitVec 3) (sp : BitVec 2) : BitVec 7 := o ++ sc ++ sp
/-- Bits 20:14 of a lane compare: COND, PD (R71). -/
def packCP (c : BitVec 4) (p : BitVec 3) : BitVec 7 := c ++ p
/-- The extension word of LX (R76). -/
def packLX (c : BitVec 7) (x : BitVec 8) (t : BitVec 4) (r : BitVec 3) (m : BitVec 10) : Word := c ++ x ++ t ++ r ++ m
/-- MOD of an arithmetic XOP (R78). -/
def packArith (sat na nb nc : Bool) : BitVec 10 :=
  BitVec.ofBool sat ++ BitVec.ofBool na ++ BitVec.ofBool nb ++ BitVec.ofBool nc ++ 0#6
/-- MOD of a conversion (R78). -/
def packCvt (sat hi : Bool) (st : BitVec 4) : BitVec 10 := BitVec.ofBool sat ++ 0#4 ++ BitVec.ofBool hi ++ st
/-- MOD of an atomic (R78). -/
def packAtomic (o : BitVec 2) (sc : BitVec 3) (sp : BitVec 2) (ret : Bool) : BitVec 10 :=
  o ++ sc ++ sp ++ BitVec.ofBool ret ++ 0#2
/-- The uniform register form UR (R79). -/
def packUR (opc d a b : BitVec 6) (sub : BitVec 7) : Word := 1#1 ++ opc ++ d ++ a ++ b ++ sub
/-- SUB of the uniform arithmetic opcodes: LIT, W64, 0, COND (R79). -/
def packSub (lit w : Bool) (c : BitVec 4) : BitVec 7 := BitVec.ofBool lit ++ BitVec.ofBool w ++ 0#1 ++ c
/-- A SUB field whose bits 6:4 are an operation and bits 3:0 an operand (R94). -/
def packOp (op : BitVec 3) (x : BitVec 4) : BitVec 7 := op ++ x
/-- The extension word of UX (R80). -/
def packUX (c : BitVec 6) (x : BitVec 8) (t : BitVec 4) (r : BitVec 3) (m : BitVec 10) : Word :=
  c ++ x ++ t ++ r ++ 0#1 ++ m
/-- The uniform branch form UB (R81). -/
def packUB (opc : BitVec 6) (bc : BitVec 3) (a : BitVec 6) (disp : BitVec 16) : Word := 1#1 ++ opc ++ bc ++ a ++ disp
/-- The first word of `brd` (R82). -/
def packUD (p : BitVec 3) (neg : Bool) (disp : BitVec 16) : Word :=
  1#1 ++ 0x21#6 ++ p ++ BitVec.ofBool neg ++ 0#5 ++ disp
/-- The second word of `call.fk` (R83). -/
def packUF (n : BitVec 3) (r3 r2 r1 r0 : BitVec 7) : Word := 0#1 ++ n ++ r3 ++ r2 ++ r1 ++ r0
/-- A clause header (R84). -/
def packHeader (wait : BitVec 12) (ka kb : BitVec 4) (len : BitVec 5) : Word := 0x7F#7 ++ wait ++ ka ++ kb ++ len

end Sys2Proof
end

