-- ==== Sys2Proof/Machine/Number.lean ====
section
/-!
DEFINITION. Number formats and rounding (spec/02_number_formats.md): exact values, decoding a bit pattern to its value,
and Round into a format.
-/
namespace Sys2Proof

/-! ### Exact values -/

/-- The value of a floating-point operand or result before rounding. `fin neg m e rest` is the value
(-1)^neg * x with x = m * 2^e when `rest` is false, and m * 2^e < x < (m + 1) * 2^e when it is true. -/
inductive Num where
  | nan
  | inf (neg : Bool)
  | fin (neg : Bool) (m : Nat) (e : Int) (rest : Bool)
  deriving DecidableEq, Repr

/-- The exact value (-1)^neg * m * 2^e. -/
def Num.exact (neg : Bool) (m : Nat) (e : Int) : Num := .fin neg m e false

/-- Zero with a sign. -/
def Num.zero (neg : Bool) : Num := .fin neg 0 0 false

/-- An integer as a value; an exact integer zero is +0 (R54). -/
def Num.ofInt (x : Int) : Num := .exact (x < 0) x.natAbs 0

/-- The value with its sign reversed; NaN has none. -/
def Num.neg : Num → Num
  | .nan => .nan
  | .inf s => .inf !s
  | .fin s m e r => .fin (!s) m e r

/-- The value with sign bit 0. -/
def Num.abs : Num → Num
  | .nan => .nan
  | .inf _ => .inf false
  | .fin _ m e r => .fin false m e r

/-- The sign of a value that is not NaN. -/
def Num.sign : Num → Bool
  | .nan => false
  | .inf s => s
  | .fin s _ _ _ => s

/-! ### Formats -/

/-- A floating-point format: fraction bits, bias, the largest finite magnitude code, the infinity's code if it has one,
the canonical NaN's code, and the width (R39, R41, R42). -/
structure Fmt where
  fbits : Nat
  ebits : Nat
  bias : Nat
  maxCode : Nat
  inf : Option Nat
  nan : Nat
  deriving DecidableEq, Repr

def Fmt.f64 : Fmt := ⟨52, 11, 1023, 0x7FEFFFFFFFFFFFFF, some 0x7FF0000000000000, 0x7FF8000000000000⟩
def Fmt.f32 : Fmt := ⟨23, 8, 127, 0x7F7FFFFF, some 0x7F800000, 0x7FC00000⟩
def Fmt.f16 : Fmt := ⟨10, 5, 15, 0x7BFF, some 0x7C00, 0x7E00⟩
def Fmt.bf16 : Fmt := ⟨7, 8, 127, 0x7F7F, some 0x7F80, 0x7FC0⟩
def Fmt.e4m3 : Fmt := ⟨3, 4, 7, 0x7E, none, 0x7F⟩
def Fmt.e5m2 : Fmt := ⟨2, 5, 15, 0x7B, some 0x7C, 0x7E⟩

/-- The width of a format in bits. -/
def Fmt.width (f : Fmt) : Nat := 1 + f.ebits + f.fbits

/-- The format of a floating-point type. -/
def Ty.fmt : Ty → Fmt
  | .f64 => .f64 | .f16 => .f16 | .bf16 => .bf16 | .e4m3 => .e4m3 | .e5m2 => .e5m2 | _ => .f32

/-- The exponent of the least significant bit of the subnormals and of the first normal binade. -/
def Fmt.qmin (f : Fmt) : Int := 1 - (f.bias : Int) - f.fbits

/-- The value of a bit pattern (R39, R42). -/
def Fmt.value (f : Fmt) (x : Nat) : Num :=
  let mag := x % 2 ^ (f.ebits + f.fbits)
  let neg := x / 2 ^ (f.ebits + f.fbits) % 2 == 1
  let e := mag / 2 ^ f.fbits
  let frac := mag % 2 ^ f.fbits
  if mag ≤ f.maxCode then
    if e = 0 then .exact neg frac f.qmin else .exact neg (2 ^ f.fbits + frac) (f.qmin + (e - 1 : Nat))
  else if f.inf = some mag then .inf neg
  else .nan

/-! ### Round (R53-R58) -/

/-- Whether a magnitude that lies strictly between two neighbours of the grid goes to the upper one. The lower one is
`n` units with remainder `r` out of `d`; `rest` says that the remainder is larger than `r` by less than 1; `rho` is the
random value of R59. -/
def roundsUp (mode : Rnd) (neg : Bool) (n r d : Nat) (rest : Bool) (rho : Nat) : Bool :=
  match mode with
  | .rne => d < 2 * r || (2 * r == d && (rest || n % 2 == 1))
  | .rz => false
  | .sr => 65536 ≤ r * 65536 / d + rho
  | .ru => !neg
  | .rd => neg

/-- The multiple of 2^q that `m * 2^e` (with `rest`) rounds to, in units of 2^q. -/
def roundUnits (mode : Rnd) (neg : Bool) (m : Nat) (e : Int) (rest : Bool) (rho : Nat) (q : Int) : Nat :=
  if q ≤ e then m * 2 ^ (e - q).toNat
  else
    let d := 2 ^ (q - e).toNat
    let n := m / d
    let r := m % d
    if r = 0 && !rest then n else if roundsUp mode neg n r d rest rho then n + 1 else n

/-- A sign and a magnitude code as a bit pattern. -/
def Fmt.pack (f : Fmt) (neg : Bool) (mag : Nat) : Nat := (if neg then 2 ^ (f.ebits + f.fbits) else 0) + mag

/-- Round(x, f, mode) as a bit pattern (R54-R56). -/
def Fmt.round (f : Fmt) (mode : Rnd) (rho : Nat) (x : Num) : Nat :=
  match x with
  | .nan => f.nan
  | .inf neg =>
    match f.inf with
    | some c => f.pack neg c
    | none => f.nan
  | .fin neg m e rest =>
    if m = 0 && !rest then f.pack neg 0
    else
      let top : Int := (if m = 0 then 0 else m.log2 : Nat) + e
      let q := max f.qmin (top - f.fbits)
      let n := roundUnits mode neg m e rest rho q
      let mag := n + (q - f.qmin).toNat * 2 ^ f.fbits
      if mag ≤ f.maxCode then f.pack neg mag
      else
        match f.inf with
        | none => f.pack neg f.maxCode
        | some c => if mode = .rne || (mode = .ru && !neg) || (mode = .rd && neg) then f.pack neg c else f.pack neg f.maxCode

/-- The integer that a finite value rounds to (R54). -/
def roundToInt (mode : Rnd) (neg : Bool) (m : Nat) (e : Int) (rest : Bool) : Int :=
  let n : Int := roundUnits mode neg m e rest 0 0
  if neg then -n else n

/-! ### Integer types -/

/-- The least and the greatest value of an integer type (R47). -/
def Ty.lo (t : Ty) : Int := if t.isSigned then -(2 ^ (t.bits - 1) : Nat) else 0
def Ty.hi (t : Ty) : Int := if t.isSigned then (2 ^ (t.bits - 1) : Nat) - 1 else (2 ^ t.bits : Nat) - 1

/-- x clamped to the range of integer type t (R8). -/
def Ty.sat (t : Ty) (x : Int) : Int := max t.lo (min x t.hi)

/-- x modulo 2^b as a b-bit pattern (R8). -/
def wrap (x : Int) (b : Nat) : Nat := (x % (2 ^ b : Nat)).toNat

/-- A bit pattern read as a b-bit two's-complement value (R8). -/
def sext (x b : Nat) : Int :=
  let y := x % 2 ^ b
  if b = 0 then 0 else if y < 2 ^ (b - 1) then y else (y : Int) - (2 ^ b : Nat)

/-- The value that type t gives a bit pattern: SExt for i types, ZExt for n and b types (R171). -/
def Ty.int (t : Ty) (x : Nat) : Int := if t.isSigned then sext x t.bits else (x % 2 ^ t.bits : Nat)

/-- A conversion from a floating-point value to an integer type (R57). -/
def floatToInt (t : Ty) (mode : Rnd) : Num → Int
  | .nan => 0
  | .inf neg => if neg then t.lo else t.hi
  | .fin neg m e rest => t.sat (roundToInt mode neg m e rest)

/-! ### Stochastic rounding (R59) -/

/-- rho(j) from the low 16 bits of the source values of the two neighbours. -/
def rho (left right : Nat) : Nat :=
  let h : Word := BitVec.ofNat 32 (left % 65536 * 65536 + right % 65536)
  let h := h ^^^ (h >>> 16)
  let h := h * 0x6C8E9CF5#32
  let h := h ^^^ (h >>> 15)
  let h := h * 0xB2A74D3B#32
  let h := h ^^^ (h >>> 16)
  h.toNat / 65536

/-- rho(j) of element j of a row of source values (R59). -/
def rhoAt (row : List Nat) (j : Nat) : Nat :=
  let n := row.length
  rho (row.getD ((j + n - 1) % n) 0) (row.getD ((j + 1) % n) 0)

end Sys2Proof
end

