-- ==== Sys2Proof/Machine/Arith.lean ====
section
/-!
DEFINITION. What the arithmetic operations compute on bit patterns (R171-R180): integer operations, floating-point
operations and conversions, each once for the lane and the uniform forms.
-/
namespace Sys2Proof

/-! ### Integer operations (R171-R173) -/

/-- The exact integer result of a two-source operation of R171 on operands read in their type. -/
inductive IntOp where
  | add | sub | mul | min | max
  deriving DecidableEq, Repr

/-- `a op b` computed exactly (R171). -/
def IntOp.eval (op : IntOp) (a b : Int) : Int :=
  match op with
  | .add => a + b | .sub => a - b | .mul => a * b | .min => if a ≤ b then a else b | .max => if a ≤ b then b else a

/-- A result written as Wrap, or as Sat when SAT is set (R171). -/
def intResult (t : Ty) (sat : Bool) (x : Int) : Nat := wrap (if sat then t.sat x else x) t.bits

/-- A two-source integer operation in type t. -/
def intBin (op : IntOp) (t : Ty) (sat : Bool) (a b : Nat) : Nat := intResult t sat (op.eval (t.int a) (t.int b))

/-- The high half of the product (R171). -/
def intMulHi (t : Ty) (a b : Nat) : Nat := wrap (t.int a * t.int b / (2 ^ t.bits : Nat)) t.bits

/-- Multiply-add with one Wrap or Sat (R171). -/
def intMad (t : Ty) (sat : Bool) (a b c : Nat) : Nat := intResult t sat (t.int a * t.int b + t.int c)

/-- Absolute value; the minimum wraps to itself or saturates (R171). -/
def intAbs (t : Ty) (sat : Bool) (a : Nat) : Nat := intResult t sat (t.int a).natAbs

/-- Negation; the minimum wraps to itself or saturates (R171). -/
def intNeg (t : Ty) (sat : Bool) (a : Nat) : Nat := intResult t sat (-(t.int a))

/-- min(max(a, b), c) (R171). -/
def intClamp (t : Ty) (a b c : Nat) : Nat := wrap (min (max (t.int a) (t.int b)) (t.int c)) t.bits

/-- Number of 1 bits of a w-bit pattern. -/
def popCount (w a : Nat) : Nat := ((List.range w).filter fun i => a.testBit i).length

/-- Number of leading 0 bits of a w-bit pattern. -/
def leadingZeros (w a : Nat) : Nat := if a % 2 ^ w = 0 then w else w - 1 - (a % 2 ^ w).log2

/-- The pattern with bit i moved to bit w - 1 - i. -/
def bitReverse (w a : Nat) : Nat := (List.range w).foldl (fun r i => 2 * r + (if a.testBit i then 1 else 0)) 0

/-- Shift left; 0 when n ≥ w (R172). -/
def shiftLeft (w a n : Nat) : Nat := if w ≤ n then 0 else a * 2 ^ n % 2 ^ w

/-- Shift right in type t, floor(a / 2^n) (R172). -/
def shiftRight (t : Ty) (a n : Nat) : Nat :=
  if t.bits ≤ n then (if t.int a < 0 then 2 ^ t.bits - 1 else 0) else wrap (t.int a / (2 ^ n : Nat)) t.bits

/-- Rotate left by n mod w (R172, R192). -/
def rotateLeft (w a n : Nat) : Nat :=
  let k := n % w
  (a * 2 ^ k + a % 2 ^ w / 2 ^ (w - k)) % 2 ^ w

/-- `bfe` (R173): start s and length n as 32-bit values. -/
def bitExtract (t : Ty) (a s n : Nat) : Nat :=
  let n := min n 32
  let y := (t.int a / (2 ^ min s 64 : Nat) % (2 ^ n : Nat)).toNat
  if n = 0 then 0 else if t.isSigned then wrap (sext y n) 32 else y

/-- `bfi` (R173): c holds the start in bits 7:0 and the length in bits 15:8. -/
def bitInsert (a b c : Nat) : Nat :=
  let s := c % 256
  let n := c / 256 % 256
  let top := min (s + n) 32
  let m := if s < top then 2 ^ top - 2 ^ s else 0
  (a &&& (2 ^ 32 - 1 - m)) ||| ((b * 2 ^ min s 32) &&& m)

/-! ### Floating-point operations (R174, R175) -/

/-- The sign of an exact zero sum whose terms have opposite sign (R174). -/
def zeroSign (mode : Rnd) : Bool := mode == .rd

/-- The exact sum of two values (R174). -/
def Num.add (mode : Rnd) (x y : Num) : Num :=
  match x, y with
  | .nan, _ | _, .nan => .nan
  | .inf s, .inf s' => if s = s' then .inf s else .nan
  | .inf s, .fin .. => .inf s
  | .fin .., .inf s => .inf s
  | .fin s m e _, .fin s' m' e' _ =>
    let q := min e e'
    let a : Int := (m * 2 ^ (e - q).toNat : Nat)
    let b : Int := (m' * 2 ^ (e' - q).toNat : Nat)
    let sum := (if s then -a else a) + (if s' then -b else b)
    if sum = 0 then .zero (if s = s' then s else zeroSign mode) else .exact (sum < 0) sum.natAbs q

/-- The exact product of two values (R174). -/
def Num.mul (x y : Num) : Num :=
  match x, y with
  | .nan, _ | _, .nan => .nan
  | .inf s, .inf s' => .inf (s != s')
  | .inf s, .fin s' m _ _ | .fin s' m _ _, .inf s => if m = 0 then .nan else .inf (s != s')
  | .fin s m e _, .fin s' m' e' _ => .exact (s != s') (m * m') (e + e')

/-- The quotient to more bits than `bits`, with the remainder told by `rest` (R174). -/
def Num.div (bits : Nat) (x y : Num) : Num :=
  match x, y with
  | .nan, _ | _, .nan => .nan
  | .inf _, .inf _ => .nan
  | .inf s, .fin s' _ _ _ => .inf (s != s')
  | .fin s _ _ _, .inf s' => .zero (s != s')
  | .fin s m e _, .fin s' m' e' _ =>
    if m' = 0 then (if m = 0 then .nan else .inf (s != s'))
    else if m = 0 then .zero (s != s')
    else
      let k := m'.log2 + bits + 4 - m.log2
      .fin (s != s') (m * 2 ^ k / m') (e - e' - k) (m * 2 ^ k % m' != 0)

/-- The integer square root, bit by bit from bit k - 1 down. -/
def isqrtFrom (n : Nat) : Nat → Nat → Nat
  | 0, r => r
  | k + 1, r => isqrtFrom n k (if (r + 2 ^ k) * (r + 2 ^ k) ≤ n then r + 2 ^ k else r)

/-- The largest r with r * r ≤ n. -/
def isqrt (n : Nat) : Nat := isqrtFrom n (n.log2 / 2 + 1) 0

/-- A value m * 2^e written with an even exponent. -/
def evenExp (m : Nat) (e : Int) : Nat × Int := if e % 2 = 0 then (m, e) else (2 * m, e - 1)

/-- The square root to more bits than `bits` (R174). -/
def Num.sqrt (bits : Nat) : Num → Num
  | .nan => .nan
  | .inf s => if s then .nan else .inf false
  | .fin s m e _ =>
    if m = 0 then .zero s
    else if s then .nan
    else
      let (m, e) := evenExp m e
      let k := bits + 4
      let n := m * 2 ^ (2 * k)
      let r := isqrt n
      .fin false r (e / 2 - k) (r * r != n)

/-- The reciprocal square root to more bits than `bits` (R174). -/
def Num.rsqrt (bits : Nat) : Num → Num
  | .nan => .nan
  | .inf s => if s then .nan else .zero false
  | .fin s m e _ =>
    if m = 0 then .inf s
    else if s then .nan
    else
      let (m, e) := evenExp m e
      let k := bits + 6 + m.log2
      let r := isqrt (2 ^ (2 * k) / m)
      .fin false r (-(e / 2) - k) (r * r * m != 2 ^ (2 * k))

/-- Fixed-point precision of the two transcendental operations, in fraction bits. -/
def transBits : Nat := 256

/-- ln 2 in units of 2^-transBits, from the series of artanh(1/3). -/
def ln2 : Nat :=
  ((List.range 90).foldl (fun (acc : Nat × Nat) i => (acc.1 + 2 * acc.2 / (2 * i + 1), acc.2 / 9))
    (0, 2 ^ transBits / 3)).1

/-- 2^frac in units of 2^-transBits, for a fraction in the same units (R174). -/
def exp2Frac (frac : Nat) : Nat :=
  let x := frac * ln2 / 2 ^ transBits
  ((List.range 70).foldl (fun (acc : Nat × Nat) i => (acc.1 + acc.2, acc.2 * x / 2 ^ transBits / (i + 1)))
    (0, 2 ^ transBits)).1

/-- 2^x: exact for an integer x, else to more than 200 bits (R174; DEDUCED: assumption 14). -/
def Num.exp2 : Num → Num
  | .nan => .nan
  | .inf s => if s then .zero false else .inf false
  | .fin s m e _ =>
    if m = 0 then .exact false 1 0
    else if 10 < (m.log2 : Int) + e then (if s then .fin false 0 (-2000) true else .exact false 1 2000)
    else if 0 ≤ e then
      let n : Int := (m * 2 ^ e.toNat : Nat)
      .exact false 1 (if s then -n else n)
    else
      let d := 2 ^ (-e).toNat
      let n : Int := if s then -((m + d - 1) / d : Nat) else (m / d : Nat)
      let frac := if s then ((m + d - 1) / d) * d - m else m % d
      if frac = 0 then .exact false 1 n
      else .fin false (exp2Frac (frac * 2 ^ transBits / d)) (n - transBits) true

/-- log2 of y in [1, 2), both in units of 2^-transBits (R174). -/
def log2Frac (y : Nat) : Nat :=
  let one := 2 ^ transBits
  let t := (y - one) * one / (y + one)
  let t2 := t * t / one
  let s := ((List.range 90).foldl (fun (acc : Nat × Nat) i => (acc.1 + acc.2 / (2 * i + 1), acc.2 * t2 / one)) (0, t)).1
  2 * s * one / ln2

/-- log2 x: exact for a power of two, else to more than 150 bits (R174; DEDUCED: assumption 14). -/
def Num.log2 : Num → Num
  | .nan => .nan
  | .inf s => if s then .nan else .inf false
  | .fin s m e _ =>
    if m = 0 then .inf true
    else if s then .nan
    else
      let k : Int := m.log2 + e
      if m = 2 ^ m.log2 then (if k = 0 then .zero false else .ofInt k)
      else
        let frac := log2Frac (m * 2 ^ transBits / 2 ^ m.log2)
        let v : Int := k * (2 ^ transBits : Nat) + (frac : Nat)
        .fin (v < 0) v.natAbs (-(transBits : Int)) true

/-- Whether x < y, for values that are not NaN and not infinite: compared as integers at a common exponent. -/
def finLt (s : Bool) (m : Nat) (e : Int) (s' : Bool) (m' : Nat) (e' : Int) : Bool :=
  let q := min e e'
  let a : Int := (m * 2 ^ (e - q).toNat : Nat)
  let b : Int := (m' * 2 ^ (e' - q).toNat : Nat)
  decide ((if s then -a else a) < (if s' then -b else b))

/-- x < y numerically; false when either is NaN (R181). -/
def Num.lt (x y : Num) : Bool :=
  match x, y with
  | .nan, _ | _, .nan => false
  | .inf s, .inf s' => s && !s'
  | .inf s, .fin .. => s
  | .fin .., .inf s => !s
  | .fin s m e _, .fin s' m' e' _ => finLt s m e s' m' e'

/-- Whether a value is NaN. -/
def Num.isNan : Num → Bool
  | .nan => true
  | _ => false

/-- x = y numerically, -0 and +0 equal; false when either is NaN (R181). -/
def Num.eq (x y : Num) : Bool := !x.isNan && !y.isNan && !x.lt y && !y.lt x

/-- The order of R175: numeric, with -0 below +0. -/
def Num.below (x y : Num) : Bool := x.lt y || (x.eq y && x.sign && !y.sign)

/-- fmin and fmax (R175) on patterns: the other source where exactly one is NaN, unchanged. -/
def floatPick (f : Fmt) (max : Bool) (a b : Nat) : Nat :=
  let x := f.value a
  let y := f.value b
  match x.isNan, y.isNan with
  | true, true => f.nan
  | true, false => b
  | false, true => a
  | false, false => if max then (if x.below y then b else a) else (if y.below x then b else a)

/-- The float clamp, min(max(a, b), c), NaN if any source is NaN (R175). -/
def floatClamp (f : Fmt) (a b c : Nat) : Nat :=
  if (f.value a).isNan || (f.value b).isNan || (f.value c).isNan then f.nan
  else floatPick f false (floatPick f true a b) c

/-- The two- and three-source operations that round. -/
inductive FloatOp where
  | add | sub | mul | div
  deriving DecidableEq, Repr

/-- A two-source operation of R174. -/
def floatBin (op : FloatOp) (f : Fmt) (mode : Rnd) (x y : Num) : Nat :=
  f.round mode 0
    (match op with
    | .add => x.add mode y
    | .sub => x.add mode y.neg
    | .mul => x.mul y
    | .div => x.div f.fbits y)

/-- fma, one rounding; 0 times infinity gives NaN whatever c is (R174). -/
def floatFma (f : Fmt) (mode : Rnd) (x y z : Num) : Nat := f.round mode 0 ((x.mul y).add mode z)

/-- frint: an integral value in the same format, sign kept (R174). -/
def floatRint (f : Fmt) (mode : Rnd) : Num → Nat
  | .fin s m e r =>
    f.round mode 0 (.exact s (roundToInt mode s m e r).natAbs 0)
  | x => f.round mode 0 x

/-- The one-source operations of R174. -/
inductive FloatUn where
  | sqrt | rcp | rsqrt | exp2 | log2 | rint | abs | neg
  deriving DecidableEq, Repr

/-- A one-source operation of R174. -/
def floatUn (op : FloatUn) (f : Fmt) (mode : Rnd) (x : Num) : Nat :=
  match op with
  | .sqrt => f.round mode 0 (x.sqrt f.fbits)
  | .rcp => f.round mode 0 (Num.div f.fbits (.exact false 1 0) x)
  | .rsqrt => f.round .rne 0 (x.rsqrt f.fbits)
  | .exp2 => f.round .rne 0 x.exp2
  | .log2 => f.round .rne 0 x.log2
  | .rint => floatRint f mode x
  | .abs => f.round .rne 0 x.abs
  | .neg => f.round .rne 0 x.neg

/-- A source value with its NA, NB or NC modifier applied (R174). -/
def Num.negIf (n : Bool) (x : Num) : Num := if n then x.neg else x

/-- A source pattern of `fmin` or `fmax` with its modifier applied; a NaN keeps its bits (R174, R175). -/
def negBits (f : Fmt) (n : Bool) (x : Nat) : Nat :=
  if n && !(f.value x).isNan then x ^^^ 2 ^ (f.ebits + f.fbits) else x

/-! ### Conversions (R176-R179) -/

/-- A result narrower than 32 bits as it fills a 32-bit register (R179). -/
def fill32 (t : Ty) (x : Nat) : Nat := if t.isSigned then wrap (sext x t.bits) (max 32 t.bits) else x

/-- The value of a pattern of an integer or floating-point type. -/
def Ty.num (t : Ty) (x : Nat) : Num := if t.isInt then .ofInt (t.int x) else t.fmt.value x

/-- `cvt.D.S`: the source bits at S's width, the result at D's width (R176, R177). -/
def convert (d st : Ty) (mode : Rnd) (sat : Bool) (rho x : Nat) : Nat :=
  if d.isInt then
    if st.isInt then intResult d sat (st.int x) else wrap (floatToInt d mode (st.fmt.value x)) d.bits
  else d.fmt.round mode rho (st.num x)

/-- The two-source floating-point operations of R190, rounded RNE (R174, R175). -/
def LitFOp.eval (op : LitFOp) (f : Fmt) (a b : Nat) : Nat :=
  match op with
  | .fadd => floatBin .add f .rne (f.value a) (f.value b)
  | .fsub => floatBin .sub f .rne (f.value a) (f.value b)
  | .fmul => floatBin .mul f .rne (f.value a) (f.value b)
  | .fmin => floatPick f false a b
  | .fmax => floatPick f true a b

end Sys2Proof
end

