-- ==== Sys2Proof/WellFormed.lean ====
section
/-!
DEFINITION. Well-formed instructions: the combinations of fields that R6, R71-R83, R91-R95 and the instructions' own
rules accept. The decoder gives only these, and a term that breaks one of the checks has no encoding. For a hardware
step the check bounds the identifiers by what the part has (R15, R21, R32).
-/
namespace Sys2Proof

/-- An extended arithmetic operation's type, rounding and modifiers are among those of its row of R91. -/
def XOp.accepts (op : XOp) (t : Ty) (rnd : Rnd) (m : XMod) : Bool :=
  op.spec.tys.contains t && op.spec.rnds.contains rnd && (!m.sat || op.spec.sat) && (!m.na || op.spec.na)
    && (!m.nb || op.spec.nb) && (!m.nc || op.spec.nc) && !m.hi && m.st == .i8

/-- The modifiers of a lane form that carries only these. -/
def laneMod (sat na nb nc : Bool) : XMod := ⟨sat, na, nb, nc, false, .i8⟩

/-- The lane form of an operation whose register operands are D, A and the listed others, all of its type. -/
def xWf (op : XOp) (t : Ty) (rnd : Rnd) (m : XMod) (regs : List VReg) : Bool :=
  op.accepts t rnd m && regs.all (pairOk t.is64)

/-- A lane load or store: the data register's alignment and R75. -/
def memWf (k : Nat) (store : Bool) (d : VReg) (o : MemOrder) (sc : Scope) (sp : Space) : Bool :=
  d.toNat % k == 0 && memMods store o sc sp

/-- A lane atomic (R91, R199). -/
def atomicWf (tys : List Ty) (d : VReg) (bs : List VReg) (t : Ty) (o : MemOrder) (sc : Scope) (sp : Space) (ret : Bool) :
    Bool :=
  tys.contains t && atomicMods o sc sp && bs.all (pairOk t.is64) && (if ret then pairOk t.is64 d else d == 0)

/-- The uniform extended form (R80, R194). -/
def uxWf (op : XOp) (d a b c : SReg) (t : Ty) (rnd : Rnd) (m : XMod) (lit : Option Word) : Bool :=
  match op with
  | .cvt =>
    cvtTys t m.st && (cvtRnds t m.st).contains rnd && cvtMods t m.st m.sat m.hi && !m.na && !m.nb && !m.nc
      && pairOk t.is64 d && pairOk m.st.is64 a && b == 0 && c == 0 && lit == none
  | op =>
    op.accepts t rnd m && pairOk t.is64 d && pairOk t.is64 a
      && (if op.spec.b && lit == none then pairOk t.is64 b else b == 0)
      && (if op.spec.c then op == .sel || pairOk t.is64 c else c == 0)
      && (op.spec.b || lit == none)

/-- The literal form of a uniform arithmetic opcode (R79, R93). -/
def ulWf (op : UOp) (d a : SReg) (w : Bool) (c : Cond) : Bool :=
  (!op.isFloat || !w) && (op.isCompare || c == .eq) && condOk op.isFloat c && (op.isCompare || pairOk w d)
    && (if op == .mov then a == 0 else pairOk w a)

/-- The register form of a uniform operation on s registers or x pairs (R79). -/
def ubWf (w : Bool) (regs : List SReg) : Bool := regs.all (pairOk w)

/-- The fields of an instruction are ones that its encoding accepts. -/
def Instr.wf : Instr → Bool
  -- one-word lane arithmetic on 32-bit registers
  | .iaddI32 .. | .isubI32 .. | .imulI32 .. | .imulhiI32 .. | .imulhiN32 .. | .iminI32 .. | .iminN32 .. | .imaxI32 ..
  | .imaxN32 .. | .andB32 .. | .orB32 .. | .xorB32 .. | .andnB32 .. | .shlB32 .. | .shrN32 .. | .shrI32 .. | .rotlB32 ..
  | .popcB32 .. | .clzB32 .. | .brevB32 .. | .movB32 .. | .iabsI32 .. | .inegI32 .. | .faddF32 .. | .fsubF32 ..
  | .fmulF32 .. | .fminF32 .. | .fmaxF32 .. | .fabsF32 .. | .fnegF32 .. | .litI .. | .litF .. | .litMov ..
  | .pand .. | .por .. | .pxor .. | .pandn .. | .xchAt .. | .xchSub .. | .xchAdd .. | .xchFlip .. | .cenAll ..
  | .cenAny .. | .cenBits .. | .getLane .. => true
  -- one-word lane arithmetic on pairs
  | .faddF64 _ d a b | .fsubF64 _ d a b | .fmulF64 _ d a b | .fminF64 _ d a b | .fmaxF64 _ d a b | .iaddI64 _ d a b
  | .isubI64 _ d a b => pairOk true d && pairOk true a && pairOk true b
  | .fabsF64 _ d a | .fnegF64 _ d a | .movB64 _ d a => pairOk true d && pairOk true a
  -- lane compares
  | .icmpI32 _ c .. | .icmpN32 _ c .. => condOk false c
  | .icmpI64 _ c _ a b | .icmpN64 _ c _ a b => condOk false c && pairOk true a && pairOk true b
  | .fcmpF32 .. => true
  | .fcmpF64 _ _ _ a b => pairOk true a && pairOk true b
  -- lane memory
  | .ldN8 _ d _ o sc sp | .ldI8 _ d _ o sc sp | .ldN16 _ d _ o sc sp | .ldI16 _ d _ o sc sp | .ldB32 _ d _ o sc sp =>
    memWf 1 false d o sc sp
  | .ldB64 _ d _ o sc sp => memWf 2 false d o sc sp
  | .ldB128 _ d _ o sc sp => memWf 4 false d o sc sp
  | .stB8 _ d _ o sc sp | .stB16 _ d _ o sc sp | .stB32 _ d _ o sc sp => memWf 1 true d o sc sp
  | .stB64 _ d _ o sc sp => memWf 2 true d o sc sp
  | .stB128 _ d _ o sc sp => memWf 4 true d o sc sp
  -- lane extended arithmetic
  | .iaddExt _ d a b t sat => xWf .iadd t .rne (laneMod sat false false false) [d, a, b]
  | .isubExt _ d a b t sat => xWf .isub t .rne (laneMod sat false false false) [d, a, b]
  | .imulExt _ d a b t => xWf .imul t .rne (laneMod false false false false) [d, a, b]
  | .imulhiExt _ d a b t => xWf .imulhi t .rne (laneMod false false false false) [d, a, b]
  | .imad _ d a b c t sat => xWf .imad t .rne (laneMod sat false false false) [d, a, b, c]
  | .iminExt _ d a b t => xWf .imin t .rne (laneMod false false false false) [d, a, b]
  | .imaxExt _ d a b t => xWf .imax t .rne (laneMod false false false false) [d, a, b]
  | .iabsExt _ d a t sat => xWf .iabs t .rne (laneMod sat false false false) [d, a]
  | .inegExt _ d a t sat => xWf .ineg t .rne (laneMod sat false false false) [d, a]
  | .clamp _ d a b c t => xWf .clamp t .rne (laneMod false false false false) [d, a, b, c]
  | .sel _ d a b _ t => xWf .sel t .rne (laneMod false false false false) [d, a, b]
  | .shlExt _ d a _ t => xWf .shl t .rne (laneMod false false false false) [d, a]
  | .shrExt _ d a _ t => xWf .shr t .rne (laneMod false false false false) [d, a]
  | .bfe _ d a b c t => xWf .bfe t .rne (laneMod false false false false) [d, a, b, c]
  | .bfi .. => true
  | .faddExt _ d a b t rnd na nb => xWf .fadd t rnd (laneMod false na nb false) [d, a, b]
  | .fsubExt _ d a b t rnd na nb => xWf .fsub t rnd (laneMod false na nb false) [d, a, b]
  | .fmulExt _ d a b t rnd na nb => xWf .fmul t rnd (laneMod false na nb false) [d, a, b]
  | .fma _ d a b c t rnd na nb nc => xWf .fma t rnd (laneMod false na nb nc) [d, a, b, c]
  | .fminExt _ d a b t na nb => xWf .fmin t .rne (laneMod false na nb false) [d, a, b]
  | .fmaxExt _ d a b t na nb => xWf .fmax t .rne (laneMod false na nb false) [d, a, b]
  | .fdiv _ d a b t rnd na nb => xWf .fdiv t rnd (laneMod false na nb false) [d, a, b]
  | .fsqrt _ d a t rnd => xWf .fsqrt t rnd (laneMod false false false false) [d, a]
  | .frcp _ d a t rnd => xWf .frcp t rnd (laneMod false false false false) [d, a]
  | .frsqrt _ d a t => xWf .frsqrt t .rne (laneMod false false false false) [d, a]
  | .fexp2 .. | .flog2 .. => true
  | .frint _ d a t rnd => xWf .frint t rnd (laneMod false false false false) [d, a]
  | .cvt _ d a t st rnd sat hi =>
    cvtTys t st && (cvtRnds t st).contains rnd && cvtMods t st sat hi && pairOk t.is64 d && pairOk st.is64 a
  | .cvtPk _ _ _ _ t rnd => (t == .f16 || t == .bf16) && packRnds.contains rnd
  | .cvtPk4 _ _ a t rnd => (t == .e4m3 || t == .e5m2) && packRnds.contains rnd && a.toNat % 4 == 0
  | .redAdd _ _ _ t | .redMin _ _ _ t | .redMax _ _ _ t => t == .i32 || t == .n32 || t == .f32
  | .scanAdd _ _ _ t => t == .i32 || t == .n32
  -- lane atomics
  | .atmAdd _ d _ b t o sc sp rt | .atmMin _ d _ b t o sc sp rt | .atmMax _ d _ b t o sc sp rt =>
    atomicWf atomicArithTys d [b] t o sc sp rt
  | .atmAnd _ d _ b t o sc sp rt | .atmOr _ d _ b t o sc sp rt | .atmXor _ d _ b t o sc sp rt
  | .atmXchg _ d _ b t o sc sp rt => atomicWf atomicBitTys d [b] t o sc sp rt
  | .atmCas _ d _ b c t o sc sp rt => atomicWf atomicBitTys d [b, c] t o sc sp rt
  -- uniform arithmetic
  | .uniformIadd d a b w | .uniformIsub d a b w | .uniformImul d a b w | .uniformImulhiI d a b w
  | .uniformImulhiN d a b w | .uniformIminI d a b w | .uniformIminN d a b w | .uniformImaxI d a b w
  | .uniformImaxN d a b w | .uniformAnd d a b w | .uniformOr d a b w | .uniformXor d a b w | .uniformAndn d a b w
  | .uniformShl d a b w | .uniformShrN d a b w | .uniformShrI d a b w | .uniformRotl d a b w => ubWf w [d, a, b]
  | .uniformPopc d a w | .uniformClz d a w | .uniformBrev d a w | .uniformMov d a w => ubWf w [d, a]
  | .uniformIcmpI _ a b w c | .uniformIcmpN _ a b w c => condOk false c && ubWf w [a, b]
  | .uniformFadd .. | .uniformFsub .. | .uniformFmul .. | .uniformFmin .. | .uniformFmax .. | .uniformFcmp .. => true
  | .uniformLiteralForm op d a w c _ => ulWf op d a w c
  | .uniformExtended op d a b c t rnd m lit => uxWf op d a b c t rnd m lit
  -- control
  | .bra c a _ => c != .always || a == 0
  | .brd .. | .call .. => true
  | .callFk _ n r0 r1 r2 r3 =>
    n.toNat ≤ 4 && (0 < n.toNat || r0 == 0) && (1 < n.toNat || r1 == 0) && (2 < n.toNat || r2 == 0)
      && (3 < n.toNat || r3 == 0)
  | .braInd a | .callInd a => pairOk true a
  | .ret | .exit | .nop => true
  | .waitK _ n => n.toNat ≤ 11
  | .getCycle d => pairOk true d
  | .getGroup .. | .getTeamX .. | .getTeamY .. | .getTeamZ .. | .getGridX .. | .getGridY .. | .getGridZ .. | .getCore ..
  | .getCluster .. | .getDie .. | .getCtx .. | .getEm .. | .getLm .. | .getFmt .. => true
  | .emSet .. | .pmPush .. | .pmInv | .pmPop | .fmtSet .. => true
  | .blkGive n | .blkTake n => 1 ≤ n.toNat && n.toNat ≤ 16
  | .fmtSetImm lit => lit.toNat < 2 ^ 15
  -- engine and matrix commands
  | .bcpT1 .. | .bcpT2 .. | .bcpT3 .. | .bcpFill .. | .bgsGather .. | .bgsScatter .. | .bamAdd .. | .bamMin .. | .bamMax ..
  | .bamAnd .. | .bamOr .. | .bamXor .. | .bamXchg .. | .bamCas .. | .mldE .. | .mldS .. | .mswp | .mlp .. | .mlpZero ..
  | .mdrn .. | .mdrnScl .. | .ropeTake | .ropeGive => true
  -- barriers and watches
  | .tbarPass c n | .tbarHold c n => c.toNat ≤ 16 && (c == 0) == (n == 0)
  | .gbarHold .. | .gbarPass .. | .cbarHold .. | .cbarPass .. | .watch .. | .unwatch .. | .waitW .. | .fence .. | .tfence .. =>
    true
  -- launches, queues, collectives, stacks, refinement, system
  | .lnch .. | .sint .. | .collSum .. | .collMax .. | .collMin .. | .rflRun .. | .trap .. => true
  | .qBell _ b | .mbxPut _ b => pairOk true b
  | .mbxGet d _ => pairOk true d
  | .stkHand n die => die.toNat == n.toNat / 4 || die.toNat == (n.toNat / 4 + 1) % 4
  | .rflPut a b => pairOk true a && pairOk true b
  | .sysRd d n => n.toNat == 16 || (n.toNat ≤ 11 && pairOk true d)
  | .sysWr _ n => n.toNat == 16
  -- hardware steps of cores, dies, stacks, ports, contexts and queues
  | .starvationPromotion die site quad => die < 4 && site < 156 && quad < 4
  | .ropeGrant die site | .matrixLoadThread die site | .mswpExchange die site | .matrixLoopStep die site
  | .drainThread die site | .matrixRelease die site | .launchQueueWake die site => die < 4 && site < 156
  | .tableWalk die ctx va _ => die < 4 && ctx < 4096 && va < 2 ^ 52
  | .waitingTeamEviction die ctx | .teamPlace die ctx | .clusterPlace die ctx => die < 4 && ctx < 4096
  | .preEmption die _ => die < 4
  | .teamDeal die => die < 4
  | .blockWake _ quad => quad < 4
  | .heldRecordRelease ctx | .frtailReread ctx | .load ctx | .activate ctx | .switchOut ctx | .resumeFault ctx
  | .clear ctx | .kill ctx | .free ctx | .partitionChange ctx _ => ctx < 4096
  | .ctxcmdReservedOp op _ => op == 0 || 7 < op
  | .queueCreate q | .queueDestroy q | .queueReset q | .doorbell q _ | .packetFetch q | .stallReread q
  | .launchPacket q | .mbxPutPacket q | .mbxGetPacket q | .signalPacket q | .frontEndWatchdog q => q < 2 ^ 20
  | .qcmdReservedOp op _ => op == 0 || 3 < op
  | .stackTrainingComplete n _ | .stackLost n | .patrolScrub n _ | .refresh n _ | .logDrain n | .stkstatRead n => n < 16
  | .flitReplay p | .replayLimit p | .portEnable p | .laneFailure p | .portDisable p => p < 16
  | .portTrainingResult p lanes => p < 16 && lanes ≤ 9
  | .collectiveInstance cg _ => cg < 256
  | .attest _ nonce => nonce < 2 ^ 256
  | .flashWrite _ _ _ chunk => chunk.length ≤ 56
  | .moduleLevelRetry m => m < 4
  | .laneRepair m _ => m < 4
  -- hardware steps of one group, team, thread or grid, and of the host, the links and the package controller
  | .clauseEntry | .laneAccessComplete .. | .waitKWake .. | .splitStackSpill .. | .splitStackRefill ..
  | .engineDescriptorRead .. | .copyThread .. | .gatherScatterThread .. | .bulkAtomicThread .. | .engineCompletion ..
  | .tfenceComplete .. | .groupRetire .. | .groupBarrierArrival .. | .teamSlotArrival .. | .slotRelease .. | .bivouac ..
  | .bivouacDispatch .. | .waitWWake .. | .spinRecognition .. | .spinWake .. | .rotationEviction .. | .teamSave ..
  | .teamRestore .. | .teamDone .. | .classifierClose .. | .launchThread .. | .launchAccept .. | .gridDispatch ..
  | .gridRetire .. | .gridReport .. | .queueTableRegisterWrite .. | .registerWrite .. | .qbellDelivery | .sintDelivery
  | .mailboxWake .. | .configEccError | .logicBlockReload | .sensorSweep .. | .thermalRelease | .handoverDrain ..
  | .stackCacheFlush .. | .handoverTranslationDiscard .. | .portSwitch .. | .ownershipUpdate .. | .handoverComplete ..
  | .hsigClear .. | .hostRead .. | .hostWrite .. | .remoteAccess .. | .powerGood | .stageA | .stageB | .stageC | .stageD
  | .mgmtStatus .. | .logRead .. | .mgmtReset .. | .mgmtUnknownOp .. | .coldReset
  | .warmReset .. | .partitionReset .. | .apertureBaseWrite .. => true

end Sys2Proof
end

