-- ==== Sys2Proof/Decode.lean ====
section
/-!
DEFINITION. The decoder, total on any words and rejecting by name (R68-R83, R90-R96), the encoder written from the
same tables, and the reading of a word of spec/opcode_table.json.
-/
namespace Sys2Proof

/-- Why words are no instruction: R96's two fates with the word that decides them (0 the first), or words that run past
the clause's last word (R85). -/
inductive DecodeError where
  | illegal (word : Nat)
  | reserved (word : Nat)
  | length
  deriving DecidableEq, Repr

/-- One check on a word: whether it fails, whether it is an ILLEGAL-OPCODE check, and which word decides it (R88). -/
structure Check where
  bad : Bool
  illegal : Bool
  word : Nat

/-- A RESERVED-BITS check on word `k`. -/
def rsv (bad : Bool) (k : Nat := 0) : Check := ⟨bad, false, k⟩
/-- An ILLEGAL-OPCODE check on word `k`. -/
def ill (bad : Bool) (k : Nat := 0) : Check := ⟨bad, true, k⟩

/-- The failing check that R13 reports first: ILLEGAL-OPCODE before RESERVED-BITS, and of one kind the one on the
earliest word. A check on a word that the clause does not hold is not made; the instruction then runs past its clause,
which comes after the checks on the words it has (DEDUCED: assumption 12). -/
def settle (avail size : Nat) (cs : List Check) (i : Instr) : Except DecodeError Instr :=
  let bad := cs.filter fun c => c.bad && c.word < avail
  let words (ill : Bool) := (bad.filter (·.illegal == ill)).map (·.word)
  match (words true).min? with
  | some k => .error (.illegal k)
  | none =>
    match (words false).min? with
    | some k => .error (.reserved k)
    | none => if avail < size then .error .length else .ok i

/-- A register field that must name an even register where the operand is a pair (R6). -/
def evenChk {n : Nat} (wide : Bool) (r : BitVec n) (k : Nat := 0) : Check := rsv (!pairOk wide r) k
/-- A field that must be zero (R71, R91, R94). -/
def zeroChk {n : Nat} (r : BitVec n) (k : Nat := 0) : Check := rsv (r != 0) k

/-- The lane constructor of an extended operation (R91). -/
def XOp.lane (op : XOp) (g : Guard) (d a b c : VReg) (t : Ty) (rnd : Rnd) (m : XMod) : Instr :=
  match op with
  | .iadd => .iaddExt g d a b t m.sat | .isub => .isubExt g d a b t m.sat
  | .imul => .imulExt g d a b t | .imulhi => .imulhiExt g d a b t
  | .imad => .imad g d a b c t m.sat | .imin => .iminExt g d a b t | .imax => .imaxExt g d a b t
  | .iabs => .iabsExt g d a t m.sat | .ineg => .inegExt g d a t m.sat
  | .clamp => .clamp g d a b c t | .sel => .sel g d a b (fld c 0 3) t
  | .shl => .shlExt g d a b t | .shr => .shrExt g d a b t
  | .bfe => .bfe g d a b c t | .bfi => .bfi g d a b c
  | .fadd => .faddExt g d a b t rnd m.na m.nb | .fsub => .fsubExt g d a b t rnd m.na m.nb
  | .fmul => .fmulExt g d a b t rnd m.na m.nb | .fma => .fma g d a b c t rnd m.na m.nb m.nc
  | .fmin => .fminExt g d a b t m.na m.nb | .fmax => .fmaxExt g d a b t m.na m.nb
  | .fdiv => .fdiv g d a b t rnd m.na m.nb | .fsqrt => .fsqrt g d a t rnd | .frcp => .frcp g d a t rnd
  | .frsqrt => .frsqrt g d a t | .fexp2 => .fexp2 g d a | .flog2 => .flog2 g d a | .frint => .frint g d a t rnd
  | .cvt => .cvt g d a t m.st rnd m.sat m.hi

/-- The modifiers of an arithmetic XOP's MOD field (R78). -/
def arithMod (m : BitVec 10) : XMod :=
  ⟨fld m 9 1 == 1, fld m 8 1 == 1, fld m 7 1 == 1, fld m 6 1 == 1, false, .i8⟩

/-- The modifiers of a conversion's MOD field (R78). -/
def cvtMod (m : BitVec 10) : XMod := ⟨fld m 9 1 == 1, false, false, false, fld m 4 1 == 1, Ty.ofCode (fld m 0 4)⟩

/-- The checks of an arithmetic XOP that LX and UX share: type, rounding and MOD (R76-R78, R91). -/
def arithChecks (op : XOp) (t : Ty) (r : BitVec 3) (m : BitVec 10) : List Check :=
  let x := arithMod m
  [ill (!op.spec.tys.contains t) 1,
   rsv (!((Rnd.ofCode r).any op.spec.rnds.contains)) 1,
   rsv ((x.sat && !op.spec.sat) || (x.na && !op.spec.na) || (x.nb && !op.spec.nb) || (x.nc && !op.spec.nc)
     || fld m 0 6 != 0) 1]

/-- The checks of `cvt` that LX and UX share (R91, R176). -/
def cvtChecks (t : Ty) (r : BitVec 3) (m : BitVec 10) : List Check :=
  let x := cvtMod m
  [ill (!cvtTys t x.st) 1, rsv (!((Rnd.ofCode r).any (cvtRnds t x.st).contains)) 1,
   rsv (!cvtMods t x.st x.sat x.hi || fld m 5 4 != 0) 1]

/-- Whether the B field of a shift names a 32-bit register although the type is wide: only in lane forms (R170). -/
def XOp.isShift : XOp → Bool
  | .shl | .shr => true
  | _ => false

/-- The rounding mode of a code; the checks refuse the codes without one. -/
def rndOf (r : BitVec 3) : Rnd := (Rnd.ofCode r).getD .rne

/-- The LX form (R76, R91). -/
def decodeLX (avail : Nat) (g : Guard) (d a b : VReg) (w1 : Word) : Except DecodeError Instr :=
  let c := fld w1 25 7
  let x := fld w1 17 8
  let t := Ty.ofCode (fld w1 13 4)
  let r := fld w1 10 3
  let m := fld w1 0 10
  if avail < 2 then .error .length else
  match XOp.ofCode x with
  | some .cvt =>
    settle avail 2 (cvtChecks t r m ++ [evenChk t.is64 d, evenChk (cvtMod m).st.is64 a, zeroChk b, zeroChk c 1])
      (.cvt g d a t (cvtMod m).st (rndOf r) (cvtMod m).sat (cvtMod m).hi)
  | some op =>
    settle avail 2
      (arithChecks op t r m ++ [evenChk t.is64 d, evenChk t.is64 a]
        ++ [if op.spec.b then evenChk (t.is64 && !op.isShift) b else zeroChk b]
        ++ [if op == .sel then rsv (7 < c.toNat) 1 else if op.spec.c then evenChk t.is64 c 1 else zeroChk c 1])
      (op.lane g d a b c t (rndOf r) (arithMod m))
  | none =>
    let o := MemOrder.ofCode (fld m 8 2)
    let sc := Scope.ofCode (fld m 5 3)
    let sp := (Space.ofCode (fld m 3 2)).getD .priv
    let rt := fld m 2 1 == 1
    let pack (tys : List Ty) : List Check :=
      [ill (!tys.contains t || fld m 0 4 != Ty.f32.code) 1, rsv (fld m 4 6 != 0) 1, rsv (Rnd.ofCode r).isNone 1, zeroChk c 1]
    let red (tys : List Ty) : List Check :=
      [ill (!tys.contains t) 1, zeroChk r 1, zeroChk m 1, zeroChk b, zeroChk c 1]
    let atm (tys : List Ty) : List Check :=
      [ill (!tys.contains t) 1, zeroChk r 1, rsv (!atomicMods o sc sp || fld m 0 2 != 0) 1,
       if rt then evenChk t.is64 d else zeroChk d, evenChk t.is64 b]
    match x.toNat with
    | 0x41 => settle avail 2 (pack [.f16, .bf16]) (.cvtPk g d a b t (rndOf r))
    | 0x42 => settle avail 2 (pack [.e4m3, .e5m2] ++ [rsv (a.toNat % 4 != 0), zeroChk b]) (.cvtPk4 g d a t (rndOf r))
    | 0x60 => settle avail 2 (red [.i32, .n32, .f32]) (.redAdd g d a t)
    | 0x61 => settle avail 2 (red [.i32, .n32, .f32]) (.redMin g d a t)
    | 0x62 => settle avail 2 (red [.i32, .n32, .f32]) (.redMax g d a t)
    | 0x63 => settle avail 2 (red [.i32, .n32]) (.scanAdd g d a t)
    | 0x80 => settle avail 2 (atm atomicArithTys ++ [zeroChk c 1]) (.atmAdd g d a b t o sc sp rt)
    | 0x81 => settle avail 2 (atm atomicArithTys ++ [zeroChk c 1]) (.atmMin g d a b t o sc sp rt)
    | 0x82 => settle avail 2 (atm atomicArithTys ++ [zeroChk c 1]) (.atmMax g d a b t o sc sp rt)
    | 0x83 => settle avail 2 (atm atomicBitTys ++ [zeroChk c 1]) (.atmAnd g d a b t o sc sp rt)
    | 0x84 => settle avail 2 (atm atomicBitTys ++ [zeroChk c 1]) (.atmOr g d a b t o sc sp rt)
    | 0x85 => settle avail 2 (atm atomicBitTys ++ [zeroChk c 1]) (.atmXor g d a b t o sc sp rt)
    | 0x86 => settle avail 2 (atm atomicBitTys ++ [zeroChk c 1]) (.atmXchg g d a b t o sc sp rt)
    | 0x87 => settle avail 2 (atm atomicBitTys ++ [evenChk t.is64 c 1]) (.atmCas g d a b c t o sc sp rt)
    | _ => settle avail 2 [ill true 1] .nop

/-- The lane set (R70-R76, R90). -/
def decodeLane (avail : Nat) (w w1 : Word) : Except DecodeError Instr :=
  let opc := fld w 24 7
  let g := fld w 21 3
  let d := fld w 14 7
  let a := fld w 7 7
  let b := fld w 0 7
  let one := settle avail 1
  let two := settle avail 2
  let bin (i : Instr) := one [] i
  let un (i : Instr) := one [zeroChk b] i
  let binW (i : Instr) := one [evenChk true d, evenChk true a, evenChk true b] i
  let unW (i : Instr) := one [evenChk true d, evenChk true a, zeroChk b] i
  let cc := (Cond.ofCode (fld d 3 4)).getD .eq
  let cmp (float wide : Bool) (i : Instr) :=
    one [rsv (!(Cond.ofCode (fld d 3 4)).any (condOk float)), evenChk wide a, evenChk wide b] i
  let plog (i : Instr) := one [zeroChk (fld d 3 4), zeroChk (fld a 3 4), zeroChk (fld b 3 4)] i
  let o := MemOrder.ofCode (fld b 5 2)
  let sc := Scope.ofCode (fld b 2 3)
  let sp := (Space.ofCode (fld b 0 2)).getD .team
  let mem (k : Nat) (store : Bool) (i : Instr) :=
    one [rsv ((Space.ofCode (fld b 0 2)).isNone || !memMods store o sc sp), rsv (d.toNat % k != 0)] i
  match opc.toNat with
  | 0x00 => bin (.iaddI32 g d a b) | 0x01 => bin (.isubI32 g d a b) | 0x02 => bin (.imulI32 g d a b)
  | 0x03 => bin (.imulhiI32 g d a b) | 0x04 => bin (.imulhiN32 g d a b) | 0x05 => bin (.iminI32 g d a b)
  | 0x06 => bin (.iminN32 g d a b) | 0x07 => bin (.imaxI32 g d a b) | 0x08 => bin (.imaxN32 g d a b)
  | 0x09 => bin (.andB32 g d a b) | 0x0A => bin (.orB32 g d a b) | 0x0B => bin (.xorB32 g d a b)
  | 0x0C => bin (.andnB32 g d a b) | 0x0D => bin (.shlB32 g d a b) | 0x0E => bin (.shrN32 g d a b)
  | 0x0F => bin (.shrI32 g d a b) | 0x10 => bin (.rotlB32 g d a b)
  | 0x11 => un (.popcB32 g d a) | 0x12 => un (.clzB32 g d a) | 0x13 => un (.brevB32 g d a)
  | 0x14 => un (.movB32 g d a) | 0x15 => un (.iabsI32 g d a) | 0x16 => un (.inegI32 g d a)
  | 0x18 => bin (.faddF32 g d a b) | 0x19 => bin (.fsubF32 g d a b) | 0x1A => bin (.fmulF32 g d a b)
  | 0x1B => bin (.fminF32 g d a b) | 0x1C => bin (.fmaxF32 g d a b)
  | 0x1D => un (.fabsF32 g d a) | 0x1E => un (.fnegF32 g d a)
  | 0x20 => binW (.faddF64 g d a b) | 0x21 => binW (.fsubF64 g d a b) | 0x22 => binW (.fmulF64 g d a b)
  | 0x23 => binW (.fminF64 g d a b) | 0x24 => binW (.fmaxF64 g d a b)
  | 0x25 => unW (.fabsF64 g d a) | 0x26 => unW (.fnegF64 g d a) | 0x27 => unW (.movB64 g d a)
  | 0x28 => binW (.iaddI64 g d a b) | 0x29 => binW (.isubI64 g d a b)
  | 0x30 => two [ill (LitOp.ofCode b).isNone] (.litI ((LitOp.ofCode b).getD .iadd) g d a w1)
  | 0x31 => two [ill (LitFOp.ofCode b).isNone] (.litF ((LitFOp.ofCode b).getD .fadd) g d a w1)
  | 0x32 => two [ill (b != 0), zeroChk a] (.litMov g d w1)
  | 0x40 => cmp false false (.icmpI32 g cc (fld d 0 3) a b)
  | 0x41 => cmp false false (.icmpN32 g cc (fld d 0 3) a b)
  | 0x42 => cmp false true (.icmpI64 g cc (fld d 0 3) a b)
  | 0x43 => cmp false true (.icmpN64 g cc (fld d 0 3) a b)
  | 0x44 => cmp true false (.fcmpF32 g cc (fld d 0 3) a b)
  | 0x45 => cmp true true (.fcmpF64 g cc (fld d 0 3) a b)
  | 0x48 => plog (.pand g (fld d 0 3) (fld a 0 3) (fld b 0 3))
  | 0x49 => plog (.por g (fld d 0 3) (fld a 0 3) (fld b 0 3))
  | 0x4A => plog (.pxor g (fld d 0 3) (fld a 0 3) (fld b 0 3))
  | 0x4B => plog (.pandn g (fld d 0 3) (fld a 0 3) (fld b 0 3))
  | 0x50 => bin (.xchAt g d a b) | 0x51 => bin (.xchSub g d a b) | 0x52 => bin (.xchAdd g d a b)
  | 0x53 => bin (.xchFlip g d a b)
  | 0x54 => one [zeroChk (fld d 3 4), zeroChk (fld a 3 4), zeroChk b] (.cenAll g (fld d 0 3) (fld a 0 3))
  | 0x55 => one [zeroChk (fld d 3 4), zeroChk (fld a 3 4), zeroChk b] (.cenAny g (fld d 0 3) (fld a 0 3))
  | 0x56 => one [zeroChk (fld a 3 4), zeroChk b] (.cenBits g d (fld a 0 3))
  | 0x5F => one [ill (b != 0), zeroChk a] (.getLane g d)
  | 0x60 => mem 1 false (.ldN8 g d a o sc sp) | 0x61 => mem 1 false (.ldI8 g d a o sc sp)
  | 0x62 => mem 1 false (.ldN16 g d a o sc sp) | 0x63 => mem 1 false (.ldI16 g d a o sc sp)
  | 0x64 => mem 1 false (.ldB32 g d a o sc sp) | 0x65 => mem 2 false (.ldB64 g d a o sc sp)
  | 0x66 => mem 4 false (.ldB128 g d a o sc sp)
  | 0x68 => mem 1 true (.stB8 g d a o sc sp) | 0x69 => mem 1 true (.stB16 g d a o sc sp)
  | 0x6A => mem 1 true (.stB32 g d a o sc sp) | 0x6B => mem 2 true (.stB64 g d a o sc sp)
  | 0x6C => mem 4 true (.stB128 g d a o sc sp)
  | 0x7F => decodeLX avail g d a b w1
  | _ => one [ill true] .nop

/-- The constructor of a uniform operation in register form, where it reads two sources. -/
def UOp.binary (op : UOp) (d a b : SReg) (w : Bool) (c : Cond) : Instr :=
  match op with
  | .iadd => .uniformIadd d a b w | .isub => .uniformIsub d a b w | .imul => .uniformImul d a b w
  | .imulhiI => .uniformImulhiI d a b w | .imulhiN => .uniformImulhiN d a b w
  | .iminI => .uniformIminI d a b w | .iminN => .uniformIminN d a b w
  | .imaxI => .uniformImaxI d a b w | .imaxN => .uniformImaxN d a b w
  | .and => .uniformAnd d a b w | .or => .uniformOr d a b w | .xor => .uniformXor d a b w
  | .andn => .uniformAndn d a b w | .shl => .uniformShl d a b w | .shrN => .uniformShrN d a b w
  | .shrI => .uniformShrI d a b w | .rotl => .uniformRotl d a b w | .mov => .uniformMov d a w
  | .icmpI => .uniformIcmpI d a b w c | .icmpN => .uniformIcmpN d a b w c
  | .fadd => .uniformFadd d a b | .fsub => .uniformFsub d a b | .fmul => .uniformFmul d a b
  | .fmin => .uniformFmin d a b | .fmax => .uniformFmax d a b | .fcmp => .uniformFcmp d a b c

/-- The uniform arithmetic opcodes 0x00-0x1F (R79, R93). -/
def decodeUR (avail : Nat) (opc d a b : BitVec 6) (sub : BitVec 7) (w1 : Word) : Except DecodeError Instr :=
  let lit := fld sub 6 1 == 1
  let w := fld sub 5 1 == 1
  let cb := fld sub 0 4
  let c := (Cond.ofCode cb).getD .eq
  let un (i : Instr) :=
    settle avail (if lit then 2 else 1)
      [zeroChk (fld sub 4 1), zeroChk cb, rsv lit, zeroChk b, evenChk w d, evenChk w a] i
  match opc.toNat with
  | 0x11 => un (.uniformPopc d a w)
  | 0x12 => un (.uniformClz d a w)
  | 0x13 => un (.uniformBrev d a w)
  | _ =>
    match UOp.ofCode opc with
    | none => settle avail (if lit then 2 else 1) [ill true] .nop
    | some op =>
      let common : List Check :=
        [zeroChk (fld sub 4 1), rsv (op.isFloat && w),
         rsv (if op.isCompare then !(Cond.ofCode cb).any (condOk op.isFloat) else cb != 0),
         evenChk (w && !op.isCompare) d]
      if lit then
        settle avail 2 (common ++ [zeroChk b, if op == .mov then zeroChk a else evenChk w a])
          (.uniformLiteralForm op d a w c w1)
      else
        settle avail 1 (common ++ [evenChk w a, if op == .mov then zeroChk b else evenChk w b]) (op.binary d a b w c)

/-- The UX form (R80, R194). -/
def decodeUX (avail : Nat) (d a b : SReg) (sub : BitVec 7) (w1 w2 : Word) : Except DecodeError Instr :=
  let lit := fld sub 6 1 == 1
  let size := if lit then 3 else 2
  let c := fld w1 26 6
  let t := Ty.ofCode (fld w1 14 4)
  let r := fld w1 11 3
  let m := fld w1 0 10
  let l := if lit then some w2 else none
  let common := [zeroChk (fld sub 0 6), zeroChk (fld w1 10 1) 1]
  if avail < 2 then settle avail size [zeroChk (fld sub 0 6), rsv (lit && b != 0)] .nop else
  match XOp.ofCode (fld w1 18 8) with
  | none => settle avail size [ill true 1] .nop
  | some .cvt =>
    settle avail size
      (cvtChecks t r m ++ common
        ++ [rsv lit, evenChk t.is64 d, evenChk (cvtMod m).st.is64 a, zeroChk b, zeroChk c 1])
      (.uniformExtended .cvt d a b c t (rndOf r) (cvtMod m) l)
  | some op =>
    settle avail size
      (arithChecks op t r m ++ common
        ++ [rsv (lit && !op.spec.b), evenChk t.is64 d, evenChk t.is64 a,
            if op.spec.b && !lit then evenChk t.is64 b else zeroChk b,
            if op.spec.c then evenChk (t.is64 && op != .sel) c 1 else zeroChk c 1])
      (.uniformExtended op d a b c t (rndOf r) (arithMod m) l)

/-- The selectors of the uniform `get` (R95). -/
def getOf (sel : Nat) (d : SReg) : Option Instr :=
  match sel with
  | 0 => some (.getGroup d) | 1 => some (.getTeamX d) | 2 => some (.getTeamY d) | 3 => some (.getTeamZ d)
  | 4 => some (.getGridX d) | 5 => some (.getGridY d) | 6 => some (.getGridZ d) | 7 => some (.getCore d)
  | 8 => some (.getCluster d) | 9 => some (.getDie d) | 10 => some (.getCtx d) | 11 => some (.getCycle d)
  | 12 => some (.getEm d) | 13 => some (.getLm d) | 14 => some (.getFmt d) | _ => none

/-- The engine commands of OPC 0x30-0x32 (R201). -/
def engineOf (opc sub : Nat) (a : SReg) : Option Instr :=
  match opc, sub with
  | 0x30, 0 => some (.bcpT1 a) | 0x30, 1 => some (.bcpT2 a) | 0x30, 2 => some (.bcpT3 a) | 0x30, 3 => some (.bcpFill a)
  | 0x31, 0 => some (.bgsGather a) | 0x31, 1 => some (.bgsScatter a)
  | 0x32, 0 => some (.bamAdd a) | 0x32, 1 => some (.bamMin a) | 0x32, 2 => some (.bamMax a) | 0x32, 3 => some (.bamAnd a)
  | 0x32, 4 => some (.bamOr a) | 0x32, 5 => some (.bamXor a) | 0x32, 6 => some (.bamXchg a) | 0x32, 7 => some (.bamCas a)
  | _, _ => none

/-- The uniform opcodes 0x24-0x3D (R94). -/
def decodeUM (avail : Nat) (opc d a b : BitVec 6) (sub : BitVec 7) (w1 : Word) : Except DecodeError Instr :=
  let one := settle avail 1
  let op := (fld sub 4 3).toNat
  let lo := fld sub 0 4
  let z : List Check := [zeroChk d, zeroChk b]
  let zz : List Check := [zeroChk d, zeroChk a, zeroChk b]
  let scope := Scope.ofCode (fld sub 0 3)
  match opc.toNat with
  | 0x24 => one ([ill (1 < sub.toNat), evenChk true a] ++ z) (if sub == 0 then .braInd a else .callInd a)
  | 0x25 => one ([ill (sub != 0)] ++ zz) .ret
  | 0x26 => one ([ill (sub != 0)] ++ zz) .exit
  | 0x27 => one (z ++ [rsv (op != 0), rsv (11 < lo.toNat)]) (.waitK a lo)
  | 0x28 => one [ill (getOf sub.toNat d).isNone, zeroChk a, zeroChk b, evenChk (sub.toNat == 11) d] ((getOf sub.toNat d).getD .nop)
  | 0x29 => one (z ++ [zeroChk sub]) (.emSet a)
  | 0x2A =>
    one ([ill (2 < op)] ++ zz ++ [zeroChk (fld sub 3 1), rsv (op != 0 && fld sub 0 3 != 0)])
      (match op with | 0 => .pmPush (fld sub 0 3) | 1 => .pmInv | _ => .pmPop)
  | 0x2B =>
    one (zz ++ [zeroChk (fld sub 5 1), rsv ((fld sub 0 5).toNat == 0 || 16 < (fld sub 0 5).toNat)])
      (if fld sub 6 1 == 0 then .blkGive (fld sub 0 5) else .blkTake (fld sub 0 5))
  | 0x2C =>
    if fld sub 6 1 == 1 then
      settle avail 2 (zz ++ [zeroChk (fld sub 0 6), rsv (2 ^ 15 ≤ w1.toNat) 1]) (.fmtSetImm w1)
    else one (z ++ [zeroChk (fld sub 0 6)]) (.fmtSet a)
  | 0x2D => one ([ill (sub != 0)] ++ zz) .nop
  | 0x30 => one ([ill (engineOf 0x30 sub.toNat a).isNone] ++ z) ((engineOf 0x30 sub.toNat a).getD .nop)
  | 0x31 => one ([ill (engineOf 0x31 sub.toNat a).isNone] ++ z) ((engineOf 0x31 sub.toNat a).getD .nop)
  | 0x32 => one ([ill (engineOf 0x32 sub.toNat a).isNone] ++ z) ((engineOf 0x32 sub.toNat a).getD .nop)
  | 0x33 => one (z ++ [rsv (1 < sub.toNat)]) (if sub == 0 then .mldE a else .mldS a)
  | 0x34 => one (zz ++ [zeroChk sub]) .mswp
  | 0x35 => one (z ++ [rsv (1 < sub.toNat)]) (if sub == 0 then .mlp a else .mlpZero a)
  | 0x36 => one (z ++ [rsv (1 < sub.toNat)]) (if sub == 0 then .mdrn a else .mdrnScl a)
  | 0x37 => one (zz ++ [rsv (1 < sub.toNat)]) (if sub == 0 then .ropeTake else .ropeGive)
  | 0x38 =>
    one [ill (1 < op), zeroChk d, zeroChk a, rsv (16 < b.toNat), rsv ((b == 0) != (lo == 0))]
      (if op == 0 then .tbarPass b lo else .tbarHold b lo)
  | 0x39 =>
    match sub.toNat with
    | 0 => one z (.gbarHold a) | 1 => one z (.gbarPass a) | 2 => one z (.cbarHold a) | 3 => one z (.cbarPass a)
    | 4 => one [zeroChk d, rsv (WatchSpace.ofCode b).isNone] (.watch a ((WatchSpace.ofCode b).getD .t))
    | 5 => one z (.unwatch a) | 6 => one z (.waitW a)
    | _ => one [ill true] .nop
  | 0x3A =>
    one ([ill (1 < op)] ++ zz ++ [zeroChk (fld sub 3 1)]) (if op == 0 then .fence scope else .tfence scope)
  | 0x3B =>
    match sub.toNat with
    | 0 => one z (.lnch a) | 1 => one [zeroChk d, evenChk true b] (.qBell a b)
    | 2 => one [evenChk true d, zeroChk b] (.mbxGet d a) | 3 => one [zeroChk d, evenChk true b] (.mbxPut a b)
    | 4 => one z (.sint a)
    | _ => one [ill true] .nop
  | 0x3C =>
    let coll (f : CollTy → Instr) := one (z ++ [rsv (CollTy.ofCode lo).isNone]) (f ((CollTy.ofCode lo).getD .f32))
    match op with
    | 0 => coll (.collSum a) | 1 => coll (.collMax a) | 2 => coll (.collMin a)
    | 3 =>
      one [zeroChk d, zeroChk a, zeroChk (fld sub 2 2), rsv (15 < b.toNat),
           rsv (!((Instr.stkHand (fld b 0 4) (fld sub 0 2)).wf))] (.stkHand (fld b 0 4) (fld sub 0 2))
    | 4 => one (z ++ [zeroChk lo]) (.rflRun a)
    | 5 => one [zeroChk d, zeroChk lo, evenChk true a, evenChk true b] (.rflPut a b)
    | _ => one [ill true] .nop
  | 0x3D =>
    match sub.toNat with
    | 0 => one [zeroChk d, zeroChk a] (.trap b)
    | 1 => one [ill (11 < b.toNat && b.toNat != 16), zeroChk a, evenChk (b.toNat ≤ 11) d] (.sysRd d b)
    | 2 => one [ill (b.toNat != 16), zeroChk d] (.sysWr a b)
    | _ => one [ill true] .nop
  | _ => one [ill true] .nop

/-- The uniform set (R79-R83, R93-R95). -/
def decodeUniform (avail : Nat) (w w1 w2 : Word) : Except DecodeError Instr :=
  let opc := fld w 25 6
  let d := fld w 19 6
  let a := fld w 13 6
  let b := fld w 7 6
  let sub := fld w 0 7
  let bc := fld w 22 3
  let ba := fld w 16 6
  let disp := fld w 0 16
  match opc.toNat with
  | 0x20 =>
    settle avail 1 [rsv (BrCond.ofCode bc).isNone, rsv (bc == 0 && ba != 0)]
      (.bra ((BrCond.ofCode bc).getD .always) ba disp)
  | 0x21 =>
    settle avail 2 [zeroChk (fld w 16 5), zeroChk (fld w1 16 16) 1]
      (.brd bc (fld w 21 1 == 1) disp (fld w1 0 16))
  | 0x22 => settle avail 1 [zeroChk bc, zeroChk ba] (.call disp)
  | 0x23 =>
    settle avail 2
      [zeroChk bc, zeroChk ba, zeroChk (fld w1 31 1) 1,
       rsv (!((Instr.callFk disp (fld w1 28 3) (fld w1 0 7) (fld w1 7 7) (fld w1 14 7) (fld w1 21 7)).wf)) 1]
      (.callFk disp (fld w1 28 3) (fld w1 0 7) (fld w1 7 7) (fld w1 14 7) (fld w1 21 7))
  | 0x3E => decodeUX avail d a b sub w1 w2
  | _ => if opc.toNat < 0x20 then decodeUR avail opc d a b sub w1 else decodeUM avail opc d a b sub w1

/-- The instruction that begins with word `w`, where `avail` words of its clause stand from `w` on and `w1`, `w2` follow
it; a clause header is no instruction (R68, R69, R85, R96). -/
def decode (avail : Nat) (w w1 w2 : Word) : Except DecodeError Instr :=
  if fld w 31 1 == 0 then decodeLane avail w w1 else decodeUniform avail w w1 w2

/-- The instruction at the head of a list of words, all of its clause. -/
def decodeWords (ws : List Word) : Except DecodeError Instr :=
  match ws with
  | [] => .error .length
  | w :: rest => decode ws.length w (rest.headD 0) (rest.tail.headD 0)

/-! ### The encoder -/

/-- A lane word with an extension word. -/
def encLX (g : Guard) (d a b c : VReg) (x : BitVec 8) (t : Ty) (r : Rnd) (m : BitVec 10) : List Word :=
  [packLR 0x7F g d a b, packLX c x t.code r.code m]

/-- The uniform word of a register form without a literal. -/
def encUR (opc : BitVec 6) (d a b : SReg) (w : Bool) (c : Cond) : List Word := [packUR opc d a b (packSub false w c.code)]

/-- A lane memory word (R74). -/
def encLM (opc : BitVec 7) (g : Guard) (d a : VReg) (o : MemOrder) (sc : Scope) (sp : Space) : List Word :=
  [packLR opc g d a (packLM o.code sc.code sp.code)]

/-- A lane atomic (R199). -/
def encAtm (x : BitVec 8) (g : Guard) (d a b c : VReg) (t : Ty) (o : MemOrder) (sc : Scope) (sp : Space) (rt : Bool) :
    List Word :=
  encLX g d a b c x t .rne (packAtomic o.code sc.code sp.code rt)

/-- A predicate number in a 7-bit field (R71). -/
def p7 (p : PReg) : BitVec 7 := packCP 0 p

/-- A uniform word that carries only SA and SUB (R94). -/
def encU (opc : BitVec 6) (a : SReg) (sub : BitVec 7) : List Word := [packUR opc 0 a 0 sub]

/-- The words of an instruction (R70-R83, R90-R95); a hardware step has none. -/
def encode : Instr → List Word
  | .iaddI32 g d a b => [packLR 0x00 g d a b] | .isubI32 g d a b => [packLR 0x01 g d a b]
  | .imulI32 g d a b => [packLR 0x02 g d a b] | .imulhiI32 g d a b => [packLR 0x03 g d a b]
  | .imulhiN32 g d a b => [packLR 0x04 g d a b] | .iminI32 g d a b => [packLR 0x05 g d a b]
  | .iminN32 g d a b => [packLR 0x06 g d a b] | .imaxI32 g d a b => [packLR 0x07 g d a b]
  | .imaxN32 g d a b => [packLR 0x08 g d a b] | .andB32 g d a b => [packLR 0x09 g d a b]
  | .orB32 g d a b => [packLR 0x0A g d a b] | .xorB32 g d a b => [packLR 0x0B g d a b]
  | .andnB32 g d a b => [packLR 0x0C g d a b] | .shlB32 g d a b => [packLR 0x0D g d a b]
  | .shrN32 g d a b => [packLR 0x0E g d a b] | .shrI32 g d a b => [packLR 0x0F g d a b]
  | .rotlB32 g d a b => [packLR 0x10 g d a b] | .popcB32 g d a => [packLR 0x11 g d a 0]
  | .clzB32 g d a => [packLR 0x12 g d a 0] | .brevB32 g d a => [packLR 0x13 g d a 0]
  | .movB32 g d a => [packLR 0x14 g d a 0] | .iabsI32 g d a => [packLR 0x15 g d a 0]
  | .inegI32 g d a => [packLR 0x16 g d a 0] | .faddF32 g d a b => [packLR 0x18 g d a b]
  | .fsubF32 g d a b => [packLR 0x19 g d a b] | .fmulF32 g d a b => [packLR 0x1A g d a b]
  | .fminF32 g d a b => [packLR 0x1B g d a b] | .fmaxF32 g d a b => [packLR 0x1C g d a b]
  | .fabsF32 g d a => [packLR 0x1D g d a 0] | .fnegF32 g d a => [packLR 0x1E g d a 0]
  | .faddF64 g d a b => [packLR 0x20 g d a b] | .fsubF64 g d a b => [packLR 0x21 g d a b]
  | .fmulF64 g d a b => [packLR 0x22 g d a b] | .fminF64 g d a b => [packLR 0x23 g d a b]
  | .fmaxF64 g d a b => [packLR 0x24 g d a b] | .fabsF64 g d a => [packLR 0x25 g d a 0]
  | .fnegF64 g d a => [packLR 0x26 g d a 0] | .movB64 g d a => [packLR 0x27 g d a 0]
  | .iaddI64 g d a b => [packLR 0x28 g d a b] | .isubI64 g d a b => [packLR 0x29 g d a b]
  | .litI op g d a lit => [packLR 0x30 g d a op.code, lit] | .litF op g d a lit => [packLR 0x31 g d a op.code, lit]
  | .litMov g d lit => [packLR 0x32 g d 0 0, lit]
  | .icmpI32 g c p a b => [packLR 0x40 g (packCP c.code p) a b] | .icmpN32 g c p a b => [packLR 0x41 g (packCP c.code p) a b]
  | .icmpI64 g c p a b => [packLR 0x42 g (packCP c.code p) a b] | .icmpN64 g c p a b => [packLR 0x43 g (packCP c.code p) a b]
  | .fcmpF32 g c p a b => [packLR 0x44 g (packCP c.code p) a b] | .fcmpF64 g c p a b => [packLR 0x45 g (packCP c.code p) a b]
  | .pand g p q r => [packLR 0x48 g (p7 p) (p7 q) (p7 r)] | .por g p q r => [packLR 0x49 g (p7 p) (p7 q) (p7 r)]
  | .pxor g p q r => [packLR 0x4A g (p7 p) (p7 q) (p7 r)] | .pandn g p q r => [packLR 0x4B g (p7 p) (p7 q) (p7 r)]
  | .xchAt g d a b => [packLR 0x50 g d a b] | .xchSub g d a b => [packLR 0x51 g d a b]
  | .xchAdd g d a b => [packLR 0x52 g d a b] | .xchFlip g d a b => [packLR 0x53 g d a b]
  | .cenAll g p q => [packLR 0x54 g (p7 p) (p7 q) 0] | .cenAny g p q => [packLR 0x55 g (p7 p) (p7 q) 0]
  | .cenBits g d q => [packLR 0x56 g d (p7 q) 0] | .getLane g d => [packLR 0x5F g d 0 0]
  | .ldN8 g d a o sc sp => encLM 0x60 g d a o sc sp | .ldI8 g d a o sc sp => encLM 0x61 g d a o sc sp
  | .ldN16 g d a o sc sp => encLM 0x62 g d a o sc sp | .ldI16 g d a o sc sp => encLM 0x63 g d a o sc sp
  | .ldB32 g d a o sc sp => encLM 0x64 g d a o sc sp | .ldB64 g d a o sc sp => encLM 0x65 g d a o sc sp
  | .ldB128 g d a o sc sp => encLM 0x66 g d a o sc sp | .stB8 g d a o sc sp => encLM 0x68 g d a o sc sp
  | .stB16 g d a o sc sp => encLM 0x69 g d a o sc sp | .stB32 g d a o sc sp => encLM 0x6A g d a o sc sp
  | .stB64 g d a o sc sp => encLM 0x6B g d a o sc sp | .stB128 g d a o sc sp => encLM 0x6C g d a o sc sp
  | .iaddExt g d a b t sat => encLX g d a b 0 0x00 t .rne (packArith sat false false false)
  | .isubExt g d a b t sat => encLX g d a b 0 0x01 t .rne (packArith sat false false false)
  | .imulExt g d a b t => encLX g d a b 0 0x02 t .rne 0 | .imulhiExt g d a b t => encLX g d a b 0 0x03 t .rne 0
  | .imad g d a b c t sat => encLX g d a b c 0x04 t .rne (packArith sat false false false)
  | .iminExt g d a b t => encLX g d a b 0 0x05 t .rne 0 | .imaxExt g d a b t => encLX g d a b 0 0x06 t .rne 0
  | .iabsExt g d a t sat => encLX g d a 0 0 0x07 t .rne (packArith sat false false false)
  | .inegExt g d a t sat => encLX g d a 0 0 0x08 t .rne (packArith sat false false false)
  | .clamp g d a b c t => encLX g d a b c 0x09 t .rne 0
  | .sel g d a b p t => encLX g d a b (p7 p) 0x0A t .rne 0
  | .shlExt g d a b t => encLX g d a b 0 0x0B t .rne 0 | .shrExt g d a b t => encLX g d a b 0 0x0C t .rne 0
  | .bfe g d a b c t => encLX g d a b c 0x0D t .rne 0 | .bfi g d a b c => encLX g d a b c 0x0E .b32 .rne 0
  | .faddExt g d a b t rnd na nb => encLX g d a b 0 0x10 t rnd (packArith false na nb false)
  | .fsubExt g d a b t rnd na nb => encLX g d a b 0 0x11 t rnd (packArith false na nb false)
  | .fmulExt g d a b t rnd na nb => encLX g d a b 0 0x12 t rnd (packArith false na nb false)
  | .fma g d a b c t rnd na nb nc => encLX g d a b c 0x13 t rnd (packArith false na nb nc)
  | .fminExt g d a b t na nb => encLX g d a b 0 0x14 t .rne (packArith false na nb false)
  | .fmaxExt g d a b t na nb => encLX g d a b 0 0x15 t .rne (packArith false na nb false)
  | .fdiv g d a b t rnd na nb => encLX g d a b 0 0x16 t rnd (packArith false na nb false)
  | .fsqrt g d a t rnd => encLX g d a 0 0 0x17 t rnd 0 | .frcp g d a t rnd => encLX g d a 0 0 0x18 t rnd 0
  | .frsqrt g d a t => encLX g d a 0 0 0x19 t .rne 0 | .fexp2 g d a => encLX g d a 0 0 0x1A .f32 .rne 0
  | .flog2 g d a => encLX g d a 0 0 0x1B .f32 .rne 0 | .frint g d a t rnd => encLX g d a 0 0 0x1C t rnd 0
  | .cvt g d a t st rnd sat hi => encLX g d a 0 0 0x40 t rnd (packCvt sat hi st.code)
  | .cvtPk g d a b t rnd => encLX g d a b 0 0x41 t rnd (packCvt false false Ty.f32.code)
  | .cvtPk4 g d a t rnd => encLX g d a 0 0 0x42 t rnd (packCvt false false Ty.f32.code)
  | .redAdd g d a t => encLX g d a 0 0 0x60 t .rne 0 | .redMin g d a t => encLX g d a 0 0 0x61 t .rne 0
  | .redMax g d a t => encLX g d a 0 0 0x62 t .rne 0 | .scanAdd g d a t => encLX g d a 0 0 0x63 t .rne 0
  | .atmAdd g d a b t o sc sp rt => encAtm 0x80 g d a b 0 t o sc sp rt
  | .atmMin g d a b t o sc sp rt => encAtm 0x81 g d a b 0 t o sc sp rt
  | .atmMax g d a b t o sc sp rt => encAtm 0x82 g d a b 0 t o sc sp rt
  | .atmAnd g d a b t o sc sp rt => encAtm 0x83 g d a b 0 t o sc sp rt
  | .atmOr g d a b t o sc sp rt => encAtm 0x84 g d a b 0 t o sc sp rt
  | .atmXor g d a b t o sc sp rt => encAtm 0x85 g d a b 0 t o sc sp rt
  | .atmXchg g d a b t o sc sp rt => encAtm 0x86 g d a b 0 t o sc sp rt
  | .atmCas g d a b c t o sc sp rt => encAtm 0x87 g d a b c t o sc sp rt
  | .uniformIadd d a b w => encUR 0x00 d a b w .eq | .uniformIsub d a b w => encUR 0x01 d a b w .eq
  | .uniformImul d a b w => encUR 0x02 d a b w .eq | .uniformImulhiI d a b w => encUR 0x03 d a b w .eq
  | .uniformImulhiN d a b w => encUR 0x04 d a b w .eq | .uniformIminI d a b w => encUR 0x05 d a b w .eq
  | .uniformIminN d a b w => encUR 0x06 d a b w .eq | .uniformImaxI d a b w => encUR 0x07 d a b w .eq
  | .uniformImaxN d a b w => encUR 0x08 d a b w .eq | .uniformAnd d a b w => encUR 0x09 d a b w .eq
  | .uniformOr d a b w => encUR 0x0A d a b w .eq | .uniformXor d a b w => encUR 0x0B d a b w .eq
  | .uniformAndn d a b w => encUR 0x0C d a b w .eq | .uniformShl d a b w => encUR 0x0D d a b w .eq
  | .uniformShrN d a b w => encUR 0x0E d a b w .eq | .uniformShrI d a b w => encUR 0x0F d a b w .eq
  | .uniformRotl d a b w => encUR 0x10 d a b w .eq | .uniformPopc d a w => encUR 0x11 d a 0 w .eq
  | .uniformClz d a w => encUR 0x12 d a 0 w .eq | .uniformBrev d a w => encUR 0x13 d a 0 w .eq
  | .uniformMov d a w => encUR 0x14 d a 0 w .eq | .uniformIcmpI d a b w c => encUR 0x15 d a b w c
  | .uniformIcmpN d a b w c => encUR 0x16 d a b w c | .uniformFadd d a b => encUR 0x17 d a b false .eq
  | .uniformFsub d a b => encUR 0x18 d a b false .eq | .uniformFmul d a b => encUR 0x19 d a b false .eq
  | .uniformFmin d a b => encUR 0x1A d a b false .eq | .uniformFmax d a b => encUR 0x1B d a b false .eq
  | .uniformFcmp d a b c => encUR 0x1C d a b false c
  | .uniformLiteralForm op d a w c lit => [packUR op.code d a 0 (packSub true w c.code), lit]
  | .uniformExtended op d a b c t rnd m lit =>
    [packUR 0x3E d a b (BitVec.ofBool lit.isSome ++ 0#6),
     packUX c op.code t.code rnd.code
       (if op == .cvt then packCvt m.sat m.hi m.st.code else packArith m.sat m.na m.nb m.nc)] ++ lit.toList
  | .bra c a disp => [packUB 0x20 c.code a disp]
  | .brd p neg disp rdisp => [packUD p neg disp, 0#16 ++ rdisp]
  | .call disp => [packUB 0x22 0 0 disp]
  | .callFk disp n r0 r1 r2 r3 => [packUB 0x23 0 0 disp, packUF n r3 r2 r1 r0]
  | .braInd a => encU 0x24 a 0 | .callInd a => encU 0x24 a 1
  | .ret => encU 0x25 0 0 | .exit => encU 0x26 0 0
  | .waitK a n => encU 0x27 a (packOp 0 n)
  | .getGroup d => [packUR 0x28 d 0 0 0] | .getTeamX d => [packUR 0x28 d 0 0 1] | .getTeamY d => [packUR 0x28 d 0 0 2]
  | .getTeamZ d => [packUR 0x28 d 0 0 3] | .getGridX d => [packUR 0x28 d 0 0 4] | .getGridY d => [packUR 0x28 d 0 0 5]
  | .getGridZ d => [packUR 0x28 d 0 0 6] | .getCore d => [packUR 0x28 d 0 0 7] | .getCluster d => [packUR 0x28 d 0 0 8]
  | .getDie d => [packUR 0x28 d 0 0 9] | .getCtx d => [packUR 0x28 d 0 0 10] | .getCycle d => [packUR 0x28 d 0 0 11]
  | .getEm d => [packUR 0x28 d 0 0 12] | .getLm d => [packUR 0x28 d 0 0 13] | .getFmt d => [packUR 0x28 d 0 0 14]
  | .emSet a => encU 0x29 a 0
  | .pmPush p => encU 0x2A 0 (p7 p) | .pmInv => encU 0x2A 0 (packOp 1 0) | .pmPop => encU 0x2A 0 (packOp 2 0)
  | .blkGive n => encU 0x2B 0 (0#2 ++ n) | .blkTake n => encU 0x2B 0 (2#2 ++ n)
  | .fmtSet a => encU 0x2C a 0 | .fmtSetImm lit => encU 0x2C 0 0x40 ++ [lit]
  | .nop => encU 0x2D 0 0
  | .bcpT1 a => encU 0x30 a 0 | .bcpT2 a => encU 0x30 a 1 | .bcpT3 a => encU 0x30 a 2 | .bcpFill a => encU 0x30 a 3
  | .bgsGather a => encU 0x31 a 0 | .bgsScatter a => encU 0x31 a 1
  | .bamAdd a => encU 0x32 a 0 | .bamMin a => encU 0x32 a 1 | .bamMax a => encU 0x32 a 2 | .bamAnd a => encU 0x32 a 3
  | .bamOr a => encU 0x32 a 4 | .bamXor a => encU 0x32 a 5 | .bamXchg a => encU 0x32 a 6 | .bamCas a => encU 0x32 a 7
  | .mldE a => encU 0x33 a 0 | .mldS a => encU 0x33 a 1 | .mswp => encU 0x34 0 0
  | .mlp a => encU 0x35 a 0 | .mlpZero a => encU 0x35 a 1 | .mdrn a => encU 0x36 a 0 | .mdrnScl a => encU 0x36 a 1
  | .ropeTake => encU 0x37 0 0 | .ropeGive => encU 0x37 0 1
  | .tbarPass c n => [packUR 0x38 0 0 c (packOp 0 n)] | .tbarHold c n => [packUR 0x38 0 0 c (packOp 1 n)]
  | .gbarHold a => encU 0x39 a 0 | .gbarPass a => encU 0x39 a 1 | .cbarHold a => encU 0x39 a 2 | .cbarPass a => encU 0x39 a 3
  | .watch a sp => [packUR 0x39 0 a sp.code 4] | .unwatch a => encU 0x39 a 5 | .waitW a => encU 0x39 a 6
  | .fence sc => encU 0x3A 0 (packCP 0 sc.code) | .tfence sc => encU 0x3A 0 (packCP 2 sc.code)
  | .lnch a => encU 0x3B a 0 | .qBell a b => [packUR 0x3B 0 a b 1] | .mbxGet d a => [packUR 0x3B d a 0 2]
  | .mbxPut a b => [packUR 0x3B 0 a b 3] | .sint a => encU 0x3B a 4
  | .collSum a t => encU 0x3C a (packOp 0 t.code) | .collMax a t => encU 0x3C a (packOp 1 t.code)
  | .collMin a t => encU 0x3C a (packOp 2 t.code)
  | .stkHand n die => [packUR 0x3C 0 0 (0#2 ++ n) (packOp 3 (0#2 ++ die))]
  | .rflRun a => encU 0x3C a (packOp 4 0) | .rflPut a b => [packUR 0x3C 0 a b (packOp 5 0)]
  | .trap code => [packUR 0x3D 0 0 code 0] | .sysRd d n => [packUR 0x3D d 0 n 1] | .sysWr a n => [packUR 0x3D 0 a n 2]
  | _ => []

/-- How many words an instruction has (R69). -/
def Instr.size (i : Instr) : Nat := (encode i).length

/-- The first word of an instruction, as fault records carry it (R88, R335). -/
def Instr.first (i : Instr) : Word := (encode i).headD 0

/-! ### The opcode table's words -/

/-- Whether a constructor is an instruction word rather than a hardware step. -/
def Instr.isWord (i : Instr) : Bool := (encode i) != []

/-- The instruction that the decoder reads from a word of the opcode table: bit 0 is the least significant bit of the
first word, and every bit above `nbits` is zero. The words go through memory bytes, little-endian (R68). -/
def decodeTableWord (nbits w : Nat) : Option Instr :=
  let x := w % 2 ^ min nbits 96
  let word (k : Nat) : Word := BitVec.ofNat 32 (x / 2 ^ (32 * k))
  match decode 3 (word 0) (word 1) (word 2) with
  | .ok i => some i
  | .error _ => none

end Sys2Proof
end

