-- ==== Sys2Proof/Machine/State.lean ====
section
/-!
DEFINITION. The state of the AX416 module as plain data: groups and their paths, teams, cores, the matrix units,
engine threads, memory, contexts, queues, grids, the front end, the stacks, the links and the package controller,
with the machine right after reset. Each field's docstring names the rule of spec/ that gives it.
-/
namespace Sys2Proof.Machine

/-! ### Faults and refusals of the model -/

/-- Why a step stops the machine. The faults of the part itself (R12) are not here: taking one is a next state. -/
inductive Fault where
  /-- The package controller holds the module HALTED and no step of that kind exists any more (R418).
  Raised by the start stages; safe. -/
  | halted
  deriving DecidableEq, Repr

/-- Why a step has no meaning in a state. -/
inductive Refusal where
  /-- An instruction without a meaning in this model, by its mnemonic. Safe. -/
  | notModelled (mnemonic : String)
  /-- An instruction was asked for while no path of a group is selected to issue.
  Raised by every instruction's meaning; safe: no group issues anything then. -/
  | noPath
  /-- A hardware step was asked for in a state in which the part does not take it.
  Raised by the meanings of the hardware steps; safe: the part has no such step then. -/
  | notEnabled (step : String)
  deriving DecidableEq, Repr

/-- The kinds of fault that the part takes (R12, R335). -/
inductive FaultKind where
  | page | grow | illegalOpcode | reservedBits | clauseLength | branchTarget | clauseCounter | counter | hazard
  | regBlock | carry | pmstack | format | rope | barrierCount | barrierDeadlock | watchSpace | bounds | align
  | ownership | privilege | refineExhausted | trap | uncorrectable
  deriving DecidableEq, Repr

/-! ### Registers and groups -/

/-- The register files whose registers carry a pending bit (R139, R438). -/
inductive RegFile where
  | v | s | p
  deriving DecidableEq, Repr

/-- One 32-bit register of a group (R438). -/
structure Reg where
  file : RegFile
  num : Nat
  deriving DecidableEq, Repr

/-- The access paths of R132. -/
inductive AccPath where
  | T | D | P | B | G | C | M | X
  deriving DecidableEq, Repr

/-- The operations of a bulk or lane atomic (R200, R201). -/
inductive AtomicOp where
  | add | min | max | and | or | xor | xchg | cas
  deriving DecidableEq, Repr

/-- What a lane access that was put off has still to do, lane by lane (R152): bytes to store at a key; n bytes to read, at some keys, for
the registers from d on; or a read-modify-write with its operands there, which gives its old value to the registers from d on. -/
inductive Late where
  | store (key : Nat) (bs : List Byte)
  | read (lane d n : Nat) (signed : Bool) (runs : List (Nat × Nat))
  | rmw (lane d : Nat) (ret : Bool) (op : AtomicOp) (t : Ty) (b c : Nat) (runs : List (Nat × Nat))
  deriving DecidableEq, Repr

/-- A tracked long-latency instruction that no wait has proven complete (R135, R136, R139). -/
structure Tracked where
  /-- issue number in the group (R135) -/
  seq : Nat
  path : AccPath
  /-- the counter it raised, 0 to 11 -/
  ctr : Nat
  /-- the registers whose pending bits it set (R139) -/
  dests : List Reg
  /-- values of a load or atomic, written to (register, lane) at completion (R132) -/
  data : List (Nat × Nat × Word)
  /-- an acquire (R198) -/
  acq : Bool
  /-- the lanes of the path that issued it, by which later paths are po-after it (R145, R151) -/
  lanes : Word
  /-- what it has still to do at memory, by its completion (R152) -/
  late : List Late
  /-- an `lnch` (R314) -/
  launch : Bool
  /-- it has completed (R132) -/
  done : Bool
  /-- it has lowered its counter (R136) -/
  lowered : Bool
  deriving DecidableEq, Repr

/-- How a path stands before its next instruction (R85, R86). -/
inductive Entry where
  /-- inside the clause whose header is saved in the path -/
  | inside
  /-- inside that clause, with its words to be fetched again: a path that was saved or spilled (R89) -/
  | refetch
  /-- about to enter a clause it falls into: a missing header faults CLAUSE-LENGTH -/
  | fall
  /-- about to enter a transfer's target: a missing header faults BRANCH-TARGET -/
  | target
  /-- about to enter a controller target: a missing header faults BRANCH-TARGET with the `rfl.run` address and word (R395) -/
  | refine (pc : DWord) (iword : Word)
  deriving DecidableEq, Repr

/-- The kind of barrier a path is parked at (R289, R301). -/
inductive BarKind where
  | named | grid | cluster
  deriving DecidableEq, Repr

/-- What a path waits for (R252). -/
inductive Park where
  /-- WAIT-K by `wait.k` (R138) -/
  | waitK (ctr lim : Nat)
  /-- WAIT-K in a clause header (R86) -/
  | waitHdr (mask : BitVec 12)
  /-- WAIT-K on a full pending-launch queue (R314) -/
  | lnchFull
  /-- WAIT-BAR (R289, R301); `arrived` and `gen` are set at the group's arrival -/
  | bar (kind : BarKind) (n count : Nat) (hold arrived : Bool) (gen : Nat)
  /-- WAIT-CAIRN by `wait.w` (R292) -/
  | cairn (off : Nat)
  /-- WAIT-CAIRN by a recognised spin, with its wake filter of 64-byte lines, and whether a write hit it (R295) -/
  | spin (lines : List Nat) (fired : Bool)
  /-- WAIT-CAIRN on a mailbox request on a word: the number of the queued request, none where there was no room (R357, R360) -/
  | mbx (get : Bool) (word : Nat) (req : Option Nat) (served : Bool)
  /-- PARK-FAULT on the record with this sequence number (R12, R334) -/
  | fault (seq : Nat) (serviced : Bool)
  /-- BLOCK-BLK for n blocks, with the number of its entry among the group's in the pool's queue (R242) -/
  | blk (n entry : Nat)
  /-- BLOCK-ROPE, with the number of its entry among the group's in the rope queue (R225, R226) -/
  | rope (entry : Nat)
  deriving DecidableEq, Repr

/-- One path of a group: the state of a PC slot (R256). -/
structure Path where
  pc : DWord
  /-- address of the current clause header (R89) -/
  hdr : DWord
  /-- the words of the current clause as fetched at its entry, header first (R68, R97) -/
  words : List Word
  entry : Entry
  /-- split mask M -/
  m : Word
  fmt : BitVec 16
  /-- the predicate stack, P[d] first and P[0] last -/
  pst : List Word
  /-- the floor f -/
  floor : Nat
  park : Option Park
  /-- consecutive cycles for which it could issue and was passed over (R255) -/
  passed : Nat
  /-- cycles since it issued last (R254) -/
  idle : Nat
  deriving DecidableEq, Repr

/-- One position of the split stack (R265, R266). -/
inductive Pos where
  | recon (rpc : DWord) (mask arrv top : Word) (d floor : Nat) (fmt : BitVec 16)
  | call (pc : DWord) (d floor : Nat) (flags : BitVec 8) (pidx : BitVec 16) (rets : Word)
  /-- a path of depth d without a slot; its `pst` holds P[f] to P[f+6] -/
  | wait (p : Path) (d : Nat)
  /-- the second position of a WAIT, above the first: P[d] down to P[f+7] -/
  | wait2 (px : List Word)
  deriving DecidableEq, Repr

/-- A cairn of the watch table (R291). -/
structure Cairn where
  space : Space
  off : Nat
  /-- memory key of the watched word's first byte -/
  key : Nat
  fired : Bool
  deriving DecidableEq, Repr

/-- The idle-loop detector of a group slot (R294). -/
structure Detector where
  /-- first word of the backward branch B it is armed on -/
  b : DWord
  /-- the branch's target t -/
  t : DWord
  /-- the address after the branch's last word -/
  stop : DWord
  n : Nat
  /-- the iteration under way qualifies so far -/
  ok : Bool
  /-- loads of the iteration: space and offset, address and value, lane by lane -/
  loads : List (Nat × Nat)
  /-- lines the iteration's loads touched -/
  lines : List Nat
  /-- registers the iteration wrote -/
  wrote : List Reg
  /-- signature of the iteration before -/
  prev : List Nat
  /-- a write hit a line of the iteration that reached SPINT -/
  hit : Bool
  /-- SPINT of the context when it was armed (R324) -/
  spint : Nat
  /-- n reached SPINT: the group is about to park -/
  due : Bool
  deriving DecidableEq, Repr

/-- The architected state that instructions of a group read and write (R250). -/
structure Arch where
  /-- vector registers: lane l of v<n> is entry 32 n + l (R5) -/
  v : Sparse 32
  /-- uniform registers s0-s63 -/
  s : Sparse 32
  /-- predicates p0-p6 -/
  p : Sparse 32
  /-- completion counters k0-k11 (R134) -/
  k : Sparse 6
  /-- tracked instructions in issue order, from which the pending bits follow (R139) -/
  tracked : List Tracked
  nextSeq : Nat
  /-- in a continuation, the issue number that its own instructions start at: all of them are kept until it is resolved (R282) -/
  spec : Option Nat
  /-- poisoned registers (R306) -/
  poison : List Reg
  /-- registers whose data is lost to an uncorrectable error (R375, R376) -/
  ecc : List Reg
  /-- block count c (R242) -/
  blocks : Nat
  /-- live mask (R5) -/
  lm : Word
  path0 : Option Path
  path1 : Option Path
  /-- hardware-held split-stack positions, newest first (R268) -/
  stack : List Pos
  /-- positions spilled to the spill area (R268) -/
  spilled : Nat
  /-- spilled paths, by position: what the core keeps of them beside their images, which hold neither a wait nor the `rfl.run` that
  a path at a controller target came from (R289, R334, R395) -/
  kept : List (Nat × Path)
  /-- predicate-stack entries that stay in the core while neither slot holds a path and a refill is outstanding (R262) -/
  low : List Word
  deriving DecidableEq, Repr

/-- A live continuation of a forkable call, in a shadow slot (R277-R284). -/
structure Cont where
  /-- shadow slot number (R251) -/
  shadow : Nat
  /-- the continuation's view of the group -/
  arch : Arch
  /-- declared registers and the predicted value of each lane (R276) -/
  preds : List (Nat × Nat × Word)
  declared : List Nat
  /-- stores held back: address and byte (R279) -/
  belay : List Host.Cell
  /-- tracked set: number of the first 64-byte line, and how many lines: one, or two for a private line (R279) -/
  lines : List (Nat × Nat)
  /-- registers the continuation read before writing them (R280); `fmt` and P[d] count as registers p8 and p9 -/
  readFirst : List Reg
  /-- registers the continuation wrote, with the lanes written -/
  wrote : List (Reg × Word)
  /-- registers the callee wrote since the fork (R280) -/
  calleeWrote : List Reg
  /-- the callee exited or changed `lm` (R282) -/
  exited : Bool
  /-- it has stopped until resolution: a stall of R278 or a deferred fault (R284) -/
  stopped : Bool
  /-- depth of the split stack at the fork, below the call's entry -/
  depth : Nat
  /-- instructions it retired (R299), and lane arithmetic operations among them (R323) -/
  ret : Nat
  ops : Nat
  /-- its own issue numbers start here -/
  base : Nat
  /-- the group's next issue number at the fork -/
  forked : Nat
  /-- keys of its private accesses, which a discarded translation served (R157, R158) -/
  privs : List Nat
  /-- losses that it consumed, which are counted where it is squashed (R378) -/
  losses : Nat
  deriving DecidableEq, Repr

/-- A group (R250). -/
structure Group where
  id : Nat
  team : Nat
  /-- group index in the team -/
  gidx : Nat
  /-- group slot 0-63 of its core while resident, and the quadrant it keeps (R251, R243) -/
  slot : Nat
  /-- slot-allocation age: lower is older (R251) -/
  age : Nat
  arch : Arch
  /-- private slot (R129) -/
  priv : Nat
  cairn : Option Cairn
  detector : Option Detector
  conts : List Cont
  /-- `lm` reached 0 (R273) -/
  exited : Bool
  /-- an exited group has freed its slot (R273) -/
  retired : Bool
  /-- the record that a spill or refill is parked on (R268) -/
  spillFault : Option Nat
  /-- PC slot that resumes the next spill or refill fault's report -/
  lastSlot : Bool
  deriving DecidableEq, Repr

/-! ### Teams, grids and barriers -/

/-- A named barrier of a team (R287): OPEN(gen, arr) with the generation's count. -/
structure NamedBar where
  gen : Nat
  arr : Nat
  count : Nat
  /-- group indices that arrived in this generation -/
  who : List Nat
  /-- group indices whose arrival is held for the next generation, with their COUNT (R289) -/
  held : List (Nat × Nat)
  deriving DecidableEq, Repr

/-- States of a team (R318). -/
inductive TeamState where
  | unplaced | resident | bivouac | evicted | done | killed
  deriving DecidableEq, Repr

/-- One entry of a wake set (R297). -/
inductive WakeOn where
  | line (addr : Nat)
  | slotGen (slot cluster gen : Nat)
  | plq
  | mbx (ctx word : Nat) (get : Bool)
  deriving DecidableEq, Repr

/-- Why a team leaves its core, or has left it (R297, R299, R327, R329). -/
inductive Leaving where
  | stay
  | evict
  /-- for a team of another context (R329) -/
  | preempt
  deriving DecidableEq, Repr

/-- A team (R309, R318). -/
structure Team where
  id : Nat
  grid : Nat
  /-- linear index t (R309) -/
  t : Nat
  st : TeamState
  /-- the die it is bound to, once placed (R319) -/
  die : Nat
  bound : Bool
  site : Nat
  /-- team place and team-memory range on its core (R121, R320) -/
  tmBase : Nat
  tmem : Nat
  /-- block pools of the four quadrants, and the paths that wait on them, first in first: a group and its entry's number (R242) -/
  pools : List Nat
  takers : List (Nat × Nat)
  bars : List NamedBar
  age : Nat
  /-- RET (R299) -/
  ret : Nat
  /-- it has saved matrix state (R245) -/
  savedMatrix : Bool
  /-- save image: address and bytes in the save area (R331) -/
  image : Option (Nat × Nat)
  leaving : Leaving
  woken : Bool
  wakeSet : List WakeOn
  /-- cluster index and window (R322, R125) -/
  cluster : Nat
  winBase : Nat
  winLen : Nat
  /-- the slot, its cluster's count and the generation that a team arrival waits for (R301) -/
  slotWait : Option (Nat × Nat × Nat)
  /-- its arrivals so far at each slot index of its grid (R301) -/
  arrivals : List (Nat × Nat)
  /-- rotation quantum exponent, as the context record had it at placement (R299, R324) -/
  qlog : Nat
  /-- its bivouac record: bytes, and whether it is handed to the dispatcher (R304, R306) -/
  record : Option (Nat × Bool)
  /-- where the record lies: part (the main-memory one or not), offset and size (R304) -/
  recordAt : Option (Bool × Nat × Nat)
  /-- a bivouac's steps are under way (R304) -/
  bivouacking : Bool
  /-- record write parked on this fault record (R307), and the bytes of the record that are written -/
  recFault : Option Nat
  recDone : Nat
  /-- the model's own: the number of the free value that its record's link takes -/
  recLink : Nat
  /-- image write or read parked on this fault record (R331, R332) -/
  saveFault : Option Nat
  /-- core cycles spent on cores, and its core's cycle counter when it was placed last (R361) -/
  cost : Nat
  since : DWord
  /-- classifier counts (R323) -/
  ops : Nat
  bytes : Nat
  deriving DecidableEq, Repr

/-- A kernel descriptor as the front end reads it (R111). -/
structure KDesc where
  addr : DWord
  code : DWord
  regs : Nat
  groups : Nat
  bars : Nat
  fork : Nat
  tmem : Nat
  gbar : Nat
  rows : Nat
  cols : Nat
  argsz : Nat
  pinned : Bool
  carryv : BitVec 128
  cwoff : Nat
  cwlen : Nat
  /-- required cores, 160 bits a die (R114) -/
  bitmap : List Nat
  deriving DecidableEq, Repr

/-- States of a grid (R310). -/
inductive GridState where
  | submitted | dispatching | draining | retired | failed
  deriving DecidableEq, Repr

/-- What a grid reports to besides its words: the packet or the launch thread that waits for it (R312, R353). -/
inductive Launcher where
  | packet (queue gen idx : Nat)
  | thread (tid : Nat)
  deriving DecidableEq, Repr

/-- How far a grid's report has come (R313). -/
inductive ReportPhase where
  | none | status | completion | reported
  /-- the write waits on this record; the flag says that the status word is written -/
  | heldFault (seq : Nat) (statusDone : Bool)
  deriving DecidableEq, Repr

/-- A grid (R309, R310). -/
structure Grid where
  id : Nat
  ctx : Nat
  queue : Nat
  /-- the model's own: how often queues of that number were created before -/
  qgen : Nat
  prio : Nat
  /-- PRIO of the queue that it belongs to, above which no grid that it launches may be (R309) -/
  top : Nat
  /-- address of the descriptor that its launch named (R116) -/
  root : DWord
  /-- the model's own: what its acceptance read of descriptors and variant table, by address (R118) -/
  seen : List (Nat × List Byte)
  desc : KDesc
  gx : Nat
  gy : Nat
  gz : Nat
  args : List Word
  cwa : Nat
  /-- completion word in the context window of this die (R311) -/
  cwDie : Option Nat
  sta : Nat
  staDie : Option Nat
  clwin : Nat
  st : GridState
  code : Nat
  killed : Nat
  /-- next linear index to deal (R319) -/
  nextDeal : Nat
  /-- teams placed once, teams ended -/
  placed : Nat
  ended : Nat
  /-- barrier-table slots (R302) -/
  slots : List Nat
  /-- dies of its partition, fixed at acceptance (R309) -/
  dies : BitVec 4
  report : ReportPhase
  /-- the record that a re-read of its descriptor waits on (R117) -/
  hold : Option Nat
  launcher : Launcher
  /-- teams counted, operations and bytes of the classifier (R323) -/
  clsTeams : Nat
  clsOps : Nat
  clsBytes : Nat
  clsDone : Bool
  deriving DecidableEq, Repr

/-- States of a barrier slot (R303). -/
inductive SlotState where
  | free | armed | filling | releasing
  deriving DecidableEq, Repr

/-- One generation counter of a barrier slot; a cluster slot has one for each cluster (R302). -/
structure SlotGen where
  cluster : Nat
  st : SlotState
  g : Nat
  arr : Nat
  next : Nat
  deriving DecidableEq, Repr

/-- A barrier-table slot that a grid holds (R302, R303). -/
structure BarSlot where
  id : Nat
  grid : Nat
  kind : Option BarKind
  gens : List SlotGen
  /-- a cluster slot's count array in the context's bivouac pool: die, part and offset (R302) -/
  counts : Option (Nat × Bool × Nat)
  /-- queue of bivouac records, oldest first: the teams they hold (R302) -/
  records : List Nat
  deriving DecidableEq, Repr

/-! ### The matrix unit -/

/-- A matrix plane (R219). -/
structure Plane where
  elem : Sparse 8
  scale : Sparse 8
  ptag : BitVec 4
  deriving DecidableEq, Repr

/-- A thread of the step sequencer or the drain unit (R219, R231-R240). -/
inductive MxKind where
  | mldE (off : Nat)
  | mldS (off : Nat)
  | mswp
  | mlp (off : Nat) (zero : Bool)
  | mdrn (off : Nat) (scl : Bool)
  deriving DecidableEq, Repr

structure MxThread where
  /-- position in matrix issue order (R237) -/
  no : Nat
  kind : MxKind
  grp : Nat
  team : Nat
  /-- the group's tracked instruction, if it is tracked -/
  seq : Option Nat
  fmt : BitVec 16
  pc : DWord
  iword : Word
  /-- the record once read, and the next K-step or row -/
  record : Option (List Byte)
  step : Nat
  /-- rows already stepped into by a loop with ZERO (R236) -/
  rows : List Nat
  amax : Word
  deriving DecidableEq, Repr

/-- The matrix unit of a core (R219). -/
structure Matrix where
  active : Plane
  shadow : Plane
  /-- accumulator memory: row r, column n is entry 128 r + n -/
  acc : Sparse 32
  /-- rope holder: a group -/
  rope : Option Nat
  /-- the rope queue, head first: a group and the number of its entry (R226) -/
  ropeq : List (Nat × Nat)
  team : Option Nat
  /-- threads in matrix issue order -/
  threads : List MxThread
  nextNo : Nat
  /-- the release of R230 is due -/
  release : Bool
  /-- planes or accumulator memory hold lost data (R375, R376) -/
  ecc : Bool
  deriving DecidableEq, Repr

/-- What an evicted matrix team saves (R245). -/
structure SavedMatrix where
  team : Nat
  active : Plane
  shadow : Plane
  acc : Sparse 32
  rope : Option Nat
  ropeq : List (Nat × Nat)
  threads : List MxThread
  /-- planes or rows hold lost data, which comes back with them (R376) -/
  ecc : Bool
  deriving DecidableEq, Repr

/-- The prediction modes of R276. -/
inductive PredMode where
  | const | last | stride
  deriving DecidableEq, Repr

/-- One declared register's part of a predictor entry (R276). -/
structure PredReg where
  mode : PredMode
  last : Sparse 32
  stride : Sparse 32
  deriving DecidableEq, Repr

/-- A predictor entry (R276). -/
structure PredEntry where
  idx : Nat
  conf : Nat
  regs : List PredReg
  deriving DecidableEq, Repr

/-- A core (R21). -/
structure Core where
  die : Nat
  site : Nat
  /-- core cycle counter (R26) -/
  cycle : DWord
  /-- performance counters 0-11 and PERFCTL (R339) -/
  perf : Sparse 64
  perfctl : Word
  mx : Matrix
  /-- pending-launch queue: launch threads holding an entry (R314) -/
  plq : List Nat
  /-- groups parked on a full queue, oldest first, and freed entries that have yet to wake one -/
  plqWait : List Nat
  plqWakes : Nat
  predictor : List PredEntry
  /-- current path C of each quadrant: group, PC slot, and for a continuation its place in the group (R254) -/
  cur : List (Nat × Nat × Bool × Option Nat)
  deriving DecidableEq, Repr

/-! ### Engine threads -/

/-- What an engine thread does (R143, R201, R412, R156, R312, R381). -/
inductive ThreadKind where
  | copy (dims : Nat)
  | fill
  | gather
  | scatter
  | bam (op : AtomicOp)
  | coll (op : BitVec 2) (ty : CollTy)
  | tfence (sc : Scope)
  | launch
  | hand (stack tgt : Nat)
  deriving DecidableEq, Repr

/-- How far a thread has come. -/
inductive ThreadState where
  /-- the descriptor or record is still to be read -/
  | fresh
  /-- it moves its elements, or runs its drain steps -/
  | running
  /-- parked on PAGE under this record; the flag says that it was serviced (R213) -/
  | parked (seq : Nat)
  /-- a launch that the front end has accepted (R312) -/
  | waiting
  | ended
  deriving DecidableEq, Repr

/-- An engine thread (R143). -/
structure Thread where
  id : Nat
  kind : ThreadKind
  grp : Nat
  team : Nat
  grid : Nat
  ctx : Nat
  die : Nat
  site : Nat
  /-- group slot of the issuing group, for the record's GID -/
  slot : Nat
  gidx : Nat
  pc : DWord
  iword : Word
  path : AccPath
  seq : Option Nat
  st : ThreadState
  /-- team-memory offset of its descriptor or record -/
  off : Nat
  /-- the descriptor's bytes as read -/
  desc : List Byte
  /-- resume index (R212), or drain step (R382) -/
  idx : Nat
  /-- source bytes of a copy that were read with the aligned word of its last element (R144) -/
  ahead : List Byte
  /-- launch arguments read by the thread (R312) -/
  args : List Word
  /-- the grid a launch thread waits for -/
  child : Option Nat
  /-- hand-overs whose fence precedes this command (R382): stacks refused to it -/
  fenced : List Nat
  /-- lane accesses, by group and issue number, that a translation fence waits for (R156) -/
  waits : List (Nat × Nat)
  /-- the issuing team was killed: completion lowers nothing (R215) -/
  orphan : Bool
  deriving DecidableEq, Repr

/-! ### Fault records and contexts -/

/-- A fault record (R335). -/
structure FaultRec where
  seq : Nat
  pc : DWord
  addr : DWord
  iword : Word
  lanes : Word
  kind : FaultKind
  cls : Nat
  flags : Nat
  gid : Nat
  ctx : Nat
  grid : Nat
  team : Nat
  die : Nat
  site : Nat
  gidx : Nat
  code : Nat
  deriving DecidableEq, Repr

/-- What RESUME-FAULT with a record's number lets go on (R334, R373). -/
inductive FaultTarget where
  | path (grp : Nat)
  | spill (grp : Nat)
  | thread (tid : Nat)
  | bivouac (team : Nat)
  | accept (tid : Nat)
  | packet (queue : Nat)
  | image (team : Nat)
  | grid (grid : Nat)
  | report (grid : Nat)
  deriving DecidableEq, Repr

/-- States of a context (R327). -/
inductive CtxState where
  | free | loading | ready | resident | partly | out | faulted | dead
  deriving DecidableEq, Repr

/-- A context as the device keeps it; its record lies in memory at `recAddr` (R324). -/
structure Ctx where
  id : Nat
  st : CtxState
  /-- tagged physical address of the context record (R326, R437) -/
  recAddr : DWord
  /-- dies of its partition, bit d (R116) -/
  dies : BitVec 4
  /-- records written since LOAD (R336) -/
  h : Nat
  /-- recoverable records held because the ring is full, oldest first (R336) -/
  held : List FaultRec
  /-- outstanding recoverable faults (R334) -/
  faults : List (Nat × FaultTarget)
  /-- private slots in use (R129) -/
  privUsed : List Nat
  /-- save-area allocations: die, offset, bytes (R331) -/
  saves : List (Nat × Nat × Nat)
  /-- bivouac-pool allocations: die, part, offset, bytes (R304) -/
  pools : List (Nat × Bool × Nat × Nat)
  /-- a SWITCH-OUT is under way (R327) -/
  switching : Bool
  /-- the ring cannot be written any more (R336) -/
  noRing : Bool
  /-- mailbox table entry read at LOAD: MBA, MBN (R356) -/
  mba : DWord
  mbn : Nat
  deriving DecidableEq, Repr

/-! ### Queues and the front end -/

/-- States of a queue (R344, R349). -/
inductive QState where
  | absent | idle | active | stalled | blocked | out | error
  deriving DecidableEq, Repr

/-- A queue control block as the front end holds it (R344). -/
structure Queue where
  id : Nat
  ring : DWord
  szlog : Nat
  prio : Nat
  st : QState
  ctl : BitVec 8
  ctx : Nat
  tail : Nat
  rdidx : Nat
  doneidx : Nat
  quantum : Nat
  deficit : Int
  proga : DWord
  errcode : Nat
  erridx : Nat
  errhdr : DWord
  errval : DWord
  /-- started packets that have not completed (R350) -/
  pending : List Nat
  /-- the validated packet at RDIDX that waits to start: its 64 bytes (R350); no bytes where a BLOCKED queue's packet is to be fetched
  again after a reload (R342) -/
  packet : Option (List Byte)
  /-- index, header and DEST of the started MBX-GETs that wait to be served (R353) -/
  getting : List (Nat × DWord × DWord)
  /-- sequence number of the front-end fault the queue's packet waits on (R439) -/
  feFault : Option Nat
  /-- highest value written to its progress word (R347) -/
  prog : Nat
  /-- the model's own: how often queues of its number were created before (R350) -/
  gen : Nat
  deriving DecidableEq, Repr

/-- Who made a mailbox request (R357). -/
inductive MbxFrom where
  | path (grp : Nat) (slot : Bool)
  | queue (q gen idx : Nat)
  deriving DecidableEq, Repr

/-- A queued mailbox request (R357). -/
structure MbxReq where
  /-- number of the request -/
  id : Nat
  ctx : Nat
  word : Nat
  /-- the value of a put; none for a get -/
  put : Option DWord
  src : MbxFrom
  /-- destination register of a group's get -/
  dest : Nat
  deriving DecidableEq, Repr

/-- A message on its way to the front end (R340, R359). -/
inductive FeMsg where
  | bell (ctx : Nat) (queue : Word) (tail : DWord)
  | sint (ctx : Nat) (v : Word)
  deriving DecidableEq, Repr

/-- Classes of the intensity classifier (R323). -/
inductive Intensity where
  | compute | memory | mixed
  deriving DecidableEq, Repr

/-- A collective participant of this package that joined an instance (R414). -/
structure CollJoin where
  cg : Nat
  inst : Nat
  tid : Nat
  deriving DecidableEq, Repr

/-- An access to the memory of a control block: a load, a write, or the write of a queue in ERROR, behind which the host is signalled (R345,
R407). -/
inductive QcbAccess where
  | load | write | error
  deriving DecidableEq, Repr

/-- The front end, its host registers and the hub die's state (R326, R341-R346, R406-R413). -/
structure FrontEnd where
  ctxarg : DWord
  ctxStatus : Nat
  /-- the context whose SWITCH-OUT is under way: BUSY -/
  ctxBusy : Option Nat
  qtbase : DWord
  qtlog : Word
  mbtbase : DWord
  qarg : DWord
  qStatus : Nat
  hsig : BitVec 4
  domid : Word
  /-- EXPT[i] word 0 and word 1 are entries 2i and 2i + 1 (R411) -/
  expt : Sparse 64
  /-- CGE[g] word 0 and word 1 are entries 2g and 2g + 1 (R413) -/
  cge : Sparse 64
  /-- messages in flight, oldest first -/
  msgs : List FeMsg
  /-- queued mailbox requests, oldest first (R357) -/
  mbxq : List MbxReq
  nextReq : Nat
  /-- round-robin pointer of each priority level (R361) -/
  rr : List Nat
  /-- classifier table, most recently used first: context, descriptor, class (R323) -/
  classes : List (Nat × DWord × Intensity)
  /-- QCB entry cache, most recently used first (R345) -/
  qcache : List Nat
  /-- the logic block is being reloaded (R342) -/
  reloading : Bool
  reloads : Nat
  /-- doorbell values held during a reload, oldest first, with the context of one that a `q.bell` sent (R342, R359) -/
  heldBells : List (Nat × DWord × Option Nat)
  /-- the model's own: accesses to control blocks, a write each or a load, and progress words of queues, that wait for a stack (R379, R437) -/
  qcbDue : List (Nat × QcbAccess)
  progDue : List Nat
  /-- collective participants waiting for their instance, and instances formed so far by group -/
  joins : List CollJoin
  instances : List (Nat × Nat)
  /-- required cores of pinned kernels that no variant table names: context, descriptor address and a mask for each die, as the
  program's load gives them (R113) -/
  pins : List (Nat × DWord × List Nat)
  /-- NOTIFY transactions sent to the host, newest first (R407) -/
  notified : List Nat
  /-- the model's own: data of the host's reads, newest first (R404) -/
  reads : List Nat
  deriving DecidableEq, Repr

/-! ### Translation caches -/

/-- The translation caches of R370. -/
inductive TlbUnit where
  | leaf (die : Nat) (unit : WalkUnit)
  | walk (die level : Nat)
  deriving DecidableEq, Repr

/-- A cached translation: the entry's 8 bytes for one page, or for one table level (R370). -/
structure TlbEntry where
  unit : TlbUnit
  ctx : Nat
  /-- lowest virtual address it serves, and how many bytes -/
  va : Nat
  size : Nat
  pte : DWord
  /-- the stack that holds the table the entry was read from, if any (R382) -/
  table : Option Nat
  deriving DecidableEq, Repr

/-! ### Stacks, links and the package -/

/-- The hub die's state of a stack (R379). -/
inductive StackState where
  | training
  | owned (die : Nat)
  | handing (src dst step : Nat)
  | failed
  deriving DecidableEq, Repr

/-- A die's copy of the ownership of a stack ported to it (R379, R381). -/
inductive DieCopy where
  | notOwned | owned | handing
  deriving DecidableEq, Repr

/-- An entry of a base-die controller's error log (R387). -/
structure BdcEntry where
  lseq : Nat
  pa : Nat
  kind : Nat
  channel : Nat
  ce : Word
  ue : Word
  ovf : Word
  deriving DecidableEq, Repr

/-- A stack and its base-die controller (R379-R389). -/
structure Stack where
  n : Nat
  st : StackState
  /-- copies of the two dies beside it: the lower-listed die of R27, then the other -/
  copyA : DieCopy
  copyB : DieCopy
  hseq : Word
  cecnt : Word
  uecnt : Word
  logovf : Word
  lseq : Nat
  log : List BdcEntry
  /-- repaired rows: granule addresses added to the repair map (R386) -/
  repairs : List Nat
  /-- next granule of the patrol scrub -/
  scrubAt : Nat
  /-- corrected errors of each row (R386) -/
  rowCe : List (Nat × Nat)
  refreshes : Nat
  hotRefresh : Bool
  /-- the temperature that the BDC's telemetry holds (R386) -/
  temp : Nat
  /-- the die whose port is open (R386) -/
  portTo : Option Nat
  /-- wake bit with the context that woke it last (R425) -/
  wake : Option Nat
  /-- the stack's BDC firmware verified (R418) -/
  fwOk : Bool
  deriving DecidableEq, Repr

/-- States of a Horhorn port (R410). -/
inductive PortState where
  | down | training | up | degraded | failed
  deriving DecidableEq, Repr

/-- A Horhorn port (R410). -/
structure Port where
  n : Nat
  st : PortState
  /-- lanes in use: 0, 4 or 8 -/
  lanes : Nat
  /-- consecutive training attempts, and consecutive replays of the flit under way (R410) -/
  attempts : Nat
  replays : Nat
  retry : BitVec 16
  peerPkg : BitVec 6
  peerPort : BitVec 4
  deriving DecidableEq, Repr

/-- A UCIe module of the host attachment (R403). -/
structure UcieModule where
  n : Nat
  up : Bool
  full : Bool
  retries : Nat
  repaired : List Nat
  deriving DecidableEq, Repr

/-- A signed image or record in flash (R419, R420). -/
structure Image where
  kind : Nat
  keyslot : Nat
  version : Nat
  digest : Nat
  body : List Byte
  ecdsa : Nat
  lms : Nat
  magic : Word
  lmslen : Nat
  deriving DecidableEq, Repr

/-- Start stages (R417, R424). -/
inductive Stage where
  | a | b | c | d | halted
  deriving DecidableEq, Repr

/-- An entry of the management log: source and event (R336, R377, R387, R342, R35). -/
inductive MgmtEntry where
  | faultRecord (seq : Nat) (r : FaultRec)
  | writeFault (seq ctx kind : Nat) (addr : DWord)
  | loss (seq cls va pa : Nat)
  | bdc (seq stack : Nat) (e : BdcEntry)
  | reload (seq : Nat)
  | thermal (seq die : Nat)
  deriving DecidableEq, Repr

/-- A message of a reply of the management mailbox: SEQ, OP, STATUS and at most 56 bytes of payload (R423). -/
structure MgmtReply where
  seq : Word
  op : BitVec 16
  status : BitVec 16
  payload : List Byte
  deriving DecidableEq, Repr

/-- The package controller and what start leaves (R33, R35, R417-R426). -/
structure Package where
  stage : Stage
  /-- the stage's checks are still to run -/
  stageDue : Bool
  cause : BitVec 8
  dieok : BitVec 4
  warm : Bool
  pres : Bool
  /-- enable masks accepted in Stage A (R16, R420) -/
  enmask : List (BitVec 156)
  signature : Word
  /-- matrix issue duty of each die in sixteenths (R33) -/
  duty : List Nat
  /-- junction temperatures of the latest sweep -/
  temps : List Nat
  /-- temperature holds the device in reset, and the cool sweeps counted (R35) -/
  held : Bool
  coolSweeps : Nat
  /-- a host RESET acknowledged while the device is held: kind, preserve, die mask -/
  heldReset : Option (ResetKind × Bool × BitVec 4)
  /-- an acknowledged RESET that has not begun (R423) -/
  pendingReset : Option (ResetKind × Bool × BitVec 4)
  /-- flash contents by slot, and staged images (R420) -/
  flash : List (Nat × Image)
  staged : List (Nat × List Byte)
  minver : List Nat
  /-- helper data of the PUF, in flash (R421) -/
  helper : List Byte
  /-- identity key and LMS identity seed, once derived (R421) -/
  idKey : Option (BitVec 384)
  lmsSeed : Option (BitVec 256)
  lmsLeaf : Nat
  sessionKeys : List Nat
  log : List MgmtEntry
  replies : List MgmtReply
  wake : Option Nat
  hrwbase : DWord
  hmabase : DWord
  modules : List UcieModule
  deriving DecidableEq, Repr

/-- Room that a pre-empting unit has been promised (R329): its teams, the sites, and the teams that are saved for it, in order. -/
structure Claim where
  unit : List Nat
  area : List Nat
  victims : List Nat
  deriving DecidableEq, Repr

/-- A compute die: its absent-team queue and wake table (R297, R298), and its cluster-window allocations (R322). -/
structure Die where
  n : Nat
  absent : List Nat
  wakeTable : List (Nat × WakeOn)
  windows : List (Nat × Nat × Nat)
  claims : List Claim
  deriving DecidableEq, Repr

/-! ### The machine -/

/-- A 64-byte line of stack memory that is dirty in its owner's stack cache: what DRAM holds for it, and whether that is
poisoned (R20, R375, R389). -/
structure CacheLine where
  line : Nat
  dram : List Byte
  poison : Bool
  deriving DecidableEq, Repr

/-- Where an uncorrectable error arises (R375, R376). -/
inductive EccSite where
  /-- the granule of memory with this number: a stack's, a die scratchpad's or a team memory's -/
  | granule (q : Nat)
  /-- a clean line of a stack cache, which DRAM still holds -/
  | clean (q : Nat)
  /-- found by a request to DRAM, at this granule: corrected, or data is lost (R387) -/
  | request (q : Nat) (corrected : Bool)
  | reg (grp : Nat) (r : Reg)
  /-- planes or accumulator memory of a core -/
  | matrix (die site : Nat)
  /-- a line held in the belay buffer of a continuation (R284) -/
  | belay (grp k : Nat)
  /-- hub-die state, found as the front end reads it -/
  | hub
  deriving DecidableEq, Repr

/-- What the quadrant whose turn it is may still issue in its cycle (R254): its number, the path that has issued, whether that took
the vector pipe, and how far the cycle has come. -/
structure Turn where
  quad : Nat
  grp : Nat
  slot : Bool
  /-- the continuation of the group whose path it is -/
  cont : Option Nat
  vector : Bool
  /-- the other pipe has had its turn -/
  both : Bool
  deriving DecidableEq, Repr

/-- What the schedule asks for next: an issue of one path, or one step of another agent. -/
inductive Act where
  | issue (grp : Nat) (slot : Bool)
  /-- the same, where a lane access is put off (R152) -/
  | issueLate (grp : Nat) (slot : Bool)
  /-- one lane's part of an access that was put off is performed (R145, R152) -/
  | perform (grp seq i : Nat)
  /-- a dirty line is written back (R15, R20) -/
  | writeBack (line : Nat)
  /-- an uncorrectable error arises (R375) -/
  | ecc (at_ : EccSite)
  /-- a flit of a port passes its CRC: the replays of the one before it are over (R409, R410) -/
  | flit (port : Nat)
  | shadow (grp k : Nat)
  | event (i : Instr)
  deriving DecidableEq, Repr

/-- The whole module. -/
structure State where
  /-- every byte of every memory, in canonical form: see Machine/Memory.lean for the keys (R119, R366) -/
  mem : List Host.Cell
  /-- 64-byte granules whose data is lost: their poison codes (R375) -/
  lost : List Nat
  /-- dirty lines of the stack caches, each in the cache of the die that owns its stack (R15, R18, R20) -/
  cache : List CacheLine
  /-- consumed losses counted so far (R378) -/
  losses : Nat
  groups : List Group
  teams : List Team
  grids : List Grid
  slots : List BarSlot
  /-- cores that differ from a core right after reset -/
  cores : List Core
  saved : List SavedMatrix
  threads : List Thread
  ctxs : List Ctx
  queues : List Queue
  tlb : List TlbEntry
  dies : List Die
  mstacks : List Stack
  ports : List Port
  fe : FrontEnd
  pkg : Package
  /-- package event sequence number of the next record (R10) -/
  evSeq : Nat
  /-- identifiers the model gives next: groups, teams, threads; and the slot-allocation age -/
  nextGroup : Nat
  nextTeam : Nat
  nextThread : Nat
  nextAge : Nat
  /-- the path that issues: group and PC slot -/
  cur : Nat × Bool
  /-- the model's own: the continuation of that group whose instruction is under way; none between steps -/
  view : Option Nat
  /-- the model's own: the lane access of the instruction under way is put off -/
  late : Bool
  /-- the model's own: what is left of the cycle of the quadrant whose turn it is -/
  turn : Option Turn
  /-- the model's own: what happens next, oldest first, chosen from outside -/
  agenda : List Act
  /-- the model's own: number of free values drawn so far -/
  free : Nat
  deriving DecidableEq, Repr

/-! ### The machine right after reset -/

/-- A plane right after reset (R219). -/
def Plane.reset : Plane := ⟨[], [], 0⟩

/-- A matrix unit right after reset (R219). -/
def Matrix.reset : Matrix := ⟨.reset, .reset, [], none, [], none, [], 0, false, false⟩

/-- A core right after reset: counters zero (R26, R339), an empty queue, every predictor field zero (R276). -/
def Core.reset (die site : Nat) : Core :=
  { die := die, site := site, cycle := 0, perf := [], perfctl := 0, mx := .reset, plq := [], plqWait := [], plqWakes := 0,
    predictor := [], cur := [] }

/-- The dies that the ports of stack `n` lead to, the default owner first (R27). -/
def Stack.ports (n : Nat) : Nat × Nat := (n / 4 % 4, (n / 4 + 1) % 4)

/-- A stack right after reset: TRAINING, with its counters and log clear (R379, R380, R387). -/
def Stack.reset (n : Nat) : Stack :=
  { n := n, st := .training, copyA := .notOwned, copyB := .notOwned, hseq := 0, cecnt := 0, uecnt := 0, logovf := 0,
    lseq := 1, log := [], repairs := [], scrubAt := 0, rowCe := [], refreshes := 0, hotRefresh := false, temp := 0, portTo := none, wake := none, fwOk := false }

/-- A Horhorn port right after reset: DOWN (R410). -/
def Port.reset (n : Nat) : Port := ⟨n, .down, 0, 0, 0, 0, 0, 0⟩

/-- The front end right after reset: every host register zero (R326, R343, R407). -/
def FrontEnd.reset : FrontEnd :=
  { ctxarg := 0, ctxStatus := 0, ctxBusy := none, qtbase := 0, qtlog := 0, mbtbase := 0, qarg := 0, qStatus := 0,
    hsig := 0, domid := 0, expt := [], cge := [], msgs := [], mbxq := [], nextReq := 0, rr := [0, 0, 0, 0], classes := [],
    qcache := [], reloading := false, reloads := 0, heldBells := [], qcbDue := [], progDue := [], joins := [], instances := [], pins := [], notified := [], reads := [] }

/-- The package controller at Stage A, before its checks (R417, R424). -/
def Package.reset : Package :=
  { stage := .a, stageDue := true, cause := 0, dieok := 0, warm := false, pres := false,
    enmask := [0, 0, 0, 0], signature := 0, duty := [16, 16, 16, 16], temps := [0, 0, 0, 0], held := false,
    coolSweeps := 0, heldReset := none, pendingReset := none, flash := [], staged := [], minver := [],
    helper := [], idKey := none, lmsSeed := none, lmsLeaf := 0, sessionKeys := [], log := [], replies := [], wake := none, hrwbase := 0,
    hmabase := 0, modules := (List.range 4).map fun n => ⟨n, n == 0, false, 0, []⟩ }

/-- The module right after reset: Stage A, every context FREE, every queue ABSENT, nothing placed, memory with
nothing listed (R417, R426). -/
def State.reset : State :=
  { mem := [], lost := [], cache := [], losses := 0, groups := [], teams := [], grids := [], slots := [], cores := [], saved := [],
    threads := [], ctxs := [], queues := [], tlb := [], dies := (List.range 4).map fun n => ⟨n, [], [], [], []⟩,
    mstacks := (List.range 16).map Stack.reset, ports := (List.range 16).map Port.reset, fe := .reset, pkg := .reset,
    evSeq := 0, nextGroup := 0, nextTeam := 0, nextThread := 0, nextAge := 0, cur := (0, false), view := none, late := false, turn := none, agenda := [],
    free := 0 }

end Sys2Proof.Machine
end

