-- ==== Sys2Proof/Machine/Sparse.lean ====
section
/-!
DEFINITION. Sparse tables in canonical form: keys strictly rising, and no entry holds the value 0 that an unlisted key
reads as. Memory is one such table of bytes (R119; the 0 of an unwritten byte is assumption 2).
-/
namespace Sys2Proof

/-- The value at key `k`: 0 where none is listed. -/
def Sparse.look {w : Nat} (t : List (Nat × BitVec w)) (k : Nat) : BitVec w :=
  match t with
  | [] => 0
  | (a, b) :: r => if a = k then b else Sparse.look r k

/-- An entry put in its place in a table that rises. -/
def Sparse.insert {w : Nat} (t : List (Nat × BitVec w)) (k : Nat) (v : BitVec w) : List (Nat × BitVec w) :=
  match t with
  | [] => [(k, v)]
  | (a, b) :: r => if k < a then (k, v) :: (a, b) :: r else (a, b) :: Sparse.insert r k v

/-- A table without the entries at key `k`. -/
def Sparse.erase {w : Nat} (t : List (Nat × BitVec w)) (k : Nat) : List (Nat × BitVec w) :=
  match t with
  | [] => []
  | (a, b) :: r => if a = k then Sparse.erase r k else (a, b) :: Sparse.erase r k

/-- The table with value `v` at key `k`; writing 0 removes the entry. -/
def Sparse.put {w : Nat} (t : List (Nat × BitVec w)) (k : Nat) (v : BitVec w) : List (Nat × BitVec w) :=
  if v = 0 then Sparse.erase t k else Sparse.insert (Sparse.erase t k) k v

/-- Every key of the table is above `k`. -/
def Sparse.above {w : Nat} (k : Nat) (t : List (Nat × BitVec w)) : Bool :=
  match t with
  | [] => true
  | (a, _) :: r => k < a && Sparse.above k r

/-- The canonical form: keys strictly rising, no entry 0. -/
def Sparse.wf {w : Nat} (t : List (Nat × BitVec w)) : Bool :=
  match t with
  | [] => true
  | (a, b) :: r => b != 0 && Sparse.above a r && Sparse.wf r

/-- The table without the entries whose key lies in [lo, lo + n). -/
def Sparse.clear {w : Nat} (t : List (Nat × BitVec w)) (lo n : Nat) : List (Nat × BitVec w) :=
  t.filter fun e => !(lo ≤ e.1 && e.1 < lo + n)

end Sys2Proof
end

