-- ==== Sys2Proof/Machine/Access.lean ====
section
/-!
DEFINITION. Reading and replacing the parts of the state by their identifiers: groups, teams, grids, cores, contexts,
queues, threads, stacks, ports and dies.
-/
namespace Sys2Proof.Machine

/-- The list with every entry that satisfies `p` replaced by `f` of it. -/
def mapIf {α : Type} (l : List α) (p : α → Bool) (f : α → α) : List α := l.map fun x => if p x then f x else x

/-! ### Lookups -/

def State.group? (s : State) (id : Nat) : Option Group := s.groups.find? (·.id == id)
def State.team? (s : State) (id : Nat) : Option Team := s.teams.find? (·.id == id)
def State.grid? (s : State) (id : Nat) : Option Grid := s.grids.find? (·.id == id)
def State.ctx? (s : State) (id : Nat) : Option Ctx := s.ctxs.find? (·.id == id)
def State.queue? (s : State) (id : Nat) : Option Queue := s.queues.find? (·.id == id)
def State.thread? (s : State) (id : Nat) : Option Thread := s.threads.find? (·.id == id)
def State.slot? (s : State) (id : Nat) : Option BarSlot := s.slots.find? (·.id == id)
def State.die? (s : State) (n : Nat) : Option Die := s.dies.find? (·.n == n)
def State.stack? (s : State) (n : Nat) : Option Stack := s.mstacks.find? (·.n == n)
def State.port? (s : State) (n : Nat) : Option Port := s.ports.find? (·.n == n)

/-- A core: as it was right after reset where the state lists none (R26, R219, R339). -/
def State.core (s : State) (die site : Nat) : Core :=
  (s.cores.find? fun c => c.die == die && c.site == site).getD (Core.reset die site)

/-! ### Replacements -/

def State.onGroup (s : State) (id : Nat) (f : Group → Group) : State :=
  { s with groups := mapIf s.groups (·.id == id) f }
def State.onTeam (s : State) (id : Nat) (f : Team → Team) : State :=
  { s with teams := mapIf s.teams (·.id == id) f }
def State.onGrid (s : State) (id : Nat) (f : Grid → Grid) : State :=
  { s with grids := mapIf s.grids (·.id == id) f }
def State.onCtx (s : State) (id : Nat) (f : Ctx → Ctx) : State :=
  { s with ctxs := mapIf s.ctxs (·.id == id) f }
def State.onQueue (s : State) (id : Nat) (f : Queue → Queue) : State :=
  { s with queues := mapIf s.queues (·.id == id) f }
def State.onThread (s : State) (id : Nat) (f : Thread → Thread) : State :=
  { s with threads := mapIf s.threads (·.id == id) f }
def State.onSlot (s : State) (id : Nat) (f : BarSlot → BarSlot) : State :=
  { s with slots := mapIf s.slots (·.id == id) f }
def State.onDie (s : State) (n : Nat) (f : Die → Die) : State :=
  { s with dies := mapIf s.dies (·.n == n) f }
def State.onStack (s : State) (n : Nat) (f : Stack → Stack) : State :=
  { s with mstacks := mapIf s.mstacks (·.n == n) f }
def State.onPort (s : State) (n : Nat) (f : Port → Port) : State :=
  { s with ports := mapIf s.ports (·.n == n) f }

/-- A core replaced, and listed from then on. -/
def State.setCore (s : State) (c : Core) : State :=
  if s.cores.any (fun d => d.die == c.die && d.site == c.site) then
    { s with cores := mapIf s.cores (fun d => d.die == c.die && d.site == c.site) fun _ => c }
  else { s with cores := s.cores ++ [c] }

def State.onCore (s : State) (die site : Nat) (f : Core → Core) : State := s.setCore (f (s.core die site))

def State.onFe (s : State) (f : FrontEnd → FrontEnd) : State := { s with fe := f s.fe }
def State.onPkg (s : State) (f : Package → Package) : State := { s with pkg := f s.pkg }

/-! ### Lists that belong together -/

/-- The groups of a team, in group-index order as they were placed (R298). -/
def State.teamGroups (s : State) (team : Nat) : List Group := s.groups.filter (·.team == team)

/-- The teams of a grid. -/
def State.gridTeams (s : State) (grid : Nat) : List Team := s.teams.filter (·.grid == grid)

/-- The grids of a context. -/
def State.ctxGrids (s : State) (ctx : Nat) : List Grid := s.grids.filter (·.ctx == ctx)

/-- The context of a grid; identifiers that are not listed give 0. -/
def State.gridCtx (s : State) (grid : Nat) : Nat := ((s.grid? grid).map (·.ctx)).getD 0

/-- The context of a team (R324). -/
def State.teamCtx (s : State) (team : Nat) : Nat := s.gridCtx (((s.team? team).map (·.grid)).getD 0)

/-- The teams of a context. -/
def State.ctxTeams (s : State) (ctx : Nat) : List Team := s.teams.filter fun t => s.gridCtx t.grid == ctx

/-- The cluster size C of a kernel (R309). -/
def KDesc.csize (d : KDesc) : Nat := d.rows * d.cols

/-- The teams that are placed, evicted and queued as one unit with a team: its cluster, or itself (R298, R322). -/
def State.unit (s : State) (team : Nat) : List Nat :=
  match s.team? team with
  | none => [team]
  | some t =>
    match s.grid? t.grid with
    | some g =>
      if 1 < g.desc.csize then
        (s.teams.filter fun (u : Team) => u.grid == t.grid && u.cluster == t.cluster).map fun (u : Team) => u.id
      else [team]
    | none => [team]

/-! ### Paths of a group -/

/-- The path in a PC slot; `false` is slot 0, `true` slot 1 (R256). -/
def Arch.path (a : Arch) (slot : Bool) : Option Path := if slot then a.path1 else a.path0

/-- A PC slot given a path, or emptied. -/
def Arch.setPath (a : Arch) (slot : Bool) (p : Option Path) : Arch :=
  if slot then { a with path1 := p } else { a with path0 := p }

/-- The execute mask of a path (R257). -/
def Path.em (p : Path) : Word := p.m &&& p.pst.headD 0

/-- The depth d of a path's predicate stack (R256). -/
def Path.depth (p : Path) : Nat := p.pst.length - 1

/-- The clause header's word as fetched. -/
def Path.header (p : Path) : Word := p.words.headD 0

/-- KA, KB, LEN and WAIT of the path's clause (R84). -/
def Path.ka (p : Path) : Nat := (fld p.header 9 4).toNat
def Path.kb (p : Path) : Nat := (fld p.header 5 4).toNat
def headerLen (h : Word) : Nat := (fld h 0 5).toNat
def headerWait (h : Word) : BitVec 12 := fld h 13 12

/-- The next clause position after the path's clause (R85). -/
def Path.nextClause (p : Path) : DWord := p.hdr + BitVec.ofNat 64 (4 * (headerLen p.header + 2))

/-- The words of the clause from the path's PC on. -/
def Path.rest (p : Path) : List Word := p.words.drop ((p.pc - p.hdr).toNat / 4)

/-- The architected state of a group with another path in a slot. -/
def State.setPath (s : State) (grp : Nat) (slot : Bool) (p : Option Path) : State :=
  s.onGroup grp fun g => { g with arch := g.arch.setPath slot p }

def State.onArch (s : State) (grp : Nat) (f : Arch → Arch) : State :=
  s.onGroup grp fun g => { g with arch := f g.arch }

/-- A path of a group replaced by `f` of it, where the slot holds one. -/
def State.onPath (s : State) (grp : Nat) (slot : Bool) (f : Path → Path) : State :=
  s.onArch grp fun a => a.setPath slot ((a.path slot).map f)

/-- Every path of a group replaced by `f` of it: those in the slots and those that wait on the split stack, spilled or not. -/
def Arch.onPaths (a : Arch) (f : Path → Path) : Arch :=
  { a with
    path0 := a.path0.map f
    path1 := a.path1.map f
    stack := a.stack.map fun q => match q with | .wait p d => .wait (f p) d | q => q
    kept := a.kept.map fun e => (e.1, f e.2) }

/-- A path parked or made ready. -/
def State.park (s : State) (grp : Nat) (slot : Bool) (k : Option Park) : State :=
  s.onPath grp slot fun p => { p with park := k }

/-! ### Registers of a group (R5) -/

/-- Lane l of v<n>. -/
def Arch.getV (a : Arch) (n l : Nat) : Word := Sparse.look a.v (32 * n + l)
def Arch.setV (a : Arch) (n l : Nat) (x : Word) : Arch := { a with v := Sparse.put a.v (32 * n + l) x }
/-- s<n>. -/
def Arch.getS (a : Arch) (n : Nat) : Word := Sparse.look a.s n
def Arch.setS (a : Arch) (n : Nat) (x : Word) : Arch := { a with s := Sparse.put a.s n x }
/-- p<n>: `pt` reads as all ones, and writes to it are discarded (R5). -/
def Arch.getP (a : Arch) (n : Nat) : Word := if n = 7 then BitVec.allOnes 32 else Sparse.look a.p n
def Arch.setP (a : Arch) (n : Nat) (x : Word) : Arch := if n = 7 then a else { a with p := Sparse.put a.p n x }
/-- Counter k<n>. -/
def Arch.getK (a : Arch) (n : Nat) : Nat := (Sparse.look a.k n).toNat
def Arch.setK (a : Arch) (n x : Nat) : Arch := { a with k := Sparse.put a.k n (BitVec.ofNat 6 x) }
/-- The pair x<n>, low half in the even register (R170). -/
def Arch.getX (a : Arch) (n : Nat) : DWord := a.getS (n + 1) ++ a.getS n
def Arch.setX (a : Arch) (n : Nat) (x : DWord) : Arch :=
  (a.setS n (x.setWidth 32)).setS (n + 1) ((x >>> 32).setWidth 32)

/-- The pending bit of a register (R139). -/
def Arch.pending (a : Arch) (r : Reg) : Bool := a.tracked.any (·.dests.contains r)

/-! ### Performance counters (R339) -/

/-- Counter n of a core counts k events of a context's groups and threads: only with EN = 1 and for the owner. -/
def State.perf (s : State) (die site ctx n k : Nat) : State :=
  let c := s.core die site
  if fld c.perfctl 31 1 == 1 && (fld c.perfctl 0 12).toNat == ctx then
    s.setCore { c with perf := Sparse.put c.perf n (Sparse.look c.perf n + BitVec.ofNat 64 k) }
  else s

/-- The same for the core a group is resident on. -/
def State.perfGroup (s : State) (g : Group) (n k : Nat) : State :=
  match s.team? g.team with
  | some t => if t.st = .resident then s.perf t.die t.site (s.gridCtx t.grid) n k else s
  | none => s

/-- The next package event sequence number (R10). -/
def State.nextSeqNo (s : State) : State := { s with evSeq := s.evSeq + 1 }

/-- One free value drawn: the model's counter of them advances. -/
def State.draw (s : State) : State := { s with free := s.free + 1 }

end Sys2Proof.Machine
end

