-- ==== Sys2Proof/Machine/Memory.lean ====
section
/-!
DEFINITION. Memory: the keys under which every byte of the module, of host memory and of the other packages is held
(R19, R119, R366), reads and writes of whole fields (R1), lost granules (R375), and what a write event brings about
besides the bytes: cairns, recognised spins, wake tables and tracked sets (R279, R293, R295, R297).
-/
namespace Sys2Proof.Machine

/-! ### Keys -/

/-- The key of a physical address of target kind `tgt` (R366): 0 stack, 1 die scratchpad, 2 host, 3 remote package. -/
def physKey (tgt pa : Nat) : Nat := tgt * 2 ^ 64 + pa

/-- The key of byte P of a die's scratchpad (R19). -/
def scratchKey (die p : Nat) : Nat := physKey 1 (die * 2 ^ 28 + p)

/-- The key of a byte of a team's memory, which follows the team wherever it is resident or saved (R121, R331). -/
def teamKey (team off : Nat) : Nat := physKey 4 (team * 2 ^ 21 + off)

/-- The key of byte A of a core's team memory that no resident team has: what the team left there that had it last (R121, R434). -/
def coreKey (die site a : Nat) : Nat := physKey 5 ((die * 160 + site) * 2 ^ 21 + a)

/-- The target kind and the key of a tagged physical address (R437). -/
def tagTgt (x : DWord) : Nat := (fld x 62 2).toNat
def tagKey (x : DWord) : Nat := physKey (tagTgt x) (fld x 0 52).toNat

/-- The stack of a stack address (R366). -/
def stackOf (pa : Nat) : Nat := pa / 2 ^ 36 % 16

/-- Memory in its one canonical form (R119): addresses strictly rising, and no entry equal to the 0 that an unlisted address
reads as. -/
def Memory.wf (m : List Host.Cell) : Bool := Sparse.wf m

/-! ### Bytes -/

/-- The bytes of a number, least significant first (R1). -/
def toBytes : Nat → Nat → List Byte
  | 0, _ => []
  | n + 1, x => BitVec.ofNat 8 x :: toBytes n (x / 256)

/-- The number that bytes stand for, least significant first (R1). -/
def ofBytes : List Byte → Nat
  | [] => 0
  | b :: bs => b.toNat + 256 * ofBytes bs

/-- One byte of memory. -/
def State.byte (s : State) (k : Nat) : Byte := Sparse.look s.mem k

/-- The n bytes from key k on. -/
def State.bytes (s : State) (k n : Nat) : List Byte := (List.range n).map fun i => s.byte (k + i)

/-- The n-byte little-endian field at key k (R1). -/
def State.readLE (s : State) (k n : Nat) : Nat := ofBytes (s.bytes k n)

/-- Bytes put at key k and the keys after it. -/
def putBytes (m : List Host.Cell) (k : Nat) : List Byte → List Host.Cell
  | [] => m
  | b :: bs => putBytes (Sparse.put m k b) (k + 1) bs

/-- n bytes copied from key k to key j: what lay there is replaced. -/
def copyBytesTo (m : List Host.Cell) (k j n : Nat) : List Host.Cell :=
  let part := m.filter fun e => k ≤ e.1 && e.1 < k + n
  part.foldl (fun (t : List Host.Cell) e => Sparse.put t (j + (e.1 - k)) e.2) (Sparse.clear m j n)

/-- The number whose bit i is entry i of a list. -/
def ofBits : List Bool → Nat
  | [] => 0
  | b :: bs => (if b then 1 else 0) + 2 * ofBits bs

/-- Bytes i to i + n of a list as a number. -/
def fieldOf (bs : List Byte) (i n : Nat) : Nat := ofBytes ((bs.drop i).take n)

/-! ### Lost data (R375) -/

/-- A stack that its base-die controller has declared lost (R388). -/
def State.failed (s : State) (n : Nat) : Bool := (s.stack? n).any fun k => k.st == .failed

/-- Whether an access of n bytes at key k reads a lost granule, or a stack that is lost as a whole (R375, R388). -/
def State.isLost (s : State) (k n : Nat) : Bool :=
  n != 0 && ((s.lost.any fun q => q < (k + n + 63) / 64 && k / 64 ≤ q) || (k < 2 ^ 40 && s.failed (stackOf k)))

/-- The lost granules that remain after n bytes at k are written: a full write of a granule clears it (R375). -/
def lostAfter (l : List Nat) (k n : Nat) : List Nat := l.filter fun q => !(k ≤ 64 * q && 64 * q + 64 ≤ k + n)

/-- Whether a write of n bytes at k merges with lost data: a granule that it does not fill is lost, or its stack is. -/
def State.mergesLost (s : State) (k n : Nat) : Bool :=
  (k < 2 ^ 40 && s.failed (stackOf k)) ||
    s.lost.any fun q => q < (k + n + 63) / 64 && k / 64 ≤ q && !(k ≤ 64 * q && 64 * q + 64 ≤ k + n)

/-- Team memory handed on: n bytes at key k, lost granules with them, are what key j holds from now on; both keys begin a granule. -/
def State.copyRange (s : State) (k j n : Nat) : State :=
  let inside (b q : Nat) : Bool := b / 64 ≤ q && q < (b + n + 63) / 64
  { s with
    mem := copyBytesTo s.mem k j n
    lost := ((s.lost.filter (inside k)).map fun q => q - k / 64 + j / 64) ++ s.lost.filter fun q => !inside j q }

/-- How many lost granules an access of n bytes at key k reads, each of which is a loss (R378). -/
def State.lostIn (s : State) (k n : Nat) : Nat :=
  if s.isLost k n then
    ((List.range ((k + n + 63) / 64 - k / 64)).filter fun i => s.isLost (64 * (k / 64 + i)) 64).length
  else 0

/-- How many lost granules a write of n bytes at key k merges with. -/
def State.mergedIn (s : State) (k n : Nat) : Nat :=
  if s.mergesLost k n then
    ((List.range ((k + n + 63) / 64 - k / 64)).filter fun i =>
      let q := 64 * (k / 64 + i)
      s.mergesLost (max k q) (min (k + n) (q + 64) - max k q)).length
  else 0

/-- What accesses consume together: where the lost data of the strongest class lies, that class, and how many losses there are (R378). -/
structure Loss where
  pa : Nat
  cls : Nat
  n : Nat
  deriving DecidableEq, Repr

/-- Of losses one for each granule, the strongest: a granule that several lanes read is lost once. -/
def eachGranule (l : List Loss) : List Loss :=
  l.foldl (fun acc e =>
    match acc.find? fun x => x.pa / 64 == e.pa / 64 with
    | some x => if x.cls < e.cls then acc.filter (fun y => y.pa / 64 != e.pa / 64) ++ [e] else acc
    | none => acc ++ [e]) []

/-- Of losses that are consumed together the strongest one decides the escalation, and each is counted (R378). -/
def joinLosses (l : List Loss) : Option Loss :=
  let c := (l.map (·.cls)).foldl max 0
  (l.find? fun e => e.cls == c).map fun e => { e with n := (l.map (·.n)).foldl (· + ·) 0 }

/-! ### What a write brings about -/

/-- Whether n bytes at k touch the 64-byte line `line`. -/
def touches (k n line : Nat) : Bool := k / 64 ≤ line && line < (k + n + 63) / 64

/-- Whether two byte ranges overlap. -/
def overlaps (k n k' n' : Nat) : Bool := k < k' + n' && k' < k + n

/-- A recognised spin whose filter the write hits (R295). -/
def Path.firedBy (p : Path) (k n : Nat) : Path :=
  match p.park with
  | some (.spin ls f) => { p with park := some (.spin ls (f || ls.any (touches k n))) }
  | _ => p

/-- A group after a write: its cairn fires, its recognised spins are hit (R293, R295). -/
def Group.firedBy (g : Group) (k n : Nat) : Group :=
  { g with
    cairn := g.cairn.map fun c => if overlaps k n c.key 8 then { c with fired := true } else c
    detector := g.detector.map fun d => if d.lines.any (touches k n) then { d with hit := true } else d
    arch := g.arch.onPaths (·.firedBy k n) }

/-- The teams that wake-table entries satisfying `hit` mark woken. -/
def wokenBy (s : State) (hit : WakeOn → Bool) : List Nat :=
  (s.dies.flatMap (·.wakeTable)).filterMap fun e => if hit e.2 then some e.1 else none

/-- A team marked woken: its wake entries go, and it moves to the head of its die's absent queue (R297, R298). A cluster
moves as one unit. -/
def State.wakeTeam (s : State) (team : Nat) : State :=
  let unit := s.unit team
  { s with
    teams := mapIf s.teams (·.id == team) fun t => { t with woken := true, wakeSet := [] }
    dies := s.dies.map fun d =>
      { d with
        wakeTable := d.wakeTable.filter (·.1 != team)
        absent := if d.absent.contains team then
            d.absent.filter unit.contains ++ d.absent.filter (fun t => !unit.contains t)
          else d.absent } }

/-- Wake-table entries that an event hits fire (R297). -/
def State.fireWake (s : State) (hit : WakeOn → Bool) : State :=
  let ws := wokenBy s hit
  if ws = [] then s else ws.foldl State.wakeTeam s

/-- Continuations of a group that are squashed: the core's counter 5 counts them, and the losses that they consumed are
counted (R339, R378). -/
def State.countSquash (s : State) (g : Group) (cs : List Cont) : State :=
  { s.perfGroup g 5 cs.length with losses := s.losses + (cs.map (·.losses)).foldl (· + ·) 0 }

/-- Whether a write hits a continuation's tracked set (R279). -/
def Cont.hitBy (c : Cont) (k n : Nat) : Bool := c.lines.any fun e => touches k n e.1 || (e.2 == 2 && touches k n (e.1 + 1))

/-- Continuations squashed that satisfy a test. -/
def State.squashIf (s : State) (p : Group → Cont → Bool) : State :=
  s.groups.foldl
    (fun st g =>
      let dead := g.conts.filter (p g)
      if dead = [] then st
      else
        (st.onGroup g.id fun h => { h with conts := h.conts.filter fun c => !p g c }).countSquash g dead)
    s

/-- Continuations squashed because a write hit their tracked set (R279). -/
def State.squashTracked (s : State) (k n : Nat) : State := s.squashIf fun _ c => c.hitBy k n

/-- The list without the first entry that satisfies `p`. -/
def dropFirst {α : Type} (p : α → Bool) : List α → List α
  | [] => []
  | x :: xs => if p x then xs else x :: dropFirst p xs

/-! ### Stack caches (R15, R18, R20, R389) -/

/-- The capacity of a die's stack cache in lines of 64 bytes (R18, R384). -/
def cacheLines : Nat := 2 ^ 20

/-- The granules of stack memory that n bytes at key k touch. -/
def stackLines (k n : Nat) : List Nat :=
  if k < 2 ^ 40 && n != 0 then (List.range ((k + n + 63) / 64 - k / 64)).map (k / 64 + ·) else []

/-- The die whose stack cache holds lines of a stack: its owner's, and while it is handed over the giving die's until step 3 of the
drain has emptied it (R20, R382). -/
def State.ownerOf (s : State) (n : Nat) : Option Nat :=
  (s.stack? n).bind fun k =>
    match k.st with | .owned d => some d | .handing g _ step => if step ≤ 3 then some g else none | _ => none

/-- A line becomes dirty in the stack cache of its owner: DRAM keeps what it held. A full cache writes back its oldest line. -/
def State.dirtyLine (s : State) (q : Nat) : State :=
  if s.cache.any (·.line == q) || s.ownerOf (stackOf (64 * q)) == none then s
  else
    let mate (c : CacheLine) : Bool := s.ownerOf (stackOf (64 * c.line)) == s.ownerOf (stackOf (64 * q))
    let kept := if cacheLines ≤ (s.cache.filter mate).length then dropFirst mate s.cache else s.cache
    { s with cache := kept ++ [⟨q, s.bytes (64 * q) 64, s.lost.contains q⟩] }

/-- The lines of a write become dirty. -/
def State.dirty (s : State) (k n : Nat) : State := (stackLines k n).foldl State.dirtyLine s

/-- A dirty line is written to DRAM, with its poison code where its data is lost, and leaves the cache (R20, R383). -/
def State.writeBack (s : State) (p : CacheLine → Bool) : State := { s with cache := s.cache.filter fun c => !p c }

/-- Every stack-cache line is lost: memory reads what DRAM holds (R389). -/
def State.dropCache (s : State) (p : CacheLine → Bool) : State :=
  let gone := s.cache.filter p
  { s with
    mem := gone.foldl (fun (m : List Host.Cell) c => putBytes m (64 * c.line) c.dram) s.mem
    lost := (gone.filter (·.poison)).map (·.line) ++ s.lost.filter fun q => !(gone.any (·.line == q))
    cache := s.cache.filter fun c => !p c }

/-- A write event: the bytes, and everything it brings about. -/
def State.store (s : State) (k : Nat) (bs : List Byte) : State :=
  let n := bs.length
  let s := s.dirty k n
  let s := { s with mem := putBytes s.mem k bs, lost := lostAfter s.lost k n, groups := s.groups.map fun (g : Group) => g.firedBy k n }
  (s.squashTracked k n).fireWake fun w => match w with | .line l => touches k n l | _ => false

/-- An n-byte little-endian field written at key k (R1). -/
def State.storeLE (s : State) (k n x : Nat) : State := s.store k (toBytes n x)

/-! ### Lane accesses that are put off (R152) -/

/-- The registers' values of a load of n bytes in a lane: extended to 32 bits, or spread over the registers from d on (R197). -/
def loadWords (d n : Nat) (signed : Bool) (l : Nat) (bs : List Byte) : List (Nat × Nat × Word) :=
  if n < 4 then
    let x := ofBytes bs
    [(d, l, BitVec.ofNat 32 (if signed then wrap (sext x (8 * n)) 32 else x))]
  else (List.range (n / 4)).map fun j => (d + j, l, BitVec.ofNat 32 (fieldOf bs (4 * j) 4))

/-- The new value of an atomic on an element of a type (R200). -/
def AtomicOp.eval (op : AtomicOp) (t : Ty) (old b c : Nat) : Nat :=
  let float := t == .f32
  match op with
  | .add => if float then LitFOp.eval .fadd .f32 old b else intBin .add t false old b
  | .min => if float then floatPick .f32 false old b else intBin .min t false old b
  | .max => if float then floatPick .f32 true old b else intBin .max t false old b
  | .and => old &&& b
  | .or => old ||| b
  | .xor => old ^^^ b
  | .xchg => b
  | .cas => if old = b then c else old

/-- Bytes for runs of keys, as a store performs them. -/
def runBytes : List (Nat × Nat) → List Byte → List (Nat × List Byte)
  | [], _ => []
  | (k, n) :: r, bs => (k, bs.take n) :: runBytes r (bs.drop n)

/-- One lane's part is performed: memory after it, and the values that it gives to registers. -/
def State.performPart (s : State) (e : Late) : State × List (Nat × Nat × Word) :=
  match e with
  | .store k bs => (s.store k bs, [])
  | .read l d n signed runs => (s, loadWords d n signed l (runs.flatMap fun r => s.bytes r.1 r.2))
  | .rmw l d ret op t b c runs =>
    let bs := runs.flatMap fun r => s.bytes r.1 r.2
    let new := toBytes bs.length (op.eval t (ofBytes bs) b c)
    ((runBytes runs new).foldl (fun u r => u.store r.1 r.2) s, if ret then loadWords d bs.length false l bs else [])

/-- Part i of what tracked instruction `seq` of a group has still to do is performed. -/
def State.performAt (s : State) (grp seq i : Nat) : State :=
  match (s.group? grp).bind fun g => (g.arch.tracked.find? (·.seq == seq)).bind fun t => t.late[i]? with
  | none => s
  | some e =>
    let (u, ws) := s.performPart e
    u.onGroup grp fun g =>
      { g with
        arch := { g.arch with
          tracked := mapIf g.arch.tracked (·.seq == seq) fun t => { t with late := t.late.eraseIdx i, data := t.data ++ ws } } }

/-- All that some of a group's tracked instructions have still to do is performed, in order. -/
def State.performBy (s : State) (grp : Nat) (p : Tracked → Bool) : State :=
  match s.group? grp with
  | none => s
  | some g =>
    (g.arch.tracked.filter p).foldl (fun st t => t.late.foldl (fun (u : State) _ => u.performAt grp t.seq 0) st) s

/-- The lane accesses of a group that were put off are performed (R152). -/
def State.drainLate (s : State) (grp : Nat) : State := s.performBy grp fun _ => true

/-- The same for every group. -/
def State.drainAll (s : State) : State := s.groups.foldl (fun st g => st.drainLate g.id) s

/-- The byte ranges that a part reaches. -/
def Late.ranges (e : Late) : List (Nat × Nat) :=
  match e with
  | .store k bs => [(k, bs.length)]
  | .read _ _ _ _ runs | .rmw _ _ _ _ _ _ _ runs => runs

/-- Whether a part reads: no later write of its group may come before it (R152). -/
def Late.isRead (e : Late) : Bool := match e with | .store .. => false | _ => true

/-- Whether a part reaches some of these ranges. -/
def Late.meets (e : Late) (runs : List (Nat × Nat)) : Bool :=
  e.ranges.any fun r => runs.any fun q => overlaps r.1 r.2 q.1 q.2

/-- Whether part i of an access may be performed next: a lane's part comes behind those of lower lanes that it overlaps (R123). -/
def Tracked.mayPerform (t : Tracked) (i : Nat) : Bool :=
  (t.late[i]?).any fun e => !((t.late.take i).any (·.meets e.ranges))

end Sys2Proof.Machine
end

