-- ==== Sys2Proof/Machine/Translate.lean ====
section
/-!
DEFINITION. Contexts' records (R324), scratchpad windows (R125), page tables and translation (R362-R371), and the
ownership of stacks as a die sees it (R29, R379).
-/
namespace Sys2Proof.Machine

/-! ### The context record (R324), read from memory at each use -/

/-- A field of a context's record: n bytes at offset `off`. -/
def State.record (s : State) (c : Ctx) (off n : Nat) : Nat := s.readLE (tagKey c.recAddr + off) n

/-- The same for a context identifier; a context that does not exist reads 0. -/
def State.ctxField (s : State) (ctx off n : Nat) : Nat :=
  match s.ctx? ctx with
  | some c => s.record c off n
  | none => 0

/-- Where the read of a field of a context's record finds lost data: it is DEVICE's (R376, R388; DESIGN CHOICE: assumption 121). -/
def State.fieldLoss (s : State) (ctx off n : Nat) : Option Nat :=
  (s.ctx? ctx).bind fun c => if s.isLost (tagKey c.recAddr + off) n then some (tagKey c.recAddr + off) else none

def State.rootOf (s : State) (ctx : Nat) : DWord := BitVec.ofNat 64 (s.ctxField ctx 0x00 8)
def State.privbase (s : State) (ctx : Nat) : Nat := s.ctxField ctx 0x08 8
def State.hwm (s : State) (ctx : Nat) : Nat := s.ctxField ctx 0x10 4
def State.spint (s : State) (ctx : Nat) : Nat := s.ctxField ctx 0x14 2
def State.quant (s : State) (ctx : Nat) : Nat := 2 ^ (s.ctxField ctx 0x16 1 % 32)
def State.fpshare (s : State) (ctx : Nat) : Nat := s.ctxField ctx 0x17 1
def State.rights (s : State) (ctx : Nat) : BitVec 16 := BitVec.ofNat 16 (s.ctxField ctx 0x18 2)
def State.blkq (s : State) (ctx : Nat) : Nat := s.ctxField ctx 0x1A 2
def State.savea (s : State) (ctx die : Nat) : Nat := s.ctxField ctx (0x20 + 16 * die) 8
def State.savelen (s : State) (ctx die : Nat) : Nat := s.ctxField ctx (0x28 + 16 * die) 8
def State.spwbase (s : State) (ctx die : Nat) : Nat := s.ctxField ctx (0x60 + 8 * die) 4
def State.spwlen (s : State) (ctx die : Nat) : Nat := s.ctxField ctx (0x64 + 8 * die) 4
def State.bpdoff (s : State) (ctx die : Nat) : Nat := s.ctxField ctx (0x80 + 16 * die) 4
def State.bpdlen (s : State) (ctx die : Nat) : Nat := s.ctxField ctx (0x84 + 16 * die) 4
def State.bpma (s : State) (ctx die : Nat) : Nat := s.ctxField ctx (0x88 + 16 * die) 8
def State.bpmlen (s : State) (ctx die : Nat) : Nat := s.ctxField ctx (0xC0 + 8 * die) 8
def State.fring (s : State) (ctx : Nat) : Nat := s.ctxField ctx 0xE0 8
def State.frlog (s : State) (ctx : Nat) : Nat := s.ctxField ctx 0xE8 4
def State.notifya (s : State) (ctx : Nat) : Nat := s.ctxField ctx 0xF0 8
def State.frtail (s : State) (ctx : Nat) : Nat := s.ctxField ctx 0xF8 4

/-- The rights of a context (R324): stack control, performance counters, management wakes. -/
def State.rightSTK (s : State) (ctx : Nat) : Bool := fld (s.rights ctx) 0 1 == 1
def State.rightPERF (s : State) (ctx : Nat) : Bool := fld (s.rights ctx) 1 1 == 1
def State.rightMGMT (s : State) (ctx : Nat) : Bool := fld (s.rights ctx) 2 1 == 1

/-! ### Windows of die scratchpad (R125) -/

/-- The base and the length of the window that bit 27 of an offset selects for a team. -/
def State.window (s : State) (t : Team) (cluster : Bool) : Nat × Nat :=
  if cluster then (t.winBase, t.winLen)
  else
    let ctx := s.gridCtx t.grid
    (s.spwbase ctx t.die, s.spwlen ctx t.die)

/-- Where the lost data lies that a die-scratchpad access meets in the context record: SPWBASE and SPWLEN (R125, R388). -/
def State.windowLoss (s : State) (t : Team) (off : Nat) : Option Nat :=
  if off / 2 ^ 27 % 2 = 1 then none else s.fieldLoss (s.gridCtx t.grid) (0x60 + 8 * t.die) 8

/-- The key of n bytes at a die-scratchpad offset of a team, none where R125 faults BOUNDS. -/
def State.dieKey (s : State) (t : Team) (off n : Nat) : Option Nat :=
  let (base, len) := s.window t (off / 2 ^ 27 % 2 == 1)
  let w := off % 2 ^ 27
  if 2 ^ 28 ≤ off || len < w + n then none else some (scratchKey t.die (base + w))

/-- The key of n bytes at a team-memory offset of a team, none where R121 faults BOUNDS. -/
def teamMemKey (t : Team) (off n : Nat) : Option Nat :=
  if t.tmem < off + n then none else some (teamKey t.id off)

/-! ### Ownership (R27-R29, R379) -/

/-- A die's copy of the ownership of stack n. -/
def State.copyOf (s : State) (die n : Nat) : DieCopy :=
  match s.stack? n with
  | none => .notOwned
  | some k =>
    if (Stack.ports n).1 = die then k.copyA else if (Stack.ports n).2 = die then k.copyB else .notOwned

/-- Whether stack n has a port to a die (R27). -/
def ported (die n : Nat) : Bool := (Stack.ports n).1 == die || (Stack.ports n).2 == die

/-- A stack is in training (R379), or its hand-over has not come to the end of step 6 (R405). -/
def State.training (s : State) (n : Nat) : Bool := (s.stack? n).any fun k => k.st == .training
def State.handing (s : State) (n : Nat) : Bool := (s.stack? n).any fun k => match k.st with | .handing _ _ step => step ≤ 6 | _ => false

/-- Whether the hub die's own access to memory at a key waits: it has no die to reach the stack through (R405, R437). -/
def State.keyHeld (s : State) (k : Nat) : Bool := k < 2 ^ 40 && (s.training (stackOf k) || s.handing (stackOf k))

/-- Whether reads of a context's record wait for a stack (R437). -/
def State.recordWaits (s : State) (ctx : Nat) : Bool := (s.ctx? ctx).any fun c => s.keyHeld (tagKey c.recAddr)

/-- The die whose port to a stack is open (R28); where none is, both its ports are as they were when its training failed. -/
def State.portOpen (s : State) (die n : Nat) : Bool := ported die n && (s.stack? n).any fun k => k.portTo == none || k.portTo == some die

/-- Whether a request of a die to stack n passes the port (R29): the die owns it. At a die's own port, a request to a stack that
is in training is held (R379). A stack that is lost gives a loss (R388) at the port that was open when it was lost, and OWNERSHIP at its
other port; one whose training failed gives a loss at both (R379; DESIGN CHOICE: assumption 120). -/
def State.owns (s : State) (die n : Nat) : Bool :=
  s.copyOf die n == .owned || (ported die n && s.training n) || (s.portOpen die n && s.failed n)

/-- Whether the pre-fence accesses of a die still reach a stack that it gives away: steps 1 and 2 of the drain (R382). -/
def State.draining (s : State) (die n : Nat) : Bool :=
  (s.stack? n).any fun k => match k.st with | .handing g _ step => g == die && step ≤ 2 | _ => false

/-! ### Page table entries (R364-R366) -/

/-- Why a translation fails (R369). An UNCORRECTABLE carries the class that decides its escalation, and where the
lost data lies (R377). -/
inductive XFault where
  | ownership
  | uncorrectable (cls pa : Nat)
  | reserved
  | page
  /-- refused by the package that serves a domain access (R411) -/
  | bounds
  deriving DecidableEq, Repr

/-- A translated access: target kind, physical address, page class and whether the entry permits writes. -/
structure Xlat where
  tgt : Nat
  pa : Nat
  cls : Nat
  deriving DecidableEq, Repr

/-- The memory key of a translated access. -/
def Xlat.key (x : Xlat) : Nat := physKey x.tgt x.pa

def pteV (e : DWord) : Bool := fld e 0 1 == 1
def pteW (e : DWord) : Bool := fld e 1 1 == 1
def pteX (e : DWord) : Bool := fld e 2 1 == 1
def pteClass (e : DWord) : Nat := (fld e 3 2).toNat
def pteLeaf (e : DWord) : Bool := fld e 7 1 == 1
def pteS64 (e : DWord) : Bool := fld e 8 1 == 1
def ptePoison (e : DWord) : Bool := fld e 9 1 == 1
def pteTgt (e : DWord) : Nat := (fld e 10 2).toNat
/-- FRAME << 12. -/
def ptePa (e : DWord) : Nat := (fld e 12 40).toNat * 4096

/-- The physical addresses that R366 accepts for a target kind; a table pointer may not name a remote package. -/
def paOk (tgt pa : Nat) (table : Bool) : Bool :=
  match tgt with
  | 0 => pa < 2 ^ 40
  | 1 => pa < 2 ^ 30 && pa % 2 ^ 28 < 0x0C000000
  | 2 => true
  | _ =>
    !table && pa / 2 ^ 40 % 16 == 0 &&
      (match pa / 2 ^ 44 % 4 with
      | 0 => true
      | 1 => pa % 2 ^ 40 < 2 ^ 30 && pa % 2 ^ 28 < 0x0C000000
      | _ => false)

/-- The bytes that a leaf at a level maps (R363). -/
def leafSize (level : Nat) (e : DWord) : Nat :=
  match level with
  | 0 => if pteS64 e then 2 ^ 16 else 2 ^ 12
  | 1 => 2 ^ 21
  | _ => 2 ^ 30

/-- A valid entry that a walk refuses (R365). -/
def pteBad (level : Nat) (e : DWord) : Bool :=
  fld e 52 12 != 0 || fld e 5 2 != 0 || (level == 0 && !pteLeaf e) || (level == 3 && pteLeaf e)
    || (!pteLeaf e && (ptePoison e || pteS64 e || pteClass e != 0 || pteX e || pteW e))
    || (pteS64 e && level != 0)
    || (pteLeaf e && ptePa e % leafSize level e != 0)
    || !paOk (pteTgt e) (ptePa e) (!pteLeaf e)

/-- The index of a virtual address at a level (R363). -/
def vaIndex (level va : Nat) : Nat :=
  if level = 3 then va / 2 ^ 39 % 2 ^ 13 else va / 2 ^ (12 + 9 * level) % 512

/-- The low address bits that entries of a level share (R363). -/
def levelSize (level : Nat) : Nat := 2 ^ (12 + 9 * level)

/-! ### Translation caches (R370, R371) -/

/-- A cached entry of a unit that serves an address of a context. -/
def State.tlbHit (s : State) (u : TlbUnit) (ctx va : Nat) : Option DWord :=
  (s.tlb.find? fun e => e.unit == u && e.ctx == ctx && e.va ≤ va && va < e.va + e.size).map (·.pte)

/-- The number of entries of a cache (R370). -/
def TlbUnit.capacity : TlbUnit → Nat
  | .leaf _ (.fetch _) => 64
  | .leaf _ (.priv _) => 128
  | .leaf _ (.engine _) => 256
  | .walk .. => 1024

/-- The capacity group of a cache: the walk cache of a die holds the three levels together. -/
def TlbUnit.sameCache (u v : TlbUnit) : Bool :=
  match u, v with
  | .walk d _, .walk d' _ => d == d'
  | u, v => u == v

/-- An entry put into its cache; a full cache gives up its oldest entry (DESIGN CHOICE: assumption 20). -/
def State.tlbFill (s : State) (e : TlbEntry) : State :=
  let same := s.tlb.filter fun x => x.unit.sameCache e.unit
  let kept := if e.unit.capacity ≤ same.length then dropFirst (fun x => x.unit.sameCache e.unit) s.tlb else s.tlb
  { s with tlb := kept ++ [e] }

/-! ### The walk (R369) -/

/-- What a walk is made for: the die whose unit walks (none for the hub die, which reaches stacks through their owners,
R437), the cache that its leaf may come from, and the context. -/
structure Walker where
  die : Option Nat
  unit : Option WalkUnit
  ctx : Nat
  /-- stacks whose hand-over fence a thread's command precedes: it may still reach them while they are HANDING (R382) -/
  pass : List Nat
  deriving DecidableEq, Repr

/-- Whether a stack's port refuses a walker (R29, R382). -/
def State.refuses (s : State) (w : Walker) (n : Nat) : Bool :=
  w.die.any fun d => !s.owns d n && !(w.pass.contains n && s.draining d n)

/-- The read of a table entry: OWNERSHIP, then a lost line, which escalates as DEVICE (R369, R377). -/
def State.readEntry (s : State) (w : Walker) (tgt pa : Nat) : Except XFault DWord :=
  if tgt = 0 && s.refuses w (stackOf pa) then .error .ownership
  else if s.isLost (physKey tgt pa) 8 then .error (.uncorrectable 3 (physKey tgt pa))
  else .ok (BitVec.ofNat 64 (s.readLE (physKey tgt pa) 8))

/-- One level of a walk: the entry, cached or read, checked as R369 orders. -/
def State.walkLevel (s : State) (w : Walker) (va tgt table level : Nat) : Except XFault DWord :=
  let cached := w.die.bind fun d => if level = 0 then none else s.tlbHit (.walk d level) w.ctx va
  let entry : Except XFault DWord :=
    match cached with
    | some e => Except.ok e
    | none => s.readEntry w tgt (table + 8 * vaIndex level va)
  match entry with
  | .error f => .error f
  | .ok e => if !pteV e then .error .page else if pteBad level e then .error .reserved else .ok e

/-- The walk from a table of a level down: the leaf's size and entry. -/
def State.walkFrom (s : State) (w : Walker) (va : Nat) : (level tgt table : Nat) → Except XFault (Nat × DWord)
  | 0, tgt, table =>
    match s.walkLevel w va tgt table 0 with
    | .error f => .error f
    | .ok e => .ok (leafSize 0 e, e)
  | k + 1, tgt, table =>
    match s.walkLevel w va tgt table (k + 1) with
    | .error f => .error f
    | .ok e => if pteLeaf e then .ok (leafSize (k + 1) e, e) else State.walkFrom s w va k (pteTgt e) (ptePa e)

/-- The entry of the unit's own cache that serves an address. -/
def State.leafHit (s : State) (w : Walker) (va : Nat) : Option TlbEntry :=
  match w.die, w.unit with
  | some d, some u =>
    s.tlb.find? fun (e : TlbEntry) => e.unit == .leaf d u && e.ctx == w.ctx && e.va ≤ va && va < e.va + e.size
  | _, _ => none

/-- Whether a translation reads the context record: a private access PRIVBASE and HWM, a walk ROOT (R128, R369). -/
def State.readsRecord (s : State) (w : Walker) (va : Nat) : Bool :=
  (s.leafHit w va).isNone || (match w.unit with | some (.priv _) => true | _ => false)

/-- The leaf entry for an address: from the unit's cache, else by a walk from ROOT (R369-R371); the record that it reads may be lost
(R388). -/
def State.leafOf (s : State) (w : Walker) (va : Nat) : Except XFault (Nat × DWord) :=
  match if s.readsRecord w va then s.fieldLoss w.ctx 0x00 0x14 else none, s.leafHit w va with
  | some k, _ => .error (.uncorrectable 3 k)
  | none, some e => .ok (e.size, e.pte)
  | none, none => s.walkFrom w va 3 (tagTgt (s.rootOf w.ctx)) (fld (s.rootOf w.ctx) 0 52).toNat

/-- The translation of one access (R369): the leaf, its rights, POISON, and ownership at the target port. -/
def State.translate (s : State) (w : Walker) (k : AccKind) (va : Nat) : Except XFault Xlat :=
  match s.leafOf w va with
  | .error f => .error f
  | .ok (size, e) =>
    let pa := ptePa e + va % size
    if (k == .write && !pteW e) || (k == .fetch && !pteX e) then .error .page
    else if ptePoison e then .error (.uncorrectable (pteClass e) (physKey (pteTgt e) pa))
    else if !paOk (pteTgt e) pa false then .error .reserved
    else if pteTgt e = 0 && s.refuses w (stackOf pa) then .error .ownership
    else .ok ⟨pteTgt e, pa, pteClass e⟩

/-! ### Domain accesses (R411) and the host's refusal (R408) -/

/-- The package that a TGT 3 address names. -/
def remotePkg (pa : Nat) : Nat := pa / 2 ^ 46 % 64

/-- Whether the export windows take n bytes at a remote kind and offset: they lie in a window with V = 1, and a write touches none whose
W is 0. -/
def FrontEnd.exports (f : FrontEnd) (pa n : Nat) (write : Bool) : Bool :=
  let off := pa % 2 ^ 40
  let windows := ((List.range 16).map fun i => (Sparse.look f.expt (2 * i), Sparse.look f.expt (2 * i + 1))).filter fun (e : DWord × DWord) =>
    fld e.2 63 1 == 1 && (fld e.1 44 2).toNat == pa / 2 ^ 44 % 4
  let lo (e : DWord × DWord) : Nat := (fld e.1 0 40).toNat
  let len (e : DWord × DWord) : Nat := (fld e.2 0 40).toNat
  windows.any (fun e => lo e ≤ off && off + n ≤ lo e + len e)
    && (!write || windows.all fun e => fld e.2 62 1 == 1 || lo e + len e ≤ off || off + n ≤ lo e)

/-- The key of a domain address served by this package: a stack, or a die's scratchpad. -/
def exportKey (pa : Nat) : Nat := if pa / 2 ^ 44 % 4 = 0 then physKey 0 (pa % 2 ^ 40) else physKey 1 (pa % 2 ^ 40)

/-- Whether a port carries traffic (R410). -/
def Port.carries (p : Port) : Bool := p.st == .up || p.st == .degraded

/-- Whether the switches find a path of ports that carry traffic to package k. -/
def State.linked (s : State) (k : Nat) : Bool := s.ports.any fun p => p.carries && Config.switchPath p.n k

/-- Whether a translated access is served here, as an access through this package's own exports. -/
def State.isLocal (s : State) (x : Xlat) : Bool := x.tgt == 3 && remotePkg x.pa == (fld s.fe.domid 0 6).toNat

/-- Where n bytes of a translated page go: at home, here through an export window, at another package through one of that package's,
which are not known here (assumption 54), or at the host, which may refuse (R408). -/
def State.reach (s : State) (x : Xlat) (n : Nat) (write : Bool) : Except XFault (Nat × Nat) :=
  if x.tgt = 2 then if Config.hostRefuses x.pa n write then .error (.uncorrectable x.cls x.key) else .ok (x.key, x.cls)
  else if x.tgt != 3 then .ok (x.key, x.cls)
  else if s.isLocal x then if s.fe.exports x.pa n write then .ok (exportKey x.pa, x.cls) else .error .bounds
  else if s.linked (remotePkg x.pa) then if Config.peerExports x.pa n write then .ok (x.key, x.cls) else .error .bounds
  else .error (.uncorrectable x.cls x.key)

/-- One access of n bytes within a page: translated, and taken to where it goes. The key, and the class of the leaf. -/
def State.access (s : State) (w : Walker) (k : AccKind) (va n : Nat) : Except XFault (Nat × Nat) :=
  match s.translate w k va with
  | .error f => .error f
  | .ok x => s.reach x n (k == .write)

/-! ### Requests that a port holds (R379, R405) -/

/-- Whether a request of a walker waits for stack n: at a die's port while the stack is TRAINING; of the hub die, which serves it
through the owner, while it has none. -/
def State.holds (s : State) (w : Walker) (n : Nat) : Bool :=
  match w.die with
  | some d => s.training n && ported d n
  | none => s.training n || s.handing n

/-- Whether an access to a translated page waits. -/
def State.pageHeld (s : State) (w : Walker) (e : DWord) (pa : Nat) : Bool :=
  (pteTgt e == 0 && s.holds w (stackOf pa))
    || (pteTgt e == 3 && s.isLocal ⟨3, pa, 0⟩ && pa / 2 ^ 44 % 4 == 0
        && (s.training (stackOf (pa % 2 ^ 40)) || s.handing (stackOf (pa % 2 ^ 40))))

/-- Whether a walk from a table of a level down reads a table on a stack of a set, or finds a page that a test holds of. -/
def State.walkMeets (s : State) (w : Walker) (va : Nat) (on : Nat → Bool) (page : DWord → Nat → Bool) : (level tgt table : Nat) → Bool
  | 0, tgt, table =>
    (tgt == 0 && on (stackOf (table + 8 * vaIndex 0 va))) ||
      match s.walkLevel w va tgt table 0 with
      | .ok e => page e (ptePa e + va % leafSize 0 e)
      | .error _ => false
  | k + 1, tgt, table =>
    let cached := (w.die.bind fun d => s.tlbHit (.walk d (k + 1)) w.ctx va).isSome
    (!cached && tgt == 0 && on (stackOf (table + 8 * vaIndex (k + 1) va))) ||
      match s.walkLevel w va tgt table (k + 1) with
      | .ok e =>
        if pteLeaf e then page e (ptePa e + va % leafSize (k + 1) e) else State.walkMeets s w va on page k (pteTgt e) (ptePa e)
      | .error _ => false

/-- The same of the translation of an address, by the unit's own cache or by a walk from ROOT. -/
def State.translationMeets (s : State) (w : Walker) (va : Nat) (on : Nat → Bool) (page : DWord → Nat → Bool) : Bool :=
  match s.leafHit w va with
  | some e => page e.pte (ptePa e.pte + va % e.size)
  | none => s.walkMeets w va on page 3 (tagTgt (s.rootOf w.ctx)) (fld (s.rootOf w.ctx) 0 52).toNat

/-- Whether an access waits at a port: for the context record, for its walk, or itself (R379, R405). -/
def State.held (s : State) (w : Walker) (va : Nat) : Bool :=
  (s.recordWaits w.ctx && s.readsRecord w va) || s.translationMeets w va (s.holds w) (s.pageHeld w)

/-! ### What walks bring into the caches (R370, R371) -/

/-- The entry that one level of a walk brings into its cache, if the walk does not fault there (R371): a poisoned leaf, or for a
fetch one without X, does. -/
def State.levelEntry (s : State) (die ctx : Nat) (u : WalkUnit) (va level tgt table : Nat) : Option TlbEntry :=
  match s.walkLevel ⟨some die, none, ctx, []⟩ va tgt table level with
  | .error _ => none
  | .ok e =>
    let size := if pteLeaf e then leafSize level e else levelSize level
    let fetch : Bool := match u with | .fetch _ => true | _ => false
    if pteLeaf e && (ptePoison e || (fetch && !pteX e)) then none
    else some ⟨if pteLeaf e then .leaf die u else .walk die level, ctx, va - va % size, size, e,
      if tgt = 0 then some (stackOf table) else none⟩

/-- The entries that a walk for a leaf cache brings in: the non-leaf entries of levels 3 to 1 and the leaf (R370). -/
def State.walkEntries (s : State) (die ctx : Nat) (u : WalkUnit) (va : Nat) : (level tgt table : Nat) → List TlbEntry
  | 0, tgt, table => (s.levelEntry die ctx u va 0 tgt table).toList
  | k + 1, tgt, table =>
    match s.levelEntry die ctx u va (k + 1) tgt table with
    | none => []
    | some e => if pteLeaf e.pte then [e] else e :: State.walkEntries s die ctx u va k (pteTgt e.pte) (ptePa e.pte)

/-- Translations of a context discarded on every die (R371). -/
def State.discardCtx (s : State) (ctx : Nat) : State := { s with tlb := s.tlb.filter fun e => e.ctx != ctx }

end Sys2Proof.Machine
end

