-- ==== Sys2Proof/Machine/Front.lean ====
section
/-!
DEFINITION. What the front end's parts share: host signals and the management log (R407), kinds of fault and the bytes of
their records (R12, R335), and queues with their control blocks, entry cache, progress words and states (R344-R349).
-/
namespace Sys2Proof.Machine

/-! ### Host signals and the management log (R407) -/

/-- An HSIG event: an event that finds its bit at 0 sets it and sends one NOTIFY with the bit number (R407). -/
def State.signal (s : State) (bit : Nat) : State :=
  if s.fe.hsig.getLsbD bit then s
  else { s with fe := { s.fe with hsig := s.fe.hsig ||| BitVec.twoPow 4 bit, notified := bit :: s.fe.notified } }

/-- An entry of the management log, signalled to the host (R407). -/
def State.mgmtLog (s : State) (e : MgmtEntry) : State := (s.onPkg fun p => { p with log := p.log ++ [e] }).signal 2

/-! ### Resets that are asked for (R377, R378) -/

/-- The strength of a reset: a reset of the device before one of a partition (R378). -/
def resetStrength : ResetKind → Nat
  | .partition => 0 | .warm => 1 | .cold => 2

/-- Two resets that are asked for together: the stronger one, or one of both partitions (R378). -/
def joinResets (a b : ResetKind × Bool × BitVec 4) : ResetKind × Bool × BitVec 4 :=
  if resetStrength a.1 < resetStrength b.1 then b
  else if resetStrength b.1 < resetStrength a.1 then a
  else (a.1, a.2.1 && b.2.1, a.2.2 ||| b.2.2)

/-- A reset is asked for, with its preserve flag and its dies. -/
def State.askReset (s : State) (r : ResetKind × Bool × BitVec 4) : State :=
  s.onPkg fun p => { p with pendingReset := some (match p.pendingReset with | some q => joinResets q r | none => r) }

/-- The reset that a consumed loss causes: of the device or of a partition (R377; of the device as a warm reset without
preserve, DESIGN CHOICE: assumption 22). -/
def State.requestReset (s : State) (k : ResetKind) (dies : BitVec 4) : State := s.askReset (k, false, dies)

/-- Lost data of class DEVICE, at key k, that the hub die itself meets: the device is reset (R376, R377). -/
def State.deviceLoss (s : State) (k : Nat) : State :=
  { (s.mgmtLog (.loss s.evSeq 3 0 k)).nextSeqNo.requestReset .warm 0 with losses := s.losses + 1 }

/-- n bytes at key k that the hub die reads: none unless data among them is lost. -/
def State.hubLoss (s : State) (k n : Nat) : Option State := if s.isLost k n then some (s.deviceLoss k) else none

/-- The same for a context's record (R324). -/
def State.recordLoss (s : State) (ctx : Nat) : Option State := (s.ctx? ctx).bind fun c => s.hubLoss (tagKey c.recAddr) 256

/-! ### Kinds and classes of fault (R12, R335) -/

/-- KIND codes of fault records (R335). -/
def FaultKind.code : FaultKind → Nat
  | .page => 0x01 | .grow => 0x02 | .illegalOpcode => 0x03 | .reservedBits => 0x04 | .clauseLength => 0x05
  | .branchTarget => 0x06 | .clauseCounter => 0x07 | .counter => 0x08 | .hazard => 0x09 | .regBlock => 0x0A
  | .carry => 0x0B | .pmstack => 0x0C | .format => 0x0D | .rope => 0x0E | .barrierCount => 0x0F
  | .barrierDeadlock => 0x10 | .watchSpace => 0x11 | .bounds => 0x12 | .align => 0x13 | .ownership => 0x14
  | .privilege => 0x15 | .refineExhausted => 0x16 | .trap => 0x17 | .uncorrectable => 0x18

/-- CLASS codes: 0 recoverable, 1 program, 2 machine (R12). -/
def FaultKind.cls : FaultKind → Nat
  | .page | .grow => 0
  | .uncorrectable => 2
  | _ => 1

/-- The place of a kind in the order of R13; kinds that R13 does not list come last. -/
def FaultKind.rank : FaultKind → Nat
  | .illegalOpcode => 1 | .reservedBits => 2 | .clauseLength => 3 | .branchTarget => 4 | .clauseCounter => 5
  | .regBlock => 6 | .hazard => 7 | .carry => 8 | .privilege => 9 | .format => 10 | .rope => 11 | .watchSpace => 12
  | .align => 13 | .bounds => 14 | .grow => 15 | .ownership => 16 | .page => 17 | .uncorrectable => 18 | .counter => 19
  | _ => 20

/-- What a faulting instruction, access or step reports: kind, ADDR, LANES, `trap` code, and for an UNCORRECTABLE the
class that decides its escalation (R377). -/
structure Report where
  kind : FaultKind
  addr : DWord := 0
  lanes : Word := 0
  code : Nat := 0
  cls : Nat := 1
  /-- of a loss: the key of the lost data, as its physical address (R377) -/
  pa : Nat := 0
  /-- of losses: how many are consumed together (R378) -/
  lost : Nat := 1
  deriving DecidableEq, Repr

/-- The report of losses that an access at an address consumes. -/
def lossAt (a : Nat) (w : Loss) : Report :=
  { kind := .uncorrectable, addr := BitVec.ofNat 64 a, cls := w.cls, pa := w.pa, lost := w.n }

/-- The report of lost data in the context record, which an access at an address needs (R388). -/
def recordLost (k : Option Nat) (a : Nat) : Option Report := k.map fun k => lossAt a ⟨k, 3, 1⟩

/-- What stops a check of a context's RIGHTS: they are in lost data (R388). -/
def State.rightsLost (s : State) (ctx : Nat) : Option Report := recordLost (s.fieldLoss ctx 0x18 2) 0

/-- A failed translation as a report (R369). -/
def XFault.report (f : XFault) (va : Nat) (lanes : Word := 0) : Report :=
  let a := BitVec.ofNat 64 va
  match f with
  | .ownership => { kind := .ownership, addr := a, lanes := lanes }
  | .uncorrectable c p => { kind := .uncorrectable, addr := a, lanes := lanes, cls := c, pa := p }
  | .reserved => { kind := .reservedBits, addr := a, lanes := lanes }
  | .page => { kind := .page, addr := a, lanes := lanes }
  | .bounds => { kind := .bounds, addr := a, lanes := lanes }

/-! ### Fault records (R335, R336) -/

/-- The 64 bytes of a fault record (R335). -/
def FaultRec.bytes (r : FaultRec) : List Byte :=
  toBytes 8 r.seq ++ toBytes 8 r.pc.toNat ++ toBytes 8 r.addr.toNat ++ toBytes 4 r.iword.toNat ++ toBytes 4 r.lanes.toNat
    ++ toBytes 2 r.kind.code ++ toBytes 1 r.cls ++ toBytes 1 r.flags ++ toBytes 2 r.gid ++ toBytes 2 r.ctx
    ++ toBytes 8 r.grid ++ toBytes 8 r.team ++ toBytes 2 (256 * r.die + r.site) ++ toBytes 1 r.gidx ++ toBytes 1 r.code
    ++ toBytes 4 0

/-- The dies of a context's partition. -/
def State.ctxDies (s : State) (ctx : Nat) : List Nat := (List.range 4).filter fun d => (s.ctx? ctx).any fun c => c.dies.getLsbD d

/-- The die that translates the accesses that the front end makes for a context, whose ports they pass (R341, R352, R385): the die of
its partition that owns the stack of the context's ROOT at reset (R27), or else the lowest of its partition (DESIGN CHOICE:
assumption 21). -/
def State.feDie (s : State) (ctx : Nat) : Option Nat :=
  let root := s.rootOf ctx
  let home := (Stack.ports (stackOf (fld root 0 52).toNat)).1
  if tagTgt root == 0 && (s.ctxDies ctx).contains home then some home else (s.ctxDies ctx).head?

def State.feWalker (s : State) (ctx : Nat) : Walker := ⟨s.feDie ctx, none, ctx, []⟩

/-- An access of n bytes that the front end makes for a context: its key and the class of its page (R437, R439). -/
def State.feAccess (s : State) (ctx : Nat) (k : AccKind) (va n : Nat) : Except XFault (Nat × Nat) := s.access (s.feWalker ctx) k va n

/-- Whether such an access waits for a stack in training (R379). -/
def State.feHeld (s : State) (ctx va : Nat) : Bool := s.held (s.feWalker ctx) va

/-! ### Queue control blocks (R344, R345) -/

/-- STATE of a queue control block. -/
def QState.code : QState → Nat
  | .absent => 0 | .idle => 1 | .active => 2 | .stalled => 3 | .blocked => 4 | .out => 5 | .error => 6

/-- The 256 bytes of a queue control block (R344). -/
def Queue.bytes (q : Queue) : List Byte :=
  toBytes 8 q.ring.toNat ++ toBytes 1 q.szlog ++ toBytes 1 q.prio ++ toBytes 1 q.st.code ++ toBytes 1 q.ctl.toNat ++ toBytes 2 q.ctx
    ++ toBytes 2 0 ++ toBytes 8 q.tail ++ toBytes 8 q.rdidx ++ toBytes 8 q.doneidx ++ toBytes 4 q.quantum ++ toBytes 4 0
    ++ toBytes 8 (q.deficit % 2 ^ 64).toNat ++ toBytes 8 q.proga.toNat ++ toBytes 1 q.errcode ++ toBytes 7 0 ++ toBytes 8 q.erridx
    ++ toBytes 8 q.errhdr.toNat ++ toBytes 8 q.errval.toNat ++ toBytes 160 0

/-- The key of queue q's control block. -/
def State.qcbKey (s : State) (q : Nat) : Nat := tagKey s.fe.qtbase + 256 * q

/-- The memory of a control block accessed: written with the queue's fields, or loaded. A stack that is lost loses it (R376, R388). -/
def State.accessQcb (s : State) (q : Nat) (k : QcbAccess) : State :=
  match s.queue? q, k with
  | some _, .load => (s.hubLoss (s.qcbKey q) 256).getD s
  | some u, _ =>
    let s := if s.mergesLost (s.qcbKey q) 256 then s.deviceLoss (s.qcbKey q) else s.store (s.qcbKey q) u.bytes
    if k = .error then s.signal 1 else s
  | none, _ => s

/-- The same, where its stack can be reached; else the access waits its turn (R405, R437). -/
def State.onQcb (s : State) (q : Nat) (k : QcbAccess) : State :=
  if s.keyHeld (s.qcbKey q) then s.onFe fun f => { f with qcbDue := f.qcbDue ++ [(q, k)] } else s.accessQcb q k

/-- A control block written back to memory. -/
def State.writeQcb (s : State) (q : Nat) : State := s.onQcb q .write

/-- The accesses to control blocks that wait for a stack no longer are made, in their order. -/
def State.serveQcbs (s : State) : State :=
  let go := s.fe.qcbDue.filter fun e => !s.keyHeld (s.qcbKey e.1)
  go.foldl (fun (t : State) e => t.accessQcb e.1 e.2) (s.onFe fun f => { f with qcbDue := f.qcbDue.filter fun e => s.keyHeld (s.qcbKey e.1) })

/-- A queue that exists. -/
def State.liveQueue (s : State) (q : Nat) : Bool := (s.queue? q).any fun u => u.st != .absent

/-- The queues of a set of the entry cache, most recently used first: 128 sets of 8 ways. -/
def qcacheSet (l : List Nat) (q : Nat) : List Nat := l.filter fun n => n % 128 == q % 128

/-- An operation on a queue resolves through the entry cache: the queue becomes the most recently used of its set, and a
full set writes its least recently used control block back. An ABSENT queue is never cached. A control block that is loaded may be lost
(R376). -/
def State.touchQueue (s : State) (q : Nat) : State :=
  if s.liveQueue q then
    let s := if s.fe.qcache.contains q then s else s.onQcb q .load
    let l := q :: s.fe.qcache.filter (· != q)
    let old := (qcacheSet l q).drop 8
    (old.foldl State.writeQcb s).onFe fun f => { f with qcache := l.filter fun n => !old.contains n }
  else s

/-- What needs a queue's fields waits: its control block is not in the entry cache, and cannot be loaded yet (R345, R437). -/
def State.qcbWaits (s : State) (q : Nat) : Bool :=
  s.liveQueue q && (s.fe.qcbDue.contains (q, .load) || (!s.fe.qcache.contains q && s.keyHeld (s.qcbKey q)))

/-- A queue's fields after a change: the memory of its control block is exact while it is OUT, and as it enters ERROR
(R345, R407). -/
def State.saveQueue (s : State) (q : Nat) : State :=
  match s.queue? q with
  | some u => if u.st = .out || u.st = .error then s.writeQcb q else s
  | none => s

/-- Contexts whose queues are fetched (R327, R349). -/
def CtxState.fetches (c : CtxState) : Bool := c == .ready || c == .resident || c == .partly
def State.fetching (s : State) (ctx : Nat) : Bool := (s.ctx? ctx).any fun c => c.st.fetches && !c.switching

/-! ### Progress words and queue states (R347, R349, R352) -/

/-- A queue enters ERROR: its control block is written back, and the host is signalled (R352, R407). -/
def State.queueError (s : State) (q code idx : Nat) (hdr : DWord) : State :=
  (s.onQueue q fun u =>
      { u with st := .error, errcode := code, erridx := idx % 2 ^ 64, errhdr := hdr, packet := none, feFault := none }).onQcb q .error

/-- The key of 8 bytes in the context window of a die (R125, R311). -/
def State.windowKey (s : State) (ctx die off : Nat) : Option Nat :=
  if s.spwlen ctx die < off + 8 || 2 ^ 27 ≤ off then none else some (scratchKey die (s.spwbase ctx die + off))

/-- The key of an 8-byte word that the front end writes for a context, and the class that a loss there has: in main memory,
or in the context window of a die. -/
def State.wordKey (s : State) (ctx : Nat) (die : Option Nat) (a : Nat) : Except Report (Nat × Nat) :=
  match die with
  | some d =>
    match recordLost (s.fieldLoss ctx (0x60 + 8 * d) 8) a, s.windowKey ctx d a with
    | some r, _ => .error r
    | none, some k => .ok (k, 1)
    | none, none => .error { kind := .bounds, addr := BitVec.ofNat 64 a }
  | none =>
    if 2 ^ 52 ≤ a then .error { kind := .page, addr := BitVec.ofNat 64 a }
    else
      match s.feAccess ctx .write a 8 with
      | .error f => .error (f.report a)
      | .ok x => .ok x

/-- Whether such a write waits for a stack in training (R379). -/
def State.wordHeld (s : State) (ctx : Nat) (die : Option Nat) (a : Nat) : Bool :=
  die == none && a < 2 ^ 52 && s.feHeld ctx a

/-- The same for a word that is written whole: a granule in which lost data would be merged is a consumed loss (R375). -/
def State.wordTarget (s : State) (ctx : Nat) (die : Option Nat) (a : Nat) : Except Report Nat :=
  match s.wordKey ctx die a with
  | .error r => .error r
  | .ok (k, cls) => if s.mergesLost k 8 then .error (lossAt a ⟨k, cls, 1⟩) else .ok k

/-- RDIDX written to the progress word (R347); a write that faults moves the queue to ERROR, and one that consumes a loss
is reported. One that waits for a stack in training (R379) is made later, with the value that RDIDX has then. -/
def State.progress (s : State) (q : Nat) : State × Option Report :=
  match s.queue? q with
  | none => (s, none)
  | some u =>
    let die := if u.ctl.getLsbD 1 then some (u.ctl.toNat / 4 % 4) else none
    if !u.ctl.getLsbD 0 || u.rdidx < u.prog then (s, none)
    else if s.wordHeld u.ctx die u.proga.toNat then
      (s.onFe fun f => { f with progDue := if f.progDue.contains q then f.progDue else f.progDue ++ [q] }, none)
    else
      match s.wordTarget u.ctx die u.proga.toNat with
      | .error r => if r.kind = .uncorrectable then (s, some r) else (s.queueError q 6 u.rdidx 0, none)
      | .ok k => ((s.storeLE k 8 u.rdidx).onQueue q fun u => { u with prog := u.rdidx }, none)

/-- A queue enters a state, in the entry cache (R345): the progress word is written at IDLE, STALLED, BLOCKED and OUT. -/
def State.setQueue (s : State) (q : Nat) (st : QState) : State × Option Report :=
  let s := (s.touchQueue q).onQueue q fun u => { u with st := st }
  let r := if st = .idle || st = .stalled || st = .blocked || st = .out then s.progress q else (s, none)
  (r.1.saveQueue q, r.2)

/-- DONEIDX: the lowest index that has not completed; indices that a RESET skipped count as completed (R349, R350). -/
def Queue.settleDone (u : Queue) : Queue := { u with doneidx := (u.pending.min?).getD u.rdidx }

/-- The queue of this number that a packet belongs to still exists: it was created for the same time (R350). -/
def State.sameQueue (s : State) (q gen : Nat) : Bool := (s.queue? q).any fun u => u.st != .absent && u.gen == gen

/-- A started packet completes (R350). A queue that was destroyed since has no packets. -/
def State.completePacket (s : State) (q gen idx : Nat) : State :=
  if s.sameQueue q gen then
    (((s.touchQueue q).onQueue q fun u =>
        Queue.settleDone { u with pending := u.pending.filter (· != idx), getting := u.getting.filter fun e => e.1 != idx })).saveQueue q
  else s

/-- A BLOCKED queue's mailbox request is withdrawn, and RDIDX stands at its packet again (R349). -/
def State.withdrawPacket (s : State) (q : Nat) : State :=
  match s.queue? q with
  | none => s
  | some u =>
    let mine (r : MbxReq) : Bool := r.src == .queue q u.gen (u.rdidx - 1)
    if u.st = .blocked && u.packet.isNone && s.fe.mbxq.any mine then
      (s.onFe fun f => { f with mbxq := f.mbxq.filter fun r => !mine r }).onQueue q fun u =>
        { u with rdidx := u.rdidx - 1, pending := u.pending.filter (· != u.rdidx - 1),
                 getting := u.getting.filter fun e => e.1 != u.rdidx - 1 }
    else s

/-- A queue becomes ABSENT (R349): its requests go, its control block is written back, and it leaves the entry cache. -/
def State.dropQueue (s : State) (q : Nat) : State :=
  let s := s.withdrawPacket q
  let s := s.onFe fun f => { f with mbxq := f.mbxq.filter fun r => match r.src with | .queue n _ _ => n != q | .path .. => true }
  let s := s.onQueue q fun v => { v with packet := none, feFault := none, st := .absent, getting := [] }
  (s.writeQcb q).onFe fun f => { f with qcache := f.qcache.filter (· != q) }

/-- A queue follows the state of its context (R349): to OUT, back from it, or to ABSENT. -/
def State.syncQueue (s : State) (q : Nat) : State × Option Report :=
  match s.queue? q with
  | none => (s, none)
  | some u =>
    match (s.ctx? u.ctx).map (·.st) with
    | none | some CtxState.free =>
      if u.st = .absent then (s, none) else (s.dropQueue q, none)
    | some c =>
      if c.fetches then
        if u.st = .out && s.fetching u.ctx then s.setQueue q (if u.rdidx < u.tail then .active else .idle) else (s, none)
      else
        match u.st with
        | .idle | .active | .stalled | .blocked =>
          (s.withdrawPacket q).onQueue q (fun v => { v with packet := none, feFault := none }) |>.setQueue q .out
        | _ => (s, none)

/-- The queues of a context follow its state; with the losses that their progress writes consume. -/
def State.syncQueues (s : State) (ctx : Nat) : State × List Report :=
  ((s.queues.filter fun u => u.ctx == ctx).map fun u => u.id).foldl
    (fun (a : State × List Report) q =>
      let r := a.1.syncQueue q
      (r.1, a.2 ++ r.2.toList))
    (s, [])

end Sys2Proof.Machine
end

