-- ==== Sys2Proof/Machine/Descriptor.lean ====
section
/-!
DEFINITION. The fields of engine descriptors (R203-R210), the memory that an engine thread reaches (R203), and what a thread has yet to
write (R213).
-/
namespace Sys2Proof.Machine

/-- A 4-byte field of a record as a signed number. -/
def signedField (b : List Byte) (o n : Nat) : Int := (BitVec.ofNat (8 * n) (fieldOf b o n)).toInt

/-- CTL, and n bits of it from bit i on. -/
def descCtl (b : List Byte) (i n : Nat) : Nat := fieldOf b 0x38 4 / 2 ^ i % 2 ^ n

def descCwe (b : List Byte) : Bool := descCtl b 6 1 == 1

def descCws (b : List Byte) : Nat := descCtl b 7 1

def descCwa (b : List Byte) : Nat := fieldOf b 0x28 8

def descCwv (b : List Byte) : Nat := fieldOf b 0x30 8

/-- The type code and the element size of a bulk atomic (R208). -/
def bamTy (b : List Byte) : Ty := Ty.ofCode (BitVec.ofNat 4 (descCtl b 2 4))

def bamBytes (b : List Byte) : Nat := if (bamTy b).is64 then 8 else 4

/-- The bytes of an element of a copy, and of a collective. -/
def copyBytes (b : List Byte) : Nat := 2 ^ descCtl b 4 2

def collBytes (t : CollTy) : Nat := if t = .bf16 then 2 else 4

/-- N0, N1 and N2, and the four strides of a copy (R204). -/
def copyN (b : List Byte) (k : Nat) : Nat :=
  match k with
  | 0 => fieldOf b 0x10 4
  | 1 => fieldOf b 0x14 2
  | _ => fieldOf b 0x16 2

def copySstr (b : List Byte) (k : Nat) : Int := signedField b (0x14 + 4 * k) 4

def copyDstr (b : List Byte) (k : Nat) : Int := signedField b (0x1C + 4 * k) 4

/-- RET of a bulk atomic, and its target stride. -/
def bamRet (b : List Byte) : Bool := descCtl b 8 1 == 1

def bamTstr (b : List Byte) : Int := signedField b 0x14 4

/-- The lowest and the highest byte of n0 elements in rows and planes with signed strides. -/
def spanOf (base : Nat) (n0 : Nat) (c1 : Nat) (s1 : Int) (c2 : Nat) (s2 : Int) : Int × Int :=
  let d1 := ((c1 : Int) - 1) * s1
  let d2 := ((c2 : Int) - 1) * s2
  ((base : Int) + min 0 d1 + min 0 d2, (base : Int) + n0 + max 0 d1 + max 0 d2)

/-- Source and destination address of element `idx` of a copy, and where its row begins and ends (R205). -/
def copyAt (b : List Byte) (idx : Nat) : Int × Int × Int × Int :=
  let e : Int := copyBytes b
  let i0 : Int := (idx % copyN b 0 : Nat)
  let i1 : Int := (idx / copyN b 0 % copyN b 1 : Nat)
  let i2 : Int := (idx / (copyN b 0 * copyN b 1) : Nat)
  let row : Int := fieldOf b 0x08 8 + i1 * copyDstr b 1 + i2 * copyDstr b 2
  (fieldOf b 0 8 + i0 * e + i1 * copySstr b 1 + i2 * copySstr b 2, row + i0 * e, row, row + copyN b 0 * e)

/-! ### The memory that a thread reaches (R203) -/

/-- Where an access goes: runs of keys with their lengths, and the class that a loss in each has. -/
structure Place where
  runs : List (Nat × Nat)
  cls : List Nat
  deriving DecidableEq, Repr

/-- The pieces of an extent that lie in one 4 KiB page each. -/
def pagePieces (a n : Nat) : List (Nat × Nat) :=
  (List.range ((a % 4096 + n + 4095) / 4096)).map fun j =>
    let lo := if j = 0 then a else a / 4096 * 4096 + 4096 * j
    (lo, min (a + n) (a / 4096 * 4096 + 4096 * (j + 1)) - lo)

/-! ### Main memory -/

/-- The engine whose TLB a thread's accesses use: one of the die's eight (DESIGN CHOICE: assumption 23). -/
def Thread.walker (t : Thread) : Walker :=
  ⟨some t.die, some (.engine (t.id % 8)), t.ctx, (List.range 16).filter fun n => !t.fenced.contains n⟩

/-- Pieces of main memory translated in increasing order, and taken to where they go (R203, R411). -/
def State.mainRuns (s : State) (w : Walker) (k : AccKind) : List (Nat × Nat) → Except Report Place
  | [] => .ok ⟨[], []⟩
  | (a, n) :: r =>
    match s.access w k a n with
    | .error f => .error (f.report a)
    | .ok x =>
      match State.mainRuns s w k r with
      | .error f => .error f
      | .ok q => .ok ⟨(x.1, n) :: q.runs, x.2 :: q.cls⟩

/-- n bytes of main memory; an extent above 2^52 has no translation (R207). -/
def State.mainPlace (s : State) (w : Walker) (k : AccKind) (a n : Nat) : Except Report Place :=
  if 2 ^ 52 < a + n then .error { kind := .page, addr := BitVec.ofNat 64 a } else s.mainRuns w k (pagePieces a n)

/-! ### The spaces of R203 -/

/-- n bytes at an address of a space: BOUNDS outside the team's memory or its window. -/
def State.place (s : State) (t : Thread) (tm : Team) (sp : Nat) (k : AccKind) (a n : Nat) : Except Report Place :=
  let addr := BitVec.ofNat 64 a
  match sp with
  | 0 => match teamMemKey tm a n with | some q => .ok ⟨[(q, n)], [0]⟩ | none => .error { kind := .bounds, addr := addr }
  | 1 =>
    match recordLost (s.windowLoss tm a) a, s.dieKey tm a n with
    | some r, _ => .error r
    | none, some q => .ok ⟨[(q, n)], [1]⟩
    | none, none => .error { kind := .bounds, addr := addr }
  | _ => s.mainPlace t.walker k a n

/-! ### What a thread has yet to write (R213) -/

/-- The index that an element of a gather or scatter names, as team memory holds it; none where the element is skipped (R207). -/
def State.gsIndex (s : State) (t : Thread) (i : Nat) : Option Nat :=
  let x := s.readLE (teamKey t.team (fieldOf t.desc 0x10 4 + 4 * i)) 4
  if descCtl t.desc 8 1 = 1 && x = 0xFFFFFFFF then none else some x

/-- Some extents of a space that a thread has yet to write, element by element or row by row, from its resume index on (R204-R210): its
destination, its old values and its completion word, by space, address and length. -/
def State.restAny (s : State) (t : Thread) (f : Nat → Int → Nat → Bool) : Bool :=
  let b := t.desc
  let n := fieldOf b 0x10 4
  let from' (k : Nat) : List Nat := (List.range (k - t.idx)).map (t.idx + ·)
  (descCwe b && f (if descCws b = 1 then 1 else 2) (descCwa b : Nat) 8) ||
    match t.kind with
    | .copy _ | .fill =>
      let r0 := t.idx / copyN b 0
      (List.range (copyN b 1 * copyN b 2 - r0)).any fun r =>
        let e := max t.idx ((r0 + r) * copyN b 0)
        f (descCtl b 2 2) (copyAt b e).2.1 ((copyN b 0 - e % copyN b 0) * copyBytes b)
    | .gather =>
      let w := fieldOf b 0x18 4
      (from' (fieldOf b 0x14 4)).any fun i => (s.gsIndex t i).isSome && f (descCtl b 2 2) (fieldOf b 0x08 8 + i * w : Nat) w
    | .scatter =>
      (from' (fieldOf b 0x14 4)).any fun i =>
        (s.gsIndex t i).any fun x => f (descCtl b 0 2) (fieldOf b 0 8 + x * fieldOf b 0x20 8 : Nat) (fieldOf b 0x18 4)
    | .bam _ =>
      let w := bamBytes b
      (from' n).any fun i =>
        f (descCtl b 0 2) (fieldOf b 0 8 + i * bamTstr b) w || (bamRet b && f 0 (fieldOf b 0x0C 4 + i * w : Nat) w)
    | .coll _ ty => (from' n).any fun i => f (descCtl b 2 2) (fieldOf b 0x08 8 + i * collBytes ty : Nat) (collBytes ty)
    | _ => false

/-- Whether a thread has yet to write a byte of n bytes at key k. An extent that cannot be reached is none of them. -/
def State.yetToWrite (s : State) (t : Thread) (k n : Nat) : Bool :=
  (s.team? t.team).any fun tm =>
    s.restAny t fun sp a w =>
      0 ≤ a && match s.place t tm sp .write a.toNat w with
        | .ok p => p.runs.any fun r => overlaps k n r.1 r.2
        | .error _ => sp == 2 && ((pagePieces a.toNat w).any fun e =>
            match s.place t tm sp .write e.1 e.2 with
            | .ok p => p.runs.any fun r => overlaps k n r.1 r.2
            | .error _ => false)

end Sys2Proof.Machine
end

