-- ==== Sys2Proof/Machine/Ops.lean ====
section
/-!
DEFINITION. The named operations over the machine that more than one instruction or hardware step uses: fault
records and their delivery, TAKING A FAULT (`State.raise`, R11-R14, R334-R339) and coming back
from a recoverable one (`State.resume`), the end of teams, grids and contexts, and the escalation of lost data.
-/
namespace Sys2Proof.Machine

/-! ### The end of teams and grids (R303, R310, R318) -/

/-- The number of teams of a grid (R309). -/
def Grid.total (g : Grid) : Nat := g.gx * g.gy * g.gz

/-- The expected count E of a grid's slots: its teams that have not ended (R302). -/
def Grid.expected (g : Grid) : Nat := g.total - g.ended

/-- The teams of a cluster that have not ended (R302). -/
def State.clusterExpected (s : State) (g : Grid) (cluster : Nat) : Nat :=
  g.desc.csize -
    ((s.gridTeams g.id).filter fun t => t.cluster == cluster && (t.st == .done || t.st == .killed)).length

/-- A generation that has enough arrivals releases (R303). -/
def SlotGen.check (e : Nat) (g : SlotGen) : SlotGen :=
  if (g.st = .armed || g.st = .filling) && e ≤ g.arr && 0 < g.arr then { g with st := .releasing } else g

/-- Every slot of a grid tested again after a team ended (R303). -/
def State.recheckSlots (s : State) (grid : Nat) : State :=
  match s.grid? grid with
  | none => s
  | some g =>
    { s with
      slots := mapIf s.slots (·.grid == grid) fun b =>
        { b with
          gens := b.gens.map fun x =>
            x.check (if b.kind = some .cluster then s.clusterExpected g x.cluster else g.expected) } }

/-- Mailbox requests, launch waits and rope entries of a team's groups withdrawn when the team goes. A wake that is due stays due to the
launchers that still wait, one each (R314). -/
def State.withdrawGroups (s : State) (ids : List Nat) : State :=
  { s with
    fe := { s.fe with
      mbxq := s.fe.mbxq.filter fun r => match r.src with | .path g _ => !ids.contains g | .queue .. => true }
    cores := s.cores.map fun c =>
      { c with
        plqWait := c.plqWait.filter fun g => !ids.contains g
        plqWakes := min c.plqWakes (c.plqWait.filter fun g => !ids.contains g).length
        mx := { c.mx with ropeq := c.mx.ropeq.filter fun e => !ids.contains e.1 } } }

/-- A killed team's matrix threads are discarded, and its matrix state is released (R230, R244). -/
def Matrix.dropTeam (m : Matrix) (team : Nat) (ids : List Nat) : Matrix :=
  { m with
    threads := m.threads.filter (·.team != team)
    rope := if m.rope.any ids.contains then none else m.rope
    ropeq := m.ropeq.filter fun e => !ids.contains e.1
    release := m.release || m.team == some team }

/-- What happens to an engine thread whose team is killed: it stops at the element boundary (R215). A collective's that has joined its
instance and written nothing stays in it, for the sake of its other participants, and writes nothing (DESIGN CHOICE: assumption 9).
Launches, fences and hand-overs run on and lower nothing (R315, R383). -/
def Thread.onKill (t : Thread) : Thread :=
  match t.kind with
  | .copy _ | .fill | .gather | .scatter | .bam _ => { t with st := .ended, orphan := true }
  | .coll _ _ => if t.st == .running && t.args == [] then { t with orphan := true } else { t with st := .ended, orphan := true }
  | _ => { t with orphan := true }

/-- Joins of collective threads that have ended are done with. -/
def State.dropJoins (s : State) : State :=
  { s with fe := { s.fe with joins := s.fe.joins.filter fun j => (s.thread? j.tid).any fun t => t.st != .ended } }

/-- The cluster window of a cluster all of whose teams have ended returns to the die (R318, R322). -/
def State.releaseWindow (s : State) (t : Team) : State :=
  let mates := s.unit t.id
  if t.winLen = 0 then s
  else if mates.all fun id => (s.team? id).all fun u => u.st == .done || u.st == .killed then
    s.onDie t.die fun d => { d with windows := d.windows.filter fun w => w.2.1 != t.winBase }
  else s

/-- The core cycles that a team has spent on cores (R361). -/
def State.costOf (s : State) (t : Team) : Nat :=
  t.cost + if t.st = .resident then ((s.core t.die t.site).cycle - t.since).toNat else 0

/-- The cost of an ended team is subtracted from its queue's DEFICIT (R361). -/
def State.chargeTeam (s : State) (t : Team) : State :=
  match s.grid? t.grid with
  | some g =>
    if s.sameQueue g.queue g.qgen then
      ((s.touchQueue g.queue).onQueue g.queue fun u => { u with deficit := u.deficit - s.costOf t }).saveQueue g.queue
    else s
  | none => s

/-- What a team's memory held stays in its range of the core's team memory when the team leaves it (R121, R434). -/
def State.leaveRange (s : State) (t : Team) : State :=
  if t.st = .resident then s.copyRange (teamKey t.id 0) (coreKey t.die t.site t.tmBase) t.tmem else s

/-- A new team finds in its range of a core's team memory what was left there (R121, R434). -/
def State.enterRange (s : State) (team die site base tmem : Nat) : State :=
  s.copyRange (coreKey die site base) (teamKey team 0) tmem

/-- The barrier-table slots of a grid become FREE, with their queues, and their cluster counts leave the context's pool (R302, R303). -/
def State.dropSlots (s : State) (grid ctx : Nat) : State :=
  let used := (s.slots.filter fun b => b.grid == grid).filterMap (·.counts)
  ({ s with slots := s.slots.filter fun b => b.grid != grid }).onCtx ctx fun c =>
    { c with pools := c.pools.filter fun e => !used.contains (e.1, e.2.1, e.2.2.1) }

/-- A team leaves the machine: its groups, private slots, save image, bivouac record, queue and wake entries go, and its
team memory with it (R318, R331). The state it ends in is `st`. -/
def State.endTeam (s : State) (team : Nat) (st : TeamState) : State :=
  match s.team? team with
  | none => s
  | some t =>
    if t.st = .done || t.st = .killed then s
    else
      let gs := s.teamGroups team
      let ids := gs.map (·.id)
      let privs := gs.map (·.priv)
      let ctx := s.gridCtx t.grid
      let s := ((s.withdrawGroups ids).chargeTeam t).leaveRange t
      let s := { s with
        mem := Sparse.clear s.mem (teamKey team 0) (2 ^ 21)
        lost := s.lost.filter fun q => !(teamKey team 0 / 64 ≤ q && q < teamKey (team + 1) 0 / 64)
        slots := s.slots.map fun (b : BarSlot) => { b with records := b.records.filter (· != team) }
        groups := s.groups.filter fun (g : Group) => g.team != team
        teams := mapIf s.teams (·.id == team) fun (u : Team) =>
          { u with st := st, image := none, record := none, recordAt := none, recDone := 0, leaving := .stay, wakeSet := [],
                   bivouacking := false, recFault := none, saveFault := none, slotWait := none }
        dies := s.dies.map fun (d : Die) =>
          { d with absent := d.absent.filter (· != team), wakeTable := d.wakeTable.filter fun e => e.1 != team,
                   claims := d.claims.filter fun c => c.unit.any fun m => m != team && d.absent.contains m }
        ctxs := mapIf s.ctxs (·.id == ctx) fun (c : Ctx) =>
          { c with
            privUsed := c.privUsed.filter fun n => !privs.contains n
            saves := match t.image with | some (a, _) => c.saves.filter fun e => !(e.1 == t.die && e.2.1 == a) | none => c.saves
            pools := match t.recordAt with
              | some (m, a, _) => c.pools.filter fun e => !(e.1 == t.die && e.2.1 == m && e.2.2.1 == a)
              | none => c.pools }
        grids := mapIf s.grids (·.id == t.grid) fun (g : Grid) =>
          { g with ended := g.ended + 1, killed := if st = TeamState.killed then g.killed + 1 else g.killed } }
      (s.releaseWindow t).recheckSlots t.grid

/-- KILLED (R318): live continuations are squashed, stores that issued are performed, the team's matrix threads and copies stop, and the team ends. -/
def State.killTeam (s : State) (team : Nat) : State :=
  match s.team? team with
  | none => s
  | some t =>
    if t.st = .done || t.st = .killed then s
    else
      let gs := s.teamGroups team
      let ids := gs.map (·.id)
      let s := gs.foldl (fun st g => if g.conts = [] then st else st.countSquash g g.conts) s
      let s := ids.foldl State.drainLate s
      let s := State.dropJoins { s with threads := mapIf s.threads (·.team == team) Thread.onKill }
      let s := if t.st = .resident then s.onCore t.die t.site fun c => { c with mx := c.mx.dropTeam team ids } else s
      let s := { s with saved := s.saved.filter fun m => m.team != team }
      s.endTeam team .killed

/-- A grid fails with a status code: every team that is not DONE is killed, its barrier slots are freed, and its report is
due (R303, R310). Every team that was never dealt counts among the killed. -/
def State.failGrid (s : State) (grid code : Nat) : State :=
  match s.grid? grid with
  | none => s
  | some g =>
    if g.st = .retired || g.st = .failed then s
    else
      let s := (s.gridTeams grid).foldl (fun st t => st.killTeam t.id) s
      let done := ((s.gridTeams grid).filter fun t => t.st == .done).length
      let s := s.dropSlots grid g.ctx
      { s with
        grids := mapIf s.grids (·.id == grid) fun (h : Grid) =>
          { h with st := .failed, code := code, slots := [], report := .status,
                   killed := if h.st = .submitted then 0 else h.total - done,
                   ended := if h.st = .submitted then h.ended else h.total } }

/-- Every grid of a context fails: the faulting team's with status 0x05, the others with 0x06 (R327). -/
def State.failCtxGrids (s : State) (ctx : Nat) (first : Option Nat) : State :=
  (s.ctxGrids ctx).foldl (fun st g => st.failGrid g.id (if first = some g.id then 0x05 else 0x06)) s

/-- Teams of a context that are RESIDENT, and those that are absent (R327). -/
def Team.isAbsent (t : Team) : Bool := t.st == .unplaced || t.st == .bivouac || t.st == .evicted

def State.anyResident (s : State) (ctx : Nat) : Bool := (s.ctxTeams ctx).any fun t => t.st == .resident

/-- A grid with teams that are still to be dealt, UNPLACED as those in a die's queue are (R318, R319). -/
def Grid.undealt (g : Grid) : Bool := (g.st == .submitted || g.st == .dispatching) && g.nextDeal < g.total

def State.anyAbsent (s : State) (ctx : Nat) : Bool := (s.ctxTeams ctx).any Team.isAbsent || (s.ctxGrids ctx).any Grid.undealt

/-- The record of a fault of an access that the front end makes for a context (R439). -/
def State.feRecord (s : State) (ctx grid : Nat) (r : Report) : FaultRec :=
  { seq := s.evSeq, pc := 0, addr := r.addr, iword := 0, lanes := 0, kind := r.kind, cls := r.kind.cls, flags := 4,
    gid := 0, ctx := ctx, grid := grid, team := 0, die := 0, site := 0, gidx := 0, code := 0 }

/-- The command whose context has reached its end is done with (R326, R328). -/
def State.endCommand (s : State) (ctx status : Nat) : State :=
  if s.fe.ctxBusy = some ctx then s.onFe fun f => { f with ctxBusy := none, ctxStatus := status } else s

/-- A loss that a progress write consumed while its context was leaving the states that fetch (R347, R377): its record waits
with the held ones. -/
def State.lateLoss (s : State) (ctx : Nat) (r : Report) : State :=
  let rec' := s.feRecord ctx 0 r
  let s := s.nextSeqNo
  let s := { s with losses := s.losses + r.lost }
  match r.cls with
  | 2 => (s.mgmtLog (.loss rec'.seq 2 r.addr.toNat r.pa)).requestReset .partition (((s.ctx? ctx).map (·.dies)).getD 0)
  | 3 => (s.mgmtLog (.loss rec'.seq 3 r.addr.toNat r.pa)).requestReset .warm 0
  | _ =>
    let s := s.failCtxGrids ctx none
    s.onCtx ctx fun c => { c with held := c.held ++ [rec'], st := if c.st = .dead then .dead else .faulted, faults := [] }

/-- What a parked thread of a context that has stopped does: a launch is passed on, to be refused; no other can go on. -/
def Thread.unpark (t : Thread) : Thread :=
  match t.st with
  | .parked _ => { t with st := if t.kind = .launch then .running else .ended }
  | _ => t

/-- The faults that stay outstanding when a context enters a state: all of them OUT; else those of reports that wait (R313,
R334). -/
def keepFault (st : CtxState) (e : Nat × FaultTarget) : Bool :=
  st == .out || (match e.2 with | .report _ => true | _ => false)

/-- A context enters a state in which its queues are not fetched (R327, R349). -/
def State.enterCtx (s : State) (ctx : Nat) (st : CtxState) (status : Nat) : State :=
  let s := s.onCtx ctx fun c => { c with st := st, switching := false, faults := c.faults.filter (keepFault st) }
  let s := if st = .out then s else { s with threads := mapIf s.threads (·.ctx == ctx) Thread.unpark }
  let r := s.syncQueues ctx
  (r.2.foldl (fun (t : State) e => t.lateLoss ctx e) r.1).endCommand ctx status

/-- RESIDENT and PARTIAL contexts tested after a team left or returned (R327). -/
def State.settleCtx (s : State) (ctx : Nat) : State :=
  match s.ctx? ctx with
  | none => s
  | some c =>
    if c.switching then
      if s.anyResident ctx then s else (s.discardCtx ctx).enterCtx ctx .out 0
    else
      match c.st with
      | .resident | .partly =>
        if !s.anyResident ctx && !s.anyAbsent ctx then s.onCtx ctx fun c => { c with st := .ready }
        else if c.st = .partly && !(s.ctxTeams ctx).any fun t => t.st == .evicted && t.leaving == .preempt then
          s.onCtx ctx fun c => { c with st := .resident }
        else s
      | _ => s

/-- A context enters FAULTED: every team KILLED, every grid FAILED (R327). DEAD and FREE stay; FAULTED stays (R328). -/
def State.faultCtx (s : State) (ctx : Nat) (first : Option Nat) : State :=
  match s.ctx? ctx with
  | none => s
  | some c =>
    match c.st with
    | .free | .dead | .faulted => s
    | _ => (s.failCtxGrids ctx first).enterCtx ctx .faulted 2

/-- A context enters DEAD (R327). -/
def State.deadCtx (s : State) (ctx : Nat) : State :=
  match s.ctx? ctx with
  | none => s
  | some c =>
    match c.st with
    | .free | .dead => s
    | _ => (s.failCtxGrids ctx none).enterCtx ctx .dead 2

/-! ### Delivering a record (R336) -/

/-- A record that cannot be delivered goes to the management log with the fault of the write, those held behind it follow, and the
context enters DEAD. -/
def State.recordFails (s : State) (r : FaultRec) (f : XFault) (va : Nat) : State :=
  let s := s.mgmtLog (.faultRecord r.seq r)
  let s := (s.mgmtLog (.writeFault s.evSeq r.ctx (f.report va).kind.code (BitVec.ofNat 64 va))).nextSeqNo
  let later := ((s.ctx? r.ctx).map (·.held)).getD []
  let s := later.foldl (fun (t : State) q => t.mgmtLog (.faultRecord q.seq q)) s
  (s.onCtx r.ctx fun c => { c with noRing := true, held := [] }).deadCtx r.ctx

/-- The key of n bytes that the front end writes for a context; data that is lost and would be merged is met at the write
(R375). -/
def State.feWrite (s : State) (ctx va n : Nat) : Except XFault Nat :=
  match s.feAccess ctx .write va n with
  | .error f => .error f
  | .ok x => if s.mergesLost x.1 n then .error (.uncorrectable x.2 x.1) else .ok x.1

/-- Record H written to the ring, then H + 1 to NOTIFYA, then the host is signalled (R336). -/
def State.writeRecord (s : State) (c : Ctx) (r : FaultRec) : State :=
  let va := s.fring c.id + 64 * (c.h % 2 ^ s.frlog c.id)
  match s.feWrite c.id va 64 with
  | .error f => s.recordFails r f va
  | .ok k =>
    let s := s.store k r.bytes
    let na := s.notifya c.id
    match s.feWrite c.id na 8 with
    | .error f => s.recordFails r f na
    | .ok j =>
      let h := (c.h + 1) % 2 ^ 32
      ((s.onCtx c.id fun d => { d with h := h }).storeLE j 8 h).signal 0

/-- Whether the write of a context's next record waits for a stack in training (R379). -/
def State.ringHeld (s : State) (c : Ctx) : Bool :=
  s.feHeld c.id (s.fring c.id + 64 * (c.h % 2 ^ s.frlog c.id)) || s.feHeld c.id (s.notifya c.id)
    || s.recordWaits c.id

/-- The ring is full (R336). -/
def State.ringFull (s : State) (c : Ctx) : Bool :=
  (c.h + 2 ^ 32 - s.frtail c.id) % 2 ^ 32 == 2 ^ s.frlog c.id

/-- Held records written while the ring has room, as the re-read of FRTAIL shows; a record of the context that is lost is a loss of the
hub die's (R336, R375). -/
def State.releaseHeld (s : State) (ctx : Nat) : Nat → State
  | 0 => s
  | n + 1 =>
    match s.ctx? ctx with
    | none => s
    | some c =>
      match c.held with
      | [] => s
      | r :: rs =>
        if c.noRing || s.ringHeld c then s
        else if let some t := s.hubLoss (tagKey c.recAddr) 256 then t
        else if s.ringFull c then s
        else State.releaseHeld ((s.onCtx ctx fun d => { d with held := rs }).writeRecord { c with held := rs } r) ctx n

/-- A record is delivered, behind the held ones: held or dropped when the ring is full, to the management log when there is no ring (R336). -/
def State.deliver (s : State) (r : FaultRec) : State :=
  let s := s.releaseHeld r.ctx (((s.ctx? r.ctx).map fun c => c.held.length).getD 0)
  match s.ctx? r.ctx with
  | none => s
  | some c =>
    if c.noRing || c.st = .free then s.mgmtLog (.faultRecord r.seq r)
    else if s.isLost (tagKey c.recAddr) 256 then s.deviceLoss (tagKey c.recAddr)
    else if s.ringHeld c then s.onCtx c.id fun d => { d with held := d.held ++ [r] }
    else if s.ringFull c then
      if r.cls = 0 then s.onCtx c.id fun d => { d with held := d.held ++ [r] }
      else s.storeLE (tagKey c.recAddr + 0xFC) 4 (s.record c 0xFC 4 + 1)
    else s.writeRecord c r

/-! ### Lost data (R377) -/

/-- A consumed loss escalates by its class (R377): 0 TEAM, 1 CONTEXT, 2 SHARED, 3 DEVICE. `team` is the consuming team. Every loss is
counted (R378). -/
def State.escalate (s : State) (r : FaultRec) (w : Report) (team : Option Nat) : State :=
  let s := { s with losses := s.losses + w.lost }
  match w.cls, team with
  | 0, some t => ((s.deliver r).killTeam t).settleCtx r.ctx
  | 0, none => (s.deliver r).faultCtx r.ctx none
  | 1, t => (s.deliver r).faultCtx r.ctx (t.bind fun n => (s.team? n).map (·.grid))
  | 2, _ =>
    (s.mgmtLog (.loss r.seq 2 r.addr.toNat w.pa)).requestReset .partition (((s.ctx? r.ctx).map (·.dies)).getD 0)
  | _, _ => (s.mgmtLog (.loss r.seq 3 r.addr.toNat w.pa)).requestReset .warm 0

/-! ### The fault-parked share (R333) -/

/-- The park that R253 gives a group's state: none while a path can issue. -/
def Group.parked (g : Group) : Option Park :=
  match g.arch.path0, g.arch.path1 with
  | some p, some q => match p.park, q.park with | some a, some _ => some a | _, _ => none
  | some p, none => p.park
  | none, some q => q.park
  | none, none => none

/-- The counters that a group's wait names. -/
def Park.waitsOn (p : Park) (c : Nat) : Bool :=
  match p with
  | .waitK k _ => k == c
  | .waitHdr m => m.getLsbD c
  | _ => false

/-- A group that counts as fault-parked: in PARK-FAULT, waiting on a thread parked on PAGE, or with its team's record
write parked (R333). -/
def State.faultParked (s : State) (g : Group) : Bool :=
  g.spillFault.isSome || ((s.team? g.team).any fun t => t.recFault.isSome) ||
    match g.parked with
    | some (.fault _ _) => true
    | some p =>
      s.threads.any fun t =>
        t.grp == g.id && t.kind != .launch && (match t.st with | .parked _ => true | _ => false)
          && (g.arch.tracked.any (fun i => p.waitsOn i.ctr && !i.lowered && t.seq == some i.seq)
            || (match p with
              | .cairn _ => g.cairn.any fun c => s.yetToWrite t c.key 8
              | .spin ls _ => ls.any fun l => s.yetToWrite t (64 * l) 64
              | _ => false))
    | none => false

/-- Every resident team of a context is to be saved, and the context to become OUT (R327, R333). -/
def State.switchOutCtx (s : State) (ctx : Nat) : State :=
  let ids := (s.ctxTeams ctx).filterMap fun t => if t.st = .resident then some t.id else none
  let s := s.squashIf fun g _ => ids.contains g.team
  let s := { s with teams := s.teams.map fun (t : Team) => if ids.contains t.id then { t with leaving := .evict } else t }
  (s.onCtx ctx fun c => { c with switching := true }).settleCtx ctx

/-- The test of R333, made at each event that makes a group of the context fault-parked. -/
def State.shareTest (s : State) (ctx : Nat) : State :=
  match s.ctx? ctx with
  | none => s
  | some c =>
    if (c.st = .resident || c.st = .partly) && !c.switching then
      let gs := s.groups.filter fun g => !g.exited && (s.team? g.team).any fun t => t.st == .resident && s.gridCtx t.grid == ctx
      let f := (gs.filter s.faultParked).length
      if s.fpshare ctx != 0 && 1 ≤ gs.length && s.fpshare ctx * gs.length ≤ 16 * f then s.switchOutCtx ctx else s
    else s

/-- A path of a group has parked: the test of R333, where that makes the group fault-parked. A continuation's waits are none of the
group's. -/
def State.parkTest (s : State) (grp : Nat) : State :=
  match s.group? grp with
  | none => s
  | some g => if s.view.isNone && s.faultParked g then s.shareTest (s.teamCtx g.team) else s

/-! ### Taking a fault -/

/-- The record of a fault of a group's path (R335). -/
def State.pathRecord (s : State) (g : Group) (pc : DWord) (iword : Word) (r : Report) : FaultRec :=
  let t := s.team? g.team
  let grid := (t.map (·.grid)).getD 0
  { seq := s.evSeq, pc := pc, addr := r.addr, iword := iword, lanes := r.lanes, kind := r.kind, cls := r.kind.cls,
    flags := 0, gid := (t.map (·.site)).getD 0 * 64 + g.slot, ctx := s.gridCtx grid, grid := grid,
    team := (t.map (·.t)).getD 0, die := (t.map (·.die)).getD 0, site := (t.map (·.site)).getD 0, gidx := g.gidx,
    code := r.code }

/-- A group's live continuations are squashed, innermost first; each is counted (R283, R339). -/
def State.squashAll (s : State) (grp : Nat) : State :=
  match s.group? grp with
  | none => s
  | some g => if g.conts = [] then s else (s.onGroup grp fun h => { h with conts := [] }).countSquash g g.conts

/-- What the class of a fault does once its record has its number (R12): a recoverable fault parks what raised it under
`target`, with `park`; a program fault stops the team, fails its grid and faults the context; a machine fault
escalates. -/
def State.faultEffect (s : State) (rec : FaultRec) (r : Report) (team : Nat) (grid : Nat) (target : FaultTarget)
    (park : State → State) : State :=
  match rec.cls with
  | 0 =>
    let s := park ((s.onCtx rec.ctx fun c => { c with faults := c.faults ++ [(rec.seq, target)] }).deliver rec)
    let gs := s.groups.filter fun g =>
      match target with
      | .path n | .spill n => g.id == n
      | .thread n => (s.thread? n).any fun t => t.grp == g.id
      | _ => g.team == team
    if gs.any s.faultParked then s.shareTest rec.ctx else s
  | 1 => (s.deliver rec).faultCtx rec.ctx (some grid) |>.killTeam team
  | _ => s.escalate rec r (some team)

/-- TAKING A FAULT at a path (R11, R12): in a continuation the fault is deferred (R284); else the continuations of the
group are squashed, the 64-byte record is written with the next event number, a recoverable fault parks the path in
PARK-FAULT, and a program fault stops the team, its grid and its context. -/
def State.raise (s : State) (g : Group) (slot : Bool) (pc : DWord) (iword : Word) (r : Report) : State :=
  match s.view with
  | some k =>
    s.onGroup g.id fun h =>
      { h with conts := h.conts.mapIdx fun i c =>
          if i = k then { c with stopped := true, losses := c.losses + (if r.kind = .uncorrectable then r.lost else 0) } else c }
  | none =>
    let s := s.squashAll g.id
    let rec' := s.pathRecord g pc iword r
    (s.nextSeqNo).faultEffect rec' r g.team rec'.grid (.path g.id) fun st =>
      st.park g.id slot (some (.fault rec'.seq false))

/-- The record of a fault of an engine thread (R211, R212). -/
def State.threadRecord (s : State) (t : Thread) (r : Report) : FaultRec :=
  { seq := s.evSeq, pc := t.pc, addr := r.addr, iword := t.iword, lanes := 0, kind := r.kind, cls := r.kind.cls,
    flags := if (s.team? t.team).any (fun u => u.st == .evicted || u.st == .bivouac) then 3 else 1, gid := t.site * 64 + t.slot, ctx := t.ctx, grid := t.grid, team := ((s.team? t.team).map (·.t)).getD 0,
    die := t.die, site := t.site, gidx := t.gidx, code := 0 }

/-- TAKING A FAULT at an engine thread: a PAGE parks the thread and not the group (R213); any other fault stops the
issuing team, and the thread never completes (R214). -/
def State.raiseThread (s : State) (t : Thread) (r : Report) : State :=
  let rec' := s.threadRecord t r
  let s := s.nextSeqNo
  let s := if r.kind.cls = 0 then s else s.onThread t.id fun u => { u with st := .ended }
  s.faultEffect rec' r t.team t.grid (.thread t.id) fun st =>
    st.onThread t.id fun u => { u with st := .parked rec'.seq }

/-- TAKING A FAULT of an access that the front end makes for a context, when it is not recoverable: its record is written,
and a consumed loss escalates (R377, R439). -/
def State.feFault (s : State) (ctx grid : Nat) (r : Report) : State :=
  let rec' := s.feRecord ctx grid r
  let s := s.nextSeqNo
  if r.kind = .uncorrectable then s.escalate rec' r none else s.deliver rec'

/-- A recoverable fault of a front-end access: its record is written, and the access is held under `target` (R439). -/
def State.feHold (s : State) (ctx grid : Nat) (r : Report) (target : FaultTarget) (park : Nat → State → State) : State :=
  let rec' := s.feRecord ctx grid r
  park rec'.seq
    (((s.nextSeqNo).onCtx ctx fun c => { c with faults := c.faults ++ [(rec'.seq, target)] }).deliver rec')

/-! ### Coming back from a recoverable fault (R334, R373) -/

/-- The path that RESUME-FAULT releases: READY where its team is resident, SERVICED where it is saved (R334). -/
def Path.release (p : Path) (seq : Nat) (resident : Bool) : Path :=
  match p.park with
  | some (.fault n _) => if n = seq then { p with park := if resident then none else some (.fault n true) } else p
  | _ => p

/-- The path of a group that is parked under a record's number is released. -/
def State.releasePath (s : State) (grp seq : Nat) : State :=
  let here := ((s.group? grp).bind fun g => s.team? g.team).any fun t => t.st == .resident
  s.onArch grp fun a => a.onPaths fun p => p.release seq here

/-- RESUME-FAULT with a record's number lets what it parked go on (R334, R373). -/
def State.resume (s : State) (ctx seq : Nat) (target : FaultTarget) : State :=
  let s := s.onCtx ctx fun c => { c with faults := c.faults.filter fun e => e.1 != seq }
  match target with
  | .path g => s.releasePath g seq
  | .spill g => s.onGroup g fun h => { h with spillFault := none }
  | .thread t => s.onThread t fun u => { u with st := if u.st = .parked seq then (if u.desc = [] then .fresh else .running) else u.st }
  | .bivouac t => s.onTeam t fun u => { u with recFault := none }
  | .accept t => s.onThread t fun u => { u with st := if u.st = .parked seq then .running else u.st }
  | .packet q => s.onQueue q fun u => { u with feFault := none }
  | .image t => s.onTeam t fun u => { u with saveFault := none }
  | .grid g => s.onGrid g fun h => { h with hold := none }
  | .report g => s.onGrid g fun h => { h with report := match h.report with | .heldFault _ done => (if done then .completion else .status) | r => r }

end Sys2Proof.Machine
end

