-- ==== Sys2Proof/Machine/Operands.lean ====
section
/-!
DEFINITION. Operand forms: which registers an instruction uses and how (R438's order), the path that issues, the active
lanes (R7), and reading and writing the registers of lanes and of the group (R5, R167-R170).
-/
namespace Sys2Proof

/-- How many registers an operand of a type takes: a pair for 64 bits (R5). -/
def Ty.regs (t : Ty) : Nat := if t.is64 then 2 else 1

end Sys2Proof

namespace Sys2Proof.Machine

/-! ### Register uses -/

/-- One register that an instruction names: whether it reads it, whether it writes it, and whether it writes it only in
active lanes. -/
structure Use where
  reg : Reg
  reads : Bool
  writes : Bool
  lane : Bool
  deriving DecidableEq, Repr

/-- The ADDR that names a register in a fault record (R438). -/
def Reg.addr (r : Reg) : DWord :=
  BitVec.ofNat 64 ((match r.file with | .v => 0 | .s => 256 | .p => 512) + r.num)

/-- k registers of a file from number n on. -/
def regsFrom (f : RegFile) (n k : Nat) : List Reg := (List.range k).map fun i => ⟨f, n + i⟩

/-- Sources and destinations. -/
def reading (rs : List Reg) : List Use := rs.map fun r => ⟨r, true, false, false⟩
def writing (lane : Bool) (rs : List Reg) : List Use := rs.map fun r => ⟨r, false, true, lane⟩

def srcV (n : VReg) (k : Nat := 1) : List Use := reading (regsFrom .v n.toNat k)
def dstV (n : VReg) (k : Nat := 1) : List Use := writing true (regsFrom .v n.toNat k)
def srcS (n : SReg) (k : Nat := 1) : List Use := reading (regsFrom .s n.toNat k)
def dstS (n : SReg) (k : Nat := 1) : List Use := writing false (regsFrom .s n.toNat k)

/-- `pt` is no register: it is never pending and never poisoned (R5). -/
def srcP (p : PReg) : List Use := if p = 7 then [] else reading [⟨.p, p.toNat⟩]
def dstP (p : PReg) : List Use := if p = 7 then [] else writing true [⟨.p, p.toNat⟩]

/-- The guard predicate; GRD 7 names none (R7). -/
def guardUse (g : Guard) : List Use := srcP g

/-- `fmt` and the top of the predicate stack, which a fork tracks like registers (R280). -/
def fmtReg : Reg := ⟨.p, 8⟩
def topReg : Reg := ⟨.p, 9⟩

/-! ### The path that issues -/

/-- The group, its team, the PC slot and the path whose instruction issues. -/
structure Here where
  g : Group
  t : Team
  slot : Bool
  p : Path
  deriving Repr

/-- A team whose groups issue: resident, not on its way out (R318, R329, R304). -/
def Team.runs (t : Team) : Bool := t.st == .resident && t.leaving == .stay && !t.bivouacking && t.recFault == none

/-- The most positions of the split stack that the core holds (R268). -/
def heldPositions : Nat := 8

/-- A refill is outstanding: no pop proceeds until it is complete (R268). -/
def Arch.refillDue (a : Arch) : Bool := a.stack.length < heldPositions && 0 < a.spilled

/-- A spill is outstanding (R268). -/
def Arch.spillDue (a : Arch) : Bool := heldPositions < a.stack.length

/-- A group that issues: not exited, with no spill or refill outstanding or parked, and no recognition due (R252, R268, R295). -/
def Group.runs (g : Group) : Bool :=
  !g.exited && g.spillFault == none && !g.arch.spillDue && !g.arch.refillDue && !(g.detector.any (·.due))

/-- A path that issues: not parked, inside its clause (R86). -/
def Path.runs (p : Path) : Bool := p.park == none && p.entry == .inside

/-- The path that issues next, where it can (R252). -/
def State.here (s : State) : Option Here :=
  match s.group? s.cur.1 with
  | none => none
  | some g =>
    match s.team? g.team, g.arch.path s.cur.2 with
    | some t, some p => if t.runs && g.runs && p.runs then some ⟨g, t, s.cur.2, p⟩ else none
    | _, _ => none

/-- The architected registers before the instruction. -/
def Here.a (h : Here) : Arch := h.g.arch

/-- The context of the issuing group. -/
def State.hereCtx (s : State) (h : Here) : Nat := s.gridCtx h.t.grid

/-- The active lanes of an instruction with a guard (R7). -/
def Here.active (h : Here) (g : Guard) : Word := h.p.em &&& h.a.getP g.toNat

/-! ### Lane registers -/

/-- A vector register written in the lanes of a mask; every other lane keeps its value (R168). -/
def Arch.writeV (a : Arch) (act : Word) (d : Nat) (val : Nat → Word) : Arch :=
  (List.range 32).foldl (fun (b : Arch) l => if act.getLsbD l then b.setV d l (val l) else b) a

/-- A result of 32 or 64 bits written in the lanes of a mask: low half in the even register (R170). -/
def Arch.writeLanes (a : Arch) (act : Word) (d k : Nat) (val : Nat → Nat) : Arch :=
  (List.range k).foldl
    (fun (b : Arch) j => b.writeV act (d + j) fun l => BitVec.ofNat 32 (val l / 2 ^ (32 * j))) a

/-- An operand of k registers in a lane, as a number (R170). -/
def Arch.lane (a : Arch) (n k l : Nat) : Nat :=
  match k with
  | 0 => 0
  | k + 1 => (a.getV n l).toNat + 2 ^ 32 * Arch.lane a (n + 1) k l

/-- A predicate written in the lanes of a mask (R181). -/
def Arch.writeP (a : Arch) (act : Word) (p : Nat) (val : Nat → Bool) : Arch :=
  let bits : Word := BitVec.ofNat 32 (ofBits ((List.range 32).map val))
  a.setP p ((a.getP p &&& ~~~act) ||| (bits &&& act))

/-- Bit l of a predicate (R181). -/
def Arch.bitP (a : Arch) (p l : Nat) : Bool := (a.getP p).getLsbD l

/-! ### Uniform registers -/

/-- A uniform operand of k registers as a number. -/
def Arch.uni (a : Arch) (n k : Nat) : Nat := if k = 2 then (a.getX n).toNat else (a.getS n).toNat

/-- A uniform result of k registers. -/
def Arch.writeUni (a : Arch) (d k x : Nat) : Arch :=
  if k = 2 then a.setX d (BitVec.ofNat 64 x) else a.setS d (BitVec.ofNat 32 x)

end Sys2Proof.Machine
end

