-- ==== Sys2Proof/Machine/Flags.lean ====
section
/-!
DEFINITION. Conditions: what compares compute (R181, R192, R193) and what branches test (R81). The AX416 keeps no
flags register; predicates and the 0 or 1 that a uniform compare writes take its place.
-/
namespace Sys2Proof

/-- An integer compare, in the order of its type (R181). -/
def Cond.int (c : Cond) (a b : Int) : Bool :=
  match c with
  | .eq => a == b | .ne => a != b | .lt => a < b | .le => a ≤ b | .gt => b < a | .ge => b ≤ a | .num => true | .nan => false

/-- A float compare (R181): with a NaN only `ne` and `nan` hold, and -0 equals +0. -/
def Cond.float (c : Cond) (x y : Num) : Bool :=
  match c with
  | .eq => x.eq y | .ne => !x.eq y | .lt => x.lt y | .le => x.lt y || x.eq y | .gt => y.lt x | .ge => y.lt x || x.eq y
  | .num => !x.isNan && !y.isNan | .nan => x.isNan || y.isNan

/-- A branch condition tests a uniform register as an i32 (R81). -/
def BrCond.holds (c : BrCond) (x : Word) : Bool :=
  match c with
  | .always => true | .z => x == 0 | .nz => x != 0 | .neg => x.msb | .nneg => !x.msb

end Sys2Proof

namespace Sys2Proof.Machine

/-- The 1 or 0 that a uniform compare writes (R192). -/
def truth (b : Bool) : Nat := if b then 1 else 0

/-- The lanes of a mask, lowest first. -/
def lanesOf (m : Word) : List Nat := (List.range 32).filter fun l => m.getLsbD l

end Sys2Proof.Machine
end

