-- ==== Sys2Proof/Machine/Issue.lean ====
section
/-!
DEFINITION. How an instruction of a group issues: the checks of R13 in their order, waiting before an effect, the
retirement of the instruction with everything that is counted or tracked, and completion counters with the pending bits
that they prove (R134-R140).
-/
namespace Sys2Proof

/-! ### Classes of instructions -/

/-- Whether an instruction belongs to the lane set (R68). -/
def Instr.isLane (i : Instr) : Bool := !i.first.msb

/-- The opcode of a lane instruction, and of a uniform one (R70, R79). -/
def Instr.laneOpc (i : Instr) : Nat := (fld i.first 24 7).toNat
def Instr.uniOpc (i : Instr) : Nat := (fld i.first 25 6).toNat
/-- The XOP of an extended instruction (R76, R80). -/
def Instr.laneXop (i : Instr) : Nat := (fld ((encode i).getD 1 0) 17 8).toNat
def Instr.uniXop (i : Instr) : Nat := (fld ((encode i).getD 1 0) 18 8).toNat

/-- The lane instructions that read registers of other lanes: the exchanges (R184). -/
def Instr.crosses (i : Instr) : Bool :=
  match i with
  | .xchAt .. | .xchSub .. | .xchAdd .. | .xchFlip .. => true
  | _ => false

/-- The control transfers of R85. -/
def Instr.isControl (i : Instr) : Bool :=
  match i with
  | .bra .. | .brd .. | .call .. | .callFk .. | .braInd .. | .callInd .. | .ret | .exit => true
  | _ => false

/-- The lane memory instructions: OPC 0x60-0x6C and the atomics (R87). -/
def Instr.isLaneMem (i : Instr) : Bool :=
  i.isLane && ((0x60 ≤ i.laneOpc && i.laneOpc ≤ 0x6C) || (i.laneOpc == 0x7F && 0x80 ≤ i.laneXop))

/-- The lane arithmetic instructions, whose active lanes the classifier counts (R323). -/
def Instr.isLaneArith (i : Instr) : Bool := i.isLane && !i.isLaneMem

/-- The instructions that a recognised loop may issue (R294); `sel` counts as a move (DEDUCED: assumption 15). -/
def Instr.loops (i : Instr) : Bool :=
  let x (k : Nat) : Bool := k ≤ 0x0E
  match i with
  | .clamp _ _ _ _ _ t => t.isInt
  | .uniformExtended .clamp _ _ _ _ t _ _ _ => t.isInt
  | .ldN8 _ _ _ _ _ sp | .ldI8 _ _ _ _ _ sp | .ldN16 _ _ _ _ _ sp | .ldI16 _ _ _ _ _ sp | .ldB32 _ _ _ _ _ sp
  | .ldB64 _ _ _ _ _ sp | .ldB128 _ _ _ _ _ sp => sp != .priv
  | i =>
    if i.isLane then
      let o := i.laneOpc
      o ≤ 0x16 || (0x27 ≤ o && o ≤ 0x29) || o == 0x30 || o == 0x32 || (0x40 ≤ o && o ≤ 0x4B) || (0x54 ≤ o && o ≤ 0x5F)
        || (o == 0x7F && x i.laneXop)
    else
      let o := i.uniOpc
      o ≤ 0x16 || o == 0x1C || o == 0x20 || o == 0x21 || o == 0x27 || o == 0x28 || o == 0x2D || (o == 0x3E && x i.uniXop)

end Sys2Proof

namespace Sys2Proof.Machine

/-! ### Completion counters and pending bits (R134-R139) -/

/-- Tracked instructions of one path lowered in issue order, up to the first that has not completed; with the counters
lowered (R136). -/
def lowerSweep (p : AccPath) : List Tracked → List Tracked × List Nat
  | [] => ([], [])
  | t :: ts =>
    if t.path == p && !t.lowered then
      if t.done then
        let (r, cs) := lowerSweep p ts
        ({ t with lowered := true } :: r, t.ctr :: cs)
      else (t :: ts, [])
    else
      let (r, cs) := lowerSweep p ts
      (t :: r, cs)

/-- Lowered instructions without pending bits are forgotten where no earlier pending bit of their path and counter is
left that they could help to prove clear (R139); a continuation forgets none of its own, which are to join the group's (R282). -/
def prune (spec : Option Nat) (l : List Tracked) : List Tracked :=
  l.foldl
    (fun (kept : List Tracked) t =>
      if t.lowered && t.dests == [] && !(spec.any (· ≤ t.seq))
          && !(kept.any fun u => u.path == t.path && u.ctr == t.ctr && u.dests != []) then kept
      else kept ++ [t])
    []

/-- A counter lowered by one (R136). -/
def Arch.dropK (a : Arch) (c : Nat) : Arch := a.setK c (a.getK c - 1)

/-- Every lowering that completions of a path allow (R136). -/
def Arch.lower (a : Arch) (p : AccPath) : Arch :=
  let (ts, cs) := lowerSweep p a.tracked
  cs.foldl Arch.dropK { a with tracked := prune a.spec ts }

/-- ClearProven (R139): the bits of an instruction on counter c are cleared when at least lim later instructions of its
path also raised c. -/
def clearProven (c lim : Nat) : List Tracked → List Tracked
  | [] => []
  | t :: ts =>
    let later := (ts.filter fun u => u.path == t.path && u.ctr == c).length
    (if t.ctr == c && lim ≤ later then { t with dests := [] } else t) :: clearProven c lim ts

def Arch.clearProven (a : Arch) (c lim : Nat) : Arch :=
  { a with tracked := prune a.spec (Machine.clearProven c lim a.tracked) }

/-- What a long-latency instruction leaves to be completed: its path, the registers that it writes on completion, and
the values of a load or atomic. -/
structure Flight where
  path : AccPath
  dests : List Reg := []
  data : List (Nat × Nat × Word) := []
  acq : Bool := false
  launch : Bool := false
  done : Bool := false
  /-- the lanes of the path that issues it -/
  lanes : Word := 0
  /-- what it has still to do at memory -/
  late : List Late := []

/-- The raise of counter c by a long-latency instruction (R135); without a counter it goes untracked (R87). -/
def Arch.raise (a : Arch) (c : Option Nat) (f : Flight) : Arch :=
  match c with
  | none => a
  | some c =>
    let t : Tracked :=
      { seq := a.nextSeq, path := f.path, ctr := c, dests := f.dests, data := f.data, acq := f.acq, launch := f.launch,
        lanes := f.lanes, late := f.late, done := f.done, lowered := false }
    Arch.lower { a.setK c (a.getK c + 1) with tracked := a.tracked ++ [t], nextSeq := a.nextSeq + 1 } f.path

/-- The completion of the tracked instruction number seq: its data reaches its registers, and its counter falls when
its turn has come (R132, R136). -/
def Arch.complete (a : Arch) (seq : Nat) : Arch :=
  match a.tracked.find? (·.seq == seq) with
  | none => a
  | some t =>
    let a := t.data.foldl (fun (b : Arch) (e : Nat × Nat × Word) => b.setV e.1 e.2.1 e.2.2) a
    Arch.lower { a with tracked := mapIf a.tracked (·.seq == seq) fun u => { u with done := true, late := [] } } t.path

/-- The completion of a group's tracked instruction, in the group and in every continuation that was forked while it was
outstanding (R281). -/
def State.complete (s : State) (grp : Nat) (seq : Option Nat) : State :=
  match seq with
  | none => s
  | some n =>
    s.onGroup grp fun g => { g with arch := g.arch.complete n, conts := g.conts.map fun c => { c with arch := c.arch.complete n } }

/-- The completion of a lane access: what was put off of it is performed (R152). -/
def State.completeAccess (s : State) (grp seq : Nat) : State := (s.performBy grp (·.seq == seq)).complete grp (some seq)

/-- Whether a tracked instruction is po-before what a path issues now: a path that it shares lanes with issued it (R145). -/
def Tracked.before (t : Tracked) (p : Path) : Bool := t.lanes &&& p.m != 0

/-- An outstanding acquire holds back the memory instructions and the engine commands of its path (R198). -/
def Here.acquiring (h : Here) : Bool := h.a.tracked.any fun t => t.acq && !t.done && t.before h.p

/-- Lane accesses po-before the path that have not completed (R151, R198). -/
def Here.busy (h : Here) : Bool :=
  h.a.tracked.any fun t => (t.path == .T || t.path == .D || t.path == .P) && !t.done && t.before h.p

/-- Lane accesses of the group that have not completed (R142, R318). -/
def Arch.laneBusy (a : Arch) : Bool :=
  a.tracked.any fun t => (t.path == .T || t.path == .D || t.path == .P) && !t.done

/-! ### The plan of an instruction -/

/-- Which counter an instruction raises (R87). -/
inductive Raises where
  | nothing
  | ka (store : Bool)
  | kb
  deriving DecidableEq, Repr

/-- A counter field: 15 names none (R84). -/
def counterOf (k : Nat) : Option Nat := if k ≤ 11 then some k else none

/-- The counter that an instruction of the path's clause raises (R87). -/
def Path.counter (p : Path) (r : Raises) : Option Nat :=
  match r with
  | .nothing => none
  | .ka _ => counterOf p.ka
  | .kb => counterOf p.kb

/-- What is particular to an instruction at issue. `early` and `late` are its own checks, before and after the register
checks of R13; `hold` says that it waits before its effect, and how; `loss` is the lost data that its accesses meet once every check
has passed (R13); `act` is its effect, on the state in which the path
already stands behind it. -/
structure Plan where
  guard : Guard := 7
  uses : List Use
  raises : Raises := .nothing
  stall : State → Here → Bool := fun _ _ => false
  early : State → Here → Option Report := fun _ _ => none
  late : State → Here → Option Report := fun _ _ => none
  hold : State → Here → Option (State → State) := fun _ _ => none
  loss : State → Here → Option Report := fun _ _ => none
  act : Here → State → State

/-- All the registers that an instruction uses, in the order of R438. -/
def Plan.allUses (p : Plan) : List Use := guardUse p.guard ++ p.uses

/-- CLAUSE-LENGTH (R85): the instruction runs past its clause, or is a control transfer that does not end it. -/
def Path.badLength (p : Path) (i : Instr) : Bool :=
  let pos := (p.pc - p.hdr).toNat / 4 + i.size
  let total := headerLen p.header + 2
  total < pos || (i.isControl && pos != total)

/-- The first register use that satisfies `bad` (R438). -/
def firstBad (us : List Use) (bad : Use → Bool) : Option Reg := (us.find? bad).map (·.reg)

/-- A fault that names a register. -/
def regFault (k : FaultKind) (r : Option Reg) : Option Report := r.map fun r => { kind := k, addr := r.addr }

/-- REG-BLOCK, HAZARD and CARRY (R70, R140, R306). -/
def Arch.regFaults (a : Arch) (us : List Use) : Option Report :=
  (regFault .regBlock (firstBad us fun u => u.reg.file == .v && 8 * a.blocks ≤ u.reg.num))
    <|> (regFault .hazard (firstBad us fun u => a.pending u.reg))
    <|> (regFault .carry (firstBad us fun u => u.reads && a.poison.contains u.reg))

/-- Registers whose data is lost are read (R375, R376): losses of class TEAM. -/
def Arch.eccFault (a : Arch) (us : List Use) : Option Report :=
  let bad := ((us.filter fun u => u.reads && a.ecc.contains u.reg).map (·.reg)).eraseDups
  bad.head?.map fun r => { kind := .uncorrectable, addr := r.addr, cls := 0, lost := bad.length }

/-- The faults of an instruction at issue but for COUNTER, in the order of R13. -/
def State.issueFault (s : State) (h : Here) (i : Instr) (p : Plan) : Option Report :=
  (if h.p.badLength i then some { kind := .clauseLength } else none)
    <|> p.early s h
    <|> (if p.raises = .ka false && h.p.counter p.raises = none then some { kind := .clauseCounter } else none)
    <|> h.a.regFaults p.allUses
    <|> p.late s h

/-- COUNTER (R135): the counter stands at 63. -/
def Here.counterFault (h : Here) (r : Raises) : Option Report :=
  match h.p.counter r with
  | some c => if h.a.getK c = 63 then some { kind := .counter } else none
  | none => none

/-! ### Reading and writing bytes, in a continuation's view too (R279) -/

/-- The continuation whose instruction is under way. -/
def State.viewCont (s : State) (grp : Nat) : Option Cont :=
  match s.view, s.group? grp with
  | some k, some g => g.conts[k]?
  | _, _ => none

/-- A byte as the issuing path reads it: a continuation reads its belay buffer first. -/
def State.viewByte (s : State) (c : Option Cont) (k : Nat) : Byte :=
  match c.bind fun c => c.belay.find? (·.1 == k) with
  | some e => e.2
  | none => s.byte k

/-- Bytes put into a belay buffer. -/
def belayPut (l : List Host.Cell) (k : Nat) : List Byte → List Host.Cell
  | [] => l
  | b :: bs => belayPut (l.filter (·.1 != k) ++ [(k, b)]) (k + 1) bs

/-- A write of the issuing path: memory, or the belay buffer of its continuation (R279). -/
def State.viewStore (grp : Nat) (s : State) (k : Nat) (bs : List Byte) : State :=
  match s.view with
  | none => s.store k bs
  | some v => s.onGroup grp fun g => { g with conts := g.conts.mapIdx fun j c => if j = v then { c with belay := belayPut c.belay k bs } else c }

/-- What a continuation's load tracks. -/
def Cont.track (c : Cont) (ls : List (Nat × Nat)) : Cont :=
  { c with lines := ls.foldl (fun (acc : List (Nat × Nat)) x => if acc.contains x then acc else acc ++ [x]) c.lines }

/-! ### Retiring -/

/-- The path behind an instruction of n words (R85). -/
def Path.advance (p : Path) (n : Nat) : Path :=
  let pc := p.pc + BitVec.ofNat 64 (4 * n)
  { p with pc := pc, entry := if pc = p.nextClause then .fall else p.entry, park := none }

/-- Registers that an instruction names as destinations are poisoned no longer (R306). -/
def Arch.unpoison (a : Arch) (us : List Use) : Arch :=
  { a with poison := a.poison.filter fun r => !(us.any fun u => u.writes && u.reg == r) }

/-- Lost data in registers is gone where an instruction writes all of it (R375). -/
def Arch.restore (a : Arch) (us : List Use) (act : Word) : Arch :=
  { a with ecc := a.ecc.filter fun r => !(us.any fun u => u.writes && u.reg == r && (!u.lane || act == BitVec.allOnes 32)) }

/-- A register written in a continuation, with the lanes. -/
def markWrote (l : List (Reg × Word)) (r : Reg) (m : Word) : List (Reg × Word) :=
  if l.any (·.1 == r) then mapIf l (·.1 == r) fun e => (e.1, e.2 ||| m) else l ++ [(r, m)]

/-- The lanes in which a continuation has written a register. -/
def Cont.wroteLanes (c : Cont) (r : Reg) : Word := (c.wrote.find? (·.1 == r)).elim 0 fun e => e.2

/-- What a continuation tracks of an instruction of its own (R280): a register is read first where the instruction may read
lanes of it that the continuation has not written. -/
def Cont.own (c : Cont) (us : List Use) (act : Word) (seen : Reg → Word) : Cont :=
  let reads := (us.filter fun u => u.reads && seen u.reg &&& ~~~(c.wroteLanes u.reg) != 0
    && !(u.reg.file == .v && c.declared.contains u.reg.num)).map (·.reg)
  { c with
    readFirst := c.readFirst ++ reads
    wrote := us.foldl (fun w u => if u.writes then markWrote w u.reg (if u.lane then act else BitVec.allOnes 32) else w) c.wrote }

/-- The same for the continuation whose instruction is under way. -/
def State.ownUses (s : State) (grp : Nat) (us : List Use) (act : Word) (seen : Reg → Word) : State :=
  s.onGroup grp fun g => { g with conts := g.conts.mapIdx fun j c => if s.view = some j then c.own us act seen else c }

/-- What it tracks of an instruction of its callee (R280). -/
def Cont.callee (c : Cont) (us : List Use) : Cont :=
  { c with calleeWrote := c.calleeWrote ++ (us.filter (·.writes)).map (·.reg) }

/-- The detector after an issue of n words at pc: one outside the loop disarms it (R294). -/
def Detector.within (d : Detector) (pc : DWord) (n : Nat) : Option Detector :=
  if pc < d.t || d.stop < pc + BitVec.ofNat 64 (4 * n) then none else some d

/-- The detector after an issue of an instruction at pc (R294). -/
def Detector.note (d : Detector) (pc : DWord) (i : Instr) (us : List Use) : Option Detector :=
  (d.within pc i.size).map fun d => { d with ok := d.ok && i.loops, wrote := d.wrote ++ (us.filter (·.writes)).map (·.reg) }

/-- The detector once a parked path's instruction, of one word, has completed: `wait.k` alone is one of a loop's (R294). -/
def Detector.parked (d : Detector) (p : Path) : Option Detector :=
  (d.within p.pc 1).map fun d => { d with ok := d.ok && match p.park with | some (.waitK ..) => true | _ => false }

/-- A group that runs one path and no continuation (R294). -/
def Group.single (g : Group) : Bool := g.conts == [] && !(g.arch.path0.isSome && g.arch.path1.isSome)

/-- The lanes of a register that an instruction may read: those it is active in, for a lane instruction that stays within its
lanes; the path's, for a predicate; else every lane. -/
def lanesRead (i : Instr) (h : Here) (act : Word) (r : Reg) : Word :=
  if !i.isLane || i.crosses then BitVec.allOnes 32 else if r.file = .v then act else if r.file = .p then h.p.em else BitVec.allOnes 32

/-- The group once an instruction has issued: its path stands behind the instruction, destinations lose their poison, and
forks and the detector have taken note. -/
def Group.issued (g : Group) (h : Here) (i : Instr) (us : List Use) (act : Word) (view : Option Nat) : Group :=
  let us := if i.isLane then us ++ reading [topReg] else us
  { g with
    arch := ((g.arch.setPath h.slot (some (h.p.advance i.size))).unpoison us).restore us act
    detector :=
      match view with
      | some _ => g.detector
      | none => if g.single then g.detector.bind fun d => d.note h.p.pc i us else none
    conts :=
      match view with
      | some k => g.conts.mapIdx fun j c => if j = k then c.own us act (lanesRead i h act) else c
      | none => g.conts.map fun c => c.callee us }

/-- An instruction leaves issue: the part of its retirement that comes before its effect. -/
def State.retire (s : State) (h : Here) (i : Instr) (p : Plan) : State :=
  s.onGroup h.g.id fun g => g.issued h i p.allUses (h.active p.guard) s.view

/-- A count that saturates at 2^31 (R299). -/
def satCount (n : Nat) : Nat := min n (2 ^ 31)

/-- Core time passes (R26): the cycles between two issues are the machine's own. Counter 0 counts them (R339). -/
def State.tick (s : State) (t : Team) : State :=
  let c := s.core t.die t.site
  let n : DWord := 1 + (Config.elapsed s.free).setWidth 64
  let c := { c with cycle := c.cycle + n }
  let c := if fld c.perfctl 31 1 == 1 then { c with perf := Sparse.put c.perf 0 (Sparse.look c.perf 0 + n) } else c
  (s.setCore c).draw

/-- What a continuation counts of an instruction that it retires: for RET, and operations (R299, R323). -/
def Cont.counted (c : Cont) (n : Nat) : Cont := { c with ret := c.ret + 1, ops := c.ops + n }

/-- What retiring an instruction counts: RET (R299), counters 1 and 2 (R339), and the classifier's operations (R323). A continuation's
instructions count in RET at its commit. -/
def State.count (s : State) (h : Here) (i : Instr) (act : Word) : State :=
  let ops := if i.isLaneArith then (lanesOf act).length else 0
  let s :=
    if s.view.isSome then
      s.onGroup h.g.id fun g => { g with conts := g.conts.mapIdx fun j c => if s.view = some j then c.counted ops else c }
    else s.onTeam h.t.id fun t => { t with ret := satCount (t.ret + 1), ops := t.ops + ops }
  s.perf h.t.die h.t.site (s.hereCtx h) (if i.isLane then 1 else 2) 1

/-- An instruction is counted, and its cycle passes; the second instruction of a quadrant's cycle takes no cycle of its own (R254). -/
def State.account (s : State) (h : Here) (i : Instr) (act : Word) : State :=
  let s := s.count h i act
  if s.turn.any (·.both) then s else s.tick h.t

/-- AN INSTRUCTION ISSUES: it stalls; or it takes the first fault of R13; or it waits before its effect; or it meets lost data
(R375); or it retires with its effect. -/
def run (i : Instr) (p : Plan) (s : State) : Host.Outcome State Fault Refusal :=
  match s.here with
  | none => .refused .noPath
  | some h =>
    if p.stall s h then .next (s.tick h.t)
    else
      match s.issueFault h i p with
      | some r => .next (s.raise h.g h.slot h.p.pc i.first r)
      | none =>
        match p.hold s h with
        | some f => .next (((f s).parkTest h.g.id).tick h.t)
        | none =>
          match h.counterFault p.raises with
          | some r => .next (s.raise h.g h.slot h.p.pc i.first r)
          | none =>
            match p.loss s h <|> h.a.eccFault p.allUses with
            | some r => .next (s.raise h.g h.slot h.p.pc i.first r)
            | none => .next ((p.act h (s.retire h i p)).account h i (h.active p.guard))

/-- A parked uniform instruction of one word completes after its wake: the path stands behind it, and it counts (R299,
R339). The detector takes note of it (R294). -/
def State.retireParked (s : State) (grp : Nat) (slot : Bool) : State :=
  match s.group? grp with
  | none => s
  | some g =>
    let s := s.onGroup grp fun h =>
      { h with detector := if h.single then h.detector.bind fun d => (h.arch.path slot).bind d.parked else none }
    let s := (s.onPath grp slot fun p => p.advance 1).onTeam g.team fun t => { t with ret := satCount (t.ret + 1) }
    s.perfGroup g 2 1

/-- RET is set to 0 (R299). -/
def State.clearRet (s : State) (team : Nat) : State := s.onTeam team fun t => { t with ret := 0 }

end Sys2Proof.Machine
end

