-- ==== Sys2Proof/Machine/Split.lean ====
section
/-!
DEFINITION. The split stack (R262-R269): its positions, paths that wait for a slot, arrival and merging at reconvergence
points, and unwinding (R273); and the spill image of a position (R266).
-/
namespace Sys2Proof.Machine

/-- The bytes of a word (R1). -/
def wordBytes (w : Word) : List Byte := toBytes 4 w.toNat

/-- Positions of the split stack, hardware-held and spilled (R268). -/
def Arch.positions (a : Arch) : Nat := a.stack.length + a.spilled

/-- The most positions (R269). -/
def maxPositions : Nat := 1024

/-- A slot that holds no path. -/
def Arch.freeSlot (a : Arch) : Option Bool :=
  if a.path0.isNone then some false else if a.path1.isNone then some true else none

/-- P[0] to P[k-1] of a path, newest first. -/
def lowest (pst : List Word) (k : Nat) : List Word := pst.drop (pst.length - k)

/-- A path pushed as a WAIT of two positions: P[f] to P[f+6] in the first, the rest in the second (R265, R266). -/
def Arch.pushWait (a : Arch) (p : Path) : Arch :=
  let above := p.pst.take (p.depth - p.floor + 1)
  let k := above.length - 7
  { a with stack := .wait2 (above.take k) :: .wait { p with pst := above.drop k } p.depth :: a.stack }

/-- Whatever the other slot holds pushed as a WAIT (R267, R270). -/
def Arch.pushOther (a : Arch) (slot : Bool) : Arch :=
  match a.path (!slot) with
  | some p => (a.pushWait p).setPath (!slot) none
  | none => a

/-- The positions that a push needs beside a path in the other slot (R265). -/
def Arch.pushNeed (a : Arch) (slot : Bool) : Nat := if (a.path (!slot)).isSome then 3 else 1

/-- PMSTACK for a push beyond the last position (R269). -/
def Arch.pushFault (a : Arch) (slot : Bool) : Option Report :=
  if maxPositions < a.positions + a.pushNeed slot then some { kind := .pmstack, addr := 1 } else none

/-- A WAIT on top of the stack is popped into a free slot, but not while a refill is outstanding (R268); `pst` is the stack of a path beside it, whose entries below the
floor are its own too (R264, R267). -/
def Arch.popWait (a : Arch) (pst : List Word) : Arch :=
  match a.stack, a.freeSlot, a.refillDue with
  | .wait2 px :: .wait p d :: r, some slot, false =>
    let high := lowest px (d - p.floor + 1 - p.pst.length)
    Arch.setPath { a with stack := r } slot (some { p with pst := high ++ p.pst ++ lowest pst p.floor })
  | _, _, _ => a

/-- The merged path of a REC that every live lane has reached; none where none is live (R262). -/
def mergedPath (lm : Word) (rpc : DWord) (mask top : Word) (d floor : Nat) (fmt : BitVec 16) (pst : List Word) : Option Path :=
  let m := mask &&& lm
  if m = 0 then none
  else
    some { pc := rpc, hdr := rpc, words := [], entry := .target, m := m, fmt := fmt, pst := top :: lowest pst d,
           floor := floor, park := none, passed := 0, idle := 0 }

/-- MergeCheck on the top of the stack (R262): a REC that holds every live lane is popped, and its merged path placed. -/
def Arch.mergeCheck (a : Arch) (pst : List Word) : Arch :=
  match a.stack with
  | .recon rpc mask arrv top d floor fmt :: r =>
    if mask &&& a.lm &&& ~~~arrv = 0 then
      let b := { a with stack := r }
      match mergedPath a.lm rpc mask top d floor fmt pst, b.freeSlot with
      | some p, some slot => (b.setPath slot (some p)).popWait pst
      | _, _ => b
    else a
  | _ => a

/-- Unwind (R273), and the merges that an exit allows: while neither slot holds a path, the top of the stack goes. A refill that is
outstanding ends it until it is complete (R268). -/
def Arch.unwind : Nat → Arch → List Word → Arch
  | 0, a, _ => a
  | n + 1, a, pst =>
    if a.path0.isSome || a.path1.isSome || a.refillDue then a
    else
      match a.stack with
      | [] => a
      | .call .. :: r => Arch.unwind n { a with stack := r } pst
      | .recon .. :: _ => Arch.unwind n (a.mergeCheck pst) pst
      | _ => Arch.unwind n (a.popWait pst) pst

/-- Unwind over the whole stack. -/
def Arch.unwindAll (a : Arch) (pst : List Word) : Arch := a.unwind (a.stack.length + 1) pst

/-- CALL pushed as `call` pushes it (R270): the other path first as a WAIT; the callee's floor is the caller's depth. -/
def Arch.pushCall (a : Arch) (slot : Bool) (pc : DWord) (flags : BitVec 8) (pidx : BitVec 16) (rets : Word) : Arch :=
  match a.path slot with
  | none => a
  | some p =>
    let b := a.pushOther slot
    Arch.setPath { b with stack := .call pc p.depth p.floor flags pidx rets :: b.stack } slot (some { p with floor := p.depth })

/-- While neither slot holds a path although lanes live, the stack unwinds; what a refill must wait for is kept. -/
def Arch.settle (a : Arch) (pst : List Word) : Arch :=
  let b := (a.unwindAll pst).popWait pst
  { b with low := if b.path0.isNone && b.path1.isNone then pst else [] }

/-- A path arrives at the REC on top of the stack (R262): its lanes are recorded, its slot is freed, MergeCheck follows. -/
def Arch.arrive (a : Arch) (slot : Bool) (p : Path) : Arch :=
  match a.stack with
  | .recon rpc mask arrv top d floor fmt :: r =>
    Arch.mergeCheck (Arch.setPath { a with stack := .recon rpc mask (arrv ||| p.m) top d floor fmt :: r } slot none) p.pst
  | _ => a

/-- The oldest held position goes to the spill area. -/
def Arch.spill (a : Arch) (q : Pos) : Arch :=
  { a with
    stack := a.stack.dropLast, spilled := a.spilled + 1
    kept := match q with | .wait p _ => (a.spilled, p) :: a.kept | _ => a.kept }

/-- A path read back from its image, with what the core kept of it: its words are to be fetched again (R89). -/
def Path.keeping (p q : Path) : Path :=
  { p with pc := q.pc, words := q.words, entry := if q.entry = .inside then .refetch else q.entry, park := q.park }

/-- The newest spilled position is back. -/
def Arch.refill (a : Arch) (q : Pos) : Arch :=
  let n := a.spilled - 1
  let q := match q, a.kept.find? (·.1 == n) with
    | .wait p d, some e => .wait (p.keeping e.2) d
    | q, _ => q
  { a with stack := a.stack ++ [q], spilled := n, kept := a.kept.filter fun e => e.1 < n }

/-! ### Spill images (R266) -/

/-- Words laid out one after the other, zero up to n bytes. -/
def wordsIn (n : Nat) (ws : List Word) : List Byte :=
  let bs := ws.flatMap wordBytes
  bs ++ List.replicate (n - bs.length) 0

/-- The 64 bytes of a position. -/
def Pos.image (p : Pos) : List Byte :=
  match p with
  | .recon rpc mask arrv top d floor fmt =>
    [1] ++ toBytes 1 d ++ toBytes 1 floor ++ [0] ++ toBytes 2 fmt.toNat ++ [0, 0] ++ toBytes 8 rpc.toNat ++ toBytes 8 0
      ++ wordBytes mask ++ wordBytes arrv ++ wordBytes top ++ wordsIn 28 []
  | .call pc d floor flags pidx rets =>
    [2] ++ toBytes 1 d ++ toBytes 1 floor ++ toBytes 1 flags.toNat ++ [0, 0] ++ toBytes 2 pidx.toNat ++ toBytes 8 pc.toNat
      ++ toBytes 8 0 ++ wordsIn 12 [] ++ wordBytes rets ++ wordsIn 24 []
  | .wait p d =>
    [3] ++ toBytes 1 d ++ toBytes 1 p.floor ++ [0] ++ toBytes 2 p.fmt.toNat ++ [0, 0] ++ toBytes 8 p.pc.toNat
      ++ toBytes 8 p.hdr.toNat ++ wordBytes p.m ++ wordsIn 4 [] ++ wordBytes (p.pst.getLastD 0) ++ wordsIn 4 []
      ++ wordsIn 24 p.pst.reverse.tail
  | .wait2 px => [4, 0, 0, 0] ++ wordsIn 60 px.reverse

/-- The 32-bit words of bytes i to i + 4 k. -/
def wordsAt (bs : List Byte) (i k : Nat) : List Word := (List.range k).map fun j => BitVec.ofNat 32 (fieldOf bs (i + 4 * j) 4)

/-- The position that an image holds. A refilled path has its words fetched again (R89); of the masks of a second
position, those beyond the path's depth are zeros that the pop leaves out. -/
def Pos.ofImage (bs : List Byte) : Pos :=
  let d := fieldOf bs 1 1
  let floor := fieldOf bs 2 1
  let fmt := BitVec.ofNat 16 (fieldOf bs 4 2)
  let pc := BitVec.ofNat 64 (fieldOf bs 8 8)
  let w (i : Nat) : Word := BitVec.ofNat 32 (fieldOf bs i 4)
  match fieldOf bs 0 1 with
  | 1 => .recon pc (w 0x18) (w 0x1C) (w 0x20) d floor fmt
  | 2 => .call pc d floor (BitVec.ofNat 8 (fieldOf bs 3 1)) (BitVec.ofNat 16 (fieldOf bs 6 2)) (w 0x24)
  | 3 =>
    .wait
      { pc := pc, hdr := BitVec.ofNat 64 (fieldOf bs 0x10 8), words := [], entry := .refetch, m := w 0x18, fmt := fmt,
        pst := (wordsAt bs 0x28 (min (d - floor) 6)).reverse ++ [w 0x20], floor := floor, park := none, passed := 0, idle := 0 } d
  | _ => .wait2 (wordsAt bs 4 10).reverse

end Sys2Proof.Machine
end

