-- ==== Sys2Proof/Machine/Fork.lean ====
section
/-!
DEFINITION. Forkable calls (R275-R285): the predictor, the start of a continuation, and its resolution at the callee's
`ret`.
-/
namespace Sys2Proof.Machine

/-! ### The predictor (R276) -/

/-- PIDX of a call site. -/
def predIndex (pc : DWord) : BitVec 8 := fld pc 2 8 ^^^ fld pc 10 8

/-- The declared return registers of a `call.fk`'s second word, in RET order (R83). -/
def declaredOf (rets : Word) : List Nat := (List.range (fld rets 28 3).toNat).map fun j => (fld rets (7 * j) 7).toNat

/-- A register's part of an entry right after reset. -/
def PredReg.reset : PredReg := ⟨.last, [], []⟩

/-- An entry of a core's predictor: zero fields and mode LAST where the state lists none. -/
def Core.pred (c : Core) (idx : Nat) : PredEntry :=
  (c.predictor.find? (·.idx == idx)).getD ⟨idx, 0, List.replicate 4 .reset⟩

/-- The value that a mode predicts in a lane. -/
def PredReg.predict (r : PredReg) (m : PredMode) (l : Nat) : Word :=
  match m with
  | .const => Sparse.look r.last 0
  | .last => Sparse.look r.last l
  | .stride => Sparse.look r.last l + Sparse.look r.stride l

/-- Whether a mode predicts the actual values in every live lane. -/
def PredReg.right (r : PredReg) (m : PredMode) (lm : Word) (act : Nat → Word) : Bool :=
  (lanesOf lm).all fun l => r.predict m l == act l

/-- A register's part trained with the actual values; `remode` when the entry mispredicted. -/
def PredReg.train (r : PredReg) (remode : Bool) (lm : Word) (act : Nat → Word) : PredReg :=
  let mode :=
    if remode then ([PredMode.const, .last, .stride].find? fun m => r.right m lm act).getD r.mode else r.mode
  { mode := mode
    stride := (List.range 32).foldl (fun (t : Sparse 32) l => Sparse.put t l (act l - Sparse.look r.last l)) r.stride
    last := (List.range 32).foldl (fun (t : Sparse 32) l => Sparse.put t l (act l)) r.last }

/-- An entry trained at the pop of its CALL (R276). -/
def PredEntry.train (e : PredEntry) (lm : Word) (decl : List Nat) (a : Arch) : PredEntry :=
  let act (n l : Nat) : Word := a.getV n l
  let parts := (List.range decl.length).map fun j => ((e.regs.getD j .reset), decl.getD j 0)
  let hit := parts.all fun x => x.1.right x.1.mode lm (act x.2)
  let known := parts.all fun x => [PredMode.const, .last, .stride].any fun m => x.1.right m lm (act x.2)
  { e with
    conf := if hit then min (e.conf + 1) 3 else if known then 1 else 0
    regs := (List.range 4).map fun j =>
      match decl[j]? with
      | some n => (e.regs.getD j .reset).train (!hit) lm (act n)
      | none => e.regs.getD j .reset }

/-- An entry put into a core's predictor. -/
def Core.setPred (c : Core) (e : PredEntry) : Core :=
  { c with predictor := c.predictor.filter (·.idx != e.idx) ++ [e] }

/-! ### Starting a continuation (R275, R277) -/

/-- A free shadow slot of the quadrant (R23, R251). -/
def State.freeShadow (s : State) (h : Here) : Option Nat :=
  let q := h.g.slot / 16
  let used := s.groups.flatMap fun g =>
    if (s.team? g.team).any fun t => t.st == .resident && t.die == h.t.die && t.site == h.t.site then g.conts.map (·.shadow)
    else []
  [2 * q, 2 * q + 1].find? fun m => !used.contains m

/-- Whether a `call.fk` forks (R275). -/
def State.forks (s : State) (h : Here) : Bool :=
  let fork := ((s.grid? h.t.grid).map (·.desc.fork)).getD 0
  let e := (s.core h.t.die h.t.site).pred (predIndex h.p.pc).toNat
  h.p.em == h.a.lm && (s.freeShadow h).isSome && h.g.conts.length < min 2 fork && 2 ≤ e.conf && s.view.isNone

/-- The distance that keeps the issue numbers of a continuation apart from its group's. -/
def forkGap : Nat := 2 ^ 40

/-- The continuation that a forking call starts at the return point, from the group's registers as they stand, each
declared register replaced by its prediction (R277). `a` is the group's state before the CALL is pushed. -/
def startCont (a : Arch) (h : Here) (shadow : Nat) (e : PredEntry) (rets : Word) (n : Nat) : Cont :=
  let decl := declaredOf rets
  let preds := (List.range decl.length).flatMap fun j =>
    let r := e.regs.getD j .reset
    (List.range 32).map fun l => (decl.getD j 0, l, r.predict r.mode l)
  let a := preds.foldl (fun (b : Arch) (x : Nat × Nat × Word) => b.setV x.1 x.2.1 x.2.2) a
  let a := a.setPath h.slot ((a.path h.slot).map fun p => { p with entry := .target })
  let base := a.nextSeq + forkGap * (n + 1)
  { shadow := shadow, arch := { a with nextSeq := base, spec := some base }, base := base, preds := preds, declared := decl,
    belay := [], lines := [], readFirst := [], wrote := [], calleeWrote := [], exited := false, stopped := false,
    depth := a.positions, ret := 0, ops := 0, forked := a.nextSeq, privs := [], losses := 0 }

/-- FORK (R277): the continuation takes its shadow slot; counter 3 counts it (R339). -/
def State.fork (s : State) (h : Here) (rets : Word) : State :=
  match s.freeShadow h with
  | none => s
  | some m =>
    let e := (s.core h.t.die h.t.site).pred (predIndex h.p.pc).toNat
    (s.onGroup h.g.id fun g =>
      { g with conts := startCont g.arch h m e rets g.conts.length :: g.conts, detector := none }).perfGroup h.g 3 1

/-! ### Resolution (R282) -/

/-- Whether a continuation commits, against the group's state after `ret`. -/
def Cont.commits (c : Cont) (a : Arch) : Bool :=
  (c.preds.all fun x => !a.lm.getLsbD x.2.1 || a.getV x.1 x.2.1 == x.2.2)
    && !(c.calleeWrote.any c.readFirst.contains) && !c.exited

/-- A held-back store meets lost data: the continuation is squashed, and its code meets the loss on its way again (R284, R375). -/
def State.belayLost (s : State) (c : Cont) : Bool := c.belay.any fun e => s.isLost e.1 1

/-- A register of the continuation written over the group's, in the lanes that the continuation wrote. -/
def Arch.overlay (a b : Arch) (r : Reg) (m : Word) : Arch :=
  match r.file with
  | .v => (lanesOf m).foldl (fun (x : Arch) l => x.setV r.num l (b.getV r.num l)) a
  | .s => a.setS r.num (b.getS r.num)
  | .p => if r.num < 7 then a.setP r.num ((a.getP r.num &&& ~~~m) ||| (b.getP r.num &&& m)) else a

/-- A path of the continuation as it becomes a path of the group: `fmt` and P[d] are the group's where the continuation
did not write them. -/
def Cont.joinPath (c : Cont) (after : Option Path) (p : Path) : Path :=
  match after with
  | none => p
  | some q =>
    { p with
      fmt := if c.wrote.any (·.1 == fmtReg) then p.fmt else q.fmt
      pst := if c.wrote.any (·.1 == topReg) then p.pst else q.pst.headD 0 :: p.pst.tail }

/-- Every lowering that a list of tracked instructions allows, on the paths that a continuation's can be on (R136). -/
def settleTracked (l : List Tracked) : List Tracked :=
  [AccPath.T, .D, .P].foldl (fun ts p => (lowerSweep p ts).1) l

/-- COMMIT: the continuation's registers over the group's, its raises and pending bits joined behind the group's, its
paths in place of the group's (R282). Its instructions come behind the group's in the order of their paths, so that those that had lowered
their counter are raised again where one of the group's is outstanding before them (R136). What was issued before the fork keeps no
pending bit that the continuation's own waits proved clear (R139, R159). A counter that the joined raises take past 63 counts on from 0: no
fault is named for it (DESIGN CHOICE: assumption 100). -/
def Cont.commit (c : Cont) (a : Arch) (after : Option Path) : Arch :=
  let b := c.arch
  let regs := c.wrote.foldl (fun (x : Arch) e => x.overlay b e.1 e.2) a
  let own := (b.tracked.filter fun t => c.base ≤ t.seq).map fun t => { t with lowered := false }
  let kept := a.tracked.map fun t =>
    match b.tracked.find? (·.seq == t.seq) with
    | some u => { t with dests := t.dests.filter u.dests.contains }
    | none => if t.seq < c.forked then { t with dests := [] } else t
  let all := settleTracked (kept ++ own)
  let k := (own.filter fun t => all.any fun u => u.seq == t.seq && !u.lowered).foldl (fun (x : Arch) t => x.setK t.ctr (x.getK t.ctr + 1)) regs
  { k with
    tracked := prune a.spec all
    nextSeq := max a.nextSeq b.nextSeq
    poison := a.poison.filter fun r => !(c.wrote.any (·.1 == r))
    path0 := b.path0.map (c.joinPath after)
    path1 := b.path1.map (c.joinPath after)
    stack := b.stack
    spilled := b.spilled, kept := b.kept }

/-- The continuation of the call that `ret` has popped: committed, or squashed (R282, R283). -/
def State.resolve (s : State) (h : Here) : State :=
  match s.group? h.g.id with
  | none => s
  | some g =>
    match g.conts with
    | [] => s
    | c :: cs =>
      if c.depth != g.arch.positions then s
      else if c.commits g.arch && !s.belayLost c then
        let outer := cs.map fun o => { o with calleeWrote := o.calleeWrote ++ c.wrote.map (·.1) }
        let s := s.onGroup g.id fun x => { x with arch := c.commit x.arch (x.arch.path h.slot), conts := outer }
        let s := s.onTeam h.t.id fun t => { t with ret := satCount (t.ret + c.ret), ops := t.ops + c.ops }
        (c.belay.foldl (fun (st : State) e => st.store e.1 [e.2]) s).perfGroup h.g 4 1
      else (s.onGroup g.id fun x => { x with conts := cs }).countSquash g [c]

/-- The predictor entry of a popped `call.fk` trained with the declared registers' values (R276). -/
def State.trainPred (s : State) (h : Here) (pidx : BitVec 16) (rets : Word) : State :=
  match s.group? h.g.id with
  | none => s
  | some g =>
    s.onCore h.t.die h.t.site fun c => c.setPred ((c.pred pidx.toNat).train g.arch.lm (declaredOf rets) g.arch)

end Sys2Proof.Machine
end

