-- ==== Sys2Proof/Machine/Lane.lean ====
section
/-!
DEFINITION. The lane arithmetic instructions (spec/07_arithmetic_instructions.md): each computes in its active lanes from
the register values before it (R167, R168), over the operations of Machine/Arith.lean.
-/
namespace Sys2Proof

/-- The integer operations of R190 on operands of 32 bits, or of 64 (R171, R172). A shift amount is the low 32 bits of
its operand (R170, R192). -/
def LitOp.eval (op : LitOp) (wide : Bool) (a b : Nat) : Nat :=
  let ti : Ty := if wide then .i64 else .i32
  let tn : Ty := if wide then .n64 else .n32
  let w := if wide then 64 else 32
  let n := b % 2 ^ 32
  match op with
  | .iadd => intBin .add ti false a b
  | .isub => intBin .sub ti false a b
  | .imul => intBin .mul ti false a b
  | .imulhiI => intMulHi ti a b
  | .imulhiN => intMulHi tn a b
  | .iminI => intBin .min ti false a b
  | .iminN => intBin .min tn false a b
  | .imaxI => intBin .max ti false a b
  | .imaxN => intBin .max tn false a b
  | .and => a &&& b
  | .or => a ||| b
  | .xor => a ^^^ b
  | .andn => a &&& (2 ^ w - 1 - b % 2 ^ w)
  | .shl => shiftLeft w a n
  | .shrN => shiftRight tn a n
  | .shrI => shiftRight ti a n
  | .rotl => rotateLeft w a n

/-- The extended arithmetic operations 0x00-0x1C on operands of a type (R91, R171-R175); `cvt` is `convertExt`. -/
def XOp.eval (op : XOp) (t : Ty) (rnd : Rnd) (m : XMod) (a b c : Nat) : Nat :=
  let f := t.fmt
  let x := (f.value a).negIf m.na
  let y := (f.value b).negIf m.nb
  let z := (f.value c).negIf m.nc
  let n := b % 2 ^ 32
  match op with
  | .iadd => intBin .add t m.sat a b
  | .isub => intBin .sub t m.sat a b
  | .imul => intBin .mul t false a b
  | .imulhi => intMulHi t a b
  | .imad => intMad t m.sat a b c
  | .imin => intBin .min t false a b
  | .imax => intBin .max t false a b
  | .iabs => intAbs t m.sat a
  | .ineg => intNeg t m.sat a
  | .clamp => if t.isInt then intClamp t a b c else floatClamp f a b c
  | .sel => if c = 0 then b else a
  | .shl => shiftLeft t.bits a n
  | .shr => shiftRight t a n
  | .bfe => bitExtract t a n (c % 2 ^ 32)
  | .bfi => bitInsert a b c
  | .fadd => floatBin .add f rnd x y
  | .fsub => floatBin .sub f rnd x y
  | .fmul => floatBin .mul f rnd x y
  | .fma => floatFma f rnd x y z
  | .fmin => floatPick f false (negBits f m.na a) (negBits f m.nb b)
  | .fmax => floatPick f true (negBits f m.na a) (negBits f m.nb b)
  | .fdiv => floatBin .div f rnd x y
  | .fsqrt => floatUn .sqrt f rnd x
  | .frcp => floatUn .rcp f rnd x
  | .frsqrt => floatUn .rsqrt f rnd x
  | .fexp2 => floatUn .exp2 f rnd x
  | .flog2 => floatUn .log2 f rnd x
  | .frint => floatUn .rint f rnd x
  | .cvt => a

end Sys2Proof

namespace Sys2Proof.Machine

/-! ### Shared plans -/

/-- A lane instruction that writes k registers from v<d> on with a value computed lane by lane from the registers before
it and the active lanes. -/
def lanePlan (g : Guard) (d : VReg) (k : Nat) (src : List Use) (val : Arch → Word → Nat → Nat) : Plan :=
  { guard := g
    uses := dstV d k ++ src
    act := fun h s =>
      s.onArch h.g.id fun b => b.writeLanes (h.active g) d.toNat k (val h.a (h.active g)) }

/-- One, two or three sources; `k` registers an operand, `kb` for the second. -/
def laneUn (i : Instr) (g : Guard) (d a : VReg) (kd k : Nat) (f : Nat → Nat) (s : State) : Host.Outcome State Fault Refusal :=
  run i (lanePlan g d kd (srcV a k) fun r _ l => f (r.lane a.toNat k l)) s

def laneBin (i : Instr) (g : Guard) (d a b : VReg) (k kb : Nat) (f : Nat → Nat → Nat) (s : State) :
    Host.Outcome State Fault Refusal :=
  run i (lanePlan g d k (srcV a k ++ srcV b kb) fun r _ l => f (r.lane a.toNat k l) (r.lane b.toNat kb l)) s

def laneTri (i : Instr) (g : Guard) (d a b c : VReg) (k : Nat) (f : Nat → Nat → Nat → Nat) (s : State) :
    Host.Outcome State Fault Refusal :=
  run i (lanePlan g d k (srcV a k ++ srcV b k ++ srcV c k) fun r _ l =>
    f (r.lane a.toNat k l) (r.lane b.toNat k l) (r.lane c.toNat k l)) s

/-- An instruction that writes a predicate in its active lanes (R181); `val` takes the registers before it, the active
lanes and the lane. -/
def predPlan (g : Guard) (p : PReg) (src : List Use) (val : Arch → Word → Nat → Bool) : Plan :=
  { guard := g
    uses := dstP p ++ src
    act := fun h s => s.onArch h.g.id fun b => b.writeP (h.active g) p.toNat (val h.a (h.active g)) }

/-- A lane compare of operands of k registers (R181). -/
def laneCmp (i : Instr) (g : Guard) (p : PReg) (a b : VReg) (k : Nat) (f : Nat → Nat → Bool) (s : State) :
    Host.Outcome State Fault Refusal :=
  run i (predPlan g p (srcV a k ++ srcV b k) fun r _ l => f (r.lane a.toNat k l) (r.lane b.toNat k l)) s

/-- Predicate logic (R182). -/
def lanePred (i : Instr) (g : Guard) (p q r : PReg) (f : Bool → Bool → Bool) (s : State) : Host.Outcome State Fault Refusal :=
  run i (predPlan g p (srcP q ++ srcP r) fun x _ l => f (x.bitP q.toNat l) (x.bitP r.toNat l)) s

/-- A lane exchange (R184, R185): the source lane of a lane, or none where the lane keeps its own VA. -/
def laneXch (i : Instr) (g : Guard) (d a b : VReg) (src : Nat → Nat → Option Nat) (s : State) :
    Host.Outcome State Fault Refusal :=
  run i (lanePlan g d 1 (srcV a ++ srcV b) fun r _ l =>
    (r.getV a.toNat ((src l ((r.getV b.toNat l).toNat % 32)).getD l)).toNat) s

/-! ### One-word integer instructions (R171, R172, R190) -/

/-- `iadd.i32` (R171). -/
def execIaddI32 (g : Guard) (d a b : VReg) (s : State) : Host.Outcome State Fault Refusal :=
  laneBin (.iaddI32 g d a b) g d a b 1 1 (LitOp.eval .iadd false) s

/-- `isub.i32` (R171). -/
def execIsubI32 (g : Guard) (d a b : VReg) (s : State) : Host.Outcome State Fault Refusal :=
  laneBin (.isubI32 g d a b) g d a b 1 1 (LitOp.eval .isub false) s

/-- `imul.i32` (R171). -/
def execImulI32 (g : Guard) (d a b : VReg) (s : State) : Host.Outcome State Fault Refusal :=
  laneBin (.imulI32 g d a b) g d a b 1 1 (LitOp.eval .imul false) s

/-- `imulhi.i32` (R171). -/
def execImulhiI32 (g : Guard) (d a b : VReg) (s : State) : Host.Outcome State Fault Refusal :=
  laneBin (.imulhiI32 g d a b) g d a b 1 1 (LitOp.eval .imulhiI false) s

/-- `imulhi.n32` (R171). -/
def execImulhiN32 (g : Guard) (d a b : VReg) (s : State) : Host.Outcome State Fault Refusal :=
  laneBin (.imulhiN32 g d a b) g d a b 1 1 (LitOp.eval .imulhiN false) s

/-- `imin.i32` (R171). -/
def execIminI32 (g : Guard) (d a b : VReg) (s : State) : Host.Outcome State Fault Refusal :=
  laneBin (.iminI32 g d a b) g d a b 1 1 (LitOp.eval .iminI false) s

/-- `imin.n32` (R171). -/
def execIminN32 (g : Guard) (d a b : VReg) (s : State) : Host.Outcome State Fault Refusal :=
  laneBin (.iminN32 g d a b) g d a b 1 1 (LitOp.eval .iminN false) s

/-- `imax.i32` (R171). -/
def execImaxI32 (g : Guard) (d a b : VReg) (s : State) : Host.Outcome State Fault Refusal :=
  laneBin (.imaxI32 g d a b) g d a b 1 1 (LitOp.eval .imaxI false) s

/-- `imax.n32` (R171). -/
def execImaxN32 (g : Guard) (d a b : VReg) (s : State) : Host.Outcome State Fault Refusal :=
  laneBin (.imaxN32 g d a b) g d a b 1 1 (LitOp.eval .imaxN false) s

/-- `and.b32` (R171). -/
def execAndB32 (g : Guard) (d a b : VReg) (s : State) : Host.Outcome State Fault Refusal :=
  laneBin (.andB32 g d a b) g d a b 1 1 (LitOp.eval .and false) s

/-- `or.b32` (R171). -/
def execOrB32 (g : Guard) (d a b : VReg) (s : State) : Host.Outcome State Fault Refusal :=
  laneBin (.orB32 g d a b) g d a b 1 1 (LitOp.eval .or false) s

/-- `xor.b32` (R171). -/
def execXorB32 (g : Guard) (d a b : VReg) (s : State) : Host.Outcome State Fault Refusal :=
  laneBin (.xorB32 g d a b) g d a b 1 1 (LitOp.eval .xor false) s

/-- `andn.b32` (R171). -/
def execAndnB32 (g : Guard) (d a b : VReg) (s : State) : Host.Outcome State Fault Refusal :=
  laneBin (.andnB32 g d a b) g d a b 1 1 (LitOp.eval .andn false) s

/-- `shl.b32` (R172). -/
def execShlB32 (g : Guard) (d a b : VReg) (s : State) : Host.Outcome State Fault Refusal :=
  laneBin (.shlB32 g d a b) g d a b 1 1 (LitOp.eval .shl false) s

/-- `shr.n32` (R172). -/
def execShrN32 (g : Guard) (d a b : VReg) (s : State) : Host.Outcome State Fault Refusal :=
  laneBin (.shrN32 g d a b) g d a b 1 1 (LitOp.eval .shrN false) s

/-- `shr.i32` (R172). -/
def execShrI32 (g : Guard) (d a b : VReg) (s : State) : Host.Outcome State Fault Refusal :=
  laneBin (.shrI32 g d a b) g d a b 1 1 (LitOp.eval .shrI false) s

/-- `rotl.b32` (R172). -/
def execRotlB32 (g : Guard) (d a b : VReg) (s : State) : Host.Outcome State Fault Refusal :=
  laneBin (.rotlB32 g d a b) g d a b 1 1 (LitOp.eval .rotl false) s

/-- `popc.b32` (R171). -/
def execPopcB32 (g : Guard) (d a : VReg) (s : State) : Host.Outcome State Fault Refusal :=
  laneUn (.popcB32 g d a) g d a 1 1 (popCount 32) s

/-- `clz.b32` (R171). -/
def execClzB32 (g : Guard) (d a : VReg) (s : State) : Host.Outcome State Fault Refusal :=
  laneUn (.clzB32 g d a) g d a 1 1 (leadingZeros 32) s

/-- `brev.b32` (R171). -/
def execBrevB32 (g : Guard) (d a : VReg) (s : State) : Host.Outcome State Fault Refusal :=
  laneUn (.brevB32 g d a) g d a 1 1 (bitReverse 32) s

/-- `mov.b32` (R171). -/
def execMovB32 (g : Guard) (d a : VReg) (s : State) : Host.Outcome State Fault Refusal :=
  laneUn (.movB32 g d a) g d a 1 1 id s

/-- `iabs.i32` (R171). -/
def execIabsI32 (g : Guard) (d a : VReg) (s : State) : Host.Outcome State Fault Refusal :=
  laneUn (.iabsI32 g d a) g d a 1 1 (intAbs .i32 false) s

/-- `ineg.i32` (R171). -/
def execInegI32 (g : Guard) (d a : VReg) (s : State) : Host.Outcome State Fault Refusal :=
  laneUn (.inegI32 g d a) g d a 1 1 (intNeg .i32 false) s

/-! ### One-word floating-point and 64-bit instructions (R174, R175, R190) -/

/-- `fadd.f32.rne` (R174). -/
def execFaddF32 (g : Guard) (d a b : VReg) (s : State) : Host.Outcome State Fault Refusal :=
  laneBin (.faddF32 g d a b) g d a b 1 1 (LitFOp.eval .fadd .f32) s

/-- `fsub.f32.rne` (R174). -/
def execFsubF32 (g : Guard) (d a b : VReg) (s : State) : Host.Outcome State Fault Refusal :=
  laneBin (.fsubF32 g d a b) g d a b 1 1 (LitFOp.eval .fsub .f32) s

/-- `fmul.f32.rne` (R174). -/
def execFmulF32 (g : Guard) (d a b : VReg) (s : State) : Host.Outcome State Fault Refusal :=
  laneBin (.fmulF32 g d a b) g d a b 1 1 (LitFOp.eval .fmul .f32) s

/-- `fmin.f32` (R175). -/
def execFminF32 (g : Guard) (d a b : VReg) (s : State) : Host.Outcome State Fault Refusal :=
  laneBin (.fminF32 g d a b) g d a b 1 1 (LitFOp.eval .fmin .f32) s

/-- `fmax.f32` (R175). -/
def execFmaxF32 (g : Guard) (d a b : VReg) (s : State) : Host.Outcome State Fault Refusal :=
  laneBin (.fmaxF32 g d a b) g d a b 1 1 (LitFOp.eval .fmax .f32) s

/-- `fabs.f32` (R174). -/
def execFabsF32 (g : Guard) (d a : VReg) (s : State) : Host.Outcome State Fault Refusal :=
  laneUn (.fabsF32 g d a) g d a 1 1 (fun x => floatUn .abs .f32 .rne (Fmt.f32.value x)) s

/-- `fneg.f32` (R174). -/
def execFnegF32 (g : Guard) (d a : VReg) (s : State) : Host.Outcome State Fault Refusal :=
  laneUn (.fnegF32 g d a) g d a 1 1 (fun x => floatUn .neg .f32 .rne (Fmt.f32.value x)) s

/-- `fadd.f64.rne` (R174). -/
def execFaddF64 (g : Guard) (d a b : VReg) (s : State) : Host.Outcome State Fault Refusal :=
  laneBin (.faddF64 g d a b) g d a b 2 2 (LitFOp.eval .fadd .f64) s

/-- `fsub.f64.rne` (R174). -/
def execFsubF64 (g : Guard) (d a b : VReg) (s : State) : Host.Outcome State Fault Refusal :=
  laneBin (.fsubF64 g d a b) g d a b 2 2 (LitFOp.eval .fsub .f64) s

/-- `fmul.f64.rne` (R174). -/
def execFmulF64 (g : Guard) (d a b : VReg) (s : State) : Host.Outcome State Fault Refusal :=
  laneBin (.fmulF64 g d a b) g d a b 2 2 (LitFOp.eval .fmul .f64) s

/-- `fmin.f64` (R175). -/
def execFminF64 (g : Guard) (d a b : VReg) (s : State) : Host.Outcome State Fault Refusal :=
  laneBin (.fminF64 g d a b) g d a b 2 2 (LitFOp.eval .fmin .f64) s

/-- `fmax.f64` (R175). -/
def execFmaxF64 (g : Guard) (d a b : VReg) (s : State) : Host.Outcome State Fault Refusal :=
  laneBin (.fmaxF64 g d a b) g d a b 2 2 (LitFOp.eval .fmax .f64) s

/-- `fabs.f64` (R174). -/
def execFabsF64 (g : Guard) (d a : VReg) (s : State) : Host.Outcome State Fault Refusal :=
  laneUn (.fabsF64 g d a) g d a 2 2 (fun x => floatUn .abs .f64 .rne (Fmt.f64.value x)) s

/-- `fneg.f64` (R174). -/
def execFnegF64 (g : Guard) (d a : VReg) (s : State) : Host.Outcome State Fault Refusal :=
  laneUn (.fnegF64 g d a) g d a 2 2 (fun x => floatUn .neg .f64 .rne (Fmt.f64.value x)) s

/-- `mov.b64` (R171). -/
def execMovB64 (g : Guard) (d a : VReg) (s : State) : Host.Outcome State Fault Refusal :=
  laneUn (.movB64 g d a) g d a 2 2 id s

/-- `iadd.i64` (R171). -/
def execIaddI64 (g : Guard) (d a b : VReg) (s : State) : Host.Outcome State Fault Refusal :=
  laneBin (.iaddI64 g d a b) g d a b 2 2 (LitOp.eval .iadd true) s

/-- `isub.i64` (R171). -/
def execIsubI64 (g : Guard) (d a b : VReg) (s : State) : Host.Outcome State Fault Refusal :=
  laneBin (.isubI64 g d a b) g d a b 2 2 (LitOp.eval .isub true) s

/-! ### Literal forms (R191) -/

/-- `lit.i` (R191). -/
def execLitI (op : LitOp) (g : Guard) (d a : VReg) (lit : Word) (s : State) : Host.Outcome State Fault Refusal :=
  laneUn (.litI op g d a lit) g d a 1 1 (fun x => op.eval false x lit.toNat) s

/-- `lit.f` (R191). -/
def execLitF (op : LitFOp) (g : Guard) (d a : VReg) (lit : Word) (s : State) : Host.Outcome State Fault Refusal :=
  laneUn (.litF op g d a lit) g d a 1 1 (fun x => op.eval .f32 x lit.toNat) s

/-- `lit.mov` (R191). -/
def execLitMov (g : Guard) (d : VReg) (lit : Word) (s : State) : Host.Outcome State Fault Refusal :=
  run (.litMov g d lit) (lanePlan g d 1 [] fun _ _ _ => lit.toNat) s

/-! ### Compares and predicate logic (R181, R182) -/

/-- `icmp.c.i32` (R181). -/
def execIcmpI32 (g : Guard) (c : Cond) (p : PReg) (a b : VReg) (s : State) : Host.Outcome State Fault Refusal :=
  laneCmp (.icmpI32 g c p a b) g p a b 1 (fun x y => c.int (Ty.i32.int x) (Ty.i32.int y)) s

/-- `icmp.c.n32` (R181). -/
def execIcmpN32 (g : Guard) (c : Cond) (p : PReg) (a b : VReg) (s : State) : Host.Outcome State Fault Refusal :=
  laneCmp (.icmpN32 g c p a b) g p a b 1 (fun x y => c.int (Ty.n32.int x) (Ty.n32.int y)) s

/-- `icmp.c.i64` (R181). -/
def execIcmpI64 (g : Guard) (c : Cond) (p : PReg) (a b : VReg) (s : State) : Host.Outcome State Fault Refusal :=
  laneCmp (.icmpI64 g c p a b) g p a b 2 (fun x y => c.int (Ty.i64.int x) (Ty.i64.int y)) s

/-- `icmp.c.n64` (R181). -/
def execIcmpN64 (g : Guard) (c : Cond) (p : PReg) (a b : VReg) (s : State) : Host.Outcome State Fault Refusal :=
  laneCmp (.icmpN64 g c p a b) g p a b 2 (fun x y => c.int (Ty.n64.int x) (Ty.n64.int y)) s

/-- `fcmp.c.f32` (R181). -/
def execFcmpF32 (g : Guard) (c : Cond) (p : PReg) (a b : VReg) (s : State) : Host.Outcome State Fault Refusal :=
  laneCmp (.fcmpF32 g c p a b) g p a b 1 (fun x y => c.float (Fmt.f32.value x) (Fmt.f32.value y)) s

/-- `fcmp.c.f64` (R181). -/
def execFcmpF64 (g : Guard) (c : Cond) (p : PReg) (a b : VReg) (s : State) : Host.Outcome State Fault Refusal :=
  laneCmp (.fcmpF64 g c p a b) g p a b 2 (fun x y => c.float (Fmt.f64.value x) (Fmt.f64.value y)) s

/-- `pand` (R182). -/
def execPand (g : Guard) (p q r : PReg) (s : State) : Host.Outcome State Fault Refusal :=
  lanePred (.pand g p q r) g p q r (fun x y => x && y) s

/-- `por` (R182). -/
def execPor (g : Guard) (p q r : PReg) (s : State) : Host.Outcome State Fault Refusal :=
  lanePred (.por g p q r) g p q r (fun x y => x || y) s

/-- `pxor` (R182). -/
def execPxor (g : Guard) (p q r : PReg) (s : State) : Host.Outcome State Fault Refusal :=
  lanePred (.pxor g p q r) g p q r (fun x y => x != y) s

/-- `pandn` (R182). -/
def execPandn (g : Guard) (p q r : PReg) (s : State) : Host.Outcome State Fault Refusal :=
  lanePred (.pandn g p q r) g p q r (fun x y => x && !y) s

/-! ### Lane exchange, census and `get.lane` (R184-R187) -/

/-- `xch.at.b32` (R184). -/
def execXchAt (g : Guard) (d a b : VReg) (s : State) : Host.Outcome State Fault Refusal :=
  laneXch (.xchAt g d a b) g d a b (fun _ n => some n) s

/-- `xch.sub.b32` (R184). -/
def execXchSub (g : Guard) (d a b : VReg) (s : State) : Host.Outcome State Fault Refusal :=
  laneXch (.xchSub g d a b) g d a b (fun l n => if n ≤ l then some (l - n) else none) s

/-- `xch.add.b32` (R184). -/
def execXchAdd (g : Guard) (d a b : VReg) (s : State) : Host.Outcome State Fault Refusal :=
  laneXch (.xchAdd g d a b) g d a b (fun l n => if l + n < 32 then some (l + n) else none) s

/-- `xch.flip.b32` (R184). -/
def execXchFlip (g : Guard) (d a b : VReg) (s : State) : Host.Outcome State Fault Refusal :=
  laneXch (.xchFlip g d a b) g d a b (fun l n => some (l ^^^ n)) s

/-- `cen.all` (R186). -/
def execCenAll (g : Guard) (p q : PReg) (s : State) : Host.Outcome State Fault Refusal :=
  run (.cenAll g p q) (predPlan g p (srcP q) fun x act _ => (lanesOf act).all fun l => x.bitP q.toNat l) s

/-- `cen.any` (R186). -/
def execCenAny (g : Guard) (p q : PReg) (s : State) : Host.Outcome State Fault Refusal :=
  run (.cenAny g p q) (predPlan g p (srcP q) fun x act _ => (lanesOf act).any fun l => x.bitP q.toNat l) s

/-- `cen.bits.b32` (R186). -/
def execCenBits (g : Guard) (d : VReg) (q : PReg) (s : State) : Host.Outcome State Fault Refusal :=
  run (.cenBits g d q) (lanePlan g d 1 (srcP q) fun x act _ => (x.getP q.toNat &&& act).toNat) s

/-- `get.lane` (R187). -/
def execGetLane (g : Guard) (d : VReg) (s : State) : Host.Outcome State Fault Refusal :=
  run (.getLane g d) (lanePlan g d 1 [] fun _ _ l => l) s

/-! ### Extended operations (R91, R171-R175, R183) -/

/-- The modifiers of an extended arithmetic operation. -/
def arithMods (sat na nb nc : Bool) : XMod := ⟨sat, na, nb, nc, false, .i8⟩

/-- `iadd.t` (R171). -/
def execIaddExt (g : Guard) (d a b : VReg) (t : Ty) (sat : Bool) (s : State) : Host.Outcome State Fault Refusal :=
  laneBin (.iaddExt g d a b t sat) g d a b t.regs t.regs (fun x y => XOp.eval .iadd t .rne (arithMods sat false false false) x y 0) s

/-- `isub.t` (R171). -/
def execIsubExt (g : Guard) (d a b : VReg) (t : Ty) (sat : Bool) (s : State) : Host.Outcome State Fault Refusal :=
  laneBin (.isubExt g d a b t sat) g d a b t.regs t.regs (fun x y => XOp.eval .isub t .rne (arithMods sat false false false) x y 0) s

/-- `imul.t` (R171). -/
def execImulExt (g : Guard) (d a b : VReg) (t : Ty) (s : State) : Host.Outcome State Fault Refusal :=
  laneBin (.imulExt g d a b t) g d a b t.regs t.regs (fun x y => XOp.eval .imul t .rne (arithMods false false false false) x y 0) s

/-- `imulhi.t` (R171). -/
def execImulhiExt (g : Guard) (d a b : VReg) (t : Ty) (s : State) : Host.Outcome State Fault Refusal :=
  laneBin (.imulhiExt g d a b t) g d a b t.regs t.regs (fun x y => XOp.eval .imulhi t .rne (arithMods false false false false) x y 0) s

/-- `imin.t` (R171). -/
def execIminExt (g : Guard) (d a b : VReg) (t : Ty) (s : State) : Host.Outcome State Fault Refusal :=
  laneBin (.iminExt g d a b t) g d a b t.regs t.regs (fun x y => XOp.eval .imin t .rne (arithMods false false false false) x y 0) s

/-- `imax.t` (R171). -/
def execImaxExt (g : Guard) (d a b : VReg) (t : Ty) (s : State) : Host.Outcome State Fault Refusal :=
  laneBin (.imaxExt g d a b t) g d a b t.regs t.regs (fun x y => XOp.eval .imax t .rne (arithMods false false false false) x y 0) s

/-- `imad.t` (R171). -/
def execImad (g : Guard) (d a b c : VReg) (t : Ty) (sat : Bool) (s : State) : Host.Outcome State Fault Refusal :=
  laneTri (.imad g d a b c t sat) g d a b c t.regs (fun x y z => XOp.eval .imad t .rne (arithMods sat false false false) x y z) s

/-- `iabs.t` (R171). -/
def execIabsExt (g : Guard) (d a : VReg) (t : Ty) (sat : Bool) (s : State) : Host.Outcome State Fault Refusal :=
  laneUn (.iabsExt g d a t sat) g d a t.regs t.regs (fun x => XOp.eval .iabs t .rne (arithMods sat false false false) x 0 0) s

/-- `ineg.t` (R171). -/
def execInegExt (g : Guard) (d a : VReg) (t : Ty) (sat : Bool) (s : State) : Host.Outcome State Fault Refusal :=
  laneUn (.inegExt g d a t sat) g d a t.regs t.regs (fun x => XOp.eval .ineg t .rne (arithMods sat false false false) x 0 0) s

/-- `clamp.t` (R171, R175). -/
def execClamp (g : Guard) (d a b c : VReg) (t : Ty) (s : State) : Host.Outcome State Fault Refusal :=
  laneTri (.clamp g d a b c t) g d a b c t.regs (fun x y z => XOp.eval .clamp t .rne (arithMods false false false false) x y z) s

/-- `sel.t` (R183). -/
def execSel (g : Guard) (d a b : VReg) (p : PReg) (t : Ty) (s : State) : Host.Outcome State Fault Refusal :=
  run (.sel g d a b p t) (lanePlan g d t.regs (srcV a t.regs ++ srcV b t.regs ++ srcP p) fun r _ l =>
    if r.bitP p.toNat l then r.lane a.toNat t.regs l else r.lane b.toNat t.regs l) s

/-- `shl.t` (R172). -/
def execShlExt (g : Guard) (d a b : VReg) (t : Ty) (s : State) : Host.Outcome State Fault Refusal :=
  laneBin (.shlExt g d a b t) g d a b t.regs 1 (fun x y => XOp.eval .shl t .rne (arithMods false false false false) x y 0) s

/-- `shr.t` (R172). -/
def execShrExt (g : Guard) (d a b : VReg) (t : Ty) (s : State) : Host.Outcome State Fault Refusal :=
  laneBin (.shrExt g d a b t) g d a b t.regs 1 (fun x y => XOp.eval .shr t .rne (arithMods false false false false) x y 0) s

/-- `bfe.t` (R173). -/
def execBfe (g : Guard) (d a b c : VReg) (t : Ty) (s : State) : Host.Outcome State Fault Refusal :=
  laneTri (.bfe g d a b c t) g d a b c 1 (fun x y z => bitExtract t x y z) s

/-- `bfi.b32` (R173). -/
def execBfi (g : Guard) (d a b c : VReg) (s : State) : Host.Outcome State Fault Refusal :=
  laneTri (.bfi g d a b c) g d a b c 1 bitInsert s

/-- `fadd.t.rnd` (R174). -/
def execFaddExt (g : Guard) (d a b : VReg) (t : Ty) (rnd : Rnd) (na nb : Bool) (s : State) : Host.Outcome State Fault Refusal :=
  laneBin (.faddExt g d a b t rnd na nb) g d a b t.regs t.regs (fun x y => XOp.eval .fadd t rnd (arithMods false na nb false) x y 0) s

/-- `fsub.t.rnd` (R174). -/
def execFsubExt (g : Guard) (d a b : VReg) (t : Ty) (rnd : Rnd) (na nb : Bool) (s : State) : Host.Outcome State Fault Refusal :=
  laneBin (.fsubExt g d a b t rnd na nb) g d a b t.regs t.regs (fun x y => XOp.eval .fsub t rnd (arithMods false na nb false) x y 0) s

/-- `fmul.t.rnd` (R174). -/
def execFmulExt (g : Guard) (d a b : VReg) (t : Ty) (rnd : Rnd) (na nb : Bool) (s : State) : Host.Outcome State Fault Refusal :=
  laneBin (.fmulExt g d a b t rnd na nb) g d a b t.regs t.regs (fun x y => XOp.eval .fmul t rnd (arithMods false na nb false) x y 0) s

/-- `fdiv.t.rnd` (R174). -/
def execFdiv (g : Guard) (d a b : VReg) (t : Ty) (rnd : Rnd) (na nb : Bool) (s : State) : Host.Outcome State Fault Refusal :=
  laneBin (.fdiv g d a b t rnd na nb) g d a b t.regs t.regs (fun x y => XOp.eval .fdiv t rnd (arithMods false na nb false) x y 0) s

/-- `fma.t.rnd` (R174). -/
def execFma (g : Guard) (d a b c : VReg) (t : Ty) (rnd : Rnd) (na nb nc : Bool) (s : State) : Host.Outcome State Fault Refusal :=
  laneTri (.fma g d a b c t rnd na nb nc) g d a b c t.regs (fun x y z => XOp.eval .fma t rnd (arithMods false na nb nc) x y z) s

/-- `fmin.t` (R175). -/
def execFminExt (g : Guard) (d a b : VReg) (t : Ty) (na nb : Bool) (s : State) : Host.Outcome State Fault Refusal :=
  laneBin (.fminExt g d a b t na nb) g d a b t.regs t.regs (fun x y => XOp.eval .fmin t .rne (arithMods false na nb false) x y 0) s

/-- `fmax.t` (R175). -/
def execFmaxExt (g : Guard) (d a b : VReg) (t : Ty) (na nb : Bool) (s : State) : Host.Outcome State Fault Refusal :=
  laneBin (.fmaxExt g d a b t na nb) g d a b t.regs t.regs (fun x y => XOp.eval .fmax t .rne (arithMods false na nb false) x y 0) s

/-- `fsqrt.t.rnd` (R174). -/
def execFsqrt (g : Guard) (d a : VReg) (t : Ty) (rnd : Rnd) (s : State) : Host.Outcome State Fault Refusal :=
  laneUn (.fsqrt g d a t rnd) g d a t.regs t.regs (fun x => XOp.eval .fsqrt t rnd (arithMods false false false false) x 0 0) s

/-- `frcp.t.rnd` (R174). -/
def execFrcp (g : Guard) (d a : VReg) (t : Ty) (rnd : Rnd) (s : State) : Host.Outcome State Fault Refusal :=
  laneUn (.frcp g d a t rnd) g d a t.regs t.regs (fun x => XOp.eval .frcp t rnd (arithMods false false false false) x 0 0) s

/-- `frint.t.rnd` (R174). -/
def execFrint (g : Guard) (d a : VReg) (t : Ty) (rnd : Rnd) (s : State) : Host.Outcome State Fault Refusal :=
  laneUn (.frint g d a t rnd) g d a t.regs t.regs (fun x => XOp.eval .frint t rnd (arithMods false false false false) x 0 0) s

/-- `frsqrt.t` (R174). -/
def execFrsqrt (g : Guard) (d a : VReg) (t : Ty) (s : State) : Host.Outcome State Fault Refusal :=
  laneUn (.frsqrt g d a t) g d a t.regs t.regs (fun x => XOp.eval .frsqrt t .rne (arithMods false false false false) x 0 0) s

/-- `fexp2.f32` (R174). -/
def execFexp2 (g : Guard) (d a : VReg) (s : State) : Host.Outcome State Fault Refusal :=
  laneUn (.fexp2 g d a) g d a 1 1 (fun x => XOp.eval .fexp2 .f32 .rne (arithMods false false false false) x 0 0) s

/-- `flog2.f32` (R174). -/
def execFlog2 (g : Guard) (d a : VReg) (s : State) : Host.Outcome State Fault Refusal :=
  laneUn (.flog2 g d a) g d a 1 1 (fun x => XOp.eval .flog2 .f32 .rne (arithMods false false false false) x 0 0) s

/-! ### Conversions (R176-R180) -/

/-- The source operand of a conversion in a lane: the type's bits, from the high half with HI (R176). -/
def cvtSource (r : Arch) (a : Nat) (st : Ty) (hi : Bool) (l : Nat) : Nat :=
  r.lane a st.regs l / (if hi then 2 ^ 16 else 1) % 2 ^ st.bits

/-- The random value of a lane's conversion: its row is the 32 lanes' source operands, active or not (R59, R178). -/
def laneRho (row : Nat → Nat) (l : Nat) : Nat := rhoAt ((List.range 32).map row) l

/-- One packed element: a narrow floating result from an f32 register, which is its own row (R180). -/
def packElem (r : Arch) (a : Nat) (t : Ty) (rnd : Rnd) (l : Nat) : Nat :=
  convert t .f32 rnd false (laneRho (fun j => (r.getV a j).toNat) l) (r.getV a l).toNat

/-- `cvt.D.S.rnd` (R176). -/
def execCvt (g : Guard) (d a : VReg) (t st : Ty) (rnd : Rnd) (sat hi : Bool) (s : State) : Host.Outcome State Fault Refusal :=
  run (.cvt g d a t st rnd sat hi) (lanePlan g d t.regs (srcV a st.regs) fun r _ l =>
    fill32 t (convert t st rnd sat (laneRho (cvtSource r a.toNat st hi) l) (cvtSource r a.toNat st hi l))) s

/-- `cvt.pk` (R180). -/
def execCvtPk (g : Guard) (d a b : VReg) (t : Ty) (rnd : Rnd) (s : State) : Host.Outcome State Fault Refusal :=
  run (.cvtPk g d a b t rnd) (lanePlan g d 1 (srcV a ++ srcV b) fun r _ l =>
    packElem r a.toNat t rnd l + 2 ^ 16 * packElem r b.toNat t rnd l) s

/-- `cvt.pk4` (R180). -/
def execCvtPk4 (g : Guard) (d a : VReg) (t : Ty) (rnd : Rnd) (s : State) : Host.Outcome State Fault Refusal :=
  run (.cvtPk4 g d a t rnd) (lanePlan g d 1 (srcV a 4) fun r _ l =>
    packElem r a.toNat t rnd l + 2 ^ 8 * packElem r (a.toNat + 1) t rnd l + 2 ^ 16 * packElem r (a.toNat + 2) t rnd l
      + 2 ^ 24 * packElem r (a.toNat + 3) t rnd l) s

/-! ### Reductions and scan (R188, R189) -/

/-- One level of the fixed tree: neighbours combined, an absent operand giving the other (R188). -/
def treeLevel (f : Nat → Nat → Nat) : List (Option Nat) → List (Option Nat)
  | x :: y :: r =>
    (match x, y with
      | some u, some v => some (f u v)
      | some u, none => some u
      | none, v => v) :: treeLevel f r
  | l => l

/-- The combination of the active lanes' values over the tree of R188; 0 where no lane is active. -/
def treeReduce (f : Nat → Nat → Nat) (act : Word) (val : Nat → Nat) : Nat :=
  let l := (List.range 32).map fun l => if act.getLsbD l then some (val l) else none
  let l := treeLevel f (treeLevel f (treeLevel f (treeLevel f (treeLevel f l))))
  ((l.headD none).getD 0)

/-- The combining operation of a reduction in its type (R188). -/
def redOp (int : IntOp) (float : LitFOp) (t : Ty) : Nat → Nat → Nat :=
  if t.isInt then intBin int t false else float.eval .f32

/-- A reduction writes its one result to every active lane (R188). -/
def laneRed (i : Instr) (g : Guard) (d a : VReg) (f : Nat → Nat → Nat) (s : State) : Host.Outcome State Fault Refusal :=
  run i (lanePlan g d 1 (srcV a) fun r act _ => treeReduce f act fun l => (r.getV a.toNat l).toNat) s

/-- `red.add.t` (R188). -/
def execRedAdd (g : Guard) (d a : VReg) (t : Ty) (s : State) : Host.Outcome State Fault Refusal :=
  laneRed (.redAdd g d a t) g d a (redOp .add .fadd t) s

/-- `red.min.t` (R188). -/
def execRedMin (g : Guard) (d a : VReg) (t : Ty) (s : State) : Host.Outcome State Fault Refusal :=
  laneRed (.redMin g d a t) g d a (redOp .min .fmin t) s

/-- `red.max.t` (R188). -/
def execRedMax (g : Guard) (d a : VReg) (t : Ty) (s : State) : Host.Outcome State Fault Refusal :=
  laneRed (.redMax g d a t) g d a (redOp .max .fmax t) s

/-- `scan.add.t` (R189). -/
def execScanAdd (g : Guard) (d a : VReg) (t : Ty) (s : State) : Host.Outcome State Fault Refusal :=
  run (.scanAdd g d a t) (lanePlan g d 1 (srcV a) fun r act l =>
    (((lanesOf act).filter (· ≤ l)).map fun j => (r.getV a.toNat j).toNat).sum) s

end Sys2Proof.Machine
end

