-- ==== Sys2Proof/Machine/LaneMem.lean ====
section
/-!
DEFINITION. Lane loads, stores and atomics (R196-R200): their offset checks, the bytes they reach in team memory, die
scratchpad and private memory (R120-R131), and their tracking on paths T, D and P. An access acts when it issues, lane by
lane, or, where the schedule puts it off, part by part until its completion; a load's data reaches its registers at completion (DESIGN
CHOICE: assumption 3).
-/
namespace Sys2Proof.Machine

/-! ### Where a lane's access goes -/

/-- The access path of a space (R132). -/
def pathOf (sp : Space) : AccPath := match sp with | .team => .T | .die => .D | .priv => .P

/-- The bytes of one lane's access: runs of keys with their lengths, and the class that a loss in each has (R376, R377). -/
structure LaneBytes where
  runs : List (Nat × Nat)
  cls : List Nat
  deriving DecidableEq, Repr

/-- The private virtual address of offset o of a lane (R128). -/
def State.privVA (s : State) (h : Here) (l o : Nat) : Nat :=
  s.privbase (s.hereCtx h) + h.g.priv * 2 ^ 24 + 0x10000 + o / 4 * 128 + l * 4 + o % 4

/-- The walker of a core's private accesses (R131, R370). -/
def State.privWalker (s : State) (h : Here) : Walker := ⟨some h.t.die, some (.priv h.t.site), s.hereCtx h, []⟩

/-- The 4-byte pieces of a private access, translated in increasing order and taken to where they go (R128, R144, R411); those of a
store need pages that permit writes (R369). -/
def State.privRuns (s : State) (h : Here) (k : AccKind) (l : Nat) : List (Nat × Nat) → Except Report LaneBytes
  | [] => .ok ⟨[], []⟩
  | (o, n) :: r =>
    let va := s.privVA h l o
    match s.access (s.privWalker h) k va n with
    | .error f => .error (f.report va)
    | .ok x =>
      match State.privRuns s h k l r with
      | .error f => .error f
      | .ok b => .ok ⟨(x.1, n) :: b.runs, x.2 :: b.cls⟩

/-- The pieces of a private access of n bytes (R128). -/
def privPieces (o n : Nat) : List (Nat × Nat) :=
  if n ≤ 4 then [(o, n)] else (List.range (n / 4)).map fun j => (o + 4 * j, 4)

/-- A lane's own access or its own first fault (R13, R120, R130). -/
def State.laneBytes (s : State) (h : Here) (sp : Space) (store : Bool) (n l o : Nat) : Except Report LaneBytes :=
  let a := BitVec.ofNat 64 o
  if o % n != 0 then .error { kind := .align, addr := a }
  else
    match sp with
    | .team =>
      match teamMemKey h.t o n with
      | some k => .ok ⟨[(k, n)], [0]⟩
      | none => .error { kind := .bounds, addr := a }
    | .die =>
      match recordLost (s.windowLoss h.t o) o, s.dieKey h.t o n with
      | some r, _ => .error r
      | none, some k => .ok ⟨[(k, n)], [1]⟩
      | none, none => .error { kind := .bounds, addr := a }
    | .priv =>
      if 0x40000 < o + n then .error { kind := .bounds, addr := a }
      else if s.hwm (s.hereCtx h) < o + n && s.fieldLoss (s.hereCtx h) 0 0x14 == none then .error { kind := .grow, addr := BitVec.ofNat 64 (s.privVA h l o) }
      else s.privRuns h (if store then .write else .read) l (privPieces o n)

/-- Whether the access of an active lane waits for a stack (R379): for the context record that it needs, or a private one in training. -/
def State.privHeld (s : State) (h : Here) (g : Guard) (a : VReg) (sp : Space) (n : Nat) : Bool :=
  (sp != .team && s.recordWaits (s.hereCtx h) && h.active g != 0) ||
    (sp == .priv && (lanesOf (h.active g)).any fun l =>
      let o := (h.a.getV a.toNat l).toNat
      o + n ≤ s.hwm (s.hereCtx h) && (privPieces o n).any fun e => s.held (s.privWalker h) (s.privVA h l e.1))

/-! ### Faults of several lanes (R14) -/

/-- The mask of some lanes. -/
def maskOf (ls : List Nat) : Word := BitVec.ofNat 32 (ofBits ((List.range 32).map fun l => ls.contains l))

/-- The report of an instruction whose lanes have these faults of their own, lowest lane first (R14). -/
def pickLanes (fs : List (Nat × Report)) : Option Report :=
  let hard := fs.filter fun e => e.2.kind.cls != 0
  let pool := if hard == [] then fs else hard
  match (pool.map fun e => e.2.kind.rank).min? with
  | none => none
  | some r =>
    let chosen := pool.filter fun e => e.2.kind.rank == r
    match chosen with
    | [] => none
    | (_, f) :: _ =>
      let w := joinLosses (eachGranule (chosen.map fun e => ⟨e.2.pa, e.2.cls, 1⟩))
      some { f with
        lanes := maskOf (chosen.map (·.1)), cls := (w.map (·.cls)).getD f.cls
        pa := if f.kind = .uncorrectable then (w.map (·.pa)).getD f.pa else f.pa
        lost := if f.kind = .uncorrectable then (w.map (·.n)).getD 1 else 1 }

/-- The offset that a lane names (R197). -/
def Here.offset (h : Here) (a : VReg) (l : Nat) : Nat := (h.a.getV a.toNat l).toNat

/-- The accesses of the active lanes, lowest lane first. -/
def State.laneAll (s : State) (h : Here) (g : Guard) (a : VReg) (sp : Space) (store : Bool) (n : Nat) :
    List (Nat × Except Report LaneBytes) :=
  (lanesOf (h.active g)).map fun l => (l, s.laneBytes h sp store n l (h.offset a l))

/-- The fault of a lane memory instruction at issue, if any lane has one (R197). -/
def laneFaultOf (xs : List (Nat × Except Report LaneBytes)) : Option Report :=
  pickLanes (xs.filterMap fun e => match e.2 with | .error f => some (e.1, f) | .ok _ => none)

/-- The lanes with their bytes, where no lane has a fault. -/
def laneOk (xs : List (Nat × Except Report LaneBytes)) : List (Nat × LaneBytes) :=
  xs.filterMap fun e => match e.2 with | .ok b => some (e.1, b) | .error _ => none

/-- The losses of an access: a run of a lane lies in one granule, and has its class. -/
def State.lostRuns (s : State) (b : LaneBytes) : List Loss :=
  (b.runs.zip b.cls).filterMap fun e => if s.isLost e.1.1 e.1.2 then some ⟨e.1.1, e.2, 1⟩ else none

/-- A loss that the lanes consume (R375, R377): an access of a lane never writes a whole granule. It escalates by the strongest
class of what is lost. -/
def State.laneLoss (s : State) (h : Here) (a : VReg) (sp : Space) (xs : List (Nat × LaneBytes)) : Option Report :=
  let hit := xs.filter fun e => s.lostRuns e.2 != []
  match hit with
  | [] => none
  | (l, _) :: _ =>
    let o := h.offset a l
    (joinLosses (eachGranule (hit.flatMap fun e => s.lostRuns e.2))).map fun w =>
      { lossAt (if sp == .priv then s.privVA h l o else o) w with lanes := maskOf (hit.map (·.1)) }

/-! ### The bytes of an access, in a continuation's view too (R279) -/

/-- The bytes of a lane's access. -/
def State.viewBytes (s : State) (c : Option Cont) (b : LaneBytes) : List Byte :=
  b.runs.flatMap fun r => (List.range r.2).map fun i => s.viewByte c (r.1 + i)

/-- Runs of keys given bytes, in order. -/
def State.storeRuns (s : State) (put : State → Nat → List Byte → State) (runs : List (Nat × Nat)) (bs : List Byte) : State :=
  match runs with
  | [] => s
  | (k, n) :: r => State.storeRuns (put s k (bs.take n)) put r (bs.drop n)

/-- The lines of an access as a tracked set holds them: private lines are 128 bytes (R279). -/
def LaneBytes.blocks (b : LaneBytes) (sp : Space) : List (Nat × Nat) :=
  b.runs.map fun r => if sp == .priv then (r.1 / 128 * 2, 2) else (r.1 / 64, 1)

/-- The private accesses of a continuation, whose translations must last until it commits (R157-R159). -/
def Cont.keepPriv (c : Cont) (sp : Space) (xs : List (Nat × LaneBytes)) : Cont :=
  if sp == .priv then { c with privs := c.privs ++ (xs.flatMap fun e => e.2.runs).map (·.1) } else c

/-- The same for the continuation whose instruction is under way. -/
def State.keepPriv (s : State) (grp : Nat) (sp : Space) (xs : List (Nat × LaneBytes)) : State :=
  s.onGroup grp fun g => { g with conts := g.conts.mapIdx fun j c => if s.view = some j then c.keepPriv sp xs else c }

/-- An access meets the group's accesses that are still to be performed: those that it overlaps come before it, a release comes behind
all of them, and a write behind every read (R152). -/
def State.settleLate (s : State) (h : Here) (o : MemOrder) (write : Bool) (xs : List (Nat × LaneBytes)) : State :=
  let runs := xs.flatMap fun e => e.2.runs
  if o == .rel || o == .acqRel || h.a.tracked.any (fun t => t.late.any (·.meets runs)) then s.drainLate h.g.id
  else if write then s.performBy h.g.id fun t => t.late.any Late.isRead
  else s

/-- An acquire with an active lane holds back its path (R198). -/
def acquires (o : MemOrder) (act : Word) : Bool := (o == .acq || o == .acqRel) && act != 0

/-- A lane access of the group itself is performed by its completion: one that the schedule puts off, with a counter (R152). Private
memory, which only its group reaches, is read and written at once, and so does an acquire. -/
def State.putsOff (s : State) (h : Here) (o : MemOrder) (sp : Space) (store : Bool) (act : Word) : Bool :=
  s.late && s.view.isNone && sp != .priv && act != 0 && !acquires o act && (h.p.counter (.ka store)).isSome

/-- The same of a load: one that a detector follows (R294) reads at once. -/
def State.putsOffLoad (s : State) (h : Here) (o : MemOrder) (sp : Space) (act : Word) : Bool :=
  s.putsOff h o sp false act && h.g.detector.isNone

/-- What the detector keeps of a load: space and offset, and value, lane by lane; more than 8 lines disqualify (R294). -/
def Detector.load (d : Detector) (sp : Space) (n : Nat) (xs : List (Nat × Nat × Nat)) (ls : List Nat) : Detector :=
  let lines := ls.foldl (fun (acc : List Nat) x => if acc.contains x then acc else acc ++ [x]) d.lines
  { d with
    loads := d.loads ++ xs.map fun e => ((sp.code.toNat * 32 + n) * 2 ^ 40 + e.1 * 2 ^ 34 + e.2.1, e.2.2)
    lines := lines
    ok := d.ok && lines.length ≤ 8 }

/-! ### Passes of team memory (R122) -/

/-- The bank words that lanes touch, each once. -/
def bankWords (os : List Nat) (n : Nat) : List Nat :=
  (os.flatMap fun o => if n = 16 then [o / 8, o / 8 + 1] else [o / 8]).eraseDups

/-- The passes of a lane instruction: the most words in one bank, at least 1 (R122). -/
def passes (os : List Nat) (n : Nat) : Nat :=
  let ws := bankWords os n
  max 1 ((ws.map fun w => (ws.filter fun v => v % 96 == w % 96).length).foldl max 0)

/-- Lanes of an atomic that repeat a word add a pass each (R123). -/
def atomicPasses (os : List Nat) (n : Nat) : Nat :=
  passes os n + (os.length - (os.map (· / 8)).eraseDups.length)

/-- Counter 11: team-memory passes beyond the first (R339). -/
def State.countPasses (s : State) (h : Here) (sp : Space) (k : Nat) : State :=
  if sp == .team && 1 < k then s.perf h.t.die h.t.site (s.hereCtx h) 11 (k - 1) else s

/-! ### Loads and stores (R196-R198) -/

/-- The bytes that a store of n bytes takes from the registers from d on (R132). -/
def Here.storeBytes (h : Here) (d n l : Nat) : List Byte := toBytes n (h.a.lane d ((n + 3) / 4) l)

/-- The order of a lane access stalls its issue (R198). -/
def memStall (o : MemOrder) (h : Here) : Bool :=
  h.acquiring || ((o == .rel || o == .acqRel) && h.busy)

/-- The fault of a lane access: an offset check, or the translation. -/
def memLate (s : State) (h : Here) (g : Guard) (a : VReg) (sp : Space) (store : Bool) (n : Nat) : Option Report :=
  laneFaultOf (s.laneAll h g a sp store n)

/-- The lost data that a lane access meets. -/
def memLoss (s : State) (h : Here) (g : Guard) (a : VReg) (sp : Space) (store : Bool) (n : Nat) : Option Report :=
  s.laneLoss h a sp (laneOk (s.laneAll h g a sp store n))

/-- A lane load of n bytes (R197). -/
def loadPlan (g : Guard) (d a : VReg) (n : Nat) (signed : Bool) (o : MemOrder) (sp : Space) : Plan :=
  let k := (n + 3) / 4
  { guard := g
    uses := dstV d k ++ srcV a
    raises := .ka false
    stall := fun s h => memStall o h || s.privHeld h g a sp n
    late := fun s h => memLate s h g a sp false n
    loss := fun s h => memLoss s h g a sp false n
    act := fun h s =>
      let act := h.active g
      let xs := laneOk (s.laneAll h g a sp false n)
      let s := (s.settleLate h o false xs).keepPriv h.g.id sp xs
      let off := s.putsOffLoad h o sp act
      let c := s.viewCont h.g.id
      let vals := xs.map fun e => (e.1, s.viewBytes c e.2)
      let s := s.onGroup h.g.id fun q =>
        { q with
          arch := q.arch.raise (h.p.counter (.ka false))
            { path := pathOf sp, dests := regsFrom .v d.toNat k,
              data := if off then [] else vals.flatMap fun e => loadWords d.toNat n signed e.1 e.2,
              late := if off then xs.map fun e => .read e.1 d.toNat n signed e.2.runs else [],
              acq := acquires o act, lanes := h.p.m, done := act == 0 }
          detector := q.detector.map fun t =>
            if s.view.isSome then t
            else t.load sp n (vals.map fun e => (e.1, h.offset a e.1, ofBytes e.2)) ((xs.flatMap fun e => e.2.runs).map (·.1 / 64))
          conts := q.conts.mapIdx fun j c => if s.view = some j then c.track (xs.flatMap fun e => e.2.blocks sp) else c }
      s.countPasses h sp (passes (xs.map fun e => h.offset a e.1) n) }

/-- A lane store of n bytes; of lanes that write one byte, the highest comes last (R123, R197). -/
def storePlan (g : Guard) (d a : VReg) (n : Nat) (o : MemOrder) (sp : Space) : Plan :=
  let k := (n + 3) / 4
  { guard := g
    uses := srcV d k ++ srcV a
    raises := .ka true
    stall := fun s h => memStall o h || s.privHeld h g a sp n
    late := fun s h => memLate s h g a sp true n
    loss := fun s h => memLoss s h g a sp true n
    act := fun h s =>
      let act := h.active g
      let xs := laneOk (s.laneAll h g a sp true n)
      let s := (s.settleLate h o true xs).keepPriv h.g.id sp xs
      let off := s.putsOff h o sp true act
      let late := if off then xs.flatMap fun e => (runBytes e.2.runs (h.storeBytes d.toNat n e.1)).map fun r => Late.store r.1 r.2 else []
      let s := if off then s else
        xs.foldl (fun (st : State) e => st.storeRuns (State.viewStore h.g.id) e.2.runs (h.storeBytes d.toNat n e.1)) s
      let s := s.onArch h.g.id fun r =>
        r.raise (h.p.counter (.ka true)) { path := pathOf sp, lanes := h.p.m, late := late, done := act == 0 }
      s.countPasses h sp (passes (xs.map fun e => h.offset a e.1) n) }

/-! ### Atomics (R199, R200) -/

/-- The lanes' read-modify-writes in increasing lane order, with the old value of each lane (R123, R200). -/
def atomicLanes (op : AtomicOp) (t : Ty) (h : Here) (b c : VReg) (s : State) (xs : List (Nat × LaneBytes)) :
    State × List (Nat × Nat) :=
  xs.foldl
    (fun (acc : State × List (Nat × Nat)) e =>
      let st := acc.1
      let old := ofBytes (st.viewBytes none e.2)
      let new := op.eval t old (h.a.lane b.toNat t.regs e.1) (h.a.lane c.toNat t.regs e.1)
      (st.storeRuns State.store e.2.runs (toBytes (4 * t.regs) new), acc.2 ++ [(e.1, old)]))
    (s, [])

/-- A lane atomic (R200). -/
def atomicPlan (op : AtomicOp) (g : Guard) (d a b c : VReg) (t : Ty) (o : MemOrder) (sp : Space) (ret : Bool) : Plan :=
  let n := 4 * t.regs
  { guard := g
    uses := (if ret then dstV d t.regs else []) ++ srcV a ++ srcV b t.regs ++ (if op == .cas then srcV c t.regs else [])
    raises := .ka false
    stall := fun s h => memStall o h || s.privHeld h g a sp n
    late := fun s h => memLate s h g a sp true n
    loss := fun s h => memLoss s h g a sp true n
    act := fun h s =>
      let act := h.active g
      let xs := laneOk (s.laneAll h g a sp true n)
      let s := (s.settleLate h o true xs).keepPriv h.g.id sp xs
      let off := s.putsOff h o sp false act
      let (s, olds) := if off then (s, []) else atomicLanes op t h b c s xs
      let s := s.onArch h.g.id fun r =>
        r.raise (h.p.counter (.ka false))
          { path := pathOf sp, dests := if ret then regsFrom .v d.toNat t.regs else [],
            late := if off then
              xs.map fun e => .rmw e.1 d.toNat ret op t (h.a.lane b.toNat t.regs e.1) (h.a.lane c.toNat t.regs e.1) e.2.runs else []
            data := if ret then olds.flatMap fun e => loadWords d.toNat n false e.1 (toBytes n e.2) else [],
            acq := acquires o act, lanes := h.p.m, done := act == 0 }
      s.countPasses h sp (atomicPasses (xs.map fun e => h.offset a e.1) n) }

/-! ### The instructions -/

/-- `ld.S.n8` (R196, R197). -/
def execLdN8 (g : Guard) (d a : VReg) (o : MemOrder) (sc : Scope) (sp : Space) (s : State) : Host.Outcome State Fault Refusal :=
  run (.ldN8 g d a o sc sp) (loadPlan g d a 1 false o sp) s

/-- `ld.S.i8` (R196, R197). -/
def execLdI8 (g : Guard) (d a : VReg) (o : MemOrder) (sc : Scope) (sp : Space) (s : State) : Host.Outcome State Fault Refusal :=
  run (.ldI8 g d a o sc sp) (loadPlan g d a 1 true o sp) s

/-- `ld.S.n16` (R196, R197). -/
def execLdN16 (g : Guard) (d a : VReg) (o : MemOrder) (sc : Scope) (sp : Space) (s : State) : Host.Outcome State Fault Refusal :=
  run (.ldN16 g d a o sc sp) (loadPlan g d a 2 false o sp) s

/-- `ld.S.i16` (R196, R197). -/
def execLdI16 (g : Guard) (d a : VReg) (o : MemOrder) (sc : Scope) (sp : Space) (s : State) : Host.Outcome State Fault Refusal :=
  run (.ldI16 g d a o sc sp) (loadPlan g d a 2 true o sp) s

/-- `ld.S.b32` (R196, R197). -/
def execLdB32 (g : Guard) (d a : VReg) (o : MemOrder) (sc : Scope) (sp : Space) (s : State) : Host.Outcome State Fault Refusal :=
  run (.ldB32 g d a o sc sp) (loadPlan g d a 4 false o sp) s

/-- `ld.S.b64` (R196, R197). -/
def execLdB64 (g : Guard) (d a : VReg) (o : MemOrder) (sc : Scope) (sp : Space) (s : State) : Host.Outcome State Fault Refusal :=
  run (.ldB64 g d a o sc sp) (loadPlan g d a 8 false o sp) s

/-- `ld.S.b128` (R196, R197). -/
def execLdB128 (g : Guard) (d a : VReg) (o : MemOrder) (sc : Scope) (sp : Space) (s : State) : Host.Outcome State Fault Refusal :=
  run (.ldB128 g d a o sc sp) (loadPlan g d a 16 false o sp) s

/-- `st.S.b8` (R196, R197). -/
def execStB8 (g : Guard) (d a : VReg) (o : MemOrder) (sc : Scope) (sp : Space) (s : State) : Host.Outcome State Fault Refusal :=
  run (.stB8 g d a o sc sp) (storePlan g d a 1 o sp) s

/-- `st.S.b16` (R196, R197). -/
def execStB16 (g : Guard) (d a : VReg) (o : MemOrder) (sc : Scope) (sp : Space) (s : State) : Host.Outcome State Fault Refusal :=
  run (.stB16 g d a o sc sp) (storePlan g d a 2 o sp) s

/-- `st.S.b32` (R196, R197). -/
def execStB32 (g : Guard) (d a : VReg) (o : MemOrder) (sc : Scope) (sp : Space) (s : State) : Host.Outcome State Fault Refusal :=
  run (.stB32 g d a o sc sp) (storePlan g d a 4 o sp) s

/-- `st.S.b64` (R196, R197). -/
def execStB64 (g : Guard) (d a : VReg) (o : MemOrder) (sc : Scope) (sp : Space) (s : State) : Host.Outcome State Fault Refusal :=
  run (.stB64 g d a o sc sp) (storePlan g d a 8 o sp) s

/-- `st.S.b128` (R196, R197). -/
def execStB128 (g : Guard) (d a : VReg) (o : MemOrder) (sc : Scope) (sp : Space) (s : State) : Host.Outcome State Fault Refusal :=
  run (.stB128 g d a o sc sp) (storePlan g d a 16 o sp) s

/-- `atm.S.add.t` (R200). -/
def execAtmAdd (g : Guard) (d a b : VReg) (t : Ty) (o : MemOrder) (sc : Scope) (sp : Space) (ret : Bool) (s : State) :
    Host.Outcome State Fault Refusal :=
  run (.atmAdd g d a b t o sc sp ret) (atomicPlan .add g d a b 0 t o sp ret) s

/-- `atm.S.min.t` (R200). -/
def execAtmMin (g : Guard) (d a b : VReg) (t : Ty) (o : MemOrder) (sc : Scope) (sp : Space) (ret : Bool) (s : State) :
    Host.Outcome State Fault Refusal :=
  run (.atmMin g d a b t o sc sp ret) (atomicPlan .min g d a b 0 t o sp ret) s

/-- `atm.S.max.t` (R200). -/
def execAtmMax (g : Guard) (d a b : VReg) (t : Ty) (o : MemOrder) (sc : Scope) (sp : Space) (ret : Bool) (s : State) :
    Host.Outcome State Fault Refusal :=
  run (.atmMax g d a b t o sc sp ret) (atomicPlan .max g d a b 0 t o sp ret) s

/-- `atm.S.and.t` (R200). -/
def execAtmAnd (g : Guard) (d a b : VReg) (t : Ty) (o : MemOrder) (sc : Scope) (sp : Space) (ret : Bool) (s : State) :
    Host.Outcome State Fault Refusal :=
  run (.atmAnd g d a b t o sc sp ret) (atomicPlan .and g d a b 0 t o sp ret) s

/-- `atm.S.or.t` (R200). -/
def execAtmOr (g : Guard) (d a b : VReg) (t : Ty) (o : MemOrder) (sc : Scope) (sp : Space) (ret : Bool) (s : State) :
    Host.Outcome State Fault Refusal :=
  run (.atmOr g d a b t o sc sp ret) (atomicPlan .or g d a b 0 t o sp ret) s

/-- `atm.S.xor.t` (R200). -/
def execAtmXor (g : Guard) (d a b : VReg) (t : Ty) (o : MemOrder) (sc : Scope) (sp : Space) (ret : Bool) (s : State) :
    Host.Outcome State Fault Refusal :=
  run (.atmXor g d a b t o sc sp ret) (atomicPlan .xor g d a b 0 t o sp ret) s

/-- `atm.S.xchg.t` (R200). -/
def execAtmXchg (g : Guard) (d a b : VReg) (t : Ty) (o : MemOrder) (sc : Scope) (sp : Space) (ret : Bool) (s : State) :
    Host.Outcome State Fault Refusal :=
  run (.atmXchg g d a b t o sc sp ret) (atomicPlan .xchg g d a b 0 t o sp ret) s

/-- `atm.S.cas.t` (R200). -/
def execAtmCas (g : Guard) (d a b c : VReg) (t : Ty) (o : MemOrder) (sc : Scope) (sp : Space) (ret : Bool) (s : State) :
    Host.Outcome State Fault Refusal :=
  run (.atmCas g d a b c t o sc sp ret) (atomicPlan .cas g d a b c t o sp ret) s

end Sys2Proof.Machine
end

