-- ==== Sys2Proof/Machine/Barrier.lean ====
section
/-!
DEFINITION. Barriers and watches (R287-R293, R301-R303, R440): named team barriers, grid and cluster barrier slots, cairns,
and what a group's exit does to them.
-/
namespace Sys2Proof.Machine

/-! ### Live groups -/

/-- The groups of a team that have not exited. -/
def State.liveGroups (s : State) (team : Nat) : List Group := (s.teamGroups team).filter fun g => !g.exited

/-- The word at a path's PC, for the record of a fault that an event reveals at it (R290). -/
def Path.iword (p : Path) : Word := p.rest.headD 0

/-- The paths that a group's slots hold, slot 0 first. -/
def Arch.paths (a : Arch) : List (Bool × Path) :=
  (a.path0.toList.map fun p => (false, p)) ++ (a.path1.toList.map fun p => (true, p))

/-- The paths that wait on a group's split stack, spilled or not. -/
def Arch.waits (a : Arch) : List Path :=
  (a.stack.filterMap fun q => match q with | .wait p _ => some p | _ => none) ++ a.kept.map (·.2)

/-! ### Which barrier a path is parked at (R289, R301) -/

/-- What must agree for the paths of one group: the kind, the number, the COUNT, and for slots the form. -/
def Park.barKey (p : Park) : Option (BarKind × Nat × Nat × Bool) :=
  match p with
  | .bar k n c hold _ _ => some (k, n, c, if k = .named then false else hold)
  | _ => none

def Path.barKey (p : Path) : Option (BarKind × Nat × Nat × Bool) := p.park.bind Park.barKey

/-- Whether a parked path's arrival has been made. -/
def Path.arrived (p : Path) : Bool := match p.park with | some (.bar _ _ _ _ a _) => a | _ => false

/-- The barrier that a group arrives at: every live lane lies in a path parked there, in a slot or on the split stack (R265), and one of
them is new (R289, R440). -/
def Group.arrivesAt (g : Group) : Option (BarKind × Nat × Nat × Bool) :=
  let ps := g.arch.paths.map (·.2) ++ g.arch.waits
  match ps with
  | [] => none
  | p :: _ =>
    if ps.all (fun q => q.barKey.isSome && q.barKey == p.barKey) && (ps.map (·.m)).foldl (· ||| ·) 0 == g.arch.lm
        && ps.any (fun q => !q.arrived) then p.barKey
    else none

/-- BARRIER-COUNT at a path that parks while another of its group is parked at another barrier (R289, R301). -/
def Here.barMismatch (h : Here) (key : BarKind × Nat × Nat × Bool) : Bool :=
  ((h.a.path (!h.slot)).toList ++ h.a.waits).any fun p => p.barKey.any (· != key)

/-! ### Named barriers (R287-R290) -/

/-- The count that a generation waits for: all live groups for b0. -/
def NamedBar.expected (b : NamedBar) (n live : Nat) : Nat := if n = 0 then live else b.count

/-- Parked paths of a team, released or marked. -/
def State.onTeamPaths (s : State) (team : Nat) (f : Group → Path → Path) : State :=
  { s with groups := mapIf s.groups (·.team == team) fun (g : Group) => { g with arch := g.arch.onPaths (f g) } }

/-- The paths (group and slot) of a team that satisfy a test. -/
def State.teamPaths (s : State) (team : Nat) (p : Group → Path → Bool) : List (Nat × Bool) :=
  (s.teamGroups team).flatMap fun g => (g.arch.paths.filter fun e => p g e.2).map fun e => (g.id, e.1)

/-- Parked paths go on behind their instruction. -/
def State.retireAll (s : State) (l : List (Nat × Bool)) : State := l.foldl (fun (st : State) e => st.retireParked e.1 e.2) s

/-- One named barrier of a team replaced. -/
def State.onBar (s : State) (team n : Nat) (f : NamedBar → NamedBar) : State :=
  s.onTeam team fun t => { t with bars := t.bars.mapIdx fun i b => if i = n then f b else b }

def Team.bar (t : Team) (n : Nat) : NamedBar := t.bars.getD n ⟨0, 0, 0, [], []⟩

/-- Paths of a team that satisfy a test and wait on the split stack. -/
def Arch.waitsThat (a : Arch) (p : Path → Bool) : Nat :=
  (a.stack.filter fun q => match q with | .wait x _ => p x | _ => false).length + (a.kept.filter fun e => p e.2).length

/-- They stand behind their instruction. -/
def Arch.retireWaits (a : Arch) (p : Path → Bool) : Arch :=
  let f (x : Path) : Path := if p x then x.advance 1 else x
  { a with
    stack := a.stack.map fun q => match q with | .wait x d => .wait (f x) d | q => q
    kept := a.kept.map fun e => (e.1, f e.2) }

/-- Every path of a team that satisfies a test goes on behind its instruction, those that wait on a split stack too. -/
def State.retireWhere (s : State) (team : Nat) (p : Group → Path → Bool) : State :=
  let s := s.retireAll (s.teamPaths team p)
  (s.teamGroups team).foldl
    (fun (st : State) g =>
      let k := g.arch.waitsThat (p g)
      if k = 0 then st
      else ((st.onArch g.id fun a => a.retireWaits (p g)).onTeam team fun t => { t with ret := satCount (t.ret + k) }).perfGroup g 2 k)
    s

/-- A group's new arrival at a named barrier marked on its paths: pass paths go on, hold paths wait for the generation. -/
def State.markArrival (s : State) (g : Group) (n gen : Nat) : State :=
  let s := s.onArch g.id fun a => a.onPaths fun p =>
    match p.park with
    | some (.bar .named m c hold false _) => if m = n then { p with park := some (.bar .named m c hold true gen) } else p
    | _ => p
  s.retireWhere g.team fun q p =>
    q.id == g.id && (match p.park with | some (.bar .named m _ false true _) => m == n | _ => false)

/-- COMPLETE (R289): the next generation opens, and the paths that the generation held go on. RET falls to 0 where a path, or a group's held
arrival, waited for it (R299). -/
def State.completeBar (s : State) (team n : Nat) (b : NamedBar) : State :=
  let s := s.onBar team n fun b => { b with gen := b.gen + 1, arr := 0, who := [] }
  let waits (_ : Group) (p : Path) : Bool :=
    match p.park with
    | some (.bar .named m _ true true gen) => m == n && gen == b.gen
    | _ => false
  if b.held != [] || (s.teamGroups team).any fun g => (g.arch.paths.any fun e => waits g e.2) || g.arch.waitsThat (waits g) != 0 then
    (s.clearRet team).retireWhere team waits
  else s

/-- An arrival of a group counts in the barrier's generation, or is at fault (R289, R290): its COUNT is not the generation's, or is
above the number of live groups. -/
def State.countArrival (s : State) (g : Group) (n count : Nat) : State :=
  match s.team? g.team with
  | none => s
  | some t =>
    let b := t.bar n
    let fail (k : FaultKind) : State :=
      match (g.arch.paths.find? fun e => !e.2.arrived) <|> g.arch.paths.head? with
      | some (slot, p) => s.raise g slot p.pc p.iword { kind := k, addr := BitVec.ofNat 64 n }
      | none => s
    if 0 < b.arr && count != b.count then fail .barrierCount
    else if (s.liveGroups g.team).length < count then fail .barrierDeadlock
    else (s.onBar g.team n fun b => { b with arr := b.arr + 1, count := count, who := b.who ++ [g.gidx] }).markArrival g n b.gen

/-- What an arrival brings about: a generation with enough arrivals completes, and arrivals that were held for the next one then count
in it, in their order (R289). -/
def State.settleBar (s : State) (team n : Nat) : Nat → State
  | 0 => s
  | k + 1 =>
    match s.team? team with
    | none => s
    | some t =>
      let b := t.bar n
      if t.st = .killed then s
      else if 0 < b.arr && b.expected n (s.liveGroups team).length ≤ b.arr then State.settleBar (s.completeBar team n b) team n k
      else
        match b.held.find? fun e => !b.who.contains e.1 with
        | none => s
        | some (i, c) =>
          let s := s.onBar team n fun b => { b with held := b.held.filter fun e => e.1 != i }
          match (s.liveGroups team).find? (·.gidx == i) with
          | some g => State.settleBar (s.countArrival g n c) team n k
          | none => State.settleBar s team n k

/-- The steps that this takes at most: for each live group its arrival, and a generation. -/
def State.barSteps (s : State) (team : Nat) : Nat := 2 * (s.liveGroups team).length + 3

/-- Every live group of a team is parked at named barriers, with no arrival still to be made (R290). The barrier that the record names
is that of the first live group's first path (DESIGN CHOICE: assumption 101). -/
def State.barDeadlock (s : State) (team : Nat) : Option Nat :=
  let gs := s.liveGroups team
  let stuck (g : Group) : Bool :=
    g.arch.paths != [] && g.arch.paths.all (fun e => match e.2.park with | some (.bar .named ..) => true | _ => false)
      && !(g.arrivesAt.isSome && !(((s.team? team).map fun t => t.bars.any fun b => b.held.any fun e => e.1 == g.gidx).getD false))
  if gs != [] && gs.all stuck then
    (gs.head?.bind fun g => g.arch.paths.head?).bind fun e => match e.2.park with | some (.bar _ n _ _ _ _) => some n | _ => none
  else none

/-- A group arrives at a named barrier (R289): its arrival counts, or is held where it has arrived in this generation before. -/
def State.arriveNamed (s : State) (g : Group) (n count : Nat) : State :=
  match s.team? g.team with
  | none => s
  | some t =>
    let s :=
      if (t.bar n).who.contains g.gidx then s.onBar g.team n fun b => { b with held := b.held ++ [(g.gidx, count)] }
      else (s.countArrival g n count).settleBar g.team n (s.barSteps g.team)
    match s.barDeadlock g.team, (g.arch.paths.find? fun e => !e.2.arrived) <|> g.arch.paths.head? with
    | some m, some (slot, p) => s.raise g slot p.pc p.iword { kind := .barrierDeadlock, addr := BitVec.ofNat 64 m }
    | _, _ => s

/-- What a path that leaves its slot reveals of those that are left: every live group parked at named barriers (R290), whose record names
`pc` and `iword`; or the group fault-parked (R333). -/
def State.leftSlot (s : State) (g : Group) (slot : Bool) (pc : DWord) (iword : Word) : State :=
  match if s.view.isSome then none else s.barDeadlock g.team with
  | some m => s.raise g slot pc iword { kind := .barrierDeadlock, addr := BitVec.ofNat 64 m }
  | none => s.parkTest g.id

/-! ### Grid and cluster slots (R301-R303) -/

/-- The cluster whose generation a team's arrival counts in: one for the whole grid at a grid barrier. -/
def clusterKey (k : BarKind) (t : Team) : Nat := if k = .cluster then t.cluster else 0

/-- A slot's generation record: ARMED at generation 0 before its first arrival. -/
def BarSlot.gen (b : BarSlot) (cluster : Nat) : SlotGen :=
  (b.gens.find? (·.cluster == cluster)).getD ⟨cluster, .armed, 0, 0, 0⟩

def BarSlot.setGen (b : BarSlot) (x : SlotGen) : BarSlot :=
  { b with gens := b.gens.filter (·.cluster != x.cluster) ++ [x] }

/-- The expected count E of a slot for a team (R302). -/
def State.slotExpected (s : State) (g : Grid) (k : BarKind) (t : Team) : Nat :=
  if k = .cluster then s.clusterExpected g t.cluster else g.expected

/-- An arrival for generation G in a slot (R303). -/
def SlotGen.arrive (x : SlotGen) (e : Nat) : SlotGen :=
  let x := { x with arr := x.arr + 1 }
  if e ≤ x.arr then { x with st := .releasing } else { x with st := .filling }

/-! ### What an exit does to barriers, watches, blocks and the rope (R227, R242, R273, R290, R291) -/

/-- Blocks join the pool of a quadrant. -/
def Team.givePool (t : Team) (quad n : Nat) : Team := { t with pools := t.pools.mapIdx fun i k => if i = quad then k + n else k }

/-- An exit lowers the expected count of b0, where only live groups' arrivals count (R290). -/
def State.exitBars (s : State) (team gidx : Nat) : State :=
  let s := s.onBar team 0 fun b =>
    { b with arr := (b.who.filter (· != gidx)).length, who := b.who.filter (· != gidx), held := b.held.filter fun e => e.1 != gidx }
  s.settleBar team 0 (s.barSteps team)

/-- The barrier that an exit leaves out of reach (R290). -/
def State.exitDeadlock (s : State) (team : Nat) : Option Nat :=
  match s.team? team with
  | none => none
  | some t =>
    let live := (s.liveGroups team).length
    match (List.range t.bars.length).find? fun n => n != 0 && 0 < (t.bar n).arr && live < (t.bar n).count with
    | some n => if live = 0 then none else some n
    | none => s.barDeadlock team

/-- A group becomes EXITED (R273): rope, blocks and cairn are released, and the team's barriers are tested again. -/
def State.groupExits (s : State) (h : Here) (i : Instr) : State :=
  let s := s.onGroup h.g.id fun g =>
    { g with exited := true, cairn := none, detector := none, conts := []
             arch := { g.arch with path0 := none, path1 := none, stack := [], spilled := 0, kept := [] } }
  let s := s.onTeam h.t.id fun t => t.givePool (h.g.slot / 16) h.a.blocks
  let s := s.onCore h.t.die h.t.site fun c =>
    { c with mx := { c.mx with rope := if c.mx.rope = some h.g.id then none else c.mx.rope } }
  let s := s.exitBars h.t.id h.g.gidx
  match s.exitDeadlock h.t.id with
  | some n => s.raise h.g h.slot h.p.pc i.first { kind := .barrierDeadlock, addr := BitVec.ofNat 64 n }
  | none => s

/-! ### The instructions -/

/-- A barrier instruction parks its path; the group's arrival is an event of its own (R289, R301). Where that leaves every live group
of the team parked at named barriers, the team faults (R290). -/
def barPlan (src : List Use) (late : State → Here → Option Report) (key : Here → BarKind × Nat × Nat) (hold : Bool) : Plan :=
  { uses := src
    late := fun s h =>
      let k := key h
      late s h <|> (if h.barMismatch (k.1, k.2.1, k.2.2, if k.1 = .named then false else hold) then
        some { kind := .barrierCount, addr := BitVec.ofNat 64 k.2.1 } else none)
    hold := fun _ h =>
      let k := key h
      some fun s =>
        let s := s.park h.g.id h.slot (some (.bar k.1 k.2.1 k.2.2 hold false 0))
        match s.barDeadlock h.t.id with
        | some m => s.raise h.g h.slot h.p.pc h.p.iword { kind := .barrierDeadlock, addr := BitVec.ofNat 64 m }
        | none => s
    act := fun _ s => s }

/-- `tbar` (R288-R290): BOUNDS for a barrier that the team does not have; a COUNT above the live groups can never be
reached. -/
def tbarPlan (c : BitVec 6) (n : BitVec 4) (hold : Bool) : Plan :=
  let p := barPlan [] (fun _ h =>
    if h.t.bars.length ≤ n.toNat then some { kind := .bounds, addr := BitVec.ofNat 64 n.toNat } else none)
    (fun _ => (.named, n.toNat, c.toNat)) hold
  { p with
    late := fun s h =>
      p.late s h <|> (if (s.liveGroups h.t.id).length < c.toNat then
        some { kind := .barrierDeadlock, addr := BitVec.ofNat 64 n.toNat } else none) }

/-- `tbar.pass` (R288, R289). -/
def execTbarPass (c : BitVec 6) (n : BitVec 4) (s : State) : Host.Outcome State Fault Refusal :=
  run (.tbarPass c n) (tbarPlan c n false) s

/-- `tbar.hold` (R288, R289). -/
def execTbarHold (c : BitVec 6) (n : BitVec 4) (s : State) : Host.Outcome State Fault Refusal :=
  run (.tbarHold c n) (tbarPlan c n true) s

/-- The slots of a grid's barriers (R301): an index outside them faults BOUNDS. -/
def slotPlan (k : BarKind) (a : SReg) (hold : Bool) : Plan :=
  barPlan (srcS a)
    (fun s h =>
      let j := (h.a.getS a.toNat).toNat
      if ((s.grid? h.t.grid).map (·.desc.gbar)).getD 0 ≤ j then some { kind := .bounds, addr := BitVec.ofNat 64 j } else none)
    (fun h => (k, (h.a.getS a.toNat).toNat, 0)) hold

/-- `gbar.hold` (R301). -/
def execGbarHold (a : SReg) (s : State) : Host.Outcome State Fault Refusal := run (.gbarHold a) (slotPlan .grid a true) s
/-- `gbar.pass` (R301). -/
def execGbarPass (a : SReg) (s : State) : Host.Outcome State Fault Refusal := run (.gbarPass a) (slotPlan .grid a false) s
/-- `cbar.hold` (R301). -/
def execCbarHold (a : SReg) (s : State) : Host.Outcome State Fault Refusal := run (.cbarHold a) (slotPlan .cluster a true) s
/-- `cbar.pass` (R301). -/
def execCbarPass (a : SReg) (s : State) : Host.Outcome State Fault Refusal := run (.cbarPass a) (slotPlan .cluster a false) s

/-- The space that a watch names, where it can be watched (R292). -/
def WatchSpace.space (w : WatchSpace) : Option Space := match w with | .t => some .team | .d => some .die | _ => none

/-- The key of a watched word (R121, R125). -/
def State.watchKey (s : State) (t : Team) (w : WatchSpace) (off : Nat) : Option Nat :=
  match WatchSpace.space w with
  | some .team => teamMemKey t off 8
  | some .die => s.dieKey t off 8
  | _ => none

/-- `watch` (R291, R292): the group's cairn names the word, not fired. -/
def execWatch (a : SReg) (sp : WatchSpace) (s : State) : Host.Outcome State Fault Refusal :=
  run (.watch a sp)
    { uses := srcS a
      late := fun s h =>
        let o := (h.a.getS a.toNat).toNat
        let addr := BitVec.ofNat 64 o
        if (WatchSpace.space sp).isNone then some { kind := .watchSpace, addr := addr }
        else if o % 8 != 0 then some { kind := .align, addr := addr }
        else
          (if sp = .d then recordLost (s.windowLoss h.t o) o else none)
            <|> if (s.watchKey h.t sp o).isNone then some { kind := .bounds, addr := addr } else none
      act := fun h s =>
        let o := (h.a.getS a.toNat).toNat
        s.onGroup h.g.id fun g =>
          { g with cairn := some ⟨(WatchSpace.space sp).getD .team, o, (s.watchKey h.t sp o).getD 0, false⟩ } } s

/-- `unwatch` (R292). -/
def execUnwatch (a : SReg) (s : State) : Host.Outcome State Fault Refusal :=
  run (.unwatch a)
    { uses := srcS a
      act := fun h s =>
        s.onGroup h.g.id fun g => { g with cairn := g.cairn.filter fun c => c.off != (h.a.getS a.toNat).toNat } } s

/-- `wait.w` (R292): it goes on at once without a cairn on the word, or with FIRED set, which it clears. -/
def execWaitW (a : SReg) (s : State) : Host.Outcome State Fault Refusal :=
  run (.waitW a)
    { uses := srcS a
      hold := fun _ h =>
        let o := (h.a.getS a.toNat).toNat
        if h.g.cairn.any fun c => c.off == o && !c.fired then
          some fun s => s.park h.g.id h.slot (some (.cairn o))
        else none
      act := fun h s =>
        s.onGroup h.g.id fun g =>
          { g with cairn := g.cairn.map fun c => if c.off = (h.a.getS a.toNat).toNat then { c with fired := false } else c } } s

end Sys2Proof.Machine
end

