-- ==== Sys2Proof/Machine/Fetch.lean ====
section
/-!
DEFINITION. Fetching code (R68, R84-R86): words through translation, clause headers, and the checks that a transfer makes
of its target; and the idle-loop detector at a backward branch (R294).
-/
namespace Sys2Proof.Machine

/-! ### Headers (R84) -/

/-- A clause header is a uniform word with OPC 0x3F. -/
def isHeader (w : Word) : Bool := fld w 25 7 == 0x7F

/-- KA or KB 12 to 14 is reserved. -/
def badHeader (w : Word) : Bool :=
  let bad (k : BitVec 4) : Bool := k == 12 || k == 13 || k == 14
  bad (fld w 9 4) || bad (fld w 5 4)

/-- Whether the counters that WAIT names are all zero (R86). -/
def Arch.waitMet (a : Arch) (m : BitVec 12) : Bool := (List.range 12).all fun j => !m.getLsbD j || a.getK j == 0

/-- ClearProven(j, 0) for each counter that WAIT names (R138). -/
def Arch.clearWait (a : Arch) (m : BitVec 12) : Arch :=
  (List.range 12).foldl (fun (b : Arch) j => if m.getLsbD j then b.clearProven j 0 else b) a

/-! ### Fetching words (R68) -/

/-- The walker of a core's fetches (R370). -/
def State.fetchWalker (s : State) (t : Team) : Walker := ⟨some t.die, some (.fetch t.site), s.gridCtx t.grid, []⟩

/-- The code word at an address, for a team. A word of a lost granule is an UNCORRECTABLE of its page's class (R375). -/
def State.fetchWord (s : State) (t : Team) (va : Nat) : Except XFault Word :=
  match s.access (s.fetchWalker t) .fetch va 4 with
  | .error f => .error f
  | .ok x => if s.isLost x.1 4 then .error (.uncorrectable x.2 x.1) else .ok (BitVec.ofNat 32 (s.readLE x.1 4))

/-- Whether the fetch of a clause waits for a stack in training, at its header or at its last word (R379). -/
def State.clauseHeld (s : State) (t : Team) (a : DWord) : Bool :=
  !(fld a 0 2 != 0 || fld a 52 12 != 0) &&
    (s.held (s.fetchWalker t) a.toNat ||
      match s.fetchWord t a.toNat with
      | .ok w => isHeader w && s.held (s.fetchWalker t) (a.toNat + 4 * ((fld w 0 5).toNat + 1))
      | .error _ => false)

/-- The n words from an address on; the address of the first that cannot be fetched comes with its fault. -/
def State.fetchWords (s : State) (t : Team) (va : Nat) : Nat → Except (XFault × Nat) (List Word)
  | 0 => .ok []
  | n + 1 =>
    match s.fetchWord t va with
    | .error f => .error (f, va)
    | .ok w =>
      match State.fetchWords s t (va + 4) n with
      | .error e => .error e
      | .ok ws => .ok (w :: ws)

/-! ### Transfers (R81, R85) -/

/-- A target named by a word displacement. -/
def branchTarget (pc : DWord) (disp : BitVec 16) : DWord := pc + 4 * disp.signExtend 64

/-- A target that cannot be a header's address (R271). -/
def badTarget (a : DWord) : Bool := fld a 0 2 != 0 || fld a 52 12 != 0

/-- BRANCH-TARGET at a transfer: the target's page is present and holds no header there (R85). Where the page cannot be
fetched, the transfer takes effect and the clause entry faults (R68). -/
def State.targetFault (s : State) (t : Team) (a : DWord) (addr : DWord := 0) : Option Report :=
  if badTarget a then some { kind := .branchTarget, addr := addr }
  else
    match s.fetchWord t a.toNat with
    | .ok w => if isHeader w then none else some { kind := .branchTarget, addr := addr }
    | .error _ => none

/-- The path goes to a transfer's target. -/
def State.goto (s : State) (grp : Nat) (slot : Bool) (a : DWord) (e : Entry := .target) : State :=
  s.onPath grp slot fun p => { p with pc := a, entry := e }

/-! ### The idle-loop detector at B (R294) -/

/-- The signature of the iteration that ends at B. -/
def Arch.signature (a : Arch) (d : Detector) (p : Path) : List Nat :=
  let regs := d.wrote.flatMap fun r =>
    match r.file with
    | .v => (1000 + r.num) :: (List.range 32).map fun l => (a.getV r.num l).toNat
    | .s => [2000 + r.num, (a.getS r.num).toNat]
    | .p => [3000 + r.num, (a.getP r.num).toNat]
  (d.loads.flatMap fun e => [e.1, e.2]) ++ regs ++ [p.m.toNat, p.em.toNat, p.fmt.toNat] ++ (List.range 12).map a.getK

/-- The detector at a later issue of B: it disarms, counts on, or is due to recognise. -/
def Detector.atB (d : Detector) (sig : List Nat) (taken : Bool) : Option Detector :=
  if !d.ok || !taken then none
  else
    let n := if 0 < d.n && sig == d.prev then d.n + 1 else 1
    if n = d.spint then some { d with n := n, prev := sig, due := true }
    else some { d with n := n, prev := sig, ok := true, loads := [], lines := [], wrote := [], hit := false }

/-- A taken backward branch arms a detector that is disarmed, if its loop has at most 32 words. -/
def Detector.armed (pc t stop : DWord) (spint : Nat) : Option Detector :=
  if t < pc && stop.toNat - t.toNat ≤ 128 then
    some { b := pc, t := t, stop := stop, n := 0, ok := true, loads := [], lines := [], wrote := [], prev := [], hit := false,
           spint := spint, due := false }
  else none

/-- What a `bra` or `brd` that splits nothing does to the detector of its group. -/
def State.spinAt (s : State) (h : Here) (i : Instr) (taken : Bool) (t : DWord) : State :=
  if s.view.isSome then s
  else
    s.onGroup h.g.id fun g =>
      { g with
        detector :=
          match g.detector with
          | some d =>
            if d.b = h.p.pc then d.atB (g.arch.signature d h.p) taken else some d
          | none => if taken && g.single then Detector.armed h.p.pc t (h.p.pc + BitVec.ofNat 64 (4 * i.size)) (s.spint (s.gridCtx h.t.grid)) else none }

end Sys2Proof.Machine
end

