-- ==== Sys2Proof/Machine/MatrixArith.lean ====
section
/-!
DEFINITION. The matrix formats and their arithmetic (R36-R52, R61-R67, R222, R223): elements and scales as packed bytes,
block sums, accumulation into a row, and the conversions of a drain (R240).
-/
namespace Sys2Proof.Machine

/-! ### Format codes (R36) -/

/-- Bits of an element of a format code. -/
def fmtBits (c : Nat) : Nat := ([32, 16, 16, 8, 8, 8, 8, 4, 6, 8] : List Nat).getD c 0

/-- Bytes of a block's scale; 0 where the format has none. -/
def fmtScale (c : Nat) : Nat := ([0, 0, 0, 0, 0, 1, 1, 1, 3, 0] : List Nat).getD c 0

/-- The K depth of a tile (R25). -/
def fmtDepth (c : Nat) : Nat := ([64, 128, 128, 256, 256, 256, 256, 512, 512, 256] : List Nat).getD c 0

/-- The classes of R62; both formats of a pair are of one class. -/
def fmtClass (c : Nat) : Nat := ([0, 1, 1, 2, 2, 3, 3, 3, 4, 5] : List Nat).getD c 6

/-- A supported pair of ATYP and BTYP (R62). -/
def pairFmts (a b : Nat) : Bool := a ≤ 9 && b ≤ 9 && fmtClass a == fmtClass b

/-- Element and scale bytes of a tile (R25). -/
def tileBytes (c : Nat) : Nat := 128 * fmtDepth c * fmtBits c / 8
def tileScaleBytes (c : Nat) : Nat := 128 * (fmtDepth c / 32) * fmtScale c

/-- Bytes of an activation vector and of its scales (R223). -/
def vectorBytes (a b : Nat) : Nat := fmtDepth a * fmtBits b / 8
def vectorScaleBytes (a b : Nat) : Nat := fmtDepth a / 32 * fmtScale b

/-- The length of a block in K (R63). -/
def blockLen (a : Nat) : Nat := if a = 0 then 4 else 32

/-! ### Elements and scales (R42-R52) -/

/-- Element i of elements of `bits` bits packed in little-endian bytes (R46, R51). -/
def elementAt (byte : Nat → Byte) (bits i : Nat) : Nat :=
  let lo := i * bits / 8
  let n := (i * bits % 8 + bits + 7) / 8
  ofBytes ((List.range n).map fun j => byte (lo + j)) / 2 ^ (i * bits % 8) % 2 ^ bits

/-- E2M1 (R45); it has neither infinity nor NaN. -/
def Fmt.e2m1 : Fmt := ⟨1, 2, 1, 7, none, 0⟩

/-- The format of a floating-point format code. -/
def fmtOf (c : Nat) : Fmt :=
  match c with
  | 1 => .bf16 | 2 => .f16 | 3 | 5 => .e4m3 | 4 | 6 => .e5m2 | 7 => Fmt.e2m1 | _ => .f32

/-- The scale E8M0 (R44). -/
def e8m0 (x : Nat) : Num := if x = 255 then .nan else .exact false 1 ((x : Int) - 127)

/-- L of an L6 code (R48), as an integer. -/
def l6L (x : Nat) : Int := sext x 5

/-- The table T of R49. -/
def l6T (k : Nat) : Nat := ([1024, 1218, 1448, 1722] : List Nat).getD k 0

/-- T[q mod 4] × 2^floor(q/4), in units of 2^-18 for a product of two elements and of 2^-14 for an element; `up` is the
place of 2^0 (R49, R64). -/
def l6Mag (q : Int) (up : Int) : Nat := l6T (q % 4).toNat * 2 ^ (q / 4 + up).toNat

/-- A finite scale S24 as a number of units and their exponent (R50). -/
def s24 (x : Nat) : Num := .exact false (65536 + x % 65536) ((x / 65536 : Nat) - 143)

/-! ### Block sums (R63-R66) -/

/-- The sum of a block's exact products; an exact zero is +0 (R66). -/
def blockSum (a b : Nat) (xs : List (Nat × Nat)) : Num :=
  xs.foldl (fun (acc : Num) x => acc.add .rne (((fmtOf a).value x.1).mul ((fmtOf b).value x.2))) (.zero false)

/-- The integer sum of an INT8 block (R65). -/
def intSum (xs : List (Nat × Nat)) : Int := xs.foldl (fun (acc : Int) x => acc + sext x.1 8 * sext x.2 8) 0

/-- The fixed-point sum of an L6 block, in units of 2^-18 (R64). -/
def l6Sum (xs : List (Nat × Nat)) : Int :=
  xs.foldl
    (fun (acc : Int) x =>
      if x.1 = 0x10 || x.2 = 0x10 then acc
      else
        let m : Int := l6Mag (l6L x.1 + l6L x.2) 8
        if (x.1 / 32 + x.2 / 32) % 2 = 1 then acc - m else acc + m)
    0

/-- An L6 block's value with its scales (R52, R64). -/
def l6Block (xs : List (Nat × Nat)) (sa sb : Nat) : Num :=
  if xs.any (fun x => x.1 == 0x30 || x.2 == 0x30) || sa / 65536 == 255 || sb / 65536 == 255 then .nan
  else if sa / 65536 == 0 || sb / 65536 == 0 then .zero false
  else
    let v := l6Sum xs
    (Num.exact (v < 0) v.natAbs (-18)).mul ((s24 sa).mul (s24 sb))

/-- A block added to an accumulator's bits (R63-R66). -/
def addBlock (a b : Nat) (acc : Word) (xs : List (Nat × Nat)) (sa sb : Nat) : Word :=
  if a = 9 then BitVec.ofInt 32 (Ty.i32.sat (acc.toInt + intSum xs))
  else
    let sum : Num :=
      if a = 8 then l6Block xs sa sb
      else if fmtScale a = 0 then blockSum a b xs
      else ((blockSum a b xs).mul (e8m0 sa)).mul (e8m0 sb)
    let s32 := Fmt.f32.round .rne 0 sum
    BitVec.ofNat 32 (Fmt.f32.round .rne 0 ((Fmt.f32.value acc.toNat).add .rne (Fmt.f32.value s32)))

/-- One column of one step (R236): the blocks of the plane's column and the activation vector in increasing K (R67). -/
def stepColumn (a b : Nat) (elem scale vec vscale : Nat → Byte) (n : Nat) (acc : Word) : Word :=
  let kd := fmtDepth a
  let len := blockLen a
  (List.range (kd / len)).foldl
    (fun (r : Word) j =>
      let xs := (List.range len).map fun i =>
        (elementAt elem (fmtBits a) (n * kd + j * len + i), elementAt vec (fmtBits b) (j * len + i))
      addBlock a b r xs (elementAt scale (8 * fmtScale a) (n * (kd / 32) + j)) (elementAt vscale (8 * fmtScale b) j))
    acc

/-! ### Drains (R240) -/

/-- Sat to i8 of an i32 row (R240). -/
def drainSat (x : Word) : Nat := wrap (Ty.i8.sat x.toInt) 8

/-- The value presented to conversion: the row as f32, scaled (R240). -/
def presented (i32 scl : Bool) (f : Word) (x : Word) : Nat :=
  let v := if i32 then Fmt.f32.round .rne 0 (.ofInt x.toInt) else x.toNat
  if scl then Fmt.f32.round .rne 0 ((Fmt.f32.value v).mul (Fmt.f32.value f.toNat)) else v

/-- A presented value rounded on the integers and saturated to i8 (R57, R240). -/
def drainInt (mode : Rnd) (rho : Nat) (x : Num) : Nat :=
  match x with
  | .nan => 0
  | .inf s => if s then 0x80 else 0x7F
  | .fin s m e r =>
    let n : Int := roundUnits mode s m e r rho 0
    wrap (Ty.i8.sat (if s then -n else n)) 8

/-- The magnitude of an FP32 pattern, in the order of patterns: every NaN counts as 0x7FC0_0000 (R60). -/
def magnitude (x : Nat) : Nat := if 0x7F800000 < x % 2 ^ 31 then 0x7FC00000 else x % 2 ^ 31

/-- The largest magnitude of some FP32 patterns (R60). -/
def amaxOf (xs : List Nat) : Nat := xs.foldl (fun (m : Nat) x => max m (magnitude x)) 0

/-- The emax that R61 subtracts for an MX format. -/
def mxTop (c : Nat) : Nat := if c = 5 then 8 else if c = 6 then 15 else 2

/-- floor(log2) of a finite value that is not zero. -/
def floorLog2 (x : Num) : Int :=
  match x with
  | .fin _ m e _ => (m.log2 : Int) + e
  | _ => 0

/-- The E8M0 scale of a block (R61). -/
def mxScale (c : Nat) (xs : List Nat) : Nat :=
  let m := amaxOf xs
  if 0x7F800000 ≤ m then 255
  else if m = 0 then 0
  else (max 0 (min 254 (floorLog2 (Fmt.f32.value m) - mxTop c + 127))).toNat

/-- An element of an MX block on the grid of its scale (R54, R61). -/
def mxElement (c : Nat) (mode : Rnd) (rho scale x : Nat) : Nat :=
  if scale = 255 then 0
  else
    match Fmt.f32.value x with
    | .fin s m e r => (fmtOf c).round mode rho (.fin s m (e - ((scale : Int) - 127)) r)
    | _ => 0

/-- The S24 scale of a block: the smallest s with s × 13.453125 ≥ amax (R61). -/
def l6Scale (xs : List Nat) : Nat :=
  let m := amaxOf xs
  if 0x7F800000 ≤ m then 255 * 65536
  else if m = 0 then 0
  else
    match Fmt.f32.value m with
    | .fin _ a e _ =>
      let num := 64 * a * 2 ^ (e + 200).toNat
      let lg : Int := ((num / 861).log2 : Int) - 200
      if lg < -126 then 65536
      else
        let d := 861 * 2 ^ (184 + lg).toNat
        let n := (num + d - 1) / d
        let code := (lg + 127).toNat * 65536 + (n - 65536)
        if 255 * 65536 ≤ code then 254 * 65536 + 65535 else code
    | _ => 0

/-- D(L) for L from -15 to 15 and the zero below it, in units of 2^-14, smallest first, with the codes (R49). -/
def l6Grid : List (Nat × Nat) :=
  (0, 0x10) :: (List.range 31).map fun (i : Nat) => (l6Mag ((i : Int) - 15) 4, wrap ((i : Int) - 15) 5)

/-- The code among grid points that a magnitude rounds to (R54, R55, R58); `x` and the points in one unit. -/
def l6Pick (mode : Rnd) (rho x : Nat) : List (Nat × Nat) → Nat
  | [] => 0x10
  | [p] => p.2
  | p :: q :: r =>
    if q.1 ≤ x then l6Pick mode rho x (q :: r)
    else if x = p.1 then p.2
    else
      let up : Bool :=
        match mode with
        | .sr => 65536 ≤ (x - p.1) * 65536 / (q.1 - p.1) + rho
        | .rne => q.1 - x < x - p.1 || (q.1 - x == x - p.1 && q.2 % 2 == 0)
        | _ => false
      if up then q.2 else p.2

/-- An element of an L6 block (R54, R61). -/
def l6Element (mode : Rnd) (rho scale x : Nat) : Nat :=
  if scale / 65536 = 255 || scale / 65536 = 0 then 0x10
  else
    match Fmt.f32.value x with
    | .fin s m e _ =>
      let t : Int := e - ((scale / 65536 : Nat) - 157)
      let unit := (65536 + scale % 65536) * 2 ^ (-t).toNat
      let c := l6Pick mode rho (m * 2 ^ t.toNat) (l6Grid.map fun p => (p.1 * unit, p.2))
      if c = 0x10 then c else (if s then 32 else 0) + c
    | _ => 0x10

/-- Elements of `bits` bits packed into bytes (R46, R51). -/
def packBits (bits : Nat) (xs : List Nat) : List Byte :=
  toBytes (xs.length * bits / 8) (xs.foldr (fun (x acc : Nat) => x + 2 ^ bits * acc) 0)

/-- The drain's rounding mode (R37). -/
def drainMode (ornd : Nat) : Rnd := if ornd = 1 then .rz else if ornd = 2 then .sr else .rne

/-- Elements and scales of a drained row of 128 presented values, as bytes (R239, R240). -/
def drainRow (otyp : Nat) (mode : Rnd) (xs : List Nat) : List Byte × List Byte :=
  let at? (f : Nat → Nat → Nat) : List Nat := (List.range xs.length).map fun j => f j (xs.getD j 0)
  if otyp = 0 then (packBits 32 xs, [])
  else if otyp = 9 then (packBits 8 (at? fun j x => drainInt mode (rhoAt xs j) (Fmt.f32.value x)), [])
  else if fmtScale otyp = 0 then
    (packBits (fmtBits otyp) (at? fun j x => (fmtOf otyp).round mode (rhoAt xs j) (Fmt.f32.value x)), [])
  else
    let scales := (List.range 4).map fun b =>
      let ys := (xs.drop (32 * b)).take 32
      if otyp = 8 then l6Scale ys else mxScale otyp ys
    let el (j x : Nat) : Nat :=
      let s := scales.getD (j / 32) 0
      if otyp = 8 then l6Element mode (rhoAt xs j) s x else mxElement otyp mode (rhoAt xs j) s x
    (packBits (fmtBits otyp) (at? el), packBits (8 * fmtScale otyp) scales)

end Sys2Proof.Machine
end

