-- ==== Sys2Proof/Machine/Matrix.lean ====
section
/-!
DEFINITION. The matrix unit of a core (R219-R240): the rope, the threads of the step sequencer and the drain unit in
matrix issue order, and the hardware steps that run them; and the register blocks that groups of a team trade (R241, R242).
-/
namespace Sys2Proof.Machine

/-! ### Threads -/

def MxKind.isDrain (k : MxKind) : Bool := match k with | .mdrn .. => true | _ => false
def MxKind.isLoop (k : MxKind) : Bool := match k with | .mlp .. => true | _ => false
def MxKind.isLoad (k : MxKind) : Bool := match k with | .mldE _ | .mldS _ => true | _ => false

/-- ATYP, BTYP, OTYP and ORND of an `fmt` (R37). -/
def atyp (f : BitVec 16) : Nat := (fld f 0 4).toNat
def btyp (f : BitVec 16) : Nat := (fld f 4 4).toNat
def otyp (f : BitVec 16) : Nat := (fld f 8 4).toNat
def ornd (f : BitVec 16) : Nat := (fld f 12 2).toNat
def amaxOn (f : BitVec 16) : Bool := fld f 14 1 == 1

/-- The core's matrix unit that a group's instruction reaches. -/
def State.mxOf (s : State) (h : Here) : Matrix := (s.core h.t.die h.t.site).mx

def State.onMx (s : State) (die site : Nat) (f : Matrix → Matrix) : State := s.onCore die site fun c => { c with mx := f c.mx }

/-- The team is the matrix team, until the release that is due (R229, R230). -/
def Matrix.holds (m : Matrix) (team : Nat) : Bool := m.team == some team && !m.release

/-- Threads of the step sequencer, and of the drain unit: each holds up to 16 (R219). -/
def Matrix.seqFull (m : Matrix) : Bool := 16 ≤ (m.threads.filter fun t => !t.kind.isDrain).length
def Matrix.drainFull (m : Matrix) : Bool := 16 ≤ (m.threads.filter fun t => t.kind.isDrain).length

/-- The tracked number that an instruction will have, if its clause names a counter. -/
def Here.seqFor (h : Here) (r : Raises) : Option Nat := (h.p.counter r).map fun _ => h.a.nextSeq

/-- A matrix thread joins, last in matrix issue order (R237); KB is raised on path M where `tracked` (R135). -/
def State.queueMx (s : State) (h : Here) (i : Instr) (k : MxKind) (tracked : Bool) : State :=
  let seq := if tracked then h.seqFor .kb else none
  let s := s.onMx h.t.die h.t.site fun m =>
    { m with
      threads := m.threads ++ [{ no := m.nextNo, kind := k, grp := h.g.id, team := h.t.id, seq := seq, fmt := h.p.fmt,
                                 pc := h.p.pc, iword := i.first, record := none, step := 0, rows := [], amax := 0 }]
      nextNo := m.nextNo + 1 }
  if tracked then s.onArch h.g.id fun a => a.raise (h.p.counter .kb) { path := .M } else s

/-! ### Checks at issue (R220, R231, R234, R238) -/

def failIf (b : Bool) (k : FaultKind) (addr : Nat := 0) : Option Report :=
  if b then some { kind := k, addr := BitVec.ofNat 64 addr } else none

/-- ROPE for the rope instructions: the group must hold the rope. -/
def State.ropeFault (s : State) (h : Here) : Option Report := failIf ((s.mxOf h).rope != some h.g.id) .rope

/-- ALIGN and BOUNDS of a team-memory operand (R121). -/
def operandFault (t : Team) (o align n : Nat) : Option Report :=
  failIf (o % align != 0) .align o <|> failIf (teamMemKey t o n).isNone .bounds o

/-- The tag that the active plane will hold once some threads have run (R234). -/
def tagAfter (active shadow : BitVec 4) : List MxThread → BitVec 4
  | [] => active
  | t :: r =>
    match t.kind with
    | .mldE _ => tagAfter active (fld t.fmt 0 4) r
    | .mswp => tagAfter shadow active r
    | _ => tagAfter active shadow r

/-- PTAG of the active plane when a loop issued now starts. -/
def Matrix.tagNext (m : Matrix) : Nat := (tagAfter m.active.ptag m.shadow.ptag m.threads).toNat

/-- A full unit queue holds the instruction back, its group READY. -/
def holdIf (full : State → Here → Bool) : State → Here → Option (State → State) :=
  fun s h => if full s h then some id else none

/-- `mld` (R231). -/
def mldPlan (i : Instr) (a : SReg) (scl : Bool) : Plan :=
  { uses := srcS a
    raises := .kb
    stall := fun _ h => h.acquiring
    late := fun s h =>
      let f := atyp h.p.fmt
      let o := (h.a.getS a.toNat).toNat
      failIf (!pairFmts f (btyp h.p.fmt) || (scl && fmtScale f == 0)) .format
        <|> s.ropeFault h
        <|> operandFault h.t o (if scl then 8 else 64) (if scl then tileScaleBytes f else tileBytes f)
    hold := holdIf fun s h => (s.mxOf h).seqFull
    act := fun h s => s.queueMx h i (if scl then .mldS (h.a.getS a.toNat).toNat else .mldE (h.a.getS a.toNat).toNat) true }

/-- `mld.e` (R231). -/
def execMldE (a : SReg) (s : State) : Host.Outcome State Fault Refusal := run (.mldE a) (mldPlan (.mldE a) a false) s
/-- `mld.s` (R231). -/
def execMldS (a : SReg) (s : State) : Host.Outcome State Fault Refusal := run (.mldS a) (mldPlan (.mldS a) a true) s

/-- `mswp` (R232). -/
def execMswp (s : State) : Host.Outcome State Fault Refusal :=
  run .mswp
    { uses := []
      late := fun s h => s.ropeFault h
      hold := holdIf fun s h => (s.mxOf h).seqFull
      act := fun h s => s.queueMx h .mswp .mswp false } s

/-- `mlp` (R234). -/
def mlpPlan (i : Instr) (a : SReg) (zero : Bool) : Plan :=
  { uses := srcS a
    raises := .kb
    stall := fun _ h => h.acquiring
    late := fun s h =>
      let f := atyp h.p.fmt
      failIf (!pairFmts f (btyp h.p.fmt) || f != (s.mxOf h).tagNext) .format
        <|> s.ropeFault h
        <|> operandFault h.t (h.a.getS a.toNat).toNat 32 32
    hold := holdIf fun s h => (s.mxOf h).seqFull
    act := fun h s => s.queueMx h i (.mlp (h.a.getS a.toNat).toNat zero) true }

/-- `mlp` (R234). -/
def execMlp (a : SReg) (s : State) : Host.Outcome State Fault Refusal := run (.mlp a) (mlpPlan (.mlp a) a false) s
/-- `mlp.zero` (R234). -/
def execMlpZero (a : SReg) (s : State) : Host.Outcome State Fault Refusal := run (.mlpZero a) (mlpPlan (.mlpZero a) a true) s

/-- `mdrn` (R238): it needs no rope, but a group of the matrix team (R220). -/
def mdrnPlan (i : Instr) (a : SReg) (scl : Bool) : Plan :=
  { uses := srcS a
    raises := .kb
    stall := fun _ h => h.acquiring
    late := fun s h =>
      failIf (9 < otyp h.p.fmt || ornd h.p.fmt == 3) .format
        <|> failIf (!(s.mxOf h).holds h.t.id) .rope
        <|> operandFault h.t (h.a.getS a.toNat).toNat 32 32
    hold := holdIf fun s h => (s.mxOf h).drainFull
    act := fun h s => s.queueMx h i (.mdrn (h.a.getS a.toNat).toNat scl) true }

/-- `mdrn` (R238). -/
def execMdrn (a : SReg) (s : State) : Host.Outcome State Fault Refusal := run (.mdrn a) (mdrnPlan (.mdrn a) a false) s
/-- `mdrn.scl` (R238). -/
def execMdrnScl (a : SReg) (s : State) : Host.Outcome State Fault Refusal := run (.mdrnScl a) (mdrnPlan (.mdrnScl a) a true) s

/-! ### The rope (R225, R226) -/

/-- The number of a group's next entry in a queue: each of its paths that waits has an entry of its own. -/
def nextEntry (l : List (Nat × Nat)) (grp : Nat) : Nat := (l.filter (·.1 == grp)).foldl (fun n e => max n (e.2 + 1)) 0

/-- `rope.take` (R225): a group without the rope joins the queue and parks. -/
def execRopeTake (s : State) : Host.Outcome State Fault Refusal :=
  run .ropeTake
    { uses := []
      hold := fun s h =>
        if (s.mxOf h).rope = some h.g.id then none
        else some fun s =>
          let n := nextEntry (s.mxOf h).ropeq h.g.id
          (s.park h.g.id h.slot (some (.rope n))).onMx h.t.die h.t.site fun m => { m with ropeq := m.ropeq ++ [(h.g.id, n)] }
      act := fun _ s => s } s

/-- `rope.give` (R225). -/
def execRopeGive (s : State) : Host.Outcome State Fault Refusal :=
  run .ropeGive
    { uses := []
      late := fun s h => s.ropeFault h
      act := fun h s => s.onMx h.t.die h.t.site fun m => { m with rope := none } } s

/-- The place of a path of a group: a slot, a held position of its split stack, or a spilled one. -/
inductive PathAt where
  | slot (b : Bool)
  | held (i : Nat)
  | spilled (n : Nat)
  deriving DecidableEq, Repr

/-- The paths that wait on the split stack, oldest first (R265, R268). -/
def Arch.waitingPaths (a : Arch) : List (PathAt × Path) :=
  (a.kept.map fun e => (PathAt.spilled e.1, e.2)).reverse
    ++ ((a.stack.mapIdx fun i q => match q with | .wait p _ => [(PathAt.held i, p)] | _ => []).flatten).reverse

/-- The path at a place replaced. -/
def Arch.onPathAt (a : Arch) (w : PathAt) (f : Path → Path) : Arch :=
  match w with
  | .slot b => a.setPath b ((a.path b).map f)
  | .held i =>
    { a with stack := a.stack.mapIdx fun j q => match q with | .wait p d => if j = i then .wait (f p) d else q | q => q }
  | .spilled n => { a with kept := a.kept.map fun e => if e.1 = n then (n, f e.2) else e }

/-- The path at a place goes on behind its uniform instruction, and it counts (R299, R339). -/
def State.retireAt (s : State) (grp : Nat) (w : PathAt) : State :=
  match w, s.group? grp with
  | .slot b, _ => s.retireParked grp b
  | w, some g =>
    ((s.onArch grp fun a => a.onPathAt w fun p => p.advance 1).onTeam g.team fun t =>
      { t with ret := satCount (t.ret + 1) }).perfGroup g 2 1
  | _, none => s

/-- Every path of a group: those on the split stack, which have parked before those in slots, and these. -/
def Group.everyPath (g : Group) : List (PathAt × Path) :=
  g.arch.waitingPaths ++ g.arch.paths.map fun e => (PathAt.slot e.1, e.2)

/-- The path of a group that satisfies a park, wherever it waits. -/
def Group.placeOf (g : Group) (p : Park → Bool) : Option PathAt := (g.everyPath.find? fun e => e.2.park.any p).map (·.1)

/-- The numbers of a group's entries in the rope queue. -/
def Group.ropeEntries (g : Group) : List Nat :=
  g.everyPath.filterMap fun e => match e.2.park with | some (.rope n) => some n | _ => none

/-- ROPE_GRANT (R226): the head of the queue gets a free rope where the matrix team is none or its own, and the path that asked
goes on; and with none, its team becomes the matrix team (R229). -/
def execRopeGrant (die site : Nat) (s : State) : Host.Outcome State Fault Refusal :=
  let m := (s.core die site).mx
  match m.ropeq with
  | [] => .refused (.notEnabled "ROPE_GRANT")
  | g :: r =>
    match s.group? g.1 with
    | none => .refused (.notEnabled "ROPE_GRANT")
    | some q =>
      if m.rope == none && !m.release && (m.team == none || m.team == some q.team) && (s.team? q.team).any Team.runs then
        let s := s.onMx die site fun m => { m with rope := some g.1, ropeq := r, team := some q.team }
        match q.placeOf (· == .rope g.2) with
        | some w => .next (s.retireAt g.1 w)
        | none => .next s
      else .refused (.notEnabled "ROPE_GRANT")

/-! ### Running the threads -/

/-- TAKING A FAULT at a matrix thread: a program fault that stops the issuing team (R211, R236, R240). -/
def State.raiseMx (s : State) (die site : Nat) (t : MxThread) (r : Report) : State :=
  let q := s.group? t.grp
  let tm := s.team? t.team
  let grid := (tm.map (·.grid)).getD 0
  let rec' : FaultRec :=
    { seq := s.evSeq, pc := t.pc, addr := r.addr, iword := t.iword, lanes := 0, kind := r.kind, cls := r.kind.cls, flags := 1,
      gid := site * 64 + (q.map (·.slot)).getD 0, ctx := s.gridCtx grid, grid := grid, team := (tm.map (·.t)).getD 0,
      die := die, site := site, gidx := (q.map (·.gidx)).getD 0, code := 0 }
  let s := s.onMx die site fun m => { m with threads := m.threads.filter (·.no != t.no) }
  (s.nextSeqNo).faultEffect rec' r t.team grid (.path t.grp) id

/-- A thread has run: it leaves the unit and lowers its counter (R136). -/
def State.endMx (s : State) (die site : Nat) (t : MxThread) : State :=
  (s.onMx die site fun m => { m with threads := m.threads.filter (·.no != t.no) }).complete t.grp t.seq

/-- The first thread of a kind, where no earlier thread holds it back (R233, R237). -/
def firstMx (want blocks : MxKind → Bool) : List MxThread → Option MxThread
  | [] => none
  | t :: r => if want t.kind then some t else if blocks t.kind then none else firstMx want blocks r

/-- Bytes as a plane's store. -/
def storeOf (bs : List Byte) : Sparse 8 := putBytes [] 0 bs

/-- An extent of n bytes at a signed offset lies in a team's memory. -/
def extentOk (t : Team) (o : Int) (n : Nat) : Bool := 0 ≤ o && o + n ≤ t.tmem

/-- The fault of a loop record (R235, R236). -/
def loopFault (t : Team) (f : BitVec 16) (o : Nat) (b : List Byte) : Option Report :=
  let steps := fieldOf b 0x14 4
  let has := fmtScale (btyp f) != 0
  let at? (base inc : Nat) (n : Nat) : Bool :=
    n == 0 || (extentOk t (fieldOf b base 4) n && extentOk t (fieldOf b base 4 + (steps - 1 : Nat) * signedField b inc 4) n)
  failIf (fieldOf b 0x18 8 != 0 || 511 < fieldOf b 0x10 2 || steps < 1 || 2 ^ 20 < steps
      || (!has && (fieldOf b 0x08 4 != 0 || fieldOf b 0x0C 4 != 0))) .reservedBits o
    <|> failIf (fieldOf b 0x00 4 % 64 != 0 || fieldOf b 0x04 4 % 64 != 0 || fieldOf b 0x08 4 % 8 != 0 || fieldOf b 0x0C 4 % 8 != 0) .align o
    <|> failIf (!at? 0x00 0x04 (vectorBytes (atyp f) (btyp f)) || !at? 0x08 0x0C (vectorScaleBytes (atyp f) (btyp f))) .bounds o

/-- The row of a step (R236). -/
def loopRow (b : List Byte) (st : Nat) : Nat := ((fieldOf b 0x10 2 + st * signedField b 0x12 2) % 512).toNat

/-- The rows that a loop has still to step into, none where its record will fault (R236): 512 steps visit every row that any do. -/
def State.rowsLeft (s : State) (t : MxThread) : List Nat :=
  match t.kind, s.team? t.team with
  | .mlp o _, some tm =>
    let b := t.record.getD (s.bytes (teamKey t.team o) 32)
    if t.record.isNone && (s.isLost (teamKey t.team o) 32 || (loopFault tm t.fmt o b).isSome) then []
    else (List.range (min (fieldOf b 0x14 4 - t.step) 512)).map fun i => loopRow b (t.step + i)
  | _, _ => []

/-- The rows that a drain has still to read (R239, R240). -/
def State.rowsRead (s : State) (t : MxThread) : List Nat :=
  match t.kind with
  | .mdrn o _ =>
    let b := t.record.getD (s.bytes (teamKey t.team o) 32)
    (List.range (min (fieldOf b 0x02 2 - t.step) 512)).map fun i => (fieldOf b 0x00 2 + t.step + i) % 512
  | _ => []

/-- A drain has to wait for a loop ahead of it: that has still to step into a row that it reads (R237). -/
def State.drainWaits (s : State) (loop drain : MxThread) : Bool :=
  drain.kind.isDrain && (s.rowsLeft loop).any (s.rowsRead drain).contains

/-- The threads up to the last loop that a drain behind it waits for. -/
def State.drainPrefix (s : State) : List MxThread → List MxThread
  | [] => []
  | t :: r => if s.drainPrefix r != [] || r.any (s.drainWaits t) then t :: s.drainPrefix r else []

/-- The threads of a team that complete before it is saved (R244): its drains, the loops that they wait for and what runs ahead
of those, and ahead of the first other loop its `mld` and `mswp`. -/
def State.toFinish (s : State) (l : List MxThread) : List MxThread :=
  let first := s.drainPrefix l
  let back := l.drop first.length
  first ++ (back.takeWhile fun t => !t.kind.isLoop) ++ back.filter (·.kind.isDrain)

/-- Whether a thread runs: one of a team that is to be saved runs where it completes before the save (R244; DEDUCED: assumption
108). -/
def State.mxRuns (s : State) (die site : Nat) (t : MxThread) : Bool :=
  (s.team? t.team).all fun (u : Team) => u.leaving == .stay
    || ((s.toFinish ((s.core die site).mx.threads.filter fun x => x.team == t.team)).any fun x => x.no == t.no)

/-- Planes or accumulator memory of a core hold lost data: whatever reads them consumes a loss of class TEAM (R376). -/
def State.mxLost (s : State) (die site : Nat) : Option Report :=
  if (s.core die site).mx.ecc then some { kind := .uncorrectable, cls := 0 } else none

/-- The first thread of a kind that may run (R233, R237, R244). -/
def State.mxNext (s : State) (die site : Nat) (want blocks : MxKind → Bool) : Option MxThread :=
  (firstMx want blocks (s.core die site).mx.threads).filter (s.mxRuns die site)

/-- What a loop waits for: the exchanges, loads and drains ahead of it (R233, R237). -/
def MxKind.holdsLoop (k : MxKind) : Bool := k == .mswp || k.isDrain || k.isLoad

/-- The first drain, where no loop ahead of it has still to step into a row that it reads (R237). -/
def State.drainNext (s : State) (die site : Nat) : Option MxThread :=
  let l := (s.core die site).mx.threads
  (l.find? (·.kind.isDrain)).filter fun d => !((l.takeWhile fun t => !t.kind.isDrain).any fun t => s.drainWaits t d)

/-- MATRIX_LOAD_THREAD (R231): an `mld` passes loops, but no exchange. The bytes that it reads become the whole store: behind a tile
shorter than the store it reads 0 (DESIGN CHOICE: assumption 107). All bytes of an image are read in the one step, at one moment, where
R231 lets each byte be read at its own (DESIGN CHOICE: assumption 107). -/
def execMatrixLoadThread (die site : Nat) (s : State) : Host.Outcome State Fault Refusal :=
  match s.mxNext die site MxKind.isLoad (· == .mswp) with
  | none => .refused (.notEnabled "MATRIX_LOAD_THREAD")
  | some t =>
    let f := atyp t.fmt
    let (o, n, scl) := match t.kind with | .mldS o => (o, tileScaleBytes f, true) | .mldE o => (o, tileBytes f, false) | _ => (0, 0, false)
    let k := teamKey t.team o
    if s.isLost k n then .next (s.raiseMx die site t (lossAt o ⟨k, 0, s.lostIn k n⟩))
    else
      let bs := storeOf (s.bytes k n)
      let s := s.onMx die site fun m =>
        { m with shadow := if scl then { m.shadow with scale := bs } else { m.shadow with elem := bs, ptag := fld t.fmt 0 4 } }
      .next (s.endMx die site t)

/-- MSWP_EXCHANGE (R232): the planes exchange after every earlier load and loop. -/
def execMswpExchange (die site : Nat) (s : State) : Host.Outcome State Fault Refusal :=
  match s.mxNext die site (· == .mswp) (fun k => k.isLoad || k.isLoop) with
  | none => .refused (.notEnabled "MSWP_EXCHANGE")
  | some t =>
    .next ((s.onMx die site fun m => { m with active := m.shadow, shadow := m.active }).endMx die site t)

/-- One step of a loop on a matrix unit (R236). -/
def Matrix.loopStep (m : Matrix) (t : MxThread) (zero : Bool) (b : List Byte) (vec vscale : Nat → Byte) : Matrix :=
  let r := loopRow b t.step
  let clear := zero && !t.rows.contains r
  let acc := (List.range 128).foldl
    (fun (acc : Sparse 32) n =>
      let x := if clear then 0 else Sparse.look m.acc (128 * r + n)
      Sparse.put acc (128 * r + n)
        (stepColumn (atyp t.fmt) (btyp t.fmt) (Sparse.look m.active.elem) (Sparse.look m.active.scale) vec vscale n x))
    m.acc
  { m with
    acc := acc
    threads := mapIf m.threads (·.no == t.no) fun u =>
      { u with record := some b, step := t.step + 1, rows := if zero then t.rows ++ [r] else t.rows } }

/-- MATRIX_LOOP_STEP (R236, R244): the loop's record is read and checked at its first step; one step accumulates into its row; the
last one completes the loop. A loop of a team that leaves its core stops between steps. Counter 8 counts steps (R339), and the classifier
their operations (R323). -/
def execMatrixLoopStep (die site : Nat) (s : State) : Host.Outcome State Fault Refusal :=
  match s.mxNext die site MxKind.isLoop MxKind.holdsLoop with
  | none => .refused (.notEnabled "MATRIX_LOOP_STEP")
  | some t =>
    match s.team? t.team, t.kind with
    | some tm, .mlp o zero =>
      let b := t.record.getD (s.bytes (teamKey t.team o) 32)
      let bad := if t.record.isSome then none else if s.isLost (teamKey t.team o) 32 then
          some (lossAt o ⟨teamKey t.team o, 0, 1⟩) else loopFault tm t.fmt o b
      match bad with
      | some r => .next (s.raiseMx die site t r)
      | none =>
        let vo := ((fieldOf b 0x00 4 : Int) + t.step * signedField b 0x04 4).toNat
        let so := ((fieldOf b 0x08 4 : Int) + t.step * signedField b 0x0C 4).toNat
        let lost := s.lostIn (teamKey t.team vo) (vectorBytes (atyp t.fmt) (btyp t.fmt))
          + s.lostIn (teamKey t.team so) (vectorScaleBytes (atyp t.fmt) (btyp t.fmt))
        let loss := if lost = 0 then s.mxLost die site else some (lossAt vo ⟨teamKey t.team vo, 0, lost⟩)
        match loss with
        | some r => .next (s.raiseMx die site t r)
        | none =>
          let s' := s.onMx die site fun m =>
            m.loopStep t zero b (fun i => s.byte (teamKey t.team (vo + i))) fun i => s.byte (teamKey t.team (so + i))
          let s' := (s'.perf die site (s.gridCtx tm.grid) 8 1).onTeam t.team fun u => { u with ops := u.ops + 128 * fmtDepth (atyp t.fmt) }
          if t.step + 1 = fieldOf b 0x14 4 then .next (s'.endMx die site t) else .next s'
    | _, _ => .refused (.notEnabled "MATRIX_LOOP_STEP")

/-- Bytes of an output row and of its scales (R239). -/
def outBytes (c : Nat) : Nat := 128 * fmtBits c / 8
def outScaleBytes (c : Nat) : Nat := 4 * fmtScale c

/-- The fault of a drain record (R239, R240). -/
def State.drainFault (s : State) (t : Team) (f : BitVec 16) (scl : Bool) (o : Nat) (b : List Byte) : Option Report :=
  let has := fmtScale (otyp f) != 0
  let rows := fieldOf b 0x02 2
  let at? (base inc n : Nat) : Bool :=
    n == 0 || (extentOk t (fieldOf b base 4) n && extentOk t (fieldOf b base 4 + (rows - 1 : Nat) * signedField b inc 4) n)
  failIf (fieldOf b 0x1C 4 != 0 || 511 < fieldOf b 0x00 2 || rows < 1 || 512 < rows
      || (!has && (fieldOf b 0x0C 4 != 0 || fieldOf b 0x10 4 != 0)) || (!scl && fieldOf b 0x14 4 != 0)
      || (!amaxOn f && fieldOf b 0x18 4 != 0)) .reservedBits o
    <|> failIf (fieldOf b 0x04 4 % 8 != 0 || fieldOf b 0x08 4 % 8 != 0 || fieldOf b 0x0C 4 % 4 != 0 || fieldOf b 0x10 4 % 4 != 0
      || fieldOf b 0x18 4 % 4 != 0) .align o
    <|> failIf (!at? 0x04 0x08 (outBytes (otyp f)) || !at? 0x0C 0x10 (outScaleBytes (otyp f))
      || (amaxOn f && (s.dieKey t (fieldOf b 0x18 4) 4).isNone)) .bounds o

/-- A row of accumulators. -/
def Matrix.row (m : Matrix) (r : Nat) : List Word := (List.range 128).map fun n => Sparse.look m.acc (128 * r + n)

/-- An i32 row saturated straight to INT8 presents no values (R240). -/
def drainDirect (f : BitVec 16) (scl : Bool) : Bool := atyp f == 9 && otyp f == 9 && !scl

/-- A drained row: elements, scales, and the largest magnitude presented (R240). -/
def drainOne (f : BitVec 16) (scl : Bool) (factor : Word) (row : List Word) : List Byte × List Byte × Nat :=
  let i32 := atyp f == 9
  if drainDirect f scl then (packBits 8 (row.map drainSat), [], 0)
  else
    let xs := row.map (presented i32 scl factor)
    let (e, sc) := drainRow (otyp f) (drainMode (ornd f)) xs
    (e, sc, amaxOf xs)

/-- The amax of a tile merged into its die-scratchpad word, as a maximum of n32 (R240). -/
def State.mergeAmax (s : State) (t : Team) (off : Nat) (m : Word) : State :=
  match s.dieKey t off 4 with
  | some k => s.storeLE k 4 (max m.toNat (s.readLE k 4))
  | none => s

/-- A loss that a drain's step consumes (R375, R377): its output merges with one in team memory, or its amax word holds one; or the
accumulator memory does. -/
def State.drainLoss (s : State) (tm : Team) (t : MxThread) (out scales : Nat × Nat) (amax : Option Nat) : Option Report :=
  let word := (amax.bind fun o => s.dieKey tm o 4).filter fun k => s.isLost k 4
  let n := s.mergedIn (teamKey t.team out.1) out.2 + s.mergedIn (teamKey t.team scales.1) scales.2
  match word, recordLost (amax.bind (s.windowLoss tm)) (amax.getD 0) with
  | _, some r => some { r with lost := r.lost + n }
  | some k, none => some (lossAt (amax.getD 0) ⟨k, 1, 1 + n⟩)
  | none, none => if n = 0 then s.mxLost tm.die tm.site else some (lossAt out.1 ⟨teamKey t.team out.1, 0, n⟩)

/-- DRAIN_THREAD (R240): the record is read and checked at the first row; each step converts and writes one row; the last
one merges the amax and completes the drain. -/
def execDrainThread (die site : Nat) (s : State) : Host.Outcome State Fault Refusal :=
  match s.drainNext die site with
  | none => .refused (.notEnabled "DRAIN_THREAD")
  | some t =>
    match s.team? t.team, t.kind with
    | some tm, .mdrn o scl =>
      let b := t.record.getD (s.bytes (teamKey t.team o) 32)
      let bad := if t.record.isSome then none else if s.isLost (teamKey t.team o) 32 then
          some (lossAt o ⟨teamKey t.team o, 0, 1⟩) else s.drainFault tm t.fmt scl o b
      match bad with
      | some r => .next (s.raiseMx die site t r)
      | none =>
        let m := (s.core die site).mx
        let (e, sc, top) := drainOne t.fmt scl (BitVec.ofNat 32 (fieldOf b 0x14 4)) (m.row ((fieldOf b 0x00 2 + t.step) % 512))
        let amax := max t.amax.toNat top
        let eo := ((fieldOf b 0x04 4 : Int) + t.step * signedField b 0x08 4).toNat
        let so := ((fieldOf b 0x0C 4 : Int) + t.step * signedField b 0x10 4).toNat
        let merge : Option Nat :=
          if t.step + 1 = fieldOf b 0x02 2 && amaxOn t.fmt && !drainDirect t.fmt scl then some (fieldOf b 0x18 4) else none
        match s.drainLoss tm t (eo, e.length) (so, sc.length) merge with
        | some r => .next (s.raiseMx die site t r)
        | none =>
        let s := s.store (teamKey t.team eo) e
        let s := if sc = [] then s else s.store (teamKey t.team so) sc
        if t.step + 1 = fieldOf b 0x02 2 then
          let s := match merge with | some o => s.mergeAmax tm o (BitVec.ofNat 32 amax) | none => s
          .next (s.endMx die site t)
        else
          .next (s.onMx die site fun m =>
            { m with threads := mapIf m.threads (·.no == t.no) fun u =>
                { u with record := some b, step := t.step + 1, amax := BitVec.ofNat 32 amax } })
    | _, _ => .refused (.notEnabled "DRAIN_THREAD")

/-- MATRIX_RELEASE (R230): with no thread of the matrix team left, planes and rows return to their reset values. -/
def execMatrixRelease (die site : Nat) (s : State) : Host.Outcome State Fault Refusal :=
  let m := (s.core die site).mx
  if m.release && m.threads == [] then
    .next (s.onMx die site fun m => { Matrix.reset with ropeq := m.ropeq, nextNo := m.nextNo })
  else .refused (.notEnabled "MATRIX_RELEASE")

/-! ### Register blocks (R241, R242) -/

/-- A register of blocks lo to lo + n - 1. -/
def Reg.inBlocks (r : Reg) (lo n : Nat) : Bool := r.file == .v && 8 * lo ≤ r.num && r.num < 8 * (lo + n)

/-- Registers of blocks lo to lo + n - 1 discarded: they read zero once they are taken again. -/
def Arch.clearBlocks (a : Arch) (lo n : Nat) : Arch :=
  { a with
    v := Sparse.clear a.v (32 * (8 * lo)) (32 * (8 * n))
    poison := a.poison.filter fun r => !r.inBlocks lo n
    ecc := a.ecc.filter fun r => !r.inBlocks lo n }

/-- A group holds c blocks after it gave or took those from lo on: their registers are written (R280). -/
def Group.setBlocks (g : Group) (lo n c : Nat) : Group :=
  { g with
    arch := { g.arch.clearBlocks lo n with blocks := c }
    conts := g.conts.map fun x => { x with calleeWrote := x.calleeWrote ++ regsFrom .v (8 * lo) (8 * n) } }

/-- The quadrant of a group (R251). -/
def Group.quad (g : Group) : Nat := g.slot / 16

/-- `blk.give` (R242). -/
def execBlkGive (n : BitVec 5) (s : State) : Host.Outcome State Fault Refusal :=
  run (.blkGive n)
    { uses := []
      late := fun _ h =>
        let c := h.a.blocks
        failIf (c ≤ n.toNat) .regBlock
          <|> regFault .hazard ((regsFrom .v (8 * (c - n.toNat)) (8 * n.toNat)).find? h.a.pending)
      act := fun h s =>
        let c := h.a.blocks
        (s.onGroup h.g.id fun g => g.setBlocks (c - n.toNat) n.toNat (c - n.toNat)).onTeam h.t.id fun t =>
          t.givePool h.g.quad n.toNat } s

/-- The takers that wait on the pool of a quadrant, oldest first. -/
def State.takersOf (s : State) (t : Team) (quad : Nat) : List (Nat × Nat) :=
  t.takers.filter fun e => (s.group? e.1).any fun g => g.quad == quad

/-- A group in BLOCK-BLK (R253). -/
def Group.inBlk (g : Group) : Bool := match g.parked with | some (.blk ..) => true | _ => false

/-- With the issuing path parked in `blk.take`, every live group of the team in the quadrant is in BLOCK-BLK: no block can ever
arrive (R242). -/
def State.noGiver (s : State) (h : Here) (n : Nat) : Bool :=
  let me : Group := { h.g with arch := h.a.setPath h.slot (some { h.p with park := some (.blk n 0) }) }
  me.inBlk && (s.liveGroups h.t.id).all fun g => g.id == h.g.id || g.quad != h.g.quad || g.inBlk

/-- Blocks of a team's pool become blocks of a group, every register zero (R242). -/
def State.takeBlocks (s : State) (grp team quad n : Nat) : State :=
  (s.onGroup grp fun g => g.setBlocks g.arch.blocks n (g.arch.blocks + n)).onTeam team fun t =>
    { t with pools := t.pools.mapIdx fun i k => if i = quad then k - n else k }

/-- Whether the pool serves a taker at once. -/
def State.poolServes (s : State) (h : Here) (n : Nat) : Bool :=
  s.takersOf h.t h.g.quad == [] && n ≤ h.t.pools.getD h.g.quad 0

/-- `blk.take` (R242): first in, first out; where no block can ever arrive it faults REG-BLOCK. -/
def execBlkTake (n : BitVec 5) (s : State) : Host.Outcome State Fault Refusal :=
  run (.blkTake n)
    { uses := []
      late := fun s h =>
        failIf (16 < h.a.blocks + n.toNat || (!s.poolServes h n.toNat && s.noGiver h n.toNat)) .regBlock
      hold := fun s h =>
        if s.poolServes h n.toNat then none
        else some fun s =>
          let k := nextEntry h.t.takers h.g.id
          (s.park h.g.id h.slot (some (.blk n.toNat k))).onTeam h.t.id fun t => { t with takers := t.takers ++ [(h.g.id, k)] }
      act := fun h s => s.takeBlocks h.g.id h.t.id h.g.quad n.toNat } s

/-- The path of a group with an entry in its pool's queue, wherever it waits, and the blocks it asks for. -/
def Group.takerPath (g : Group) (entry : Nat) : Option (PathAt × Nat) :=
  g.everyPath.findSome? fun e =>
    match e.2.park with
    | some (.blk n k) => if k = entry then some (e.1, n) else none
    | _ => none

/-- BLOCK_WAKE (R242): the first taker of a pool that holds enough goes on. -/
def execBlockWake (team quad : Nat) (s : State) : Host.Outcome State Fault Refusal :=
  match s.team? team with
  | none => .refused (.notEnabled "BLOCK_WAKE")
  | some t =>
    match (s.takersOf t quad).head?.bind fun e => (s.group? e.1).bind fun g => (g.takerPath e.2).map fun x => (e, x) with
    | none => .refused (.notEnabled "BLOCK_WAKE")
    | some (e, w, n) =>
      if n ≤ t.pools.getD quad 0 && t.runs then
        let s := s.onTeam team fun t => { t with takers := dropFirst (· == e) t.takers }
        .next ((s.takeBlocks e.1 team quad n).retireAt e.1 w)
      else .refused (.notEnabled "BLOCK_WAKE")

end Sys2Proof.Machine
end

