-- ==== Sys2Proof/Machine/Refine.lean ====
section
/-!
DEFINITION. The refinement loop controller (R390-R401): the refinement block in team memory, its checks, the controller
frame, the transitions at a routine's `ret`, and `rfl.run` and `rfl.put`.
-/
namespace Sys2Proof.Machine

/-! ### The block (R390, R391) -/

/-- The bytes of a block: fields by their offset. -/
abbrev Block := List Byte

def Block.phase (b : Block) : Nat := fieldOf b 0x3F 1
def Block.nrung (b : Block) : Nat := fieldOf b 0x3C 1
def Block.rung (b : Block) : Nat := fieldOf b 0x3D 1
def Block.policy (b : Block) : Nat := fieldOf b 0x3E 1
def Block.iter (b : Block) : Nat := fieldOf b 0x40 4
def Block.total (b : Block) : Nat := fieldOf b 0x44 4
def Block.limit (b : Block) : Nat := fieldOf b 0x34 4
def Block.putf (b : Block) : Nat := fieldOf b 0x68 1
def Block.solve (b : Block) : Nat := fieldOf b 0x00 8
def Block.resid (b : Block) : Nat := fieldOf b 0x08 8
def Block.xconv (b : Block) : Nat := fieldOf b 0x10 8
def Block.xstag (b : Block) : Nat := fieldOf b 0x18 8
def Block.xdiv (b : Block) : Nat := fieldOf b 0x20 8

/-- An f32 field above zero, finite; `zero` admits +0 too. -/
def thresholdOk (zero : Bool) (x : Nat) : Bool := x < 0x7F800000 && (zero || 0 < x)

/-- The limits of R390, but for PHASE. -/
def Block.ok (b : Block) : Bool :=
  ([0, 8, 16, 24, 32].all fun o => fieldOf b o 8 % 4 == 0 && fieldOf b o 8 < 2 ^ 52)
    && thresholdOk true (fieldOf b 0x28 4) && thresholdOk false (fieldOf b 0x2C 4) && thresholdOk false (fieldOf b 0x30 4)
    && 1 ≤ b.limit && b.limit ≤ 2 ^ 24 && 1 ≤ b.nrung && b.nrung ≤ 4 && b.rung < b.nrung && b.policy < 16
    && ((List.range 4).all fun j => if j < b.nrung then fieldOf b (0x38 + j) 1 ≤ 9 else fieldOf b (0x38 + j) 1 == 0)
    && fieldOf b 0x6A 22 == 0

/-- PHASE at `rfl.run`: the block is not in use. -/
def Block.idle (b : Block) : Bool := b.phase == 0 || (5 ≤ b.phase && b.phase ≤ 8)

/-- The block at a key, as a group or its continuation reads it (R279); bytes that are lost are a loss of the team's memory (R376). -/
def State.block (s : State) (grp k : Nat) : Block := (List.range 128).map fun i => s.viewByte (s.viewCont grp) (k + i)

/-- RESERVED-BITS of a block that fails its checks; a loss in it. -/
def State.blockFault (s : State) (grp k off : Nat) (phaseOk : Block → Bool) : Option Report :=
  let b := s.block grp k
  let a := BitVec.ofNat 64 off
  if s.isLost k 128 then some (lossAt off ⟨k, 0, s.lostIn k 128⟩)
  else if b.ok && phaseOk b then none else some { kind := .reservedBits, addr := a }

/-- Fields of a block written: offset, size and value of each (R396). -/
def State.setBlock (s : State) (grp k : Nat) (fs : List (Nat × Nat × Nat)) : State :=
  fs.foldl (fun (st : State) f => st.viewStore grp (k + f.1) (toBytes f.2.1 f.2.2)) s

/-- +∞ in binary64: no earlier test (R397). -/
def infinity64 : Nat := 0x7FF0000000000000

/-! ### The controller's steps (R393-R398) -/

/-- What a controller step works on: the group and slot, the team, the block's offset and key, and the `rfl.run` address
and word. -/
structure Run where
  grp : Nat
  slot : Bool
  off : Nat
  k : Nat
  pc : DWord
  iword : Word

/-- Registers that the controller writes for the path count as written by a callee, or by the continuation that runs (R280), and lose
their poison (R306). -/
def State.controllerWrites (s : State) (r : Run) (regs : List Reg) : State :=
  s.onGroup r.grp fun g =>
    { g with
      arch := { g.arch with poison := g.arch.poison.filter fun x => !regs.contains x }
      conts := match s.view with
        | none => g.conts.map fun c => { c with calleeWrote := c.calleeWrote ++ regs }
        | some k => g.conts.mapIdx fun j c =>
          if j = k then { c with wrote := regs.foldl (fun w q => markWrote w q (BitVec.allOnes 32)) c.wrote } else c }

/-- The controller frame pushed, and the path at a routine (R393, R395). -/
def State.enterRoutine (s : State) (r : Run) (target : Nat) (resid : Bool) : State :=
  let s := s.onArch r.grp fun a => a.pushCall r.slot r.pc (if resid then 6 else 2) 0 (BitVec.ofNat 32 r.off)
  s.goto r.grp r.slot (BitVec.ofNat 64 target) (.refine r.pc r.iword)

/-- EnterSolve at a rung: ATYP and BTYP take the rung's format (R395). -/
def State.enterSolve (s : State) (r : Run) (b : Block) (rung : Nat) : State :=
  let c : BitVec 8 := BitVec.ofNat 8 (17 * fieldOf b (0x38 + rung) 1)
  let s := s.onPath r.grp r.slot fun p => { p with fmt := fld p.fmt 8 8 ++ c }
  let s := (s.controllerWrites r [fmtReg]).setBlock r.grp r.k [(0x3F, 1, 1)]
  s.enterRoutine r b.solve false

/-- EnterResid (R395). -/
def State.enterResid (s : State) (r : Run) (b : Block) : State :=
  (s.setBlock r.grp r.k [(0x68, 1, 0), (0x3F, 1, 2)]).enterRoutine r b.resid true

/-- The exit status in s0 (R398). -/
def exitStatus (kind rung reason : Nat) : Word := BitVec.ofNat 32 (kind + 256 * rung + 65536 * reason)

def State.setStatus (s : State) (r : Run) (w : Word) : State :=
  (s.onArch r.grp fun a => a.setS 0 w).controllerWrites r [⟨.s, 0⟩]

/-- Leave: the path continues at an exit PC (R398). -/
def State.leaveRun (s : State) (r : Run) (phase kind reason rung target : Nat) : State :=
  ((s.setBlock r.grp r.k [(0x3F, 1, phase), (0x69, 1, kind)]).setStatus r (exitStatus kind rung reason)).goto r.grp r.slot
    (BitVec.ofNat 64 target) (.refine r.pc r.iword)

/-- A fault of the controller at the path (R391, R398). -/
def State.raiseRun (s : State) (r : Run) (f : Report) : State :=
  match s.group? r.grp with
  | some g => s.raise g r.slot r.pc r.iword f
  | none => s

/-- What a test decides (R397). -/
inductive Outcome where
  | converged | none
  | stagnated (reason : Nat)
  | diverged (reason : Nat)
  deriving DecidableEq, Repr

/-- A norm that is NaN, infinite, or negative and not zero (R397). -/
def badNorm (x : Num) : Bool :=
  match x with
  | .fin s m _ _ => s && m != 0
  | _ => true

/-- The product of a threshold and a norm; zero times +∞ does not arise, since thresholds of ratios are positive. -/
def scaleNorm (t : Nat) (x : Nat) : Num := (Fmt.f32.value t).mul (Fmt.f64.value x)

/-- The test of R397 on a block whose ITER has been raised to `iter`. -/
def Block.test (b : Block) (iter : Nat) : Outcome :=
  let v (x : Nat) : Num := Fmt.f64.value x
  let r := v (fieldOf b 0x58 8)
  let rn1 := fieldOf b 0x48 8
  if b.putf = 0 then .diverged 3
  else if badNorm r || badNorm (v (fieldOf b 0x60 8)) then .diverged 2
  else if !(scaleNorm (fieldOf b 0x28 4) (fieldOf b 0x60 8)).lt r then .converged
  else if (scaleNorm (fieldOf b 0x30 4) rn1).lt r then .diverged 1
  else if (scaleNorm (fieldOf b 0x2C 4) rn1).lt r && (scaleNorm (fieldOf b 0x2C 4) (fieldOf b 0x50 8)).lt (v rn1) then .stagnated 1
  else if iter = b.limit then .stagnated 2
  else .none

/-- Escalate (R398). -/
def State.escalateRun (s : State) (r : Run) (b : Block) (stag : Bool) (reason : Nat) : State :=
  let s := s.setBlock r.grp r.k [(0x3F, 1, 4)]
  let kind := if stag then 2 else 3
  if b.rung + 1 < b.nrung && b.policy.testBit b.rung then
    (s.setBlock r.grp r.k [(0x3D, 1, b.rung + 1), (0x40, 4, 0), (0x48, 8, infinity64), (0x50, 8, infinity64)]).enterSolve r b (b.rung + 1)
  else if b.policy.testBit 3 then
    let s := (s.setBlock r.grp r.k [(0x3F, 1, 8), (0x69, 1, kind)]).setStatus r (exitStatus kind b.rung reason)
    s.raiseRun r { kind := .refineExhausted, addr := BitVec.ofNat 64 r.off }
  else s.leaveRun r (if stag then 6 else 7) kind reason b.rung (if stag then b.xstag else b.xdiv)

/-- TEST (R397). -/
def State.testRun (s : State) (r : Run) (b : Block) : State :=
  let iter := (b.iter + 1) % 2 ^ 32
  let o := b.test iter
  let norms := if b.putf = 1 then [(0x50, 8, fieldOf b 0x48 8), (0x48, 8, fieldOf b 0x58 8)] else []
  let s := s.setBlock r.grp r.k ([(0x40, 4, iter), (0x44, 4, min (b.total + 1) (2 ^ 32 - 1))] ++ norms ++ [(0x3F, 1, 3)])
  match o with
  | .none => s.enterSolve r b b.rung
  | .converged => s.leaveRun r 5 1 0 b.rung b.xconv
  | .stagnated n => s.escalateRun r b true n
  | .diverged n => s.escalateRun r b false n

/-- The word at the `rfl.run` address that a frame keeps; 0 where it cannot be fetched any more. -/
def State.runWord (s : State) (t : Team) (pc : DWord) : Word :=
  match s.fetchWord t pc.toNat with
  | .ok w => w
  | .error _ => 0

/-- The transition at a `ret` that popped a controller frame (R396): its PC, FLAGS bit 2 and RETS. -/
def State.transition (s : State) (h : Here) (pc : DWord) (resid : Bool) (off : Nat) : State :=
  let r : Run := ⟨h.g.id, h.slot, off, teamKey h.t.id off, pc, s.runWord h.t pc⟩
  let b := s.block h.g.id r.k
  match s.blockFault h.g.id r.k off fun b => b.phase == (if resid then 2 else 1) with
  | some f => s.raiseRun r f
  | none =>
    let s := s.onGroup h.g.id fun g =>
      { g with conts := g.conts.mapIdx fun j c => if s.view = some j then c.track [(r.k / 64, 1), (r.k / 64 + 1, 1)] else c }
    if resid then s.testRun r b else s.enterResid r b

/-! ### The innermost frame (R399) -/

/-- The block offset of the innermost controller frame among some positions. -/
def frameIn : List Pos → Option Nat
  | [] => none
  | .call _ _ _ fl _ rets :: r => if fl.getLsbD 1 then some rets.toNat else frameIn r
  | _ :: r => frameIn r

/-- The virtual address of a position's spill image (R268). -/
def State.spillVA (s : State) (h : Here) (pos : Nat) : Nat := s.privbase (s.hereCtx h) + h.g.priv * 2 ^ 24 + 64 * pos

/-- The same among the spilled positions, newest first. -/
def State.frameSpilled (s : State) (h : Here) : Nat → Option Nat
  | 0 => none
  | n + 1 =>
    match s.access (s.privWalker h) .read (s.spillVA h n) 64 with
    | .error _ => none
    | .ok x =>
      match frameIn [Pos.ofImage (s.bytes x.1 64)] with
      | some o => some o
      | none => State.frameSpilled s h n

def State.innermost (s : State) (h : Here) : Option Nat := (frameIn h.a.stack) <|> s.frameSpilled h h.a.spilled

/-- What stops that search: a spilled position above the frame that cannot be read (R268). -/
def State.spilledFault (s : State) (h : Here) : Nat → Option Report
  | 0 => none
  | n + 1 =>
    let va := s.spillVA h n
    match s.access (s.privWalker h) .read va 64 with
    | .error f => some (f.report va)
    | .ok x =>
      if s.isLost x.1 64 then some (lossAt va ⟨x.1, x.2, 1⟩)
      else if (frameIn [Pos.ofImage (s.bytes x.1 64)]).isSome then none
      else State.spilledFault s h n

/-- That search waits for a stack that holds a position (R379). -/
def State.spilledHeld (s : State) (h : Here) : Nat → Bool
  | 0 => false
  | n + 1 =>
    s.held (s.privWalker h) (s.spillVA h n) ||
      match s.access (s.privWalker h) .read (s.spillVA h n) 64 with
      | .error _ => false
      | .ok x => (frameIn [Pos.ofImage (s.bytes x.1 64)]).isNone && State.spilledHeld s h n

/-- The faults of `rfl.put` (R399): the frame cannot be looked for, there is none, its block is lost, or not in its residual
phase. -/
def State.putFault (s : State) (h : Here) : Option Report :=
  if (frameIn h.a.stack).isNone && (s.spilledFault h h.a.spilled).isSome then s.spilledFault h h.a.spilled
  else
    match s.innermost h with
    | none => some { kind := .pmstack, addr := 2 }
    | some o =>
      let b := teamKey h.t.id o
      if s.isLost b 128 then some (lossAt o ⟨b, 0, s.lostIn b 128⟩)
      else if (s.block h.g.id b).phase = 2 then none
      else some { kind := .pmstack, addr := 2 }

/-! ### The instructions -/

/-- `rfl.run` (R395): a run starts, with the solve routine at the block's rung. -/
def execRflRun (a : SReg) (s : State) : Host.Outcome State Fault Refusal :=
  run (.rflRun a)
    { uses := srcS a
      late := fun s h =>
        let o := (h.a.getS a.toNat).toNat
        if o % 64 != 0 then some { kind := .align, addr := BitVec.ofNat 64 o }
        else if (teamMemKey h.t o 128).isNone then some { kind := .bounds, addr := BitVec.ofNat 64 o }
        else s.blockFault h.g.id (teamKey h.t.id o) o Block.idle <|> h.a.pushFault h.slot
      act := fun h s =>
        let o := (h.a.getS a.toNat).toNat
        let r : Run := ⟨h.g.id, h.slot, o, teamKey h.t.id o, h.p.pc, (Instr.rflRun a).first⟩
        let b := s.block r.grp r.k
        (s.setBlock r.grp r.k [(0x48, 8, infinity64), (0x50, 8, infinity64), (0x40, 4, 0), (0x44, 4, 0), (0x68, 1, 0), (0x69, 1, 0)]).enterSolve
          r b b.rung } s

/-- `rfl.put` (R399): the norms go into the innermost frame's block, in its residual phase. -/
def execRflPut (a b : SReg) (s : State) : Host.Outcome State Fault Refusal :=
  run (.rflPut a b)
    { uses := srcS a 2 ++ srcS b 2
      stall := fun s h => (frameIn h.a.stack).isNone && s.spilledHeld h h.a.spilled
      late := fun s h => s.putFault h
      act := fun h s =>
        match s.innermost h with
        | none => s
        | some o =>
          s.setBlock h.g.id (teamKey h.t.id o)
            [(0x58, 8, (h.a.getX a.toNat).toNat), (0x60, 8, (h.a.getX b.toNat).toNat), (0x68, 1, 1)] } s

end Sys2Proof.Machine
end

