-- ==== Sys2Proof/Machine/Uniform.lean ====
section
/-!
DEFINITION. The uniform arithmetic instructions (R192-R194): they compute once for the group, whatever `em` holds (R169).
-/
namespace Sys2Proof

/-- A literal as the operand it replaces: extended to 64 bits where the operand is a pair, with its sign for the
operations whose letter is i (R79, R192). -/
def litOperand (wide signed : Bool) (lit : Word) : Nat :=
  if wide && signed then wrap (sext lit.toNat 32) 64 else lit.toNat

/-- The operations of R93 that take two sources or a literal, on operands of 32 bits or of 64 (R192, R193). -/
def UOp.eval (op : UOp) (wide : Bool) (c : Cond) (a b : Nat) : Nat :=
  let ti : Ty := if wide then .i64 else .i32
  let tn : Ty := if wide then .n64 else .n32
  match op with
  | .iadd => LitOp.eval .iadd wide a b
  | .isub => LitOp.eval .isub wide a b
  | .imul => LitOp.eval .imul wide a b
  | .imulhiI => LitOp.eval .imulhiI wide a b
  | .imulhiN => LitOp.eval .imulhiN wide a b
  | .iminI => LitOp.eval .iminI wide a b
  | .iminN => LitOp.eval .iminN wide a b
  | .imaxI => LitOp.eval .imaxI wide a b
  | .imaxN => LitOp.eval .imaxN wide a b
  | .and => LitOp.eval .and wide a b
  | .or => LitOp.eval .or wide a b
  | .xor => LitOp.eval .xor wide a b
  | .andn => LitOp.eval .andn wide a b
  | .shl => LitOp.eval .shl wide a b
  | .shrN => LitOp.eval .shrN wide a b
  | .shrI => LitOp.eval .shrI wide a b
  | .rotl => LitOp.eval .rotl wide a b
  | .mov => b
  | .icmpI => Machine.truth (c.int (ti.int a) (ti.int b))
  | .icmpN => Machine.truth (c.int (tn.int a) (tn.int b))
  | .fadd => LitFOp.eval .fadd .f32 a b
  | .fsub => LitFOp.eval .fsub .f32 a b
  | .fmul => LitFOp.eval .fmul .f32 a b
  | .fmin => LitFOp.eval .fmin .f32 a b
  | .fmax => LitFOp.eval .fmax .f32 a b
  | .fcmp => Machine.truth (c.float (Fmt.f32.value a) (Fmt.f32.value b))

/-- The shifts and the rotate read one 32-bit amount (R170). -/
def UOp.amount (op : UOp) : Bool :=
  match op with
  | .shl | .shrN | .shrI | .rotl => true
  | _ => false

/-- The extended operations whose B operand is 32 bits in every type (R170, R173). -/
def XOp.amount (op : XOp) : Bool :=
  match op with
  | .shl | .shr | .bfe => true
  | _ => false

end Sys2Proof

namespace Sys2Proof.Machine

/-- Registers of a uniform operand: a pair with W64 (R79). -/
def wregs (w : Bool) : Nat := if w then 2 else 1

/-- A uniform instruction that writes k registers from s<d> on with a value of the registers before it (R169). -/
def uniPlan (d : SReg) (k : Nat) (src : List Use) (val : Arch → Nat) : Plan :=
  { uses := dstS d k ++ src
    act := fun h s => s.onArch h.g.id fun b => b.writeUni d.toNat k (val h.a) }

def uniUn (i : Instr) (d a : SReg) (k : Nat) (f : Nat → Nat) (s : State) : Host.Outcome State Fault Refusal :=
  run i (uniPlan d k (srcS a k) fun r => f (r.uni a.toNat k)) s

/-- A two-source operation of R93. -/
def uniBin (i : Instr) (op : UOp) (d a b : SReg) (w : Bool) (c : Cond) (s : State) : Host.Outcome State Fault Refusal :=
  let k := wregs w
  let kb := if op.amount then 1 else k
  run i
    (uniPlan d (if op.isCompare then 1 else k) (srcS a k ++ srcS b kb) fun r =>
      op.eval w c (r.uni a.toNat k) (r.uni b.toNat kb)) s

/-- Uniform `iadd.i32` (R192). -/
def execUniformIadd (d a b : SReg) (w : Bool) (s : State) : Host.Outcome State Fault Refusal :=
  uniBin (.uniformIadd d a b w) .iadd d a b w .eq s

/-- Uniform `isub.i32` (R192). -/
def execUniformIsub (d a b : SReg) (w : Bool) (s : State) : Host.Outcome State Fault Refusal :=
  uniBin (.uniformIsub d a b w) .isub d a b w .eq s

/-- Uniform `imul.i32` (R192). -/
def execUniformImul (d a b : SReg) (w : Bool) (s : State) : Host.Outcome State Fault Refusal :=
  uniBin (.uniformImul d a b w) .imul d a b w .eq s

/-- Uniform `imulhi.i32` (R192). -/
def execUniformImulhiI (d a b : SReg) (w : Bool) (s : State) : Host.Outcome State Fault Refusal :=
  uniBin (.uniformImulhiI d a b w) .imulhiI d a b w .eq s

/-- Uniform `imulhi.n32` (R192). -/
def execUniformImulhiN (d a b : SReg) (w : Bool) (s : State) : Host.Outcome State Fault Refusal :=
  uniBin (.uniformImulhiN d a b w) .imulhiN d a b w .eq s

/-- Uniform `imin.i32` (R192). -/
def execUniformIminI (d a b : SReg) (w : Bool) (s : State) : Host.Outcome State Fault Refusal :=
  uniBin (.uniformIminI d a b w) .iminI d a b w .eq s

/-- Uniform `imin.n32` (R192). -/
def execUniformIminN (d a b : SReg) (w : Bool) (s : State) : Host.Outcome State Fault Refusal :=
  uniBin (.uniformIminN d a b w) .iminN d a b w .eq s

/-- Uniform `imax.i32` (R192). -/
def execUniformImaxI (d a b : SReg) (w : Bool) (s : State) : Host.Outcome State Fault Refusal :=
  uniBin (.uniformImaxI d a b w) .imaxI d a b w .eq s

/-- Uniform `imax.n32` (R192). -/
def execUniformImaxN (d a b : SReg) (w : Bool) (s : State) : Host.Outcome State Fault Refusal :=
  uniBin (.uniformImaxN d a b w) .imaxN d a b w .eq s

/-- Uniform `and.b32` (R192). -/
def execUniformAnd (d a b : SReg) (w : Bool) (s : State) : Host.Outcome State Fault Refusal :=
  uniBin (.uniformAnd d a b w) .and d a b w .eq s

/-- Uniform `or.b32` (R192). -/
def execUniformOr (d a b : SReg) (w : Bool) (s : State) : Host.Outcome State Fault Refusal :=
  uniBin (.uniformOr d a b w) .or d a b w .eq s

/-- Uniform `xor.b32` (R192). -/
def execUniformXor (d a b : SReg) (w : Bool) (s : State) : Host.Outcome State Fault Refusal :=
  uniBin (.uniformXor d a b w) .xor d a b w .eq s

/-- Uniform `andn.b32` (R192). -/
def execUniformAndn (d a b : SReg) (w : Bool) (s : State) : Host.Outcome State Fault Refusal :=
  uniBin (.uniformAndn d a b w) .andn d a b w .eq s

/-- Uniform `shl.b32` (R192). -/
def execUniformShl (d a b : SReg) (w : Bool) (s : State) : Host.Outcome State Fault Refusal :=
  uniBin (.uniformShl d a b w) .shl d a b w .eq s

/-- Uniform `shr.n32` (R192). -/
def execUniformShrN (d a b : SReg) (w : Bool) (s : State) : Host.Outcome State Fault Refusal :=
  uniBin (.uniformShrN d a b w) .shrN d a b w .eq s

/-- Uniform `shr.i32` (R192). -/
def execUniformShrI (d a b : SReg) (w : Bool) (s : State) : Host.Outcome State Fault Refusal :=
  uniBin (.uniformShrI d a b w) .shrI d a b w .eq s

/-- Uniform `rotl.b32` (R192). -/
def execUniformRotl (d a b : SReg) (w : Bool) (s : State) : Host.Outcome State Fault Refusal :=
  uniBin (.uniformRotl d a b w) .rotl d a b w .eq s

/-- Uniform `popc.b32` (R192). -/
def execUniformPopc (d a : SReg) (w : Bool) (s : State) : Host.Outcome State Fault Refusal :=
  uniUn (.uniformPopc d a w) d a (wregs w) (popCount (32 * wregs w)) s

/-- Uniform `clz.b32` (R192). -/
def execUniformClz (d a : SReg) (w : Bool) (s : State) : Host.Outcome State Fault Refusal :=
  uniUn (.uniformClz d a w) d a (wregs w) (leadingZeros (32 * wregs w)) s

/-- Uniform `brev.b32` (R192). -/
def execUniformBrev (d a : SReg) (w : Bool) (s : State) : Host.Outcome State Fault Refusal :=
  uniUn (.uniformBrev d a w) d a (wregs w) (bitReverse (32 * wregs w)) s

/-- Uniform `mov.b32` (R192). -/
def execUniformMov (d a : SReg) (w : Bool) (s : State) : Host.Outcome State Fault Refusal :=
  uniUn (.uniformMov d a w) d a (wregs w) id s

/-- Uniform `icmp` (R192). -/
def execUniformIcmpI (d a b : SReg) (w : Bool) (c : Cond) (s : State) : Host.Outcome State Fault Refusal :=
  uniBin (.uniformIcmpI d a b w c) .icmpI d a b w c s

/-- Uniform `icmp` (R192). -/
def execUniformIcmpN (d a b : SReg) (w : Bool) (c : Cond) (s : State) : Host.Outcome State Fault Refusal :=
  uniBin (.uniformIcmpN d a b w c) .icmpN d a b w c s

/-- Uniform `fadd.f32` (R193). -/
def execUniformFadd (d a b : SReg) (s : State) : Host.Outcome State Fault Refusal :=
  uniBin (.uniformFadd d a b) .fadd d a b false .eq s

/-- Uniform `fsub.f32` (R193). -/
def execUniformFsub (d a b : SReg) (s : State) : Host.Outcome State Fault Refusal :=
  uniBin (.uniformFsub d a b) .fsub d a b false .eq s

/-- Uniform `fmul.f32` (R193). -/
def execUniformFmul (d a b : SReg) (s : State) : Host.Outcome State Fault Refusal :=
  uniBin (.uniformFmul d a b) .fmul d a b false .eq s

/-- Uniform `fmin.f32` (R193). -/
def execUniformFmin (d a b : SReg) (s : State) : Host.Outcome State Fault Refusal :=
  uniBin (.uniformFmin d a b) .fmin d a b false .eq s

/-- Uniform `fmax.f32` (R193). -/
def execUniformFmax (d a b : SReg) (s : State) : Host.Outcome State Fault Refusal :=
  uniBin (.uniformFmax d a b) .fmax d a b false .eq s

/-- Uniform `fcmp.f32` (R193). -/
def execUniformFcmp (d a b : SReg) (c : Cond) (s : State) : Host.Outcome State Fault Refusal :=
  uniBin (.uniformFcmp d a b c) .fcmp d a b false c s

/-- The literal forms of the uniform operations: the literal replaces SB, and SA in `mov` (R192, R193). -/
def execUniformLiteralForm (op : UOp) (d a : SReg) (w : Bool) (c : Cond) (lit : Word) (s : State) :
    Host.Outcome State Fault Refusal :=
  let k := wregs w
  run (.uniformLiteralForm op d a w c lit)
    (uniPlan d (if op.isCompare then 1 else k) (if op == .mov then [] else srcS a k) fun r =>
      op.eval w c (r.uni a.toNat k) (litOperand w op.isSigned lit)) s

/-- The value of a uniform extended operation (R194): `cvt` draws its random value from a row of its one source (R60). -/
def uniExtVal (op : XOp) (a b c : SReg) (t : Ty) (rnd : Rnd) (m : XMod) (lit : Option Word) (r : Arch) : Nat :=
  match op with
  | .cvt =>
    let x := r.uni a.toNat m.st.regs / (if m.hi then 2 ^ 16 else 1) % 2 ^ m.st.bits
    fill32 t (convert t m.st rnd m.sat (rhoAt [x] 0) x)
  | op =>
    let y :=
      match lit with
      | some l => litOperand t.is64 t.isSigned l
      | none => r.uni b.toNat (if op.amount then 1 else t.regs)
    op.eval t rnd m (r.uni a.toNat t.regs) y (r.uni c.toNat (if op == .sel then 1 else t.regs))

/-- The sources of a uniform extended operation (R91, R194). -/
def uniExtUses (op : XOp) (a b c : SReg) (t : Ty) (m : XMod) (lit : Option Word) : List Use :=
  srcS a (if op == .cvt then m.st.regs else t.regs)
    ++ (if op.spec.b && lit.isNone then srcS b (if op.amount then 1 else t.regs) else [])
    ++ (if op.spec.c then srcS c (if op == .sel then 1 else t.regs) else [])

/-- The extended operations on uniform registers (R194). -/
def execUniformExtended (op : XOp) (d a b c : SReg) (t : Ty) (rnd : Rnd) (m : XMod) (lit : Option Word) (s : State) :
    Host.Outcome State Fault Refusal :=
  run (.uniformExtended op d a b c t rnd m lit)
    (uniPlan d t.regs (uniExtUses op a b c t m lit) (uniExtVal op a b c t rnd m lit)) s

end Sys2Proof.Machine
end

