-- ==== Sys2Proof/Machine/Control.lean ====
section
/-!
DEFINITION. Control flow (R85, R258-R275): branches, calls, returns, `exit`, the predicate stack, `fmt.set`, `get` and
`wait.k`; entering a clause; and the hardware steps of a group's paths.
-/
namespace Sys2Proof.Machine

/-! ### Branches (R260, R261, R271) -/

/-- `bra` (R260). -/
def execBra (c : BrCond) (a : SReg) (disp : BitVec 16) (s : State) : Host.Outcome State Fault Refusal :=
  run (.bra c a disp)
    { uses := if c = .always then [] else srcS a
      stall := fun s h => c.holds (h.a.getS a.toNat) && s.clauseHeld h.t (branchTarget h.p.pc disp)
      early := fun s h => if c.holds (h.a.getS a.toNat) then s.targetFault h.t (branchTarget h.p.pc disp) else none
      act := fun h s =>
        let t := branchTarget h.p.pc disp
        if c.holds (h.a.getS a.toNat) then (s.spinAt h (.bra c a disp) true t).goto h.g.id h.slot t
        else s.spinAt h (.bra c a disp) false t } s

/-- Tk: the lanes that take a `brd` (R261). -/
def Here.taken (h : Here) (p : PReg) (neg : Bool) : Word :=
  let q := h.a.getP p.toNat
  h.p.em &&& (if neg then ~~~q else q)

/-- Fl and Z: the active lanes that fall through, and the path's lanes that are switched off (R261). -/
def Here.falls (h : Here) (p : PReg) (neg : Bool) : Word := h.p.em &&& ~~~h.taken p neg
def Here.off (h : Here) : Word := h.p.m &&& ~~~h.p.em

/-- Whether a `brd` splits its path. -/
def Here.splits (h : Here) (p : PReg) (neg : Bool) : Bool := h.taken p neg != 0 && !(h.falls p neg == 0 && h.off == 0)

/-- The split (R261, R267): the REC is pushed above whatever the other slot held, and the children take the slots; the
fall-through child keeps its parent's. -/
def Arch.split (a : Arch) (slot : Bool) (tk fl z : Word) (target rpc : DWord) : Arch :=
  match a.path slot with
  | none => a
  | some p =>
    let b := a.pushOther slot
    let b := { b with stack := .recon rpc p.m z (p.pst.headD 0) p.depth p.floor p.fmt :: b.stack }
    let child := { p with floor := p.depth, passed := 0 }
    let taken := { child with m := tk, pc := target, entry := .target }
    if fl = 0 then b.setPath slot (some taken)
    else (b.setPath slot (some { child with m := fl })).setPath (!slot) (some taken)

/-- `brd` (R261). -/
def execBrd (p : PReg) (neg : Bool) (disp rdisp : BitVec 16) (s : State) : Host.Outcome State Fault Refusal :=
  let i : Instr := .brd p neg disp rdisp
  run i
    { uses := srcP p ++ reading [topReg]
      stall := fun s h =>
        h.taken p neg != 0 && (s.clauseHeld h.t (branchTarget h.p.pc disp) || (h.splits p neg && s.clauseHeld h.t (branchTarget h.p.pc rdisp)))
      early := fun s h =>
        if h.taken p neg == 0 then none
        else
          s.targetFault h.t (branchTarget h.p.pc disp) <|>
            (if h.splits p neg then s.targetFault h.t (branchTarget h.p.pc rdisp) (rdisp.setWidth 64) else none)
      late := fun s h =>
        if h.splits p neg then
          let r := branchTarget h.p.pc rdisp
          (match s.fetchWord h.t r.toNat with
          | .ok _ => none
          | .error f => some (f.report r.toNat)) <|> h.a.pushFault h.slot
        else none
      act := fun h s =>
        let t := branchTarget h.p.pc disp
        if h.taken p neg == 0 then s.spinAt h i false t
        else if h.splits p neg then
          let s := s.onGroup h.g.id fun g =>
            { g with
              arch := g.arch.split h.slot (h.taken p neg) (h.falls p neg) h.off t (branchTarget h.p.pc rdisp)
              detector := if s.view.isSome then g.detector else none }
          (s.ownUses h.g.id (reading [fmtReg]) 0 fun _ => BitVec.allOnes 32).perfGroup h.g 6 1
        else (s.spinAt h i true t).goto h.g.id h.slot t } s

/-- `bra.ind` (R271). -/
def execBraInd (a : SReg) (s : State) : Host.Outcome State Fault Refusal :=
  run (.braInd a)
    { uses := srcS a 2
      stall := fun s h => s.clauseHeld h.t (h.a.getX a.toNat)
      early := fun s h => s.targetFault h.t (h.a.getX a.toNat)
      act := fun h s => s.goto h.g.id h.slot (h.a.getX a.toNat) } s

/-! ### Calls and returns (R270, R272, R275) -/

/-- A call to a target: CALL is pushed with its FLAGS, PIDX and RETS, and the path goes there (R270). -/
def State.call (s : State) (h : Here) (target : DWord) (flags : BitVec 8) (pidx : BitVec 16) (rets : Word) : State :=
  (s.onArch h.g.id fun a => a.pushCall h.slot h.p.nextClause flags pidx rets).goto h.g.id h.slot target

/-- `call` (R270). -/
def execCall (disp : BitVec 16) (s : State) : Host.Outcome State Fault Refusal :=
  run (.call disp)
    { uses := []
      stall := fun s h => s.clauseHeld h.t (branchTarget h.p.pc disp)
      early := fun s h => s.targetFault h.t (branchTarget h.p.pc disp)
      late := fun _ h => h.a.pushFault h.slot
      act := fun h s => s.call h (branchTarget h.p.pc disp) 0 0 0 } s

/-- `call.ind` (R270). -/
def execCallInd (a : SReg) (s : State) : Host.Outcome State Fault Refusal :=
  run (.callInd a)
    { uses := srcS a 2
      stall := fun s h => s.clauseHeld h.t (h.a.getX a.toNat)
      early := fun s h => s.targetFault h.t (h.a.getX a.toNat)
      late := fun _ h => h.a.pushFault h.slot
      act := fun h s => s.call h (h.a.getX a.toNat) 0 0 0 } s

/-- `call.fk` (R275): it forks where R275 allows, and pushes a CALL with FLAGS bit 0, PIDX and RETS in any case. -/
def execCallFk (disp : BitVec 16) (nret : BitVec 3) (r0 r1 r2 r3 : VReg) (s : State) : Host.Outcome State Fault Refusal :=
  let i : Instr := .callFk disp nret r0 r1 r2 r3
  let rets := (encode i).getD 1 0
  run i
    { uses := []
      stall := fun s h => s.clauseHeld h.t (branchTarget h.p.pc disp)
      early := fun s h => s.targetFault h.t (branchTarget h.p.pc disp)
      late := fun _ h =>
        (regFault .regBlock (((declaredOf rets).find? fun n => 8 * h.a.blocks ≤ n).map fun n => ⟨.v, n⟩))
          <|> h.a.pushFault h.slot
      act := fun h s =>
        let s := if s.forks h then s.fork h rets else s
        s.call h (branchTarget h.p.pc disp) 1 ((predIndex h.p.pc).setWidth 16) rets } s

/-- The innermost call, where `ret` can return from it (R272). -/
def Here.returns (h : Here) : Option (DWord × BitVec 8) :=
  match h.a.stack with
  | .call pc _ _ fl _ _ :: _ => if h.p.depth = h.p.floor then some (pc, fl) else none
  | _ => none

/-- `ret` (R272): PMSTACK without a call on top, or with entries of the callee's still pushed; a controller frame hands on
to the controller (R396). What the callee put off is performed before a resolution or a transition (R152, R159). -/
def execRet (s : State) : Host.Outcome State Fault Refusal :=
  run .ret
    { uses := []
      stall := fun s h => match h.returns with | some (pc, fl) => !fl.getLsbD 1 && s.clauseHeld h.t pc | none => false
      early := fun s h =>
        match h.returns with
        | some (pc, fl) => if fl.getLsbD 1 then none else s.targetFault h.t pc
        | none => none
      late := fun _ h =>
        match h.a.stack with
        | .call .. :: _ => if h.p.depth = h.p.floor then none else some { kind := .pmstack, addr := 0 }
        | _ => some { kind := .pmstack, addr := 1 }
      act := fun h s =>
        match h.a.stack with
        | .call pc _ floor fl pidx rets :: r =>
          let s := if fl.getLsbD 0 || fl.getLsbD 1 then s.drainLate h.g.id else s
          let s := s.onArch h.g.id fun a =>
            let a := Arch.setPath { a with stack := r } h.slot
              ((a.path h.slot).map fun (p : Path) => { p with floor := floor, pc := pc, entry := .target })
            a.popWait h.p.pst
          if fl.getLsbD 1 then s.transition h pc (fl.getLsbD 2) rets.toNat
          else if fl.getLsbD 0 then
            let s := s.trainPred h pidx rets
            if s.view.isSome then s else s.resolve h
          else s
        | _ => s } s

/-! ### Exit (R273) -/

/-- The group's state after its active lanes have left: live mask and split mask, an emptied slot, the merges that this
allows, and the unwinding. -/
def Arch.leave (a : Arch) (slot : Bool) (p : Path) (em : Word) : Arch :=
  let m := p.m &&& ~~~em
  let b := { a with lm := a.lm &&& ~~~em }
  let b := b.setPath slot (if m = 0 then none else (b.path slot).map fun (q : Path) => { q with m := m })
  let b := b.mergeCheck p.pst
  if b.path0.isNone && b.path1.isNone then b.settle p.pst else b.popWait p.pst

/-- `exit` (R273); a callee that executes it squashes the live continuations first (R283). The paths left may all be parked (R290,
R333). -/
def execExit (s : State) : Host.Outcome State Fault Refusal :=
  run .exit
    { uses := reading [topReg]
      act := fun h s =>
        let em := h.p.em
        let s := s.squashAll h.g.id
        if h.a.lm &&& ~~~em = 0 then (s.onArch h.g.id fun a => { a with lm := 0 }).groupExits h .exit
        else if em = 0 then s
        else (s.onArch h.g.id fun a => a.leave h.slot h.p em).leftSlot h.g h.slot h.p.pc Instr.exit.first } s

/-- `nop` (R274). -/
def execNop (s : State) : Host.Outcome State Fault Refusal := run .nop { uses := [], act := fun _ s => s } s

/-! ### The execute mask and the predicate stack (R256-R259) -/

/-- The predicate stack of the issuing path replaced. -/
def State.setPst (s : State) (h : Here) (l : List Word) : State :=
  s.onPath h.g.id h.slot fun p => { p with pst := l }

/-- `em.set` (R259). -/
def execEmSet (a : SReg) (s : State) : Host.Outcome State Fault Refusal :=
  run (.emSet a)
    { uses := srcS a ++ writing false [topReg]
      act := fun h s => s.setPst h (h.a.getS a.toNat :: h.p.pst.tail) } s

/-- PMSTACK of a predicate-stack instruction: address field 0. -/
def pmFault (bad : Bool) : Option Report := if bad then some { kind := .pmstack } else none

/-- `pm.push` (R258). -/
def execPmPush (p : PReg) (s : State) : Host.Outcome State Fault Refusal :=
  run (.pmPush p)
    { uses := srcP p ++ reading [topReg] ++ writing false [topReg]
      late := fun _ h => pmFault (h.p.depth == 16)
      act := fun h s => s.setPst h ((h.p.pst.headD 0 &&& h.a.getP p.toNat) :: h.p.pst) } s

/-- `pm.inv` (R258). -/
def execPmInv (s : State) : Host.Outcome State Fault Refusal :=
  run .pmInv
    { uses := reading [topReg] ++ writing false [topReg]
      late := fun _ h => pmFault (h.p.depth == 0)
      act := fun h s => s.setPst h ((h.p.pst.tail.headD 0 &&& ~~~h.p.pst.headD 0) :: h.p.pst.tail) } s

/-- `pm.pop` (R258). -/
def execPmPop (s : State) : Host.Outcome State Fault Refusal :=
  run .pmPop
    { uses := reading [topReg] ++ writing false [topReg]
      late := fun _ h => pmFault (h.p.depth == h.p.floor)
      act := fun h s => s.setPst h h.p.pst.tail } s

/-! ### `fmt.set` (R224) -/

/-- `fmt` takes bits 14:0 of a value; bit 15 stays 0. -/
def State.setFmt (s : State) (h : Here) (v : Word) : State :=
  s.onPath h.g.id h.slot fun p => { p with fmt := (fld v 0 15).setWidth 16 }

/-- `fmt.set sa` (R224). -/
def execFmtSet (a : SReg) (s : State) : Host.Outcome State Fault Refusal :=
  run (.fmtSet a) { uses := srcS a ++ writing false [fmtReg], act := fun h s => s.setFmt h (h.a.getS a.toNat) } s

/-- `fmt.set imm` (R224). -/
def execFmtSetImm (lit : Word) (s : State) : Host.Outcome State Fault Refusal :=
  run (.fmtSetImm lit) { uses := writing false [fmtReg], act := fun h s => s.setFmt h lit } s

/-! ### `get` (R95) -/

/-- A value read into k uniform registers. -/
def getPlan (d : SReg) (k : Nat) (src : List Use) (f : State → Here → Nat) : Plan :=
  { uses := dstS d k ++ src
    act := fun h s => s.onArch h.g.id fun a => a.writeUni d.toNat k (f s h) }

/-- A size of the team's grid. -/
def State.gridSize (s : State) (h : Here) (f : Grid → Nat) : Nat := ((s.grid? h.t.grid).map f).getD 1

/-- The group's index in its team. -/
def execGetGroup (d : SReg) (s : State) : Host.Outcome State Fault Refusal :=
  run (.getGroup d) (getPlan d 1 [] fun _ h => h.g.gidx) s
/-- The team's index along x, y and z (R309). -/
def execGetTeamX (d : SReg) (s : State) : Host.Outcome State Fault Refusal :=
  run (.getTeamX d) (getPlan d 1 [] fun s h => h.t.t % s.gridSize h (·.gx)) s
def execGetTeamY (d : SReg) (s : State) : Host.Outcome State Fault Refusal :=
  run (.getTeamY d) (getPlan d 1 [] fun s h => h.t.t / s.gridSize h (·.gx) % s.gridSize h (·.gy)) s
def execGetTeamZ (d : SReg) (s : State) : Host.Outcome State Fault Refusal :=
  run (.getTeamZ d) (getPlan d 1 [] fun s h => h.t.t / (s.gridSize h (·.gx) * s.gridSize h (·.gy))) s
/-- The grid's size along x, y and z (R309). -/
def execGetGridX (d : SReg) (s : State) : Host.Outcome State Fault Refusal :=
  run (.getGridX d) (getPlan d 1 [] fun s h => s.gridSize h (·.gx)) s
def execGetGridY (d : SReg) (s : State) : Host.Outcome State Fault Refusal :=
  run (.getGridY d) (getPlan d 1 [] fun s h => s.gridSize h (·.gy)) s
def execGetGridZ (d : SReg) (s : State) : Host.Outcome State Fault Refusal :=
  run (.getGridZ d) (getPlan d 1 [] fun s h => s.gridSize h (·.gz)) s
/-- The core identifier: the site index (R16). -/
def execGetCore (d : SReg) (s : State) : Host.Outcome State Fault Refusal :=
  run (.getCore d) (getPlan d 1 [] fun _ h => h.t.site) s
/-- The cluster identifier (R309). -/
def execGetCluster (d : SReg) (s : State) : Host.Outcome State Fault Refusal :=
  run (.getCluster d) (getPlan d 1 [] fun _ h => h.t.cluster) s
/-- The die number. -/
def execGetDie (d : SReg) (s : State) : Host.Outcome State Fault Refusal :=
  run (.getDie d) (getPlan d 1 [] fun _ h => h.t.die) s
/-- The context identifier. -/
def execGetCtx (d : SReg) (s : State) : Host.Outcome State Fault Refusal :=
  run (.getCtx d) (getPlan d 1 [] fun s h => s.hereCtx h) s
/-- The core cycle counter, into a pair (R26). -/
def execGetCycle (d : SReg) (s : State) : Host.Outcome State Fault Refusal :=
  run (.getCycle d) (getPlan d 2 [] fun s h => (s.core h.t.die h.t.site).cycle.toNat) s
/-- The execute mask (R257). -/
def execGetEm (d : SReg) (s : State) : Host.Outcome State Fault Refusal :=
  run (.getEm d) (getPlan d 1 (reading [topReg]) fun _ h => h.p.em.toNat) s
/-- The live mask. -/
def execGetLm (d : SReg) (s : State) : Host.Outcome State Fault Refusal :=
  run (.getLm d) (getPlan d 1 [] fun _ h => h.a.lm.toNat) s
/-- `fmt`, zero-extended. -/
def execGetFmt (d : SReg) (s : State) : Host.Outcome State Fault Refusal :=
  run (.getFmt d) (getPlan d 1 (reading [fmtReg]) fun _ h => h.p.fmt.toNat) s

/-! ### `wait.k` (R138) -/

/-- `wait.k`: it parks while the counter is above the limit, and then proves pending bits clear. -/
def execWaitK (a : SReg) (n : BitVec 4) (s : State) : Host.Outcome State Fault Refusal :=
  run (.waitK a n)
    { uses := srcS a
      hold := fun _ h =>
        let lim := (h.a.getS a.toNat).toNat
        if lim < h.a.getK n.toNat then
          some fun s => (s.park h.g.id h.slot (some (.waitK n.toNat lim))).ownUses h.g.id (srcS a) 0 fun _ => BitVec.allOnes 32
        else none
      act := fun h s => s.onArch h.g.id fun b => b.clearProven n.toNat (h.a.getS a.toNat).toNat } s

/-- Whether a path parked on counters has what it waits for (R86, R138). -/
def Arch.counterWake (a : Arch) (p : Path) : Bool :=
  match p.park with
  | some (.waitK c lim) => a.getK c ≤ lim
  | some (.waitHdr m) => a.waitMet m
  | _ => false

/-- The path behind a header whose WAIT is met. -/
def Path.inside (p : Path) : Path := { p with pc := p.hdr + 4, entry := .inside, park := none }

/-- A path parked on counters goes on. -/
def State.wakeCounter (s : State) (grp : Nat) (slot : Bool) (p : Path) : State :=
  match p.park with
  | some (.waitK c lim) => (s.onArch grp fun a => a.clearProven c lim).retireParked grp slot
  | some (.waitHdr m) => (s.onArch grp fun a => a.clearWait m).onPath grp slot Path.inside
  | _ => s

/-- WAIT_K_WAKE (R138). -/
def execWaitKWake (grp : Nat) (slot : Bool) (s : State) : Host.Outcome State Fault Refusal :=
  match s.group? grp with
  | none => .refused (.notEnabled "WAIT_K_WAKE")
  | some g =>
    match g.arch.path slot with
    | none => .refused (.notEnabled "WAIT_K_WAKE")
    | some p =>
      if g.arch.counterWake p && (s.team? g.team).any Team.runs then .next (s.wakeCounter grp slot p)
      else .refused (.notEnabled "WAIT_K_WAKE")

/-! ### Entering a clause (R68, R85, R86, R262) -/

/-- The path that is about to enter a clause. -/
def State.entering (s : State) : Option Here :=
  match s.group? s.cur.1 with
  | none => none
  | some g =>
    match s.team? g.team, g.arch.path s.cur.2 with
    | some t, some p => if t.runs && g.runs && p.park == none && p.entry != .inside then some ⟨g, t, s.cur.2, p⟩ else none
    | _, _ => none

/-- The fault of a word that is no header, by how the path came to it (R85, R395): record PC, IWORD and report. -/
def Entry.noHeader (e : Entry) (pc : DWord) (w : Word) : DWord × Word × Report :=
  match e with
  | .fall => (pc, w, { kind := .clauseLength })
  | .refine rpc iw => (rpc, iw, { kind := .branchTarget, addr := pc })
  | _ => (pc, w, { kind := .branchTarget })

/-- The clause at an address (R86): its words, or the fault that its fetch or its header has. A path keeps the words that memory holds
at the entry for the whole clause (R97 leaves old or new open word by word; DESIGN CHOICE: assumption 102). -/
def State.clauseAt (s : State) (t : Team) (e : Entry) (pc : DWord) : Except (DWord × Word × Report) (List Word) :=
  if badTarget pc then .error (e.noHeader pc 0)
  else
    match s.fetchWord t pc.toNat with
    | .error f => .error (pc, 0, f.report pc.toNat)
    | .ok w =>
      if !isHeader w then .error (e.noHeader pc w)
      else if badHeader w then .error (pc, w, { kind := .reservedBits })
      else
        match s.fetchWords t (pc.toNat + 4) (headerLen w + 1) with
        | .error (f, a) => .error (BitVec.ofNat 64 a, 0, f.report a)
        | .ok ws => .ok (w :: ws)

/-- Whether a path's PC lies inside the clause whose header it has saved, `len` words after the header. -/
def Path.within (p : Path) (len : Nat) : Bool := p.hdr < p.pc && p.pc ≤ p.hdr + BitVec.ofNat 64 (4 * len)

/-- The path enters the clause at its PC: with its words latched it goes on, or parks on the header's WAIT (R86). -/
def State.enterClause (s : State) (h : Here) : State :=
  match s.clauseAt h.t h.p.entry h.p.pc with
  | .error (pc, w, r) => s.raise h.g h.slot pc w r
  | .ok ws =>
    let m := headerWait (ws.headD 0)
    let p := { h.p with hdr := h.p.pc, words := ws }
    if h.a.waitMet m then
      (s.onArch h.g.id fun a => a.clearWait m).setPath h.g.id h.slot (some p.inside)
    else (s.setPath h.g.id h.slot (some { p with park := some (.waitHdr m) })).parkTest h.g.id

/-- A saved path inside its clause has the words fetched again (R89). -/
def State.refetch (s : State) (h : Here) : State :=
  match s.clauseAt h.t .target h.p.hdr with
  | .error (pc, w, r) => s.raise h.g h.slot pc w r
  | .ok ws => s.setPath h.g.id h.slot (some { h.p with words := ws, entry := .inside })

/-- The REC on top of the stack whose reconvergence point a path is about to enter (R262). -/
def Here.arrives (h : Here) : Bool :=
  match h.a.stack with
  | .recon rpc _ _ _ _ _ _ :: _ => rpc == h.p.pc
  | _ => false

/-- Whether its arrival there completes the split: every live lane has reached the point (R262). -/
def Here.merges (h : Here) : Bool :=
  match h.a.stack with
  | .recon _ mask arrv _ _ _ _ :: _ => mask &&& h.a.lm &&& ~~~(arrv ||| h.p.m) == 0
  | _ => false

/-- The path that is left in a slot beside one that arrived at a reconvergence point: it may be parked at a barrier that can no longer
complete, which its own instruction then reveals (R290; DEDUCED: assumption 126). -/
def State.arrived (s : State) (grp : Nat) : State :=
  match s.group? grp with
  | none => s
  | some g =>
    match g.arch.paths with
    | (slot, p) :: _ => s.leftSlot g slot p.pc p.iword
    | [] => s

/-- A path about to enter a clause. At the merge of a split the accesses that its sides put off are performed, since all of them come
before what the merged path does (R146). PMSTACK at the point names no instruction word: none is under way (DESIGN CHOICE: assumption
119). -/
def State.enter (s : State) (h : Here) : State :=
  if h.arrives then
    if h.p.depth != h.p.floor then s.raise h.g h.slot h.p.pc 0 { kind := .pmstack }
    else
      let s := if h.merges then s.drainLate h.g.id else s
      (s.onArch h.g.id fun a => (a.arrive h.slot h.p).settle h.p.pst).arrived h.g.id
  else s.enterClause h

/-- Whether that entry waits for a stack in training: its fetch is held at the port (R379). -/
def State.entryHeld (s : State) (h : Here) : Bool :=
  s.clauseHeld h.t (if h.p.entry = .refetch then h.p.hdr else h.p.pc)

/-- CLAUSE_ENTRY (R86): a path saved inside a clause takes up its words again, and every other one arrives at a
reconvergence point or enters the clause. -/
def execClauseEntry (s : State) : Host.Outcome State Fault Refusal :=
  match s.entering with
  | none => .refused (.notEnabled "CLAUSE_ENTRY")
  | some h =>
    if s.entryHeld h then .refused (.notEnabled "CLAUSE_ENTRY")
    else if h.p.entry = .refetch then
      match s.fetchWord h.t h.p.hdr.toNat with
      | .error f => .next (s.raise h.g h.slot h.p.hdr 0 (f.report h.p.hdr.toNat))
      | .ok w =>
        if h.p.within (headerLen w + 1) then .next (s.refetch h)
        else
          let e : Entry := if h.p.pc = h.p.hdr + BitVec.ofNat 64 (4 * (headerLen w + 2)) then .fall else .target
          .next (s.enter ⟨h.g, h.t, h.slot, { h.p with entry := e }⟩)
    else .next (s.enter h)

/-! ### Hardware steps of a group's paths -/

/-- LANE_ACCESS_COMPLETE (R132): an outstanding access on path T, D or P completes, with its data in its registers. -/
def execLaneAccessComplete (grp seq : Nat) (s : State) : Host.Outcome State Fault Refusal :=
  let out (a : Arch) : Bool :=
    a.tracked.any fun t => t.seq == seq && !t.done && (t.path == .T || t.path == .D || t.path == .P)
  if (s.group? grp).any fun g => out g.arch || g.conts.any fun c => out c.arch then .next (s.completeAccess grp seq)
  else .refused (.notEnabled "LANE_ACCESS_COMPLETE")

/-- The paths of a quadrant, its continuations' too, with the cycles for which each was passed over. -/
def State.quadPaths (s : State) (die site quad : Nat) : List (Nat × Bool × Option Nat × Nat) :=
  (s.groups.filter fun g =>
      g.slot / 16 == quad && (s.team? g.team).any fun t => t.runs && t.die == die && t.site == site).flatMap fun g =>
    (if g.runs then (g.arch.paths.filter fun e => e.2.park == none).map fun e => (g.id, e.1, none, e.2.passed) else [])
      ++ (g.conts.mapIdx fun k c => c.arch.paths.map fun e => (g.id, e.1, some k, e.2.passed)).flatten

/-- The promoted path is passed over no longer (R255). -/
def Group.promote (g : Group) (slot : Bool) (cont : Option Nat) : Group :=
  let f (a : Arch) : Arch := a.setPath slot ((a.path slot).map fun p => { p with passed := 0 })
  match cont with
  | none => { g with arch := f g.arch }
  | some k => { g with conts := g.conts.mapIdx fun j c => if j = k then { c with arch := f c.arch } else c }

/-- STARVATION_PROMOTION (R255): the path passed over longest becomes C of its quadrant. -/
def execStarvationPromotion (die site quad : Nat) (s : State) : Host.Outcome State Fault Refusal :=
  let ps := (s.quadPaths die site quad).filter fun e => 256 ≤ e.2.2.2
  let top := (ps.map (·.2.2.2)).foldl max 0
  match ps.find? fun e => e.2.2.2 == top with
  | none => .refused (.notEnabled "STARVATION_PROMOTION")
  | some (g, slot, cont, _) =>
    .next ((s.onCore die site fun c => { c with cur := (quad, g, slot, cont) :: c.cur.filter (·.1 != quad) }).onGroup g fun x =>
      x.promote slot cont)

/-- A spill or refill that cannot be made (R268): the group parks on the record, whose PC is its next instruction's. -/
def State.spillFails (s : State) (h : Here) (r : Report) : State :=
  let s := s.squashAll h.g.id
  let rec' := s.pathRecord h.g h.p.pc 0 r
  (s.nextSeqNo).faultEffect rec' r h.g.team rec'.grid (.spill h.g.id) fun st =>
    st.onGroup h.g.id fun g => { g with spillFault := some rec'.seq }

/-- A group with the path whose next instruction a spill fault names: slot 0's, or slot 1's. Where neither slot holds a path, in the midst of
the unwinding of R273, no next instruction is known: the record's PC is 0 (DESIGN CHOICE: assumption 119). -/
def Group.spillHere (g : Group) (t : Team) : Here :=
  let p : Bool × Path := g.arch.paths.headD (false, ⟨0, 0, [], .target, 0, 0, g.arch.low, 0, none, 0, 0⟩)
  ⟨g, t, p.1, p.2⟩

/-- A group that may spill or refill. -/
def State.spiller (s : State) (grp : Nat) : Option Here :=
  match s.group? grp with
  | none => none
  | some g =>
    match s.team? g.team with
    | none => none
    | some t => if t.runs && !g.exited && g.spillFault == none then some (g.spillHere t) else none

/-- A mailbox request of a path that goes to the spill area is withdrawn: the path makes it again (R360). -/
def Pos.park (p : Pos) : Option Park := match p with | .wait q _ => q.park | _ => none

/-- A path whose mailbox request was served goes to the spill area behind its instruction; one whose request is queued, before it
(R360). -/
def Pos.afterService (p : Pos) : Pos :=
  match p with
  | .wait q d =>
    match q.park with
    | some (.mbx _ _ _ true) => .wait (q.advance 1) d
    | some (.mbx ..) => .wait { q with park := none } d
    | _ => p
  | _ => p

def State.withdrawFor (s : State) (p : Pos) : State :=
  match p.park with
  | some (.mbx _ _ (some n) false) => s.onFe fun f => { f with mbxq := f.mbxq.filter fun r => r.id != n }
  | _ => s

/-- The oldest held position written to the spill area, or the fault of that taken. -/
def State.spillOne (s : State) (h : Here) (q : Pos) : Except State State :=
  let va := s.spillVA h h.a.spilled
  match s.access (s.privWalker h) .write va 64 with
  | .error f => .error (s.spillFails h (f.report va))
  | .ok x =>
    if s.mergesLost x.1 64 then .error (s.spillFails h (lossAt va ⟨x.1, x.2, 1⟩))
    else
      let s := (s.withdrawFor q).store x.1 q.afterService.image
      .ok ((s.onArch h.g.id fun a => a.spill q.afterService).perfGroup h.g 7 1)

/-- SPLIT_STACK_SPILL (R268): the oldest held position is written to the spill area; counter 7 counts it (R339). -/
def execSplitStackSpill (grp : Nat) (s : State) : Host.Outcome State Fault Refusal :=
  match s.spiller grp with
  | none => .refused (.notEnabled "SPLIT_STACK_SPILL")
  | some h =>
    match h.a.spillDue && !s.held (s.privWalker h) (s.spillVA h h.a.spilled), h.a.stack.getLast? with
    | true, some q => .next (match s.spillOne h q with | .ok t => t | .error t => t)
    | _, _ => .refused (.notEnabled "SPLIT_STACK_SPILL")

/-- SPLIT_STACK_REFILL (R268): the newest spilled position is read back; pops that waited for it follow. -/
def execSplitStackRefill (grp : Nat) (s : State) : Host.Outcome State Fault Refusal :=
  match s.spiller grp with
  | none => .refused (.notEnabled "SPLIT_STACK_REFILL")
  | some h =>
    let va := s.spillVA h (h.a.spilled - 1)
    if h.a.refillDue && !s.held (s.privWalker h) va then
      match s.access (s.privWalker h) .read va 64 with
      | .error f => .next (s.spillFails h (f.report va))
      | .ok x =>
        if s.isLost x.1 64 then .next (s.spillFails h (lossAt va ⟨x.1, x.2, 1⟩))
        else
          let q := Pos.ofImage (s.bytes x.1 64)
          .next ((s.onArch grp fun a =>
            let b := a.refill q
            b.settle (match b.paths with | e :: _ => e.2.pst | [] => b.low)).perfGroup h.g 7 1)
    else .refused (.notEnabled "SPLIT_STACK_REFILL")

/-- GROUP_RETIRE (R273): an exited group frees its slot once its T, D and P accesses have completed. -/
def execGroupRetire (grp : Nat) (s : State) : Host.Outcome State Fault Refusal :=
  if (s.group? grp).any fun g => g.exited && !g.retired && !g.arch.laneBusy then
    .next (s.onGroup grp fun g => { g with retired := true })
  else .refused (.notEnabled "GROUP_RETIRE")

/-- SPIN_RECOGNITION (R295): the group's path parks with the lines of its last iteration as its wake filter; counter 10
counts it (R339). -/
def execSpinRecognition (grp : Nat) (s : State) : Host.Outcome State Fault Refusal :=
  match s.group? grp with
  | none => .refused (.notEnabled "SPIN_RECOGNITION")
  | some g =>
    match g.detector, g.arch.paths with
    | some d, (slot, _) :: _ =>
      if d.due && (s.team? g.team).any Team.runs then
        .next ((((s.onGroup grp fun h => { h with detector := none }).park grp slot (some (.spin d.lines d.hit))).perfGroup g 10 1).parkTest
          grp)
      else .refused (.notEnabled "SPIN_RECOGNITION")
    | _, _ => .refused (.notEnabled "SPIN_RECOGNITION")

/-- The slot whose path is parked in a recognised spin that a write has hit. -/
def Group.spinHit (g : Group) : Option Bool :=
  (g.arch.paths.find? fun e => match e.2.park with | some (.spin _ f) => f | _ => false).map (·.1)

/-- SPIN_WAKE (R295): the group goes on at t; RET falls to 0 (R299). -/
def execSpinWake (grp : Nat) (s : State) : Host.Outcome State Fault Refusal :=
  match s.group? grp with
  | none => .refused (.notEnabled "SPIN_WAKE")
  | some g =>
    match g.spinHit with
    | some slot =>
      if (s.team? g.team).any Team.runs then .next (((s.park grp slot none).onGroup grp fun h => { h with detector := none }).clearRet g.team)
      else .refused (.notEnabled "SPIN_WAKE")
    | none => .refused (.notEnabled "SPIN_WAKE")

/-- Whether a path parked in `wait.w` has no unfired cairn on its word any more (R292). -/
def Group.cairnMet (g : Group) (slot : Bool) : Bool :=
  match (g.arch.path slot).bind (·.park) with
  | some (.cairn o) => !(g.cairn.any fun c => c.off == o && !c.fired)
  | _ => false

/-- WAIT_W_WAKE (R292): FIRED is cleared, and the path goes on behind its `wait.w`; RET falls to 0 (R299). -/
def execWaitWWake (grp : Nat) (slot : Bool) (s : State) : Host.Outcome State Fault Refusal :=
  match s.group? grp with
  | none => .refused (.notEnabled "WAIT_W_WAKE")
  | some g =>
    if g.cairnMet slot && (s.team? g.team).any Team.runs then
      let off := match (g.arch.path slot).bind (·.park) with | some (.cairn o) => o | _ => 0
      .next (((s.onGroup grp fun h =>
        { h with cairn := h.cairn.map fun c => if c.off = off then { c with fired := false } else c }).clearRet
          g.team).retireParked grp slot)
    else .refused (.notEnabled "WAIT_W_WAKE")

end Sys2Proof.Machine
end

