-- ==== Sys2Proof/Machine/Space.lean ====
section
/-!
DEFINITION. An engine thread's reads and writes of the memory that it reaches (R203), and losses in it (R375-R377).
-/
namespace Sys2Proof.Machine

/-! ### Reads, and what they wait for -/

/-- The bytes of a place. -/
def State.placeBytes (s : State) (p : Place) : List Byte := p.runs.flatMap fun r => s.bytes r.1 r.2

/-- The losses of a place, as a count by key and length has them (R375, R378). -/
def Place.loss (p : Place) (count : Nat → Nat → Nat) : Option Loss :=
  joinLosses ((p.runs.zip p.cls).filterMap fun e =>
    if count e.1.1 e.1.2 = 0 then none else some ⟨e.1.1, e.2, count e.1.1 e.1.2⟩)

/-- Whether a thread's access of n bytes waits for a stack (R379): for the context record that die scratchpad needs, or in main memory. -/
def State.threadHeld (s : State) (t : Thread) (sp : Nat) (a : Int) (n : Nat) : Bool :=
  (sp == 1 && s.recordWaits t.ctx) || sp == 2 && 0 ≤ a && a.toNat + n ≤ 2 ^ 52 && (pagePieces a.toNat n).any fun e => s.held t.walker e.1

/-! ### Writes of a thread -/

/-- The keys of a team's memory that still take a write (R215): a bivouacked team keeps only its carry window, and a team that
has ended keeps nothing. -/
def State.teamWindow (s : State) (tm : Team) : Nat × Nat :=
  let cw := ((s.grid? tm.grid).map fun g => (g.desc.cwoff, g.desc.cwlen)).getD (0, 0)
  match tm.st with
  | .done | .killed => (0, 0)
  | .bivouac => (teamKey tm.id cw.1, teamKey tm.id (cw.1 + cw.2))
  | _ => (teamKey tm.id 0, teamKey tm.id tm.tmem)

/-- Bytes written to a place. -/
def State.putPlace (s : State) (tm : Team) (sp : Nat) (p : Place) (bs : List Byte) : State :=
  s.storeRuns
    (fun st k b =>
      if sp = 0 then
        let (lo, hi) := st.teamWindow tm
        let b' := (b.take (hi - k)).drop (lo - k)
        if b' = [] then st else st.store (max k lo) b'
      else st.store k b)
    p.runs bs

/-- The bytes of an operand array in team memory, n at offset o. -/
def State.teamBytes (s : State) (tm : Team) (o n : Nat) : List Byte := s.bytes (teamKey tm.id o) n

end Sys2Proof.Machine
end

