-- ==== Sys2Proof/Machine/Engine.lean ====
section
/-!
DEFINITION. Engine commands and their threads (R201-R216): bulk copies and fills, gathers and scatters, bulk atomics; the
descriptor checks, which collectives share (R413); the movement of one element at a time; and completion.
-/
namespace Sys2Proof.Machine

/-! ### Issue (R202) -/

/-- The threads that the limit of 256 counts. -/
def ThreadKind.bulk (k : ThreadKind) : Bool :=
  match k with
  | .copy _ | .fill | .gather | .scatter | .bam _ => true
  | _ => false

/-- The bulk threads of a core that have not completed. -/
def State.bulkThreads (s : State) (die site : Nat) : Nat :=
  (s.threads.filter fun t => t.kind.bulk && t.st != .ended && t.die == die && t.site == site).length

/-- The stacks whose hand-over from a die is under way: a command that issues now comes after the fence (R216, R382). -/
def State.handingFrom (s : State) (die : Nat) : List Nat := (List.range 16).filter fun n => s.copyOf die n == .handing

/-- A thread starts, with `f` of what it holds: its command raises KB on a path (R135, R202). -/
def State.startThread (s : State) (h : Here) (i : Instr) (k : ThreadKind) (p : AccPath) (off : Nat) (launch : Bool := false)
    (f : Thread → Thread := id) : State :=
  let t : Thread :=
    { id := s.nextThread, kind := k, grp := h.g.id, team := h.t.id, grid := h.t.grid, ctx := s.hereCtx h, die := h.t.die,
      site := h.t.site, slot := h.g.slot, gidx := h.g.gidx, pc := h.p.pc, iword := i.first, path := p, seq := h.seqFor .kb,
      st := .fresh, off := off, desc := [], idx := 0, ahead := [], args := [], child := none, fenced := s.handingFrom h.t.die,
      waits := [], orphan := false }
  { s with threads := s.threads ++ [f t], nextThread := s.nextThread + 1 }.onArch h.g.id fun a =>
    a.raise (h.p.counter .kb) { path := p, launch := launch }

/-- A command whose operand is the offset of a 64-byte descriptor in team memory (R202); an acquire of its path that is outstanding
stalls it (R198). -/
def commandPlan (i : Instr) (k : ThreadKind) (p : AccPath) (a : SReg) (full : State → Here → Bool) : Plan :=
  { uses := srcS a
    raises := .kb
    stall := fun _ h => h.acquiring
    late := fun _ h => operandFault h.t (h.a.getS a.toNat).toNat 64 64
    hold := holdIf full
    act := fun h s => s.startThread h i k p (h.a.getS a.toNat).toNat }

/-- A bulk command: it stalls while its core has 256 bulk threads. -/
def bulkPlan (i : Instr) (k : ThreadKind) (p : AccPath) (a : SReg) : Plan :=
  commandPlan i k p a fun s h => 256 ≤ s.bulkThreads h.t.die h.t.site

/-- `bcp.t1` (R201). -/
def execBcpT1 (a : SReg) (s : State) : Host.Outcome State Fault Refusal := run (.bcpT1 a) (bulkPlan (.bcpT1 a) (.copy 1) .B a) s
/-- `bcp.t2` (R201). -/
def execBcpT2 (a : SReg) (s : State) : Host.Outcome State Fault Refusal := run (.bcpT2 a) (bulkPlan (.bcpT2 a) (.copy 2) .B a) s
/-- `bcp.t3` (R201). -/
def execBcpT3 (a : SReg) (s : State) : Host.Outcome State Fault Refusal := run (.bcpT3 a) (bulkPlan (.bcpT3 a) (.copy 3) .B a) s
/-- `bcp.fill` (R201). -/
def execBcpFill (a : SReg) (s : State) : Host.Outcome State Fault Refusal := run (.bcpFill a) (bulkPlan (.bcpFill a) .fill .B a) s
/-- `bgs.gather` (R201). -/
def execBgsGather (a : SReg) (s : State) : Host.Outcome State Fault Refusal :=
  run (.bgsGather a) (bulkPlan (.bgsGather a) .gather .G a) s
/-- `bgs.scatter` (R201). -/
def execBgsScatter (a : SReg) (s : State) : Host.Outcome State Fault Refusal :=
  run (.bgsScatter a) (bulkPlan (.bgsScatter a) .scatter .G a) s
/-- `bam.add` (R201). -/
def execBamAdd (a : SReg) (s : State) : Host.Outcome State Fault Refusal := run (.bamAdd a) (bulkPlan (.bamAdd a) (.bam .add) .B a) s
/-- `bam.min` (R201). -/
def execBamMin (a : SReg) (s : State) : Host.Outcome State Fault Refusal := run (.bamMin a) (bulkPlan (.bamMin a) (.bam .min) .B a) s
/-- `bam.max` (R201). -/
def execBamMax (a : SReg) (s : State) : Host.Outcome State Fault Refusal := run (.bamMax a) (bulkPlan (.bamMax a) (.bam .max) .B a) s
/-- `bam.and` (R201). -/
def execBamAnd (a : SReg) (s : State) : Host.Outcome State Fault Refusal := run (.bamAnd a) (bulkPlan (.bamAnd a) (.bam .and) .B a) s
/-- `bam.or` (R201). -/
def execBamOr (a : SReg) (s : State) : Host.Outcome State Fault Refusal := run (.bamOr a) (bulkPlan (.bamOr a) (.bam .or) .B a) s
/-- `bam.xor` (R201). -/
def execBamXor (a : SReg) (s : State) : Host.Outcome State Fault Refusal := run (.bamXor a) (bulkPlan (.bamXor a) (.bam .xor) .B a) s
/-- `bam.xchg` (R201). -/
def execBamXchg (a : SReg) (s : State) : Host.Outcome State Fault Refusal :=
  run (.bamXchg a) (bulkPlan (.bamXchg a) (.bam .xchg) .B a) s
/-- `bam.cas` (R201). -/
def execBamCas (a : SReg) (s : State) : Host.Outcome State Fault Refusal := run (.bamCas a) (bulkPlan (.bamCas a) (.bam .cas) .B a) s

/-! ### Descriptors (R203, R204, R206, R208, R210, R211, R413) -/

/-- An address that a space has the bits for; space 3 is reserved (R203). -/
def spaceOk (sp a : Nat) : Bool :=
  match sp with
  | 0 => a < 2 ^ 21
  | 1 => a < 2 ^ 32
  | 2 => a < 2 ^ 52
  | _ => false

/-- The completion word's fields are within their limits (R210). -/
def cwOk (b : List Byte) : Bool :=
  if descCwe b then spaceOk (if descCws b = 1 then 1 else 2) (descCwa b) else descCwa b == 0 && descCws b == 0

/-- The types that a bulk atomic accepts: those of the lane atomic (R91, R208). -/
def AtomicOp.tys (op : AtomicOp) : List Ty :=
  match op with
  | .add | .min | .max => atomicArithTys
  | _ => atomicBitTys

/-- Step 1 of R211 for a copy or fill. -/
def copyReserved (b : List Byte) (fill : Bool) (dims : Nat) : Bool :=
  fieldOf b 0x3C 4 != 0 || descCtl b 8 24 != 0
    || !spaceOk (descCtl b 2 2) (fieldOf b 0x08 8)
    || (if fill then descCtl b 0 2 != 0 || 2 ^ (8 * copyBytes b) ≤ fieldOf b 0 8 else !spaceOk (descCtl b 0 2) (fieldOf b 0 8))
    || copyN b 0 < 1 || 2 ^ 24 < copyN b 0 || copyN b 1 < 1 || copyN b 2 < 1
    || (dims < 2 && copyN b 1 != 1) || (dims < 3 && copyN b 2 != 1)
    || ((copyN b 1 == 1 || fill) && copySstr b 1 != 0) || ((copyN b 2 == 1 || fill) && copySstr b 2 != 0)
    || (copyN b 1 == 1 && copyDstr b 1 != 0) || (copyN b 2 == 1 && copyDstr b 2 != 0) || !cwOk b

/-- Step 2. -/
def copyMisaligned (b : List Byte) (fill : Bool) : Bool :=
  let e : Int := copyBytes b
  (!fill && (fieldOf b 0 8 : Int) % e != 0) || (fieldOf b 0x08 8 : Int) % e != 0 || copySstr b 1 % e != 0 || copySstr b 2 % e != 0
    || copyDstr b 1 % e != 0 || copyDstr b 2 % e != 0 || descCwa b % 8 != 0

/-- Step 1 for a gather or scatter (R206). -/
def gatherReserved (b : List Byte) : Bool :=
  fieldOf b 0x1C 4 != 0 || fieldOf b 0x3C 4 != 0 || descCtl b 9 23 != 0 || descCtl b 4 2 != 0
    || !spaceOk (descCtl b 0 2) (fieldOf b 0 8) || !spaceOk (descCtl b 2 2) (fieldOf b 0x08 8)
    || fieldOf b 0x14 4 < 1 || 2 ^ 20 < fieldOf b 0x14 4
    || fieldOf b 0x18 4 < 4 || 65536 < fieldOf b 0x18 4 || fieldOf b 0x18 4 % 4 != 0 || 2 ^ 52 ≤ fieldOf b 0x20 8 || !cwOk b

/-- Step 2. -/
def gatherMisaligned (b : List Byte) : Bool :=
  fieldOf b 0 8 % 4 != 0 || fieldOf b 0x08 8 % 4 != 0 || fieldOf b 0x10 4 % 4 != 0 || fieldOf b 0x20 8 % 4 != 0
    || descCwa b % 8 != 0

/-- Step 1 for a bulk atomic (R208). -/
def bamReserved (b : List Byte) (op : AtomicOp) : Bool :=
  fieldOf b 0x18 16 != 0 || fieldOf b 0x3C 4 != 0 || descCtl b 9 23 != 0 || !spaceOk (descCtl b 0 2) (fieldOf b 0 8)
    || !op.tys.contains (bamTy b) || fieldOf b 0x10 4 < 1 || 65536 < fieldOf b 0x10 4
    || (!bamRet b && fieldOf b 0x0C 4 != 0) || !cwOk b

/-- Step 2. -/
def bamMisaligned (b : List Byte) : Bool :=
  let e := bamBytes b
  fieldOf b 0 8 % e != 0 || fieldOf b 0x08 4 % e != 0 || fieldOf b 0x0C 4 % e != 0 || bamTstr b % (e : Int) != 0
    || descCwa b % 8 != 0

/-- Step 1 for a collective (R413). -/
def collReserved (b : List Byte) : Bool :=
  fieldOf b 0x16 18 != 0 || fieldOf b 0x3C 4 != 0 || descCtl b 8 24 != 0 || descCtl b 4 2 != 0
    || !spaceOk (descCtl b 0 2) (fieldOf b 0 8) || !spaceOk (descCtl b 2 2) (fieldOf b 0x08 8)
    || fieldOf b 0x10 4 < 1 || 2 ^ 20 < fieldOf b 0x10 4 || 255 < fieldOf b 0x14 2 || !cwOk b

/-- Step 2. -/
def collMisaligned (b : List Byte) : Bool :=
  fieldOf b 0 8 % 4 != 0 || fieldOf b 0x08 8 % 4 != 0 || descCwa b % 8 != 0

/-- An extent from lo to hi lies in team memory or in one window of die scratchpad; main memory has no bounds (R203). -/
def State.extentIn (s : State) (tm : Team) (sp : Nat) (lo hi : Int) : Bool :=
  match sp with
  | 0 => 0 ≤ lo && hi ≤ tm.tmem
  | 1 => 0 ≤ lo && (s.dieKey tm lo.toNat (hi - lo).toNat).isSome
  | _ => true

/-- The completion word lies in die scratchpad, where it is to lie there (R210). -/
def State.cwIn (s : State) (tm : Team) (b : List Byte) : Bool :=
  !descCwe b || descCws b != 1 || (s.dieKey tm (descCwa b) 8).isSome

/-- Step 3 of R211: every extent that is checked at thread start, and the completion word. -/
def State.descBounds (s : State) (tm : Team) (k : ThreadKind) (b : List Byte) : Bool :=
  let e := copyBytes b
  let n := fieldOf b 0x10 4
  let dst (lo : Int × Int) : Bool := s.extentIn tm (descCtl b 2 2) lo.1 lo.2
  s.cwIn tm b &&
    match k with
    | .copy _ | .fill =>
      let src := spanOf (fieldOf b 0 8) (n * e) (copyN b 1) (copySstr b 1) (copyN b 2) (copySstr b 2)
      (k == .fill || s.extentIn tm (descCtl b 0 2) src.1 src.2)
        && dst (spanOf (fieldOf b 0x08 8) (n * e) (copyN b 1) (copyDstr b 1) (copyN b 2) (copyDstr b 2))
    | .gather | .scatter =>
      (fieldOf b 0x10 4 + 4 * fieldOf b 0x14 4 ≤ tm.tmem)
        && dst (fieldOf b 0x08 8, fieldOf b 0x08 8 + fieldOf b 0x14 4 * fieldOf b 0x18 4)
    | .bam op =>
      let w := bamBytes b
      let t := spanOf (fieldOf b 0 8) w n (bamTstr b) 1 0
      (fieldOf b 0x08 4 + (if op = .cas then 2 else 1) * n * w ≤ tm.tmem)
        && (!bamRet b || fieldOf b 0x0C 4 + n * w ≤ tm.tmem) && s.extentIn tm (descCtl b 0 2) t.1 t.2
    | .coll _ ty =>
      let w := n * collBytes ty
      s.extentIn tm (descCtl b 0 2) (fieldOf b 0 8) (fieldOf b 0 8 + w)
        && dst (fieldOf b 0x08 8, fieldOf b 0x08 8 + w)
    | _ => true

/-- The group entry of a collective: V, the context, and this package among the members (R413). -/
def State.collAllowed (s : State) (ctx : Nat) (b : List Byte) : Bool :=
  let g := fieldOf b 0x14 2
  let w := Sparse.look s.fe.cge (2 * g + 1)
  fld w 63 1 == 1 && (fld w 0 12).toNat == ctx && (Sparse.look s.fe.cge (2 * g)).getLsbD (fld s.fe.domid 0 6).toNat

/-- The first fault of a descriptor (R211, R413): RESERVED-BITS, ALIGN, BOUNDS, and a collective's PRIVILEGE. -/
def State.descFault (s : State) (tm : Team) (ctx : Nat) (k : ThreadKind) (off : Nat) (b : List Byte) : Option Report :=
  let (res, mis) : Bool × Bool :=
    match k with
    | .copy d => (copyReserved b false d, copyMisaligned b false)
    | .fill => (copyReserved b true 3, copyMisaligned b true)
    | .gather | .scatter => (gatherReserved b, gatherMisaligned b)
    | .bam op => (bamReserved b op, bamMisaligned b)
    | .coll _ _ => (collReserved b, collMisaligned b)
    | _ => (false, false)
  failIf res .reservedBits off <|> failIf mis .align off <|> failIf (!s.descBounds tm k b) .bounds off
    <|> (match k with | .coll _ _ => failIf (!s.collAllowed ctx b) .privilege off | _ => none)

/-! ### A thread's memory (R215) -/

/-- Bytes of a team's memory as a thread reads them. -/
def State.threadTeam (s : State) (tm : Team) (k n : Nat) : List Byte :=
  let (lo, hi) := s.teamWindow tm
  (List.range n).map fun i =>
    let gone := tm.st == .bivouac || tm.st == .done || tm.st == .killed
    if gone && !(lo ≤ k + i && k + i < hi) then Config.goneByte (s.free + i) else s.byte (k + i)

/-- The bytes of a place as a thread reads them. -/
def State.threadBytes (s : State) (tm : Team) (sp : Nat) (p : Place) : List Byte :=
  if sp = 0 then p.runs.flatMap fun r => s.threadTeam tm r.1 r.2 else s.placeBytes p

/-- A place to read n bytes from, or its fault. -/
def State.readAt (s : State) (t : Thread) (tm : Team) (sp : Nat) (a : Int) (n : Nat) : Except Report (List Byte) :=
  if a < 0 then .error { kind := .page, addr := BitVec.ofInt 64 a }
  else
    match s.place t tm sp .read a.toNat n with
    | .error r => .error r
    | .ok p =>
      match p.loss s.lostIn with
      | some w => .error (lossAt a.toNat w)
      | none => .ok (s.threadBytes tm sp p)

/-- A place to write n bytes to, or its fault; `whole` says that the thread fills the granules that it touches (R375). -/
def State.writeAt (s : State) (t : Thread) (tm : Team) (sp : Nat) (a : Int) (n : Nat) (whole : Bool := false) : Except Report Place :=
  if a < 0 then .error { kind := .page, addr := BitVec.ofInt 64 a }
  else
    match s.place t tm sp .write a.toNat n with
    | .error r => .error r
    | .ok p =>
      match p.loss fun k m => if whole then (if k < 2 ^ 40 && s.failed (stackOf k) then s.lostIn k m else 0) else s.mergedIn k m with
      | some w => .error (lossAt a.toNat w)
      | none => .ok p

/-- The engine threads that go on: in the state wanted. -/
def State.moving (s : State) (tid : Nat) (want : ThreadKind → Bool) (st : ThreadState) : Option (Thread × Team) :=
  match s.thread? tid with
  | none => none
  | some t =>
    match s.team? t.team with
    | none => none
    | some tm => if want t.kind && t.st == st then some (t, tm) else none

/-! ### Reading the descriptor (R211) -/

/-- Threads with a descriptor. -/
def ThreadKind.described (k : ThreadKind) : Bool := k.bulk || (match k with | .coll _ _ => true | _ => false)

/-- A collective joins the next instance of its group (R414). -/
def FrontEnd.join (f : FrontEnd) (tid cg : Nat) : FrontEnd :=
  let n := ((f.instances.find? fun e => e.1 == cg).map (·.2)).getD 0
  { f with joins := f.joins ++ [⟨cg, n, tid⟩], instances := f.instances.filter (fun e => e.1 != cg) ++ [(cg, n + 1)] }

/-- ENGINE_DESCRIPTOR_READ (R211): the descriptor is read and every check made; the thread runs, and a collective joins its
instance. -/
def execEngineDescriptorRead (tid : Nat) (s : State) : Host.Outcome State Fault Refusal :=
  match s.moving tid ThreadKind.described .fresh with
  | none => .refused (.notEnabled "ENGINE_DESCRIPTOR_READ")
  | some (t, tm) =>
    let k := teamKey t.team t.off
    let b := s.threadTeam tm k 64
    match (if s.isLost k 64 then some (lossAt t.off ⟨k, 0, 1⟩) else s.descFault tm t.ctx t.kind t.off b) with
    | some r => .next (s.raiseThread t r)
    | none =>
      let s := s.draw.onThread tid fun u => { u with st := .running, desc := b, idx := 0 }
      match t.kind with
      | .coll _ _ => .next (s.onFe fun f => f.join tid (fieldOf b 0x14 2))
      | _ => .next s

/-! ### Moving elements -/

/-- The elements of a thread. -/
def Thread.total (t : Thread) : Nat :=
  match t.kind with
  | .copy _ | .fill => copyN t.desc 0 * copyN t.desc 1 * copyN t.desc 2
  | .gather | .scatter => fieldOf t.desc 0x14 4
  | _ => fieldOf t.desc 0x10 4

/-- Elements have been moved, one unless said otherwise: the thread stands behind them, and the classifier counts the bytes (R323). -/
def State.moved (s : State) (t : Thread) (n : Nat) (k : Nat := 1) : State :=
  (s.draw.onThread t.id fun u => { u with idx := t.idx + k }).onTeam t.team fun u => { u with bytes := u.bytes + n }

/-- The 64-byte granule of an element lies in its row as a whole (R375). -/
def rowFills (da lo hi : Int) : Bool := lo ≤ da / 64 * 64 && da / 64 * 64 + 64 ≤ hi

/-- How many elements from `idx` on lie in one row and in one aligned 8-byte word of the destination. -/
def copyRun (b : List Byte) (idx : Nat) : Nat :=
  min (copyN b 0 - idx % copyN b 0) ((8 - ((copyAt b idx).2.1 % 8).toNat) / copyBytes b)

/-- The bytes of a copy's next k elements, and those behind them that are read with the last one's aligned word (R144). A fill has
its pattern. -/
def State.copySource (s : State) (t : Thread) (tm : Team) (k : Nat) : Except Report (List Byte × List Byte) :=
  let e := copyBytes t.desc
  let n := k * e
  if t.kind = .fill then .ok ((List.replicate k (t.desc.take e)).flatten, [])
  else if n ≤ t.ahead.length then .ok (t.ahead.take n, t.ahead.drop n)
  else
    let sa := (copyAt t.desc t.idx).1
    let row := sa + ((copyN t.desc 0 - t.idx % copyN t.desc 0) * e : Nat)
    let lo := sa + t.ahead.length
    let hi := min row ((sa + n + 7) / 8 * 8)
    match s.readAt t tm (descCtl t.desc 0 2) lo (hi - lo).toNat with
    | .error r => .error r
    | .ok bs => .ok ((t.ahead ++ bs).take n, (t.ahead ++ bs).drop n)

/-- A copy's next k elements moved, or the fault of the first. A row that covers a lost granule replaces its data: the loss is gone
once the granule's last byte is written. -/
def State.copyStep (s : State) (t : Thread) (tm : Team) (k : Nat) : Except Report State :=
  let n := k * copyBytes t.desc
  let (_, da, lo, hi) := copyAt t.desc t.idx
  let whole := rowFills da lo hi
  match s.copySource t tm k with
  | .error r => .error r
  | .ok (bs, rest) =>
    match s.writeAt t tm (descCtl t.desc 2 2) da n whole with
    | .error r => .error r
    | .ok p =>
      let s := s.putPlace tm (descCtl t.desc 2 2) p bs
      let s := if whole && (da + n) % 64 = 0 then { s with lost := s.lost.filter fun q => !(p.runs.any fun r => r.1 / 64 == q) } else s
      .ok ((s.moved t n k).onThread t.id fun u => { u with ahead := rest })

/-- Whether the next k elements of a copy wait for a stack in training (R379). -/
def State.copyHeld (s : State) (t : Thread) (k : Nat) : Bool :=
  let (sa, da, _, _) := copyAt t.desc t.idx
  let n := k * copyBytes t.desc
  (t.kind != .fill && s.threadHeld t (descCtl t.desc 0 2) sa n) || s.threadHeld t (descCtl t.desc 2 2) da n

/-- The aligned 8-byte word of the destination that a copy's next element lies in. -/
def Thread.copyWord (t : Thread) : Int := (copyAt t.desc t.idx).2.1 / 8

/-- The elements that come next and lie in the same word of the destination as one that has moved, of rows behind its own: they move in
the same step, up to the first that faults or waits (R144, R205, R212). -/
def State.copyOn (s : State) (tid : Nat) (tm : Team) (word : Int) : Nat → State
  | 0 => s
  | fuel + 1 =>
    match s.thread? tid with
    | none => s
    | some t =>
      let k := copyRun t.desc t.idx
      if t.total ≤ t.idx || t.copyWord != word || s.copyHeld t k then s
      else
        match s.copyStep t tm k with
        | .ok u => State.copyOn u tid tm word fuel
        | .error _ => s

/-- COPY_THREAD (R205, R212): the next elements in descriptor order, an aligned 8-byte word of the destination at a time; where one of them
faults, those before it alone. The spec leaves the elements' order open, also where they overlap (DESIGN CHOICE: assumption 104). -/
def execCopyThread (tid : Nat) (s : State) : Host.Outcome State Fault Refusal :=
  match s.moving tid (fun k => match k with | .copy _ | .fill => true | _ => false) .running with
  | none => .refused (.notEnabled "COPY_THREAD")
  | some (t, tm) =>
    let k := copyRun t.desc t.idx
    if t.total ≤ t.idx || s.copyHeld t k then .refused (.notEnabled "COPY_THREAD")
    else
      match s.copyStep t tm k with
      | .ok u => .next (u.copyOn tid tm t.copyWord 8)
      | .error _ =>
        match s.copyStep t tm 1 with
        | .ok u => .next u
        | .error r => .next (s.raiseThread t r)

/-- Where the next element of a gather or scatter comes from and where it goes: space and address of each (R207). -/
def Thread.gsPlaces (t : Thread) (x : Nat) : (Nat × Int) × (Nat × Int) :=
  let b := t.desc
  let idxSide : Nat × Int := (descCtl b 0 2, (fieldOf b 0 8 + x * fieldOf b 0x20 8 : Nat))
  let denseSide : Nat × Int := (descCtl b 2 2, (fieldOf b 0x08 8 + t.idx * fieldOf b 0x18 4 : Nat))
  if t.kind = .gather then (idxSide, denseSide) else (denseSide, idxSide)

/-- What the next index of a gather or scatter brings about: it waits, or faults, or its element moves or is skipped; with where the
element went. Of an element's two sides the source faults first (DEDUCED: assumption 57). -/
def State.gsStep (s : State) (t : Thread) (tm : Team) : Except (Option Report) (State × Option (Nat × Int)) :=
  let n := fieldOf t.desc 0x18 4
  match s.readAt t tm 0 (fieldOf t.desc 0x10 4 + 4 * t.idx : Nat) 4 with
  | .error r => .error (some r)
  | .ok xb =>
    let x := ofBytes xb
    if descCtl t.desc 8 1 = 1 && x = 0xFFFFFFFF then .ok (s.moved t 0, none)
    else
      let (src, dst) := t.gsPlaces x
      if s.threadHeld t src.1 src.2 n || s.threadHeld t dst.1 dst.2 n then .error none
      else
        match s.readAt t tm src.1 src.2 n with
        | .error r => .error (some r)
        | .ok bs =>
          match s.writeAt t tm dst.1 dst.2 n with
          | .error r => .error (some r)
          | .ok p => .ok ((s.putPlace tm dst.1 p bs).moved t n, some dst)

/-- Whether two elements of n bytes, side by side, share an aligned 8-byte word. -/
def sharesWord (n : Nat) (a b : Nat × Int) : Bool :=
  a.1 == b.1 && ((b.2 == a.2 + n && b.2 % 8 != 0) || (a.2 == b.2 + n && a.2 % 8 != 0))

/-- GATHER_SCATTER_THREAD (R207): the next element, or the next index that skips its element; and with it the element behind it, where the
two share an aligned 8-byte word of the destination (R144). -/
def execGatherScatterThread (tid : Nat) (s : State) : Host.Outcome State Fault Refusal :=
  match s.moving tid (fun k => k == .gather || k == .scatter) .running with
  | none => .refused (.notEnabled "GATHER_SCATTER_THREAD")
  | some (t, tm) =>
    if t.total ≤ t.idx then .refused (.notEnabled "GATHER_SCATTER_THREAD")
    else
      match s.gsStep t tm with
      | .error none => .refused (.notEnabled "GATHER_SCATTER_THREAD")
      | .error (some r) => .next (s.raiseThread t r)
      | .ok (u, d) =>
        match d, u.thread? tid with
        | some d, some t' =>
          if t'.total ≤ t'.idx then .next u
          else
            match u.gsStep t' tm with
            | .ok (w, some e) => .next (if sharesWord (fieldOf t.desc 0x18 4) d e then w else u)
            | _ => .next u
        | _, _ => .next u

/-- BULK_ATOMIC_THREAD (R209): the next element's read-modify-write, and its RES write. Of its accesses the operand's faults first, then
the target's, then the one to RES (DEDUCED: assumption 57). -/
def execBulkAtomicThread (tid : Nat) (s : State) : Host.Outcome State Fault Refusal :=
  match s.moving tid (fun k => match k with | .bam _ => true | _ => false) .running with
  | none => .refused (.notEnabled "BULK_ATOMIC_THREAD")
  | some (t, tm) =>
    let b := t.desc
    let e := bamBytes b
    let op : AtomicOp := match t.kind with | .bam op => op | _ => .add
    let w := if op = .cas then 2 * e else e
    let ta : Int := fieldOf b 0 8 + t.idx * bamTstr b
    let tsp := descCtl b 0 2
    let ro : Nat := fieldOf b 0x0C 4 + t.idx * e
    if t.total ≤ t.idx || s.threadHeld t tsp ta e then .refused (.notEnabled "BULK_ATOMIC_THREAD")
    else
      match s.readAt t tm 0 (fieldOf b 0x08 4 + t.idx * w : Nat) w with
      | .error r => .next (s.raiseThread t r)
      | .ok args =>
        match s.writeAt t tm tsp ta e with
        | .error r => .next (s.raiseThread t r)
        | .ok p =>
          match (if bamRet b then (s.writeAt t tm 0 ro e).map some else Except.ok none) with
          | .error r => .next (s.raiseThread t r)
          | .ok q =>
            let old := ofBytes (s.threadBytes tm tsp p)
            let new := op.eval (bamTy b) old (fieldOf args 0 e) (fieldOf args e e)
            let s := s.putPlace tm tsp p (toBytes e new)
            let s := match q with | some q => s.putPlace tm 0 q (toBytes e old) | none => s
            .next (s.moved t e)

/-! ### Completion (R210) -/

/-- A thread has ended: it lowers its counter, and is no more. -/
def State.endThread (s : State) (t : Thread) : State :=
  let s := { s with threads := s.threads.filter (·.id != t.id) }
  if t.orphan then s else s.complete t.grp t.seq

/-- ENGINE_COMPLETION (R210): every element is moved; the completion word is written, and the counter lowered. -/
def execEngineCompletion (tid : Nat) (s : State) : Host.Outcome State Fault Refusal :=
  match s.moving tid ThreadKind.described .running with
  | none => .refused (.notEnabled "ENGINE_COMPLETION")
  | some (t, tm) =>
    if t.idx < t.total || (descCwe t.desc && descCws t.desc != 1 && s.threadHeld t 2 (descCwa t.desc) 8) then
      .refused (.notEnabled "ENGINE_COMPLETION")
    else if t.orphan || !descCwe t.desc then .next (s.endThread t)
    else
      let sp := if descCws t.desc = 1 then 1 else 2
      match s.writeAt t tm sp (descCwa t.desc) 8 with
      | .error r => .next (s.raiseThread t r)
      | .ok p => .next ((s.putPlace tm sp p (toBytes 8 (descCwv t.desc))).endThread t)

end Sys2Proof.Machine
end

