-- ==== Sys2Proof/Machine/System.lean ====
section
/-!
DEFINITION. System instructions: fences (R151, R156), `trap`, the performance-counter registers (R337-R339), soft
interrupts (R340); the table walks that fill the translation caches (R369-R371); and held fault records (R336).
-/
namespace Sys2Proof.Machine

/-! ### Fences -/

/-- `fence.S` (R151): it stalls until every lane access of its path has completed. -/
def execFence (sc : Scope) (s : State) : Host.Outcome State Fault Refusal :=
  run (.fence sc) { uses := [], stall := fun _ h => h.busy, act := fun _ s => s } s

/-- The dies whose caches a `tfence` reaches (R156). -/
def tfenceDies (sc : Scope) (die : Nat) : List Nat :=
  match sc with
  | .grp | .team | .core | .clu | .die => [die]
  | _ => [0, 1, 2, 3]

/-- The die that holds a cache. -/
def TlbUnit.die (u : TlbUnit) : Nat := match u with | .leaf d _ => d | .walk d _ => d

/-- Translations of a context discarded on some dies. -/
def State.discardOn (s : State) (ctx : Nat) (dies : List Nat) : State :=
  { s with tlb := s.tlb.filter fun e => !(e.ctx == ctx && dies.contains e.unit.die) }

/-- The outstanding private accesses of a context's groups on some dies: translated accesses that may have used a
discarded entry. -/
def State.privOutstanding (s : State) (ctx : Nat) (dies : List Nat) : List (Nat × Nat) :=
  s.groups.flatMap fun g =>
    if (s.team? g.team).any fun t => s.gridCtx t.grid == ctx && dies.contains t.die then
      (g.arch.tracked.filter fun t => t.path == .P && !t.done).map fun t => (g.id, t.seq)
    else []

/-- A continuation of a context's group on some dies that has made private accesses: a discarded translation served them (R156-R159;
DEDUCED: assumption 105). -/
def State.usedPriv (s : State) (ctx : Nat) (dies : List Nat) (p : Nat → Bool) (g : Group) (c : Cont) : Bool :=
  c.privs.any p && (s.team? g.team).any fun t => s.gridCtx t.grid == ctx && dies.contains t.die

/-- `tfence.S` (R156): the discards happen at issue; its thread waits for the accesses that were under way. -/
def execTfence (sc : Scope) (s : State) : Host.Outcome State Fault Refusal :=
  run (.tfence sc)
    { uses := []
      raises := .kb
      act := fun h s =>
        let dies := tfenceDies sc h.t.die
        let ctx := s.hereCtx h
        let w := s.privOutstanding ctx dies
        let s := s.squashIf (s.usedPriv ctx dies fun _ => true)
        (s.discardOn ctx dies).startThread h (.tfence sc) (.tfence sc) .X 0 false fun t => { t with waits := w } } s

/-- Whether a lane access that a thread waits for is still outstanding. -/
def State.stillOut (s : State) (w : Nat × Nat) : Bool :=
  (s.group? w.1).any fun g => g.arch.tracked.any fun t => t.seq == w.2 && !t.done

/-- TFENCE_COMPLETE (R156). -/
def execTfenceComplete (tid : Nat) (s : State) : Host.Outcome State Fault Refusal :=
  match s.thread? tid with
  | none => .refused (.notEnabled "TFENCE_COMPLETE")
  | some t =>
    match t.kind with
    | .tfence _ =>
      if t.waits.any s.stillOut then .refused (.notEnabled "TFENCE_COMPLETE") else .next (s.endThread t)
    | _ => .refused (.notEnabled "TFENCE_COMPLETE")

/-! ### `trap` and the system registers (R337-R339) -/

/-- `trap` (R337): a program fault of kind TRAP with CODE and LANES = `em`. -/
def execTrap (code : BitVec 6) (s : State) : Host.Outcome State Fault Refusal :=
  run (.trap code)
    { uses := []
      late := fun _ h => some { kind := .trap, lanes := h.p.em, code := code.toNat }
      act := fun _ s => s } s

/-- PERFCTL of the issuing core, and the context that owns the counters (R339). -/
def State.perfctlOf (s : State) (h : Here) : Word := (s.core h.t.die h.t.site).perfctl

/-- PRIVILEGE of the system registers (R338). -/
def State.perfFault (s : State) (h : Here) (owned : Bool) : Option Report :=
  s.rightsLost (s.hereCtx h) <|> failIf (!s.rightPERF (s.hereCtx h) || (owned && (fld (s.perfctlOf h) 0 12).toNat != s.hereCtx h)) .privilege

/-- `sys.rd` (R338): a counter into a pair, or PERFCTL. -/
def execSysRd (d : SReg) (n : BitVec 6) (s : State) : Host.Outcome State Fault Refusal :=
  let wide : Bool := n.toNat ≤ 11
  run (.sysRd d n)
    { uses := dstS d (if wide then 2 else 1)
      late := fun s h => s.perfFault h wide
      act := fun h s =>
        let c := s.core h.t.die h.t.site
        s.onArch h.g.id fun a =>
          if wide then a.setX d.toNat (Sparse.look c.perf n.toNat) else a.setS d.toNat c.perfctl } s

/-- PERFCTL written by a context (R339): EN is kept, and a new owner or CLR clears the counters. -/
def Core.writePerfctl (c : Core) (ctx : Nat) (v : Word) : Core :=
  { c with
    perfctl := (if fld v 31 1 == 1 then 0x80000000 else 0) ||| BitVec.ofNat 32 (ctx % 4096)
    perf := if (fld c.perfctl 0 12).toNat != ctx || fld v 30 1 == 1 then [] else c.perf }

/-- `sys.wr` (R338, R339). -/
def execSysWr (a : SReg) (n : BitVec 6) (s : State) : Host.Outcome State Fault Refusal :=
  run (.sysWr a n)
    { uses := srcS a
      late := fun s h => s.perfFault h false
      act := fun h s => s.onCore h.t.die h.t.site fun c => c.writePerfctl (s.hereCtx h) (h.a.getS a.toNat) } s

/-! ### Soft interrupts (R340) -/

/-- `sint` (R340): targets 1 and 2 need RIGHTS.MGMT; the message goes to the front end. -/
def execSint (a : SReg) (s : State) : Host.Outcome State Fault Refusal :=
  run (.sint a)
    { uses := srcS a
      late := fun s h =>
        let t := fld (h.a.getS a.toNat) 30 2
        if t == 1 || t == 2 then s.rightsLost (s.hereCtx h) <|> failIf (!s.rightMGMT (s.hereCtx h)) .privilege else none
      act := fun h s => s.onFe fun f => { f with msgs := f.msgs ++ [.sint (s.hereCtx h) (h.a.getS a.toNat)] } } s

/-! ### Table walks (R369-R371) -/

/-- A context whose accesses a unit of a die may walk for: of a team on the unit's core, or of a thread on the die (R370, R371). -/
def State.walksFor (s : State) (die ctx : Nat) (u : WalkUnit) : Bool :=
  match u with
  | .fetch site | .priv site => s.teams.any fun t => t.st == .resident && t.die == die && t.site == site && s.gridCtx t.grid == ctx
  | .engine _ => s.threads.any fun t => t.die == die && t.ctx == ctx

/-- TABLE_WALK (R369, R370): the entries that a walk for a missing leaf reads are brought into the walk cache of its die and
the TLB that it serves. What a fault of the walk means is the access's affair, and nothing of it is cached. -/
def execTableWalk (die ctx va : Nat) (u : WalkUnit) (s : State) : Host.Outcome State Fault Refusal :=
  let root := s.rootOf ctx
  if (s.ctx? ctx).isNone || 4 ≤ die || 2 ^ 52 ≤ va || (s.tlbHit (.leaf die u) ctx va).isSome || !s.walksFor die ctx u
      || s.held ⟨some die, some u, ctx, []⟩ va then .refused (.notEnabled "TABLE_WALK")
  else
    .next ((s.walkEntries die ctx u va 3 (tagTgt root) (fld root 0 52).toNat).foldl
      (fun (st : State) e => if (st.tlbHit e.unit ctx va).isSome then st else st.tlbFill e) s)

/-! ### Held records (R336) -/

/-- HELD_RECORD_RELEASE (R336): FRTAIL shows room, and the oldest held record is written. -/
def execHeldRecordRelease (ctx : Nat) (s : State) : Host.Outcome State Fault Refusal :=
  match s.ctx? ctx with
  | none => .refused (.notEnabled "HELD_RECORD_RELEASE")
  | some c =>
    if c.held == [] || c.noRing || s.ringHeld c || (s.ringFull c && !s.isLost (tagKey c.recAddr) 256) then
      .refused (.notEnabled "HELD_RECORD_RELEASE")
    else .next (s.releaseHeld ctx 1)

/-- FRTAIL_REREAD (R336): the timed re-read while a record is held; what has room is written. -/
def execFrtailReread (ctx : Nat) (s : State) : Host.Outcome State Fault Refusal :=
  match s.ctx? ctx with
  | none => .refused (.notEnabled "FRTAIL_REREAD")
  | some c => if c.held == [] then .refused (.notEnabled "FRTAIL_REREAD") else .next (s.releaseHeld ctx c.held.length)

end Sys2Proof.Machine
end

