-- ==== Sys2Proof/Machine/Collective.lean ====
section
/-!
DEFINITION. The collective engine (R412-R415): its commands, and an instance that reduces over the member packages and
writes one result at the destination of this package's participant.
-/
namespace Sys2Proof.Machine

/-- A collective command: no limit holds it back (R202). -/
def collPlan (i : Instr) (op : BitVec 2) (t : CollTy) (a : SReg) : Plan := commandPlan i (.coll op t) .C a fun _ _ => false

/-- `coll.sum.t` (R412). -/
def execCollSum (a : SReg) (t : CollTy) (s : State) : Host.Outcome State Fault Refusal :=
  run (.collSum a t) (collPlan (.collSum a t) 0 t a) s
/-- `coll.max.t` (R412). -/
def execCollMax (a : SReg) (t : CollTy) (s : State) : Host.Outcome State Fault Refusal :=
  run (.collMax a t) (collPlan (.collMax a t) 1 t a) s
/-- `coll.min.t` (R412). -/
def execCollMin (a : SReg) (t : CollTy) (s : State) : Host.Outcome State Fault Refusal :=
  run (.collMin a t) (collPlan (.collMin a t) 2 t a) s

/-! ### The reduction (R414) -/

/-- The combining operation of a collective, on f32 bits or 32-bit integers. -/
def collCombine (op : Nat) (t : CollTy) (a b : Nat) : Nat :=
  if t = .i32 then
    match op with
    | 0 => intBin .add .i32 false a b
    | 1 => intBin .max .i32 false a b
    | _ => intBin .min .i32 false a b
  else
    match op with
    | 0 => LitFOp.eval .fadd .f32 a b
    | 1 => floatPick .f32 true a b
    | _ => floatPick .f32 false a b

/-- An element as the tree takes it: a bf16 widens exactly to f32. -/
def collIn (t : CollTy) (x : Word) : Nat := if t = .bf16 then x.toNat % 2 ^ 16 * 2 ^ 16 else x.toNat

/-- The tree's result as an element: a bf16 rounds once. -/
def collOut (t : CollTy) (x : Nat) : Word := BitVec.ofNat 32 (if t = .bf16 then Fmt.bf16.round .rne 0 (Fmt.f32.value x) else x)

/-- The six levels of the fixed tree over positions 0 to 63 (R188, R414). -/
def treeReduce64 (f : Nat → Nat → Nat) (val : Nat → Option Nat) : Nat :=
  let up := treeLevel f
  ((up (up (up (up (up (up ((List.range 64).map val))))))).headD none).getD 0

/-- One element reduced over the packages that contribute. -/
def collElement (op : Nat) (t : CollTy) (parts : List (Nat × List Word)) (e : Nat) : Word :=
  collOut t (treeReduce64 (collCombine op t) fun k => (parts.find? fun p => p.1 == k).map fun p => collIn t (p.2.getD e 0))

/-! ### An instance -/

/-- This package's number (R411). -/
def State.pkgNo (s : State) : Nat := (fld s.fe.domid 0 6).toNat

/-- The elements of the participant's SRC, or the fault of the first that cannot be read. -/
def State.collSrc (s : State) (t : Thread) (tm : Team) (ty : CollTy) : Nat → Except Report (List Word)
  | 0 => .ok []
  | n + 1 =>
    match State.collSrc s t tm ty n with
    | .error r => .error r
    | .ok l =>
      match s.readAt t tm (descCtl t.desc 0 2) (fieldOf t.desc 0 8 + n * collBytes ty : Nat) (collBytes ty) with
      | .error r => .error r
      | .ok bs => .ok (l ++ [BitVec.ofNat 32 (ofBytes bs)])

/-- The result written from element `idx` on; the thread stands at the first element that cannot be written. -/
def State.collWrite (s : State) (t : Thread) (tm : Team) (ty : CollTy) : List Word → State
  | [] => s.onThread t.id fun u => { u with idx := t.idx }
  | x :: xs =>
    match s.writeAt t tm (descCtl t.desc 2 2) (fieldOf t.desc 0x08 8 + t.idx * collBytes ty : Nat) (collBytes ty) with
    | .error r => (s.onThread t.id fun u => { u with idx := t.idx }).raiseThread { t with idx := t.idx } r
    | .ok p =>
      State.collWrite (s.putPlace tm (descCtl t.desc 2 2) p (toBytes (collBytes ty) x.toNat)) { t with idx := t.idx + 1 } tm ty xs

/-- The thread's join is done with. -/
def State.leaveColl (s : State) (tid : Nat) : State := s.onFe fun f => { f with joins := f.joins.filter fun j => j.tid != tid }

/-- A join is done with once its thread has written its result or has stopped. -/
def State.settleColl (s : State) (tid : Nat) : State :=
  if (s.thread? tid).all fun u => u.st == .ended || u.idx == u.total then s.leaveColl tid else s

/-- The outcome of an instance whose participants are all known (R414): a mismatch and an unreachable member fault; else
the result is formed once and written. -/
def State.collRun (s : State) (t : Thread) (tm : Team) (op : BitVec 2) (ty : CollTy) (members : DWord) (remote : List CollPart) : State :=
  let addr := BitVec.ofNat 64 t.off
  let absent := (List.range 64).any fun k => members.getLsbD k && k != s.pkgNo && !(remote.any fun p => p.pkg == k)
  let same := remote.all fun p => p.members == members && p.op == op && p.ty == ty && p.vals.length == t.total
  if absent then (s.leaveColl t.id).raiseThread t { kind := .uncorrectable, addr := addr, cls := 1, pa := 0 }
  else if !same then (s.leaveColl t.id).raiseThread t { kind := .barrierCount, addr := addr }
  else
    match s.collSrc t tm ty t.total with
    | .error r => (s.raiseThread t r).settleColl t.id
    | .ok own =>
      let parts := (s.pkgNo, own) :: (remote.filter fun p => members.getLsbD p.pkg).map fun p => (p.pkg, p.vals)
      let vals := (List.range t.total).map fun e => collElement op.toNat ty parts e
      let s := s.onThread t.id fun u => { u with args := vals }
      (if t.orphan then s.onThread t.id fun u => { u with idx := t.total }
        else s.collWrite { t with args := vals } tm ty vals).settleColl t.id

/-- Whether the participant's reads or writes wait for a stack in training (R379, R405). -/
def State.collHeld (s : State) (t : Thread) (ty : CollTy) : Bool :=
  let n := t.total * collBytes ty
  (t.args == [] && s.threadHeld t (descCtl t.desc 0 2) (fieldOf t.desc 0 8 : Nat) n)
    || (!t.orphan && s.threadHeld t (descCtl t.desc 2 2) (fieldOf t.desc 0x08 8 : Nat) n)

/-- COLLECTIVE_INSTANCE (R414): the oldest instance of a group that this package takes part in. `remote` holds what the
other member packages contribute; a member that contributes nothing has become unreachable. A thread that parked in its
writes goes on with the result it has. -/
def execCollectiveInstance (cg : Nat) (remote : List CollPart) (s : State) : Host.Outcome State Fault Refusal :=
  match s.fe.joins.find? fun j => j.cg == cg with
  | none => .refused (.notEnabled "COLLECTIVE_INSTANCE")
  | some j =>
    match s.moving j.tid ThreadKind.described .running with
    | none => .refused (.notEnabled "COLLECTIVE_INSTANCE")
    | some (t, tm) =>
      match t.kind with
      | .coll op ty =>
        if s.collHeld t ty then .refused (.notEnabled "COLLECTIVE_INSTANCE")
        else if t.args = [] then .next (s.collRun t tm op ty (Sparse.look s.fe.cge (2 * cg)) remote)
        else .next ((s.collWrite t tm ty (t.args.drop t.idx)).settleColl t.id)
      | _ => .refused (.notEnabled "COLLECTIVE_INSTANCE")

end Sys2Proof.Machine
end

