-- ==== Sys2Proof/Machine/Stacks.lean ====
section
/-!
DEFINITION. Memory stacks (R379-R389): training and loss, `stk.hand` and the seven steps of a hand-over, and the base-die
controllers' scrub, refresh, counters and error log.
-/
namespace Sys2Proof.Machine

/-! ### STKSTAT (R380) -/

/-- The STKSTAT value of a stack; OWNER of a FAILED stack is not stated (assumption 34). -/
def Stack.stat (k : Stack) : DWord :=
  let low : Nat :=
    match k.st with
    | .training => 32 * (Stack.ports k.n).1
    | .owned g => 1 + 32 * g
    | .handing g d step => 2 + 32 * g + 128 * d + 512 * step
    | .failed => 3 + 32 * (Config.failedOwner k.n).toNat
  k.hseq ++ BitVec.ofNat 32 low

/-- The copy that a die beside a stack holds, replaced. -/
def Stack.setCopy (k : Stack) (die : Nat) (c : DieCopy) : Stack :=
  if (Stack.ports k.n).1 = die then { k with copyA := c } else if (Stack.ports k.n).2 = die then { k with copyB := c } else k

/-! ### The base-die controller's counters and log (R387) -/

/-- A counter that saturates. -/
def satInc (x : Word) : Word := if x = 0xFFFFFFFF then x else x + 1

/-- An event of a BDC: counted, numbered, and logged where the log of 256 entries has room. -/
def Stack.event (k : Stack) (kind pa channel : Nat) : Stack :=
  let k := match kind with
    | 1 => { k with cecnt := satInc k.cecnt }
    | 2 | 3 => { k with uecnt := satInc k.uecnt }
    | _ => k
  if k.log.length < 256 then
    { k with lseq := k.lseq + 1, log := k.log ++ [⟨k.lseq, pa, kind, channel, k.cecnt, k.uecnt, k.logovf⟩] }
  else { k with lseq := k.lseq + 1, logovf := satInc k.logovf }

/-! ### Training and loss (R379, R388) -/

/-- Training has ended well: the stack is OWNED by the die of R27, whose port is open. -/
def Stack.train (k : Stack) : Stack :=
  { k with st := .owned (Stack.ports k.n).1, copyA := .owned, copyB := .notOwned, portTo := some (Stack.ports k.n).1 }

/-! ### `stk.hand` (R381) -/

/-- Whether a die lies in a context's partition (R116). -/
def State.inPartition (s : State) (ctx die : Nat) : Bool := (s.ctx? ctx).any fun c => c.dies.getLsbD die

/-- The outstanding private accesses of a die's groups: they may have used a translation that step 4 discards (R382). -/
def State.privOn (s : State) (die : Nat) : List (Nat × Nat) :=
  s.groups.flatMap fun g =>
    if (s.team? g.team).any fun t => t.die == die then (g.arch.tracked.filter fun t => t.path == .P && !t.done).map fun t => (g.id, t.seq)
    else []

/-- `stk.hand` (R381): rights, then ownership; the copy shows HANDING at once, and the hand-over's thread starts. -/
def execStkHand (stack : BitVec 4) (die : BitVec 2) (s : State) : Host.Outcome State Fault Refusal :=
  let i : Instr := .stkHand stack die
  let n := stack.toNat
  let d := die.toNat
  run i
    { uses := []
      raises := .kb
      stall := fun _ h => h.acquiring
      late := fun s h =>
        let c := s.hereCtx h
        s.rightsLost c <|> failIf (!s.rightSTK c || !s.inPartition c d || !s.inPartition c h.t.die) .privilege
          <|> failIf (s.copyOf h.t.die n != .owned || d == h.t.die) .ownership
      act := fun h s =>
        let s := s.squashIf fun g c => (s.team? g.team).any (fun t => t.die == h.t.die) && c.privs.any fun k => k < 2 ^ 40 && stackOf k == n
        let s := s.startThread h i (.hand n d) .X 0 false fun t => { t with st := .running, idx := 1 }
        s.onStack n fun k => { k.setCopy h.t.die .handing with st := .handing h.t.die d 1 } } s

/-! ### The drain (R382, R383) -/

/-- A hand-over's thread with the drain step it is at, its stack and its receiving die. -/
def State.drainAt (s : State) (tid step : Nat) : Option (Thread × Nat × Nat) :=
  match s.thread? tid with
  | none => none
  | some t =>
    match t.kind with
    | .hand n d => if t.idx = step then some (t, n, d) else none
    | _ => none

/-- A stack is in the hand-over of this thread: it was neither lost nor retrained meanwhile. -/
def Stack.handedBy (k : Stack) (t : Thread) (d : Nat) : Bool :=
  match k.st with | .handing g e step => g == t.die && e == d && step == t.idx | _ => false

/-- The next drain step of the thread, and of the stack while it is in this hand-over. -/
def State.drainTo (s : State) (t : Thread) (n d step : Nat) (f : Stack → Stack := id) : State :=
  (s.onThread t.id fun u => { u with idx := step }).onStack n fun k =>
    if k.handedBy t d then f { k with st := .handing t.die d step } else k

/-- Whether n bytes at an address of main memory may still be reached on a stack: they lie there now, or their walk reads a table there,
or a page of theirs is not present, which the driver may yet map there (R382, R383; DEDUCED: assumption 106). -/
def State.liesOn (s : State) (t : Thread) (stack : Nat) (sp : Nat) (a : Int) (n : Nat) : Bool :=
  sp == 2 && 0 ≤ a && (pagePieces a.toNat n).any fun e =>
    s.translationMeets t.walker e.1 (· == stack) (fun pte pa => pteTgt pte == 0 && stackOf pa == stack)
      || (match s.leafOf t.walker e.1 with | .error .page => true | _ => false)

/-- Whether element i of a thread, or a collective's whole extent, may still be reached on a stack. -/
def State.elementOn (s : State) (t : Thread) (stack i : Nat) : Bool :=
  let b := t.desc
  let src := descCtl b 0 2
  let dst := descCtl b 2 2
  match t.kind with
  | .copy _ | .fill =>
    let (sa, da, _, _) := copyAt b i
    (t.kind != .fill && s.liesOn t stack src sa (copyBytes b)) || s.liesOn t stack dst da (copyBytes b)
  | .gather | .scatter =>
    let x := ofBytes (s.bytes (teamKey t.team (fieldOf b 0x10 4 + 4 * i)) 4)
    s.liesOn t stack src (fieldOf b 0 8 + x * fieldOf b 0x20 8 : Nat) (fieldOf b 0x18 4)
      || s.liesOn t stack dst (fieldOf b 0x08 8 + i * fieldOf b 0x18 4 : Nat) (fieldOf b 0x18 4)
  | .bam _ => s.liesOn t stack src (fieldOf b 0 8 + i * bamTstr b) (bamBytes b)
  | .coll _ ty =>
    s.liesOn t stack src (fieldOf b 0 8 : Nat) (fieldOf b 0x10 4 * collBytes ty)
      || s.liesOn t stack dst (fieldOf b 0x08 8 : Nat) (fieldOf b 0x10 4 * collBytes ty)
  | _ => false

/-- The threads of a die that issued before a hand-over's fence and are not done with its stack (R382, R383): a descriptor that is still
to be read may name it, an element or the completion word lies there. -/
def State.preFence (s : State) (die n : Nat) : Bool :=
  s.threads.any fun t =>
    t.die == die && t.kind.described && t.st != .ended && !t.fenced.contains n &&
      (t.desc == [] || ((List.range (t.total - t.idx)).any fun j => s.elementOn t n (t.idx + j))
        || (descCwe t.desc && descCws t.desc != 1 && s.liesOn t n 2 (descCwa t.desc) 8))

/-- HANDOVER_DRAIN (R382): step 1 ends with the fence, step 2 once the pre-fence threads are done with the stack. -/
def execHandoverDrain (tid : Nat) (s : State) : Host.Outcome State Fault Refusal :=
  match s.drainAt tid 1, s.drainAt tid 2 with
  | some (t, n, d), _ => .next (s.drainTo t n d 2)
  | none, some (t, n, d) =>
    if s.preFence t.die n then .refused (.notEnabled "HANDOVER_DRAIN") else .next (s.drainTo t n d 3)
  | none, none => .refused (.notEnabled "HANDOVER_DRAIN")

/-- An entry that step 4 discards: a leaf that maps a frame of the stack, or a walk-cache entry that was read from a table there. -/
def TlbEntry.onStack (e : TlbEntry) (die n : Nat) : Bool :=
  e.unit.die == die && (match e.unit with | .leaf .. => pteTgt e.pte == 0 && stackOf (ptePa e.pte) == n | .walk .. => e.table == some n)

/-- The translations of a stack that a die holds, discarded as step 4 of a hand-over begins: its thread waits for the accesses that may
have used them (R382). -/
def State.discardStack (s : State) (t : Thread) (n : Nat) : State :=
  { s with tlb := s.tlb.filter fun e => !e.onStack t.die n }.onThread t.id fun u => { u with waits := s.privOn t.die }

/-- STACK_CACHE_FLUSH (R382, R383): step 3 ends: the giving die's cache has written back every dirty line of the stack, lost ones with
their poison code. Step 4 begins with the discard. -/
def execStackCacheFlush (tid : Nat) (s : State) : Host.Outcome State Fault Refusal :=
  match s.drainAt tid 3 with
  | some (t, n, d) => .next (((s.writeBack fun c => stackOf (64 * c.line) == n).drainTo t n d 4).discardStack t n)
  | none => .refused (.notEnabled "STACK_CACHE_FLUSH")

/-- HANDOVER_TRANSLATION_DISCARD (R382): step 4 ends once the accesses that used a discarded entry have completed. -/
def execHandoverTranslationDiscard (tid : Nat) (s : State) : Host.Outcome State Fault Refusal :=
  match s.drainAt tid 4 with
  | some (t, n, d) =>
    if t.waits.any s.stillOut then .refused (.notEnabled "HANDOVER_TRANSLATION_DISCARD") else .next (s.drainTo t n d 5)
  | none => .refused (.notEnabled "HANDOVER_TRANSLATION_DISCARD")

/-- PORT_SWITCH (R382, R386): step 5: the port of the giving die closes, and the receiving die's opens. -/
def execPortSwitch (tid : Nat) (s : State) : Host.Outcome State Fault Refusal :=
  match s.drainAt tid 5 with
  | some (t, n, d) => .next (s.drainTo t n d 6 fun k => { k with portTo := some d })
  | none => .refused (.notEnabled "PORT_SWITCH")

/-- HANDOVER_COMPLETE (R382): step 7: KB lowers and HSEQ counts on. -/
def execHandoverComplete (tid : Nat) (s : State) : Host.Outcome State Fault Refusal :=
  match s.drainAt tid 7 with
  | some (t, n, d) =>
    let s := s.onStack n fun k => { k with hseq := k.hseq + 1, st := if k.handedBy t d then .owned d else k.st }
    let s := { s with threads := mapIf s.threads (·.die == t.die) fun (u : Thread) => { u with fenced := u.fenced.filter (· != n) } }
    .next (s.endThread t)
  | none => .refused (.notEnabled "HANDOVER_COMPLETE")

/-! ### Scrub, refresh and the log (R386, R387) -/

/-- A base-die controller that runs its stack. -/
def Stack.live (k : Stack) : Bool := match k.st with | .owned _ | .handing .. => true | _ => false

/-- A corrected error in a granule: counted, logged, and counted for its row, which is repaired at the firmware's threshold (R386,
R387). -/
def Stack.corrects (k : Stack) (pa : Nat) : Stack :=
  let row := Config.rowOf pa
  let ch := (Config.channelOf pa).toNat
  let c := ((k.rowCe.find? (·.1 == row)).map (·.2)).getD 0 + 1
  let k := k.event 1 pa ch
  let rest := k.rowCe.filter (·.1 != row)
  if Config.rowThreshold ≤ c then { k with rowCe := rest, repairs := k.repairs ++ [pa] }.event 4 pa ch
  else { k with rowCe := (row, c) :: rest }

/-- DRAM of a granule is poisoned: what a dirty line of the stack cache holds of it is not lost (R375). -/
def State.poison (s : State) (q : Nat) : State :=
  if s.cache.any (·.line == q) then { s with cache := mapIf s.cache (·.line == q) fun c => { c with poison := true } }
  else { s with lost := if s.lost.contains q then s.lost else s.lost ++ [q] }

/-- PATROL_SCRUB (R386, R387): the next granule in address order; an error is counted and logged, an uncorrectable one poisons its
granule, and a row at its threshold is repaired. No value that a program can read changes otherwise. -/
def execPatrolScrub (n : Nat) (found : ScrubFinding) (s : State) : Host.Outcome State Fault Refusal :=
  match s.stack? n with
  | none => .refused (.notEnabled "PATROL_SCRUB")
  | some k =>
    if !k.live then .refused (.notEnabled "PATROL_SCRUB")
    else
      let pa := n * 2 ^ 36 + 64 * k.scrubAt
      let next (q : Stack) : Stack := { q with scrubAt := (q.scrubAt + 1) % 2 ^ 30 }
      match found with
      | .clean => .next (s.onStack n next)
      | .corrected => .next (s.onStack n fun q => next (q.corrects pa))
      | .uncorrectable => .next ((s.poison (physKey 0 pa / 64)).onStack n fun q => next (q.event 3 pa (Config.channelOf pa).toNat))

/-- REFRESH (R386): the controller holds the temperature, and the rate doubles above the stack's threshold. Its firmware sees a wake, and
clears the bit (R425; DESIGN CHOICE: assumption 118). -/
def execRefresh (n temp : Nat) (s : State) : Host.Outcome State Fault Refusal :=
  match s.stack? n with
  | none => .refused (.notEnabled "REFRESH")
  | some k =>
    let hot : Bool := Config.refreshTemp < temp
    if k.live then
      .next (s.onStack n fun q => { q with refreshes := q.refreshes + (if hot then 2 else 1), hotRefresh := hot, temp := temp, wake := none })
    else .refused (.notEnabled "REFRESH")

/-- LOG_DRAIN (R387): the oldest entry of a BDC's log joins the management log under the next package event number (R10). -/
def execLogDrain (n : Nat) (s : State) : Host.Outcome State Fault Refusal :=
  match s.stack? n with
  | none => .refused (.notEnabled "LOG_DRAIN")
  | some k =>
    match k.log with
    | [] => .refused (.notEnabled "LOG_DRAIN")
    | e :: r => .next (((s.onStack n fun q => { q with log := r }).mgmtLog (.bdc s.evSeq n e)).nextSeqNo)

/-- STKSTAT serves from Stage B on (R417). -/
def State.statReady (s : State) : Bool := s.pkg.stage == .b || s.pkg.stage == .c || s.pkg.stage == .d

/-- STKSTAT_READ (R380): the host's read of STKSTAT, zero before it serves. -/
def execStkstatRead (n : Nat) (s : State) : Host.Outcome State Fault Refusal :=
  match s.stack? n with
  | none => .refused (.notEnabled "STKSTAT_READ")
  | some k => .next (s.onFe fun f => { f with reads := (if s.statReady then k.stat.toNat else 0) :: f.reads })

end Sys2Proof.Machine
end

