-- ==== Sys2Proof/Machine/Place.lean ====
section
/-!
DEFINITION. Placement (R320-R323, R325, R332): what a team needs on a core, what a core has free, the queues of absent teams
(R298), and the seating of new, restored and dispatched teams and of whole clusters.
-/
namespace Sys2Proof.Machine

/-! ### What a team needs -/

/-- The needs of a team on a core: for each group the quadrant it keeps, if any, and its blocks; saved pools; team memory,
barriers, matrix state and new private slots. -/
structure Need where
  groups : List (Option Nat × Nat)
  pools : List Nat
  tmem : Nat
  bars : Nat
  matrix : Bool
  privs : Nat
  deriving Repr

/-- A length rounded up to whole units. -/
def roundUp (n unit : Nat) : Nat := (n + unit - 1) / unit * unit

/-- The needs of an absent team (R320). -/
def State.need (s : State) (t : Team) (d : KDesc) : Need :=
  let live := s.liveGroups t.id
  let zero := [0, 0, 0, 0]
  match t.st with
  | .evicted => ⟨live.map fun g => (some g.quad, g.arch.blocks), t.pools, roundUp d.tmem 768, d.bars, t.savedMatrix, 0⟩
  | .bivouac => ⟨live.map fun _ => (none, d.regs), zero, roundUp d.tmem 768, d.bars, false, 0⟩
  | _ => ⟨List.replicate d.groups (none, d.regs), zero, roundUp d.tmem 768, d.bars, false, d.groups⟩

/-! ### What a core has free -/

/-- The resident teams of a core, without some that are to leave. -/
def State.residents (s : State) (die site : Nat) (gone : List Nat) : List Team :=
  s.teams.filter fun t => t.st == .resident && t.die == die && t.site == site && !gone.contains t.id

/-- Blocks of a quadrant that a team holds: its live groups' and its pool's. -/
def State.teamBlocks (s : State) (t : Team) (quad : Nat) : Nat :=
  (((s.liveGroups t.id).filter fun g => g.quad == quad).map fun g => g.arch.blocks).foldl (· + ·) 0 + t.pools.getD quad 0

/-- Free group slots of a core. -/
def State.freeSlots (s : State) (ts : List Team) : List Nat :=
  let used := ts.flatMap fun t => ((s.teamGroups t.id).filter fun g => !g.retired).map fun g => g.slot
  (List.range 64).filter fun n => !used.contains n

/-- Free register blocks of the four quadrants, of 128 each (R22). -/
def State.freeBlocks (s : State) (ts : List Team) : List Nat :=
  [0, 1, 2, 3].map fun q => 128 - (ts.map fun t => s.teamBlocks t q).foldl (· + ·) 0

/-- The lowest base at which a range of team memory is free (R121). -/
def memoryGap (used : List (Nat × Nat)) (len : Nat) : Option Nat :=
  if len = 0 then some 0
  else
    ((0 :: used.map fun r => r.1 + r.2).filter fun b =>
      b + len ≤ 0x180000 && used.all fun r => !overlaps b len r.1 r.2).min?

/-- The quadrant for a group: its own, or the one with the most free blocks that can hold it (R320). -/
def pickQuad (slots blocks : List Nat) (quad : Option Nat) (n : Nat) : Option Nat :=
  let ok (q : Nat) : Bool := (slots.any fun x => x / 16 == q) && n ≤ blocks.getD q 0
  match quad with
  | some q => if ok q then some q else none
  | none =>
    let qs := [0, 1, 2, 3].filter ok
    let top := (qs.map fun q => blocks.getD q 0).foldl max 0
    qs.find? fun q => blocks.getD q 0 == top

/-- Slots for groups, in group-index order. -/
def seatGroups (slots blocks : List Nat) : List (Option Nat × Nat) → Option (List Nat)
  | [] => some []
  | (quad, n) :: r =>
    match pickQuad slots blocks quad n with
    | none => none
    | some q =>
      match slots.find? fun x => x / 16 == q with
      | none => none
      | some x => (seatGroups (slots.filter (· != x)) (blocks.mapIdx fun i b => if i = q then b - n else b) r).map (x :: ·)

/-- Whether the dispatcher may use a site for a kernel (R17, R113). -/
def State.siteOk (s : State) (d : KDesc) (die site : Nat) : Bool :=
  (s.pkg.enmask.getD die 0).getLsbD site && (!d.pinned || (d.bitmap.getD die 0).testBit site)

/-- The sites of an area are all enabled, or all required (R322). -/
def State.areaOk (s : State) (d : KDesc) (die : Nat) (area : List Nat) : Bool := area.all (s.siteOk d die)

/-- Where a team fits on a core, once some teams have left: group slots and the base of its team memory (R320). -/
def State.fitSite (s : State) (t : Team) (d : KDesc) (die site : Nat) (gone : List Nat) : Option (List Nat × Nat) :=
  let ts := s.residents die site gone
  let n := s.need t d
  let mx := (s.core die site).mx
  let blocks := (s.freeBlocks ts).mapIdx fun q b => b - n.pools.getD q 0
  let pools := (s.freeBlocks ts).mapIdx fun q b => decide (n.pools.getD q 0 ≤ b)
  let bars := (ts.map fun u => u.bars.length).foldl (· + ·) 0
  if s.siteOk d die site && ts.length < 16 && bars + n.bars ≤ 64 && pools.all id
      && (!n.matrix || mx.team.all gone.contains) then
    match seatGroups (s.freeSlots ts) blocks n.groups, memoryGap (ts.map fun u => (u.tmBase, roundUp u.tmem 768)) n.tmem with
    | some slots, some base => some (slots, base)
    | _, _ => none
  else none

/-- The context's limits for some teams on a die: block quota and private slots (R129, R325). -/
def State.quotaOk (s : State) (ctx die : Nat) (ns : List Need) (gone : List Nat) : Bool :=
  let held := ((s.ctxTeams ctx).filter fun t => t.st == .resident && t.die == die && !gone.contains t.id).map fun t =>
    ([0, 1, 2, 3].map fun q => s.teamBlocks t q).foldl (· + ·) 0
  let more := ns.map fun n => (n.groups.map (·.2)).foldl (· + ·) 0 + n.pools.foldl (· + ·) 0
  let privs := (((s.ctx? ctx).map fun c => c.privUsed.length).getD 0) + (ns.map (·.privs)).foldl (· + ·) 0
  (s.blkq ctx == 0 || (held ++ more).foldl (· + ·) 0 ≤ 512 * s.blkq ctx) && privs ≤ 2 ^ 20

/-! ### Areas: a site, or a cluster's rectangle (R322) -/

/-- The areas that a kernel's unit may take: every site, or every rectangle by increasing top-left site. -/
def areasOf (d : KDesc) : List (List Nat) :=
  if d.csize ≤ 1 then (List.range 156).map fun x => [x]
  else
    ((List.range 156).filter fun x => x / 13 + d.rows ≤ 12 && x % 13 + d.cols ≤ 13).map fun x =>
      (List.range (d.rows * d.cols)).map fun i => x + 13 * (i / d.cols) + i % d.cols

/-- The place of a team in its area. -/
def Team.placeIn (t : Team) (d : KDesc) (area : List Nat) : Nat := area.getD (t.t % max 1 d.csize) 0

/-- The absent members of a unit. -/
def State.absentOf (s : State) (unit : List Nat) : List Team := (unit.filterMap s.team?).filter Team.isAbsent

/-- Seats for the absent members of a unit in an area; resident members must already sit at their places. -/
def State.fitArea (s : State) (unit : List Nat) (g : Grid) (die : Nat) (area gone : List Nat) : Option (List (Nat × Nat × List Nat × Nat)) :=
  let d := g.desc
  let ms := unit.filterMap s.team?
  let ab := s.absentOf unit
  let seats := ab.filterMap fun t => (s.fitSite t d die (t.placeIn d area) gone).map fun x => (t.id, t.placeIn d area, x.1, x.2)
  if s.areaOk d die area && seats.length = ab.length && s.quotaOk g.ctx die (ab.map fun t => s.need t d) gone
      && ms.all (fun t => t.st != .resident || t.site == t.placeIn d area) then some seats
  else none

/-- The grid of a unit. -/
def State.unitGrid (s : State) (unit : List Nat) : Option Grid := (unit.head?.bind s.team?).bind fun t => s.grid? t.grid

/-! ### Choosing an area (R320, R323) -/

/-- The class of a kernel (R323). -/
def State.classOf (s : State) (ctx : Nat) (addr : DWord) : Intensity :=
  ((s.fe.classes.find? fun e => e.1 == ctx && e.2.1 == addr).map fun e => e.2.2).getD .mixed

/-- The class of a grid's kernel is used: its entry becomes the most recently used. -/
def FrontEnd.useClass (f : FrontEnd) (g : Grid) : FrontEnd :=
  let mine (e : Nat × DWord × Intensity) : Bool := e.1 == g.ctx && e.2.1 == g.desc.addr
  { f with classes := f.classes.filter mine ++ f.classes.filter fun e => !mine e }

def State.teamClass (s : State) (t : Team) : Intensity :=
  match s.grid? t.grid with
  | some g => s.classOf g.ctx g.desc.addr
  | none => .mixed

/-- Whether the classifier prefers a core for a class: one that holds a team of the opposite class. -/
def State.prefers (s : State) (c : Intensity) (die site : Nat) : Bool :=
  let want : Option Intensity := match c with | .compute => some .memory | .memory => some .compute | .mixed => none
  want.any fun w => (s.residents die site []).any fun t => s.teamClass t == w

/-- The order of fitting cores: the classifier's preference, then the fewest resident teams, then the lowest site. -/
def State.siteKey (s : State) (c : Intensity) (die : Nat) (area : List Nat) : Nat :=
  let x := area.headD 0
  if area.length = 1 then
    (if s.prefers c die x then 0 else 2 ^ 16) + 256 * (s.residents die x []).length + x
  else x

/-- Every absent member of a unit stands in the die's queue. -/
def State.unitQueued (s : State) (unit : List Nat) (die : Nat) : Bool :=
  let q := ((s.die? die).map (·.absent)).getD []
  (s.absentOf unit) != [] && (s.absentOf unit).all fun t => q.contains t.id

/-- A context whose teams may be placed (R327). -/
def State.placing (s : State) (ctx : Nat) : Bool :=
  (s.ctx? ctx).any fun c => (c.st == .ready || c.st == .resident || c.st == .partly) && !c.switching

/-! ### Room that pre-emption makes (R329) -/

/-- The victims of a claim that are still on the die. -/
def State.claimWaits (s : State) (c : Claim) (gone : List Nat) : Bool :=
  c.victims.any fun v => !gone.contains v && (s.team? v).any fun t => t.st == .resident

/-- A claim stands while its unit waits for the last save, and then while the unit fits there. -/
def State.claimStands (s : State) (die : Nat) (c : Claim) : Bool :=
  match s.unitGrid c.unit with
  | none => false
  | some g =>
    s.placing g.ctx && s.unitQueued c.unit die && (s.claimWaits c [] || (s.fitArea c.unit g die c.area []).isSome)

def State.claimsOn (s : State) (die : Nat) : List Claim := (((s.die? die).map (·.claims)).getD []).filter (s.claimStands die)

/-- The claim of a unit. -/
def State.claimOf (s : State) (unit : List Nat) (die : Nat) : Option Claim := (s.claimsOn die).find? fun c => c.unit == unit

/-- The areas in which a unit may look for room: the one that it was promised, once the teams that stand there are gone; else those
that were promised to no other. -/
def State.openAreas (s : State) (unit : List Nat) (g : Grid) (die : Nat) (gone : List Nat) : List (List Nat) :=
  match s.claimOf unit die with
  | some c => if s.claimWaits c gone then [] else [c.area]
  | none => (areasOf g.desc).filter fun a => (s.claimsOn die).all fun c => !(a.any c.area.contains)

/-- The seats of a unit on its die: none where it fits nowhere. -/
def State.seatsFor (s : State) (unit : List Nat) (die : Nat) (gone : List Nat) : Option (List (Nat × Nat × List Nat × Nat)) :=
  match s.unitGrid unit with
  | none => none
  | some g =>
    let c := s.classOf g.ctx g.desc.addr
    let fits := (s.openAreas unit g die gone).filterMap fun a => (s.fitArea unit g die a gone).map fun x => (s.siteKey c die a, x)
    match (fits.map (·.1)).min? with
    | none => none
    | some k => (fits.find? fun e => e.1 == k).map (·.2)

/-! ### Cluster windows (R322) -/

/-- Ranges of a die's scratchpad that a cluster window may not take: context windows, pools and other cluster windows. -/
def State.scratchTaken (s : State) (die : Nat) : List (Nat × Nat) :=
  ((s.ctxs.filter fun c => c.st != .free).flatMap fun c =>
      [(s.spwbase c.id die, s.spwlen c.id die), (s.bpdoff c.id die, s.bpdlen c.id die)])
    ++ ((s.die? die).map fun d => d.windows.map fun w => (w.2.1, w.2.2)).getD []

/-- The base of a free range of a die's scratchpad, in units of 12 KiB. -/
def State.windowGap (s : State) (die len : Nat) : Option Nat :=
  let used := s.scratchTaken die
  ((0 :: used.map fun r => roundUp (r.1 + r.2) 12288).filter fun b =>
    b + len ≤ 0x0C000000 && used.all fun r => !overlaps b len r.1 r.2).min?

/-- A unit needs a window at its first placement (R322). -/
def State.needsWindow (s : State) (unit : List Nat) (g : Grid) : Bool :=
  g.clwin != 0 && (unit.filterMap s.team?).all fun t => t.winLen == 0

/-- A unit that can be placed on its die now, with its seats and the base of its window. -/
def State.placeable (s : State) (unit : List Nat) (die : Nat) : Option (List (Nat × Nat × List Nat × Nat) × Nat) :=
  match s.unitGrid unit, s.seatsFor unit die [] with
  | some g, some seats =>
    if s.needsWindow unit g then (s.windowGap die g.clwin).map fun b => (seats, b) else some (seats, 0)
  | _, _ => none

/-! ### Seating -/

/-- A path of a restored or dispatched group: a path inside a clause has its words fetched again (R89); one that waited in a
way that ends at its instruction executes it again (R298, R314, R334, R360). -/
def Path.restored (p : Path) : Path :=
  { p with
    entry := if p.entry = .inside then .refetch else p.entry
    passed := 0
    park := match p.park with
      | some (.fault n sv) => if sv then none else some (.fault n false)
      | some .lnchFull | some (.spin ..) | some (.mbx ..) | some (.waitK ..) | some (.waitHdr _) => none
      | k => k }

/-- A saved group takes its new slot; its cairn returns fired (R291). -/
def Group.seat (g : Group) (slot age : Nat) : Group :=
  { g with
    slot := slot, age := age, detector := none
    cairn := g.cairn.map fun c => { c with fired := true }
    arch := g.arch.onPaths Path.restored }

/-- A new group of a team (R250, R321). -/
def newGroup (id team gidx slot age priv : Nat) (g : Grid) : Group :=
  let p : Path :=
    { pc := g.desc.code, hdr := g.desc.code, words := [], entry := .target, m := BitVec.allOnes 32, fmt := 0,
      pst := [BitVec.allOnes 32], floor := 0, park := none, passed := 0, idle := 0 }
  let s := (List.range 8).foldl (fun (t : Sparse 32) i => Sparse.put t i (if 4 * i < g.desc.argsz then g.args.getD i 0 else 0)) []
  { id := id, team := team, gidx := gidx, slot := slot, age := age, priv := priv, cairn := none, detector := none, conts := [],
    exited := false, retired := false, spillFault := none, lastSlot := false
    arch := { v := [], s := s, p := [], k := [], tracked := [], nextSeq := 0, spec := none, poison := [], ecc := [], blocks := g.desc.regs,
              lm := BitVec.allOnes 32, path0 := some p, path1 := none, stack := [], spilled := 0, kept := [], low := [] } }

/-- The k lowest private slots that a context has free. -/
def freePrivs (used : List Nat) (k : Nat) : List Nat := ((List.range (used.length + k)).filter fun n => !used.contains n).take k

/-- The groups of a new team created in their slots, with private slots from the context's pool (R129). -/
def State.createGroups (s : State) (team : Nat) (g : Grid) (slots : List Nat) : State :=
  let privs := freePrivs (((s.ctx? g.ctx).map (·.privUsed)).getD []) slots.length
  let gs := slots.mapIdx fun i slot => newGroup (s.nextGroup + i) team i slot (s.nextAge + i) (privs.getD i 0) g
  ({ s with groups := s.groups ++ gs, nextGroup := s.nextGroup + slots.length }.onCtx g.ctx fun c =>
    { c with privUsed := c.privUsed ++ privs }).onTeam team fun t => { t with bars := List.replicate g.desc.bars ⟨0, 0, 0, [], []⟩ }

/-- The live groups of a saved team take their slots, in group-index order. -/
def State.reseatGroups (s : State) (team : Nat) (slots : List Nat) : State :=
  let ids := (s.liveGroups team).map (·.id)
  (List.range ids.length).foldl
    (fun (st : State) i => st.onGroup (ids.getD i 0) fun g => g.seat (slots.getD i 0) (s.nextAge + i)) s

/-- Saved matrix state returns to a core: the team becomes its matrix team, and its rope entries go first (R246). -/
def Matrix.restoreFrom (m : Matrix) (v : SavedMatrix) : Matrix :=
  { m with
    active := v.active, shadow := v.shadow, acc := v.acc, rope := v.rope, ropeq := v.ropeq ++ m.ropeq, team := some v.team, ecc := v.ecc
    threads := v.threads ++ m.threads
    nextNo := v.threads.foldl (fun n t => max n (t.no + 1)) m.nextNo }

/-- The paths of a team that wait for the rope, in group-index order, and those of one group in the order in which they asked (R227). -/
def State.ropeWaiters (s : State) (team : Nat) : List (Nat × Nat) :=
  ((s.liveGroups team).map fun g => (g.ropeEntries.foldl (fun l n => l.takeWhile (· < n) ++ n :: l.dropWhile (· < n)) []).map fun e => (g.id, e)).flatten

/-- The matrix side of a restore (R227, R246). -/
def State.restoreMatrix (s : State) (team die site : Nat) : State :=
  match s.saved.find? (·.team == team) with
  | some v =>
    ({ s with saved := s.saved.filter fun m => m.team != team }.onMx die site fun m => m.restoreFrom v).onTeam team fun t =>
      { t with savedMatrix := false }
  | none => s.onMx die site fun m => { m with ropeq := m.ropeq ++ s.ropeWaiters team }

/-- The space of an image or a record returns (R331, R304), but for a record that the team is still to write. -/
def State.freeStored (s : State) (t : Team) (ctx : Nat) : State :=
  s.onCtx ctx fun c =>
    { c with
      saves := match t.image with | some (a, _) => c.saves.filter fun e => !(e.1 == t.die && e.2.1 == a) | none => c.saves
      pools := match if t.bivouacking then none else t.recordAt with
        | some (m, a, _) => c.pools.filter fun e => !(e.1 == t.die && e.2.1 == m && e.2.2.1 == a)
        | none => c.pools }

/-- A team leaves its die's absent queue and the wake table; what its unit was promised is taken. -/
def State.dequeue (s : State) (team : Nat) : State :=
  { s with dies := s.dies.map fun (d : Die) =>
      { d with absent := d.absent.filter (· != team), wakeTable := d.wakeTable.filter fun e => e.1 != team,
               claims := d.claims.filter fun c => !c.unit.contains team } }

/-- A team is placed (R318, R320): its groups are seated, and it is RESIDENT. Cycles of the core pass meanwhile (R26, R320, R332). RET
is 0 (R299), for a restored team too, as the runs of R434 have it (DEDUCED: assumption 111). -/
def State.seatTeam (s : State) (die : Nat) (seat : Nat × Nat × List Nat × Nat) : State :=
  let (team, site, slots, base) := seat
  match s.team? team with
  | none => s
  | some t =>
    match s.grid? t.grid with
    | none => s
    | some g =>
      let s := s.dequeue team
      let s :=
        match t.st with
        | .evicted => ((s.reseatGroups team slots).restoreMatrix team die site).freeStored t g.ctx
        | .bivouac => ((s.reseatGroups team slots).onTeam team fun u => { u with pools := [0, 0, 0, 0] }).freeStored t g.ctx
        | _ =>
          ((s.createGroups team g slots).enterRange team die site base g.desc.tmem).onGrid g.id fun h => { h with placed := h.placed + 1 }
      let s := s.tick { t with die := die, site := site }
      let s := s.onTeam team fun u =>
        { u with
          st := .resident, die := die, bound := true, site := site, tmBase := base, tmem := g.desc.tmem, age := s.nextAge, ret := 0
          since := (s.core die site).cycle
          image := none, record := none, leaving := .stay, woken := false, wakeSet := []
          recordAt := if u.bivouacking then u.recordAt else none, recDone := if u.bivouacking then u.recDone else 0
          qlog := s.ctxField g.ctx 0x16 1 % 32 }
      { s with nextAge := s.nextAge + slots.length }

/-- The context of a placed team runs (R327). -/
def State.ctxPlaced (s : State) (ctx : Nat) : State :=
  (s.onCtx ctx fun c => { c with st := if c.st = .ready then .resident else c.st }).settleCtx ctx

/-- A grid all of whose teams have been placed once, or have ended, drains (R310). -/
def State.gridPlaced (s : State) (grid : Nat) : State :=
  s.onGrid grid fun g =>
    if g.st = .dispatching && g.total ≤ (s.gridTeams grid).length
        && (s.gridTeams grid).all (fun t => t.bound || t.st == .killed) then { g with st := .draining } else g

/-- A unit placed on its seats, with its window at its first placement (R322); its kernel's class was used (R323). -/
def State.placeUnit (s : State) (unit : List Nat) (die : Nat) (seats : List (Nat × Nat × List Nat × Nat)) (base : Nat) : State :=
  match s.unitGrid unit with
  | none => s
  | some g =>
    let s :=
      if s.needsWindow unit g then
        ({ s with teams := s.teams.map fun (t : Team) =>
            if unit.contains t.id then { t with winBase := base, winLen := g.clwin } else t }).onDie die fun d =>
          { d with windows := d.windows ++ [(unit.headD 0, base, g.clwin)] }
      else s
    let s := s.onFe fun f => f.useClass g
    ((seats.foldl (fun (st : State) x => st.seatTeam die x) s).ctxPlaced g.ctx).gridPlaced g.id

/-! ### The queue of absent teams (R298) -/

/-- The units in a die's absent queue that belong to a context, each once, in queue order. -/
def State.queueUnits (s : State) (die ctx : Nat) : List (List Nat) :=
  let ids := (((s.die? die).map (·.absent)).getD []).filter fun t => s.teamCtx t == ctx
  (ids.map s.unit).eraseDups

/-- An evicted team that waits and has not been woken (R297, R298). -/
def Team.unwoken (t : Team) : Bool := t.st == .evicted && !t.woken

/-- A unit none of whose absent members has been woken, all of them waiting. -/
def State.unitUnwoken (s : State) (unit : List Nat) : Bool :=
  let ab := s.absentOf unit
  ab != [] && ab.all Team.unwoken

/-- The unit that a dispatcher places next for a context: the first that fits among those that are not unwoken waiting
teams; where only those are left, the first of them (R298). -/
def State.nextUnit (s : State) (die ctx : Nat) : Option (List Nat × List (Nat × Nat × List Nat × Nat) × Nat) :=
  let us := (s.queueUnits die ctx).filter fun u => s.unitQueued u die
  let live := us.filter fun u => !s.unitUnwoken u
  let try? (u : List Nat) : Option (List Nat × List (Nat × Nat × List Nat × Nat) × Nat) :=
    (s.placeable u die).map fun x => (u, x.1, x.2)
  if !s.placing ctx then none
  else if us == [] then none
  else if live == [] then (us.head?).bind try?
  else live.findSome? try?

/-- The walker of what a die's dispatcher and cores write for a context: images and records (R331, R304). -/
def dieWalker (die ctx : Nat) : Walker := ⟨some die, none, ctx, []⟩

/-- The fault of reading a range that the device keeps for a context. -/
def State.areaFault (s : State) (die ctx : Nat) (va n : Nat) : Option Report :=
  match s.mainRuns (dieWalker die ctx) .read (pagePieces va n) with
  | .error r => some r
  | .ok p => (p.loss s.lostIn).map (lossAt va)

/-- Whether accesses to such a range wait for a stack in training (R379). -/
def State.areaHeld (s : State) (die ctx va n : Nat) : Bool := (pagePieces va n).any fun e => s.held (dieWalker die ctx) e.1

/-- TAKING A FAULT of a team's record, at the barrier instruction of a group's path, or of its image (R307, R331, R332): a recoverable one
parks that access; another stops the team. -/
def State.raiseArea (s : State) (t : Team) (image : Bool) (at_ : Option (Group × Path)) (r : Report) : State :=
  let ctx := s.gridCtx t.grid
  let rec' : FaultRec :=
    { seq := s.evSeq, pc := (at_.map fun e => e.2.pc).getD 0, addr := r.addr, iword := (at_.map fun e => e.2.iword).getD 0, lanes := 0,
      kind := r.kind, cls := r.kind.cls, flags := if image then 2 else 0, gid := (at_.map fun e => t.site * 64 + e.1.slot).getD 0, ctx := ctx,
      grid := t.grid, team := t.t, die := t.die, site := t.site, gidx := (at_.map fun e => e.1.gidx).getD 0, code := 0 }
  (s.nextSeqNo).faultEffect rec' r t.id t.grid (if image then .image t.id else .bivouac t.id) fun st =>
    st.onTeam t.id fun u =>
      if image then { u with saveFault := some rec'.seq } else { u with recFault := some rec'.seq }

/-- The fault of reading a bivouac record: of its main-memory part as of an image; a lost granule of the
die-scratchpad part is of class CONTEXT (R376). -/
def State.recordFault (s : State) (t : Team) (ctx : Nat) (a : Bool × Nat × Nat) : Option Report :=
  let k := scratchKey t.die (s.bpdoff ctx t.die + a.2.1)
  if a.1 then s.areaFault t.die ctx (s.bpma ctx t.die + a.2.1) a.2.2
  else if s.isLost k a.2.2 then some (lossAt (s.bpdoff ctx t.die + a.2.1) ⟨k, 1, s.lostIn k a.2.2⟩)
  else none

/-- Whether its read waits for a stack in training (R379). -/
def State.recordHeld (s : State) (t : Team) (ctx : Nat) (a : Bool × Nat × Nat) : Bool :=
  a.1 && s.areaHeld t.die ctx (s.bpma ctx t.die + a.2.1) a.2.2

/-- The fault of reading back what an absent team has stored: its image, or its record. -/
def State.returnFault (s : State) (t : Team) : Option Report :=
  let ctx := s.gridCtx t.grid
  match t.st with
  | .evicted => t.image.bind fun i => s.areaFault t.die ctx (s.savea ctx t.die + i.1) i.2
  | .bivouac => t.recordAt.bind fun a => s.recordFault t ctx a
  | _ => none

/-- Whether that waits: for a stack in training, or for the service of its fault. -/
def State.returnHeld (s : State) (t : Team) : Bool :=
  let ctx := s.gridCtx t.grid
  t.saveFault.isSome ||
    match t.st with
    | .evicted => t.image.any fun i => s.areaHeld t.die ctx (s.savea ctx t.die + i.1) i.2
    | .bivouac => t.recordAt.any (s.recordHeld t ctx)
    | _ => false

/-- A unit is placed, where `ok` says that it is one of the kind that an event places: what its absent teams have stored is read
back. A fault of that is its team's (R307, R332), and a lost image is of class DEVICE (R378). The dispatcher reads the context's record
(R324). -/
def State.placeNext (s : State) (die ctx : Nat) (name : String) (ok : List Team → Bool) : Host.Outcome State Fault Refusal :=
  match s.nextUnit die ctx with
  | none => .refused (.notEnabled name)
  | some (u, seats, base) =>
    let ab := s.absentOf u
    if !ok (u.filterMap s.team?) || ab.any s.returnHeld || s.recordWaits ctx then .refused (.notEnabled name)
    else if let some t := s.recordLoss ctx then .next t
    else
      match ab.findSome? fun t => (s.returnFault t).map fun r => (t, r) with
      | some (t, r) => .next (s.raiseArea t true none r)
      | none => .next (s.placeUnit u die seats base)

/-- A team that is no member of a cluster of several. -/
def alone (st : TeamState) (l : List Team) : Bool := match l with | [t] => t.st == st | _ => false

/-- TEAM_PLACE (R320, R321): the dispatcher places a new team. -/
def execTeamPlace (die ctx : Nat) (s : State) : Host.Outcome State Fault Refusal :=
  s.placeNext die ctx "TEAM_PLACE" (alone .unplaced)

/-- CLUSTER_PLACE (R322): a cluster is placed whole, new or after its absence. -/
def execClusterPlace (die ctx : Nat) (s : State) : Host.Outcome State Fault Refusal :=
  s.placeNext die ctx "CLUSTER_PLACE" fun l => 1 < l.length

/-- A saved team or a record that stands first in its die's queue returns. -/
def State.returnTeam (s : State) (team : Nat) (st : TeamState) (name : String) : Host.Outcome State Fault Refusal :=
  match s.team? team with
  | none => .refused (.notEnabled name)
  | some t => s.placeNext t.die (s.gridCtx t.grid) name fun l => alone st l && l.all (·.id == team)

/-- TEAM_RESTORE (R332): a saved team returns with its image. -/
def execTeamRestore (team : Nat) (s : State) : Host.Outcome State Fault Refusal := s.returnTeam team .evicted "TEAM_RESTORE"

/-- BIVOUAC_DISPATCH (R306): a record that was handed to its die's dispatcher is placed as a team. -/
def execBivouacDispatch (team : Nat) (s : State) : Host.Outcome State Fault Refusal := s.returnTeam team .bivouac "BIVOUAC_DISPATCH"

end Sys2Proof.Machine
end

