-- ==== Sys2Proof/Machine/Leave.lean ====
section
/-!
DEFINITION. How teams leave their cores: arrivals at grid and cluster barriers and their release (R301-R303), bivouac
(R304-R307), eviction of waiting teams, rotation and pre-emption (R296-R299, R329), saving (R330, R331), and the end of a
team (R318, R323).
-/
namespace Sys2Proof.Machine

/-! ### A group's and a team's arrival (R289, R301) -/

/-- A resident team whose groups' arrivals count, one that is about to leave its core among them: they have arrived already. -/
def Team.arrives (t : Team) : Bool := t.st == .resident && !t.bivouacking && t.recFault == none

/-- A group's arrival at a grid or cluster barrier marked on its paths. -/
def State.markSlotArrival (s : State) (grp : Nat) : State :=
  s.onArch grp fun a => a.onPaths fun p =>
    match p.park with
    | some (.bar k n c hold false g) => if k = .named then p else { p with park := some (.bar k n c hold true g) }
    | _ => p

/-- GROUP_BARRIER_ARRIVAL (R289, R301): every live lane of the group is parked at one barrier. -/
def execGroupBarrierArrival (grp : Nat) (s : State) : Host.Outcome State Fault Refusal :=
  match s.group? grp with
  | none => .refused (.notEnabled "GROUP_BARRIER_ARRIVAL")
  | some g =>
    let held := (s.team? g.team).any fun t => t.bars.any fun b => b.held.any fun e => e.1 == g.gidx
    match g.arrivesAt with
    | some (k, n, c, _) =>
      if !(s.team? g.team).any Team.arrives || (k = .named && held) then .refused (.notEnabled "GROUP_BARRIER_ARRIVAL")
      else if k = .named then .next (s.arriveNamed g n c)
      else .next (s.markSlotArrival grp)
    | none => .refused (.notEnabled "GROUP_BARRIER_ARRIVAL")

/-- The kind, slot index and form of a path whose group has arrived at a slot and whose team has not. -/
def Path.atSlot (p : Path) : Option (BarKind × Nat × Bool) :=
  match p.park with
  | some (.bar k n _ hold true 0) => if k = .named then none else some (k, n, hold)
  | _ => none

/-- The slot that a team arrives at: every live group has arrived there. The flag says that no group passes. -/
def State.teamAtSlot (s : State) (team : Nat) : Option (BarKind × Nat × Bool) :=
  let gs := s.liveGroups team
  let ps := gs.flatMap fun g => g.arch.paths.map (·.2)
  match ps.head?.bind Path.atSlot with
  | none => none
  | some (k, n, _) =>
    if gs.all (fun g => g.arch.paths != []) && ps.all fun p => (p.atSlot.map fun e => (e.1, e.2.1)) == some (k, n) then
      some (k, n, ps.all fun p => (p.atSlot.map fun e => e.2.2) == some true)
    else none

/-- A team's arrivals so far at a slot index. -/
def Team.arrivedAt (t : Team) (n : Nat) : Nat := ((t.arrivals.find? (·.1 == n)).map (·.2)).getD 0

def Team.countArrival (t : Team) (n : Nat) : Team :=
  { t with arrivals := (n, t.arrivedAt n + 1) :: t.arrivals.filter (·.1 != n) }

/-- A kernel declares a carry set (R301). -/
def KDesc.carries (d : KDesc) : Bool := d.carryv != 0 || d.cwlen != 0

/-! ### What a team keeps behind a holding barrier (R304-R306) -/

/-- The registers that a bivouac releases, and the carried ones beyond a group's blocks (R306). -/
def releasedRegs (d : KDesc) (blocks : Nat) : List Reg :=
  ((regsFrom .v 0 128).filter fun r => !d.carryv.getLsbD r.num || 8 * blocks ≤ r.num) ++ regsFrom .s 16 48 ++ regsFrom .p 0 7

/-- A group behind the barrier: released registers zero and poisoned, without pending bits; no cairn; REGS blocks. -/
def Group.carryOver (g : Group) (d : KDesc) : Group :=
  let out := releasedRegs d g.arch.blocks
  let keepV (e : Nat × Word) : Bool := d.carryv.getLsbD (e.1 / 32) && e.1 / 32 < 8 * g.arch.blocks
  { g with
    cairn := none, detector := none, conts := []
    arch := { g.arch with
      v := g.arch.v.filter keepV, s := g.arch.s.filter fun e => e.1 < 16, p := []
      poison := out, blocks := d.regs
      tracked := prune g.arch.spec (g.arch.tracked.map fun t => { t with dests := t.dests.filter fun r => !out.contains r }) } }

/-- Team memory outside the carry window cleared. -/
def State.clearOutside (s : State) (team : Nat) (d : KDesc) : State :=
  let lo := d.cwoff
  let hi := d.cwoff + d.cwlen
  { s with
    mem := Sparse.clear (Sparse.clear s.mem (teamKey team 0) lo) (teamKey team hi) (2 ^ 21 - hi) }

/-- A team behind a holding barrier with a carry set, whether it left its core or not (R304, R306). -/
def State.carryOver (s : State) (t : Team) (d : KDesc) : State :=
  let s := { s with groups := mapIf s.groups (fun (g : Group) => g.team == t.id && !g.exited) fun (g : Group) => g.carryOver d }
  (s.onTeam t.id fun u =>
    { u with pools := [0, 0, 0, 0], takers := [], bars := List.replicate d.bars ⟨0, 0, 0, [], []⟩ }).clearOutside t.id d

/-- Every hardware-held split-stack position of a group spilled, oldest first; a spill that faults stops it (R268). -/
def State.spillGroup (s : State) (grp : Nat) : Nat → Except State State
  | 0 => .ok s
  | n + 1 =>
    match s.group? grp with
    | none => .ok s
    | some g =>
      match s.team? g.team, g.arch.stack.getLast? with
      | some t, some q =>
        if g.spillFault.isSome then .ok s
        else
          match s.spillOne (g.spillHere t) q with
          | .ok s' => State.spillGroup s' grp n
          | .error s' => .error s'
      | _, _ => .ok s

/-- The same for groups in order. -/
def State.spillGroups (s : State) : List Group → Except State State
  | [] => .ok s
  | g :: r =>
    match s.spillGroup g.id g.arch.stack.length with
    | .ok s' => State.spillGroups s' r
    | .error s' => .error s'

/-- The team releases rope, cairns and named barriers, and ceases to be the matrix team (R227, R230, R304). -/
def State.releaseForBivouac (s : State) (t : Team) (d : KDesc) : State :=
  let ids := (s.teamGroups t.id).map (·.id)
  let s := s.onMx t.die t.site fun m =>
    { m with
      rope := if m.rope.any ids.contains then none else m.rope
      ropeq := m.ropeq.filter fun e => !ids.contains e.1
      release := m.release || m.team == some t.id }
  ({ s with groups := mapIf s.groups (·.team == t.id) fun (g : Group) => { g with cairn := none, conts := [] } }).onTeam t.id fun u =>
    { u with bars := List.replicate d.bars ⟨0, 0, 0, [], []⟩ }

/-! ### Room in a bivouac pool (R302, R304) -/

/-- The first free place of n bytes among allocations of an area of len bytes (R331). -/
def firstFit (used : List (Nat × Nat)) (len n : Nat) : Option Nat :=
  ((0 :: used.map fun r => r.1 + r.2).filter fun b => b + n ≤ len && used.all fun r => !overlaps b n r.1 r.2).min?

/-- Where n bytes go in a context's pool on a die: the die-scratchpad part first (R304). -/
def State.poolPlace (s : State) (ctx die n : Nat) : Option (Bool × Nat) :=
  let used (m : Bool) : List (Nat × Nat) :=
    ((((s.ctx? ctx).map (·.pools)).getD []).filter fun e => e.1 == die && e.2.1 == m).map fun e => e.2.2
  match firstFit (used false) (s.bpdlen ctx die) n with
  | some a => some (false, a)
  | none => (firstFit (used true) (s.bpmlen ctx die) n).map fun a => (true, a)

/-- A slot that becomes a cluster slot takes 8 bytes for each cluster in the context's pool (R302), of the lowest die of the partition
(DESIGN CHOICE: assumption 109). Where the pool has no room it takes none, and the barrier goes on (DESIGN CHOICE: assumption 109). -/
def State.placeCounts (s : State) (g : Grid) (b : BarSlot) (k : BarKind) : State :=
  if k = .cluster && b.kind.isNone then
    let n := roundUp (8 * (g.total / max 1 g.desc.csize)) 64
    let die := ((List.range 4).find? fun d => g.dies.getLsbD d).getD 0
    match s.poolPlace g.ctx die n with
    | some (m, a) =>
      (s.onSlot b.id fun c => { c with counts := some (die, m, a) }).onCtx g.ctx fun c => { c with pools := c.pools ++ [(die, m, a, n)] }
    | none => s
  else s

/-! ### The arrival at the slot (R303) -/

/-- The paths of a team that stand at its slot go on: those that satisfy a test. -/
def State.passSlot (s : State) (team : Nat) (p : Bool → Nat → Bool) : State :=
  s.retireWhere team fun _ q =>
    match q.park with
    | some (.bar k _ _ hold true g) => k != .named && p hold g
    | _ => false

/-- The paths of a team marked with the generation, plus one, that their arrival counts in. -/
def State.markGen (s : State) (team gen : Nat) : State :=
  s.onTeamPaths team fun _ q =>
    match q.park with
    | some (.bar k n c hold true 0) => if k = .named then q else { q with park := some (.bar k n c hold true (gen + 1)) }
    | _ => q

/-- The arrival of a team counted in its slot: `gen` is the generation that it names. -/
def State.countInSlot (s : State) (t : Team) (g : Grid) (b : BarSlot) (k : BarKind) (gen : Nat) : State :=
  let x := b.gen (clusterKey k t)
  let y :=
    if gen < x.g then x
    else if gen = x.g then x.arrive (s.slotExpected g k t)
    else { x with next := x.next + 1 }
  s.onSlot b.id fun c => { c.setGen y with kind := some k }

/-- Whether that arrival completes the generation, or names one that is past. -/
def State.completesSlot (s : State) (t : Team) (g : Grid) (b : BarSlot) (k : BarKind) (gen : Nat) : Bool :=
  let x := b.gen (clusterKey k t)
  gen < x.g || (gen == x.g && s.slotExpected g k t ≤ x.arr + 1)

/-- A group of the team holds at its barrier: a path waits there for the generation. -/
def State.holdsAt (s : State) (team : Nat) : Bool :=
  (s.teamPaths team fun _ q => match q.park with | some (.bar k _ _ hold _ _) => k != .named && hold | _ => false) != []

/-- A team's arrival: it is counted, groups that pass go on, and those that hold wait for the generation; RET falls to 0
(R299). -/
def State.arriveSlot (s : State) (t : Team) (g : Grid) (b : BarSlot) (k : BarKind) (n : Nat) : State :=
  let gen := t.arrivedAt n
  let late : Bool := gen < (b.gen (clusterKey k t)).g
  let waits : Bool := !late && s.holdsAt t.id
  let s := ((s.placeCounts g b k).countInSlot t g b k gen).markGen t.id gen
  let s := s.onTeam t.id fun u =>
    { u.countArrival n with ret := 0, slotWait := if waits then some (b.id, clusterKey k t, gen) else none }
  s.passSlot t.id fun hold m => (!hold || late) && m == gen + 1

/-- The arrival of a team that holds with a carry set (R304): it completes its generation and goes on in place, or its
bivouac is under way. -/
def State.arriveCarry (s : State) (t : Team) (g : Grid) (b : BarSlot) (k : BarKind) (n : Nat) : State :=
  let done := s.completesSlot t g b k (t.arrivedAt n)
  let s := s.arriveSlot t g b k n
  if done then
    ((s.carryOver t g.desc).onTeam t.id fun u => { u with slotWait := none }).passSlot t.id fun _ _ => true
  else s.onTeam t.id fun u => { u with bivouacking := true }

/-- Matrix threads or lane accesses of a team that have not completed (R304, R330). -/
def State.teamBusy (s : State) (t : Team) : Bool :=
  (s.liveGroups t.id).any fun g => g.arch.laneBusy || g.spillFault.isSome

def State.mxThreadsOf (s : State) (t : Team) : List MxThread :=
  ((s.core t.die t.site).mx.threads).filter fun x => x.team == t.id

/-- BARRIER-COUNT of a team's arrival at a slot of the other kind (R302). -/
def State.slotKindFault (s : State) (team n : Nat) : State :=
  match (s.liveGroups team).head? with
  | none => s
  | some g =>
    match g.arch.paths.head? with
    | none => s
    | some (slot, p) => s.raise g slot p.pc p.iword { kind := .barrierCount, addr := BitVec.ofNat 64 n }

/-- A team's arrival at a slot is due: its live groups have all arrived there, and it does not wait for the slot to advance, which an arrival
of the wrong kind does not (R301, R302). One that would begin a bivouac is not made by a team that is to leave its core; it makes it once
it is back (DESIGN CHOICE: assumption 125). -/
def State.slotDue (s : State) (t : Team) : Bool :=
  match s.teamAtSlot t.id, s.grid? t.grid with
  | some (k, n, hold), some g =>
    t.arrives && (t.leaving == .stay || !(hold && g.desc.carries))
      && ((g.slots[n]?).bind s.slot?).any fun b => b.kind.any (· != k) || t.arrivedAt n < (b.gen (clusterKey k t)).g + 2
  | _, _ => false

/-- A team that is to be saved has an arrival to make first: its own, or one of its groups at a slot (R289, R297). -/
def State.arrivalDue (s : State) (t : Team) : Bool :=
  s.slotDue t || (t.arrives && (s.liveGroups t.id).any fun g => g.arrivesAt.any fun e => e.1 != .named)

/-- TEAM_SLOT_ARRIVAL (R301-R304): the team's live groups have all arrived. An arrival two generations ahead waits until the
slot advances. -/
def execTeamSlotArrival (team : Nat) (s : State) : Host.Outcome State Fault Refusal :=
  match s.team? team with
  | none => .refused (.notEnabled "TEAM_SLOT_ARRIVAL")
  | some t =>
    match s.teamAtSlot team, s.grid? t.grid with
    | some (k, n, hold), some g =>
      match (g.slots[n]?).bind s.slot? with
      | none => .refused (.notEnabled "TEAM_SLOT_ARRIVAL")
      | some b =>
        if !s.slotDue t then .refused (.notEnabled "TEAM_SLOT_ARRIVAL")
        else if b.kind.any (· != k) then .next (s.slotKindFault team n)
        else if hold && g.desc.carries then
          if s.teamBusy t || s.mxThreadsOf t != [] then .refused (.notEnabled "TEAM_SLOT_ARRIVAL")
          else
            let s := (s.teamGroups team).foldl (fun (st : State) q => st.squashAll q.id) s
            match (s.releaseForBivouac t g.desc).spillGroups (s.liveGroups team) with
            | .error s' => .next s'
            | .ok s' => .next (s'.arriveCarry t g b k n)
        else .next (s.arriveSlot t g b k n)
    | _, _ => .refused (.notEnabled "TEAM_SLOT_ARRIVAL")

/-- A resident or saved team that waits at a slot and generation. -/
def Team.waitsAt (t : Team) (slot cluster gen : Nat) : Bool := t.slotWait == some (slot, cluster, gen)

/-- A waiting team goes on as its generation completes: RET falls to 0 (R299), and what a carry set does not name is
released, wherever the team is (R304). -/
def State.releaseTeam (s : State) (t : Team) : State :=
  let holds := s.holdsAt t.id
  let s := s.onTeam t.id fun u => { u with slotWait := none, ret := if holds then 0 else u.ret }
  let s := s.passSlot t.id fun _ m => m != 0
  match s.grid? t.grid with
  | some g => if g.desc.carries && holds && t.st != .bivouac then s.carryOver t g.desc else s
  | none => s

/-- A bivouac record handed to the dispatcher of its die (R303, R306), at the tail of its queue (DESIGN CHOICE: assumption 110). -/
def State.handRecord (s : State) (t : Team) : State :=
  if t.st = .bivouac then
    (s.onTeam t.id fun u => { u with record := u.record.map fun r => (r.1, true) }).onDie t.die fun d =>
      { d with absent := d.absent ++ [t.id] }
  else s

/-- SLOT_RELEASE (R303): every record of the generation is written: they are handed on, oldest first (DESIGN CHOICE: assumption 110),
the teams that wait become READY, and the slot is ARMED for the next generation, or RELEASING again. -/
def execSlotRelease (slot cluster : Nat) (s : State) : Host.Outcome State Fault Refusal :=
  match s.slot? slot with
  | none => .refused (.notEnabled "SLOT_RELEASE")
  | some b =>
    let x := b.gen cluster
    let ready := s.teams.filter fun t => t.waitsAt slot cluster x.g
    let ts := (b.records.filterMap s.team?).filter (fun t => t.waitsAt slot cluster x.g) ++ ready.filter fun t => !b.records.contains t.id
    match s.grid? b.grid with
    | none => .refused (.notEnabled "SLOT_RELEASE")
    | some g =>
      if x.st != .releasing || ts.any (·.bivouacking) then .refused (.notEnabled "SLOT_RELEASE")
      else
        let s := ts.foldl (fun (st : State) t => (st.handRecord t).releaseTeam t) s
        let s := s.fireWake fun w => match w with | .slotGen a c n => a == slot && c == cluster && n == x.g | _ => false
        let e := if b.kind = some .cluster then s.clusterExpected g cluster else g.expected
        .next (s.onSlot slot fun c =>
          { c with records := c.records.filter fun id => !(ts.any fun t => t.id == id) }.setGen (SlotGen.check e { x with st := .armed, g := x.g + 1, arr := x.next, next := 0 }))

/-! ### Writing a bivouac record (R304, R305, R307) -/

/-- The 96 bytes of a path in a record or an image (R305); the path resumes behind its barrier instruction. -/
def Path.saved (p : Path) : List Byte :=
  toBytes 8 (p.pc + 4).toNat ++ toBytes 8 p.hdr.toNat ++ wordBytes p.m ++ toBytes 1 p.depth ++ toBytes 1 p.floor
    ++ toBytes 2 p.fmt.toNat ++ wordsIn 68 p.pst.reverse ++ toBytes 4 0

/-- Pending bits of a list of registers as a number, in their order. -/
def Arch.pendingBits (a : Arch) (rs : List Reg) : Nat := ofBits (rs.map a.pending)

/-- The carried vector registers of a kernel, in increasing number. -/
def KDesc.carried (d : KDesc) : List Nat := (List.range 128).filter fun n => d.carryv.getLsbD n

/-- A group's part of a record (R305). -/
def Group.recordPart (g : Group) (d : KDesc) : List Byte :=
  let a := g.arch
  let path (p : Option Path) : List Byte := match p with | some p => p.saved | none => List.replicate 96 0
  path a.path0 ++ path a.path1 ++ wordBytes a.lm ++ toBytes 2 a.spilled ++ toBytes 1 a.blocks ++ toBytes 1 g.gidx
    ++ (List.range 12).flatMap (fun i => toBytes 1 (a.getK i))
    ++ toBytes 4 (a.pendingBits (d.carried.map fun n => ⟨.v, n⟩)) ++ toBytes 2 (a.pendingBits (regsFrom .s 0 16)) ++ toBytes 38 0
    ++ (List.range 16).flatMap (fun i => wordBytes (a.getS i))
    ++ d.carried.flatMap fun n => (List.range 32).flatMap fun l => wordBytes (a.getV n l)

/-- The length of a record (R305). -/
def recordLen (d : KDesc) (groups : Nat) : Nat := 64 + groups * (320 + 128 * d.carried.length) + d.cwlen

/-- A record's bytes (R305). -/
def State.recordBytes (s : State) (t : Team) (g : Grid) (k : BarKind) (slot gen : Nat) : List Byte :=
  let d := g.desc
  let gs := s.liveGroups t.id
  toBytes 4 (t.t % g.gx) ++ toBytes 2 (t.t / g.gx % g.gy) ++ toBytes 2 (t.t / g.gx / g.gy) ++ toBytes 2 slot
    ++ toBytes 1 (if k = .cluster then 1 else 0) ++ toBytes 1 gs.length ++ toBytes 4 gen ++ toBytes 4 (recordLen d gs.length)
    ++ toBytes 4 d.cwoff ++ toBytes 4 d.cwlen ++ toBytes 4 d.carried.length ++ toBytes 8 (Config.recordLink t.recLink).toNat
    ++ toBytes 8 g.id ++ toBytes 16 0 ++ gs.flatMap (fun q => q.recordPart d)
    ++ s.bytes (teamKey t.id d.cwoff) d.cwlen

/-- Bytes written to main memory for a context by a die, page by page, up to the first page that faults or holds lost data that would
be merged (R375): how many bytes are written, and the fault. -/
def State.writeArea (s : State) (w : Walker) (bs : List Byte) (base : Nat) : List (Nat × Nat) → State × Nat × Option Report
  | [] => (s, bs.length, none)
  | (a, n) :: r =>
    match s.access w .write a n with
    | .error f => (s, a - base, some (f.report a))
    | .ok x =>
      if s.mergesLost x.1 n then (s, a - base, some (lossAt a ⟨x.1, x.2, s.mergedIn x.1 n⟩))
      else State.writeArea (s.store x.1 ((bs.drop (a - base)).take n)) w bs base r

/-- A place in a save area that was kept for a team is given back (R331). -/
def State.unreserve (s : State) (t : Team) : State :=
  match t.image with
  | none => s
  | some (a, _) =>
    (s.onTeam t.id fun u => { u with image := none }).onCtx (s.gridCtx t.grid) fun c =>
      { c with saves := c.saves.filter fun e => !(e.1 == t.die && e.2.1 == a) }

/-- The team is in BIVOUAC: its core space is free, and the slot's queue holds its record (R302, R304). -/
def State.toBivouac (s : State) (t : Team) (d : KDesc) (slot : Nat) : State :=
  ((((s.leaveRange t).carryOver t d).onTeam t.id fun u =>
      { u with st := .bivouac, cost := s.costOf t, bivouacking := false, leaving := .stay, recDone := 0,
               record := u.recordAt.map fun a => (a.2.2, false) }).onSlot slot fun b => { b with records := b.records ++ [t.id] }).unreserve t

/-- A place in the context's pool for the record of n bytes; its link is a free value (assumption 36). -/
def State.reserveRecord (s : State) (t : Team) (ctx n : Nat) (at_ : Bool × Nat) : State :=
  ((s.onTeam t.id fun u => { u with recordAt := some (at_.1, at_.2, n), recDone := 0, recLink := s.free }).onCtx ctx fun c =>
    { c with pools := c.pools ++ [(t.die, at_.1, at_.2, n)] }).draw

/-- The record written from byte `recDone` on: the team is in BIVOUAC, or a fault stops the write behind whole 64-byte units, and the
team keeps its resources (R307). -/
def State.writeRecordOf (s : State) (t : Team) (g : Grid) (slot gen : Nat) (at_ : Bool × Nat × Nat) : State :=
  let bs := s.recordBytes t g (((s.slot? slot).bind (·.kind)).getD .grid) ((g.slots.findIdx? (· == slot)).getD 0) gen
  let p := (s.liveGroups t.id).head?.bind fun q => q.arch.paths.head?.map fun e => (q, e.2)
  let fails (u : State) (r : Report) : State := u.raiseArea t false p r
  let (_, a, _) := at_
  if at_.1 then
    let va := s.bpma g.ctx t.die + a + t.recDone
    match s.writeArea (dieWalker t.die g.ctx) (bs.drop t.recDone) va (pagePieces va (bs.length - t.recDone)) with
    | (u, _, none) => (u.toBivouac t g.desc slot).settleCtx g.ctx
    | (u, n, some r) => fails (u.onTeam t.id fun v => { v with recDone := t.recDone + n / 64 * 64 }) r
  else
    let k := scratchKey t.die (s.bpdoff g.ctx t.die + a)
    if s.mergesLost k bs.length then fails s (lossAt (s.bpdoff g.ctx t.die + a) ⟨k, 1, s.mergedIn k bs.length⟩)
    else ((s.store k bs).toBivouac t g.desc slot).settleCtx g.ctx

/-- BIVOUAC (R304, R307): the record is written to the context's pool. With no room in it the team stays, and waits. -/
def execBivouac (team : Nat) (s : State) : Host.Outcome State Fault Refusal :=
  match s.team? team with
  | none => .refused (.notEnabled "BIVOUAC")
  | some t =>
    match s.grid? t.grid, t.slotWait with
    | some g, some (slot, _, gen) =>
      if !t.bivouacking || t.recFault.isSome || t.st != .resident then .refused (.notEnabled "BIVOUAC")
      else
        let n := roundUp (recordLen g.desc (s.liveGroups team).length) 64
        match t.recordAt with
        | some a => if s.recordHeld t g.ctx a then .refused (.notEnabled "BIVOUAC") else .next (s.writeRecordOf t g slot gen a)
        | none =>
          match s.poolPlace g.ctx t.die n with
          | none => .next (s.onTeam team fun u => { u with bivouacking := false })
          | some a =>
            if s.recordHeld t g.ctx (a.1, a.2, n) then .refused (.notEnabled "BIVOUAC")
            else .next ((s.reserveRecord t g.ctx n a).writeRecordOf { t with recLink := s.free, recDone := 0 } g slot gen (a.1, a.2, n))
    | _, _ => .refused (.notEnabled "BIVOUAC")

/-! ### Waiting teams (R296) -/

/-- Every outstanding instruction on the counters that a park names is an `lnch` (R314). -/
def Group.waitsOnLaunch (g : Group) (p : Park) : Bool :=
  let out := g.arch.tracked.filter fun i => p.waitsOn i.ctr && !i.lowered
  out != [] && out.all (·.launch)

/-- The slot of a kernel's barrier at which a team's groups have arrived, and its generation for the team. -/
def State.slotAhead (s : State) (t : Team) : Option (BarSlot × SlotGen × Bool × Bool) :=
  match s.teamAtSlot t.id, s.grid? t.grid with
  | some (k, n, hold), some g =>
    ((g.slots[n]?).bind s.slot?).map fun b =>
      let x := b.gen (clusterKey k t)
      (b, x, !b.kind.any (· != k) && x.g + 2 ≤ t.arrivedAt n, hold && g.desc.carries)
  | _, _ => none

/-- A bivouac of the team is under way: its groups have arrived and hold, with a carry set, and the team does not wait two generations
ahead; or its record is being written (R301, R304). -/
def State.bivouacs (s : State) (t : Team) : Bool := t.bivouacking || (s.slotAhead t).any fun e => !e.2.2.1 && e.2.2.2

/-- A group waits for the rope behind a group of another team: the holder, or one ahead in the queue (R228). -/
def State.behindOthers (s : State) (t : Team) (grp : Nat) : Bool :=
  let m := (s.core t.die t.site).mx
  (m.rope.toList ++ (m.ropeq.map (·.1)).takeWhile (· != grp)).any fun q => (s.group? q).any fun g => g.team != t.id

/-- A group that counts as waiting (R296). -/
def State.groupWaits (s : State) (t : Team) (g : Group) : Bool :=
  match g.parked with
  | some (.cairn _) | some (.spin ..) | some (.mbx ..) | some .lnchFull => true
  | some (.bar k ..) => k != .named && !s.bivouacs t
  | some (.waitK c l) => g.waitsOnLaunch (.waitK c l)
  | some (.waitHdr m) => g.waitsOnLaunch (.waitHdr m)
  | some (.rope _) => s.behindOthers t g.id
  | _ => false

/-- A waiting team (R296). -/
def State.waiting (s : State) (t : Team) : Bool :=
  let gs := s.liveGroups t.id
  gs != [] && gs.all (s.groupWaits t)

/-! ### Save images (R331) -/

/-- The bytes of a team's save image, in whole 64-byte units. -/
def State.imageLen (s : State) (t : Team) : Nat :=
  roundUp (384 + ((s.liveGroups t.id).map fun g => 512 + 1024 * g.arch.blocks).foldl (· + ·) 0 + t.tmem
    + (if (s.core t.die t.site).mx.holds t.id then 372736 else 0)) 64

/-- The images that a context keeps on a die. -/
def State.savesOn (s : State) (ctx die : Nat) : List (Nat × Nat) :=
  ((((s.ctx? ctx).map (·.saves)).getD []).filter fun e => e.1 == die).map (·.2)

/-- The first place in its save area that has room for a team's image. -/
def State.imagePlace (s : State) (t : Team) : Option Nat :=
  firstFit (s.savesOn (s.gridCtx t.grid) t.die) (s.savelen (s.gridCtx t.grid) t.die) (s.imageLen t)

/-- Places kept for the images of teams that are to leave, first-fit in their order; none where one does not fit (R331). -/
def State.reserve (s : State) : List Nat → Option State
  | [] => some s
  | id :: r =>
    match s.team? id with
    | none => State.reserve s r
    | some t =>
      if t.image.isSome then State.reserve s r
      else
        (s.imagePlace t).bind fun a =>
          State.reserve ((s.onTeam id fun u => { u with image := some (a, s.imageLen t) }).onCtx (s.gridCtx t.grid) fun c =>
            { c with saves := c.saves ++ [(t.die, a, s.imageLen t)] }) r

/-- Whether the images of some teams fit. -/
def State.canSave (s : State) (ids : List Nat) : Bool := (s.reserve ids).isSome

/-! ### Making room (R297, R299, R329) -/

/-- Teams that are leaving a die. -/
def State.leavingOn (s : State) (die : Nat) : List Nat :=
  (s.teams.filter fun t => t.st == .resident && t.die == die && t.leaving != .stay).map (·.id)

/-- A team put before the first that is no younger. -/
def byAge (t : Team) : List Team → List Team
  | [] => [t]
  | u :: r => if u.age ≤ t.age then t :: u :: r else u :: byAge t r

/-- The youngest of some teams first. -/
def youngest (ts : List Team) : List Team := ts.foldr byAge []

/-- The shortest beginning of a list of units after whose removal a unit fits on an area, with room for every image. -/
def State.prefixFor (s : State) (unit : List Nat) (g : Grid) (die : Nat) (area gone : List Nat) (l : List (List Nat)) : Option (List Nat) :=
  ((List.range l.length).map fun n => (l.take (n + 1)).flatten).find? fun v =>
    (s.fitArea unit g die area (gone ++ v)).isSome && s.canSave v

/-- The teams to evict for a unit, and the area that it then takes: over the places that it may take, the shortest list, then the
fewest bytes to save, then the lowest site. A place is an area, the sites whose teams may go for it, and the site that stands for it;
`cands` gives the teams of some sites that may go, in order. Clusters go whole, and a list is as long as the teams in it
(DESIGN CHOICE: assumption 113). -/
def State.victims (s : State) (unit : List Nat) (g : Grid) (die : Nat) (places : List (List Nat × List Nat × Nat))
    (cands : List Nat → List Team) : Option (List Nat × List Nat) :=
  let gone := s.leavingOn die
  let offers := places.filterMap fun e =>
    let l := ((cands e.2.1).map fun t => (s.unit t.id).filter fun id => (s.team? id).any fun u => u.st == .resident).eraseDups
    (s.prefixFor unit g die e.1 gone l).map fun v =>
      (v.length * 2 ^ 64 + ((v.filterMap s.team?).map s.imageLen).foldl (· + ·) 0 * 256 + e.2.2, v, e.1)
  match (offers.map (·.1)).min? with
  | none => none
  | some k => (offers.find? fun e => e.1 == k).map (·.2)

/-- Teams chosen to leave: places are kept for their images (R331), and their continuations are squashed (R330). -/
def State.setLeaving (s : State) (ids : List Nat) (l : Leaving) : State :=
  let s := (s.reserve ids).getD s
  let gs := s.groups.filter fun g => ids.contains g.team
  let s := gs.foldl (fun (st : State) g => st.squashAll g.id) s
  { s with
    teams := s.teams.map fun (t : Team) => if ids.contains t.id && t.st == .resident then { t with leaving := l } else t
    groups := s.groups.map fun (g : Group) => if ids.contains g.team then { g with detector := none } else g }

/-- A team that could be chosen: resident, and not leaving yet. One whose record is being written goes as any other, and writes it on once it
is back (R307, R329, R330). -/
def Team.evictable (t : Team) : Bool := t.st == .resident && t.leaving == .stay

/-- A unit of a die's queue that fits on no core, and would not even once the leaving teams have left. -/
def State.stuck (s : State) (u : List Nat) (die : Nat) : Bool :=
  (s.seatsFor u die []).isNone && (s.seatsFor u die (s.leavingOn die)).isNone

/-- The first queued unit of a context that fits on no core and is not an unwoken waiting team (R297). -/
def State.firstStuck (s : State) (die ctx : Nat) : Option (List Nat) :=
  ((s.queueUnits die ctx).filter fun u => s.unitQueued u die && !s.unitUnwoken u && (s.seatsFor u die []).isNone).head?

/-- WAITING_TEAM_EVICTION (R297). -/
def execWaitingTeamEviction (die ctx : Nat) (s : State) : Host.Outcome State Fault Refusal :=
  match s.firstStuck die ctx with
  | none => .refused (.notEnabled "WAITING_TEAM_EVICTION")
  | some u =>
    let cands (a : List Nat) : List Team :=
      youngest (s.teams.filter fun t =>
        t.evictable && t.die == die && a.contains t.site && s.gridCtx t.grid == ctx && s.waiting t)
    match s.stuck u die && s.placing ctx, s.unitGrid u with
    | true, some g =>
      match s.victims u g die ((s.openAreas u g die []).map fun a => (a, a, a.headD 0)) cands with
      | some (v, _) => .next (s.setLeaving v .evict)
      | none => .refused (.notEnabled "WAITING_TEAM_EVICTION")
    | _, _ => .refused (.notEnabled "WAITING_TEAM_EVICTION")

/-- The resident members of a team's unit. -/
def State.residentUnit (s : State) (team : Nat) : List Nat := (s.unit team).filter fun id => (s.team? id).any fun u => u.st == .resident

/-- RET of a resident team has reached QUANT, while an absent team of its context fits nowhere: its unit is to leave (R299). -/
def State.rotates (s : State) (t : Team) : Bool :=
  let v := s.residentUnit t.id
  2 ^ t.qlog ≤ t.ret && t.evictable && (v.filterMap s.team?).all Team.evictable && s.placing (s.gridCtx t.grid)
    && (s.firstStuck t.die (s.gridCtx t.grid)).isSome && s.canSave v

/-- A team issues nothing more once a member of its unit is to leave by rotation: that is at the first instruction boundary (R299). -/
def State.mustRotate (s : State) (t : Team) : Bool := ((s.residentUnit t.id).filterMap s.team?).any s.rotates

/-- ROTATION_EVICTION (R299): a cluster leaves whole. -/
def execRotationEviction (team : Nat) (s : State) : Host.Outcome State Fault Refusal :=
  match s.team? team with
  | none => .refused (.notEnabled "ROTATION_EVICTION")
  | some t =>
    if s.rotates t then .next (s.setLeaving (s.residentUnit team) .evict) else .refused (.notEnabled "ROTATION_EVICTION")

/-- PRE_EMPTION (R329): a queued team that fits on no core takes the room of teams of other contexts with less priority, waiting teams
first. For a cluster each site of a rectangle is tried. It is promised the area, and its victims are saved in order. -/
def execPreEmption (die team : Nat) (s : State) : Host.Outcome State Fault Refusal :=
  let u := s.unit team
  match s.unitGrid u with
  | none => .refused (.notEnabled "PRE_EMPTION")
  | some g =>
    let lower (t : Team) : Bool := s.gridCtx t.grid != g.ctx && (s.grid? t.grid).any fun h => h.prio < g.prio
    let cands (a : List Nat) : List Team :=
      let ts := s.teams.filter fun t => t.evictable && t.die == die && a.contains t.site && lower t
      youngest (ts.filter s.waiting) ++ youngest (ts.filter fun t => !s.waiting t)
    if (s.queueUnits die g.ctx).contains u && s.unitQueued u die && !s.unitUnwoken u && s.placing g.ctx && s.stuck u die then
      match s.victims u g die ((s.openAreas u g die []).flatMap fun a => a.map fun c => (a, [c], c)) cands with
      | some (v, a) => .next ((s.setLeaving v .preempt).onDie die fun d => { d with claims := d.claims ++ [⟨u, a, v⟩] })
      | none => .refused (.notEnabled "PRE_EMPTION")
    else .refused (.notEnabled "PRE_EMPTION")

/-! ### Saving a team (R330, R331) -/

/-- What a path of a waiting team waits for, as entries of the wake table (R297). -/
def Path.wakeOn (p : Path) (g : Group) (ctx : Nat) : List WakeOn :=
  match p.park with
  | some (.cairn _) => (g.cairn.toList.map fun c => WakeOn.line (c.key / 64))
  | some (.spin ls _) => ls.map WakeOn.line
  | some .lnchFull => [.plq]
  | some (.mbx get w _ _) => [.mbx ctx w get]
  | some (.waitK ..) | some (.waitHdr _) => []
  | _ => []

/-- A path of a saved team: a launcher and a mailbox request will be made again, and a recognised spin goes on at t. -/
def Path.fired (p : Path) (g : Group) : Bool :=
  match p.park with
  | some (.cairn _) => g.cairn.any (·.fired) || g.cairn.isNone
  | some (.spin _ f) => f
  | some (.mbx _ _ _ served) => served
  | _ => false

/-- The wake set of a team (R297). One that waits two generations ahead of a slot is woken as the slot advances. -/
def State.wakeSetOf (s : State) (t : Team) : List WakeOn :=
  let ctx := s.gridCtx t.grid
  let ps := (s.liveGroups t.id).flatMap fun g => g.arch.paths.flatMap fun e => e.2.wakeOn g ctx
  let ahead := ((s.slotAhead t).filter fun e => e.2.2.1).toList.map fun e => WakeOn.slotGen e.1.id e.2.1.cluster e.2.1.g
  (ps ++ (t.slotWait.toList.map fun w => WakeOn.slotGen w.1 w.2.1 w.2.2) ++ ahead).eraseDups

/-- Something that a waiting team waits for has come already, or its wait is not one of the wake table's. -/
def State.wakeDue (s : State) (t : Team) : Bool :=
  (s.liveGroups t.id).any fun g => g.arch.paths.any fun e => e.2.fired g

/-- The wake-table entries of a die: 1,024 (R297). -/
def wakeTableSize : Nat := 1024

/-- The groups of a saved team: their launch waits, mailbox requests and rope places are withdrawn, and a fault serviced by
RESUME-FAULT is kept in the image (R228, R314, R334, R360). -/
def State.unqueueTeam (s : State) (t : Team) : State :=
  let ids := (s.teamGroups t.id).map (·.id)
  (s.withdrawGroups ids).onMx t.die t.site fun m => { m with rope := if m.rope.any ids.contains then none else m.rope }

/-- The matrix state of the team leaves the unit, which is released (R230, R245). -/
def State.saveMatrix (s : State) (t : Team) : State :=
  let m := (s.core t.die t.site).mx
  let ids := (s.teamGroups t.id).map (·.id)
  if m.holds t.id then
    let v : SavedMatrix :=
      { team := t.id, active := m.active, shadow := m.shadow, acc := m.acc, rope := m.rope.filter ids.contains
        ropeq := m.ropeq.filter fun e => ids.contains e.1, threads := m.threads.filter (·.team == t.id), ecc := m.ecc }
    ({ s with saved := s.saved ++ [v] }.onMx t.die t.site fun m =>
      { m with threads := m.threads.filter (·.team != t.id), release := true }).onTeam t.id fun u => { u with savedMatrix := true }
  else s

/-- The team is EVICTED, at the tail of its die's queue, with its wake set in the wake table; one whose wake has come, or whose wake set
does not fit, is marked woken at once (R297, R298). -/
def State.toEvicted (s : State) (t : Team) (at_ len : Nat) (ctx : Nat) : State :=
  let ws := s.wakeSetOf t
  let table := (((s.die? t.die).map (·.wakeTable)).getD [])
  let atOnce := s.waiting t && (s.wakeDue t || wakeTableSize < table.length + ws.length)
  let woken := !s.waiting t || atOnce
  let s := ((s.leaveRange t).saveMatrix t).unqueueTeam t
  let s := (s.onTeam t.id fun u =>
      { u with st := .evicted, cost := s.costOf t, image := some (at_, len), woken := woken, wakeSet := if woken then [] else ws,
               leaving := if t.leaving = .preempt then .preempt else .stay }).onCtx ctx fun c =>
    { c with saves := if t.image.isSome then c.saves else c.saves ++ [(t.die, at_, len)], st := if t.leaving = .preempt && c.st = .resident then .partly else c.st }
  let s := s.onDie t.die fun d =>
    { d with absent := d.absent ++ [t.id], wakeTable := d.wakeTable ++ (if woken then [] else ws.map fun w => (t.id, w)) }
  if atOnce then s.wakeTeam t.id else s

/-- A switch-out that finds its save area full faults the context (R331). -/
def State.saveAreaFull (s : State) (t : Team) (ctx : Nat) : State :=
  let rec' : FaultRec :=
    { seq := s.evSeq, pc := 0, addr := BitVec.ofNat 64 (s.savea ctx t.die + s.savelen ctx t.die), iword := 0, lanes := 0,
      kind := .bounds, cls := 1, flags := 2, gid := 0, ctx := ctx, grid := 0, team := 0, die := 0, site := 0, gidx := 0, code := 0 }
  ((s.nextSeqNo).deliver rec').faultCtx ctx none

/-- The matrix threads that must complete before a team is saved (R244). -/
def State.mxToFinish (s : State) (t : Team) : Bool := s.toFinish (s.mxThreadsOf t) != []

/-- Bytes of an image whose place the spec does not give: they take the free values from number n0 on (assumption 35). -/
def freeBytes (n0 n : Nat) : List Byte := (List.range n).map fun i => Config.imageByte (n0 + i)

/-- A vector register's lanes as bytes. -/
def Arch.vectorBytes (a : Arch) (n : Nat) : List Byte := (List.range 32).flatMap fun l => wordBytes (a.getV n l)

/-- A group's part of an image: 512 bytes that end with s0-s63 and p0-p6, then blocks 0 to c - 1 (R331; assumption 35). -/
def Group.imagePart (g : Group) (n0 : Nat) : List Byte :=
  freeBytes n0 228 ++ (List.range 64).flatMap (fun i => wordBytes (g.arch.getS i)) ++ (List.range 7).flatMap (fun i => wordBytes (g.arch.getP i))
    ++ (List.range (8 * g.arch.blocks)).flatMap g.arch.vectorBytes

/-- A plane's 48 KiB and 6 KiB as bytes (R219). -/
def Plane.bytes (p : Plane) : List Byte :=
  (List.range 49152).map (Sparse.look p.elem) ++ (List.range 6144).map (Sparse.look p.scale)

/-- The matrix state of an image: both planes and all rows (R245). -/
def Matrix.imageBytes (m : Matrix) : List Byte :=
  m.active.bytes ++ m.shadow.bytes ++ (List.range 65536).flatMap fun i => wordBytes (Sparse.look m.acc i)

/-- The bytes of a team's save image, part by part (R331; assumption 35). -/
def State.imageBytes (s : State) (t : Team) : List Byte :=
  let gs := s.liveGroups t.id
  let m := (s.core t.die t.site).mx
  let bars := (List.range 16).flatMap fun n => toBytes 4 (t.bar n).gen ++ toBytes 2 (t.bar n).arr ++ toBytes 2 (t.bar n).count
  let body := freeBytes s.free 256 ++ bars ++ (gs.mapIdx fun i g => g.imagePart (s.free + 256 + 228 * i)).flatten
    ++ s.bytes (teamKey t.id 0) t.tmem ++ if m.holds t.id then m.imageBytes else []
  body ++ freeBytes (s.free + 256 + 228 * gs.length) (s.imageLen t - body.length)

/-- Paths of a team whose mailbox request was served are saved behind their instruction (R360). -/
def State.retireServed (s : State) (team : Nat) : State :=
  s.retireWhere team fun _ p => match p.park with | some (.mbx _ _ _ served) => served | _ => false

/-- A team that was chosen before this one for the same unit is still to be saved (R329). -/
def State.saveWaits (s : State) (t : Team) : Bool :=
  ((s.die? t.die).map (·.claims)).any fun cs => cs.any fun c =>
    c.victims.contains t.id && (c.victims.takeWhile (· != t.id)).any fun v => (s.team? v).any fun u => u.st == .resident

/-- TEAM_SAVE (R330, R331): accesses, the matrix threads that complete, and arrivals at slots have completed; positions are spilled; the image is
written at the place kept for it, or where it
fits; the core space is free. Counter 9 counts the save (R339). -/
def execTeamSave (team : Nat) (s : State) : Host.Outcome State Fault Refusal :=
  match s.team? team with
  | none => .refused (.notEnabled "TEAM_SAVE")
  | some t =>
    if t.st != .resident || t.leaving == .stay || t.saveFault.isSome || s.liveGroups team == [] || (s.liveGroups team).any (fun g => g.arch.laneBusy)
        || s.mxToFinish t || s.saveWaits t || s.arrivalDue t || s.recordWaits (s.gridCtx t.grid) then
      .refused (.notEnabled "TEAM_SAVE")
    else if let some s' := s.recordLoss (s.gridCtx t.grid) then .next s'
    else
      let ctx := s.gridCtx t.grid
      match (s.retireServed team).spillGroups (s.liveGroups team) with
      | .error s' => .next s'
      | .ok s1 =>
        let n := s1.imageLen t
        match (t.image.map (·.1)) <|> s1.imagePlace t with
        | none => .next (s1.saveAreaFull t ctx)
        | some a =>
          let va := s1.savea ctx t.die + a
          if s.areaHeld t.die ctx va n then .refused (.notEnabled "TEAM_SAVE")
          else
            match s1.writeArea (dieWalker t.die ctx) (s1.imageBytes t) va (pagePieces va n) with
            | (s2, _, some r) => .next (s2.raiseArea t true none r)
            | (s2, _, none) =>
              let s3 := ({ s2 with free := s2.free + n }).perf t.die t.site ctx 9 1
              .next ((s3.toEvicted t a n ctx).settleCtx ctx)

/-! ### The end of a team (R318, R323) -/

/-- The counts of one of a grid's first 64 finished teams (R323), as they stand at its end: bytes that its engine threads move later are not
counted (DESIGN CHOICE: assumption 124). -/
def Grid.classify (g : Grid) (t : Team) : Grid :=
  if g.clsTeams < 64 && !g.clsDone then
    { g with clsTeams := g.clsTeams + 1, clsOps := g.clsOps + t.ops, clsBytes := g.clsBytes + t.bytes }
  else g

/-- TEAM_DONE (R318): the last live group has exited, and every T, D and P access has completed; its matrix threads too, which complete
behind an exit (R244). -/
def execTeamDone (team : Nat) (s : State) : Host.Outcome State Fault Refusal :=
  match s.team? team with
  | none => .refused (.notEnabled "TEAM_DONE")
  | some t =>
    let gs := s.teamGroups team
    if t.st != .resident || gs == [] || !gs.all (fun g => g.exited && g.retired) || s.mxThreadsOf t != [] then
      .refused (.notEnabled "TEAM_DONE")
    else
      let s := s.onMx t.die t.site fun m =>
        { m with ropeq := m.ropeq.filter fun e => !(gs.any fun q => q.id == e.1), release := m.release || m.team == some team }
      let s := s.onGrid t.grid fun g => g.classify t
      .next ((s.endTeam team .done).settleCtx (s.gridCtx t.grid))

/-- The class of an intensity count (R323). -/
def intensityOf (ops bytes : Nat) : Intensity :=
  let b := max bytes 1
  if 256 * b ≤ ops then .compute else if ops < 16 * b then .memory else .mixed

/-- CLASSIFIER_CLOSE (R323): the count of a grid closes over its first 64 finished teams, or all of them, and the kernel's
class is set; of 1,024 entries the least recently used is replaced. -/
def execClassifierClose (grid : Nat) (s : State) : Host.Outcome State Fault Refusal :=
  match s.grid? grid with
  | none => .refused (.notEnabled "CLASSIFIER_CLOSE")
  | some g =>
    if g.clsDone || g.clsTeams = 0 || (g.clsTeams < min 64 g.total && g.ended < g.total) then .refused (.notEnabled "CLASSIFIER_CLOSE")
    else
      let c := intensityOf g.clsOps g.clsBytes
      .next ((s.onGrid grid fun h => { h with clsDone := true }).onFe fun f =>
        { f with classes := ((g.ctx, g.desc.addr, c) :: f.classes.filter fun e => !(e.1 == g.ctx && e.2.1 == g.desc.addr)).take 1024 })

end Sys2Proof.Machine
end

