-- ==== Sys2Proof/Machine/Launch.lean ====
section
/-!
DEFINITION. Launches and grids: `lnch`, its thread and the pending-launch queue (R311-R317); acceptance with its variant and
its checks (R111, R114, R116, R117, R309); dispatch, dealing, retirement and report (R310, R313, R319, R361).
-/
namespace Sys2Proof.Machine

/-! ### `lnch` and the pending-launch queue (R312, R314) -/

/-- Entries of a core's pending-launch queue. -/
def plqSize : Nat := 4

/-- `lnch` (R312): a full queue parks the group, which issues the instruction again. -/
def execLnch (a : SReg) (s : State) : Host.Outcome State Fault Refusal :=
  run (.lnch a)
    { uses := srcS a
      raises := .kb
      stall := fun _ h => h.acquiring
      late := fun _ h => operandFault h.t (h.a.getS a.toNat).toNat 64 64
      hold := fun s h =>
        if plqSize ≤ (s.core h.t.die h.t.site).plq.length then
          some fun s => (s.park h.g.id h.slot (some .lnchFull)).onCore h.t.die h.t.site fun c => { c with plqWait := c.plqWait ++ [h.g.id] }
        else none
      act := fun h s =>
        let n := s.nextThread
        (s.startThread h (.lnch a) .launch .X (h.a.getS a.toNat).toNat true).onCore h.t.die h.t.site fun c =>
          { c with plq := c.plq ++ [n] } } s

/-- A queue entry is freed: one parked launcher may wake, and the wake table hears of it (R297, R314). -/
def State.freeEntry (s : State) (t : Thread) : State :=
  let s := s.onCore t.die t.site fun c =>
    if c.plq.contains t.id then
      { c with plq := c.plq.filter (· != t.id), plqWakes := min c.plqWait.length (c.plqWakes + 1) }
    else c
  let ws := (((s.die? t.die).map (·.wakeTable)).getD []).filterMap fun e => if e.2 = .plq then some e.1 else none
  ws.foldl State.wakeTeam s

/-- LAUNCH_QUEUE_WAKE (R314): the oldest parked launcher goes on, and issues its `lnch` again. -/
def execLaunchQueueWake (die site : Nat) (s : State) : Host.Outcome State Fault Refusal :=
  let c := s.core die site
  match c.plqWait with
  | [] => .refused (.notEnabled "LAUNCH_QUEUE_WAKE")
  | g :: r =>
    if c.plqWakes = 0 then .refused (.notEnabled "LAUNCH_QUEUE_WAKE")
    else
      let s := s.onCore die site fun c => { c with plqWait := r, plqWakes := c.plqWakes - 1 }
      match (s.group? g).bind fun q => q.placeOf (· == .lnchFull) with
      | some w => .next (s.onArch g fun a => a.onPathAt w fun p => { p with park := none })
      | none => .next s

/-! ### The launch thread (R311, R312) -/

/-- CTL of a launch record. -/
def recCtl (b : List Byte) (i : Nat) : Bool := (fieldOf b 0x2D 1).testBit i

/-- The fault of a word that a report will need: ALIGN, then BOUNDS (R312). -/
def State.wordCheck (s : State) (t : Thread) (window : Bool) (a : Nat) (bounds : Bool) : Bool :=
  if bounds then (if window then (s.windowKey t.ctx t.die a).isNone else 2 ^ 52 ≤ a) else a % 8 != 0

/-- The fault of a launch record that the thread finds (R312). -/
def State.recordCheck (s : State) (t : Thread) (tm : Team) (b : List Byte) : Option Report :=
  let cwa := fieldOf b 0x18 8
  let sta := fieldOf b 0x20 8
  let argp := fieldOf b 0x10 8
  let bad (bounds : Bool) : Bool := s.wordCheck t (recCtl b 0) cwa bounds || (sta != 0 && s.wordCheck t (recCtl b 1) sta bounds)
  failIf (bad false) .align t.off
    <|> failIf (bad true) .bounds t.off
    <|> (if recCtl b 2 then failIf (argp % 8 != 0) .align t.off <|> failIf (tm.tmem < argp + 32) .bounds t.off else none)

/-- LAUNCH_THREAD (R312): the record is read and checked, with 32 bytes of arguments from team memory where it says so, and
passed to the front end. A fault frees the queue entry. -/
def execLaunchThread (tid : Nat) (s : State) : Host.Outcome State Fault Refusal :=
  match s.moving tid (fun k => k == .launch) .fresh with
  | none => .refused (.notEnabled "LAUNCH_THREAD")
  | some (t, tm) =>
    let b := s.threadTeam tm (teamKey t.team t.off) 64
    match (if s.isLost (teamKey t.team t.off) 64 then some (lossAt t.off ⟨teamKey t.team t.off, 0, 1⟩) else s.recordCheck t tm b) with
    | some r => .next ((s.freeEntry t).raiseThread t r)
    | none =>
      let a := fieldOf b 0x10 8
      let lost := recCtl b 2 && s.isLost (teamKey t.team a) 32
      if lost then .next ((s.freeEntry t).raiseThread t (lossAt a ⟨teamKey t.team a, 0, 1⟩))
      else
        let args := if recCtl b 2 then wordsAt (s.threadTeam tm (teamKey t.team a) 32) 0 8 else []
        .next (s.draw.onThread tid fun u => { u with st := .running, desc := b, args := args })

/-! ### Descriptors and variants (R111, R112, R114, R116, R117) -/

/-- A launch as the front end has it (R309). -/
structure LaunchReq where
  ctx : Nat
  queue : Nat
  qgen : Nat
  desc : Nat
  gx : Nat
  gy : Nat
  gz : Nat
  argp : Nat
  /-- arguments that the launch thread read from team memory -/
  own : Option (List Word)
  cwa : Nat
  cwDie : Option Nat
  sta : Nat
  staDie : Option Nat
  clwin : Nat
  prio : Nat
  /-- PRIO of the queue that it belongs to -/
  top : Nat
  /-- a reserved byte or bit is non-zero, or the priority is above the queue's -/
  bad : Bool

/-- Why a launch is not accepted as it stands: a read waits for a stack in training, or for the service of its fault; or the grid is
refused, perhaps with a fault to report. -/
inductive Stop where
  | wait
  | hold (r : Report)
  | refuse (code : Nat) (fault : Option Report)

/-- What a read that fails does (R117, R439); a consumed loss leaves the grid with the status of a stopped context (R377). -/
def readStop (code : Nat) (r : Option Report) : Stop :=
  match r with
  | none => .wait
  | some r => if r.kind = .page then .hold r else .refuse (if r.kind = .uncorrectable then 6 else code) (some r)

/-- Pieces of main memory that the front end reads for a context, as the die that translates each reaches it. -/
def State.fePlace (s : State) (ctx : Nat) : List (Nat × Nat) → Except Report Place
  | [] => .ok ⟨[], []⟩
  | (a, n) :: r =>
    match s.feAccess ctx .read a n with
    | .error f => .error (f.report a)
    | .ok x =>
      match State.fePlace s ctx r with
      | .error f => .error f
      | .ok q => .ok ⟨(x.1, n) :: q.runs, x.2 :: q.cls⟩

/-- n bytes of main memory that the front end reads for a context (R117); none where the read waits for a stack in training (R379). At
acceptance the 8-byte words of a structure are read in one step (DESIGN CHOICE: assumption 114). -/
def State.feRead (s : State) (ctx va n : Nat) : Except (Option Report) (List Byte) :=
  if 2 ^ 52 < va + n then .error (some { kind := .page, addr := BitVec.ofNat 64 va })
  else if (pagePieces va n).any fun e => s.feHeld ctx e.1 then .error none
  else
    match s.fePlace ctx (pagePieces va n) with
    | .error r => .error (some r)
    | .ok p =>
      match p.loss s.lostIn with
      | some w => .error (some (lossAt va w))
      | none => .ok (s.placeBytes p)

/-- Numbers of set bits. -/
def bitCount (n w : Nat) : Nat := ((List.range w).filter fun i => n.testBit i).length

/-- The limits of R111. -/
def descOk (b : List Byte) : Bool :=
  let regs := fieldOf b 0x08 1
  let cl := fieldOf b 0x12 2
  let cv := fieldOf b 0x18 16
  let tmem := fieldOf b 0x0C 4
  let in1 (n hi : Nat) : Bool := 1 ≤ n && n ≤ hi
  fieldOf b 0x00 8 % 64 == 0 && fieldOf b 0x00 8 < 2 ^ 52 && in1 regs 16 && in1 (fieldOf b 0x09 1) 16 && in1 (fieldOf b 0x0A 1) 16
    && fieldOf b 0x0B 1 ≤ 2 && tmem ≤ 0x180000 && tmem % 8 == 0 && fieldOf b 0x10 2 ≤ 256 && cl % 4 ≤ 2 && cl < 16
    && fieldOf b 0x14 2 ≤ 32 && fieldOf b 0x14 2 % 4 == 0 && fieldOf b 0x16 2 ≤ 1 && bitCount cv 128 ≤ 32 && cv < 2 ^ (8 * regs)
    && fieldOf b 0x28 4 % 8 == 0 && fieldOf b 0x2C 4 ≤ 65536 && fieldOf b 0x2C 4 % 8 == 0
    && fieldOf b 0x28 4 + fieldOf b 0x2C 4 ≤ tmem && fieldOf b 0x30 8 % 8 == 0 && fieldOf b 0x3C 68 == 0

/-- A descriptor as read, with the required cores of its variant entry (R111, R114). -/
def descOf (addr : Nat) (b : List Byte) (bitmap : List Nat) : KDesc :=
  { addr := BitVec.ofNat 64 addr, code := BitVec.ofNat 64 (fieldOf b 0x00 8), regs := fieldOf b 0x08 1, groups := fieldOf b 0x09 1,
    bars := fieldOf b 0x0A 1, fork := fieldOf b 0x0B 1, tmem := fieldOf b 0x0C 4, gbar := fieldOf b 0x10 2,
    rows := fieldOf b 0x12 2 % 4 + 1, cols := fieldOf b 0x12 2 / 4 % 4 + 1, argsz := fieldOf b 0x14 2,
    pinned := fieldOf b 0x16 2 % 2 == 1, carryv := BitVec.ofNat 128 (fieldOf b 0x18 16), cwoff := fieldOf b 0x28 4,
    cwlen := fieldOf b 0x2C 4, bitmap := bitmap }

/-- The required cores of a variant entry, die by die. -/
def entryBitmap (e : List Byte) : List Nat := [0, 1, 2, 3].map fun d => fieldOf e (0x10 + 20 * d) 20

/-- A variant entry inside the limits of R114. -/
def entryOk (e : List Byte) : Bool :=
  fieldOf e 0 1 ≤ 1 && fieldOf e 1 3 == 0 && (fieldOf e 0 1 == 0 || fieldOf e 4 4 == 0)
    && (entryBitmap e).all fun m => m < 2 ^ 156

/-- An entry that the launch may use (R116): its cores are enabled ones of the partition, and its signature is the module's. -/
def State.entryFits (s : State) (ctx : Nat) (e : List Byte) : Bool :=
  let dies := ((s.ctx? ctx).map (·.dies)).getD 0
  ((entryBitmap e).mapIdx fun d m =>
      m &&& (if dies.getLsbD d then (s.pkg.enmask.getD d 0).toNat else 0) == m).all id
    && (fieldOf e 0 1 == 1 || fieldOf e 4 4 == s.pkg.signature.toNat)

/-- The required cores of a pinned kernel that no variant table names (R113; DESIGN CHOICE: assumption 48). -/
def FrontEnd.required (f : FrontEnd) (ctx : Nat) (addr : DWord) : List Nat :=
  ((f.pins.find? fun e => e.1 == ctx && e.2.1 == addr).map fun e => e.2.2).getD [0, 0, 0, 0]

/-- A descriptor read and checked. A variant's must have no variant table of its own (R117), the base's own descriptor among them where
a table names it (R112; DESIGN CHOICE: assumption 123). -/
def State.readDesc (s : State) (ctx addr : Nat) (bitmap : List Nat) (variant : Bool) : Except Stop KDesc :=
  match s.feRead ctx addr 128 with
  | .error r => .error (readStop 2 r)
  | .ok b => if descOk b && !(variant && fieldOf b 0x30 8 != 0) then .ok (descOf addr b bitmap) else .error (.refuse 2 none)

/-- The entries of a variant table in order, n of them from entry i on (R116). -/
def State.findVariant (s : State) (ctx table i : Nat) : Nat → Except Stop KDesc
  | 0 => .error (.refuse 1 none)
  | n + 1 =>
    match s.feRead ctx (table + 16 + 96 * i) 96 with
    | .error r => .error (readStop 2 r)
    | .ok e =>
      if !entryOk e then .error (.refuse 2 none)
      else if s.entryFits ctx e then s.readDesc ctx (fieldOf e 0x08 8) (entryBitmap e) true
      else State.findVariant s ctx table (i + 1) n

/-- The descriptor that a launch uses (R116, R117). -/
def State.selectDesc (s : State) (ctx addr : Nat) : Except Stop KDesc :=
  match s.feRead ctx addr 128 with
  | .error r => .error (readStop 2 r)
  | .ok b =>
    let tab := fieldOf b 0x30 8
    if tab = 0 then s.readDesc ctx addr (s.fe.required ctx (BitVec.ofNat 64 addr)) false
    else if tab % 8 != 0 then .error (.refuse 2 none)
    else
      match s.feRead ctx tab 16 with
      | .error r => .error (readStop 2 r)
      | .ok h =>
        let n := fieldOf h 0 4
        if n < 1 || 64 < n || fieldOf h 4 12 != 0 then .error (.refuse 2 none) else s.findVariant ctx tab 0 n

/-- The checks of R309 on a launch for its descriptor. -/
def LaunchReq.fails (r : LaunchReq) (d : KDesc) : Bool :=
  let c := d.csize
  r.bad || r.gx < 1 || 2 ^ 31 - 1 < r.gx || r.gy < 1 || 65535 < r.gy || r.gz < 1 || 65535 < r.gz
    || (r.own.isNone && (r.argp % 8 != 0 || (d.argsz != 0 && r.argp == 0)))
    || (d.argsz == 0 && r.argp != 0)
    || r.clwin % 12288 != 0 || 2 ^ 27 < r.clwin || (c == 1 && r.clwin != 0)
    || (1 < c && (r.gx % c != 0 || r.gy != 1 || r.gz != 1))

/-! ### Reading them again (R117, R118) -/

/-- The bytes of a structure that a launch has read. -/
def State.oneRead (s : State) (ctx va n : Nat) : List (Nat × List Byte) :=
  match s.feRead ctx va n with | .ok b => [(va, b)] | .error _ => []

/-- The same of a variant table's entries, up to the one that names a descriptor. -/
def State.tableReads (s : State) (ctx table i used : Nat) : Nat → List (Nat × List Byte)
  | 0 => []
  | n + 1 =>
    let e := s.oneRead ctx (table + 16 + 96 * i) 96
    if e.any fun x => fieldOf x.2 0x08 8 == used then e else e ++ State.tableReads s ctx table (i + 1) used n

/-- What an acceptance has read: the descriptor that the launch names and, where that has variants, the table and the descriptor in use. -/
def State.descReads (s : State) (ctx root used : Nat) : List (Nat × List Byte) :=
  let b := s.oneRead ctx root 128
  if root = used then b
  else
    let tab := fieldOf ((b.map (·.2)).headD []) 0x30 8
    let h := s.oneRead ctx tab 16
    b ++ h ++ s.tableReads ctx tab 0 used (min 64 (fieldOf ((h.map (·.2)).headD []) 0 4)) ++ s.oneRead ctx used 128

/-- The 8-byte words of a structure, each as it was read before or as it is now (R118). -/
def mixWords (old : Nat → Bool) (was now : List Byte) : List Byte :=
  (List.range (now.length / 8)).flatMap fun i =>
    let a := (was.drop (8 * i)).take 8
    let b := (now.drop (8 * i)).take 8
    if a = b then b else if old i then a else b

/-- A structure read again: each word that was written since the acceptance has independently its old or its new content, a free value
(R118). -/
def State.readAgain (s : State) (g : Grid) (va n : Nat) : Except Stop (List Byte) :=
  match s.feRead g.ctx va n with
  | .error r => .error (readStop 2 r)
  | .ok b =>
    match g.seen.find? fun e => e.1 == va with
    | none => .ok b
    | some e => .ok (mixWords (fun i => Config.rereadOld s.free (va + 8 * i)) e.2 b)

/-- The entries of a variant table read again, up to the one that names a descriptor. -/
def State.rereadTable (s : State) (g : Grid) (table i used : Nat) : Nat → Except Stop Unit
  | 0 => .ok ()
  | n + 1 =>
    match s.readAgain g (table + 16 + 96 * i) 96 with
    | .error e => .error e
    | .ok e =>
      if !entryOk e then .error (.refuse 2 none)
      else if fieldOf e 0x08 8 = used then .ok ()
      else State.rereadTable s g table (i + 1) used n

/-- The variant table of a base read again. -/
def State.rereadHeader (s : State) (g : Grid) (tab : Nat) : Except Stop Unit :=
  if tab % 8 != 0 then .error (.refuse 2 none)
  else if tab = 0 then .ok ()
  else
    match s.readAgain g tab 16 with
    | .error e => .error e
    | .ok h =>
      let n := fieldOf h 0 4
      if n < 1 || 64 < n || fieldOf h 4 12 != 0 then .error (.refuse 2 none) else s.rereadTable g tab 0 g.desc.addr.toNat n

/-- The shape of a grid suits a descriptor (R309). -/
def Grid.suits (g : Grid) (d : KDesc) : Bool :=
  let c := d.csize
  !(1 < c && (g.gx % c != 0 || g.gy != 1 || g.gz != 1)) && !(c == 1 && g.clwin != 0)

/-- The reads of R117 made again as a grid is dispatched or a team is dealt, for the descriptor that it uses: the base and the variant
table, where there is one, and the descriptor itself, with R117's checks of what is read. -/
def State.rereadDesc (s : State) (g : Grid) : Except Stop KDesc :=
  let table : Except Stop Unit :=
    if g.root = g.desc.addr then .ok ()
    else
      match s.readAgain g g.root.toNat 128 with
      | .error e => .error e
      | .ok b => s.rereadHeader g (fieldOf b 0x30 8)
  match table with
  | .error e => .error e
  | .ok _ =>
    match s.readAgain g g.desc.addr.toNat 128 with
    | .error e => .error e
    | .ok b =>
      let d := descOf g.desc.addr.toNat b g.desc.bitmap
      if descOk b && !(g.root != g.desc.addr && fieldOf b 0x30 8 != 0) && g.suits d then .ok d else .error (.refuse 2 none)

/-- A launch examined (R116, R117, R309): its descriptor and its argument words. -/
def State.examine (s : State) (r : LaunchReq) : Except Stop (KDesc × List Word) :=
  if r.desc % 128 != 0 || 2 ^ 52 ≤ r.desc then .error (.refuse 3 none)
  else
    match s.selectDesc r.ctx r.desc with
    | .error e => .error e
    | .ok d =>
      if r.fails d then .error (.refuse 3 none)
      else
        match r.own with
        | some ws => .ok (d, ws.take (d.argsz / 4))
        | none =>
          if d.argsz = 0 then .ok (d, [])
          else
            match s.feRead r.ctx r.argp d.argsz with
            | .error e => .error (readStop 3 e)
            | .ok b => .ok (d, wordsAt b 0 (d.argsz / 4))

/-! ### Acceptance (R309, R310, R316) -/

/-- The grids that the limit of R316 counts. -/
def State.liveGrids (s : State) : Nat :=
  (s.grids.filter fun g => g.st == .submitted || g.st == .dispatching || g.st == .draining).length

/-- A descriptor of a grid that was refused before it had one. -/
def noDesc (addr : Nat) : KDesc := descOf addr [] [0, 0, 0, 0]

/-- The grid of a launch, whose identifier is the event number of its acceptance (R353). -/
def State.newGrid (s : State) (r : LaunchReq) (l : Launcher) (d : KDesc) (args : List Word) (st : GridState) (code : Nat) : Grid :=
  { id := s.evSeq, ctx := r.ctx, queue := r.queue, qgen := r.qgen, prio := r.prio, top := r.top, root := BitVec.ofNat 64 r.desc, desc := d,
    seen := if st = .submitted then s.descReads r.ctx r.desc d.addr.toNat else [], gx := r.gx, gy := r.gy, gz := r.gz, args := args,
    cwa := r.cwa, cwDie := r.cwDie, sta := r.sta, staDie := r.staDie, clwin := r.clwin, st := st, code := code, killed := 0,
    nextDeal := 0, placed := 0, ended := 0, slots := [], dies := ((s.ctx? r.ctx).map (·.dies)).getD 0,
    report := if st = .failed then .status else .none, hold := none, launcher := l, clsTeams := 0, clsOps := 0, clsBytes := 0, clsDone := false }

/-- A grid is accepted, SUBMITTED; or, where its context has stopped, FAILED at once (R327). -/
def State.addGrid (s : State) (g : Grid) : State := { s with grids := s.grids ++ [g] }.nextSeqNo

/-- A launch accepted or refused; or a read of it waits, for the service of a fault or for a stack in training. Its partition is the
context's, as it is now (R309). -/
def State.accept (s : State) (r : LaunchReq) (l : Launcher) : Except (Option Report) State :=
  let dead := (s.ctx? r.ctx).all fun c => c.st == .faulted || c.st == .dead || c.st == .free
  if dead then .ok (s.addGrid (s.newGrid r l (noDesc r.desc) [] .failed 6))
  else
    match s.examine r with
    | .error .wait => .error none
    | .error (.hold f) => .error (some f)
    | .error (.refuse code fault) =>
      let t := s.addGrid (s.newGrid r l (noDesc r.desc) [] .failed code)
      .ok (match fault with | some f => t.feFault r.ctx s.evSeq f | none => t)
    | .ok (d, args) => .ok (s.addGrid (s.newGrid r l d args .submitted 0))

/-- The launch of a thread's record (R311, R312): its grid belongs to the queue of the launching grid, whose PRIO bounds its priority also
when that queue is no more (DESIGN CHOICE: assumption 37). -/
def State.threadReq (s : State) (t : Thread) : LaunchReq :=
  let b := t.desc
  let g := s.grid? t.grid
  let top := (g.map (·.top)).getD 0
  { ctx := t.ctx, queue := (g.map (·.queue)).getD 0, top := top, qgen := (g.map (·.qgen)).getD 0, desc := fieldOf b 0x00 8, gx := fieldOf b 0x08 4, gy := fieldOf b 0x0C 2, gz := fieldOf b 0x0E 2,
    argp := fieldOf b 0x10 8, own := if recCtl b 2 then some t.args else none, cwa := fieldOf b 0x18 8,
    cwDie := if recCtl b 0 then some t.die else none, sta := fieldOf b 0x20 8, staDie := if recCtl b 1 then some t.die else none,
    clwin := fieldOf b 0x28 4, prio := fieldOf b 0x2C 1 % 4,
    bad := 4 ≤ fieldOf b 0x2C 1 || 8 ≤ fieldOf b 0x2D 1 || fieldOf b 0x2E 18 != 0 || top < fieldOf b 0x2C 1 % 4 }

/-- LAUNCH_ACCEPT (R116, R117, R309, R316): the launch of a thread is accepted or refused, and its queue entry freed. The record of a held
read names the launching grid, for there is no other yet (R439; DESIGN CHOICE: assumption 123). -/
def execLaunchAccept (tid : Nat) (s : State) : Host.Outcome State Fault Refusal :=
  match s.thread? tid with
  | none => .refused (.notEnabled "LAUNCH_ACCEPT")
  | some t =>
    if t.kind != .launch || t.st != .running || t.child.isSome || s.fe.reloading || 4096 ≤ s.liveGrids then
      .refused (.notEnabled "LAUNCH_ACCEPT")
    else
      match s.accept (s.threadReq t) (.thread tid) with
      | .error none => .refused (.notEnabled "LAUNCH_ACCEPT")
      | .error (some f) =>
        .next (s.feHold t.ctx t.grid f (.accept tid) fun seq st => st.onThread tid fun u => { u with st := .parked seq })
      | .ok s' => .next ((s'.onThread tid fun u => { u with st := .waiting, child := some s.evSeq }).freeEntry t)

/-! ### Dispatch and dealing (R302, R310, R319, R361) -/

/-- The barrier-table slots that are free, lowest first (R302). -/
def State.freeBarSlots (s : State) (k : Nat) : List Nat :=
  ((List.range (s.slots.length + k)).filter fun n => !(s.slots.any fun b => b.id == n)).take k

/-- What stands in the way of a grid at a later dispatch (R117, R439): the step is not enabled while a read waits for a stack; a fault
holds the grid, or fails it. -/
def State.rereadStops (s : State) (g : Grid) (e : Stop) (name : String) : Host.Outcome State Fault Refusal :=
  match e with
  | .wait => .refused (.notEnabled name)
  | .hold f => .next (s.feHold g.ctx g.id f (.grid g.id) fun seq st => st.onGrid g.id fun h => { h with hold := some seq })
  | .refuse code fault =>
    let t := (s.failGrid g.id (if code = 6 then 6 else 2)).settleCtx g.ctx
    .next (match fault with | some f => t.feFault g.ctx g.id f | none => t)

/-- GRID_DISPATCH (R302, R310): the descriptor is read again (R117, R118), and is the grid's from now on; its GBAR slots are allocated,
and the grid is DISPATCHING. -/
def execGridDispatch (grid : Nat) (s : State) : Host.Outcome State Fault Refusal :=
  match s.grid? grid with
  | none => .refused (.notEnabled "GRID_DISPATCH")
  | some g =>
    if g.st != .submitted || g.hold.isSome then .refused (.notEnabled "GRID_DISPATCH")
    else
      match s.rereadDesc g with
      | .error e => s.rereadStops g e "GRID_DISPATCH"
      | .ok d =>
        if 4096 < s.slots.length + d.gbar then .refused (.notEnabled "GRID_DISPATCH")
        else
        let s := s.draw
        let ids := s.freeBarSlots d.gbar
        .next ({ s with slots := s.slots ++ ids.map fun (n : Nat) => (⟨n, grid, none, [], none, []⟩ : BarSlot) }.onGrid grid fun h =>
          { h with st := .dispatching, slots := ids, desc := d })

/-- UNPLACED teams of a grid in a die's absent queue. -/
def State.dealtTo (s : State) (grid die : Nat) : Nat :=
  ((((s.die? die).map (·.absent)).getD []).filter fun id => (s.team? id).any fun t => t.grid == grid && t.st == .unplaced).length

/-- The die that receives a grid's next team or cluster (R319): the lowest of its partition whose queue has room. -/
def State.dealDie (s : State) (g : Grid) : Option Nat :=
  [0, 1, 2, 3].find? fun d =>
    g.dies.getLsbD d && s.pkg.dieok.getLsbD d && s.dealtTo g.id d < 16 && (!g.desc.pinned || g.desc.bitmap.getD d 0 != 0)

/-- A grid with teams to deal. -/
def State.dealable (s : State) (g : Grid) : Bool :=
  g.st == .dispatching && g.hold == none && g.nextDeal < g.total && s.fetching g.ctx

/-- The queue whose turn it is at a level, from a round-robin order of candidate queues: a queue without DEFICIT is given its
quantum and passed over (R361). -/
def queueTurn (def_ : Nat → Int) (quantum : Nat → Nat) (order : List Nat) : Nat → List (Nat × Int) → Option (Nat × List (Nat × Int))
  | 0, _ => none
  | n + 1, given =>
    match order with
    | [] => none
    | q :: r =>
      let d := ((given.find? fun e => e.1 == q).map (·.2)).getD (def_ q)
      if 0 < d then some (q, given)
      else queueTurn def_ quantum (r ++ [q]) n ((q, d + 1024 * quantum q) :: given.filter fun e => e.1 != q)

/-- Visits that are enough for some queue to come to a positive DEFICIT. -/
def turnFuel (def_ : Nat → Int) (order : List Nat) : Nat :=
  (order.map fun q => ((-(def_ q)).toNat / 1024 + 2)).foldl max 1 * (order.length + 1)

/-- A number put in its place in a rising list. -/
def insertRising (n : Nat) : List Nat → List Nat
  | [] => [n]
  | m :: r => if n ≤ m then n :: m :: r else m :: insertRising n r

/-- The queues in round-robin order from a pointer. -/
def roundRobin (from_ : Nat) (qs : List Nat) : List Nat :=
  let l := qs.foldr insertRising []
  l.filter (fun q => from_ ≤ q) ++ l.filter fun q => q < from_

/-- DEFICIT and QUANTUM of a queue. -/
def State.deficitOf (s : State) (q : Nat) : Int := ((s.queue? q).map (·.deficit)).getD 0
def State.quantumOf (s : State) (q : Nat) : Nat := ((s.queue? q).map (·.quantum)).getD 1

/-- DEFICIT of a queue changed, through the entry cache (R345). -/
def State.setDeficit (s : State) (q : Nat) (d : Int) : State :=
  ((s.touchQueue q).onQueue q fun u => { u with deficit := d }).saveQueue q

/-- A queue with no grid left to deal at any level keeps no DEFICIT above 0 (R361). -/
def State.capDeficits (s : State) : State :=
  let idle := s.queues.filter fun u =>
    0 < u.deficit && !(s.grids.any fun g => g.queue == u.id && g.qgen == u.gen && g.st == .dispatching && g.nextDeal < g.total)
  idle.foldl (fun (t : State) u => t.setDeficit u.id 0) s

/-- A new team of a grid (R309, R318). -/
def newTeam (id t die : Nat) (g : Grid) : Team :=
  { id := id, grid := g.id, t := t, st := .unplaced, die := die, bound := false, site := 0, tmBase := 0, tmem := g.desc.tmem,
    pools := [0, 0, 0, 0], takers := [], bars := [], age := 0, ret := 0, savedMatrix := false, image := none, leaving := .stay,
    woken := false, wakeSet := [], cluster := t / max 1 g.desc.csize, winBase := 0, winLen := 0, slotWait := none, arrivals := [],
    qlog := 0, record := none, recordAt := none, bivouacking := false, recFault := none, recDone := 0, recLink := 0, saveFault := none, cost := 0, since := 0,
    ops := 0, bytes := 0 }

/-- The next team or cluster of a grid joins the absent queue of a die (R319). -/
def State.dealTo (s : State) (g : Grid) (die : Nat) : State :=
  let n := max 1 g.desc.csize
  let ts := (List.range n).map fun i => newTeam (s.nextTeam + i) (g.nextDeal + i) die g
  ({ s with teams := s.teams ++ ts, nextTeam := s.nextTeam + n }.onDie die fun d => { d with absent := d.absent ++ ts.map fun (t : Team) => t.id }).onGrid
    g.id fun h => { h with nextDeal := h.nextDeal + n }

/-- The oldest of some grids. -/
def State.oldestGrid (s : State) (gs : List Grid) : Option Grid := (gs.map (·.id)).min?.bind s.grid?

/-- The grid whose team or cluster is dealt next (R361): of the highest priority among the grids that some die has room for (DEDUCED:
assumption 116), the oldest of the queue whose turn it is, with the DEFICITs that the search gives. A grid of a queue that is no more
is dealt at once (DESIGN CHOICE: assumption 37). -/
def State.nextDealt (s : State) : Option (Grid × Option (Nat × List (Nat × Int))) :=
  let gs := s.grids.filter fun g => s.dealable g && (s.dealDie g).isSome
  let level := (gs.map (·.prio)).foldl max 0
  let at_ := gs.filter fun g => g.prio == level
  match s.oldestGrid (at_.filter fun g => !s.sameQueue g.queue g.qgen) with
  | some g => some (g, none)
  | none =>
    let order := roundRobin (s.fe.rr.getD level 0) (at_.map (·.queue)).eraseDups
    (queueTurn s.deficitOf s.quantumOf order (turnFuel s.deficitOf order) []).bind fun x =>
      (s.oldestGrid (at_.filter fun g => g.queue == x.1)).map fun g => (g, some x)

/-- What the choice of a queue leaves: DEFICITs, and its level's pointer (R361); each queue that it looked at is in the entry cache
(R345). -/
def State.advanceTurn (s : State) (level : Nat) (x : Nat × List (Nat × Int)) : State :=
  ((x.2.foldl (fun (st : State) e => st.setDeficit e.1 e.2) s).touchQueue x.1).onFe fun f =>
    { f with rr := f.rr.mapIdx fun i n => if i = level then x.1 else n }

/-- TEAM_DEAL (R319, R361): the grid's descriptor is read again and checked (R117, R118), and a team or a cluster of it is dealt to the die. The front end
withdraws no UNPLACED team to deal it to another die (DESIGN CHOICE: assumption 115). -/
def execTeamDeal (die : Nat) (s : State) : Host.Outcome State Fault Refusal :=
  match s.nextDealt with
  | none => .refused (.notEnabled "TEAM_DEAL")
  | some (g, x) =>
    if s.dealDie g != some die || x.any (fun x => (x.1 :: x.2.map (·.1)).any s.qcbWaits) then .refused (.notEnabled "TEAM_DEAL")
    else
      match s.rereadDesc g with
      | .error e => s.rereadStops g e "TEAM_DEAL"
      | .ok _ =>
        let s := match x with | some x => s.advanceTurn g.prio x | none => s
        .next ((s.draw.dealTo g die).capDeficits)

/-! ### Retirement and report (R310, R313) -/

/-- Engine threads issued by a grid's teams that have not ended. -/
def State.gridThreads (s : State) (grid : Nat) : Bool := s.threads.any fun t => t.grid == grid && t.st != .ended

/-- GRID_RETIRE (R310): every team has ended, and every engine thread of them. -/
def execGridRetire (grid : Nat) (s : State) : Host.Outcome State Fault Refusal :=
  match s.grid? grid with
  | none => .refused (.notEnabled "GRID_RETIRE")
  | some g =>
    if g.st != .draining || g.ended < g.total || s.gridThreads grid then .refused (.notEnabled "GRID_RETIRE")
    else
      .next ((s.dropSlots grid g.ctx).onGrid grid fun h =>
        { h with st := .retired, code := if h.killed = 0 then 0 else 4, slots := [], report := .status })

/-- The end of a grid reaches what launched it: its packet completes, or its launch thread (R312, R353). -/
def State.notifyLauncher (s : State) (l : Launcher) : State :=
  match l with
  | .packet q gen idx => s.completePacket q gen idx
  | .thread tid => match s.thread? tid with | some t => s.endThread t | none => s

/-- A report write that faults: PAGE in main memory waits; any other fault writes its record, and the context is DEAD, for
the grid can no longer report (R313, R377). -/
def State.reportFails (s : State) (g : Grid) (r : Report) : State :=
  if r.kind = .page then
    s.feHold g.ctx g.id r (.report g.id) fun seq st => st.onGrid g.id fun h => { h with report := .heldFault seq (g.report == .completion) }
  else (((s.feFault g.ctx g.id r).deadCtx g.ctx).onGrid g.id fun h => { h with report := .reported }).notifyLauncher g.launcher

/-- GRID_REPORT (R313): the status word, where there is one, then the completion word, one write in each step. -/
def execGridReport (grid : Nat) (s : State) : Host.Outcome State Fault Refusal :=
  match s.grid? grid with
  | none => .refused (.notEnabled "GRID_REPORT")
  | some g =>
    let status : Bool := g.report == .status && g.sta != 0
    if (g.report = .status || g.report = .completion) && !(s.ctx? g.ctx).isNone
        && !s.wordHeld g.ctx (if status then g.staDie else g.cwDie) (if status then g.sta else g.cwa) then
      if status then
        match s.wordTarget g.ctx g.staDie g.sta with
        | .error r => .next (s.reportFails g r)
        | .ok k => .next ((s.storeLE k 8 (g.code + 2 ^ 32 * (g.killed % 2 ^ 32))).onGrid grid fun h => { h with report := .completion })
      else
        match s.wordTarget g.ctx g.cwDie g.cwa with
        | .error r => .next (s.reportFails g r)
        | .ok k =>
          .next (((s.storeLE k 8 (s.readLE k 8 + 2 ^ 64 - 1)).onGrid grid fun h => { h with report := .reported }).notifyLauncher g.launcher)
    else .refused (.notEnabled "GRID_REPORT")

end Sys2Proof.Machine
end

