-- ==== Sys2Proof/Machine/Mailbox.lean ====
section
/-!
DEFINITION. Mailboxes (R354-R357, R360) and the messages of groups to the front end: `mbx.get`, `mbx.put`, `q.bell` (R358,
R359); with the states of the queues that wait on them.
-/
namespace Sys2Proof.Machine

/-! ### Queues on the way -/

/-- A queue enters a state; a loss that its progress write consumes escalates with the queue's context as consumer
(R347, R377). -/
def State.enterQueue (s : State) (q : Nat) (st : QState) : State :=
  match s.setQueue q st with
  | (t, none) => t
  | (t, some r) => t.feFault (((s.queue? q).map (·.ctx)).getD 0) 0 r

/-- A progress word that waited for a stack is written; a loss that the write consumes escalates in the same way. -/
def State.writeProgress (s : State) (q : Nat) : State :=
  if !s.liveQueue q then s
  else
    match s.progress q with
    | (t, none) => t
    | (t, some r) => t.feFault (((s.queue? q).map (·.ctx)).getD 0) 0 r

/-- An ACTIVE queue without a packet left is IDLE (R349). -/
def State.settleQueue (s : State) (q : Nat) : State :=
  match s.queue? q with
  | some u => if u.st = .active && u.rdidx = u.tail then s.enterQueue q .idle else s
  | none => s

/-- A started packet's write fails (R353): the packet completes, and the queue enters ERROR. -/
def State.packetWriteFails (s : State) (u : Queue) (idx : Nat) (hdr value : DWord) (r : Report) : State :=
  let s := s.completePacket u.id u.gen idx
  if r.kind = .uncorrectable then s.feFault u.ctx 0 r
  else (s.onQueue u.id fun u => { u with errval := value }).queueError u.id 6 idx hdr

/-- A served MBX-GET of a queue: its value is written at DEST, where there is one, and the packet completes (R353). -/
def State.finishGet (s : State) (u : Queue) (idx : Nat) (v : DWord) : State :=
  match u.getting.find? fun e => e.1 == idx && e.2.2 != 0 with
  | none => s.completePacket u.id u.gen idx
  | some (_, hdr, dest) =>
    match s.wordTarget u.ctx none dest.toNat with
    | .error r => s.packetWriteFails u idx hdr v r
    | .ok k => (s.storeLE k 8 v.toNat).completePacket u.id u.gen idx

/-- Whether the write of such a packet waits for a stack in training (R379). -/
def State.getHeld (s : State) (r : MbxReq) : Bool :=
  match r.src with
  | .queue q _ idx => (s.queue? q).any fun u => u.getting.any fun e => e.1 == idx && e.2.2 != 0 && s.wordHeld u.ctx none e.2.2.toNat
  | .path .. => false

/-- A queue that is BLOCKED on the packet of this index, which is served, is ACTIVE again. -/
def State.unblock (s : State) (u : Queue) (idx : Nat) : State :=
  match s.queue? u.id with
  | some v => if v.st = .blocked && v.rdidx == idx + 1 && v.packet.isNone then (s.enterQueue u.id .active).settleQueue u.id else s
  | none => s

/-! ### Mailbox words (R354, R355, R357) -/

/-- The key of a context's mailbox word. -/
def mbxKey (c : Ctx) (word : Nat) : Nat := tagKey c.mba + 16 * word

/-- FULL of a mailbox word, and whether its reserved bits are sound (R355). -/
def State.mbxFull (s : State) (k : Nat) : Bool := (s.byte (k + 8)).getLsbD 0
def State.mbxSound (s : State) (k : Nat) : Bool := s.readLE (k + 8) 8 ≤ 1

/-- A queued get on the word comes first, whose write at DEST waits for a stack (R357, R379). -/
def State.mbxAhead (s : State) (k : Nat) : Bool :=
  s.fe.mbxq.any fun r => s.getHeld r && (s.ctx? r.ctx).any fun c => mbxKey c r.word == k

/-- Whether a put, or a get, can be served now: the word allows it, and no get that waits comes first. -/
def State.mbxServable (s : State) (k : Nat) (put : Bool) : Bool := !s.fe.reloading && s.mbxFull k != put && (put || !s.mbxAhead k)

/-- The word after a put or a get. -/
def State.mbxDo (s : State) (k : Nat) (put : Option DWord) : State :=
  match put with
  | some v => s.store k (toBytes 8 v.toNat ++ toBytes 8 1)
  | none => s.store (k + 8) (toBytes 8 0)

/-- The path that made a request, marked served. -/
def Path.servedAt (p : Path) (id : Nat) : Path :=
  match p.park with
  | some (.mbx g w (some n) false) => if n = id then { p with park := some (.mbx g w (some n) true) } else p
  | _ => p

/-- What the group of a served request gets: the value of a get in its pair, which `mbx.get` names as its destination (R306, R280); the
path that made it is marked. -/
def Group.servedMbx (g : Group) (r : MbxReq) (v : DWord) : Group :=
  let us := writing false (regsFrom .s r.dest 2)
  if r.put.isNone then
    { g with arch := ((((g.arch.unpoison us).restore us 0).setX r.dest v).onPaths (·.servedAt r.id)), conts := g.conts.map (·.callee us) }
  else { g with arch := g.arch.onPaths (·.servedAt r.id) }

/-- A queued request is served: the word, and what its maker gets. -/
def State.serveReq (s : State) (k : Nat) (r : MbxReq) : State :=
  let v := BitVec.ofNat 64 (s.readLE k 8)
  let s := s.mbxDo k r.put
  match r.src with
  | .path g _ => s.onGroup g fun h => h.servedMbx r v
  | .queue q gen idx =>
    match s.queue? q with
    | some u =>
      if u.gen != gen then s
      else (if r.put.isNone then s.finishGet u idx v else s.completePacket q gen idx).unblock u idx
    | none => s

/-- Queued requests on a word are served, the oldest that its state allows first, until none can be, or its write at DEST waits for a
stack (R357, R379). -/
def State.serveWord (s : State) (ctx word k : Nat) : Nat → State
  | 0 => s
  | n + 1 =>
    match s.fe.mbxq.find? fun r => r.ctx == ctx && r.word == word && !s.fe.reloading && s.mbxFull k != r.put.isSome with
    | none => s
    | some r =>
      if s.getHeld r then s
      else State.serveWord ((s.onFe fun f => { f with mbxq := f.mbxq.erase r }).serveReq k r) ctx word k n

/-- After a service: queued requests, and teams whose withdrawn request could be served now (R297, R357). -/
def State.afterService (s : State) (ctx word k : Nat) : State :=
  let s := s.serveWord ctx word k s.fe.mbxq.length
  let full := s.mbxFull k
  s.fireWake fun w => match w with | .mbx c n get => c == ctx && n == word && get == full | _ => false

/-- A loss in a context's mailbox area, whose pages are of class DEVICE (R356). -/
def mbxLoss (k : Nat) : Report := { kind := .uncorrectable, addr := BitVec.ofNat 64 k, cls := 3, pa := k }

/-! ### The instructions (R358-R360) -/

/-- The mailbox word of a group's request, none where it lies beyond MBN. -/
def State.mbxOf (s : State) (h : Here) (word : Nat) : Option Nat :=
  (s.ctx? (s.hereCtx h)).bind fun c => if word < c.mbn then some (mbxKey c word) else none

/-- BOUNDS of a group's request (R355, R360). -/
def State.mbxFault (s : State) (h : Here) (word : Nat) : Option Report :=
  match s.mbxOf h word with
  | none => some { kind := .bounds, addr := BitVec.ofNat 64 word }
  | some k => if s.isLost k 16 then some (mbxLoss k) else failIf (!s.mbxSound k) .bounds word

/-- The requests that the front end holds (R357). -/
def mbxLimit : Nat := 4096

/-- A group's request: served at once, or the path parks and the request is queued where there is room. The answer waits while the word
is on a stack that the hub die cannot reach. -/
def mbxPlan (a : SReg) (uses : List Use) (put : Here → Option DWord) (dest : Nat) : Plan :=
  { uses := uses
    stall := fun s h => (s.mbxOf h (h.a.getS a.toNat).toNat).any s.keyHeld
    late := fun s h => s.mbxFault h (h.a.getS a.toNat).toNat
    hold := fun s h =>
      let w := (h.a.getS a.toNat).toNat
      let ctx := s.hereCtx h
      let get := (put h).isNone
      match s.mbxOf h w with
      | some k =>
        if s.mbxServable k (!get) then none
        else some fun s =>
          if mbxLimit ≤ s.fe.mbxq.length then s.park h.g.id h.slot (some (.mbx get w none false))
          else
            let n := s.fe.nextReq
            (s.park h.g.id h.slot (some (.mbx get w (some n) false))).onFe fun f =>
              { f with mbxq := f.mbxq ++ [⟨n, ctx, w, put h, .path h.g.id h.slot, dest⟩], nextReq := n + 1 }
      | none => none
    act := fun h s =>
      let w := (h.a.getS a.toNat).toNat
      match s.mbxOf h w with
      | some k =>
        let v := BitVec.ofNat 64 (s.readLE k 8)
        let s := s.mbxDo k (put h)
        (if (put h).isNone then s.onArch h.g.id fun b => b.setX dest v else s).afterService (s.hereCtx h) w k
      | none => s }

/-- `mbx.get` (R358, R360). -/
def execMbxGet (d a : SReg) (s : State) : Host.Outcome State Fault Refusal :=
  run (.mbxGet d a) (mbxPlan a (dstS d 2 ++ srcS a) (fun _ => none) d.toNat) s

/-- `mbx.put` (R358, R360). -/
def execMbxPut (a b : SReg) (s : State) : Host.Outcome State Fault Refusal :=
  run (.mbxPut a b) (mbxPlan a (srcS a ++ srcS b 2) (fun h => some (h.a.getX b.toNat)) 0) s

/-- A path's mailbox wait can end: it was served; or its request, which the front end had no room for, can be sent (R357). -/
def State.mbxReady (s : State) (g : Group) (p : Path) : Bool :=
  match p.park with
  | some (.mbx get w req served) =>
    served || (req.isNone && (s.fe.mbxq.length < mbxLimit
      || (s.ctx? (s.teamCtx g.team)).any fun c => s.mbxServable (mbxKey c w) (!get)))
  | _ => false

/-- MAILBOX_WAKE (R360): a served path goes on behind its instruction; one whose request was not sent makes it again. RET falls to 0
(R299). -/
def execMailboxWake (grp : Nat) (slot : Bool) (s : State) : Host.Outcome State Fault Refusal :=
  match s.group? grp with
  | none => .refused (.notEnabled "MAILBOX_WAKE")
  | some g =>
    match g.arch.path slot with
    | none => .refused (.notEnabled "MAILBOX_WAKE")
    | some p =>
      if s.mbxReady g p && (s.team? g.team).any Team.runs then
        match p.park with
        | some (.mbx _ _ _ true) => .next ((s.clearRet g.team).retireParked grp slot)
        | _ => .next ((s.clearRet g.team).park grp slot none)
      else .refused (.notEnabled "MAILBOX_WAKE")

/-- `q.bell` (R359): the pair goes to the front end. -/
def execQBell (a b : SReg) (s : State) : Host.Outcome State Fault Refusal :=
  run (.qBell a b)
    { uses := srcS a ++ srcS b 2
      act := fun h s => s.onFe fun f =>
        { f with msgs := f.msgs ++ [.bell (s.hereCtx h) (h.a.getS a.toNat) (h.a.getX b.toNat)] } } s

end Sys2Proof.Machine
end

