-- ==== Sys2Proof/Machine/Queue.lean ====
section
/-!
DEFINITION. Queues (R343-R353): QCMD, the doorbell, the fetcher with validation, the packets, soft interrupts and `q.bell`
values on their way (R340, R359), and the reload of the logic block (R342).
-/
namespace Sys2Proof.Machine

/-! ### Rings (R350, R352) -/

/-- The virtual address of the slot of an index. -/
def Queue.slotVA (u : Queue) (i : Nat) : Nat := u.ring.toNat + 64 * (i % 2 ^ u.szlog)

/-- A ring read that fails (R352): FETCH, or a consumed loss that escalates; one that waits for a stack in training (R379) has not been
made. -/
def State.ringFails (s : State) (u : Queue) (hdr : DWord) (r : Option Report) : State :=
  match r with
  | none => s
  | some r => if r.kind = .uncorrectable then s.feFault u.ctx 0 r else s.queueError u.id 5 u.rdidx hdr

/-- Whether the read of the packet at RDIDX waits for a stack in training (R379): a slot lies within a page. -/
def State.slotHeld (s : State) (u : Queue) : Bool := s.feHeld u.ctx (u.slotVA u.rdidx)

/-- The header at RDIDX. -/
def State.headerAt (s : State) (u : Queue) : Except (Option Report) Nat :=
  match s.feRead u.ctx (u.slotVA u.rdidx) 8 with
  | .error r => .error r
  | .ok b => .ok (ofBytes b)

/-- The packet with this header is published (R350): its stamp is the index's, and its opcode is not 0. -/
def Queue.published (u : Queue) (hdr : Nat) : Bool := hdr % 2 ^ 32 == u.rdidx % 2 ^ 32 && hdr / 2 ^ 32 % 256 != 0

/-- The header of a STALLED queue read again (R348, R349). A read that waits for a stack leaves the queue STALLED, for a later re-read. -/
def State.reread (s : State) (q : Nat) : State :=
  match s.queue? q with
  | none => s
  | some u =>
    if u.st != .stalled || !s.fetching u.ctx || s.slotHeld u then s
    else
      match s.headerAt u with
      | .error r => s.draw.ringFails u (Config.unreadHeader s.free) r
      | .ok h => if u.published h then s.enterQueue q .active else s

/-! ### The doorbell (R348) -/

/-- A doorbell value applied, or a wake without one (R340, R348). -/
def State.ring (s : State) (q : Nat) (v : Option Nat) : State :=
  match s.queue? q with
  | none => s
  | some u =>
    if u.st = .absent || u.st = .error then s
    else
      let s := s.touchQueue q
      match v with
      | some v =>
        if u.rdidx + 2 ^ u.szlog < v then s.queueError q 1 v u.errhdr
        else
          let s := s.onQueue q fun u => { u with tail := max u.tail v }
          let s := if u.st = .idle && u.rdidx < max u.tail v then s.enterQueue q .active else s.saveQueue q
          s.reread q
      | none => s.reread q

/-- A doorbell value arrives: the host's, or one of a `q.bell` of context `who`, whose queue it must be (R348, R359). It is held while the
logic block is reloaded (R342). -/
def State.ringOrHold (s : State) (q v : Nat) (who : Option Nat) : State :=
  if s.fe.reloading then s.onFe fun f => { f with heldBells := f.heldBells ++ [(q, BitVec.ofNat 64 v, who)] }
  else if who.all fun c => (s.queue? q).any fun u => u.ctx == c then s.ring q (some v)
  else s

/-- The host's registers serve once Stage C has ended (R417). -/
def State.hostReady (s : State) : Bool := s.pkg.stage == .d

/-- DOORBELL (R348): the host writes QDB[q]. -/
def execDoorbell (q : Nat) (v : DWord) (s : State) : Host.Outcome State Fault Refusal :=
  if s.hostReady then .next (s.ringOrHold q v.toNat none) else .next s

/-- The first message of a kind, and the rest. -/
def takeMsg (p : FeMsg → Bool) (l : List FeMsg) : Option (FeMsg × List FeMsg) :=
  match l.find? p with
  | some m => some (m, dropFirst (fun x => x == m) l)
  | none => none

/-- QBELL_DELIVERY (R359): the oldest `q.bell` value reaches the doorbell, if its queue belongs to the issuing context. -/
def execQbellDelivery (s : State) : Host.Outcome State Fault Refusal :=
  match takeMsg (fun m => match m with | .bell .. => true | .sint .. => false) s.fe.msgs with
  | some (.bell ctx q v, r) =>
    let s := s.onFe fun f => { f with msgs := r }
    if fld q 20 12 == 0 then .next (s.ringOrHold q.toNat v.toNat (some ctx)) else .next s
  | _ => .refused (.notEnabled "QBELL_DELIVERY")

/-- A management core is under reset (R425): with the device, which temperature holds in reset (R35); or, a base-die controller, while
its stack is reset and trains (R379, R426). -/
def State.underReset (s : State) (stack : Option Nat) : Bool := s.pkg.held || stack.any s.training

/-- The wake bit of a management core, with the context that woke it (R425): a wake to one under reset is dropped. -/
def State.wakeMgmt (s : State) (ctx : Nat) (v : Word) : State :=
  let n := (fld v 0 4).toNat
  if fld v 30 2 = 1 then (if fld v 0 30 == 0 && !s.underReset none then s.onPkg fun p => { p with wake := some ctx } else s)
  else if fld v 4 26 == 0 && !s.underReset (some n) then s.onStack n fun k => { k with wake := some ctx }
  else s

/-- SINT_DELIVERY (R340, R425): a queue re-reads its ring; a management core has its wake bit set; anything else is
dropped. -/
def execSintDelivery (s : State) : Host.Outcome State Fault Refusal :=
  match takeMsg (fun m => match m with | .sint .. => true | .bell .. => false) s.fe.msgs with
  | some (.sint ctx v, r) =>
    if s.fe.reloading then .refused (.notEnabled "SINT_DELIVERY")
    else
      let s := s.onFe fun f => { f with msgs := r }
      let t := fld v 30 2
      if t = 0 then
        let q := (fld v 0 20).toNat
        if fld v 20 10 == 0 && (s.queue? q).any (fun u => u.ctx == ctx) then .next (s.ring q none) else .next s
      else if t = 3 then .next s
      else .next (s.wakeMgmt ctx v)
  | _ => .refused (.notEnabled "SINT_DELIVERY")

/-! ### The fetcher (R350, R352) -/

/-- Whether main memory at an address has no present and writable translation (R352). -/
def State.unwritable (s : State) (ctx a : Nat) : Option Report :=
  match s.wordKey ctx none a with | .error r => some r | .ok _ => none

/-- The first check that a published packet fails (R352): its ERRCODE; or a loss that a walk consumes. `b` is the packet. -/
def State.packetFault (s : State) (u : Queue) (b : List Byte) : Option (Nat ⊕ Report) :=
  let opc := fieldOf b 4 1
  let mbn := ((s.ctx? u.ctx).map (·.mbn)).getD 0
  let code (n : Nat) : Option (Nat ⊕ Report) := some (.inl n)
  let reserved : Bool :=
    match opc with
    | 1 => 4 ≤ fieldOf b 0x34 1 || fieldOf b 0x35 11 != 0
    | 4 => fieldOf b 0x18 40 != 0
    | _ => fieldOf b 0x0C 4 != 0 || fieldOf b 0x18 40 != 0
  let field : Bool :=
    match opc with
    | 1 => fieldOf b 0x20 8 % 8 != 0 || fieldOf b 0x28 8 % 8 != 0 || 2 ^ 52 ≤ fieldOf b 0x20 8 || 2 ^ 52 ≤ fieldOf b 0x28 8
        || u.prio < fieldOf b 0x34 1
    | 2 => mbn ≤ fieldOf b 0x08 4
    | 3 => mbn ≤ fieldOf b 0x08 4 || fieldOf b 0x10 8 % 8 != 0
    | _ => fieldOf b 0x08 8 % 8 != 0
  let target : Option Nat :=
    match opc with
    | 3 => if fieldOf b 0x10 8 = 0 then none else some (fieldOf b 0x10 8)
    | 4 => some (fieldOf b 0x08 8)
    | _ => none
  if reserved then code 3
  else if field then code 4
  else
    match target.bind fun a => s.unwritable u.ctx a with
    | some r => if r.kind = .uncorrectable then some (.inr r) else code 6
    | none => none

/-- The body of a published packet read and the packet validated: it waits to start, or the queue enters ERROR. -/
def State.validate (s : State) (u : Queue) (hdr : Nat) : State :=
  let h := BitVec.ofNat 64 hdr
  if 4 < hdr / 2 ^ 32 % 256 then s.queueError u.id 2 u.rdidx h
  else if 2 ≤ hdr / 2 ^ 40 then s.queueError u.id 3 u.rdidx h
  else
    match s.feRead u.ctx (u.slotVA u.rdidx + 8) 56 with
    | .error r => s.ringFails u h r
    | .ok body =>
      let b := toBytes 8 hdr ++ body
      match s.packetFault u b with
      | some (.inl c) => s.queueError u.id c u.rdidx h
      | some (.inr r) => s.feFault u.ctx 0 r
      | none => s.onQueue u.id fun v => { v with packet := some b }

/-- PACKET_FETCH (R350, R352): the header at RDIDX is read; an unpublished packet stalls the queue, and a published one is
validated. A mailbox packet that a BLOCKED queue still has to start is fetched again after a reload (R342). -/
def execPacketFetch (q : Nat) (s : State) : Host.Outcome State Fault Refusal :=
  match s.queue? q with
  | none => .refused (.notEnabled "PACKET_FETCH")
  | some u =>
    let again : Bool := u.st == .blocked && u.packet == some []
    if !(again || (u.st == .active && u.packet.isNone)) || u.tail ≤ u.rdidx || !s.fetching u.ctx || s.fe.reloading || s.slotHeld u || s.qcbWaits q then
      .refused (.notEnabled "PACKET_FETCH")
    else
      let s := s.touchQueue q
      match s.headerAt u with
      | .error r => .next (s.draw.ringFails u (Config.unreadHeader s.free) r)
      | .ok h => if u.published h then .next (s.validate u h) else .next (s.enterQueue q .stalled)

/-- STALL_REREAD (R349): the timed re-read of a STALLED queue. -/
def execStallReread (q : Nat) (s : State) : Host.Outcome State Fault Refusal :=
  match s.queue? q with
  | none => .refused (.notEnabled "STALL_REREAD")
  | some u =>
    if u.st != .stalled || !s.fetching u.ctx || s.fe.reloading || s.slotHeld u || s.qcbWaits q then .refused (.notEnabled "STALL_REREAD")
    else .next ((s.touchQueue q).reread q)

/-! ### The packets (R353) -/

/-- SERIAL of a packet. -/
def packetSerial (b : List Byte) : Bool := fieldOf b 5 1 % 2 == 1

/-- The packet of an opcode that can start now (R350): validated, and with SERIAL only after all before it. -/
def State.startable (s : State) (q opc : Nat) : Option (Queue × List Byte) :=
  match s.queue? q with
  | none => none
  | some u =>
    match u.packet with
    | none => none
    | some b =>
      if fieldOf b 4 1 == opc && (u.st == .active || u.st == .blocked) && s.fetching u.ctx && !s.fe.reloading && u.feFault == none
          && (!packetSerial b || u.doneidx == u.rdidx) then some (u, b) else none

/-- A packet starts: RDIDX moves on in one step with it, in the entry cache (R345, R350). -/
def State.startPacket (s : State) (u : Queue) : State :=
  (s.touchQueue u.id).onQueue u.id fun v =>
    Queue.settleDone { v with rdidx := u.rdidx + 1, pending := v.pending ++ [u.rdidx], packet := none }

/-- The launch of a LAUNCH packet. -/
def Queue.launchReq (u : Queue) (b : List Byte) : LaunchReq :=
  { ctx := u.ctx, queue := u.id, qgen := u.gen, desc := fieldOf b 0x08 8, gx := fieldOf b 0x10 4, gy := fieldOf b 0x14 2, gz := fieldOf b 0x16 2,
    argp := fieldOf b 0x18 8, own := none, cwa := fieldOf b 0x20 8, cwDie := none, sta := fieldOf b 0x28 8, staDie := none,
    clwin := fieldOf b 0x30 4, prio := fieldOf b 0x34 1, top := u.prio, bad := false }

/-- LAUNCH_PACKET (R316, R353): the packet starts as its grid is accepted or refused; a read that waits for service holds it
(R117). Its record names grid 0, for there is no grid yet (R439; DESIGN CHOICE: assumption 123). -/
def execLaunchPacket (q : Nat) (s : State) : Host.Outcome State Fault Refusal :=
  match s.startable q 1 with
  | none => .refused (.notEnabled "LAUNCH_PACKET")
  | some (u, b) =>
    if 4096 ≤ s.liveGrids then .refused (.notEnabled "LAUNCH_PACKET")
    else
      match s.accept (u.launchReq b) (.packet q u.gen u.rdidx) with
      | .error none => .refused (.notEnabled "LAUNCH_PACKET")
      | .error (some f) => .next (s.feHold u.ctx 0 f (.packet q) fun seq st => st.onQueue q fun v => { v with feFault := some seq })
      | .ok s' => .next ((s'.startPacket u).settleQueue q)

/-- SIGNAL_PACKET (R353): VALUE is written at ADDR as a release, and the packet completes. -/
def execSignalPacket (q : Nat) (s : State) : Host.Outcome State Fault Refusal :=
  match s.startable q 4 with
  | none => .refused (.notEnabled "SIGNAL_PACKET")
  | some (u, b) =>
    if s.wordHeld u.ctx none (fieldOf b 0x08 8) then .refused (.notEnabled "SIGNAL_PACKET")
    else
      let s := s.startPacket u
      match s.wordTarget u.ctx none (fieldOf b 0x08 8) with
      | .error r => .next (s.packetWriteFails u u.rdidx (BitVec.ofNat 64 (fieldOf b 0 8)) 0 r)
      | .ok k => .next (((s.storeLE k 8 (fieldOf b 0x10 8)).completePacket q u.gen u.rdidx).settleQueue q)

/-- A mailbox packet's word, or what stops its request (R355). -/
def State.packetWord (s : State) (u : Queue) (b : List Byte) : Except State Nat :=
  match s.ctx? u.ctx with
  | none => .error s
  | some c =>
    let k := mbxKey c (fieldOf b 0x08 4)
    if s.isLost k 16 then .error (s.feFault u.ctx 0 (mbxLoss k))
    else if !s.mbxSound k then .error (s.queueError u.id 4 u.rdidx (BitVec.ofNat 64 (fieldOf b 0 8)))
    else .ok k

/-- A mailbox packet (R353, R357): served at once; or the queue is BLOCKED with its request queued; or, with no room for a
request, BLOCKED with the packet still to start. -/
def State.mbxPacket (s : State) (u : Queue) (b : List Byte) (k : Nat) (put : Option DWord) : State :=
  let w := fieldOf b 0x08 4
  let dest : DWord := BitVec.ofNat 64 (fieldOf b 0x10 8)
  let s0 := if put.isSome then s else
    s.onQueue u.id fun v => { v with getting := v.getting ++ [(u.rdidx, BitVec.ofNat 64 (fieldOf b 0 8), dest)] }
  if s.mbxServable k put.isSome then
    let s := s0.startPacket u
    let x := BitVec.ofNat 64 (s.readLE k 8)
    let s := s.mbxDo k put
    let s := if put.isNone then s.finishGet ((s.queue? u.id).getD u) u.rdidx x else s.completePacket u.id u.gen u.rdidx
    ((s.afterService u.ctx w k).unblock u u.rdidx).settleQueue u.id
  else if mbxLimit ≤ s.fe.mbxq.length then
    if u.st = .blocked then s else s.enterQueue u.id .blocked
  else
    let n := s.fe.nextReq
    ((s0.startPacket u).onFe fun f =>
        { f with mbxq := f.mbxq ++ [⟨n, u.ctx, w, put, .queue u.id u.gen u.rdidx, 0⟩], nextReq := n + 1 }).enterQueue u.id .blocked

/-- A mailbox packet whose request can be sent: one that waits for room is not sent before there is some, and none while its word, or
the DEST of a get, lies on a stack that the access waits for. -/
def State.mbxSendable (s : State) (u : Queue) (b : List Byte) (k : Nat) (put : Bool) : Bool :=
  let a := fieldOf b 0x10 8
  (u.st == .active || s.mbxServable k put || s.fe.mbxq.length < mbxLimit) && !s.keyHeld k && (put || a == 0 || !s.wordHeld u.ctx none a)

/-- MBX_PUT_PACKET (R353, R357). -/
def execMbxPutPacket (q : Nat) (s : State) : Host.Outcome State Fault Refusal :=
  match s.startable q 2 with
  | none => .refused (.notEnabled "MBX_PUT_PACKET")
  | some (u, b) =>
    match s.packetWord u b with
    | .error s' => .next s'
    | .ok k =>
      if s.mbxSendable u b k true then .next (s.mbxPacket u b k (some (BitVec.ofNat 64 (fieldOf b 0x10 8))))
      else .refused (.notEnabled "MBX_PUT_PACKET")

/-- MBX_GET_PACKET (R353, R357): the value taken is written at DEST when it is served. -/
def execMbxGetPacket (q : Nat) (s : State) : Host.Outcome State Fault Refusal :=
  match s.startable q 3 with
  | none => .refused (.notEnabled "MBX_GET_PACKET")
  | some (u, b) =>
    match s.packetWord u b with
    | .error s' => .next s'
    | .ok k =>
      if s.mbxSendable u b k false then .next (s.mbxPacket u b k none) else .refused (.notEnabled "MBX_GET_PACKET")

/-! ### Queue commands (R343, R344, R349) -/

/-- STATUS of the last QCMD. -/
def State.qcmdDone (s : State) (status : Nat) : State := s.onFe fun f => { f with qStatus := status }

/-- A QCMD write: discarded before the register window serves; STATUS 3 for an index beyond the table. -/
def State.qcmd (s : State) (q : Nat) (f : State → State) : Host.Outcome State Fault Refusal :=
  if !s.hostReady then .next s
  else if 2 ^ s.fe.qtlog.toNat ≤ q then .next (s.qcmdDone 3)
  else .next (f s)

/-- The limits of R344. -/
def qcbOk (b : List Byte) : Bool :=
  fieldOf b 0x00 8 % 4096 == 0 && fieldOf b 0x00 8 < 2 ^ 52 && 6 ≤ fieldOf b 0x08 1 && fieldOf b 0x08 1 ≤ 24 && fieldOf b 0x09 1 ≤ 3
    && fieldOf b 0x0B 1 < 16 && fieldOf b 0x0C 2 < 4096 && fieldOf b 0x0E 2 == 0 && fieldOf b 0x10 8 == fieldOf b 0x18 8
    && 1 ≤ fieldOf b 0x28 4 && fieldOf b 0x28 4 ≤ 2 ^ 24 && fieldOf b 0x2C 4 == 0 && fieldOf b 0x38 8 % 8 == 0
    && (fieldOf b 0x0B 1 % 2 == 1 || fieldOf b 0x38 8 == 0) && fieldOf b 0x41 7 == 0 && fieldOf b 0x60 160 == 0

/-- A queue as CREATE makes it (R344). -/
def queueOf (q gen : Nat) (b : List Byte) (st : QState) : Queue :=
  { id := q, ring := BitVec.ofNat 64 (fieldOf b 0x00 8), szlog := fieldOf b 0x08 1, prio := fieldOf b 0x09 1, st := st,
    ctl := BitVec.ofNat 8 (fieldOf b 0x0B 1), ctx := fieldOf b 0x0C 2, tail := fieldOf b 0x10 8, rdidx := fieldOf b 0x18 8,
    doneidx := fieldOf b 0x18 8, quantum := fieldOf b 0x28 4, deficit := 0, proga := BitVec.ofNat 64 (fieldOf b 0x38 8),
    errcode := 0, erridx := fieldOf b 0x48 8, errhdr := BitVec.ofNat 64 (fieldOf b 0x50 8), errval := 0, pending := [], packet := none,
    getting := [], feFault := none, prog := 0, gen := gen }

/-- QUEUE_CREATE (R344, R349). The command runs once its control block can be read (R437). -/
def execQueueCreate (q : Nat) (s : State) : Host.Outcome State Fault Refusal :=
  if s.hostReady && s.keyHeld (s.qcbKey q) then .refused (.notEnabled "QUEUE_CREATE")
  else s.qcmd q fun s =>
    if (s.queue? q).any (fun u => u.st != .absent) then s.qcmdDone 2
    else
      match s.hubLoss (s.qcbKey q) 256 with
      | some t => t
      | none =>
        let b := s.bytes (s.qcbKey q) 256
        let ctx := fieldOf b 0x0C 2
        if !qcbOk b || (s.ctx? ctx).all (fun c => c.st == .free) then s.qcmdDone 1
        else
          let st : QState := if s.fetching ctx then .idle else .out
          let gen := ((s.queue? q).map fun u => u.gen + 1).getD 0
          let s := { s with queues := s.queues.filter (fun (u : Queue) => u.id != q) ++ [queueOf q gen b st] }
          ((s.touchQueue q).enterQueue q st).qcmdDone 0

/-- QUEUE_DESTROY (R349): the queue is ABSENT, and its control block is written back. -/
def execQueueDestroy (q : Nat) (s : State) : Host.Outcome State Fault Refusal :=
  s.qcmd q fun s =>
    if (s.queue? q).all (fun u => u.st == .absent) then s.qcmdDone 2
    else (s.dropQueue q).qcmdDone 0

/-- QUEUE_RESET (R349): ERROR is left with new indices; those skipped count as completed. -/
def execQueueReset (q : Nat) (s : State) : Host.Outcome State Fault Refusal :=
  s.qcmd q fun s =>
    match s.queue? q with
    | none => s.qcmdDone 2
    | some u =>
      if u.st != .error then s.qcmdDone 2
      else if s.fe.qarg.toNat < u.rdidx then s.qcmdDone 1
      else
        let n := s.fe.qarg.toNat
        let s := (s.touchQueue q).onQueue q fun u => Queue.settleDone { u with rdidx := n, tail := n, errcode := 0, errval := 0, packet := none }
        (s.enterQueue q (if s.fetching u.ctx then .idle else .out)).qcmdDone 0

/-- QCMD_RESERVED_OP (R343): STATUS 4, also where QUEUE lies beyond the table (DESIGN CHOICE: assumption 122). -/
def execQcmdReservedOp (op q : Nat) (s : State) : Host.Outcome State Fault Refusal :=
  if (1 ≤ op && op ≤ 3) || 16 ≤ op || 2 ^ 20 ≤ q then .refused (.notEnabled "QCMD_RESERVED_OP")
  else if s.hostReady then .next (s.qcmdDone 4)
  else .next s

/-- A valid tagged physical address (R437), for a structure aligned to `align`. -/
def tagOk (x : DWord) (align : Nat) : Bool :=
  tagTgt x != 3 && fld x 52 10 == 0 && paOk (tagTgt x) (fld x 0 52).toNat false && (fld x 0 52).toNat % align == 0

/-- Every queue is ABSENT. -/
def State.noQueues (s : State) : Bool := s.queues.all fun u => u.st == .absent

/-- QUEUE_TABLE_REGISTER_WRITE (R343): a write that is not permitted is discarded. -/
def execQueueTableRegisterWrite (reg : QTReg) (v : DWord) (s : State) : Host.Outcome State Fault Refusal :=
  if !s.hostReady then .next s
  else
    match reg with
    | .qtbase => if s.noQueues && tagOk v 4096 then .next (s.onFe fun f => { f with qtbase := v }) else .next s
    | .qtlog =>
      if s.noQueues && 6 ≤ v.toNat % 2 ^ 32 && v.toNat % 2 ^ 32 ≤ 20 then .next (s.onFe fun f => { f with qtlog := v.setWidth 32 })
      else .next s
    | .mbtbase => if tagOk v 4096 then .next (s.onFe fun f => { f with mbtbase := v }) else .next s

/-! ### Reload of the logic block (R342) -/

/-- The logic block is reloaded: packets that were parsed but not started are fetched again. -/
def State.beginReload (s : State) : State :=
  { s with queues := s.queues.map fun (u : Queue) =>
      { u with packet := if u.st == QState.blocked && u.packet.isSome then some [] else none, feFault := none } }.onFe fun f =>
    { f with reloading := true }

/-- The front end runs: from Stage D on. -/
def State.feRuns (s : State) : Bool := s.pkg.stage == .d && !s.pkg.held

/-- FRONT_END_WATCHDOG (R342): the fetcher of a queue with work has not advanced. -/
def execFrontEndWatchdog (q : Nat) (s : State) : Host.Outcome State Fault Refusal :=
  if s.feRuns && !s.fe.reloading && (s.queue? q).any (fun u => (u.st == .active || u.st == .stalled) && u.rdidx < u.tail) then
    .next s.beginReload
  else .refused (.notEnabled "FRONT_END_WATCHDOG")

/-- CONFIG_ECC_ERROR (R342). -/
def execConfigEccError (s : State) : Host.Outcome State Fault Refusal :=
  if s.feRuns && !s.fe.reloading then .next s.beginReload else .refused (.notEnabled "CONFIG_ECC_ERROR")

/-- The mailbox requests on one word, held through a reload or for a stack, served now, unless the word's stack still cannot be
reached. -/
def State.serveHeld (s : State) (r : MbxReq) : State :=
  match s.ctx? r.ctx with
  | some c =>
    if s.keyHeld (mbxKey c r.word) then s else (s.hubLoss (mbxKey c r.word) 16).getD (s.afterService r.ctx r.word (mbxKey c r.word))
  | none => s

/-- What the front end holds for a stack is served, as far as it can be reached now (R379, R405, R437): control blocks, progress words,
then mailbox requests. -/
def State.servePorts (s : State) : State :=
  let s := s.serveQcbs
  let due := s.fe.progDue
  let s := due.foldl (fun (t : State) q => t.writeProgress q) (s.onFe fun f => { f with progDue := [] })
  s.fe.mbxq.foldl State.serveHeld s

/-- LOGIC_BLOCK_RELOAD (R342): the reload ends; what was held is applied in its order, and the reload is logged. -/
def execLogicBlockReload (s : State) : Host.Outcome State Fault Refusal :=
  if !s.fe.reloading then .refused (.notEnabled "LOGIC_BLOCK_RELOAD")
  else
    let bells := s.fe.heldBells
    let reqs := s.fe.mbxq
    let s := (s.onFe fun f => { f with reloading := false, reloads := f.reloads + 1, heldBells := [] }).mgmtLog (.reload s.evSeq)
    let s := bells.foldl (fun (t : State) e => t.ringOrHold e.1 e.2.1.toNat e.2.2) s.nextSeqNo
    .next (reqs.foldl State.serveHeld s)

end Sys2Proof.Machine
end

