-- ==== Sys2Proof/Machine/Held.lean ====
section
/-!
DEFINITION. The events of a stack that release what its ports held (R379, R382, R388, R405): the end of training, the loss of a stack, and
step 6 of a hand-over.
-/
namespace Sys2Proof.Machine

/-- STACK_TRAINING_COMPLETE (R379): OWNED by the die of R27, or FAILED with a log entry of kind 5. What its ports held is
served. -/
def execStackTrainingComplete (n : Nat) (ok : Bool) (s : State) : Host.Outcome State Fault Refusal :=
  match s.stack? n with
  | none => .refused (.notEnabled "STACK_TRAINING_COMPLETE")
  | some k =>
    if k.st = .training && k.fwOk then
      if ok then .next (s.onStack n Stack.train).servePorts
      else
        .next (s.draw.onStack n fun q =>
          { q with st := .failed }.event 5 (Config.trainingPa s.free) (Config.trainingChannel s.free)).servePorts
    else .refused (.notEnabled "STACK_TRAINING_COMPLETE")

/-- STACK_LOST (R388): the stack is FAILED until a reset retrains it. No die owns it, so no stack cache holds a line of it (R20);
what was held for it meets the loss. -/
def execStackLost (n : Nat) (s : State) : Host.Outcome State Fault Refusal :=
  match s.stack? n with
  | none => .refused (.notEnabled "STACK_LOST")
  | some k =>
    match k.st with
    | .owned _ | .handing .. =>
      .next ((s.dropCache fun c => stackOf (64 * c.line) == n).onStack n fun q =>
        { q with st := .failed, copyA := .notOwned, copyB := .notOwned }).servePorts
    | _ => .refused (.notEnabled "STACK_LOST")

/-- OWNERSHIP_UPDATE (R382): step 6: the receiving die's copy becomes OWNED, and what waited for the stack is served. -/
def execOwnershipUpdate (tid : Nat) (s : State) : Host.Outcome State Fault Refusal :=
  match s.drainAt tid 6 with
  | some (t, n, d) =>
    .next (s.drainTo t n d 7 fun k => (k.setCopy t.die .notOwned).setCopy d .owned).servePorts
  | none => .refused (.notEnabled "OWNERSHIP_UPDATE")

end Sys2Proof.Machine
end

