-- ==== Sys2Proof/Machine/Context.lean ====
section
/-!
DEFINITION. The context commands of CTXCMD (R326-R328, R334) and changes of a context's partition (R116).
-/
namespace Sys2Proof.Machine

/-! ### CTXCMD (R326) -/

/-- STATUS of the last CTXCMD. -/
def State.ctxDone (s : State) (status : Nat) : State := s.onFe fun f => { f with ctxStatus := status }

/-- Held records are looked at again at each write of CTXCMD for their context (R336). -/
def State.atCtxcmd (s : State) (ctx : Nat) : State := s.releaseHeld ctx (((s.ctx? ctx).map fun c => c.held.length).getD 0)

/-- A CTXCMD write: discarded before the register window serves, and ignored while a command runs, but for KILL of the
context of that command (R326, R328, R417). -/
def State.ctxcmd (s : State) (ctx : Nat) (kill : Bool) (name : String) (f : State → State) : Host.Outcome State Fault Refusal :=
  if 4096 ≤ ctx then .refused (.notEnabled name)
  else if !s.hostReady then .next s
  else if s.fe.ctxBusy.any fun b => !(kill && b == ctx) then .next s
  else .next (f (s.atCtxcmd ctx))

/-- State of a context; FREE where it does not exist. -/
def State.ctxState (s : State) (ctx : Nat) : CtxState := ((s.ctx? ctx).map (·.st)).getD .free

/-! ### LOAD (R324, R327) -/

/-- The limits of R324 on a record's bytes. -/
def recordOk (b : List Byte) : Bool :=
  let mult (o n k : Nat) : Bool := fieldOf b o n % k == 0
  let dies (f : Nat → Bool) : Bool := [0, 1, 2, 3].all f
  tagOk (BitVec.ofNat 64 (fieldOf b 0x00 8)) 4096 && mult 0x08 8 (2 ^ 44) && fieldOf b 0x08 8 < 2 ^ 52
    && mult 0x10 4 4096 && fieldOf b 0x10 4 ≤ 0x40000 && 4 ≤ fieldOf b 0x14 2 && fieldOf b 0x14 2 ≤ 256
    && 12 ≤ fieldOf b 0x16 1 && fieldOf b 0x16 1 ≤ 30 && fieldOf b 0x17 1 ≤ 16 && fieldOf b 0x18 2 < 8 && fieldOf b 0x1C 4 == 0
    && dies (fun d => mult (0x20 + 16 * d) 8 4096 && mult (0x28 + 16 * d) 8 4096)
    && dies (fun d => mult (0x60 + 8 * d) 4 12288 && mult (0x64 + 8 * d) 4 12288 && fieldOf b (0x64 + 8 * d) 4 ≤ 2 ^ 27)
    && dies (fun d => mult (0x80 + 16 * d) 4 12288 && mult (0x84 + 16 * d) 4 12288 && mult (0x88 + 16 * d) 8 4096
      && mult (0xC0 + 8 * d) 8 4096)
    && dies (fun d => fieldOf b (0x60 + 8 * d) 4 + fieldOf b (0x64 + 8 * d) 4 ≤ 0x0C000000
      && fieldOf b (0x80 + 16 * d) 4 + fieldOf b (0x84 + 16 * d) 4 ≤ 0x0C000000)
    && mult 0xE0 8 64 && 6 ≤ fieldOf b 0xE8 4 && fieldOf b 0xE8 4 ≤ 16 && fieldOf b 0xEC 4 == 0 && mult 0xF0 8 8

/-- The number of dies in a set. -/
def dieCount (p : BitVec 4) : Nat := ((List.range 4).filter fun d => p.getLsbD d).length

/-- The partitions of the contexts that exist, but for one of them. -/
def State.partitions (s : State) (ctx : Nat) : List (BitVec 4) :=
  ((s.ctxs.filter fun c => c.id != ctx && c.st != .free).map (·.dies)).eraseDups

/-- A partition added to others that it is not among. -/
def addPart (p : BitVec 4) (ps : List (BitVec 4)) : List (BitVec 4) := if ps.contains p then ps else ps ++ [p]

/-- Partitions that the package may have (R32): sets of dies in service without a die in common, which the remaining dies complete to 1,
2 or 4. -/
def partsOk (ok : BitVec 4) (ps : List (BitVec 4)) : Bool :=
  let used := ps.foldl (· ||| ·) 0
  let rest := dieCount (ok &&& ~~~used)
  ps.all (fun p => p != 0 && p &&& ~~~ok == 0) && (ps.map dieCount).sum == dieCount used
    && [1, 2, 4].any fun n => ps.length + min 1 rest ≤ n && n ≤ ps.length + rest

/-- The partition of a context that is loaded: the dies in service that no other has, the lowest of them where all would be one
partition too many, or the partition of the context loaded first (DESIGN CHOICE: assumption 39). -/
def State.firstPartition (s : State) (ctx : Nat) : BitVec 4 :=
  let ps := s.partitions ctx
  let rest := s.pkg.dieok &&& ~~~(ps.foldl (· ||| ·) 0)
  let one : BitVec 4 := (((List.range 4).find? fun d => rest.getLsbD d).map fun d => BitVec.twoPow 4 d).getD 0
  ([rest, one].find? fun p => partsOk s.pkg.dieok (addPart p ps)).getD (ps.headD s.pkg.dieok)

/-- A context as LOAD makes it: no record written, nothing allocated. -/
def newCtx (ctx : Nat) (rec' : DWord) (dies : BitVec 4) (mba : DWord) (mbn : Nat) : Ctx :=
  { id := ctx, st := .ready, recAddr := rec', dies := dies, h := 0, held := [], faults := [], privUsed := [], saves := [], pools := [],
    switching := false, noRing := false, mba := mba, mbn := mbn }

/-- The mailbox table entry of a context (R356): one outside its limits gives no mailbox word (DESIGN CHOICE: assumption
40). -/
def State.mailboxEntry (s : State) (ctx : Nat) : DWord × Nat :=
  let k := tagKey s.fe.mbtbase + 16 * ctx
  let a := BitVec.ofNat 64 (s.readLE k 8)
  let n := s.readLE (k + 8) 4
  if tagOk a 4096 && n ≤ 65536 && s.readLE (k + 12) 4 == 0 then (a, n) else (a, 0)

/-- The record at CTXARG read and checked, and the context READY; or STATUS 1. -/
def State.loadCtx (s : State) (ctx : Nat) : State :=
  let a := s.fe.ctxarg
  if !tagOk a 256 then s.ctxDone 1
  else
    match s.hubLoss (tagKey a) 256 <|> s.hubLoss (tagKey s.fe.mbtbase + 16 * ctx) 16 with
    | some t => t
    | none =>
      let b := s.bytes (tagKey a) 256
      let root := tagKey (BitVec.ofNat 64 (fieldOf b 0 8))
      if !recordOk b then s.ctxDone 1
      else if s.isLost root 8 then (s.deviceLoss root).ctxDone 1
      else
        let m := s.mailboxEntry ctx
        ({ s with ctxs := s.ctxs.filter (fun (c : Ctx) => c.id != ctx) ++ [newCtx ctx a (s.firstPartition ctx) m.1 m.2] }).ctxDone 0

/-- LOAD (R326, R327). The command runs once what it reads can be reached (R437). -/
def execLoad (ctx : Nat) (s : State) : Host.Outcome State Fault Refusal :=
  let a := s.fe.ctxarg
  if s.hostReady && (s.keyHeld (tagKey a) || s.keyHeld (tagKey s.fe.mbtbase) || s.keyHeld (tagKey (BitVec.ofNat 64 (s.readLE (tagKey a) 8)))) then .refused (.notEnabled "LOAD")
  else s.ctxcmd ctx false "LOAD" fun s => if s.ctxState ctx = .free then s.loadCtx ctx else s.ctxDone 2

/-! ### The other commands (R327, R328, R334) -/

/-- A context becomes READY again, and its queues are fetched. -/
def State.readyCtx (s : State) (ctx : Nat) : State :=
  let r := (s.onCtx ctx fun c => { c with st := .ready }).syncQueues ctx
  r.2.foldl (fun (t : State) e => t.feFault ctx 0 e) r.1

/-- ACTIVATE (R327). -/
def execActivate (ctx : Nat) (s : State) : Host.Outcome State Fault Refusal :=
  s.ctxcmd ctx false "ACTIVATE" fun s => if s.ctxState ctx = .out then (s.readyCtx ctx).ctxDone 0 else s.ctxDone 2

/-- SWITCH_OUT (R327): it ends once every resident team is saved. -/
def execSwitchOut (ctx : Nat) (s : State) : Host.Outcome State Fault Refusal :=
  s.ctxcmd ctx false "SWITCH_OUT" fun s =>
    match s.ctxState ctx with
    | .ready => ((s.discardCtx ctx).enterCtx ctx .out 0).ctxDone 0
    | .resident | .partly => (s.onFe fun f => { f with ctxBusy := some ctx }).switchOutCtx ctx
    | _ => s.ctxDone 2

/-- RESUME_FAULT (R334): STATUS 3 for a number that names no outstanding fault of the context. -/
def execResumeFault (ctx : Nat) (s : State) : Host.Outcome State Fault Refusal :=
  s.ctxcmd ctx false "RESUME_FAULT" fun s =>
    match s.ctx? ctx with
    | none => s.ctxDone 2
    | some c =>
      if c.st = .free then s.ctxDone 2
      else
        match c.faults.find? fun e => e.1 == s.fe.ctxarg.toNat with
        | none => s.ctxDone 3
        | some e => (s.resume ctx e.1 e.2).ctxDone 0

/-- CLEAR (R327): once every grid of the FAULTED context has reported. -/
def execClear (ctx : Nat) (s : State) : Host.Outcome State Fault Refusal :=
  s.ctxcmd ctx false "CLEAR" fun s =>
    if s.ctxState ctx = .faulted && (s.ctxGrids ctx).all (fun g => g.report == .reported) then (s.readyCtx ctx).ctxDone 0
    else s.ctxDone 2

/-- KILL (R327, R328): a command of the context that runs ends with it. -/
def execKill (ctx : Nat) (s : State) : Host.Outcome State Fault Refusal :=
  s.ctxcmd ctx true "KILL" fun s =>
    match s.ctxState ctx with
    | .free | .dead => s.ctxDone 2
    | _ => (s.deadCtx ctx).ctxDone 0

/-- Engine threads of a context that have neither completed nor been discarded. -/
def State.ctxThreads (s : State) (ctx : Nat) : Bool := s.threads.any fun t => t.ctx == ctx && t.st != .ended

/-- FREE (R327, R349): a DEAD context without engine threads is no more, nor are its queues, grids and teams. -/
def execFree (ctx : Nat) (s : State) : Host.Outcome State Fault Refusal :=
  s.ctxcmd ctx false "FREE" fun s =>
    if s.ctxState ctx = .dead && !s.ctxThreads ctx then
      let gs := (s.ctxGrids ctx).map (·.id)
      let s := (s.discardCtx ctx).onCtx ctx fun c => { c with st := .free, held := [], faults := [] }
      let r := s.syncQueues ctx
      { r.1 with
        grids := r.1.grids.filter fun (g : Grid) => g.ctx != ctx
        teams := r.1.teams.filter fun (t : Team) => !gs.contains t.grid
        threads := r.1.threads.filter fun (t : Thread) => t.ctx != ctx }.ctxDone 0
    else s.ctxDone 2

/-- CTXCMD_RESERVED_OP (R326): STATUS 4. -/
def execCtxcmdReservedOp (op ctx : Nat) (s : State) : Host.Outcome State Fault Refusal :=
  if (1 ≤ op && op ≤ 7) || 16 ≤ op then .refused (.notEnabled "CTXCMD_RESERVED_OP")
  else s.ctxcmd ctx false "CTXCMD_RESERVED_OP" fun s => s.ctxDone 4

/-! ### The partition (R32, R116) -/

/-- PARTITION_CHANGE (R116): another set of dies for a context, where the package's partitions stay 1, 2 or 4 (R32). Grids that were
accepted keep their variant and their partition (R309). -/
def execPartitionChange (ctx : Nat) (dies : BitVec 4) (s : State) : Host.Outcome State Fault Refusal :=
  if s.ctxState ctx = .free || !partsOk s.pkg.dieok (addPart dies (s.partitions ctx)) then .refused (.notEnabled "PARTITION_CHANGE")
  else .next (s.onCtx ctx fun c => { c with dies := dies })

end Sys2Proof.Machine
end

