-- ==== Sys2Proof/Machine/Link.lean ====
section
/-!
DEFINITION. The host attachment and the Horhorn ports (R403-R411): the register window, host transactions to registers and
to memory, accesses of other packages, and the states of ports and modules.
-/
namespace Sys2Proof.Machine

/-! ### Register values (R326, R343, R380, R407, R410, R424) -/

/-- The code of a start stage in MGMTSTAT (R424). -/
def Stage.code : Stage → Nat
  | .a => 0 | .b => 1 | .c => 2 | .d => 3 | .halted => 4

/-- MGMTSTAT (R424). -/
def Package.mgmtstat (p : Package) : Word :=
  BitVec.ofNat 32 (2 ^ 16 * p.cause.toNat + 2 ^ 12 * p.dieok.toNat + 2 ^ 7 * p.warm.toNat + 2 ^ 6 * p.pres.toNat + p.stage.code)

/-- The code of a port state in HHSTAT (R410). -/
def PortState.code : PortState → Nat
  | .down => 0 | .training => 1 | .up => 2 | .degraded => 3 | .failed => 4

/-- HHSTAT of a port (R410). -/
def Port.stat (p : Port) : DWord :=
  BitVec.ofNat 64 (2 ^ 58 * p.peerPkg.toNat + 2 ^ 54 * p.peerPort.toNat + 2 ^ 16 * p.retry.toNat + 2 ^ 4 * p.lanes + p.st.code)

/-- The progress registers of a queue: RDIDX and DONEIDX, 0 where the queue is ABSENT (R343, R346). -/
def State.progressReg (s : State) (q : Nat) (done : Bool) : Nat :=
  match s.queue? q with
  | some u => if u.st = .absent then 0 else if done then u.doneidx else u.rdidx
  | none => 0

/-- The value of a 32-bit register at a window offset. -/
def State.reg32 (s : State) (off : Nat) : Option Word :=
  match off with
  | 0x008 => some (BitVec.ofNat 32 ((if s.fe.ctxBusy.isSome then 2 ^ 31 else 0) + 2 ^ 28 * s.fe.ctxStatus))
  | 0x018 => some s.fe.qtlog
  | 0x030 => some (BitVec.ofNat 32 (2 ^ 28 * s.fe.qStatus))
  | 0x140 => some (s.fe.hsig.setWidth 32)
  | 0x148 => some s.fe.domid
  | 0x150 => some s.pkg.mgmtstat
  | _ => none

/-- The value of a 64-bit register at a window offset that is a multiple of 8. -/
def State.reg64 (s : State) (off : Nat) : Option Nat :=
  if off = 0x000 then some s.fe.ctxarg.toNat
  else if off = 0x010 then some s.fe.qtbase.toNat
  else if off = 0x020 then some s.fe.mbtbase.toNat
  else if off = 0x028 then some s.fe.qarg.toNat
  else if 0x0C0 ≤ off && off < 0x140 then (s.port? ((off - 0x0C0) / 8)).map fun p => p.stat.toNat
  else if 0x200 ≤ off && off < 0x300 then some (Sparse.look s.fe.expt ((off - 0x200) / 8)).toNat
  else if 0x400 ≤ off && off < 0x1400 then some (Sparse.look s.fe.cge ((off - 0x400) / 8)).toNat
  else if 0x1000000 ≤ off && off < 0x2000000 then some (s.progressReg ((off - 0x1000000) / 16) (off % 16 == 8))
  else none

/-- The queue of a doorbell register at a window offset. -/
def bellQueue (off : Nat) : Option Nat :=
  if 0x100000 ≤ off && off < 0x900000 && off % 8 == 0 then some ((off - 0x100000) / 8) else none

/-- The queue of a progress register at a window offset. -/
def progressQueue (off : Nat) : Option Nat := if 0x1000000 ≤ off && off < 0x2000000 then some ((off - 0x1000000) / 16) else none

/-- A value returned to the host or to another package. -/
def State.answer (s : State) (v : Nat) : State := s.onFe fun f => { f with reads := v :: f.reads }

/-- A read of n bytes of the register window: zero where no register of that size lies there, and before the window serves
(R406, R417). A progress read resolves through the entry cache (R345). -/
def State.readWindow (s : State) (off n : Nat) : State :=
  if 0x040 ≤ off && off < 0x0C0 && off % 8 == 0 && n == 8 then
    s.answer (if s.statReady then ((s.stack? ((off - 0x040) / 8)).map fun k => k.stat.toNat).getD 0 else 0)
  else if !s.hostReady then s.answer 0
  else if n = 4 then s.answer (((s.reg32 off).map BitVec.toNat).getD 0)
  else if n = 8 && off % 8 == 0 then
    if (bellQueue off).isSome then s.draw.answer (Config.writeOnly s.free).toNat
    else ((progressQueue off).elim s s.touchQueue).answer ((s.reg64 off).getD 0)
  else s.answer 0

/-! ### Register writes (R406) -/

/-- Bits lo to lo + n of a mask. -/
def maskBits (lo n : Nat) : DWord := BitVec.ofNat 64 ((2 ^ n - 1) * 2 ^ lo)

/-- The bits that the two words of EXPT hold (R411). -/
def exptMask (w : Nat) : DWord := if w % 2 = 0 then maskBits 44 2 ||| maskBits 0 40 else maskBits 62 2 ||| maskBits 0 40

/-- The bits that the two words of CGE hold (R413). -/
def cgeMask (w : Nat) : DWord := if w % 2 = 0 then maskBits 0 64 else maskBits 63 1 ||| maskBits 0 12

/-- An 8-byte write to a register without a behaviour of its own; a CGE entry of a pending instance keeps its value (R413). -/
def FrontEnd.writeReg (f : FrontEnd) (off : Nat) (v : DWord) : FrontEnd :=
  if off = 0x000 then { f with ctxarg := v }
  else if off = 0x028 then { f with qarg := v }
  else if 0x200 ≤ off && off < 0x300 && off % 8 == 0 then
    let w := (off - 0x200) / 8
    { f with expt := Sparse.put f.expt w (v &&& exptMask w) }
  else if 0x400 ≤ off && off < 0x1400 && off % 8 == 0 then
    let w := (off - 0x400) / 8
    if f.joins.any fun j => j.cg == w / 2 then f else { f with cge := Sparse.put f.cge w (v &&& cgeMask w) }
  else f

/-- REGISTER_WRITE (R406): CTXARG, QARG, EXPT and CGE; a write elsewhere, or before the window serves, is discarded. -/
def execRegisterWrite (off : Nat) (v : DWord) (s : State) : Host.Outcome State Fault Refusal :=
  if s.hostReady then .next (s.onFe fun f => f.writeReg off v) else .next s

/-- HSIG_CLEAR (R407): bits written as one are cleared. -/
def execHsigClear (mask : BitVec 4) (s : State) : Host.Outcome State Fault Refusal :=
  if s.hostReady then .next (s.onFe fun f => { f with hsig := f.hsig &&& ~~~mask }) else .next s

/-- The step of a CTXCMD write (R326). -/
def ctxcmdStep (v : Word) : State → Host.Outcome State Fault Refusal :=
  let c := (fld v 0 12).toNat
  match (fld v 20 4).toNat with
  | 1 => execLoad c
  | 2 => execActivate c
  | 3 => execSwitchOut c
  | 4 => execResumeFault c
  | 5 => execClear c
  | 6 => execKill c
  | 7 => execFree c
  | op => execCtxcmdReservedOp op c

/-- The step of a QCMD write (R343). -/
def qcmdStep (v : Word) : State → Host.Outcome State Fault Refusal :=
  let q := (fld v 0 20).toNat
  match (fld v 24 4).toNat with
  | 1 => execQueueCreate q
  | 2 => execQueueDestroy q
  | 3 => execQueueReset q
  | op => execQcmdReservedOp op q

/-- A write of n bytes to the register window: to the register of that size there, or discarded (R406). -/
def State.writeWindow (s : State) (off n v : Nat) : Host.Outcome State Fault Refusal :=
  let x := BitVec.ofNat 64 v
  if n = 4 then
    match off with
    | 0x008 => ctxcmdStep (BitVec.ofNat 32 v) s
    | 0x018 => execQueueTableRegisterWrite .qtlog x s
    | 0x030 => qcmdStep (BitVec.ofNat 32 v) s
    | 0x140 => execHsigClear (BitVec.ofNat 4 v) s
    | _ => .next s
  else if n = 8 && off % 8 == 0 then
    if off = 0x010 then execQueueTableRegisterWrite .qtbase x s
    else if off = 0x020 then execQueueTableRegisterWrite .mbtbase x s
    else
      match bellQueue off with
      | some q => execDoorbell q x s
      | none => execRegisterWrite off x s
  else .next s

/-! ### The apertures (R405) -/

/-- The offset of an address in an aperture of a size at a base. -/
def inAperture (a base size : Nat) : Option Nat := if base ≤ a && a < base + size then some (a - base) else none

/-- Where an access to device memory goes: to bytes at a key, to a lost stack, or nowhere now. -/
inductive Served where
  | bytes (key : Nat)
  | lostStack (n : Nat)
  | held
  deriving DecidableEq, Repr

/-- An access to a stack, routed to its owner (R405, R411): held in TRAINING, and in HANDING until step 6 has ended. -/
def State.serveStack (s : State) (pa : Nat) : Served :=
  match s.stack? (stackOf pa) with
  | none => .held
  | some k =>
    match k.st with
    | .training => .held
    | .owned _ => .bytes (physKey 0 pa)
    | .handing _ _ step => if step = 7 then .bytes (physKey 0 pa) else .held
    | .failed => .lostStack k.n

/-- A host access at an offset of the memory aperture; before Stage D only 16 MiB of CD0's scratchpad (R417). -/
def State.serveHost (s : State) (o : Nat) : Served :=
  if s.pkg.held || s.pkg.stage = .halted then .held
  else if s.pkg.stage != .d then
    if 2 ^ 40 ≤ o && o - 2 ^ 40 < 2 ^ 24 then .bytes (physKey 1 (o - 2 ^ 40)) else .held
  else if o < 2 ^ 40 then s.serveStack o
  else if paOk 1 (o - 2 ^ 40) false then .bytes (physKey 1 (o - 2 ^ 40))
  else .held

/-- An access to a FAILED stack from outside, which its controller counts and logs (R387, R405). -/
def State.countHost (s : State) (n pa : Nat) : State := s.onStack n fun k => k.event 2 (64 * (pa / 64)) (Config.channelOf (64 * (pa / 64))).toNat

/-- n bytes at a key as the host or another package reads them; those of lost granules are free values (DESIGN CHOICE:
assumption 42). -/
def State.outerBytes (s : State) (k n : Nat) : List Byte :=
  (List.range n).map fun i => if s.isLost (k + i) 1 then Config.lostByte (s.free + i) else s.byte (k + i)

/-- Free values drawn for n bytes. -/
def State.drawN (s : State) (n : Nat) : State := { s with free := s.free + n }

/-- The runs of ones of a 64-bit byte mask: first byte and length. -/
def maskRuns (mask : Nat) : List (Nat × Nat) :=
  (List.range 64).filterMap fun i =>
    if mask.testBit i && (i == 0 || !mask.testBit (i - 1)) then
      some (i, ((List.range (64 - i)).takeWhile fun j => mask.testBit (i + j)).length)
    else none

/-- The bytes of a granule that a run of the mask writes. -/
def dataBytes (data i n : Nat) : List Byte := toBytes n (data / 256 ^ i)

/-- The runs of a masked write, each a write event. -/
def State.storeMask (s : State) (k mask data : Nat) : State :=
  (maskRuns mask).foldl (fun (t : State) r => t.store (k + r.1) (dataBytes data r.1 r.2)) s

/-! ### Host transactions (R404) -/

/-- A read stays inside one granule, as a transaction does. -/
def inGranule (a n : Nat) : Bool := 0 < n && a % 64 + n ≤ 64

/-- HOST_READ (R404-R406): of a register, or of device memory; a lost stack reads all ones, and counts it. With one step at
a time every host read follows what came before it, whatever ORD says. -/
def execHostRead (addr : DWord) (size : Nat) (_ord : Bool) (s : State) : Host.Outcome State Fault Refusal :=
  let a := addr.toNat
  if !inGranule a size then .refused (.notEnabled "HOST_READ")
  else
    match inAperture a s.pkg.hrwbase.toNat (2 ^ 25), inAperture a s.pkg.hmabase.toNat (2 ^ 41) with
    | some o, _ => .next (s.readWindow o size)
    | none, some o =>
      match s.serveHost o with
      | .bytes k => .next ((s.drawN size).answer (ofBytes (s.outerBytes k size)))
      | .lostStack n => .next ((s.countHost n o).answer (256 ^ size - 1))
      | .held => .refused (.notEnabled "HOST_READ")
    | none, none => .refused (.notEnabled "HOST_READ")

/-- HOST_WRITE (R404-R406): to a register, or to device memory under the byte mask; a lost stack discards it, and counts
it. -/
def execHostWrite (addr : DWord) (mask data : Nat) (_ord : Bool) (s : State) : Host.Outcome State Fault Refusal :=
  let a := addr.toNat
  if a % 64 != 0 || 2 ^ 64 ≤ mask then .refused (.notEnabled "HOST_WRITE")
  else
    match inAperture a s.pkg.hrwbase.toNat (2 ^ 25), inAperture a s.pkg.hmabase.toNat (2 ^ 41) with
    | some o, _ =>
      match maskRuns mask with
      | [(i, n)] => if i % n == 0 then s.writeWindow (o + i) n (data / 256 ^ i % 256 ^ n) else .next s
      | _ => .next s
    | none, some o =>
      match s.serveHost o with
      | .bytes k => .next (s.storeMask k mask data)
      | .lostStack n => .next (s.countHost n o)
      | .held => .refused (.notEnabled "HOST_WRITE")
    | none, none => .refused (.notEnabled "HOST_WRITE")

/-! ### Accesses of other packages (R411) -/

/-- REMOTE_ACCESS (R411), which comes over a port that carries traffic: served inside an export window, with a stack's access routed to its owner, or to none, as the host's is (R405);
one that the windows refuse changes nothing here. -/
def execRemoteAccess (acc : RemoteAccess) (s : State) : Host.Outcome State Fault Refusal :=
  let n := if acc.write then acc.data.length else acc.len
  if s.pkg.stage != .d || !s.ports.any Port.carries || n = 0 || !inGranule acc.pa n || !paOk 3 acc.pa false || 2 ^ 52 ≤ acc.pa
      || remotePkg acc.pa != (fld s.fe.domid 0 6).toNat then .refused (.notEnabled "REMOTE_ACCESS")
  else if !s.fe.exports acc.pa n acc.write then .next s
  else
    let tgt := if acc.pa / 2 ^ 44 % 4 = 0 then s.serveStack (acc.pa % 2 ^ 40) else .bytes (exportKey acc.pa)
    match tgt with
    | .held => .refused (.notEnabled "REMOTE_ACCESS")
    | .bytes k => if acc.write then .next (s.store k acc.data) else .next ((s.drawN n).answer (ofBytes (s.outerBytes k n)))
    | .lostStack m =>
      let s := s.countHost m (acc.pa % 2 ^ 40)
      if acc.write then .next s else .next (s.answer (256 ^ n - 1))

/-! ### Horhorn ports (R409, R410) -/

/-- A port changes its state, and the host is signalled (R407). -/
def State.movePort (s : State) (p : Nat) (f : Port → Port) : State := (s.onPort p f).signal 3

/-- The port steps: what a port in an admitted state becomes. -/
def portStep (name : String) (p : Nat) (ok : PortState → Bool) (f : State → State) (s : State) : Host.Outcome State Fault Refusal :=
  match s.port? p with
  | none => .refused (.notEnabled name)
  | some u => if ok u.st && !s.pkg.held then .next (f s) else .refused (.notEnabled name)

/-- FLIT_REPLAY (R409): the flit is sent again from its sequence number; RETRY counts, and saturates (R410). The replays of one flit in
succession are counted; at the limit of 16 the port trains again and replays no more. -/
def execFlitReplay (p : Nat) (s : State) : Host.Outcome State Fault Refusal :=
  if (s.port? p).any fun u => 16 ≤ u.replays then .refused (.notEnabled "FLIT_REPLAY")
  else portStep "FLIT_REPLAY" p (fun st => st == .training || st == .up || st == .degraded)
    (fun s => s.onPort p fun u =>
      { u with retry := if u.retry = 0xFFFF then u.retry else u.retry + 1, replays := u.replays + 1 }) s

/-- REPLAY_LIMIT (R410): after 16 replays of one flit in succession the port trains again, its flits held. -/
def execReplayLimit (p : Nat) (s : State) : Host.Outcome State Fault Refusal :=
  if (s.port? p).all fun u => u.replays < 16 then .refused (.notEnabled "REPLAY_LIMIT")
  else
    portStep "REPLAY_LIMIT" p (fun st => st == .up || st == .degraded)
      (fun s => s.movePort p fun u => { u with st := .training, lanes := 0, attempts := 0, replays := 0 }) s

/-- PORT_ENABLE (R410): at Stage D. -/
def execPortEnable (p : Nat) (s : State) : Host.Outcome State Fault Refusal :=
  portStep "PORT_ENABLE" p (fun st => st == .down && s.pkg.stage == .d)
    (fun s => s.movePort p fun u => { u with st := .training, attempts := 0, replays := 0 }) s

/-- PORT_TRAINING_RESULT (R410): UP on 8 lanes, DEGRADED on 4 with 4 to 7 that pass, FAILED with fewer, and at the third attempt in
succession that fails otherwise (assumption 117). -/
def execPortTrainingResult (p lanes : Nat) (s : State) : Host.Outcome State Fault Refusal :=
  portStep "PORT_TRAINING_RESULT" p (fun st => st == .training && lanes ≤ 9)
    (fun s =>
      if lanes < 4 then s.movePort p fun u => { u with st := .failed, lanes := 0, attempts := 0 }
      else if lanes = 9 then
        if (s.port? p).any fun u => 2 ≤ u.attempts then s.movePort p fun u => { u with st := .failed, lanes := 0, attempts := 0 }
        else s.onPort p fun u => { u with attempts := u.attempts + 1 }
      else
        s.draw.movePort p fun u =>
          { u with
            st := if lanes = 8 then .up else .degraded, lanes := if lanes = 8 then 8 else 4, attempts := 0, replays := 0
            peerPkg := Config.peerPkg s.free, peerPort := Config.peerPort s.free }) s

/-- LANE_FAILURE (R410). -/
def execLaneFailure (p : Nat) (s : State) : Host.Outcome State Fault Refusal :=
  portStep "LANE_FAILURE" p (fun st => st == .up) (fun s => s.movePort p fun u => { u with st := .degraded, lanes := 4 }) s

/-- PORT_DISABLE (R410): from any state to DOWN. -/
def execPortDisable (p : Nat) (s : State) : Host.Outcome State Fault Refusal :=
  portStep "PORT_DISABLE" p (fun _ => true)
    (fun s =>
      if (s.port? p).any fun u => u.st == .down then s
      else s.movePort p fun u => { u with st := .down, lanes := 0, attempts := 0, replays := 0, peerPkg := 0, peerPort := 0 }) s

/-! ### The host attachment (R403, R405) -/

/-- APERTURE_BASE_WRITE (R405): at Stage A, on bases of their alignment. -/
def execApertureBaseWrite (hrw hma : DWord) (s : State) : Host.Outcome State Fault Refusal :=
  if s.pkg.stage = .a && !s.pkg.held && hrw.toNat % 2 ^ 25 == 0 && hma.toNat % 2 ^ 41 == 0 then
    .next (s.onPkg fun p => { p with hrwbase := hrw, hmabase := hma })
  else .refused (.notEnabled "APERTURE_BASE_WRITE")

/-- A step of a UCIe module. -/
def State.onModule (s : State) (n : Nat) (f : UcieModule → UcieModule) : State :=
  s.onPkg fun p => { p with modules := mapIf p.modules (fun (m : UcieModule) => m.n == n) f }

/-- MODULE_LEVEL_RETRY (R403): the transfer is made again, so nothing is lost. -/
def execModuleLevelRetry (mod : Nat) (s : State) : Host.Outcome State Fault Refusal :=
  if s.pkg.modules.any fun m => m.n == mod && m.up then .next (s.onModule mod fun m => { m with retries := m.retries + 1 })
  else .refused (.notEnabled "MODULE_LEVEL_RETRY")

/-- LANE_REPAIR (R403): one of the 64 lanes of a module is repaired. -/
def execLaneRepair (mod lane : Nat) (s : State) : Host.Outcome State Fault Refusal :=
  if lane < 64 && s.pkg.modules.any (fun m => m.n == mod) then
    .next (s.onModule mod fun m => { m with repaired := if m.repaired.contains lane then m.repaired else m.repaired ++ [lane] })
  else .refused (.notEnabled "LANE_REPAIR")

end Sys2Proof.Machine
end

