-- ==== Sys2Proof/Machine/Crypto.lean ====
section
/-!
DEFINITION. The cryptographic functions that R419, R421 and R422 name: SHA-384 and SHA-256 (FIPS 180-4), HMAC and HKDF (RFC 2104, RFC 5869),
ECDSA over P-384 (FIPS 186-5), and LMS with LMS_SHA256_M32_H20 and LMOTS_SHA256_N32_W8 (RFC 8554). The spec names these functions and
gives none of them; they are taken from the standards (PRESUMED: assumption 128).
-/
namespace Sys2Proof.Machine

/-! ### Numbers as bytes, most significant first -/

/-- The number that bytes stand for, most significant first. -/
def ofBytesBE (l : List Byte) : Nat := l.foldl (fun x b => 256 * x + b.toNat) 0

/-- The n bytes of a number, most significant first. -/
def toBytesBE (n x : Nat) : List Byte := (toBytes n x).reverse

/-! ### SHA-2 (FIPS 180-4) -/

/-- The round constants of SHA-384: fractions of the cube roots of the first 80 primes. -/
def sha512Rounds : List (BitVec 64) :=
  [0x428A2F98D728AE22, 0x7137449123EF65CD, 0xB5C0FBCFEC4D3B2F, 0xE9B5DBA58189DBBC,
    0x3956C25BF348B538, 0x59F111F1B605D019, 0x923F82A4AF194F9B, 0xAB1C5ED5DA6D8118,
    0xD807AA98A3030242, 0x12835B0145706FBE, 0x243185BE4EE4B28C, 0x550C7DC3D5FFB4E2,
    0x72BE5D74F27B896F, 0x80DEB1FE3B1696B1, 0x9BDC06A725C71235, 0xC19BF174CF692694,
    0xE49B69C19EF14AD2, 0xEFBE4786384F25E3, 0x0FC19DC68B8CD5B5, 0x240CA1CC77AC9C65]
  ++ [0x2DE92C6F592B0275, 0x4A7484AA6EA6E483, 0x5CB0A9DCBD41FBD4, 0x76F988DA831153B5,
    0x983E5152EE66DFAB, 0xA831C66D2DB43210, 0xB00327C898FB213F, 0xBF597FC7BEEF0EE4,
    0xC6E00BF33DA88FC2, 0xD5A79147930AA725, 0x06CA6351E003826F, 0x142929670A0E6E70,
    0x27B70A8546D22FFC, 0x2E1B21385C26C926, 0x4D2C6DFC5AC42AED, 0x53380D139D95B3DF,
    0x650A73548BAF63DE, 0x766A0ABB3C77B2A8, 0x81C2C92E47EDAEE6, 0x92722C851482353B]
  ++ [0xA2BFE8A14CF10364, 0xA81A664BBC423001, 0xC24B8B70D0F89791, 0xC76C51A30654BE30,
    0xD192E819D6EF5218, 0xD69906245565A910, 0xF40E35855771202A, 0x106AA07032BBD1B8,
    0x19A4C116B8D2D0C8, 0x1E376C085141AB53, 0x2748774CDF8EEB99, 0x34B0BCB5E19B48A8,
    0x391C0CB3C5C95A63, 0x4ED8AA4AE3418ACB, 0x5B9CCA4F7763E373, 0x682E6FF3D6B2B8A3,
    0x748F82EE5DEFB2FC, 0x78A5636F43172F60, 0x84C87814A1F0AB72, 0x8CC702081A6439EC]
  ++ [0x90BEFFFA23631E28, 0xA4506CEBDE82BDE9, 0xBEF9A3F7B2C67915, 0xC67178F2E372532B,
    0xCA273ECEEA26619C, 0xD186B8C721C0C207, 0xEADA7DD6CDE0EB1E, 0xF57D4F7FEE6ED178,
    0x06F067AA72176FBA, 0x0A637DC5A2C898A6, 0x113F9804BEF90DAE, 0x1B710B35131C471B,
    0x28DB77F523047D84, 0x32CAAB7B40C72493, 0x3C9EBE0A15C9BEBC, 0x431D67C49C100D4C,
    0x4CC5D4BECB3E42B6, 0x597F299CFC657E2A, 0x5FCB6FAB3AD6FAEC, 0x6C44198C4A475817]

/-- The round constants of SHA-256: fractions of the cube roots of the first 64 primes. -/
def sha256Rounds : List (BitVec 32) :=
  [0x428A2F98, 0x71374491, 0xB5C0FBCF, 0xE9B5DBA5, 0x3956C25B, 0x59F111F1, 0x923F82A4, 0xAB1C5ED5,
    0xD807AA98, 0x12835B01, 0x243185BE, 0x550C7DC3, 0x72BE5D74, 0x80DEB1FE, 0x9BDC06A7, 0xC19BF174,
    0xE49B69C1, 0xEFBE4786, 0x0FC19DC6, 0x240CA1CC, 0x2DE92C6F, 0x4A7484AA, 0x5CB0A9DC, 0x76F988DA,
    0x983E5152, 0xA831C66D, 0xB00327C8, 0xBF597FC7, 0xC6E00BF3, 0xD5A79147, 0x06CA6351, 0x14292967]
  ++ [0x27B70A85, 0x2E1B2138, 0x4D2C6DFC, 0x53380D13, 0x650A7354, 0x766A0ABB, 0x81C2C92E, 0x92722C85,
    0xA2BFE8A1, 0xA81A664B, 0xC24B8B70, 0xC76C51A3, 0xD192E819, 0xD6990624, 0xF40E3585, 0x106AA070,
    0x19A4C116, 0x1E376C08, 0x2748774C, 0x34B0BCB5, 0x391C0CB3, 0x4ED8AA4A, 0x5B9CCA4F, 0x682E6FF3,
    0x748F82EE, 0x78A5636F, 0x84C87814, 0x8CC70208, 0x90BEFFFA, 0xA4506CEB, 0xBEF9A3F7, 0xC67178F2]

/-- The initial hash value of SHA-384. -/
def sha384Start : List (BitVec 64) :=
  [0xCBBB9D5DC1059ED8, 0x629A292A367CD507, 0x9159015A3070DD17, 0x152FECD8F70E5939,
    0x67332667FFC00B31, 0x8EB44A8768581511, 0xDB0C2E0D64F98FA7, 0x47B5481DBEFA4FA4]

/-- The initial hash value of SHA-256. -/
def sha256Start : List (BitVec 32) :=
  [0x6A09E667, 0xBB67AE85, 0x3C6EF372, 0xA54FF53A, 0x510E527F, 0x9B05688C, 0x1F83D9AB, 0x5BE0CD19]

/-- What distinguishes the SHA-2 functions of a word width: round constants, and the amounts of the four sigma functions, whose third one is
a shift in the two small ones. -/
structure Sha (w : Nat) where
  rounds : List (BitVec w)
  up0 : Nat × Nat × Nat
  up1 : Nat × Nat × Nat
  lo0 : Nat × Nat × Nat
  lo1 : Nat × Nat × Nat

/-- The functions on 64-bit and on 32-bit words. -/
def sha512Kind : Sha 64 := ⟨sha512Rounds, (28, 34, 39), (14, 18, 41), (1, 8, 7), (19, 61, 6)⟩
def sha256Kind : Sha 32 := ⟨sha256Rounds, (2, 13, 22), (6, 11, 25), (7, 18, 3), (17, 19, 10)⟩

/-- The sigma functions. -/
def bigSigma {w : Nat} (n : Nat × Nat × Nat) (x : BitVec w) : BitVec w := x.rotateRight n.1 ^^^ x.rotateRight n.2.1 ^^^ x.rotateRight n.2.2
def smallSigma {w : Nat} (n : Nat × Nat × Nat) (x : BitVec w) : BitVec w := x.rotateRight n.1 ^^^ x.rotateRight n.2.1 ^^^ (x >>> n.2.2)

/-- The message schedule, newest word first, n words longer. -/
def Sha.expand {w : Nat} (k : Sha w) : Nat → List (BitVec w) → List (BitVec w)
  | 0, l => l
  | n + 1, l => k.expand n ((smallSigma k.lo1 (l.getD 1 0) + l.getD 6 0 + smallSigma k.lo0 (l.getD 14 0) + l.getD 15 0) :: l)

/-- The eight working variables. -/
structure ShaVars (w : Nat) where
  a : BitVec w
  b : BitVec w
  c : BitVec w
  d : BitVec w
  e : BitVec w
  f : BitVec w
  g : BitVec w
  h : BitVec w

/-- One round, with its constant and its word of the schedule. -/
def Sha.round {w : Nat} (k : Sha w) (v : ShaVars w) (kw : BitVec w × BitVec w) : ShaVars w :=
  let t1 := v.h + bigSigma k.up1 v.e + ((v.e &&& v.f) ^^^ (~~~v.e &&& v.g)) + kw.1 + kw.2
  let t2 := bigSigma k.up0 v.a + ((v.a &&& v.b) ^^^ (v.a &&& v.c) ^^^ (v.b &&& v.c))
  ⟨t1 + t2, v.a, v.b, v.c, v.d + t1, v.e, v.f, v.g⟩

/-- One block of 16 words compressed into the hash value. -/
def Sha.compress {w : Nat} (k : Sha w) (h block : List (BitVec w)) : List (BitVec w) :=
  let ws := (k.expand (k.rounds.length - 16) block.reverse).reverse
  let x (i : Nat) : BitVec w := h.getD i 0
  let v := (k.rounds.zip ws).foldl k.round ⟨x 0, x 1, x 2, x 3, x 4, x 5, x 6, x 7⟩
  [x 0 + v.a, x 1 + v.b, x 2 + v.c, x 3 + v.d, x 4 + v.e, x 5 + v.f, x 6 + v.g, x 7 + v.h]

/-- n words of w bits from bytes. -/
def wordsBE (w : Nat) : Nat → List Byte → List (BitVec w)
  | 0, _ => []
  | n + 1, l => BitVec.ofNat w (ofBytesBE (l.take (w / 8))) :: wordsBE w n (l.drop (w / 8))

/-- n blocks of a padded message compressed in turn. -/
def Sha.blocks {w : Nat} (k : Sha w) : Nat → List (BitVec w) → List Byte → List (BitVec w)
  | 0, h, _ => h
  | n + 1, h, l => k.blocks n (k.compress h (wordsBE w 16 (l.take (2 * w)))) (l.drop (2 * w))

/-- A message with its padding: a one bit, zeros, and its length in bits. -/
def shaPad (w : Nat) (m : List Byte) : List Byte :=
  m ++ 0x80 :: List.replicate ((2 * w - (m.length + 1 + w / 4) % (2 * w)) % (2 * w)) 0 ++ toBytesBE (w / 4) (8 * m.length)

/-- The whole hash, of n words. -/
def Sha.hash {w : Nat} (k : Sha w) (start : List (BitVec w)) (n : Nat) (m : List Byte) : List Byte :=
  let p := shaPad w m
  ((k.blocks (p.length / (2 * w)) start p).take n).flatMap fun x => toBytesBE (w / 8) x.toNat

/-- SHA-384 and SHA-256. -/
def sha384 (m : List Byte) : List Byte := sha512Kind.hash sha384Start 6 m
def sha256 (m : List Byte) : List Byte := sha256Kind.hash sha256Start 8 m

/-! ### HMAC and HKDF with SHA-384 (RFC 2104, RFC 5869) -/

/-- HMAC-SHA-384. -/
def hmac384 (key m : List Byte) : List Byte :=
  let k := if 128 < key.length then sha384 key else key
  let k := k ++ List.replicate (128 - k.length) 0
  sha384 (k.map (fun (b : Byte) => b ^^^ 0x5C) ++ sha384 (k.map (fun (b : Byte) => b ^^^ 0x36) ++ m))

/-- HKDF-SHA-384 of an output of at most 48 bytes. -/
def hkdf384 (salt ikm info : List Byte) (n : Nat) : List Byte := (hmac384 (hmac384 salt ikm) (info ++ [1])).take n

/-! ### ECDSA over P-384 (FIPS 186-5) -/

/-- The prime, the order of the base point, the coefficient b and the base point of P-384. -/
def p384Prime : Nat := 2 ^ 384 - 2 ^ 128 - 2 ^ 96 + 2 ^ 32 - 1
def p384Order : Nat := 0xFFFFFFFFFFFFFFFFFFFFFFFFFFFFFFFFFFFFFFFFFFFFFFFFC7634D81F4372DDF581A0DB248B0A77AECEC196ACCC52973
def p384B : Nat := 0xB3312FA7E23EE7E4988E056BE3F82D19181D9C6EFE8141120314088F5013875AC656398D8A2ED19D2A85C8EDD3EC2AEF
def p384Base : Nat × Nat :=
  (0xAA87CA22BE8B05378EB1C71EF320AD746E1D3B628BA79B9859F741E082542A385502F25DBF55296C3A545E3872760AB7,
   0x3617DE4A96262C6F5D9E98BF9292DC29F8F41DBD289A147CE9DA3113B5F0B8C00A60B1CE1D7E819D7A431D7C90EA0E5F)

/-- A power modulo m, of an exponent of 384 bits. -/
def powMod (m x e : Nat) : Nat :=
  (List.range 384).foldl (fun acc i => if e.testBit (383 - i) then acc * acc % m * x % m else acc * acc % m) 1

/-- The inverse modulo a prime. -/
def invMod (m x : Nat) : Nat := powMod m (x % m) (m - 2)

/-- A difference modulo the prime of P-384. -/
def subP (x y : Nat) : Nat := (x + (p384Prime - y % p384Prime)) % p384Prime

/-- A chord's or a tangent's third point, reflected. -/
def ecLine (l : Nat) (p q : Nat × Nat) : Nat × Nat :=
  let x := subP (subP (l * l) p.1) q.1
  (x, subP (l * subP p.1 x) p.2)

/-- The sum of two points; none is the point at infinity. -/
def ecAdd (p q : Option (Nat × Nat)) : Option (Nat × Nat) :=
  match p, q with
  | none, q => q
  | p, none => p
  | some p, some q =>
    if p.1 = q.1 then
      if (p.2 + q.2) % p384Prime = 0 then none
      else some (ecLine (subP (3 * p.1 * p.1) 3 * invMod p384Prime (2 * p.2) % p384Prime) p q)
    else some (ecLine (subP q.2 p.2 * invMod p384Prime (subP q.1 p.1) % p384Prime) p q)

/-- A multiple of a point, by a factor of 384 bits. -/
def ecMul (k : Nat) (p : Nat × Nat) : Option (Nat × Nat) :=
  (List.range 384).foldl (fun acc i => let d := ecAdd acc acc; if k.testBit (383 - i) then ecAdd d (some p) else d) none

/-- A point of the curve. -/
def onCurve (p : Nat × Nat) : Bool :=
  p.1 < p384Prime && p.2 < p384Prime && p.2 * p.2 % p384Prime == subP (p.1 * p.1 * p.1 + p384B) (3 * p.1)

/-- A signature r, s of a message's SHA-384 hash verifies under a public key. -/
def ecdsaVerify (q : Nat × Nat) (m : List Byte) (r s : Nat) : Bool :=
  let n := p384Order
  let w := invMod n s
  onCurve q && 1 ≤ r && r < n && 1 ≤ s && s < n
    && (match ecAdd (ecMul (ofBytesBE (sha384 m) * w % n) p384Base) (ecMul (r * w % n) q) with
      | some x => x.1 % n == r
      | none => false)

/-- The signature of a message by a private key, with the per-message number k. -/
def ecdsaSign (d k : Nat) (m : List Byte) : Nat × Nat :=
  let n := p384Order
  let r := ((ecMul k p384Base).map (·.1 % n)).getD 0
  (r, invMod n k * ((ofBytesBE (sha384 m) + r * d) % n) % n)

/-- The public key of a private key: x, then y. -/
def ecdsaPublic (d : Nat) : List Byte := (ecMul d p384Base).elim [] fun p => toBytesBE 48 p.1 ++ toBytesBE 48 p.2

/-! ### LMS (RFC 8554) -/

/-- The hash of a tagged string: an identifier, a 32-bit number, and bytes. -/
def lmsHash (id : List Byte) (q : Nat) (rest : List Byte) : List Byte := sha256 (id ++ toBytesBE 4 q ++ rest)

/-- n steps of chain i from step j on (LM-OTS, W8). -/
def otsChain (id : List Byte) (q i : Nat) : Nat → Nat → List Byte → List Byte
  | 0, _, x => x
  | n + 1, j, x => otsChain id q i n (j + 1) (lmsHash id q (toBytesBE 2 i ++ toBytesBE 1 j ++ x))

/-- The 34 digits of a message: its hash and the checksum. -/
def otsDigits (id : List Byte) (q : Nat) (c m : List Byte) : List Nat :=
  let h := (lmsHash id q (toBytesBE 2 0x8181 ++ c ++ m)).map BitVec.toNat
  let sum := (h.map (255 - ·)).foldl (· + ·) 0
  h ++ [sum / 256 % 256, sum % 256]

/-- The LM-OTS public key that the ends of the chains give. -/
def otsPublic (id : List Byte) (q : Nat) (ends : List (List Byte)) : List Byte := lmsHash id q (toBytesBE 2 0x8080 ++ ends.flatten)

/-- A leaf and an inner node of the tree. -/
def lmsLeafNode (id : List Byte) (q : Nat) (k : List Byte) : List Byte := lmsHash id (2 ^ 20 + q) (toBytesBE 2 0x8282 ++ k)
def lmsInner (id : List Byte) (r : Nat) (a b : List Byte) : List Byte := lmsHash id r (toBytesBE 2 0x8383 ++ a ++ b)

/-- The root that a node and the siblings on its way give. -/
def lmsClimb (id : List Byte) : List (List Byte) → Nat → List Byte → List Byte
  | [], _, x => x
  | y :: r, n, x => lmsClimb id r (n / 2) (if n % 2 = 1 then lmsInner id (n / 2) y x else lmsInner id (n / 2) x y)

/-- Bytes cut into n pieces of 32. -/
def pieces32 : Nat → List Byte → List (List Byte)
  | 0, _ => []
  | n + 1, l => l.take 32 :: pieces32 n (l.drop 32)

/-- The type codes of LMOTS_SHA256_N32_W8 and LMS_SHA256_M32_H20. -/
def otsType : Nat := 4
def lmsType : Nat := 8

/-- A signature of 1,772 bytes verifies under a public key of 56 bytes. -/
def lmsVerify (key m sig : List Byte) : Bool :=
  let at_ (i n : Nat) : List Byte := (sig.drop i).take n
  let id := (key.drop 8).take 16
  let q := ofBytesBE (at_ 0 4)
  let digits := otsDigits id q (at_ 8 32) m
  let ends := (pieces32 34 (at_ 40 1088)).mapIdx fun i y => otsChain id q i (255 - digits.getD i 0) (digits.getD i 0) y
  key.length == 56 && sig.length == 1772 && ofBytesBE (key.take 4) == lmsType && ofBytesBE ((key.drop 4).take 4) == otsType
    && ofBytesBE (at_ 4 4) == otsType && ofBytesBE (at_ 1128 4) == lmsType && q < 2 ^ 20
    && lmsClimb id (pieces32 20 (at_ 1132 640)) (2 ^ 20 + q) (lmsLeafNode id q (otsPublic id q ends)) == key.drop 24

/-- The start of chain i of leaf q, as appendix A of RFC 8554 derives it from a seed. -/
def otsStart (id seed : List Byte) (q i : Nat) : List Byte := lmsHash id q (toBytesBE 2 i ++ 0xFF :: seed)

/-- A node of the tree of a seed, h levels above the leaves. -/
def lmsNode (id seed : List Byte) : Nat → Nat → List Byte
  | 0, r =>
    let q := r - 2 ^ 20
    lmsLeafNode id q (otsPublic id q ((List.range 34).map fun i => otsChain id q i 255 0 (otsStart id seed q i)))
  | h + 1, r => lmsInner id r (lmsNode id seed h (2 * r)) (lmsNode id seed h (2 * r + 1))

/-- The public key of a seed. -/
def lmsPublic (id seed : List Byte) : List Byte := toBytesBE 4 lmsType ++ toBytesBE 4 otsType ++ id ++ lmsNode id seed 20 1

/-- The signature of a message with leaf q and the randomizer c. -/
def lmsSign (id seed : List Byte) (q : Nat) (c m : List Byte) : List Byte :=
  let digits := otsDigits id q c m
  toBytesBE 4 q ++ toBytesBE 4 otsType ++ c
    ++ ((List.range 34).flatMap fun i => otsChain id q i (digits.getD i 0) 0 (otsStart id seed q i))
    ++ toBytesBE 4 lmsType ++ (List.range 20).flatMap fun h => lmsNode id seed h ((2 ^ 20 + q) / 2 ^ h ^^^ 1)

end Sys2Proof.Machine
end

