-- ==== Sys2Proof/Machine/Start.lean ====
section
/-!
DEFINITION. Start, reset and trust (R417-R426): the start stages with the checks of images and records, the management
mailbox, the three kinds of reset, and the sensor sweep with its hold and release (R33, R35).
-/
namespace Sys2Proof.Machine

/-! ### Images and records (R419, R420) -/

/-- Bytes 0x00 to 0x3F of an image: what the signatures cover. -/
def Image.header (i : Image) : List Byte :=
  toBytes 4 i.magic.toNat ++ toBytes 2 i.kind ++ toBytes 2 i.keyslot ++ toBytes 4 i.version ++ toBytes 4 i.body.length
    ++ toBytes 48 i.digest

/-- The image that staged bytes hold, once they reach its LENGTH. -/
def parseImage (b : List Byte) : Option Image :=
  let len := fieldOf b 0x0C 4
  if b.length < 0x790 + len then none
  else
    some
      { magic := BitVec.ofNat 32 (fieldOf b 0 4), kind := fieldOf b 4 2, keyslot := fieldOf b 6 2, version := fieldOf b 8 4,
        digest := fieldOf b 0x10 48, ecdsa := fieldOf b 0x40 96, lmslen := fieldOf b 0xA0 4, lms := fieldOf b 0xA4 1772,
        body := (b.drop 0x790).take len }

/-- The bytes of the two public keys at the start of a body: the ECDSA key's x and y, and the LMS key (DEDUCED: assumption 53). -/
def ecdsaKeyBytes : Nat := 96
def lmsKeyBytes : Nat := 56

/-- The public keys that an image carries. -/
def Image.ecdsaKey (i : Image) : List Byte := i.body.take ecdsaKeyBytes
def Image.lmsKey (i : Image) : List Byte := (i.body.drop ecdsaKeyBytes).take lmsKeyBytes

/-- The keys are those whose digests the ROM holds for the image's key slot. -/
def Image.keysInRom (i : Image) : Bool :=
  ofBytesBE (sha384 i.ecdsaKey) == (Config.romEcdsa i.keyslot).toNat && ofBytesBE (sha384 i.lmsKey) == (Config.romLms i.keyslot).toNat

/-- Both signatures verify over the header; r and s lie big-endian. -/
def Image.signed (i : Image) : Bool :=
  let e := toBytes 96 i.ecdsa
  ecdsaVerify (ofBytesBE (i.ecdsaKey.take 48), ofBytesBE (i.ecdsaKey.drop 48)) i.header (ofBytesBE (e.take 48)) (ofBytesBE (e.drop 48))
    && lmsVerify i.lmsKey i.header (toBytes 1772 i.lms)

/-- The checks of R419, against the minimum versions in force. -/
def Image.accepted (i : Image) (minver : List Nat) : Bool :=
  i.magic == 0x47535842 && 1 ≤ i.kind && i.kind ≤ 7 && i.keyslot < 4 && minver.getD i.kind 0 ≤ i.version && i.lmslen == 1772
    && ofBytes (sha384 i.body) == i.digest && i.keysInRom && i.signed

/-- The first accepted image of a kind in flash. -/
def imageOf (flash : List (Nat × Image)) (minver : List Nat) (kind : Nat) : Option Image :=
  (flash.find? fun e => e.2.kind == kind && e.2.accepted minver).map (·.2)

/-- The fields of a configuration record: its body behind the two public keys that R419 puts at its start (DEDUCED: assumption 53). -/
def Image.fields (i : Image) : List Byte := i.body.drop (ecdsaKeyBytes + lmsKeyBytes)

/-- The minimum versions that the accepted MINVER record names (R420). -/
def minverOf (flash : List (Nat × Image)) : List Nat :=
  match flash.find? fun e => e.2.kind == 6 && e.2.accepted ((List.range 8).map fun k => if k = 6 then fieldOf e.2.fields 24 4 else 0) with
  | some e => (List.range 8).map fun k => fieldOf e.2.fields (4 * k) 4
  | none => []

/-- Two images of one kind, and of one die where the kind has one for each: flash holds one of them (R420). -/
def Image.alike (i j : Image) : Bool := i.kind == j.kind && (i.kind != 4 || fieldOf i.fields 0 1 == fieldOf j.fields 0 1)

/-- Staged images that verify take the place of the old ones of their kind; the others stay beside them (R420). -/
def Package.takeStaged (p : Package) : Package :=
  let minver := minverOf p.flash
  p.staged.foldl
    (fun (q : Package) e =>
      match parseImage e.2 with
      | some i =>
        if i.accepted minver then
          { q with flash := q.flash.filter (fun x => !x.2.alike i) ++ [(e.1, i)], staged := q.staged.filter fun x => x.1 != e.1 }
        else q
      | none => q)
    p

/-- The enable mask that a die's record gives (R16, R418): none where it is missing, fails, or has fewer than 144 bits. -/
def dieMask (flash : List (Nat × Image)) (minver : List Nat) (die : Nat) : Option (BitVec 156) :=
  match flash.find? fun e => e.2.kind == 4 && e.2.accepted minver && fieldOf e.2.fields 0 1 == die with
  | none => none
  | some e =>
    let m := fieldOf e.2.fields 1 20
    if m < 2 ^ 156 && 144 ≤ ((List.range 156).filter fun i => m.testBit i).length then some (BitVec.ofNat 156 m) else none

/-! ### The identity keys (R421, R422) -/

/-- The ECDSA identity key of a seed, and its LMS identity seed: HKDF-SHA-384, whose salt and contexts the spec does not give (assumption
44). -/
def identityKey (seed : BitVec 384) : BitVec 384 :=
  BitVec.ofNat 384 (ofBytesBE (hkdf384 Config.hkdfSalt (toBytesBE 48 seed.toNat) Config.keyInfo 48) % (p384Order - 1) + 1)
def identitySeed (seed : BitVec 384) : BitVec 256 :=
  BitVec.ofNat 256 (ofBytesBE (hkdf384 Config.hkdfSalt (toBytesBE 48 seed.toNat) Config.lmsInfo 32))

/-- The identifier of the LMS key of an identity seed. -/
def lmsIdOf (seed : BitVec 256) : List Byte := toBytesBE 16 (Config.lmsId seed).toNat

/-- The two public identity keys, as an IDCERT holds them (R420). -/
def identityPublic (key : BitVec 384) (seed : BitVec 256) : List Byte :=
  ecdsaPublic key.toNat ++ lmsPublic (lmsIdOf seed) (toBytesBE 32 seed.toNat)

/-- Both identity signatures over a report, 96 and 1,772 bytes, with the free numbers of draw n. -/
def identitySignatures (key : BitVec 384) (seed : BitVec 256) (leaf n : Nat) (report : List Byte) : List Byte :=
  let (r, s) := ecdsaSign key.toNat (Config.signNumber n) report
  toBytesBE 48 r ++ toBytesBE 48 s
    ++ lmsSign (lmsIdOf seed) (toBytesBE 32 seed.toNat) leaf (toBytesBE 32 (Config.lmsRandom n).toNat) report

/-! ### The stages (R417, R418) -/

/-- HALTED with a cause; no further stage is taken. -/
def State.halt (s : State) (cause : Nat) : State :=
  s.onPkg fun p => { p with stage := .halted, stageDue := false, cause := BitVec.ofNat 8 cause }

/-- What Stage A finds: a cause of HALTED, or the package number, the enable masks and the dies in service. -/
def Package.stageA (p : Package) : Except Nat (Nat × List (BitVec 156) × BitVec 4) :=
  let minver := minverOf p.flash
  let masks := (List.range 4).map (dieMask p.flash minver)
  match imageOf p.flash minver 1 with
  | none => .error 1
  | some _ =>
    match imageOf p.flash minver 5, imageOf p.flash minver 6 with
    | some r, some _ =>
      let k := fieldOf r.fields 0 r.fields.length
      if 64 ≤ k then .error 2
      else if masks.all Option.isNone then .error 5
      else
        match imageOf p.flash minver 7 with
        | some c =>
          let seed := Config.pufSeed p.helper
          if c.fields == identityPublic (identityKey seed) (identitySeed seed) then .ok (k, masks.map fun m => m.getD 0, BitVec.ofNat 4 (ofBits (masks.map Option.isSome)))
          else .error 3
        | none => .error 3
    | _, _ => .error 2

/-- No stage goes on: temperature holds the device in reset (R35), or a reset that was acknowledged is to abandon the start (R418). -/
def Package.blocked (p : Package) : Bool := p.held || p.pendingReset.isSome

/-- A stage step asked for where the part does not take it: in HALTED it takes none any more. -/
def State.noStage (s : State) (name : String) : Host.Outcome State Fault Refusal :=
  if s.pkg.stage = .halted then .fault .halted else .refused (.notEnabled name)

/-- STAGE_A (R417-R421): firmware and records are verified and the identity key is derived; or HALTED. -/
def execStageA (s : State) : Host.Outcome State Fault Refusal :=
  if s.pkg.stage != .a || !s.pkg.stageDue || s.pkg.blocked then s.noStage "STAGE_A"
  else
    let s := s.onPkg Package.takeStaged
    match s.pkg.stageA with
    | .error c => .next (s.halt c)
    | .ok (k, masks, ok) =>
      .next
        ((s.onPkg fun p =>
            { p with
              stage := .b, stageDue := true, minver := minverOf p.flash, enmask := masks, dieok := ok
              idKey := some (identityKey (Config.pufSeed p.helper)), lmsSeed := some (identitySeed (Config.pufSeed p.helper)) }).onFe
          fun f => { f with domid := BitVec.ofNat 32 k })

/-- A stack that start need not wait for any more (R417). -/
def Stack.settled (k : Stack) : Bool := k.st != .training

/-- STAGE_B (R417, R418): the BDC firmware is verified and loaded, a stack without it is FAILED; the stage ends when every
stack is OWNED or FAILED. -/
def execStageB (s : State) : Host.Outcome State Fault Refusal :=
  if s.pkg.stage != .b || s.pkg.blocked then s.noStage "STAGE_B"
  else if s.pkg.stageDue then
    let ok := (imageOf s.pkg.flash s.pkg.minver 2).isSome
    .next
      { s with
        pkg := { s.pkg with stageDue := false }
        mstacks := s.mstacks.map fun (k : Stack) => { k with fwOk := ok, st := if ok then k.st else .failed } }
  else if s.mstacks.all Stack.settled then .next (s.onPkg fun p => { p with stage := .c, stageDue := true })
  else .refused (.notEnabled "STAGE_B")

/-- One bit of the reflected CRC-32C (R115). -/
def crcBit (c : Nat) : Nat := if c % 2 = 1 then (c / 2) ^^^ 0x82F63B78 else c / 2

/-- One byte of it. -/
def crcByte (c : Nat) (b : Byte) : Nat := (List.range 8).foldl (fun x _ => crcBit x) (c ^^^ b.toNat)

/-- CRC-32C of bytes (R115). -/
def crc32c (bs : List Byte) : Nat := (bs.foldl crcByte 0xFFFFFFFF) ^^^ 0xFFFFFFFF

/-- The module signature: over the enable masks of the four dies, those of a die held in reset as zero (R115). -/
def moduleSignature (masks : List (BitVec 156)) : Word :=
  BitVec.ofNat 32 (crc32c (((List.range 4).map fun d => toBytes 20 (masks.getD d 0).toNat).flatten))

/-- STAGE_C (R417, R418): the bitstream is verified and loaded, the signature is computed and the four modules run at full
rate; or HALTED. -/
def execStageC (s : State) : Host.Outcome State Fault Refusal :=
  if s.pkg.stage != .c || !s.pkg.stageDue || s.pkg.blocked then s.noStage "STAGE_C"
  else
    match imageOf s.pkg.flash s.pkg.minver 3 with
    | none => .next (s.halt 4)
    | some _ =>
      .next (s.onPkg fun p =>
        { p with
          stageDue := false, signature := moduleSignature p.enmask
          modules := p.modules.map fun (m : UcieModule) => { m with up := true, full := true } })

/-- STAGE_D (R417): entered with the diagnostic scratchpad cleared; the dispatchers run and the Horhorn ports are enabled. -/
def execStageD (s : State) : Host.Outcome State Fault Refusal :=
  if s.pkg.stage != .c || s.pkg.stageDue || s.pkg.blocked then s.noStage "STAGE_D"
  else
    let lo := scratchKey 0 0
    let s :=
      { s with
        mem := Sparse.clear s.mem lo (2 ^ 24), lost := s.lost.filter fun q => !(lo / 64 ≤ q && q < lo / 64 + 2 ^ 18)
        pkg := { s.pkg with stage := .d } }
    .next (s.ports.foldl
      (fun (t : State) (u : Port) => if u.st = .down then t.movePort u.n fun v => { v with st := .training } else t) s)

/-! ### Resets (R389, R426) -/

/-- The memory that a reset of the device keeps: the host's and the other packages', and with preserve the DRAM. -/
def keptKey (preserve : Bool) (k : Nat) : Bool := k / 2 ^ 64 == 2 || k / 2 ^ 64 == 3 || (preserve && k / 2 ^ 64 == 0)

/-- A stack after a reset of the device: retrained; repair maps are kept, and by a warm reset counters and log too. -/
def Stack.again (k : Stack) (warm : Bool) : Stack :=
  if warm then
    { Stack.reset k.n with repairs := k.repairs, cecnt := k.cecnt, uecnt := k.uecnt, logovf := k.logovf, lseq := k.lseq, log := k.log }
  else { Stack.reset k.n with repairs := k.repairs }

/-- The package controller after a reset of the device: Stage A; flash and the log are kept. -/
def Package.again (p : Package) (warm preserve : Bool) : Package :=
  { Package.reset with
    warm := warm, pres := warm && preserve, flash := p.flash, staged := p.staged, helper := p.helper, lmsLeaf := p.lmsLeaf, log := p.log
    replies := p.replies, temps := p.temps }

/-- A reset of the device (R417, R426): everything as right after reset, but for what the kind of reset keeps. Every stack-cache line is
lost (R389). -/
def State.deviceReset (s : State) (warm preserve : Bool) : State :=
  let keep := keptKey (warm && preserve)
  let s := s.dropCache fun _ => true
  { State.reset with
    mem := s.mem.filter fun c => keep c.1, lost := s.lost.filter fun q => keep (64 * q)
    mstacks := s.mstacks.map fun (k : Stack) => k.again warm
    fe := { FrontEnd.reset with notified := s.fe.notified, reads := s.fe.reads }
    pkg := s.pkg.again warm preserve, losses := s.losses, evSeq := s.evSeq, agenda := s.agenda, free := s.free }

/-- POWER_GOOD (R417): start begins at Stage A, as after a cold reset. -/
def execPowerGood (s : State) : Host.Outcome State Fault Refusal := .next (s.deviceReset false false)

/-- COLD_RESET (R426). -/
def execColdReset (s : State) : Host.Outcome State Fault Refusal :=
  match s.pkg.pendingReset with
  | some (.cold, _, _) => .next (s.deviceReset false false)
  | _ => .refused (.notEnabled "COLD_RESET")

/-- WARM_RESET (R426). -/
def execWarmReset (preserve : Bool) (s : State) : Host.Outcome State Fault Refusal :=
  match s.pkg.pendingReset with
  | some (.warm, p, _) => if p = preserve then .next (s.deviceReset true p) else .refused (.notEnabled "WARM_RESET")
  | _ => .refused (.notEnabled "WARM_RESET")

/-- A stack that a die of the set owns, or hands over (R379); one that is FAILED by the die that STKSTAT names as its owner (R388;
assumption 34). -/
def Stack.ownedBy (k : Stack) (dies : BitVec 4) : Bool :=
  match k.st with
  | .owned g | .handing g _ _ => dies.getLsbD g
  | .failed => dies.getLsbD (Config.failedOwner k.n).toNat
  | .training => false

/-- A stack after the reset of its partition: it retrains as warm (R426). -/
def Stack.retrain (k : Stack) : Stack :=
  { k with st := .training, copyA := .notOwned, copyB := .notOwned, hseq := 0, portTo := none, wake := none }

/-- A key of a stack that retrains without preserve, or of a die of the partition. -/
def State.lostByPartition (s : State) (dies : BitVec 4) (preserve : Bool) (k : Nat) : Bool :=
  if k / 2 ^ 64 = 0 then !preserve && (s.stack? (stackOf k)).any fun (q : Stack) => q.ownedBy dies
  else k / 2 ^ 64 == 1 && dies.getLsbD (k % 2 ^ 64 / 2 ^ 28)

/-- The hardware of a partition after its reset: dies as right after reset, its stacks retraining, other partitions as they
were. -/
def State.resetDies (s : State) (dies : BitVec 4) (preserve : Bool) : State :=
  let lost := s.lostByPartition dies preserve
  let mine (n : Nat) : Bool := (s.stack? n).any fun (k : Stack) => k.ownedBy dies
  let gone := (s.threads.filter fun (t : Thread) => dies.getLsbD t.die).map (·.id)
  let s := s.dropCache fun c => mine (stackOf (64 * c.line))
  { s with
    mem := s.mem.filter fun c => !lost c.1, lost := s.lost.filter fun q => !lost (64 * q)
    cores := s.cores.filter fun (c : Core) => !dies.getLsbD c.die
    threads := s.threads.filter fun (t : Thread) => !dies.getLsbD t.die
    tlb := s.tlb.filter fun (e : TlbEntry) => !dies.getLsbD e.unit.die
    dies := s.dies.map fun (d : Die) => if dies.getLsbD d.n then ⟨d.n, [], [], [], []⟩ else d
    mstacks := s.mstacks.map fun (k : Stack) => if k.ownedBy dies then k.retrain else k
    fe := { s.fe with joins := s.fe.joins.filter fun j => !gone.contains j.tid }
    turn := none
    pkg := { s.pkg with pendingReset := none } }

/-- A reset made during a start abandons it, and start begins again at Stage A, with UCIe module 0 alone, in raw streaming mode (R417,
R418). -/
def Package.abandon (p : Package) : Package :=
  if p.stage = .d || p.stage = .halted then p
  else
    { p with
      stage := .a, stageDue := true
      modules := p.modules.map fun (m : UcieModule) => { m with up := m.n == 0, full := false } }

/-- The contexts with a team in a partition that has not ended (R426). -/
def State.ctxsIn (s : State) (dies : BitVec 4) : List Nat :=
  (s.ctxs.filter fun (c : Ctx) =>
    (s.ctxTeams c.id).any fun t => t.st != .done && t.st != .killed && dies.getLsbD t.die).map fun (c : Ctx) => c.id

/-- PARTITION_RESET (R426): contexts with a team in the partition are DEAD, its stacks retrain, and its dies start anew. -/
def execPartitionReset (dies : BitVec 4) (s : State) : Host.Outcome State Fault Refusal :=
  match s.pkg.pendingReset with
  | some (.partition, p, d) =>
    if d = dies then .next ((((s.ctxsIn dies).foldl (fun (t : State) c => t.deadCtx c) s).resetDies dies p).onPkg Package.abandon)
    else .refused (.notEnabled "PARTITION_RESET")
  | _ => .refused (.notEnabled "PARTITION_RESET")

/-! ### The management mailbox (R421-R424) -/

/-- The payload of one message (R423): 64 bytes but for SEQ, OP and STATUS. -/
def payloadSize : Nat := 56

/-- The messages of a reply: consecutive ones with the same SEQ where it is longer than 56 bytes. -/
def messages (seq : Word) (op : Nat) (status : BitVec 16) (payload : List Byte) : List MgmtReply :=
  (List.range (max 1 ((payload.length + payloadSize - 1) / payloadSize))).map fun i =>
    ⟨seq, BitVec.ofNat 16 op, status, (payload.drop (payloadSize * i)).take payloadSize⟩

/-- A reply. How its payload lays its fields out is the model's choice (assumption 51). -/
def State.reply (s : State) (seq : Word) (op : Nat) (status : BitVec 16) (payload : List Byte) : State :=
  s.onPkg fun p => { p with replies := p.replies ++ messages seq op status payload }

/-- MGMT_STATUS (R423): MGMTSTAT, the duty of each die, temperatures. -/
def Package.statusBytes (p : Package) : List Byte :=
  toBytes 4 p.mgmtstat.toNat ++ p.duty.flatMap (toBytes 1) ++ p.temps.flatMap (toBytes 2)

def execMgmtStatus (seq : Word) (s : State) : Host.Outcome State Fault Refusal := .next (s.reply seq 1 0 s.pkg.statusBytes)

/-- The 32 bytes of an entry of a BDC's log (R387). -/
def BdcEntry.bytes (e : BdcEntry) : List Byte :=
  toBytes 8 e.lseq ++ toBytes 8 e.pa ++ toBytes 1 e.kind ++ toBytes 1 e.channel ++ toBytes 2 0 ++ toBytes 4 e.ce.toNat ++ toBytes 4 e.ue.toNat
    ++ toBytes 4 e.ovf.toNat

/-- What a LOG-READ reply says of an entry: its source, its event number and its fields. -/
def MgmtEntry.bytes : MgmtEntry → List Byte
  | .faultRecord n r => toBytes 1 0 ++ toBytes 8 n ++ r.bytes
  | .writeFault n c k a => toBytes 1 1 ++ toBytes 8 n ++ toBytes 2 c ++ toBytes 2 k ++ toBytes 8 a.toNat
  | .loss n c va pa => toBytes 1 2 ++ toBytes 8 n ++ toBytes 1 c ++ toBytes 8 va ++ toBytes 9 pa
  | .bdc n st e => toBytes 1 3 ++ toBytes 8 n ++ toBytes 1 st ++ e.bytes
  | .reload n => toBytes 1 4 ++ toBytes 8 n
  | .thermal n d => toBytes 1 5 ++ toBytes 8 n ++ toBytes 1 d

/-- LOG_READ (R423): the undrained entries of the management log, oldest first. -/
def execLogRead (seq : Word) (s : State) : Host.Outcome State Fault Refusal :=
  .next ((s.reply seq 2 0 (s.pkg.log.flatMap MgmtEntry.bytes)).onPkg fun p => { p with log := [] })

/-- The report of ATTEST before its signatures: the 32-byte nonce, VERSION and DIGEST of every accepted image, the module signature
and MGMTSTAT (R422). -/
def Package.report (p : Package) (nonce : Nat) : List Byte :=
  toBytes 32 nonce ++ ((p.flash.filter fun e => e.2.accepted p.minver).flatMap fun e => toBytes 4 e.2.version ++ toBytes 48 e.2.digest)
    ++ toBytes 4 p.signature.toNat ++ toBytes 4 p.mgmtstat.toNat

/-- ATTEST (R421, R422): the LMS leaf index is advanced before the signatures are released; EXHAUSTED once all 2^20 leaves
are spent. -/
def execAttest (seq : Word) (nonce : Nat) (s : State) : Host.Outcome State Fault Refusal :=
  match s.pkg.idKey with
  | none => .next (s.reply seq 3 Config.noIdentity [])
  | some key =>
    if 2 ^ 20 ≤ s.pkg.lmsLeaf then .next (s.reply seq 3 Config.exhausted [])
    else
      let leaf := s.pkg.lmsLeaf
      let r := s.pkg.report nonce
      .next ((s.draw.onPkg fun p => { p with lmsLeaf := leaf + 1 }).reply seq 3 0
        (r ++ identitySignatures key (s.pkg.lmsSeed.getD 0) leaf s.free r))

/-- The dirty lines that a reset with preserve keeps: they are in DRAM as it is acknowledged (R426). -/
def State.keepWrites (s : State) (kind : ResetKind) (preserve : Bool) (dies : BitVec 4) : State :=
  match kind, preserve with
  | .warm, true => s.writeBack fun _ => true
  | .partition, true => s.writeBack fun c => (s.stack? (stackOf (64 * c.line))).any fun k => k.ownedBy dies
  | _, _ => s

/-- MGMT_RESET (R423, R35): acknowledged before the reset begins; while temperature holds the device it takes effect at the
release. -/
def execMgmtReset (seq : Word) (kind : ResetKind) (preserve : Bool) (dies : BitVec 4) (s : State) :
    Host.Outcome State Fault Refusal :=
  let s := (s.reply seq 4 0 []).keepWrites kind preserve dies
  if s.pkg.held then
    .next (s.onPkg fun p =>
      { p with
        heldReset := some (match p.heldReset with | some q => joinResets q (kind, preserve, dies) | none => (kind, preserve, dies)) })
  else .next (s.askReset (kind, preserve, dies))

/-- Bytes with a chunk put at an offset; a gap before it holds bytes that nothing has written. -/
def putChunk (old : List Byte) (off : Nat) (chunk : List Byte) (fill : Nat → Byte) : List Byte :=
  (List.range (max old.length (off + chunk.length))).map fun i =>
    if off ≤ i && i < off + chunk.length then chunk.getD (i - off) 0 else if i < old.length then old.getD i 0 else fill i

/-- FLASH_WRITE (R420, R423): a chunk of the image staged for a slot; the image in use stays until the staged one verifies at
a start. A chunk fits a message. -/
def execFlashWrite (seq : Word) (slot off : Nat) (chunk : List Byte) (s : State) : Host.Outcome State Fault Refusal :=
  if payloadSize < chunk.length then .refused (.notEnabled "FLASH_WRITE")
  else
  let old := ((s.pkg.staged.find? fun e => e.1 == slot).map fun e => e.2).getD []
  let new := putChunk old off chunk fun i => Config.stagedByte (s.free + i)
  .next ((({ s with free := s.free + off }).onPkg fun p =>
    { p with staged := p.staged.filter (fun (e : Nat × List Byte) => e.1 != slot) ++ [(slot, new)] }).reply seq 5 0 [])

/-- MGMT_UNKNOWN_OP (R423): STATUS 0xFFFF. -/
def execMgmtUnknownOp (seq : Word) (op : BitVec 16) (s : State) : Host.Outcome State Fault Refusal :=
  if 1 ≤ op.toNat && op.toNat ≤ 5 then .refused (.notEnabled "MGMT_UNKNOWN_OP") else .next (s.reply seq op.toNat 0xFFFF [])

/-! ### Temperature (R33, R35) -/

/-- The duty of a die after a sweep: lowered above 105 °C, raised below 100 °C as far as the power envelope lets it. The spec does not say
when and how fast a duty falls that the envelope of R33 no longer takes: by one sixteenth at each sweep, also from 100 to 105 °C (DESIGN
CHOICE: assumption 47). -/
def nextDuty (d t limit : Nat) : Nat :=
  if 105 < t || limit < d then max 1 (d - 1) else if t < 100 && d < 16 && d + 1 ≤ limit then d + 1 else d

/-- The duties of the four dies after a sweep. -/
def State.sweepDuties (s : State) (ts : List Nat) : State :=
  { s with
    free := s.free + 4
    pkg := { s.pkg with
      duty := (List.range 4).map fun d => nextDuty (s.pkg.duty.getD d 16) (ts.getD d 0) (Config.envelopeDuty (s.free + d)) } }

/-- The device held in reset with DRAM in self-refresh, and the log entry (R35). -/
def State.holdHot (s : State) (die : Nat) : State :=
  let s := (s.mgmtLog (.thermal s.evSeq die)).nextSeqNo
  if s.pkg.held then s.onPkg fun p => { p with coolSweeps := 0 }
  else (s.deviceReset true true).onPkg fun p => { p with held := true, stageDue := false }

/-- SENSOR_SWEEP (R35): the PKC reads every die's sensors. Its firmware sees a wake, and clears the bit (R425; DESIGN CHOICE: assumption
118). -/
def execSensorSweep (t0 t1 t2 t3 : Nat) (s : State) : Host.Outcome State Fault Refusal :=
  let ts := [t0, t1, t2, t3]
  let s := s.onPkg fun p => { p with temps := ts, wake := none }
  match (List.range 4).find? fun d => 115 ≤ ts.getD d 0 with
  | some d => .next (s.holdHot d)
  | none =>
    if s.pkg.held then
      .next (s.onPkg fun p => { p with coolSweeps := if ts.all fun t => t < 95 then p.coolSweeps + 1 else 0 })
    else .next (s.sweepDuties ts)

/-- THERMAL_RELEASE (R35): after 64 cool sweeps a warm reset with preserve, or in its place the reset that the host asked
for. -/
def execThermalRelease (s : State) : Host.Outcome State Fault Refusal :=
  if s.pkg.held && 64 ≤ s.pkg.coolSweeps then
    match s.pkg.heldReset with
    | none => .next (s.deviceReset true true)
    | some (.cold, _, _) => .next (s.deviceReset false false)
    | some (_, p, _) => .next (s.deviceReset true p)
  else .refused (.notEnabled "THERMAL_RELEASE")

end Sys2Proof.Machine
end

