-- ==== Sys2Proof/Machine/Dispatch.lean ====
section
/-!
DEFINITION. One arm per constructor of `Instr`: the call of its meaning.
-/
namespace Sys2Proof.Machine

/-- What an instruction or hardware step does. -/
def exec (i : Instr) (s : State) : Host.Outcome State Fault Refusal :=
  match i with
  | .iaddI32 g d a b => Sys2Proof.Machine.execIaddI32 g d a b s
  | .isubI32 g d a b => Sys2Proof.Machine.execIsubI32 g d a b s
  | .imulI32 g d a b => Sys2Proof.Machine.execImulI32 g d a b s
  | .imulhiI32 g d a b => Sys2Proof.Machine.execImulhiI32 g d a b s
  | .imulhiN32 g d a b => Sys2Proof.Machine.execImulhiN32 g d a b s
  | .iminI32 g d a b => Sys2Proof.Machine.execIminI32 g d a b s
  | .iminN32 g d a b => Sys2Proof.Machine.execIminN32 g d a b s
  | .imaxI32 g d a b => Sys2Proof.Machine.execImaxI32 g d a b s
  | .imaxN32 g d a b => Sys2Proof.Machine.execImaxN32 g d a b s
  | .andB32 g d a b => Sys2Proof.Machine.execAndB32 g d a b s
  | .orB32 g d a b => Sys2Proof.Machine.execOrB32 g d a b s
  | .xorB32 g d a b => Sys2Proof.Machine.execXorB32 g d a b s
  | .andnB32 g d a b => Sys2Proof.Machine.execAndnB32 g d a b s
  | .shlB32 g d a b => Sys2Proof.Machine.execShlB32 g d a b s
  | .shrN32 g d a b => Sys2Proof.Machine.execShrN32 g d a b s
  | .shrI32 g d a b => Sys2Proof.Machine.execShrI32 g d a b s
  | .rotlB32 g d a b => Sys2Proof.Machine.execRotlB32 g d a b s
  | .popcB32 g d a => Sys2Proof.Machine.execPopcB32 g d a s
  | .clzB32 g d a => Sys2Proof.Machine.execClzB32 g d a s
  | .brevB32 g d a => Sys2Proof.Machine.execBrevB32 g d a s
  | .movB32 g d a => Sys2Proof.Machine.execMovB32 g d a s
  | .iabsI32 g d a => Sys2Proof.Machine.execIabsI32 g d a s
  | .inegI32 g d a => Sys2Proof.Machine.execInegI32 g d a s
  | .faddF32 g d a b => Sys2Proof.Machine.execFaddF32 g d a b s
  | .fsubF32 g d a b => Sys2Proof.Machine.execFsubF32 g d a b s
  | .fmulF32 g d a b => Sys2Proof.Machine.execFmulF32 g d a b s
  | .fminF32 g d a b => Sys2Proof.Machine.execFminF32 g d a b s
  | .fmaxF32 g d a b => Sys2Proof.Machine.execFmaxF32 g d a b s
  | .fabsF32 g d a => Sys2Proof.Machine.execFabsF32 g d a s
  | .fnegF32 g d a => Sys2Proof.Machine.execFnegF32 g d a s
  | .faddF64 g d a b => Sys2Proof.Machine.execFaddF64 g d a b s
  | .fsubF64 g d a b => Sys2Proof.Machine.execFsubF64 g d a b s
  | .fmulF64 g d a b => Sys2Proof.Machine.execFmulF64 g d a b s
  | .fminF64 g d a b => Sys2Proof.Machine.execFminF64 g d a b s
  | .fmaxF64 g d a b => Sys2Proof.Machine.execFmaxF64 g d a b s
  | .fabsF64 g d a => Sys2Proof.Machine.execFabsF64 g d a s
  | .fnegF64 g d a => Sys2Proof.Machine.execFnegF64 g d a s
  | .movB64 g d a => Sys2Proof.Machine.execMovB64 g d a s
  | .iaddI64 g d a b => Sys2Proof.Machine.execIaddI64 g d a b s
  | .isubI64 g d a b => Sys2Proof.Machine.execIsubI64 g d a b s
  | .litI op g d a lit => Sys2Proof.Machine.execLitI op g d a lit s
  | .litF op g d a lit => Sys2Proof.Machine.execLitF op g d a lit s
  | .litMov g d lit => Sys2Proof.Machine.execLitMov g d lit s
  | .icmpI32 g c p a b => Sys2Proof.Machine.execIcmpI32 g c p a b s
  | .icmpN32 g c p a b => Sys2Proof.Machine.execIcmpN32 g c p a b s
  | .icmpI64 g c p a b => Sys2Proof.Machine.execIcmpI64 g c p a b s
  | .icmpN64 g c p a b => Sys2Proof.Machine.execIcmpN64 g c p a b s
  | .fcmpF32 g c p a b => Sys2Proof.Machine.execFcmpF32 g c p a b s
  | .fcmpF64 g c p a b => Sys2Proof.Machine.execFcmpF64 g c p a b s
  | .pand g p q r => Sys2Proof.Machine.execPand g p q r s
  | .por g p q r => Sys2Proof.Machine.execPor g p q r s
  | .pxor g p q r => Sys2Proof.Machine.execPxor g p q r s
  | .pandn g p q r => Sys2Proof.Machine.execPandn g p q r s
  | .xchAt g d a b => Sys2Proof.Machine.execXchAt g d a b s
  | .xchSub g d a b => Sys2Proof.Machine.execXchSub g d a b s
  | .xchAdd g d a b => Sys2Proof.Machine.execXchAdd g d a b s
  | .xchFlip g d a b => Sys2Proof.Machine.execXchFlip g d a b s
  | .cenAll g p q => Sys2Proof.Machine.execCenAll g p q s
  | .cenAny g p q => Sys2Proof.Machine.execCenAny g p q s
  | .cenBits g d q => Sys2Proof.Machine.execCenBits g d q s
  | .getLane g d => Sys2Proof.Machine.execGetLane g d s
  | .ldN8 g d a o sc sp => Sys2Proof.Machine.execLdN8 g d a o sc sp s
  | .ldI8 g d a o sc sp => Sys2Proof.Machine.execLdI8 g d a o sc sp s
  | .ldN16 g d a o sc sp => Sys2Proof.Machine.execLdN16 g d a o sc sp s
  | .ldI16 g d a o sc sp => Sys2Proof.Machine.execLdI16 g d a o sc sp s
  | .ldB32 g d a o sc sp => Sys2Proof.Machine.execLdB32 g d a o sc sp s
  | .ldB64 g d a o sc sp => Sys2Proof.Machine.execLdB64 g d a o sc sp s
  | .ldB128 g d a o sc sp => Sys2Proof.Machine.execLdB128 g d a o sc sp s
  | .stB8 g d a o sc sp => Sys2Proof.Machine.execStB8 g d a o sc sp s
  | .stB16 g d a o sc sp => Sys2Proof.Machine.execStB16 g d a o sc sp s
  | .stB32 g d a o sc sp => Sys2Proof.Machine.execStB32 g d a o sc sp s
  | .stB64 g d a o sc sp => Sys2Proof.Machine.execStB64 g d a o sc sp s
  | .stB128 g d a o sc sp => Sys2Proof.Machine.execStB128 g d a o sc sp s
  | .iaddExt g d a b t sat => Sys2Proof.Machine.execIaddExt g d a b t sat s
  | .isubExt g d a b t sat => Sys2Proof.Machine.execIsubExt g d a b t sat s
  | .imulExt g d a b t => Sys2Proof.Machine.execImulExt g d a b t s
  | .imulhiExt g d a b t => Sys2Proof.Machine.execImulhiExt g d a b t s
  | .imad g d a b c t sat => Sys2Proof.Machine.execImad g d a b c t sat s
  | .iminExt g d a b t => Sys2Proof.Machine.execIminExt g d a b t s
  | .imaxExt g d a b t => Sys2Proof.Machine.execImaxExt g d a b t s
  | .iabsExt g d a t sat => Sys2Proof.Machine.execIabsExt g d a t sat s
  | .inegExt g d a t sat => Sys2Proof.Machine.execInegExt g d a t sat s
  | .clamp g d a b c t => Sys2Proof.Machine.execClamp g d a b c t s
  | .sel g d a b p t => Sys2Proof.Machine.execSel g d a b p t s
  | .shlExt g d a b t => Sys2Proof.Machine.execShlExt g d a b t s
  | .shrExt g d a b t => Sys2Proof.Machine.execShrExt g d a b t s
  | .bfe g d a b c t => Sys2Proof.Machine.execBfe g d a b c t s
  | .bfi g d a b c => Sys2Proof.Machine.execBfi g d a b c s
  | .faddExt g d a b t rnd na nb => Sys2Proof.Machine.execFaddExt g d a b t rnd na nb s
  | .fsubExt g d a b t rnd na nb => Sys2Proof.Machine.execFsubExt g d a b t rnd na nb s
  | .fmulExt g d a b t rnd na nb => Sys2Proof.Machine.execFmulExt g d a b t rnd na nb s
  | .fma g d a b c t rnd na nb nc => Sys2Proof.Machine.execFma g d a b c t rnd na nb nc s
  | .fminExt g d a b t na nb => Sys2Proof.Machine.execFminExt g d a b t na nb s
  | .fmaxExt g d a b t na nb => Sys2Proof.Machine.execFmaxExt g d a b t na nb s
  | .fdiv g d a b t rnd na nb => Sys2Proof.Machine.execFdiv g d a b t rnd na nb s
  | .fsqrt g d a t rnd => Sys2Proof.Machine.execFsqrt g d a t rnd s
  | .frcp g d a t rnd => Sys2Proof.Machine.execFrcp g d a t rnd s
  | .frsqrt g d a t => Sys2Proof.Machine.execFrsqrt g d a t s
  | .fexp2 g d a => Sys2Proof.Machine.execFexp2 g d a s
  | .flog2 g d a => Sys2Proof.Machine.execFlog2 g d a s
  | .frint g d a t rnd => Sys2Proof.Machine.execFrint g d a t rnd s
  | .cvt g d a t st rnd sat hi => Sys2Proof.Machine.execCvt g d a t st rnd sat hi s
  | .cvtPk g d a b t rnd => Sys2Proof.Machine.execCvtPk g d a b t rnd s
  | .cvtPk4 g d a t rnd => Sys2Proof.Machine.execCvtPk4 g d a t rnd s
  | .redAdd g d a t => Sys2Proof.Machine.execRedAdd g d a t s
  | .redMin g d a t => Sys2Proof.Machine.execRedMin g d a t s
  | .redMax g d a t => Sys2Proof.Machine.execRedMax g d a t s
  | .scanAdd g d a t => Sys2Proof.Machine.execScanAdd g d a t s
  | .atmAdd g d a b t o sc sp ret => Sys2Proof.Machine.execAtmAdd g d a b t o sc sp ret s
  | .atmMin g d a b t o sc sp ret => Sys2Proof.Machine.execAtmMin g d a b t o sc sp ret s
  | .atmMax g d a b t o sc sp ret => Sys2Proof.Machine.execAtmMax g d a b t o sc sp ret s
  | .atmAnd g d a b t o sc sp ret => Sys2Proof.Machine.execAtmAnd g d a b t o sc sp ret s
  | .atmOr g d a b t o sc sp ret => Sys2Proof.Machine.execAtmOr g d a b t o sc sp ret s
  | .atmXor g d a b t o sc sp ret => Sys2Proof.Machine.execAtmXor g d a b t o sc sp ret s
  | .atmXchg g d a b t o sc sp ret => Sys2Proof.Machine.execAtmXchg g d a b t o sc sp ret s
  | .atmCas g d a b c t o sc sp ret => Sys2Proof.Machine.execAtmCas g d a b c t o sc sp ret s
  | .uniformIadd d a b w => Sys2Proof.Machine.execUniformIadd d a b w s
  | .uniformIsub d a b w => Sys2Proof.Machine.execUniformIsub d a b w s
  | .uniformImul d a b w => Sys2Proof.Machine.execUniformImul d a b w s
  | .uniformImulhiI d a b w => Sys2Proof.Machine.execUniformImulhiI d a b w s
  | .uniformImulhiN d a b w => Sys2Proof.Machine.execUniformImulhiN d a b w s
  | .uniformIminI d a b w => Sys2Proof.Machine.execUniformIminI d a b w s
  | .uniformIminN d a b w => Sys2Proof.Machine.execUniformIminN d a b w s
  | .uniformImaxI d a b w => Sys2Proof.Machine.execUniformImaxI d a b w s
  | .uniformImaxN d a b w => Sys2Proof.Machine.execUniformImaxN d a b w s
  | .uniformAnd d a b w => Sys2Proof.Machine.execUniformAnd d a b w s
  | .uniformOr d a b w => Sys2Proof.Machine.execUniformOr d a b w s
  | .uniformXor d a b w => Sys2Proof.Machine.execUniformXor d a b w s
  | .uniformAndn d a b w => Sys2Proof.Machine.execUniformAndn d a b w s
  | .uniformShl d a b w => Sys2Proof.Machine.execUniformShl d a b w s
  | .uniformShrN d a b w => Sys2Proof.Machine.execUniformShrN d a b w s
  | .uniformShrI d a b w => Sys2Proof.Machine.execUniformShrI d a b w s
  | .uniformRotl d a b w => Sys2Proof.Machine.execUniformRotl d a b w s
  | .uniformPopc d a w => Sys2Proof.Machine.execUniformPopc d a w s
  | .uniformClz d a w => Sys2Proof.Machine.execUniformClz d a w s
  | .uniformBrev d a w => Sys2Proof.Machine.execUniformBrev d a w s
  | .uniformMov d a w => Sys2Proof.Machine.execUniformMov d a w s
  | .uniformIcmpI d a b w c => Sys2Proof.Machine.execUniformIcmpI d a b w c s
  | .uniformIcmpN d a b w c => Sys2Proof.Machine.execUniformIcmpN d a b w c s
  | .uniformFadd d a b => Sys2Proof.Machine.execUniformFadd d a b s
  | .uniformFsub d a b => Sys2Proof.Machine.execUniformFsub d a b s
  | .uniformFmul d a b => Sys2Proof.Machine.execUniformFmul d a b s
  | .uniformFmin d a b => Sys2Proof.Machine.execUniformFmin d a b s
  | .uniformFmax d a b => Sys2Proof.Machine.execUniformFmax d a b s
  | .uniformFcmp d a b c => Sys2Proof.Machine.execUniformFcmp d a b c s
  | .uniformLiteralForm op d a w c lit => Sys2Proof.Machine.execUniformLiteralForm op d a w c lit s
  | .uniformExtended op d a b c t rnd m lit => Sys2Proof.Machine.execUniformExtended op d a b c t rnd m lit s
  | .bra c a disp => Sys2Proof.Machine.execBra c a disp s
  | .brd p neg disp rdisp => Sys2Proof.Machine.execBrd p neg disp rdisp s
  | .call disp => Sys2Proof.Machine.execCall disp s
  | .callFk disp nret r0 r1 r2 r3 => Sys2Proof.Machine.execCallFk disp nret r0 r1 r2 r3 s
  | .braInd a => Sys2Proof.Machine.execBraInd a s
  | .callInd a => Sys2Proof.Machine.execCallInd a s
  | .ret => Sys2Proof.Machine.execRet s
  | .exit => Sys2Proof.Machine.execExit s
  | .waitK a n => Sys2Proof.Machine.execWaitK a n s
  | .getGroup d => Sys2Proof.Machine.execGetGroup d s
  | .getTeamX d => Sys2Proof.Machine.execGetTeamX d s
  | .getTeamY d => Sys2Proof.Machine.execGetTeamY d s
  | .getTeamZ d => Sys2Proof.Machine.execGetTeamZ d s
  | .getGridX d => Sys2Proof.Machine.execGetGridX d s
  | .getGridY d => Sys2Proof.Machine.execGetGridY d s
  | .getGridZ d => Sys2Proof.Machine.execGetGridZ d s
  | .getCore d => Sys2Proof.Machine.execGetCore d s
  | .getCluster d => Sys2Proof.Machine.execGetCluster d s
  | .getDie d => Sys2Proof.Machine.execGetDie d s
  | .getCtx d => Sys2Proof.Machine.execGetCtx d s
  | .getCycle d => Sys2Proof.Machine.execGetCycle d s
  | .getEm d => Sys2Proof.Machine.execGetEm d s
  | .getLm d => Sys2Proof.Machine.execGetLm d s
  | .getFmt d => Sys2Proof.Machine.execGetFmt d s
  | .emSet a => Sys2Proof.Machine.execEmSet a s
  | .pmPush p => Sys2Proof.Machine.execPmPush p s
  | .pmInv => Sys2Proof.Machine.execPmInv s
  | .pmPop => Sys2Proof.Machine.execPmPop s
  | .blkGive n => Sys2Proof.Machine.execBlkGive n s
  | .blkTake n => Sys2Proof.Machine.execBlkTake n s
  | .fmtSet a => Sys2Proof.Machine.execFmtSet a s
  | .fmtSetImm lit => Sys2Proof.Machine.execFmtSetImm lit s
  | .nop => Sys2Proof.Machine.execNop s
  | .bcpT1 a => Sys2Proof.Machine.execBcpT1 a s
  | .bcpT2 a => Sys2Proof.Machine.execBcpT2 a s
  | .bcpT3 a => Sys2Proof.Machine.execBcpT3 a s
  | .bcpFill a => Sys2Proof.Machine.execBcpFill a s
  | .bgsGather a => Sys2Proof.Machine.execBgsGather a s
  | .bgsScatter a => Sys2Proof.Machine.execBgsScatter a s
  | .bamAdd a => Sys2Proof.Machine.execBamAdd a s
  | .bamMin a => Sys2Proof.Machine.execBamMin a s
  | .bamMax a => Sys2Proof.Machine.execBamMax a s
  | .bamAnd a => Sys2Proof.Machine.execBamAnd a s
  | .bamOr a => Sys2Proof.Machine.execBamOr a s
  | .bamXor a => Sys2Proof.Machine.execBamXor a s
  | .bamXchg a => Sys2Proof.Machine.execBamXchg a s
  | .bamCas a => Sys2Proof.Machine.execBamCas a s
  | .mldE a => Sys2Proof.Machine.execMldE a s
  | .mldS a => Sys2Proof.Machine.execMldS a s
  | .mswp => Sys2Proof.Machine.execMswp s
  | .mlp a => Sys2Proof.Machine.execMlp a s
  | .mlpZero a => Sys2Proof.Machine.execMlpZero a s
  | .mdrn a => Sys2Proof.Machine.execMdrn a s
  | .mdrnScl a => Sys2Proof.Machine.execMdrnScl a s
  | .ropeTake => Sys2Proof.Machine.execRopeTake s
  | .ropeGive => Sys2Proof.Machine.execRopeGive s
  | .tbarPass c n => Sys2Proof.Machine.execTbarPass c n s
  | .tbarHold c n => Sys2Proof.Machine.execTbarHold c n s
  | .gbarHold a => Sys2Proof.Machine.execGbarHold a s
  | .gbarPass a => Sys2Proof.Machine.execGbarPass a s
  | .cbarHold a => Sys2Proof.Machine.execCbarHold a s
  | .cbarPass a => Sys2Proof.Machine.execCbarPass a s
  | .watch a sp => Sys2Proof.Machine.execWatch a sp s
  | .unwatch a => Sys2Proof.Machine.execUnwatch a s
  | .waitW a => Sys2Proof.Machine.execWaitW a s
  | .fence sc => Sys2Proof.Machine.execFence sc s
  | .tfence sc => Sys2Proof.Machine.execTfence sc s
  | .lnch a => Sys2Proof.Machine.execLnch a s
  | .qBell a b => Sys2Proof.Machine.execQBell a b s
  | .mbxGet d a => Sys2Proof.Machine.execMbxGet d a s
  | .mbxPut a b => Sys2Proof.Machine.execMbxPut a b s
  | .sint a => Sys2Proof.Machine.execSint a s
  | .collSum a t => Sys2Proof.Machine.execCollSum a t s
  | .collMax a t => Sys2Proof.Machine.execCollMax a t s
  | .collMin a t => Sys2Proof.Machine.execCollMin a t s
  | .stkHand stack die => Sys2Proof.Machine.execStkHand stack die s
  | .rflRun a => Sys2Proof.Machine.execRflRun a s
  | .rflPut a b => Sys2Proof.Machine.execRflPut a b s
  | .trap code => Sys2Proof.Machine.execTrap code s
  | .sysRd d n => Sys2Proof.Machine.execSysRd d n s
  | .sysWr a n => Sys2Proof.Machine.execSysWr a n s
  | .clauseEntry => Sys2Proof.Machine.execClauseEntry s
  | .starvationPromotion die site quad => Sys2Proof.Machine.execStarvationPromotion die site quad s
  | .laneAccessComplete grp seq => Sys2Proof.Machine.execLaneAccessComplete grp seq s
  | .waitKWake grp slot => Sys2Proof.Machine.execWaitKWake grp slot s
  | .heldRecordRelease ctx => Sys2Proof.Machine.execHeldRecordRelease ctx s
  | .frtailReread ctx => Sys2Proof.Machine.execFrtailReread ctx s
  | .splitStackSpill grp => Sys2Proof.Machine.execSplitStackSpill grp s
  | .splitStackRefill grp => Sys2Proof.Machine.execSplitStackRefill grp s
  | .ropeGrant die site => Sys2Proof.Machine.execRopeGrant die site s
  | .matrixLoadThread die site => Sys2Proof.Machine.execMatrixLoadThread die site s
  | .mswpExchange die site => Sys2Proof.Machine.execMswpExchange die site s
  | .matrixLoopStep die site => Sys2Proof.Machine.execMatrixLoopStep die site s
  | .drainThread die site => Sys2Proof.Machine.execDrainThread die site s
  | .matrixRelease die site => Sys2Proof.Machine.execMatrixRelease die site s
  | .blockWake team quad => Sys2Proof.Machine.execBlockWake team quad s
  | .engineDescriptorRead tid => Sys2Proof.Machine.execEngineDescriptorRead tid s
  | .copyThread tid => Sys2Proof.Machine.execCopyThread tid s
  | .gatherScatterThread tid => Sys2Proof.Machine.execGatherScatterThread tid s
  | .bulkAtomicThread tid => Sys2Proof.Machine.execBulkAtomicThread tid s
  | .engineCompletion tid => Sys2Proof.Machine.execEngineCompletion tid s
  | .tableWalk die ctx va u => Sys2Proof.Machine.execTableWalk die ctx va u s
  | .tfenceComplete tid => Sys2Proof.Machine.execTfenceComplete tid s
  | .groupRetire grp => Sys2Proof.Machine.execGroupRetire grp s
  | .groupBarrierArrival grp => Sys2Proof.Machine.execGroupBarrierArrival grp s
  | .teamSlotArrival team => Sys2Proof.Machine.execTeamSlotArrival team s
  | .slotRelease slot cluster => Sys2Proof.Machine.execSlotRelease slot cluster s
  | .bivouac team => Sys2Proof.Machine.execBivouac team s
  | .bivouacDispatch team => Sys2Proof.Machine.execBivouacDispatch team s
  | .waitWWake grp slot => Sys2Proof.Machine.execWaitWWake grp slot s
  | .spinRecognition grp => Sys2Proof.Machine.execSpinRecognition grp s
  | .spinWake grp => Sys2Proof.Machine.execSpinWake grp s
  | .waitingTeamEviction die ctx => Sys2Proof.Machine.execWaitingTeamEviction die ctx s
  | .rotationEviction team => Sys2Proof.Machine.execRotationEviction team s
  | .preEmption die team => Sys2Proof.Machine.execPreEmption die team s
  | .teamSave team => Sys2Proof.Machine.execTeamSave team s
  | .teamRestore team => Sys2Proof.Machine.execTeamRestore team s
  | .teamDeal die => Sys2Proof.Machine.execTeamDeal die s
  | .teamPlace die ctx => Sys2Proof.Machine.execTeamPlace die ctx s
  | .clusterPlace die ctx => Sys2Proof.Machine.execClusterPlace die ctx s
  | .teamDone team => Sys2Proof.Machine.execTeamDone team s
  | .classifierClose grid => Sys2Proof.Machine.execClassifierClose grid s
  | .launchThread tid => Sys2Proof.Machine.execLaunchThread tid s
  | .launchQueueWake die site => Sys2Proof.Machine.execLaunchQueueWake die site s
  | .launchAccept tid => Sys2Proof.Machine.execLaunchAccept tid s
  | .gridDispatch grid => Sys2Proof.Machine.execGridDispatch grid s
  | .gridRetire grid => Sys2Proof.Machine.execGridRetire grid s
  | .gridReport grid => Sys2Proof.Machine.execGridReport grid s
  | .load ctx => Sys2Proof.Machine.execLoad ctx s
  | .activate ctx => Sys2Proof.Machine.execActivate ctx s
  | .switchOut ctx => Sys2Proof.Machine.execSwitchOut ctx s
  | .resumeFault ctx => Sys2Proof.Machine.execResumeFault ctx s
  | .clear ctx => Sys2Proof.Machine.execClear ctx s
  | .kill ctx => Sys2Proof.Machine.execKill ctx s
  | .free ctx => Sys2Proof.Machine.execFree ctx s
  | .ctxcmdReservedOp op ctx => Sys2Proof.Machine.execCtxcmdReservedOp op ctx s
  | .queueCreate q => Sys2Proof.Machine.execQueueCreate q s
  | .queueDestroy q => Sys2Proof.Machine.execQueueDestroy q s
  | .queueReset q => Sys2Proof.Machine.execQueueReset q s
  | .qcmdReservedOp op q => Sys2Proof.Machine.execQcmdReservedOp op q s
  | .queueTableRegisterWrite reg v => Sys2Proof.Machine.execQueueTableRegisterWrite reg v s
  | .registerWrite off v => Sys2Proof.Machine.execRegisterWrite off v s
  | .doorbell q v => Sys2Proof.Machine.execDoorbell q v s
  | .qbellDelivery => Sys2Proof.Machine.execQbellDelivery s
  | .sintDelivery => Sys2Proof.Machine.execSintDelivery s
  | .packetFetch q => Sys2Proof.Machine.execPacketFetch q s
  | .stallReread q => Sys2Proof.Machine.execStallReread q s
  | .launchPacket q => Sys2Proof.Machine.execLaunchPacket q s
  | .mbxPutPacket q => Sys2Proof.Machine.execMbxPutPacket q s
  | .mbxGetPacket q => Sys2Proof.Machine.execMbxGetPacket q s
  | .signalPacket q => Sys2Proof.Machine.execSignalPacket q s
  | .mailboxWake grp slot => Sys2Proof.Machine.execMailboxWake grp slot s
  | .frontEndWatchdog q => Sys2Proof.Machine.execFrontEndWatchdog q s
  | .configEccError => Sys2Proof.Machine.execConfigEccError s
  | .logicBlockReload => Sys2Proof.Machine.execLogicBlockReload s
  | .sensorSweep t0 t1 t2 t3 => Sys2Proof.Machine.execSensorSweep t0 t1 t2 t3 s
  | .thermalRelease => Sys2Proof.Machine.execThermalRelease s
  | .stackTrainingComplete n ok => Sys2Proof.Machine.execStackTrainingComplete n ok s
  | .stackLost n => Sys2Proof.Machine.execStackLost n s
  | .handoverDrain tid => Sys2Proof.Machine.execHandoverDrain tid s
  | .stackCacheFlush tid => Sys2Proof.Machine.execStackCacheFlush tid s
  | .handoverTranslationDiscard tid => Sys2Proof.Machine.execHandoverTranslationDiscard tid s
  | .portSwitch tid => Sys2Proof.Machine.execPortSwitch tid s
  | .ownershipUpdate tid => Sys2Proof.Machine.execOwnershipUpdate tid s
  | .handoverComplete tid => Sys2Proof.Machine.execHandoverComplete tid s
  | .patrolScrub n found => Sys2Proof.Machine.execPatrolScrub n found s
  | .refresh n temp => Sys2Proof.Machine.execRefresh n temp s
  | .logDrain n => Sys2Proof.Machine.execLogDrain n s
  | .stkstatRead n => Sys2Proof.Machine.execStkstatRead n s
  | .hsigClear mask => Sys2Proof.Machine.execHsigClear mask s
  | .hostRead addr size ord => Sys2Proof.Machine.execHostRead addr size ord s
  | .hostWrite addr mask data ord => Sys2Proof.Machine.execHostWrite addr mask data ord s
  | .remoteAccess acc => Sys2Proof.Machine.execRemoteAccess acc s
  | .flitReplay p => Sys2Proof.Machine.execFlitReplay p s
  | .replayLimit p => Sys2Proof.Machine.execReplayLimit p s
  | .portEnable p => Sys2Proof.Machine.execPortEnable p s
  | .portTrainingResult p lanes => Sys2Proof.Machine.execPortTrainingResult p lanes s
  | .laneFailure p => Sys2Proof.Machine.execLaneFailure p s
  | .portDisable p => Sys2Proof.Machine.execPortDisable p s
  | .collectiveInstance cg remote => Sys2Proof.Machine.execCollectiveInstance cg remote s
  | .powerGood => Sys2Proof.Machine.execPowerGood s
  | .stageA => Sys2Proof.Machine.execStageA s
  | .stageB => Sys2Proof.Machine.execStageB s
  | .stageC => Sys2Proof.Machine.execStageC s
  | .stageD => Sys2Proof.Machine.execStageD s
  | .mgmtStatus seq => Sys2Proof.Machine.execMgmtStatus seq s
  | .logRead seq => Sys2Proof.Machine.execLogRead seq s
  | .attest seq nonce => Sys2Proof.Machine.execAttest seq nonce s
  | .mgmtReset seq kind preserve dies => Sys2Proof.Machine.execMgmtReset seq kind preserve dies s
  | .flashWrite seq slot off chunk => Sys2Proof.Machine.execFlashWrite seq slot off chunk s
  | .mgmtUnknownOp seq op => Sys2Proof.Machine.execMgmtUnknownOp seq op s
  | .coldReset => Sys2Proof.Machine.execColdReset s
  | .warmReset preserve => Sys2Proof.Machine.execWarmReset preserve s
  | .partitionReset dies => Sys2Proof.Machine.execPartitionReset dies s
  | .partitionChange ctx dies => Sys2Proof.Machine.execPartitionChange ctx dies s
  | .apertureBaseWrite hrw hma => Sys2Proof.Machine.execApertureBaseWrite hrw hma s
  | .moduleLevelRetry mod => Sys2Proof.Machine.execModuleLevelRetry mod s
  | .laneRepair mod lane => Sys2Proof.Machine.execLaneRepair mod lane s

end Sys2Proof.Machine
end

