-- ==== Sys2Proof/Machine/Schedule.lean ====
section
/-!
DEFINITION. Which step comes next: an issue of a path, of a continuation (R277-R284), or a step of another agent; and how
a path's next instruction is read and run (R68, R88, R254).
-/
namespace Sys2Proof.Machine

/-! ### A path issues -/

/-- The report of words that are no instruction (R88, R96). -/
def DecodeError.report (e : DecodeError) (ws : List Word) : Report :=
  let addr (k : Nat) : DWord := if k = 0 then 0 else (ws.getD k 0).setWidth 64
  match e with
  | .illegal k => { kind := .illegalOpcode, addr := addr k }
  | .reserved k => { kind := .reservedBits, addr := addr k }
  | .length => { kind := .clauseLength }

/-- Instructions that may issue while lane accesses of their group are still to be performed: lane instructions, those that touch
registers alone or move the path, waits, and the engine commands of R152. Before any other they are performed. -/
def Instr.leavesStores (i : Instr) : Bool :=
  match i with
  | .fence .. | .tbarPass .. | .tbarHold .. | .gbarHold .. | .gbarPass .. | .cbarHold .. | .cbarPass .. | .watch .. | .unwatch .. | .waitW ..
  | .qBell .. | .mbxGet .. | .mbxPut .. | .sint .. | .rflRun .. | .rflPut .. | .tfence .. | .trap .. | .sysRd .. | .sysWr ..
  | .ropeTake | .ropeGive | .blkGive .. | .blkTake .. | .exit | .callFk .. => false
  | _ => true

/-- The instruction at a path's PC runs, or the fault of its words is taken (R11, R88). -/
def State.runDecoded (s : State) (h : Here) : Host.Outcome State Fault Refusal :=
  match decodeWords h.p.rest with
  | .ok i => exec i (if Instr.leavesStores i then s else s.drainLate h.g.id)
  | .error e => .next (s.raise h.g h.slot h.p.pc h.p.iword (DecodeError.report e h.p.rest))

/-- The front end has a team of a context to deal to a die, and can: it does so whenever the die's queue has room (R319). -/
def State.dealDue (s : State) (die ctx : Nat) : Bool :=
  s.nextDealt.any (fun e => !(e.2.any fun x => (x.1 :: x.2.map (·.1)).any s.qcbWaits))
    && s.grids.any fun g => g.ctx == ctx && s.dealable g && s.dealDie g == some die

/-- A team issues nothing more where it is to leave by rotation (R299), nor, with RET at QUANT, before its die has been dealt what is due to
it: such a team would be the one that it leaves for (R319; DEDUCED: assumption 127). -/
def State.issueHeld (s : State) (t : Team) : Bool :=
  s.mustRotate t || (((s.residentUnit t.id).filterMap s.team?).any (fun u => 2 ^ u.qlog ≤ u.ret && u.evictable)
    && s.dealDue t.die (s.gridCtx t.grid))

/-- The current path issues: it enters a clause, or runs the instruction at its PC, unless its team issues nothing more. -/
def State.issue (s : State) : Host.Outcome State Fault Refusal :=
  match s.here with
  | some h => if s.issueHeld h.t then .refused .noPath else s.runDecoded h
  | none => exec .clauseEntry s

/-! ### A continuation issues (R277-R284) -/

/-- The instructions at which a continuation stalls until it is resolved (R278). -/
def Instr.stallsShadow (i : Instr) : Bool :=
  match i with
  | .bcpT1 .. | .bcpT2 .. | .bcpT3 .. | .bcpFill .. | .bgsGather .. | .bgsScatter .. | .bamAdd .. | .bamMin .. | .bamMax ..
  | .bamAnd .. | .bamOr .. | .bamXor .. | .bamXchg .. | .bamCas .. => true
  | .mldE .. | .mldS .. | .mswp | .mlp .. | .mlpZero .. | .mdrn .. | .mdrnScl .. => true
  | .atmAdd .. | .atmMin .. | .atmMax .. | .atmAnd .. | .atmOr .. | .atmXor .. | .atmXchg .. | .atmCas .. | .fence .. => true
  | .tbarPass .. | .tbarHold .. | .gbarHold .. | .gbarPass .. | .cbarHold .. | .cbarPass .. => true
  | .watch .. | .unwatch .. | .waitW .. => true
  | .lnch .. | .qBell .. | .mbxGet .. | .mbxPut .. | .sint .. | .collSum .. | .collMax .. | .collMin .. | .stkHand ..
  | .rflRun .. | .rflPut .. | .tfence .. => true
  | .trap .. | .sysRd .. | .sysWr .. | .ropeTake | .ropeGive | .blkGive .. | .blkTake .. | .exit | .callFk .. => true
  | _ => false

/-- A continuation's own limits (R277-R279): 33 distinct vector registers, 65 belay entries of 8 aligned bytes, or a
spill or refill. -/
def Cont.overflows (c : Cont) : Bool :=
  32 < ((c.wrote.filter fun e => e.1.file == .v).map (·.1)).eraseDups.length
    || 64 < ((c.belay.map fun e => e.1 / 8).eraseDups).length || c.arch.spillDue || c.arch.refillDue

/-- The continuation stops until it is resolved, with the losses that it has consumed. -/
def Group.stopCont (g : Group) (k : Nat) (losses : Nat) : Group :=
  { g with conts := g.conts.mapIdx fun j c => if j = k then { c with stopped := true, losses := losses } else c }

/-- A `ret` from a callee whose own continuation is live: the inner continuation, which is resolved before the outer `ret` (R285), leaves it
to the group. -/
def Group.outerRet (g : Group) (k : Nat) (i : Instr) (a : Arch) : Bool :=
  i == .ret && (g.conts.drop (k + 1)).any fun o => o.depth + 1 == a.positions

/-- Group `grp` seen from its continuation k: the continuation's registers in place of the group's. -/
def State.viewOf (s : State) (g : Group) (k : Nat) (c : Cont) (slot : Bool) : State :=
  { s with
    cur := (g.id, slot), view := some k
    groups := mapIf s.groups (·.id == g.id) fun (x : Group) => { x with arch := c.arch, spillFault := none } }

/-- Back from the continuation's view: its registers are kept with it, and the group has its own again. A continuation
that went beyond its limits, or has a fault that is deferred, stands where it stood with no effect, and stops (R284); one that tracks more
than 128 blocks is squashed. -/
def State.unview (before after : State) (g : Group) (k : Nat) : State :=
  let a := { after with cur := before.cur, view := none }
  match after.group? g.id with
  | none => a
  | some x =>
    match x.conts[k]? with
    | none => a.onGroup g.id fun _ => { g with conts := x.conts }
    | some c =>
      let c := { c with arch := x.arch }
      if 128 < c.lines.length then
        (a.onGroup g.id fun _ => { g with conts := g.conts.eraseIdx k }).countSquash g [c]
      else if c.stopped || c.overflows then before.onGroup g.id fun _ => g.stopCont k c.losses
      else a.onGroup g.id fun _ => { g with conts := x.conts.set k c }

/-- The slot of a continuation's path that can go on. -/
def Cont.pick (c : Cont) : Option (Bool × Path) :=
  (c.arch.paths.find? fun e => e.2.park == none || c.arch.counterWake e.2)

/-- One step of continuation k of a group. -/
def State.shadowStep (s : State) (grp k : Nat) : Host.Outcome State Fault Refusal :=
  match s.group? grp with
  | none => .refused .noPath
  | some g =>
    match g.conts[k]? with
    | none => .refused .noPath
    | some c =>
      match c.pick with
      | none => .refused .noPath
      | some (slot, p) =>
        if c.stopped || !(s.team? g.team).any Team.runs then .refused .noPath
        else
          let v := s.viewOf g k c slot
          if p.park != none then .next (s.unview (v.wakeCounter grp slot p) g k)
          else
            let stalls : Bool :=
              match v.here with
              | some h => (match decodeWords h.p.rest with | .ok i => Instr.stallsShadow i || g.outerRet k i c.arch | .error _ => true)
              | none => false
            if stalls then .next (s.onGroup grp fun _ => g.stopCont k c.losses)
            else
              match v.issue with
              | .next t => .next (s.unview t g k)
              | .fault f => .fault f
              | .refused r => .refused r

/-! ### What comes next -/

/-- A step of one of the part's own agents, as its meaning. -/
abbrev Agent := State → Host.Outcome State Fault Refusal

/-- The path of a group that may issue or enter a clause. -/
def State.issuer (s : State) (g : Nat) (slot : Bool) : Option Here :=
  let t := { s with cur := (g, slot) }
  (t.here.filter fun h => !s.issueHeld h.t) <|> t.entering

/-- A path that may issue, or a continuation's: its quadrant (numbered over the whole module), its group's age, the cycles since it
issued last, where it stands, and whether its next instruction needs the vector pipe. -/
structure Ready where
  quad : Nat
  age : Nat
  idle : Nat
  grp : Nat
  slot : Bool
  cont : Option Nat
  vector : Bool

/-- The quadrant of a group, numbered over the module: 640 for each die, 4 for each site (R21, R251). -/
def State.quadOf (s : State) (g : Group) : Nat :=
  match s.team? g.team with
  | some t => 640 * t.die + 4 * t.site + g.slot / 16
  | none => 0

/-- A path's next instruction needs the vector pipe (R254); the entry into a clause counts as uniform. -/
def Path.onVector (p : Path) : Bool :=
  p.entry == .inside && match decodeWords p.rest with | .ok i => i.isLane | .error _ => false

/-- The candidates of a group: its paths, and its continuations, which are younger than every group (R251, R254). -/
def State.readyOf (s : State) (g : Group) : List Ready :=
  let q := s.quadOf g
  (g.arch.paths.filterMap fun e =>
    (s.issuer g.id e.1).map fun h => ⟨q, g.age, e.2.idle, g.id, e.1, none, h.p.onVector⟩)
    ++ (g.conts.mapIdx fun k c =>
      (if c.stopped || !(s.team? g.team).any Team.runs then none else c.pick).map fun e =>
        (⟨q, s.nextAge, e.2.idle, g.id, e.1, some k, e.2.onVector⟩ : Ready)).filterMap id

/-- Whether one candidate comes before another: the older; of the two paths of one group, the one that has gone longer without issuing
(R254). -/
def Ready.before (a b : Ready) : Bool := a.age < b.age || (a.age == b.age && b.idle ≤ a.idle)

/-- Candidates in that order. -/
def insertReady (r : Ready) : List Ready → List Ready
  | [] => [r]
  | x :: l => if x.before r then x :: insertReady r l else r :: x :: l
def oldestFirst (l : List Ready) : List Ready := l.foldl (fun acc r => insertReady r acc) []

/-- A candidate issues. -/
def State.issueOf (s : State) (r : Ready) : Host.Outcome State Fault Refusal :=
  match r.cont with
  | none => State.issue { s with cur := (r.grp, r.slot) }
  | some k => s.shadowStep r.grp k

/-- Whether a candidate's step takes effect: one that stalls leaves every group as it is. -/
def State.moves (s : State) (o : Host.Outcome State Fault Refusal) : Bool :=
  match o with
  | .next t => t.groups != s.groups
  | .fault _ => true
  | .refused _ => false

/-- The first candidate that can issue. -/
def State.firstIssue (s : State) : List Ready → Option (Ready × Host.Outcome State Fault Refusal)
  | [] => none
  | r :: l => let o := s.issueOf r; if s.moves o then some (r, o) else State.firstIssue s l

/-! ### What a cycle of a quadrant leaves at its paths (R254, R255) -/

/-- A path of a quadrant at the end of a cycle: `who` has issued in it; of the others, those that could have issued are passed over. -/
def Path.cyclePasses (p : Path) (who could : Bool) : Path :=
  if who then { p with passed := 0, idle := 0 } else { p with passed := if could then p.passed + 1 else 0, idle := p.idle + 1 }

/-- The paths of an architected state at the end of a cycle. -/
def Arch.cyclePasses (a : Arch) (who could : Bool → Bool) : Arch :=
  { a.onPaths fun p => p.cyclePasses false false with
    path0 := a.path0.map fun p => p.cyclePasses (who false) (could false)
    path1 := a.path1.map fun p => p.cyclePasses (who true) (could true) }

/-- A group at the end of a cycle of its quadrant. Paths go by slot, and a continuation's by its shadow slot too. -/
def Group.cyclePasses (g : Group) (who could : Option Nat → Bool → Bool) : Group :=
  { g with
    arch := g.arch.cyclePasses (who none) (could none)
    conts := g.conts.map fun c => { c with arch := c.arch.cyclePasses (who (some c.shadow)) (could (some c.shadow)) } }

/-- The shadow slot of a candidate's continuation. -/
def State.shadowOf (s : State) (r : Ready) : Option Nat :=
  r.cont.bind fun k => (s.group? r.grp).bind fun g => (g.conts[k]?).map (·.shadow)

/-- A candidate's names: its group, its continuation's shadow slot and its PC slot. -/
def State.nameOf (s : State) (r : Ready) : Nat × Option Nat × Bool := (r.grp, s.shadowOf r, r.slot)

/-- The end of a quadrant's cycle in which `who`, if any, issued: `s` is the state at its beginning, in which others could have issued. -/
def State.cyclePasses (s t : State) (quad : Nat) (who : Option (Nat × Option Nat × Bool)) : State :=
  let could := ((s.groups.flatMap s.readyOf).filter fun r => r.quad == quad && some (s.nameOf r) != who && s.moves (s.issueOf r)).map s.nameOf
  { t with
    groups := t.groups.map fun (g : Group) =>
      if s.quadOf g == quad && (s.team? g.team).any (·.st == .resident) then
        g.cyclePasses (fun c slot => some (g.id, c, slot) == who) fun c slot => could.contains (g.id, c, slot)
      else g }

/-- The same for the outcome of an issue. -/
def State.afterCycle (s : State) (r : Ready) (o : Host.Outcome State Fault Refusal) : Host.Outcome State Fault Refusal :=
  match o with
  | .next t => .next (s.cyclePasses t r.quad (if s.moves o then some (s.nameOf r) else none))
  | o => o

/-- The current path C of a quadrant (R254). -/
def State.currentOf (s : State) (q : Nat) : Option (Nat × Bool × Option Nat) :=
  ((s.core (q / 640) (q % 640 / 4)).cur.find? (·.1 == q % 4)).map (·.2)

/-- A path becomes the current path of its quadrant. -/
def State.setCurrent (s : State) (r : Ready) : State :=
  s.onCore (r.quad / 640) (r.quad % 640 / 4) fun c =>
    { c with cur := (r.quad % 4, r.grp, r.slot, r.cont) :: c.cur.filter (·.1 != r.quad % 4) }

/-- What is left of a quadrant's cycle once a candidate has issued. -/
def Ready.turn (r : Ready) (both : Bool) : Turn := ⟨r.quad, r.grp, r.slot, r.cont, r.vector, both⟩

/-- The quadrants take turns, and each has a cycle: C issues where it can, else the oldest path that can, which becomes C (R254). Where
none can issue, the cycle passes. -/
def State.newCycle (s : State) (ps : List Ready) (last : Nat) : Host.Outcome State Fault Refusal :=
  let q := ((((ps.map (·.quad)).filter (last < ·)).min?) <|> (ps.map (·.quad)).min?).getD 0
  let qs := ps.filter (·.quad == q)
  let isC (e : Ready) : Bool := s.currentOf q == some (e.grp, e.slot, e.cont)
  let l := qs.filter isC ++ oldestFirst (qs.filter fun e => !isC e)
  let s := { s with turn := none }
  match s.firstIssue l with
  | some (r, .next t) => .next { (s.cyclePasses t q (some (s.nameOf r))).setCurrent r with turn := some (r.turn false) }
  | some (_, o) => o
  | none =>
    match l with
    | [] => .next s
    | r :: _ =>
      match s.issueOf r with
      | .next t => .next { s.cyclePasses t q none with turn := some (r.turn true) }
      | _ => .next { s with turn := some (r.turn true) }

/-- The second path that issues in a cycle is passed over no longer. -/
def State.issuedIn (s : State) (who : Nat × Option Nat × Bool) : State :=
  s.onGroup who.1 fun g =>
    { g with
      arch := if who.2.1.isNone then g.arch.setPath who.2.2 ((g.arch.path who.2.2).map fun p => p.cyclePasses true false) else g.arch
      conts := g.conts.map fun c =>
        if who.2.1 = some c.shadow then
          { c with arch := c.arch.setPath who.2.2 ((c.arch.path who.2.2).map fun p => p.cyclePasses true false) }
        else c }

/-- An issue: in the cycle of a quadrant one of whose pipes has issued, the oldest path that can issue on the other one (R254); else the
next quadrant's cycle. -/
def State.cycle (s : State) : Host.Outcome State Fault Refusal :=
  let ps := s.groups.flatMap s.readyOf
  match s.turn with
  | none => s.newCycle ps (((s.group? s.cur.1).map s.quadOf).getD 0)
  | some t =>
    let other (e : Ready) : Bool :=
      e.quad == t.quad && e.vector != t.vector && !(e.grp == t.grp && e.slot == t.slot && e.cont == t.cont)
    let second : Option (Ready × Host.Outcome State Fault Refusal) :=
      if t.both then none else { s with turn := some { t with both := true } }.firstIssue (oldestFirst (ps.filter other))
    match second with
    | some (r, .next u) => .next { u.issuedIn (s.nameOf r) with turn := some { t with both := true } }
    | some (_, o) => o
    | none => s.newCycle ps t.quad

/-- Whether a path of a group or one of its continuations can issue. -/
def State.groupMoves (s : State) (g : Group) : Bool := (s.readyOf g).any fun r => s.moves (s.issueOf r)

/-- Steps of a group and its paths. A lane access of a group that can still issue takes its time. -/
def groupAgents (s : State) (g : Group) : List Agent :=
  [execSplitStackSpill g.id, execSplitStackRefill g.id, execSpinRecognition g.id, execSpinWake g.id, execWaitKWake g.id false,
   execWaitKWake g.id true, execWaitWWake g.id false, execWaitWWake g.id true, execMailboxWake g.id false, execMailboxWake g.id true,
   execGroupBarrierArrival g.id, execGroupRetire g.id]
    ++ (if (g.arch.laneBusy || g.conts.any fun c => c.arch.laneBusy) && !s.groupMoves g then
        (g.arch.tracked ++ g.conts.flatMap fun c => c.arch.tracked).map fun t => execLaneAccessComplete g.id t.seq
      else [])

/-- Steps of a core. -/
def coreAgents (c : Core) : List Agent :=
  [execRopeGrant c.die c.site, execMatrixLoadThread c.die c.site, execMswpExchange c.die c.site, execMatrixLoopStep c.die c.site,
   execDrainThread c.die c.site, execMatrixRelease c.die c.site, execLaunchQueueWake c.die c.site]
    ++ [0, 1, 2, 3].map fun q => execStarvationPromotion c.die c.site q

/-- Steps of an engine thread. -/
def threadAgents (t : Thread) : List Agent :=
  [execEngineDescriptorRead t.id, execCopyThread t.id, execGatherScatterThread t.id, execBulkAtomicThread t.id,
   execEngineCompletion t.id, execTfenceComplete t.id, execLaunchThread t.id, execLaunchAccept t.id, execHandoverDrain t.id,
   execStackCacheFlush t.id, execHandoverTranslationDiscard t.id, execPortSwitch t.id, execOwnershipUpdate t.id,
   execHandoverComplete t.id]

/-- Steps of a team. -/
def teamAgents (t : Team) : List Agent :=
  [execTeamDone t.id, execTeamSlotArrival t.id, execBivouac t.id, execTeamSave t.id, execBivouacDispatch t.id, execTeamRestore t.id]
    ++ [0, 1, 2, 3].map fun q => execBlockWake t.id q

/-- Steps of a grid, and of a barrier slot. -/
def gridAgents (g : Grid) : List Agent := [execGridDispatch g.id, execGridRetire g.id, execGridReport g.id, execClassifierClose g.id]
def slotAgents (b : BarSlot) : List Agent := b.gens.map fun x => execSlotRelease b.id x.cluster

/-- Steps of a die's dispatcher: placing teams, and evicting others where none fits. -/
def dieAgents (s : State) (d : Die) : List Agent :=
  let cs := s.ctxs.map fun (c : Ctx) => c.id
  [execTeamDeal d.n] ++ (cs.flatMap fun c => [execTeamPlace d.n c, execClusterPlace d.n c])
    ++ cs.map (fun c => execWaitingTeamEviction d.n c) ++ d.absent.map fun t => execPreEmption d.n t

/-- Steps of a queue. -/
def queueAgents (u : Queue) : List Agent :=
  [execPacketFetch u.id, execLaunchPacket u.id, execMbxPutPacket u.id, execMbxGetPacket u.id, execSignalPacket u.id]

/-- Resets that are due, and the stages of a start. -/
def startAgents (s : State) : List Agent :=
  (match s.pkg.pendingReset with
    | some (.cold, _, _) => [execColdReset]
    | some (.warm, p, _) => [execWarmReset p]
    | some (.partition, _, d) => [execPartitionReset d]
    | none => [])
    ++ (match s.pkg.stage with
      | .a => [execStageA, execThermalRelease]
      | .b => [execStageB]
      | .c => [execStageC, execStageD]
      | _ => [])

/-- Steps that a state may have due, in the model's fixed order. The host's and the sensors' steps, the timed re-reads and what
can go wrong in the hardware are asked for by the agenda alone. -/
def State.agents (s : State) : List Agent :=
  startAgents s ++ s.groups.flatMap (groupAgents s) ++ s.cores.flatMap coreAgents ++ s.threads.flatMap threadAgents
    ++ s.teams.flatMap teamAgents ++ s.slots.flatMap slotAgents ++ s.grids.flatMap gridAgents
    ++ [execQbellDelivery, execSintDelivery, execLogicBlockReload] ++ s.queues.flatMap queueAgents
    ++ (s.ctxs.map fun (c : Ctx) => execHeldRecordRelease c.id) ++ s.dies.flatMap (dieAgents s)
    ++ (s.teams.map fun (t : Team) => execRotationEviction t.id) ++ (s.mstacks.map fun (k : Stack) => execLogDrain k.n)

/-- The first agent that has its step due, with what it brings about. -/
def firstDue (s : State) (l : List Agent) : Option (Host.Outcome State Fault Refusal) :=
  match l with
  | [] => none
  | f :: r =>
    match f s with
    | .refused _ => firstDue s r
    | o => some o

/-- With nothing asked for: a step that is due, else an issue, else nothing happens. -/
def State.idleStep (s : State) : Host.Outcome State Fault Refusal :=
  match (if s.pkg.held then firstDue s [execThermalRelease] else firstDue s s.agents) with
  | some o => o
  | none => s.cycle

/-! ### Uncorrectable errors (R375-R378) -/

/-- A step that the state does not have. -/
def noAct (name : String) : Host.Outcome State Fault Refusal := .refused (.notEnabled name)

/-- An uncorrectable error arises (R375), behind the lane accesses that are under way. What it loses escalates as it is consumed; what another copy has is fetched again, and a
continuation that held it is squashed: these are counted (R377, R378). -/
def State.eccAt (s : State) (a : EccSite) : Host.Outcome State Fault Refusal :=
  match a with
  | .granule q =>
    let tgt := 64 * q / 2 ^ 64
    if tgt = 2 || tgt = 3 || s.lost.contains q then noAct "ECC"
    else
      let s := s.drainAll
      .next { s with lost := s.lost ++ [q] }
  | .clean q =>
    if stackLines (64 * q) 64 == [] || s.cache.any (·.line == q) || s.ownerOf (stackOf (64 * q)) == none then noAct "ECC" else .next { s with losses := s.losses + 1 }
  | .request q corrected =>
    let pa := 64 * q
    if stackLines pa 64 == [] || !(s.stack? (stackOf pa)).any Stack.live then noAct "ECC"
    else if corrected then .next (s.onStack (stackOf pa) fun k => k.corrects pa)
    else .next ((s.poison q).onStack (stackOf pa) fun k => k.event 2 pa (Config.channelOf pa).toNat)
  | .reg grp r =>
    if (s.group? grp).any fun g => !g.retired && (s.team? g.team).any (·.st == .resident) then
      .next (s.onArch grp fun b => { b with ecc := if b.ecc.contains r then b.ecc else b.ecc ++ [r] })
    else noAct "ECC"
  | .matrix die site =>
    if (s.core die site).mx.team.isSome then .next (s.onMx die site fun m => { m with ecc := true }) else noAct "ECC"
  | .belay grp k =>
    match (s.group? grp).bind fun g => (g.conts[k]?).map fun c => (g, c) with
    | some (g, c) =>
      if c.belay == [] then noAct "ECC"
      else
        let s := (s.onGroup grp fun h => { h with conts := h.conts.eraseIdx k }).countSquash g [c]
        .next { s with losses := s.losses + 1 }
    | none => noAct "ECC"
  | .hub => if s.feRuns then .next (s.deviceLoss 0) else noAct "ECC"

/-- The candidate that the agenda chooses. -/
def State.chosen (s : State) (g : Nat) (slot : Bool) (cont : Option Nat) : Ready :=
  ⟨((s.group? g).map s.quadOf).getD 0, 0, 0, g, slot, cont, false⟩

/-- One entry of the agenda. -/
def State.doAct (s : State) (a : Act) : Host.Outcome State Fault Refusal :=
  match a with
  | .issue g slot =>
    let s := { s with cur := (g, slot), turn := none }
    s.afterCycle (s.chosen g slot none) s.issue
  | .issueLate g slot =>
    let s := { s with cur := (g, slot), turn := none }
    s.afterCycle (s.chosen g slot none) (match State.issue { s with late := true } with | .next t => .next { t with late := false } | o => o)
  | .perform g n i =>
    if ((s.group? g).bind fun x => x.arch.tracked.find? (·.seq == n)).any (·.mayPerform i) then .next (s.performAt g n i) else noAct "PERFORM"
  | .writeBack l => if s.cache.any (·.line == l) then .next (s.writeBack (·.line == l)) else noAct "WRITE_BACK"
  | .ecc e => s.eccAt e
  | .flit p => if (s.port? p).any (fun u => u.carries && u.replays < 16) then .next (s.onPort p fun u => { u with replays := 0 }) else noAct "FLIT"
  | .shadow g k =>
    let s := { s with turn := none }
    s.afterCycle (s.chosen g (((s.group? g).bind fun x => (x.conts[k]?).bind Cont.pick).any (·.1)) (some k)) (s.shadowStep g k)
  | .event i => exec i s

end Sys2Proof.Machine
end

