-- ==== Sys2Proof/Machine/Load.lean ====
section
/-!
DEFINITION. Placing one instruction for the next step: the load of a program from outside (assumption 30), made as small
as the fetch allows. A context with a page table in the memory of stack 0, a grid of one team, and a group whose path stands in a
clause that holds the instruction alone.
-/
namespace Sys2Proof.Machine

/-- The instruction's words as the table's bits give them. -/
def tableWords (nbits w : Nat) : List Word :=
  let x := w % 2 ^ min nbits 96
  let word (k : Nat) : Word := BitVec.ofNat 32 (x / 2 ^ (32 * k))
  match decode 3 (word 0) (word 1) (word 2) with
  | .ok i => [word 0, word 1, word 2].take i.size
  | .error _ => [word 0]

/-- The clause: a header without WAIT, KA k0 and KB k1, and the words. -/
def clauseOf (ws : List Word) : List Word := packHeader 0 0 1 (BitVec.ofNat 5 (ws.length - 1)) :: ws

/-- A path in the first instruction position of a clause at an address. -/
def pathIn (a : DWord) (ws : List Word) : Path :=
  { pc := a + 4, hdr := a, words := ws, entry := .inside, m := BitVec.allOnes 32, fmt := 0, pst := [BitVec.allOnes 32],
    floor := 0, park := none, passed := 0, idle := 0 }

/-- A group's registers at first placement (R250), with every register block. -/
def Arch.first (p : Path) (blocks : Nat) : Arch :=
  { v := [], s := [], p := [], k := [], tracked := [], nextSeq := 0, spec := none, poison := [], ecc := [], blocks := blocks, lm := BitVec.allOnes 32,
    path0 := some p, path1 := none, stack := [], spilled := 0, kept := [], low := [] }

/-- A group at first placement. -/
def Group.first (id team gidx slot age priv : Nat) (a : Arch) : Group :=
  { id := id, team := team, gidx := gidx, slot := slot, age := age, arch := a, priv := priv, cairn := none, detector := none,
    conts := [], exited := false, retired := false, spillFault := none, lastSlot := false }

/-- Team state of a team just placed on core 0 of a die. -/
def Team.first (id grid die : Nat) : Team :=
  { id := id, grid := grid, t := 0, st := .resident, die := die, bound := true, site := 0, tmBase := 0, tmem := 0,
    pools := [0, 0, 0, 0], takers := [], bars := [⟨0, 0, 0, [], []⟩], age := 0, ret := 0, savedMatrix := false, image := none,
    leaving := .stay, woken := false, wakeSet := [], cluster := 0, winBase := 0, winLen := 0, slotWait := none, arrivals := [], qlog := 0,
    record := none, recordAt := none, bivouacking := false, recFault := none, recDone := 0, recLink := 0, saveFault := none, cost := 0, since := 0, ops := 0, bytes := 0 }

/-- A descriptor with the least of everything (R111). -/
def KDesc.first (code : DWord) : KDesc :=
  { addr := 0, code := code, regs := 16, groups := 1, bars := 1, fork := 0, tmem := 0, gbar := 0, rows := 1, cols := 1,
    argsz := 0, pinned := false, carryv := 0, cwoff := 0, cwlen := 0, bitmap := [0, 0, 0, 0] }

/-- A grid of one team, all dealt. -/
def Grid.first (id ctx : Nat) (d : KDesc) : Grid :=
  { id := id, ctx := ctx, queue := 0, qgen := 0, prio := 0, top := 3, root := d.addr, seen := [], desc := d, gx := 1, gy := 1, gz := 1, args := [], cwa := 0, cwDie := none,
    sta := 0, staDie := none, clwin := 0, st := .draining, code := 0, killed := 0, nextDeal := 1, placed := 1, ended := 0,
    slots := [], dies := 1, report := .none, hold := none, launcher := .packet 0 0 0, clsTeams := 0, clsOps := 0, clsBytes := 0, clsDone := false }

/-- A context that runs, with its record at a tagged physical address. -/
def Ctx.first (id : Nat) (rec' : DWord) : Ctx :=
  { id := id, st := .resident, recAddr := rec', dies := 1, h := 0, held := [], faults := [], privUsed := [0], saves := [],
    pools := [], switching := false, noRing := false, mba := 0, mbn := 0 }

/-- A tagged physical address in the stacks (R437), and the key of an address there. -/
def homeTag (pa : Nat) : DWord := BitVec.ofNat 64 pa
def homeKey (pa : Nat) : Nat := physKey 0 pa

/-- The table entry that names a table there, and the one that maps a code page there (R364). -/
def tablePte (pa : Nat) : Nat := pa + 1
def codePte (pa : Nat) : Nat := pa + 0x85

/-- The context's record and page tables in stack 0: VA 0 to 4095 is the code page at 0x5000 (R324, R363). -/
def loadTables (m : List Host.Cell) : List Host.Cell :=
  let m := putBytes m (homeKey 0) (toBytes 8 (homeTag 0x1000).toNat)
  let m := putBytes m (homeKey 0x1000) (toBytes 8 (tablePte 0x2000))
  let m := putBytes m (homeKey 0x2000) (toBytes 8 (tablePte 0x3000))
  let m := putBytes m (homeKey 0x3000) (toBytes 8 (tablePte 0x4000))
  putBytes m (homeKey 0x4000) (toBytes 8 (codePte 0x5000))

/-- The state with the words in the clause of the path that issues next. -/
def State.replaceWords (s : State) (h : Here) (ws : List Word) : State :=
  let c := clauseOf ws
  let s := s.setPath h.g.id h.slot (some { h.p with pc := h.p.hdr + 4, words := c })
  match s.access (s.fetchWalker h.t) .fetch h.p.hdr.toNat 4 with
  | .ok x => { s with mem := putBytes s.mem x.1 (c.flatMap wordBytes) }
  | .error _ => s

/-- A stack after its training (R379). -/
def Stack.trained (k : Stack) : Stack :=
  if k.st = .training then k.train else k

/-- The state with a program of these words loaded from outside, its stacks trained: it stands in a clause at address 0x100, in the only group
of a team on core 0 of die 0. -/
def State.loadWords (s : State) (ws : List Word) : State :=
  let c := clauseOf ws
  let cid := (s.ctxs.map (·.id)).foldl max 0 + 1
  let gid := (s.grids.map (·.id)).foldl max 0 + 1
  let arch := Arch.first (pathIn 0x100 c) 16
  { s with
    mstacks := s.mstacks.map Stack.trained
    mem := putBytes (loadTables s.mem) (homeKey 0x5100) (c.flatMap wordBytes)
    ctxs := s.ctxs ++ [.first cid (homeTag 0)]
    grids := s.grids ++ [.first gid cid (.first 0x100)]
    teams := s.teams ++ [.first s.nextTeam gid 0]
    groups := s.groups ++ [.first s.nextGroup s.nextTeam 0 0 s.nextAge 0 arch]
    nextTeam := s.nextTeam + 1, nextGroup := s.nextGroup + 1, nextAge := s.nextAge + 1
    agenda := [.issue s.nextGroup false] }

/-- The state in which the very next step runs the instruction whose bits are `w`. -/
def State.placeWord (s : State) (nbits w : Nat) : State :=
  match s.here with
  | some h =>
    { s.replaceWords h (tableWords nbits w) with agenda := [.issue s.cur.1 s.cur.2], mstacks := s.mstacks.map Stack.trained }
  | none => s.loadWords (tableWords nbits w)

end Sys2Proof.Machine
end

