-- ==== Sys2Proof/Machine/Step.lean ====
section
/-!
DEFINITION. One step of the module: what the agenda asks for next, or else what the state has due.
-/
namespace Sys2Proof.Machine

/-- One step: the oldest entry of the agenda, or with an empty agenda the model's own schedule. -/
def step (s : State) : Host.Outcome State Fault Refusal :=
  match s.agenda with
  | a :: r => State.doAct { s with agenda := r } a
  | [] => s.idleStep

/-- The state with an instruction placed where the next step fetches it (Machine/Load.lean). -/
def State.withFetchWord (s : State) (nbits w : Nat) : State := s.placeWord nbits w

end Sys2Proof.Machine
end

