-- ==== Sys2Proof/Safety.lean ====
section
/-!
DEFINITION. What counts as a safe run, and the terms that claims use: an instruction that is clear to issue, what it leaves
of its group, and what it leaves of the rest of the machine.
-/
namespace Sys2Proof

/-- A step that the machine can take: it answers a next state. -/
def Runs (s : Machine.State) : Prop := ∃ t, Machine.step s = .next t

/-- A step that the model has a meaning for: anything but a refusal. -/
def Modelled (s : Machine.State) : Prop := ∀ r, Machine.step s ≠ .refused r

end Sys2Proof

namespace Sys2Proof.Machine

/-! ### Clear to issue -/

/-- An instruction that is clear to issue at a path (R13, R252): the path can issue; the instruction ends within its clause
(R85); of the registers that it names, none lies outside the group's blocks, none is pending, and none that it reads is poisoned
(R70, R140, R306), nor has any that it reads lost its data (R375); and the counter that it raises is named, where a load needs one, and
is not full (R87, R135). -/
structure Clear (s : State) (h : Here) (i : Instr) (us : List Use) (r : Raises) : Prop where
  here : s.here = some h
  length : h.p.badLength i = false
  regs : h.a.regFaults us = none
  sound : h.a.eccFault us = none
  named : r = .ka false → h.p.counter r ≠ none
  counter : h.counterFault r = none

/-! ### What an instruction leaves of its group -/

/-- The poison and the losses that registers keep once an instruction has named its destinations: a destination is poisoned no longer
(R306), and one that is written in every lane holds no loss any more (R375). -/
def Arch.cleansed (a : Arch) (us : List Use) (act : Word) : Arch :=
  { a with
    poison := a.poison.filter fun r => !(us.any fun v => v.writes && v.reg == r)
    ecc := a.ecc.filter fun r => !(us.any fun v => v.writes && v.reg == r && (!v.lane || act == BitVec.allOnes 32)) }

/-- The issuing path stands behind the instruction (R85), the other slot holds what it held, and the registers named as
destinations have lost their poison (R306), and their losses where all of them is written (R375). -/
structure Behind (u : Group) (h : Here) (i : Instr) (us : List Use) (act : Word) : Prop where
  here : u.arch.path h.slot = some (h.p.advance i.size)
  other : u.arch.path (!h.slot) = h.a.path !h.slot
  poison : u.arch.poison = (h.a.cleansed us act).poison
  ecc : u.arch.ecc = (h.a.cleansed us act).ecc

/-- The group but for its architected state and what forks and the idle-loop detector note of an instruction. -/
def Group.sameRest (u g : Group) : Prop := { u with arch := g.arch, detector := g.detector, conts := g.conts } = g

/-! ### What an instruction leaves of the rest of the machine -/

/-- A team without RET and the classifier's count of operations (R299, R323). -/
def Team.calm (t : Team) : Team := { t with ret := 0, ops := 0 }

/-- A core without its cycle counter and its performance counters (R26, R339). -/
def Core.calm (c : Core) : Core := { c with cycle := 0, perf := [] }

/-- Nothing outside one group has changed but time and what is counted: every byte of memory, every other group's registers and
paths, teams, grids, contexts, queues, threads, the matrix units, the front end, the stacks, the ports and the package. -/
structure OnlyGroup (s t : State) (grp : Nat) : Prop where
  rest : { t with groups := s.groups, teams := s.teams, cores := s.cores, free := s.free, losses := s.losses } = s
  others : (t.groups.filter fun g => g.id != grp) = s.groups.filter fun g => g.id != grp
  teams : t.teams.map Team.calm = s.teams.map Team.calm
  cores : ∀ die site, (t.core die site).calm = (s.core die site).calm

/-! ### Lane results -/

/-- What a lane instruction that writes vector registers is to do: its guard, its k destination registers from v<dest> on, the
registers that it reads, and the 32 k bits of its result in a lane, from the registers before it and its active lanes. -/
structure LaneResult where
  guard : Guard
  dest : Nat
  k : Nat
  reads : List Use
  val : Arch → Word → Nat → Nat

/-- The registers that it names, in the order of R438. -/
def LaneResult.uses (r : LaneResult) : List Use := guardUse r.guard ++ writing true (regsFrom .v r.dest r.k) ++ r.reads

/-- In its active lanes an instruction writes its result, and every other lane and register keeps its value (R7, R168). -/
def WritesLanes (i : Instr) (r : LaneResult) : Prop :=
  ∀ s h, Clear s h i r.uses .nothing → ∃ t u,
    exec i s = .next t ∧ t.group? h.g.id = some u ∧
    (∀ n l, l < 32 → u.arch.getV n l =
      if (h.active r.guard).getLsbD l ∧ r.dest ≤ n ∧ n < r.dest + r.k then
        BitVec.ofNat 32 (r.val h.a (h.active r.guard) l / 2 ^ (32 * (n - r.dest)))
      else h.a.getV n l) ∧
    { u.arch with v := h.a.v, poison := h.a.poison, ecc := h.a.ecc, path0 := h.a.path0, path1 := h.a.path1 } = h.a ∧
    Behind u h i r.uses (h.active r.guard) ∧ u.sameRest h.g ∧ OnlyGroup s t h.g.id

/-! ### What the lane instructions compute -/

/-- The integer operations of R171 and R172 on 32-bit registers: sums, differences and products wrap modulo 2^32, `imulhi` gives the
high half of the 64-bit product, a shift by 32 or more gives zeros, or copies of the sign for `shr.i32`, and `rotl` takes its
amount modulo 32. -/
def int32 (op : LitOp) (x y : Word) : Word :=
  match op with
  | .iadd => x + y
  | .isub => x - y
  | .imul => x * y
  | .imulhiI => ((x.signExtend 64 * y.signExtend 64) >>> 32).setWidth 32
  | .imulhiN => ((x.setWidth 64 * y.setWidth 64) >>> 32).setWidth 32
  | .iminI => if x.sle y then x else y
  | .iminN => if x ≤ y then x else y
  | .imaxI => if x.sle y then y else x
  | .imaxN => if x ≤ y then y else x
  | .and => x &&& y
  | .or => x ||| y
  | .xor => x ^^^ y
  | .andn => x &&& ~~~y
  | .shl => x <<< y.toNat
  | .shrN => x >>> y.toNat
  | .shrI => x.sshiftRight y.toNat
  | .rotl => x.rotateLeft (y.toNat % 32)

/-- Operands of k and kb registers, and a result of kd. -/
def laneOf2 (g : Guard) (d a b : VReg) (k kb : Nat) (f : Nat → Nat → Nat) : LaneResult :=
  ⟨g, d.toNat, k, srcV a k ++ srcV b kb, fun r _ l => f (r.lane a.toNat k l) (r.lane b.toNat kb l)⟩
def laneOf1 (g : Guard) (d a : VReg) (kd k : Nat) (f : Nat → Nat) : LaneResult :=
  ⟨g, d.toNat, kd, srcV a k, fun r _ l => f (r.lane a.toNat k l)⟩
def laneOf3 (g : Guard) (d a b c : VReg) (k : Nat) (f : Nat → Nat → Nat → Nat) : LaneResult :=
  ⟨g, d.toNat, k, srcV a k ++ srcV b k ++ srcV c k,
    fun r _ l => f (r.lane a.toNat k l) (r.lane b.toNat k l) (r.lane c.toNat k l)⟩

/-- The two-source integer instructions of one word, and `lit.i`, in 32-bit registers (R171, R172, R190, R191). -/
def laneInt (i : Instr) : Option LaneResult :=
  let bin (op : LitOp) (g : Guard) (d a b : VReg) : Option LaneResult :=
    some ⟨g, d.toNat, 1, srcV a ++ srcV b, fun r _ l => (int32 op (r.getV a.toNat l) (r.getV b.toNat l)).toNat⟩
  match i with
  | .iaddI32 g d a b => bin .iadd g d a b
  | .isubI32 g d a b => bin .isub g d a b
  | .imulI32 g d a b => bin .imul g d a b
  | .imulhiI32 g d a b => bin .imulhiI g d a b
  | .imulhiN32 g d a b => bin .imulhiN g d a b
  | .iminI32 g d a b => bin .iminI g d a b
  | .iminN32 g d a b => bin .iminN g d a b
  | .imaxI32 g d a b => bin .imaxI g d a b
  | .imaxN32 g d a b => bin .imaxN g d a b
  | .andB32 g d a b => bin .and g d a b
  | .orB32 g d a b => bin .or g d a b
  | .xorB32 g d a b => bin .xor g d a b
  | .andnB32 g d a b => bin .andn g d a b
  | .shlB32 g d a b => bin .shl g d a b
  | .shrN32 g d a b => bin .shrN g d a b
  | .shrI32 g d a b => bin .shrI g d a b
  | .rotlB32 g d a b => bin .rotl g d a b
  | .litI op g d a lit => some ⟨g, d.toNat, 1, srcV a, fun r _ l => (int32 op (r.getV a.toNat l) lit).toNat⟩
  | _ => none

/-- The one-source instructions of one word, moves, the 64-bit and the floating-point ones, and `lit.f` and `lit.mov` (R171, R174,
R175, R190, R191). -/
def laneOneWord (i : Instr) : Option LaneResult :=
  let neg (f : Fmt) (x : Nat) : Nat := floatUn .neg f .rne (f.value x)
  let abs (f : Fmt) (x : Nat) : Nat := floatUn .abs f .rne (f.value x)
  match i with
  | .popcB32 g d a => some (laneOf1 g d a 1 1 (popCount 32))
  | .clzB32 g d a => some (laneOf1 g d a 1 1 (leadingZeros 32))
  | .brevB32 g d a => some (laneOf1 g d a 1 1 (bitReverse 32))
  | .movB32 g d a => some (laneOf1 g d a 1 1 id)
  | .movB64 g d a => some (laneOf1 g d a 2 2 id)
  | .iabsI32 g d a => some (laneOf1 g d a 1 1 (intAbs .i32 false))
  | .inegI32 g d a => some (laneOf1 g d a 1 1 (intNeg .i32 false))
  | .iaddI64 g d a b => some (laneOf2 g d a b 2 2 (fun x y => (x + y) % 2 ^ 64))
  | .isubI64 g d a b => some (laneOf2 g d a b 2 2 (fun x y => (x + (2 ^ 64 - y)) % 2 ^ 64))
  | .faddF32 g d a b => some (laneOf2 g d a b 1 1 fun x y => floatBin .add .f32 .rne (Fmt.f32.value x) (Fmt.f32.value y))
  | .fsubF32 g d a b => some (laneOf2 g d a b 1 1 fun x y => floatBin .sub .f32 .rne (Fmt.f32.value x) (Fmt.f32.value y))
  | .fmulF32 g d a b => some (laneOf2 g d a b 1 1 fun x y => floatBin .mul .f32 .rne (Fmt.f32.value x) (Fmt.f32.value y))
  | .fminF32 g d a b => some (laneOf2 g d a b 1 1 (floatPick .f32 false))
  | .fmaxF32 g d a b => some (laneOf2 g d a b 1 1 (floatPick .f32 true))
  | .faddF64 g d a b => some (laneOf2 g d a b 2 2 fun x y => floatBin .add .f64 .rne (Fmt.f64.value x) (Fmt.f64.value y))
  | .fsubF64 g d a b => some (laneOf2 g d a b 2 2 fun x y => floatBin .sub .f64 .rne (Fmt.f64.value x) (Fmt.f64.value y))
  | .fmulF64 g d a b => some (laneOf2 g d a b 2 2 fun x y => floatBin .mul .f64 .rne (Fmt.f64.value x) (Fmt.f64.value y))
  | .fminF64 g d a b => some (laneOf2 g d a b 2 2 (floatPick .f64 false))
  | .fmaxF64 g d a b => some (laneOf2 g d a b 2 2 (floatPick .f64 true))
  | .fabsF32 g d a => some (laneOf1 g d a 1 1 (abs .f32))
  | .fabsF64 g d a => some (laneOf1 g d a 2 2 (abs .f64))
  | .fnegF32 g d a => some (laneOf1 g d a 1 1 (neg .f32))
  | .fnegF64 g d a => some (laneOf1 g d a 2 2 (neg .f64))
  | .litF op g d a lit => some (laneOf1 g d a 1 1 fun x => op.eval .f32 x lit.toNat)
  | .litMov g d lit => some ⟨g, d.toNat, 1, [], fun _ _ _ => lit.toNat⟩
  | _ => none

/-- The extended arithmetic instructions, by the operation of R91 in their type and with their modifiers (R171-R175, R183). A
shift's amount is one 32-bit register (R170), and `bfe` and `bfi` work on 32 bits (R173). -/
def laneExtended (i : Instr) : Option LaneResult :=
  let two (op : XOp) (g : Guard) (d a b : VReg) (t : Ty) (kb : Nat) (rnd : Rnd := .rne) (sat na nb : Bool := false) : Option LaneResult :=
    some (laneOf2 g d a b t.regs kb fun x y => op.eval t rnd (arithMods sat na nb false) x y 0)
  let one (op : XOp) (g : Guard) (d a : VReg) (t : Ty) (rnd : Rnd := .rne) (sat : Bool := false) : Option LaneResult :=
    some (laneOf1 g d a t.regs t.regs fun x => op.eval t rnd (arithMods sat false false false) x 0 0)
  let three (op : XOp) (g : Guard) (d a b c : VReg) (t : Ty) (rnd : Rnd := .rne) (sat na nb nc : Bool := false) : Option LaneResult :=
    some (laneOf3 g d a b c t.regs fun x y z => op.eval t rnd (arithMods sat na nb nc) x y z)
  match i with
  | .iaddExt g d a b t sat => two .iadd g d a b t t.regs .rne sat
  | .isubExt g d a b t sat => two .isub g d a b t t.regs .rne sat
  | .imulExt g d a b t => two .imul g d a b t t.regs
  | .imulhiExt g d a b t => two .imulhi g d a b t t.regs
  | .iminExt g d a b t => two .imin g d a b t t.regs
  | .imaxExt g d a b t => two .imax g d a b t t.regs
  | .shlExt g d a b t => two .shl g d a b t 1
  | .shrExt g d a b t => two .shr g d a b t 1
  | .faddExt g d a b t rnd na nb => two .fadd g d a b t t.regs rnd false na nb
  | .fsubExt g d a b t rnd na nb => two .fsub g d a b t t.regs rnd false na nb
  | .fmulExt g d a b t rnd na nb => two .fmul g d a b t t.regs rnd false na nb
  | .fdiv g d a b t rnd na nb => two .fdiv g d a b t t.regs rnd false na nb
  | .fminExt g d a b t na nb => two .fmin g d a b t t.regs .rne false na nb
  | .fmaxExt g d a b t na nb => two .fmax g d a b t t.regs .rne false na nb
  | .imad g d a b c t sat => three .imad g d a b c t .rne sat
  | .clamp g d a b c t => three .clamp g d a b c t
  | .fma g d a b c t rnd na nb nc => three .fma g d a b c t rnd false na nb nc
  | .bfe g d a b c t => some (laneOf3 g d a b c 1 (bitExtract t))
  | .bfi g d a b c => some (laneOf3 g d a b c 1 bitInsert)
  | .iabsExt g d a t sat => one .iabs g d a t .rne sat
  | .inegExt g d a t sat => one .ineg g d a t .rne sat
  | .fsqrt g d a t rnd => one .fsqrt g d a t rnd
  | .frcp g d a t rnd => one .frcp g d a t rnd
  | .frint g d a t rnd => one .frint g d a t rnd
  | .frsqrt g d a t => one .frsqrt g d a t
  | .fexp2 g d a => one .fexp2 g d a .f32
  | .flog2 g d a => one .flog2 g d a .f32
  | .sel g d a b p t => some ⟨g, d.toNat, t.regs, srcV a t.regs ++ srcV b t.regs ++ srcP p, fun r _ l =>
      if (r.getP p.toNat).getLsbD l then r.lane a.toNat t.regs l else r.lane b.toNat t.regs l⟩
  | _ => none

/-- Conversions and packs (R176-R180), lane exchanges (R184, R185), `cen.bits` (R186), `get.lane` (R187), reductions over the fixed
tree (R188) and the scan (R189). -/
def laneAcross (i : Instr) : Option LaneResult :=
  let xch (g : Guard) (d a b : VReg) (src : Nat → Nat → Nat) : Option LaneResult :=
    some ⟨g, d.toNat, 1, srcV a ++ srcV b, fun r _ l => (r.getV a.toNat (src l ((r.getV b.toNat l).toNat % 32))).toNat⟩
  let red (g : Guard) (d a : VReg) (f : Nat → Nat → Nat) : Option LaneResult :=
    some ⟨g, d.toNat, 1, srcV a, fun r act _ => treeReduce f act fun l => (r.getV a.toNat l).toNat⟩
  match i with
  | .xchAt g d a b => xch g d a b fun _ n => n
  | .xchSub g d a b => xch g d a b fun l n => if n ≤ l then l - n else l
  | .xchAdd g d a b => xch g d a b fun l n => if l + n < 32 then l + n else l
  | .xchFlip g d a b => xch g d a b fun l n => l ^^^ n
  | .cenBits g d q => some ⟨g, d.toNat, 1, srcP q, fun r act _ => (r.getP q.toNat &&& act).toNat⟩
  | .getLane g d => some ⟨g, d.toNat, 1, [], fun _ _ l => l⟩
  | .redAdd g d a t => red g d a (redOp .add .fadd t)
  | .redMin g d a t => red g d a (redOp .min .fmin t)
  | .redMax g d a t => red g d a (redOp .max .fmax t)
  | .scanAdd g d a _ => some ⟨g, d.toNat, 1, srcV a, fun r act l =>
      ((List.range 32).map fun j => if act.getLsbD j && j ≤ l then (r.getV a.toNat j).toNat else 0).sum⟩
  | .cvt g d a t st rnd sat hi => some ⟨g, d.toNat, t.regs, srcV a st.regs, fun r _ l =>
      let src (j : Nat) : Nat := r.lane a.toNat st.regs j / (if hi then 2 ^ 16 else 1) % 2 ^ st.bits
      fill32 t (convert t st rnd sat (rhoAt ((List.range 32).map src) l) (src l))⟩
  | .cvtPk g d a b t rnd => some ⟨g, d.toNat, 1, srcV a ++ srcV b, fun r _ l =>
      packElem r a.toNat t rnd l + 2 ^ 16 * packElem r b.toNat t rnd l⟩
  | .cvtPk4 g d a t rnd => some ⟨g, d.toNat, 1, srcV a 4, fun r _ l =>
      packElem r a.toNat t rnd l + 2 ^ 8 * packElem r (a.toNat + 1) t rnd l + 2 ^ 16 * packElem r (a.toNat + 2) t rnd l
        + 2 ^ 24 * packElem r (a.toNat + 3) t rnd l⟩
  | _ => none

/-! ### Predicate results (R181, R182, R186) -/

/-- What a lane instruction that writes a predicate is to do: its guard, its destination, the registers that it reads, and the
bit of a lane, from the registers before it and its active lanes. -/
structure PredResult where
  guard : Guard
  dest : PReg
  reads : List Use
  val : Arch → Word → Nat → Bool

def PredResult.uses (r : PredResult) : List Use := guardUse r.guard ++ dstP r.dest ++ r.reads

/-- In its active lanes an instruction writes its bit; every other bit and predicate keeps its value, and a write to `pt` is
discarded (R5, R7, R181). -/
def WritesPred (i : Instr) (r : PredResult) : Prop :=
  ∀ s h, Clear s h i r.uses .nothing → ∃ t u,
    exec i s = .next t ∧ t.group? h.g.id = some u ∧
    (∀ n l, l < 32 → (u.arch.getP n).getLsbD l =
      if (h.active r.guard).getLsbD l ∧ n = r.dest.toNat ∧ n ≠ 7 then r.val h.a (h.active r.guard) l else (h.a.getP n).getLsbD l) ∧
    { u.arch with p := h.a.p, poison := h.a.poison, ecc := h.a.ecc, path0 := h.a.path0, path1 := h.a.path1 } = h.a ∧
    Behind u h i r.uses (h.active r.guard) ∧ u.sameRest h.g ∧ OnlyGroup s t h.g.id

/-- Compares (R181), predicate logic (R182) and the census of active lanes (R186). -/
def predResult (i : Instr) : Option PredResult :=
  let cmp (g : Guard) (p : PReg) (a b : VReg) (k : Nat) (f : Nat → Nat → Bool) : Option PredResult :=
    some ⟨g, p, srcV a k ++ srcV b k, fun r _ l => f (r.lane a.toNat k l) (r.lane b.toNat k l)⟩
  let logic (g : Guard) (p q r : PReg) (f : Bool → Bool → Bool) : Option PredResult :=
    some ⟨g, p, srcP q ++ srcP r, fun x _ l => f ((x.getP q.toNat).getLsbD l) ((x.getP r.toNat).getLsbD l)⟩
  match i with
  | .icmpI32 g c p a b => cmp g p a b 1 fun x y => c.int (Ty.i32.int x) (Ty.i32.int y)
  | .icmpN32 g c p a b => cmp g p a b 1 fun x y => c.int x y
  | .icmpI64 g c p a b => cmp g p a b 2 fun x y => c.int (Ty.i64.int x) (Ty.i64.int y)
  | .icmpN64 g c p a b => cmp g p a b 2 fun x y => c.int x y
  | .fcmpF32 g c p a b => cmp g p a b 1 fun x y => c.float (Fmt.f32.value x) (Fmt.f32.value y)
  | .fcmpF64 g c p a b => cmp g p a b 2 fun x y => c.float (Fmt.f64.value x) (Fmt.f64.value y)
  | .pand g p q r => logic g p q r fun x y => x && y
  | .por g p q r => logic g p q r fun x y => x || y
  | .pxor g p q r => logic g p q r fun x y => xor x y
  | .pandn g p q r => logic g p q r fun x y => x && !y
  | .cenAll g p q => some ⟨g, p, srcP q, fun x act _ => act &&& ~~~x.getP q.toNat == 0⟩
  | .cenAny g p q => some ⟨g, p, srcP q, fun x act _ => act &&& x.getP q.toNat != 0⟩
  | _ => none

/-! ### Uniform results (R79, R93-R95, R169, R192-R194) -/

/-- What an instruction that writes uniform registers is to do: its k destination registers from s<dest> on, the registers that
it reads, and the 32 k bits of its result, from the machine before it. -/
structure UniResult where
  dest : Nat
  k : Nat
  reads : List Use
  val : State → Here → Nat

def UniResult.uses (r : UniResult) : List Use := writing false (regsFrom .s r.dest r.k) ++ r.reads

/-- The instruction writes its result whatever the execute mask holds, and every other register keeps its value (R169). -/
def WritesUniform (i : Instr) (r : UniResult) : Prop :=
  ∀ s h, Clear s h i r.uses .nothing → ∃ t u,
    exec i s = .next t ∧ t.group? h.g.id = some u ∧
    (∀ n, u.arch.getS n =
      if r.dest ≤ n ∧ n < r.dest + r.k then BitVec.ofNat 32 (r.val s h / 2 ^ (32 * (n - r.dest))) else h.a.getS n) ∧
    { u.arch with s := h.a.s, poison := h.a.poison, ecc := h.a.ecc, path0 := h.a.path0, path1 := h.a.path1 } = h.a ∧
    Behind u h i r.uses h.p.em ∧ u.sameRest h.g ∧ OnlyGroup s t h.g.id

/-- A uniform operation of R93 on s registers, or on x pairs with W64 (R79): a shift reads one amount register (R170), a compare
writes one register. -/
def uniOf (op : UOp) (d a b : SReg) (w : Bool) (c : Cond := .eq) : Option UniResult :=
  let k := if w then 2 else 1
  let kb := if op.amount then 1 else k
  some ⟨d.toNat, if op.isCompare then 1 else k, srcS a k ++ srcS b kb,
    fun _ h => op.eval w c (h.a.uni a.toNat k) (h.a.uni b.toNat kb)⟩

/-- The uniform arithmetic instructions (R192-R194). -/
def uniArith (i : Instr) : Option UniResult :=
  let one (d a : SReg) (w : Bool) (f : Nat → Nat → Nat) : Option UniResult :=
    some ⟨d.toNat, if w then 2 else 1, srcS a (if w then 2 else 1), fun _ h => f (if w then 64 else 32) (h.a.uni a.toNat (if w then 2 else 1))⟩
  match i with
  | .uniformIadd d a b w => uniOf .iadd d a b w
  | .uniformIsub d a b w => uniOf .isub d a b w
  | .uniformImul d a b w => uniOf .imul d a b w
  | .uniformImulhiI d a b w => uniOf .imulhiI d a b w
  | .uniformImulhiN d a b w => uniOf .imulhiN d a b w
  | .uniformIminI d a b w => uniOf .iminI d a b w
  | .uniformIminN d a b w => uniOf .iminN d a b w
  | .uniformImaxI d a b w => uniOf .imaxI d a b w
  | .uniformImaxN d a b w => uniOf .imaxN d a b w
  | .uniformAnd d a b w => uniOf .and d a b w
  | .uniformOr d a b w => uniOf .or d a b w
  | .uniformXor d a b w => uniOf .xor d a b w
  | .uniformAndn d a b w => uniOf .andn d a b w
  | .uniformShl d a b w => uniOf .shl d a b w
  | .uniformShrN d a b w => uniOf .shrN d a b w
  | .uniformShrI d a b w => uniOf .shrI d a b w
  | .uniformRotl d a b w => uniOf .rotl d a b w
  | .uniformIcmpI d a b w c => uniOf .icmpI d a b w c
  | .uniformIcmpN d a b w c => uniOf .icmpN d a b w c
  | .uniformFadd d a b => uniOf .fadd d a b false
  | .uniformFsub d a b => uniOf .fsub d a b false
  | .uniformFmul d a b => uniOf .fmul d a b false
  | .uniformFmin d a b => uniOf .fmin d a b false
  | .uniformFmax d a b => uniOf .fmax d a b false
  | .uniformFcmp d a b c => uniOf .fcmp d a b false c
  | .uniformPopc d a w => one d a w popCount
  | .uniformClz d a w => one d a w leadingZeros
  | .uniformBrev d a w => one d a w bitReverse
  | .uniformMov d a w => one d a w fun _ x => x
  | .uniformLiteralForm op d a w c lit =>
    some ⟨d.toNat, if op.isCompare then 1 else if w then 2 else 1, if op == .mov then [] else srcS a (if w then 2 else 1),
      fun _ h => op.eval w c (h.a.uni a.toNat (if w then 2 else 1)) (litOperand w op.isSigned lit)⟩
  | .uniformExtended op d a b c t rnd m lit =>
    some ⟨d.toNat, t.regs, uniExtUses op a b c t m lit, fun _ h => uniExtVal op a b c t rnd m lit h.a⟩
  | _ => none

/-- `get` (R95): indexes and sizes (R309), where the group runs, the cycle counter (R26), the masks and `fmt` (R257). -/
def getResult (i : Instr) : Option UniResult :=
  let size (s : State) (h : Here) (f : Grid → Nat) : Nat := ((s.grid? h.t.grid).map f).getD 1
  match i with
  | .getGroup d => some ⟨d.toNat, 1, [], fun _ h => h.g.gidx⟩
  | .getTeamX d => some ⟨d.toNat, 1, [], fun s h => h.t.t % size s h (·.gx)⟩
  | .getTeamY d => some ⟨d.toNat, 1, [], fun s h => h.t.t / size s h (·.gx) % size s h (·.gy)⟩
  | .getTeamZ d => some ⟨d.toNat, 1, [], fun s h => h.t.t / (size s h (·.gx) * size s h (·.gy))⟩
  | .getGridX d => some ⟨d.toNat, 1, [], fun s h => size s h (·.gx)⟩
  | .getGridY d => some ⟨d.toNat, 1, [], fun s h => size s h (·.gy)⟩
  | .getGridZ d => some ⟨d.toNat, 1, [], fun s h => size s h (·.gz)⟩
  | .getCore d => some ⟨d.toNat, 1, [], fun _ h => h.t.site⟩
  | .getCluster d => some ⟨d.toNat, 1, [], fun _ h => h.t.cluster⟩
  | .getDie d => some ⟨d.toNat, 1, [], fun _ h => h.t.die⟩
  | .getCtx d => some ⟨d.toNat, 1, [], fun s h => s.gridCtx h.t.grid⟩
  | .getCycle d => some ⟨d.toNat, 2, [], fun s h => (s.core h.t.die h.t.site).cycle.toNat⟩
  | .getEm d => some ⟨d.toNat, 1, reading [topReg], fun _ h => (h.p.m &&& h.p.pst.headD 0).toNat⟩
  | .getLm d => some ⟨d.toNat, 1, [], fun _ h => h.a.lm.toNat⟩
  | .getFmt d => some ⟨d.toNat, 1, reading [fmtReg], fun _ h => h.p.fmt.toNat⟩
  | _ => none

/-! ### What an instruction does to its path and to the rest of its group -/

/-- What an instruction that only changes its group is to do: the registers that it names, when it executes normally, and the
architected state that it leaves, from the one in which its path stands behind it. -/
structure GroupResult where
  uses : List Use
  ok : State → Here → Prop
  after : State → Here → Arch → Arch

/-- The architected state in which the issuing path stands behind an instruction with these active lanes. -/
def Here.behind (h : Here) (i : Instr) (us : List Use) (act : Word := h.p.em) : Arch :=
  (h.a.setPath h.slot (some (h.p.advance i.size))).cleansed us act

/-- The instruction leaves the architected state that it is to leave, and nothing outside its group changes. -/
def ChangesGroup (i : Instr) (r : GroupResult) : Prop :=
  ∀ s h, Clear s h i r.uses .nothing → r.ok s h → ∃ t u,
    exec i s = .next t ∧ t.group? h.g.id = some u ∧ u.arch = r.after s h (h.behind i r.uses) ∧ u.sameRest h.g ∧
    OnlyGroup s t h.g.id

/-- The issuing path replaced by `f` of it. -/
def Here.onOwn (h : Here) (f : Path → Path) (a : Arch) : Arch := a.setPath h.slot ((a.path h.slot).map f)

/-- A transfer to an address: the path enters a clause there (R85). -/
def Path.jump (target : DWord) (p : Path) : Path := { p with pc := target, entry := .target }

/-- The predicate stack (R256-R259), `fmt` (R224), `nop` (R274) and `fence`, which waits for the lane accesses that
lanes of its path have made (R145, R151). -/
def maskResult (i : Instr) : Option GroupResult :=
  let pst (us : List Use) (ok : Here → Prop) (f : Here → List Word) : Option GroupResult :=
    some ⟨us, fun _ h => ok h, fun _ h => h.onOwn fun p => { p with pst := f h }⟩
  match i with
  | .emSet a => pst (srcS a ++ writing false [topReg]) (fun _ => True) fun h => h.a.getS a.toNat :: h.p.pst.tail
  | .pmPush p => pst (srcP p ++ reading [topReg] ++ writing false [topReg]) (fun h => h.p.depth ≠ 16)
      fun h => (h.p.pst.headD 0 &&& h.a.getP p.toNat) :: h.p.pst
  | .pmInv => pst (reading [topReg] ++ writing false [topReg]) (fun h => h.p.depth ≠ 0)
      fun h => (h.p.pst.tail.headD 0 &&& ~~~h.p.pst.headD 0) :: h.p.pst.tail
  | .pmPop => pst (reading [topReg] ++ writing false [topReg]) (fun h => h.p.depth ≠ h.p.floor) fun h => h.p.pst.tail
  | .fmtSet a => some ⟨srcS a ++ writing false [fmtReg], fun _ _ => True,
      fun _ h => h.onOwn fun p => { p with fmt := (h.a.getS a.toNat).setWidth 16 &&& 0x7FFF }⟩
  | .fmtSetImm lit => some ⟨writing false [fmtReg], fun _ _ => True, fun _ h => h.onOwn fun p => { p with fmt := lit.setWidth 16 &&& 0x7FFF }⟩
  | .nop => some ⟨[], fun _ _ => True, fun _ _ a => a⟩
  | .fence _ => some ⟨[], fun _ h => ∀ t ∈ h.a.tracked, t.done = false → t.lanes &&& h.p.m ≠ 0 → t.path ≠ .T ∧ t.path ≠ .D ∧ t.path ≠ .P,
      fun _ _ a => a⟩
  | _ => none

/-- A transfer's target is sound (R85), and its fetch waits for no stack in training (R379). -/
abbrev State.goesTo (s : State) (h : Here) (target : DWord) : Prop := s.targetFault h.t target = none ∧ s.clauseHeld h.t target = false

/-- Transfers whose target is sound (R85): `bra` by its condition (R81, R260), `bra.ind` (R271), and the calls, which push the return
address with the caller's floor and make the caller's depth the floor (R270). -/
def transferResult (i : Instr) : Option GroupResult :=
  match i with
  | .bra c a disp => some ⟨if c = .always then [] else srcS a,
      fun s h => c.holds (h.a.getS a.toNat) = true → s.goesTo h (h.p.pc + 4 * disp.signExtend 64),
      fun _ h => if c.holds (h.a.getS a.toNat) then h.onOwn (.jump (h.p.pc + 4 * disp.signExtend 64)) else id⟩
  | .braInd a => some ⟨srcS a 2, fun s h => s.goesTo h (h.a.getX a.toNat), fun _ h => h.onOwn (.jump (h.a.getX a.toNat))⟩
  | .call disp => some ⟨[],
      fun s h => s.goesTo h (h.p.pc + 4 * disp.signExtend 64) ∧ h.a.pushFault h.slot = none,
      fun _ h a => h.onOwn (.jump (h.p.pc + 4 * disp.signExtend 64)) (a.pushCall h.slot h.p.nextClause 0 0 0)⟩
  | .callInd a => some ⟨srcS a 2, fun s h => s.goesTo h (h.a.getX a.toNat) ∧ h.a.pushFault h.slot = none,
      fun _ h b => h.onOwn (.jump (h.a.getX a.toNat)) (b.pushCall h.slot h.p.nextClause 0 0 0)⟩
  | _ => none

/-- Where a `brd` goes (R261): on, where no lane takes it; to its target, where every lane of the path does; else it splits: the
reconvergence point is pushed, above the path that the other slot holds, and the children take the slots. -/
def brdResult (p : PReg) (neg : Bool) (disp rdisp : BitVec 16) : GroupResult :=
  let tgt (h : Here) (d : BitVec 16) : DWord := h.p.pc + 4 * d.signExtend 64
  { uses := srcP p ++ reading [topReg]
    ok := fun s h =>
      (h.taken p neg ≠ 0 → s.goesTo h (tgt h disp)) ∧
        (h.splits p neg = true → (∃ w, s.fetchWord h.t (tgt h rdisp).toNat = .ok w ∧ isHeader w = true) ∧ badTarget (tgt h rdisp) = false ∧
          s.clauseHeld h.t (tgt h rdisp) = false ∧ h.a.pushFault h.slot = none)
    after := fun _ h a =>
      if h.taken p neg = 0 then a
      else if h.splits p neg then
        let b := a.pushOther h.slot
        let parent := { h.p with floor := h.p.depth, passed := 0 }
        let taken := some { parent with m := h.taken p neg, pc := tgt h disp, entry := .target, park := none }
        let falls := (b.path h.slot).map fun q => { q with m := h.falls p neg, floor := h.p.depth, passed := 0 }
        let c := { b with stack := .recon (tgt h rdisp) h.p.m h.off (h.p.pst.headD 0) h.p.depth h.p.floor h.p.fmt :: b.stack }
        if h.falls p neg = 0 then c.setPath h.slot taken else (c.setPath h.slot falls).setPath (!h.slot) taken
      else h.onOwn (.jump (tgt h disp)) a }

/-! ### What an instruction does besides -/

/-- What an instruction is to do where it executes normally: its guard, the registers that it names, the counter that it raises,
the conditions under which it does, and what the next state and the group in it hold. -/
structure Effect where
  guard : Guard := 7
  uses : List Use
  raises : Raises := .nothing
  ok : State → Here → Prop
  post : State → Here → State → Group → Prop

def Effect.allUses (e : Effect) : List Use := guardUse e.guard ++ e.uses

/-- Clear to issue, and under its conditions, the instruction has its effect. -/
def Completes (i : Instr) (e : Effect) : Prop :=
  ∀ s h, Clear s h i e.allUses e.raises → e.ok s h → ∃ t u, exec i s = .next t ∧ t.group? h.g.id = some u ∧ e.post s h t u

/-- Of the group, the path stands behind the instruction, and nothing else has changed but by `f`. -/
def Leaves (h : Here) (i : Instr) (us : List Use) (f : Arch → Arch) (u : Group) (act : Word := h.p.em) : Prop :=
  u.arch = f (h.behind i us act) ∧ u.sameRest h.g

/-- The instruction waits: its path stays where it is, parked, and nothing else has changed (R252). -/
def Parks (s : State) (h : Here) (k : Park) (t : State) (u : Group) : Prop :=
  u = { h.g with arch := h.a.setPath h.slot (some { h.p with park := some k }) } ∧ OnlyGroup s t h.g.id

/-- Parking so does not make the group fault-parked, or its context names no share (R333). -/
abbrev KeepsShare (s : State) (h : Here) (k : Park) : Prop :=
  s.fpshare (s.hereCtx h) = 0 ∨
    (s.park h.g.id h.slot (some k)).faultParked { h.g with arch := h.a.setPath h.slot (some { h.p with park := some k }) } = false

/-! ### Memory as a function, and what a write brings about -/

/-- Memory with bytes put at keys, one after the other. -/
def putAt (m : Nat → Byte) : List Nat → List Byte → Nat → Byte
  | k :: ks, b :: bs => putAt (fun x => if x = k then b else m x) ks bs
  | _, _ => m

/-- The keys of runs, in order. -/
def keysOf (runs : List (Nat × Nat)) : List Nat := runs.flatMap fun r => (List.range r.2).map fun j => r.1 + j

/-- Fields at offsets from a key: offset, size and value of each. -/
def fieldsAt (m : Nat → Byte) (k : Nat) : List (Nat × Nat × Nat) → Nat → Byte
  | [] => m
  | (o, n, x) :: r => fieldsAt (putAt m ((List.range n).map fun j => k + o + j) (toBytes n x)) k r

/-- A group's registers, without its paths and its split stack. -/
def Arch.regs (a : Arch) : Arch := { a with path0 := none, path1 := none, stack := [], kept := [] }

/-- A group without what a write event may change in it: its cairn, its detector, the spins and cairns that its paths wait on, and
its continuations. -/
def Group.quiet (g : Group) : Group := { g with cairn := none, detector := none, conts := [], arch := g.arch.regs }

/-- A team without its counts and without what a wake changes. -/
def Team.quiet (t : Team) : Team := { t with ret := 0, ops := 0, woken := false, wakeSet := [] }

/-- Memory has changed, and so have the dirty lines of the stack caches, whose data a reset loses (R389), and what a write event brings
about; one group's registers may have changed; nothing else has. -/
structure OnlyMemory (s t : State) (grp : Nat) : Prop where
  rest : { t with mem := s.mem, cache := s.cache, groups := s.groups, teams := s.teams, dies := s.dies, cores := s.cores, free := s.free,
                  losses := s.losses } = s
  others : (t.groups.filter fun g => g.id != grp).map Group.quiet = (s.groups.filter fun g => g.id != grp).map Group.quiet
  teams : t.teams.map Team.quiet = s.teams.map Team.quiet
  cores : ∀ die site, (t.core die site).calm = (s.core die site).calm

/-- Of a group that wrote to memory: its path stands behind the instruction, and its registers have changed only by `f`. -/
def LeavesWriter (h : Here) (i : Instr) (us : List Use) (f : Arch → Arch) (u : Group) (act : Word := h.p.em) : Prop :=
  u.arch.path h.slot = some (h.p.advance i.size) ∧ u.quiet = { h.g.quiet with arch := (f (h.behind i us act)).regs }

/-! ### Lane loads, stores and atomics (R196-R200) -/

/-- The word of destination register j that a load of n bytes takes: extended to 32 bits below them (R197). -/
def loadedWord (n : Nat) (signed : Bool) (bs : List Byte) (j : Nat) : Word :=
  if n < 4 then
    let x := BitVec.ofNat (8 * n) (ofBytes bs)
    if signed then x.signExtend 32 else x.setWidth 32
  else BitVec.ofNat 32 (fieldOf bs (4 * j) 4)

/-- The bytes that a lane reaches. -/
def State.reached (s : State) (h : Here) (a : VReg) (sp : Space) (store : Bool) (n l : Nat) : LaneBytes :=
  match s.laneBytes h sp store n l (h.offset a l) with
  | .ok b => b
  | .error _ => ⟨[], []⟩

/-- Every active lane's access is sound: aligned, in bounds, mapped, and not lost (R13, R120, R130, R375); none waits for a stack in
training (R379), and the group has performed every access before it (R152). -/
def State.lanesOk (s : State) (h : Here) (g : Guard) (a : VReg) (sp : Space) (store : Bool) (n : Nat) : Prop :=
  (∀ l ∈ lanesOf (h.active g), ∃ b, s.laneBytes h sp store n l (h.offset a l) = .ok b ∧ b.runs.all fun r => !s.isLost r.1 r.2) ∧
    s.privHeld h g a sp n = false ∧ ∀ t ∈ h.a.tracked, t.late = []

/-- A load of n bytes: tracked on the path of its space, with what each active lane read, until it completes (R132, R197); one that the
schedule puts off is tracked with what each lane is to read (R152). -/
def loadEffect (i : Instr) (g : Guard) (d a : VReg) (n : Nat) (signed : Bool) (o : MemOrder) (sp : Space) : Effect :=
  let k := (n + 3) / 4
  let us := dstV d k ++ srcV a
  { guard := g
    uses := us
    raises := .ka false
    ok := fun s h => memStall o h = false ∧ s.lanesOk h g a sp false n
    post := fun s h t u =>
      let off := s.putsOffLoad h o sp (h.active g)
      Leaves h i (guardUse g ++ us)
        (fun r => r.raise (h.p.counter (.ka false))
          { path := pathOf sp, dests := regsFrom .v d.toNat k
            data := if off then [] else (lanesOf (h.active g)).flatMap fun l =>
              (List.range k).map fun j =>
                (d.toNat + j, l, loadedWord n signed (s.viewBytes (s.viewCont h.g.id) (s.reached h a sp false n l)) j)
            late := if off then (lanesOf (h.active g)).map fun l => .read l d.toNat n signed (s.reached h a sp false n l).runs else []
            acq := (o == .acq || o == .acqRel) && h.active g != 0
            lanes := h.p.m
            done := h.active g == 0 }) u (h.active g)
        ∧ OnlyGroup s t h.g.id }

/-- The lanes' stores one after the other, lowest lane first: of lanes that write one byte, the highest comes last (R123). -/
def storeLanes (s : State) (h : Here) (d a : VReg) (sp : Space) (n : Nat) (m : Nat → Byte) : List Nat → Nat → Byte
  | [] => m
  | l :: ls =>
    storeLanes s h d a sp n (putAt m (keysOf (s.reached h a sp true n l).runs) (toBytes n (h.a.lane d.toNat ((n + 3) / 4) l))) ls

/-- A store of n bytes (R123, R197): each active lane's bytes are in memory, and no others have changed. A continuation holds its
stores back (R279), and a store that the schedule puts off keeps them with its tracked instruction until it completes (R152): memory
then keeps every byte. -/
def storeEffect (i : Instr) (g : Guard) (d a : VReg) (n : Nat) (o : MemOrder) (sp : Space) : Effect :=
  let us := srcV d ((n + 3) / 4) ++ srcV a
  { guard := g
    uses := us
    raises := .ka true
    ok := fun s h => memStall o h = false ∧ s.lanesOk h g a sp true n
    post := fun s h t u =>
      let act := h.active g
      let off := s.putsOff h o sp true act
      let late := if off then (lanesOf act).flatMap fun l =>
        (runBytes (s.reached h a sp true n l).runs (toBytes n (h.a.lane d.toNat ((n + 3) / 4) l))).map fun r => Late.store r.1 r.2 else []
      let track (r : Arch) : Arch := r.raise (h.p.counter (.ka true)) { path := pathOf sp, lanes := h.p.m, late := late, done := act == 0 }
      if s.view.isNone && !off then
        (∀ k, t.byte k = storeLanes s h d a sp n s.byte (lanesOf act) k) ∧ LeavesWriter h i (guardUse g ++ us) track u act ∧
          OnlyMemory s t h.g.id
      else Leaves h i (guardUse g ++ us) track u act ∧ OnlyGroup s t h.g.id }

/-- Read-modify-writes in increasing lane order: memory after them, and each lane's old value (R123, R200). -/
def atomicSteps (f : Nat → Nat → Nat) (keys : Nat → List Nat) (m : Nat → Byte) : List Nat → (Nat → Byte) × List (Nat × Nat)
  | [] => (m, [])
  | l :: ls =>
    let old := ofBytes ((keys l).map m)
    let r := atomicSteps f keys (putAt m (keys l) (toBytes (keys l).length (f l old))) ls
    (r.1, (l, old) :: r.2)

/-- A lane atomic (R200): RET 1 returns each lane's old value on completion. One that the schedule puts off is tracked with each lane's
operands, and memory keeps every byte (R152). -/
def atomicEffect (i : Instr) (op : AtomicOp) (g : Guard) (d a b c : VReg) (t : Ty) (o : MemOrder) (sp : Space) (ret : Bool) : Effect :=
  let k := t.regs
  let us := (if ret then dstV d k else []) ++ srcV a ++ srcV b k ++ (if op == .cas then srcV c k else [])
  { guard := g
    uses := us
    raises := .ka false
    ok := fun s h => s.view = none ∧ memStall o h = false ∧ s.lanesOk h g a sp true (4 * k)
    post := fun s h s' u =>
      let f (l old : Nat) : Nat := op.eval t old (h.a.lane b.toNat k l) (h.a.lane c.toNat k l)
      let r := atomicSteps f (fun l => keysOf (s.reached h a sp true (4 * k) l).runs) s.byte (lanesOf (h.active g))
      let off := s.putsOff h o sp false (h.active g)
      (∀ q, s'.byte q = if off then s.byte q else r.1 q) ∧
        LeavesWriter h i (guardUse g ++ us)
          (fun x => x.raise (h.p.counter (.ka false))
            { path := pathOf sp, dests := if ret then regsFrom .v d.toNat k else []
              data := if ret && !off then r.2.flatMap fun e =>
                (List.range k).map fun j => (d.toNat + j, e.1, BitVec.ofNat 32 (e.2 / 2 ^ (32 * j))) else []
              late := if off then (lanesOf (h.active g)).map fun l =>
                .rmw l d.toNat ret op t (h.a.lane b.toNat k l) (h.a.lane c.toNat k l) (s.reached h a sp true (4 * k) l).runs else []
              acq := (o == .acq || o == .acqRel) && h.active g != 0
              lanes := h.p.m
              done := h.active g == 0 }) u (h.active g) ∧
        OnlyMemory s s' h.g.id }

/-- The lane memory instructions. -/
def laneMemEffect (i : Instr) : Option Effect :=
  match i with
  | .ldN8 g d a o _ sp => some (loadEffect i g d a 1 false o sp)
  | .ldI8 g d a o _ sp => some (loadEffect i g d a 1 true o sp)
  | .ldN16 g d a o _ sp => some (loadEffect i g d a 2 false o sp)
  | .ldI16 g d a o _ sp => some (loadEffect i g d a 2 true o sp)
  | .ldB32 g d a o _ sp => some (loadEffect i g d a 4 false o sp)
  | .ldB64 g d a o _ sp => some (loadEffect i g d a 8 false o sp)
  | .ldB128 g d a o _ sp => some (loadEffect i g d a 16 false o sp)
  | .stB8 g d a o _ sp => some (storeEffect i g d a 1 o sp)
  | .stB16 g d a o _ sp => some (storeEffect i g d a 2 o sp)
  | .stB32 g d a o _ sp => some (storeEffect i g d a 4 o sp)
  | .stB64 g d a o _ sp => some (storeEffect i g d a 8 o sp)
  | .stB128 g d a o _ sp => some (storeEffect i g d a 16 o sp)
  | _ => none

/-- The lane atomics. -/
def laneAtomicEffect (i : Instr) : Option Effect :=
  match i with
  | .atmAdd g d a b t o _ sp ret => some (atomicEffect i .add g d a b 0 t o sp ret)
  | .atmMin g d a b t o _ sp ret => some (atomicEffect i .min g d a b 0 t o sp ret)
  | .atmMax g d a b t o _ sp ret => some (atomicEffect i .max g d a b 0 t o sp ret)
  | .atmAnd g d a b t o _ sp ret => some (atomicEffect i .and g d a b 0 t o sp ret)
  | .atmOr g d a b t o _ sp ret => some (atomicEffect i .or g d a b 0 t o sp ret)
  | .atmXor g d a b t o _ sp ret => some (atomicEffect i .xor g d a b 0 t o sp ret)
  | .atmXchg g d a b t o _ sp ret => some (atomicEffect i .xchg g d a b 0 t o sp ret)
  | .atmCas g d a b c t o _ sp ret => some (atomicEffect i .cas g d a b c t o sp ret)
  | _ => none

/-! ### Calls, returns and exit (R270-R275) -/

/-- `call.fk` (R275): as `call`, with FLAGS bit 0, the predictor index and the return registers in its CALL; where it forks, the
group has one more continuation. -/
def callFkResult (disp : BitVec 16) (nret : BitVec 3) (r0 r1 r2 r3 : VReg) : GroupResult :=
  let rets := (encode (.callFk disp nret r0 r1 r2 r3)).getD 1 0
  { uses := []
    ok := fun s h => s.goesTo h (h.p.pc + 4 * disp.signExtend 64) ∧ h.a.pushFault h.slot = none ∧
      ∀ n ∈ declaredOf rets, n < 8 * h.a.blocks
    after := fun _ h a => h.onOwn (.jump (h.p.pc + 4 * disp.signExtend 64))
      (a.pushCall h.slot h.p.nextClause 1 ((predIndex h.p.pc).setWidth 16) rets) }

/-- `ret` from a `call` (R272): the path goes on behind the call with the caller's floor, and a WAIT on top of the stack is
popped. -/
def retResult : GroupResult :=
  { uses := []
    ok := fun s h => h.a.refillDue = false ∧ h.p.depth = h.p.floor ∧
      ∃ pc d f i w r, h.a.stack = .call pc d f 0 i w :: r ∧ s.goesTo h pc
    after := fun _ h a =>
      match a.stack with
      | .call pc _ floor _ _ _ :: r => (h.onOwn (fun p => { p.jump pc with floor := floor }) { a with stack := r }).popWait h.p.pst
      | _ => a }

/-- `ret` from a `call.fk` whose continuation has gone, or which did not fork (R272, R276, R283): as from a `call`, and the call's
predictor entry is trained with the declared registers. -/
def retForkEffect : Effect :=
  let us : List Use := []
  { uses := us
    ok := fun s h => s.view = none ∧ h.g.conts = [] ∧ h.a.refillDue = false ∧ h.p.depth = h.p.floor ∧
      ∃ pc d f i w r, h.a.stack = .call pc d f 1 i w :: r ∧ s.goesTo h pc
    post := fun s h t u => ∃ pc d f i w r, h.a.stack = .call pc d f 1 i w :: r ∧
      let c := s.core h.t.die h.t.site
      (t.core h.t.die h.t.site).pred i.toNat = (c.pred i.toNat).train h.a.lm (declaredOf w) h.a ∧
        (∀ j, j ≠ i.toNat → (t.core h.t.die h.t.site).pred j = c.pred j) ∧
        Leaves h .ret us (retResult.after s h) u ∧ OnlyGroup s (t.onCore h.t.die h.t.site fun x => { x with predictor := c.predictor }) h.g.id }

/-- `ret` from a `call.fk` whose continuation is live, outside a continuation (R276, R282, R283): the call's predictor entry is trained, and
the continuation commits or is squashed. Committed, its registers come over the group's, its paths and split stack are the group's, and its
held-back stores are in memory, in their order; squashed, it is gone, and the losses that it consumed are counted. -/
def retResolveEffect (commits : Bool) : Effect :=
  let callee (s : State) (h : Here) : Arch := retResult.after s h (h.behind .ret [])
  { uses := []
    ok := fun s h => s.view = none ∧ (∀ x ∈ h.a.tracked, x.late = []) ∧ h.a.refillDue = false ∧ h.p.depth = h.p.floor ∧
      ∃ pc d f i w r c cs, h.a.stack = .call pc d f 1 i w :: r ∧ s.goesTo h pc ∧ h.g.conts = c :: cs ∧
        c.depth = (callee s h).positions ∧ (c.commits (callee s h) && !s.belayLost c) = commits
    post := fun s h t u => ∃ pc d f i w r c cs, h.a.stack = .call pc d f 1 i w :: r ∧ h.g.conts = c :: cs ∧
      let k := s.core h.t.die h.t.site
      let a := c.commit (callee s h) ((callee s h).path h.slot)
      let t' := t.onCore h.t.die h.t.site fun x => { x with predictor := k.predictor }
      (t.core h.t.die h.t.site).pred i.toNat = (k.pred i.toNat).train h.a.lm (declaredOf w) h.a ∧
        (∀ j, j ≠ i.toNat → (t.core h.t.die h.t.site).pred j = k.pred j) ∧
        if commits then
          (∀ q, t.byte q = c.belay.foldl (fun m e x => if x = e.1 then e.2 else m x) s.byte q) ∧
            u.quiet = { h.g.quiet with arch := a.regs } ∧
            (c.belay = [] → u.arch = a ∧ u.conts = cs.map fun o => { o with calleeWrote := o.calleeWrote ++ c.wrote.map (·.1) }) ∧
            OnlyMemory s t' h.g.id
        else u.arch = callee s h ∧ u.conts = cs ∧ u.sameRest h.g ∧ t.losses = s.losses + c.losses ∧ OnlyGroup s t' h.g.id }

/-- `exit` of a group's last live lanes, in a team without arrivals at its barriers (R227, R273): the group has exited, its paths,
its stack, its cairn and its continuations are gone, its blocks are in the pool, and the rope is free. -/
def exitAllEffect : Effect :=
  { uses := reading [topReg]
    ok := fun s h => h.a.refillDue = false ∧ h.a.lm &&& ~~~h.p.em = 0 ∧
      (∀ b ∈ h.t.bars, b.arr = 0 ∧ b.who = [] ∧ b.held = []) ∧
      ∀ g ∈ s.groups, g.team = h.t.id → ∀ e ∈ g.arch.paths, e.2.barKey = none
    post := fun s h t u =>
      u.exited = true ∧ u.cairn = none ∧ u.detector = none ∧ u.conts = [] ∧
        u.arch = { h.a with lm := 0, path0 := none, path1 := none, stack := [], spilled := 0, kept := [] } ∧
        { u with exited := h.g.exited, cairn := h.g.cairn, detector := h.g.detector, conts := h.g.conts, arch := h.a } = h.g ∧
        t.teams.map Team.calm = s.teams.map (fun x =>
          if x.id = h.t.id then { x.calm with pools := x.pools.mapIdx fun j k => if j = h.g.slot / 16 then k + h.a.blocks else k } else x.calm) ∧
        t.mxOf h = { s.mxOf h with rope := if (s.mxOf h).rope = some h.g.id then none else (s.mxOf h).rope } ∧
        OnlyGroup s ({ t with teams := s.teams }.onMx h.t.die h.t.site fun _ => s.mxOf h) h.g.id }

/-- Once a path has left its slot, the group's other paths do not leave every live group of the team at named barriers (R290), nor the
group fault-parked in a context that names a share (R333). -/
abbrev State.leftInPeace (s : State) (h : Here) (a : Arch) : Prop :=
  let t := s.onArch h.g.id fun _ => a
  t.barDeadlock h.t.id = none ∧ (s.fpshare (s.hereCtx h) = 0 ∨ t.faultParked { h.g with arch := a } = false)

/-- `exit` of some lanes (R273), or of none: they leave the live mask and the path's split mask; a path without a lane frees its slot;
the merges that this allows and the unwinding follow. The paths that are left stand at no barrier out of reach, nor are they fault-parked
(R290, R333). -/
def exitSome : GroupResult :=
  let after (h : Here) (a : Arch) : Arch :=
    let m := h.p.m &&& ~~~h.p.em
    let b := { a with lm := h.a.lm &&& ~~~h.p.em }
    let c := (h.onOwn (fun p => { p with m := m }) b)
    let c := (if m = 0 then c.setPath h.slot none else c).mergeCheck h.p.pst
    if c.path0.isNone && c.path1.isNone then c.settle h.p.pst else c.popWait h.p.pst
  { uses := reading [topReg]
    ok := fun s h => h.a.refillDue = false ∧ h.a.lm &&& ~~~h.p.em ≠ 0 ∧
      (h.p.em ≠ 0 → s.leftInPeace h (after h (h.behind .exit (reading [topReg]))))
    after := fun _ h a => if h.p.em = 0 then a else after h a }

/-- `wait.k` whose counter is at or below the limit (R138). -/
def waitKResult (a : SReg) (n : BitVec 4) : GroupResult :=
  { uses := srcS a
    ok := fun _ h => h.a.getK n.toNat ≤ (h.a.getS a.toNat).toNat
    after := fun _ h b => b.clearProven n.toNat (h.a.getS a.toNat).toNat }

/-! ### Engine commands, launches and hand-overs (R201, R202, R312, R381, R412) -/

/-- One more thread, as its command starts it. -/
def Starts (s t : State) (h : Here) (i : Instr) (k : ThreadKind) (p : AccPath) (more : Thread → Prop) : Prop :=
  t.nextThread = s.nextThread + 1 ∧
    ∃ th, t.threads = s.threads ++ [th] ∧ th.id = s.nextThread ∧ th.kind = k ∧ th.path = p ∧ th.grp = h.g.id ∧ th.team = h.t.id ∧
      th.grid = h.t.grid ∧ th.ctx = s.hereCtx h ∧ th.die = h.t.die ∧ th.site = h.t.site ∧ th.pc = h.p.pc ∧ th.iword = i.first ∧
      th.seq = ((h.p.counter .kb).map fun _ => h.a.nextSeq) ∧ th.orphan = false ∧ more th

/-- A command's thread waits for its descriptor, which lies 64-byte aligned in team memory; no acquire of its path is outstanding
(R152, R198). -/
def commandEffect (i : Instr) (k : ThreadKind) (p : AccPath) (a : SReg) : Effect :=
  { uses := srcS a
    raises := .kb
    ok := fun s h => h.acquiring = false ∧ (h.a.getS a.toNat).toNat % 64 = 0 ∧ (h.a.getS a.toNat).toNat + 64 ≤ h.t.tmem ∧
      (k.bulk = true → s.bulkThreads h.t.die h.t.site < 256)
    post := fun s h t u =>
      Starts s t h i k p (fun th => th.st = .fresh ∧ th.off = (h.a.getS a.toNat).toNat) ∧
        Leaves h i (srcS a) (fun b => b.raise (h.p.counter .kb) { path := p }) u ∧
        OnlyGroup s { t with threads := s.threads, nextThread := s.nextThread } h.g.id }

def engineEffect (i : Instr) : Option Effect :=
  match i with
  | .bcpT1 a => some (commandEffect i (.copy 1) .B a)
  | .bcpT2 a => some (commandEffect i (.copy 2) .B a)
  | .bcpT3 a => some (commandEffect i (.copy 3) .B a)
  | .bcpFill a => some (commandEffect i .fill .B a)
  | .bgsGather a => some (commandEffect i .gather .G a)
  | .bgsScatter a => some (commandEffect i .scatter .G a)
  | .bamAdd a => some (commandEffect i (.bam .add) .B a)
  | .bamMin a => some (commandEffect i (.bam .min) .B a)
  | .bamMax a => some (commandEffect i (.bam .max) .B a)
  | .bamAnd a => some (commandEffect i (.bam .and) .B a)
  | .bamOr a => some (commandEffect i (.bam .or) .B a)
  | .bamXor a => some (commandEffect i (.bam .xor) .B a)
  | .bamXchg a => some (commandEffect i (.bam .xchg) .B a)
  | .bamCas a => some (commandEffect i (.bam .cas) .B a)
  | .collSum a t => some (commandEffect i (.coll 0 t) .C a)
  | .collMax a t => some (commandEffect i (.coll 1 t) .C a)
  | .collMin a t => some (commandEffect i (.coll 2 t) .C a)
  | _ => none

/-- `lnch` (R312, R314): an entry of the core's queue of 4, and a thread that reads the record. -/
def lnchEffect (a : SReg) : Effect :=
  { uses := srcS a
    raises := .kb
    ok := fun s h => h.acquiring = false ∧ (h.a.getS a.toNat).toNat % 64 = 0 ∧ (h.a.getS a.toNat).toNat + 64 ≤ h.t.tmem ∧
      (s.core h.t.die h.t.site).plq.length < 4
    post := fun s h t u =>
      Starts s t h (.lnch a) .launch .X (fun th => th.st = .fresh ∧ th.off = (h.a.getS a.toNat).toNat) ∧
        (t.core h.t.die h.t.site).plq = (s.core h.t.die h.t.site).plq ++ [s.nextThread] ∧
        Leaves h (.lnch a) (srcS a) (fun b => b.raise (h.p.counter .kb) { path := .X, launch := true }) u ∧
        OnlyGroup s ({ t with threads := s.threads, nextThread := s.nextThread }.onCore h.t.die h.t.site fun c =>
          { c with plq := (s.core h.t.die h.t.site).plq }) h.g.id }

/-- `lnch` that finds the core's queue of 4 full (R314): the path parks, to issue it again, and the group joins those that wait, last. -/
def lnchParkEffect (a : SReg) : Effect :=
  { uses := srcS a
    raises := .kb
    ok := fun s h => h.acquiring = false ∧ (h.a.getS a.toNat).toNat % 64 = 0 ∧ (h.a.getS a.toNat).toNat + 64 ≤ h.t.tmem ∧
      4 ≤ (s.core h.t.die h.t.site).plq.length ∧ KeepsShare s h .lnchFull
    post := fun s h t u =>
      (t.core h.t.die h.t.site).plqWait = (s.core h.t.die h.t.site).plqWait ++ [h.g.id] ∧
        Parks s h .lnchFull (t.onCore h.t.die h.t.site fun c => { c with plqWait := (s.core h.t.die h.t.site).plqWait }) u }

/-- `tfence` (R156): cached translations of the context are discarded in the scope, and its thread waits. Continuations that one of them
served are squashed (R157; DEDUCED: assumption 105). -/
def tfenceEffect (sc : Scope) : Effect :=
  { uses := []
    raises := .kb
    ok := fun _ _ => True
    post := fun s h t u =>
      Starts s t h (.tfence sc) (.tfence sc) .X (fun _ => True) ∧
        t.tlb = s.tlb.filter (fun e => !(e.ctx == s.hereCtx h && (tfenceDies sc h.t.die).contains e.unit.die)) ∧
        Leaves h (.tfence sc) [] (fun b => b.raise (h.p.counter .kb) { path := .X }) u ∧
        OnlyGroup (s.squashIf (s.usedPriv (s.hereCtx h) (tfenceDies sc h.t.die) fun _ => true))
          { t with threads := s.threads, nextThread := s.nextThread, tlb := s.tlb } h.g.id }

/-- `stk.hand` (R381): with the right, the stack's ownership and both dies in the partition, the die's copy and the hub die's
state turn to HANDING, and the drain begins. Continuations of the die that have reached the stack are squashed (R158; DEDUCED:
assumption 105). -/
def stkHandEffect (stack : BitVec 4) (die : BitVec 2) : Effect :=
  let i : Instr := .stkHand stack die
  { uses := []
    raises := .kb
    ok := fun s h => h.acquiring = false ∧ s.rightsLost (s.hereCtx h) = none ∧ s.rightSTK (s.hereCtx h) = true ∧ s.inPartition (s.hereCtx h) die.toNat = true ∧
      s.inPartition (s.hereCtx h) h.t.die = true ∧ s.copyOf h.t.die stack.toNat = .owned ∧ die.toNat ≠ h.t.die
    post := fun s h t u =>
      Starts s t h i (.hand stack.toNat die.toNat) .X (fun th => th.st = .running ∧ th.idx = 1) ∧
        t.mstacks = s.mstacks.map (fun k =>
          if k.n = stack.toNat then { k.setCopy h.t.die .handing with st := .handing h.t.die die.toNat 1 } else k) ∧
        Leaves h i [] (fun b => b.raise (h.p.counter .kb) { path := .X }) u ∧
        OnlyGroup (s.squashIf fun g c => (s.team? g.team).any (fun q => q.die == h.t.die) && c.privs.any fun k => k < 2 ^ 40 && stackOf k == stack.toNat)
          { t with threads := s.threads, nextThread := s.nextThread, mstacks := s.mstacks } h.g.id }

/-! ### The matrix unit (R225, R231-R240) -/

/-- A matrix instruction joins the unit's threads, last in matrix issue order (R237). -/
def matrixEffect (i : Instr) (us : List Use) (k : Here → MxKind) (tracked : Bool) (ok : State → Here → Prop) : Effect :=
  let c (h : Here) : Option Nat := if tracked then h.p.counter .kb else none
  { uses := us
    raises := if tracked then .kb else .nothing
    ok := ok
    post := fun s h t u =>
      let m := s.mxOf h
      t.mxOf h =
          { m with
            threads := m.threads ++ [⟨m.nextNo, k h, h.g.id, h.t.id, (c h).map fun _ => h.a.nextSeq, h.p.fmt, h.p.pc, i.first, none, 0, [], 0⟩]
            nextNo := m.nextNo + 1 } ∧
        Leaves h i us (fun b => b.raise (c h) { path := .M }) u ∧
        OnlyGroup s (t.onMx h.t.die h.t.site fun _ => m) h.g.id }

/-- The operand of a matrix instruction: aligned, and n bytes of it in team memory. -/
def Here.operandOk (h : Here) (a : SReg) (align n : Nat) : Prop :=
  (h.a.getS a.toNat).toNat % align = 0 ∧ (h.a.getS a.toNat).toNat + n ≤ h.t.tmem

/-- The matrix instructions with room in their unit: a pair of formats that the unit multiplies, or an output format that the
drain knows; the rope, or for a drain the matrix team; an operand in bounds (R220, R231, R234, R238); and for an engine command no outstanding
acquire of the path (R198). -/
def mxEffect (i : Instr) : Option Effect :=
  let off (a : SReg) (h : Here) : Nat := (h.a.getS a.toNat).toNat
  let seq (f : Here → Prop) (s : State) (h : Here) : Prop :=
    f h ∧ (s.mxOf h).rope = some h.g.id ∧ (s.mxOf h).seqFull = false
  let pair (h : Here) : Prop := pairFmts (atyp h.p.fmt) (btyp h.p.fmt) = true
  let drain (a : SReg) (s : State) (h : Here) : Prop :=
    h.acquiring = false ∧ otyp h.p.fmt ≤ 9 ∧ ornd h.p.fmt ≠ 3 ∧ (s.mxOf h).team = some h.t.id ∧ (s.mxOf h).release = false ∧
      h.operandOk a 32 32 ∧ (s.mxOf h).drainFull = false
  let loop (a : SReg) (s : State) (h : Here) : Prop :=
    seq (fun h => h.acquiring = false ∧ pair h ∧ h.operandOk a 32 32) s h ∧ atyp h.p.fmt = (s.mxOf h).tagNext
  match i with
  | .mldE a => some (matrixEffect i (srcS a) (fun h => .mldE (off a h)) true
      (seq fun h => h.acquiring = false ∧ pair h ∧ h.operandOk a 64 (tileBytes (atyp h.p.fmt))))
  | .mldS a => some (matrixEffect i (srcS a) (fun h => .mldS (off a h)) true
      (seq fun h => h.acquiring = false ∧ pair h ∧ fmtScale (atyp h.p.fmt) ≠ 0 ∧ h.operandOk a 8 (tileScaleBytes (atyp h.p.fmt))))
  | .mswp => some (matrixEffect i [] (fun _ => .mswp) false (seq fun _ => True))
  | .mlp a => some (matrixEffect i (srcS a) (fun h => .mlp (off a h) false) true (loop a))
  | .mlpZero a => some (matrixEffect i (srcS a) (fun h => .mlp (off a h) true) true (loop a))
  | .mdrn a => some (matrixEffect i (srcS a) (fun h => .mdrn (off a h) false) true (drain a))
  | .mdrnScl a => some (matrixEffect i (srcS a) (fun h => .mdrn (off a h) true) true (drain a))
  | .ropeTake => some
      { uses := [], ok := fun s h => (s.mxOf h).rope = some h.g.id
        post := fun s h t u => Leaves h i [] id u ∧ OnlyGroup s t h.g.id }
  | .ropeGive => some
      { uses := [], ok := fun s h => (s.mxOf h).rope = some h.g.id
        post := fun s h t u => t.mxOf h = { s.mxOf h with rope := none } ∧ Leaves h i [] id u ∧
          OnlyGroup s (t.onMx h.t.die h.t.site fun _ => s.mxOf h) h.g.id }
  | _ => none

/-- `rope.take` of a group that does not hold the rope (R225): the group joins the queue, last, and the path parks. -/
def ropeWaitEffect : Effect :=
  { uses := []
    ok := fun s h => (s.mxOf h).rope ≠ some h.g.id ∧ KeepsShare s h (.rope (nextEntry (s.mxOf h).ropeq h.g.id))
    post := fun s h t u =>
      let n := nextEntry (s.mxOf h).ropeq h.g.id
      t.mxOf h = { s.mxOf h with ropeq := (s.mxOf h).ropeq ++ [(h.g.id, n)] } ∧
        Parks s h (.rope n) (t.onMx h.t.die h.t.site fun _ => s.mxOf h) u }

/-! ### Register blocks (R241, R242) -/

/-- Registers of blocks read zero and are poisoned no longer. -/
def Arch.freshBlocks (a : Arch) (lo n c : Nat) : Arch :=
  { a with
    v := a.v.filter fun e => !(32 * (8 * lo) ≤ e.1 && e.1 < 32 * (8 * lo) + 32 * (8 * n))
    poison := a.poison.filter fun r => !(r.file == .v && 8 * lo ≤ r.num && r.num < 8 * (lo + n))
    ecc := a.ecc.filter fun r => !(r.file == .v && 8 * lo ≤ r.num && r.num < 8 * (lo + n))
    blocks := c }

/-- A team whose pool of a quadrant holds another number of blocks. -/
def Team.withPool (t : Team) (quad : Nat) (f : Nat → Nat) : Team :=
  { t with pools := t.pools.mapIdx fun i k => if i = quad then f k else k }

/-- `blk.give` and a `blk.take` that the pool serves at once: the highest blocks go to the team's pool of the quadrant, or come
from it and read zero (R242). -/
def blockEffect (i : Instr) : Option Effect :=
  let moves (f : Here → Nat → Nat) (g : Here → Arch → Arch) (ok : State → Here → Prop) : Option Effect :=
    some
      { uses := [], ok := ok
        post := fun s h t u =>
          t.teams.map Team.calm = s.teams.map (fun x => if x.id = h.t.id then (x.withPool (h.g.slot / 16) (f h)).calm else x.calm) ∧
            Leaves h i [] (g h) u ∧ OnlyGroup s { t with teams := s.teams } h.g.id }
  match i with
  | .blkGive n => moves (fun _ k => k + n.toNat) (fun h a => a.freshBlocks (h.a.blocks - n.toNat) n.toNat (h.a.blocks - n.toNat))
      fun _ h => n.toNat < h.a.blocks ∧ (regsFrom .v (8 * (h.a.blocks - n.toNat)) (8 * n.toNat)).all fun r => !h.a.pending r
  | .blkTake n => moves (fun _ k => k - n.toNat) (fun h a => a.freshBlocks h.a.blocks n.toNat (h.a.blocks + n.toNat))
      fun s h => h.a.blocks + n.toNat ≤ 16 ∧ s.takersOf h.t (h.g.slot / 16) = [] ∧ n.toNat ≤ h.t.pools.getD (h.g.slot / 16) 0
  | _ => none

/-- `blk.take` that its pool does not serve at once (R242): takers stand before it, or the pool holds too few; and some group can still
give. The path parks, and is the last in the team's queue. -/
def blkTakeParkEffect (n : BitVec 5) : Effect :=
  let entry (h : Here) : Nat := nextEntry h.t.takers h.g.id
  { uses := []
    ok := fun s h => h.a.blocks + n.toNat ≤ 16 ∧
      (s.takersOf h.t (h.g.slot / 16) ≠ [] ∨ h.t.pools.getD (h.g.slot / 16) 0 < n.toNat) ∧ s.noGiver h n.toNat = false ∧
      KeepsShare s h (.blk n.toNat (entry h))
    post := fun s h t u =>
      t.teams.map Team.calm = s.teams.map (fun x =>
        if x.id = h.t.id then { x.calm with takers := x.takers ++ [(h.g.id, entry h)] } else x.calm) ∧
        Parks s h (.blk n.toNat (entry h)) { t with teams := s.teams } u }

/-! ### Barriers, watches, mailboxes, messages and system registers -/

/-- A barrier instruction parks its path until the group's lanes are all there (R289, R301): at a barrier of the team with a count
that its live groups can reach; at a slot of the grid; and at one barrier with the other path. Not every live group of the team stands
at a named barrier then with no arrival to make (R290). -/
def barrierEffect (i : Instr) : Option Effect :=
  let parks (us : List Use) (k : Here → BarKind × Nat × Nat) (hold : Bool) (ok : State → Here → Prop) : Option Effect :=
    some
      { uses := us
        ok := fun s h => ok s h ∧ h.barMismatch ((k h).1, (k h).2.1, (k h).2.2, if (k h).1 = .named then false else hold) = false ∧
          (s.park h.g.id h.slot (some (.bar (k h).1 (k h).2.1 (k h).2.2 hold false 0))).barDeadlock h.t.id = none ∧
          KeepsShare s h (.bar (k h).1 (k h).2.1 (k h).2.2 hold false 0)
        post := fun s h t u => Parks s h (.bar (k h).1 (k h).2.1 (k h).2.2 hold false 0) t u }
  let named (c : BitVec 6) (n : BitVec 4) (hold : Bool) : Option Effect :=
    parks [] (fun _ => (.named, n.toNat, c.toNat)) hold fun s h => n.toNat < h.t.bars.length ∧ c.toNat ≤ (s.liveGroups h.t.id).length
  let slot (k : BarKind) (a : SReg) (hold : Bool) : Option Effect :=
    parks (srcS a) (fun h => (k, (h.a.getS a.toNat).toNat, 0)) hold fun s h =>
      ∃ g, s.grid? h.t.grid = some g ∧ (h.a.getS a.toNat).toNat < g.desc.gbar
  match i with
  | .tbarPass c n => named c n false
  | .tbarHold c n => named c n true
  | .gbarHold a => slot .grid a true
  | .gbarPass a => slot .grid a false
  | .cbarHold a => slot .cluster a true
  | .cbarPass a => slot .cluster a false
  | _ => none

/-- The group with another cairn, and its path behind the instruction. -/
def LeavesCairn (h : Here) (i : Instr) (us : List Use) (c : Option Cairn) (u : Group) : Prop :=
  u.cairn = c ∧ u.arch = h.behind i us ∧ { u with cairn := h.g.cairn }.sameRest h.g

/-- `watch` places the group's one cairn, not fired; `unwatch` takes it away where it names the word; `wait.w` goes on where no
unfired cairn names the word, and clears FIRED (R291, R292). -/
def watchEffect (i : Instr) : Option Effect :=
  let changes (a : SReg) (ok : State → Here → Prop) (f : State → Here → Option Cairn) : Option Effect :=
    some { uses := srcS a, ok := ok, post := fun s h t u => LeavesCairn h i (srcS a) (f s h) u ∧ OnlyGroup s t h.g.id }
  let off (a : SReg) (h : Here) : Nat := (h.a.getS a.toNat).toNat
  match i with
  | .watch a sp => changes a (fun s h => off a h % 8 = 0 ∧ (sp = .d → s.windowLoss h.t (off a h) = none) ∧ (s.watchKey h.t sp (off a h)).isSome = true)
      fun s h => (s.watchKey h.t sp (off a h)).map fun k => ⟨if sp = .t then .team else .die, off a h, k, false⟩
  | .unwatch a => changes a (fun _ _ => True) fun _ h => if h.g.cairn.any fun c => c.off == off a h then none else h.g.cairn
  | .waitW a => changes a (fun _ h => ∀ c ∈ h.g.cairn, c.off = off a h → c.fired = true)
      fun _ h => h.g.cairn.map fun c => if c.off = off a h then { c with fired := false } else c
  | _ => none

/-- `wait.w` on a word whose cairn has not fired (R292): the path parks. -/
def waitWParkEffect (a : SReg) : Effect :=
  let off (h : Here) : Nat := (h.a.getS a.toNat).toNat
  { uses := srcS a
    ok := fun s h => (∃ c ∈ h.g.cairn, c.off = off h ∧ c.fired = false) ∧ KeepsShare s h (.cairn (off h))
    post := fun s h t u => Parks s h (.cairn (off h)) t u }

/-- Messages to the front end (R340, R359): `q.bell`, and `sint` with the right that its target asks for. -/
def messageEffect (i : Instr) : Option Effect :=
  let sends (us : List Use) (ok : State → Here → Prop) (m : State → Here → FeMsg) : Option Effect :=
    some
      { uses := us, ok := ok
        post := fun s h t u => t.fe = { s.fe with msgs := s.fe.msgs ++ [m s h] } ∧ Leaves h i us id u ∧ OnlyGroup s { t with fe := s.fe } h.g.id }
  match i with
  | .qBell a b => sends (srcS a ++ srcS b 2) (fun _ _ => True) fun s h => .bell (s.hereCtx h) (h.a.getS a.toNat) (h.a.getX b.toNat)
  | .sint a => sends (srcS a)
      (fun s h => (h.a.getS a.toNat).toNat / 2 ^ 30 = 1 ∨ (h.a.getS a.toNat).toNat / 2 ^ 30 = 2 →
        s.rightsLost (s.hereCtx h) = none ∧ s.rightMGMT (s.hereCtx h) = true)
      fun s h => .sint (s.hereCtx h) (h.a.getS a.toNat)
  | _ => none

/-- A mailbox instruction that is served at once (R355-R360): `mbx.get` takes VALUE of a full word and clears FULL, `mbx.put`
writes VALUE to an empty one and sets it; no request is queued on the word. -/
def mailboxEffect (i : Instr) : Option Effect :=
  let serves (us : List Use) (a : SReg) (put : Here → Option DWord) (after : State → Nat → Here → Arch → Arch) : Option Effect :=
    let w (h : Here) : Nat := (h.a.getS a.toNat).toNat
    some
      { uses := us
        ok := fun s h => ∃ c, s.ctx? (s.hereCtx h) = some c ∧ w h < c.mbn ∧ s.isLost (mbxKey c (w h)) 16 = false ∧
          s.mbxSound (mbxKey c (w h)) = true ∧ s.keyHeld (mbxKey c (w h)) = false ∧ s.fe.reloading = false ∧ s.mbxFull (mbxKey c (w h)) = (put h).isNone ∧
          s.fe.mbxq.all fun r => !(r.ctx == s.hereCtx h && r.word == w h)
        post := fun s h t u => ∃ c, s.ctx? (s.hereCtx h) = some c ∧
          let k := mbxKey c (w h)
          (∀ q, t.byte q =
            (match put h with
              | some v => fieldsAt s.byte k [(0, 8, v.toNat), (8, 8, 1)] q
              | none => fieldsAt s.byte k [(8, 8, 0)] q)) ∧
            LeavesWriter h i us (after s k h) u ∧ OnlyMemory s t h.g.id }
  match i with
  | .mbxGet d a => serves (dstS d 2 ++ srcS a) a (fun _ => none) fun s k _ b => b.setX d.toNat (BitVec.ofNat 64 (s.readLE k 8))
  | .mbxPut a b => serves (srcS a ++ srcS b 2) a (fun h => some (h.a.getX b.toNat)) fun _ _ _ x => x
  | _ => none

/-- A mailbox instruction on a word in the wrong state, `mbx.get` on an empty one and `mbx.put` on a full one (R357, R358, R360): the path parks,
and its request joins the front end's, last; with 4,096 there already, it is made again later. -/
def mailboxParkEffect (i : Instr) : Option Effect :=
  let waits (us : List Use) (a : SReg) (put : Here → Option DWord) (dest : Nat) : Option Effect :=
    let w (h : Here) : Nat := (h.a.getS a.toNat).toNat
    let room (s : State) : Bool := s.fe.mbxq.length < 4096
    let park (s : State) (h : Here) : Park := .mbx (put h).isNone (w h) (if room s then some s.fe.nextReq else none) false
    some
      { uses := us
        ok := fun s h => (∃ c, s.ctx? (s.hereCtx h) = some c ∧ w h < c.mbn ∧ s.isLost (mbxKey c (w h)) 16 = false ∧
            s.mbxSound (mbxKey c (w h)) = true ∧ s.keyHeld (mbxKey c (w h)) = false ∧ s.mbxFull (mbxKey c (w h)) = (put h).isSome) ∧
          KeepsShare s h (park s h)
        post := fun s h t u =>
          t.fe = (if room s then
            { s.fe with
              mbxq := s.fe.mbxq ++ [⟨s.fe.nextReq, s.hereCtx h, w h, put h, .path h.g.id h.slot, dest⟩], nextReq := s.fe.nextReq + 1 }
            else s.fe) ∧
            Parks s h (park s h) { t with fe := s.fe } u }
  match i with
  | .mbxGet d a => waits (dstS d 2 ++ srcS a) a (fun _ => none) d.toNat
  | .mbxPut a b => waits (srcS a ++ srcS b 2) a (fun h => some (h.a.getX b.toNat)) 0
  | _ => none

/-- The system registers (R338, R339): a counter into a pair for the context that owns the counters, PERFCTL, and a write of it,
which keeps EN, makes the context the owner, and clears the counters for a new owner or with CLR. -/
def sysEffect (i : Instr) : Option Effect :=
  match i with
  | .sysRd d n =>
    let wide : Bool := n.toNat ≤ 11
    let us := dstS d (if wide then 2 else 1)
    some
      { uses := us
        ok := fun s h => s.rightsLost (s.hereCtx h) = none ∧ s.rightPERF (s.hereCtx h) = true ∧
          (n.toNat ≤ 11 → (fld (s.core h.t.die h.t.site).perfctl 0 12).toNat = s.hereCtx h)
        post := fun s h t u =>
          let c := s.core h.t.die h.t.site
          Leaves h i us (fun a => if wide then a.setX d.toNat (Sparse.look c.perf n.toNat) else a.setS d.toNat c.perfctl) u ∧
            OnlyGroup s t h.g.id }
  | .sysWr a _ => some
      { uses := srcS a
        ok := fun s h => s.rightsLost (s.hereCtx h) = none ∧ s.rightPERF (s.hereCtx h) = true
        post := fun s h t u =>
          let c := s.core h.t.die h.t.site
          let d := t.core h.t.die h.t.site
          let v := h.a.getS a.toNat
          d.perfctl = ((if v.msb then 0x80000000 else 0) ||| BitVec.ofNat 32 (s.hereCtx h % 4096)) ∧
            (∀ n, n ≠ 0 → n ≠ 2 → Sparse.look d.perf n =
              if (fld c.perfctl 0 12).toNat ≠ s.hereCtx h ∨ v.getLsbD 30 then 0 else Sparse.look c.perf n) ∧
            Leaves h i (srcS a) id u ∧
            OnlyGroup s (t.onCore h.t.die h.t.site fun x => { x with perfctl := c.perfctl }) h.g.id }
  | _ => none

/-! ### The refinement controller (R393-R399) -/

/-- `rfl.run` (R395): the block's counters start at 0 and its norms at +∞, PHASE is 1, a controller frame is pushed, and the path
enters the solve routine in the formats of the block's rung. -/
def rflRunEffect (a : SReg) : Effect :=
  let off (h : Here) : Nat := (h.a.getS a.toNat).toNat
  let key (h : Here) : Nat := teamKey h.t.id (off h)
  { uses := srcS a
    ok := fun s h => s.view = none ∧ off h % 64 = 0 ∧ off h + 128 ≤ h.t.tmem ∧ s.isLost (key h) 128 = false ∧
      Block.ok (s.bytes (key h) 128) = true ∧ Block.idle (s.bytes (key h) 128) = true ∧ h.a.pushFault h.slot = none
    post := fun s h t u =>
      let b := s.bytes (key h) 128
      let f : BitVec 8 := BitVec.ofNat 8 (17 * fieldOf b (0x38 + Block.rung b) 1)
      (∀ q, t.byte q = fieldsAt s.byte (key h) [(0x48, 8, 0x7FF0000000000000), (0x50, 8, 0x7FF0000000000000), (0x40, 4, 0), (0x44, 4, 0),
          (0x68, 1, 0), (0x69, 1, 0), (0x3F, 1, 1)] q) ∧
        u.arch.path h.slot = some { (h.p.advance 1) with
          pc := BitVec.ofNat 64 (Block.solve b), entry := .refine h.p.pc (Instr.rflRun a).first, fmt := fld h.p.fmt 8 8 ++ f,
          floor := h.p.depth } ∧
        u.arch.stack.head? = some (.call h.p.pc h.p.depth h.p.floor 2 0 (h.a.getS a.toNat)) ∧
        u.arch.stack.length = h.a.stack.length + h.a.pushNeed h.slot ∧
        u.quiet = { h.g.quiet with arch := { h.a.regs with poison := h.a.poison.filter (· != fmtReg) } } ∧ OnlyMemory s t h.g.id }

/-- What the controller does at a `ret` that pops a frame of it: the fields of the block that it writes, one after the other, where the
path goes, FLAGS of the frame that it pushes, the rung whose formats the path takes, and the status that it leaves in s0. -/
structure RunStep where
  fields : List (Nat × Nat × Nat)
  target : Nat
  frame : Option (BitVec 8) := none
  rung : Option Nat := none
  status : Option Word := none

/-- The transitions (R395-R398): behind the solve routine the path enters the residual routine; behind that one the test decides: the
solve routine again, an exit with its status, a higher rung, which starts with counters and norms anew, or, where POLICY bit 3 asks for it,
REFINE-EXHAUSTED, here none. -/
def runStep (b : List Byte) (resid : Bool) : Option RunStep :=
  let iter := (Block.iter b + 1) % 2 ^ 32
  let r := Block.rung b
  let tested := [(0x40, 4, iter), (0x44, 4, min (Block.total b + 1) (2 ^ 32 - 1))]
    ++ (if Block.putf b = 1 then [(0x50, 8, fieldOf b 0x48 8), (0x48, 8, fieldOf b 0x58 8)] else []) ++ [(0x3F, 1, 3)]
  let solves (fs : List (Nat × Nat × Nat)) (rung : Nat) : Option RunStep :=
    some { fields := tested ++ fs ++ [(0x3F, 1, 1)], target := Block.solve b, frame := some 2, rung := some rung }
  let leaves (fs : List (Nat × Nat × Nat)) (phase kind reason target : Nat) : Option RunStep :=
    some { fields := tested ++ fs ++ [(0x3F, 1, phase), (0x69, 1, kind)], target := target
           status := some (BitVec.ofNat 32 (kind + 256 * r + 65536 * reason)) }
  let escalates (phase kind reason target : Nat) : Option RunStep :=
    if r + 1 < Block.nrung b ∧ (Block.policy b).testBit r = true then
      solves [(0x3F, 1, 4), (0x3D, 1, r + 1), (0x40, 4, 0), (0x48, 8, 0x7FF0000000000000), (0x50, 8, 0x7FF0000000000000)] (r + 1)
    else if (Block.policy b).testBit 3 then none
    else leaves [(0x3F, 1, 4)] phase kind reason target
  if resid then
    match Block.test b iter with
    | .none => solves [] r
    | .converged => leaves [] 5 1 0 (Block.xconv b)
    | .stagnated n => escalates 6 2 n (Block.xstag b)
    | .diverged n => escalates 7 3 n (Block.xdiv b)
  else some { fields := [(0x68, 1, 0), (0x3F, 1, 2)], target := Block.resid b, frame := some 6 }

/-- `ret` can pop a controller frame of a block, outside a continuation: the frame's PC, floor, FLAGS and RETS (R272, R396). -/
def State.popsFrame (s : State) (h : Here) (pc : DWord) (floor : Nat) (fl : BitVec 8) (w : Word) : Prop :=
  s.view = none ∧ (∀ x ∈ h.a.tracked, x.late = []) ∧ h.a.refillDue = false ∧ h.p.depth = h.p.floor ∧
    (∃ d i r, h.a.stack = .call pc d floor fl i w :: r) ∧ fl.getLsbD 0 = false ∧ fl.getLsbD 1 = true ∧
    s.isLost (teamKey h.t.id w.toNat) 128 = false ∧ Block.ok (s.bytes (teamKey h.t.id w.toNat) 128) = true ∧
    Block.phase (s.bytes (teamKey h.t.id w.toNat) 128) = if fl.getLsbD 2 then 2 else 1

/-- `ret` from a routine of a run (R395-R398): the transition is made. -/
def retRunEffect : Effect :=
  let block (s : State) (h : Here) (w : Word) : List Byte := s.bytes (teamKey h.t.id w.toNat) 128
  { uses := []
    ok := fun s h => ∃ pc f fl w x, s.popsFrame h pc f fl w ∧ runStep (block s h w) (fl.getLsbD 2) = some x
    post := fun s h t u => ∃ pc f fl w x, s.popsFrame h pc f fl w ∧ runStep (block s h w) (fl.getLsbD 2) = some x ∧
      let formats (n : Nat) : BitVec 8 := BitVec.ofNat 8 (17 * fieldOf (block s h w) (0x38 + n) 1)
      (∀ q, t.byte q = fieldsAt s.byte (teamKey h.t.id w.toNat) x.fields q) ∧
        (∃ iw, u.arch.path h.slot = some { (h.p.advance 1) with
          pc := BitVec.ofNat 64 x.target, entry := .refine pc iw, floor := if x.frame.isSome then h.p.depth else f
          fmt := match x.rung with | some n => fld h.p.fmt 8 8 ++ formats n | none => h.p.fmt }) ∧
        (∀ c, x.frame = some c → u.arch.stack.head? = some (.call pc h.p.depth f c 0 w)) ∧
        u.quiet = { h.g.quiet with arch :=
          let a := match x.status with | some v => h.a.regs.setS 0 v | none => h.a.regs
          { a with poison := a.poison.filter fun r => !(x.status.isSome && r == ⟨.s, 0⟩) && !(x.rung.isSome && r == fmtReg) } } ∧
        OnlyMemory s t h.g.id }

/-- `rfl.put` (R399): the norms go into the innermost frame's block, which is in its residual phase. -/
def rflPutEffect (a b : SReg) : Effect :=
  { uses := srcS a 2 ++ srcS b 2
    ok := fun s h => s.view = none ∧ ((frameIn h.a.stack).isSome ∨ s.spilledFault h h.a.spilled = none) ∧ ∃ o, s.innermost h = some o ∧
      s.isLost (teamKey h.t.id o) 128 = false ∧ Block.phase (s.bytes (teamKey h.t.id o) 128) = 2
    post := fun s h t u => ∃ o, s.innermost h = some o ∧
      (∀ q, t.byte q = fieldsAt s.byte (teamKey h.t.id o)
        [(0x58, 8, (h.a.getX a.toNat).toNat), (0x60, 8, (h.a.getX b.toNat).toNat), (0x68, 1, 1)] q) ∧
        LeavesWriter h (.rflPut a b) (srcS a 2 ++ srcS b 2) id u ∧ OnlyMemory s t h.g.id }

/-! ### Steps of the machine's other agents -/

/-- The bytes of a copy's next k elements: a fill's pattern; else those that came with an earlier aligned word of the source, and behind
them those that it holds now (R144, R205). -/
def CopyBytes (s : State) (x : Thread) (tm : Team) (k : Nat) (bs : List Byte) : Prop :=
  let e := copyBytes x.desc
  let row : Int := (copyAt x.desc x.idx).1 + ((copyN x.desc 0 - x.idx % copyN x.desc 0) * e : Nat)
  let lo : Int := (copyAt x.desc x.idx).1 + x.ahead.length
  if x.kind = .fill then bs = (List.replicate k (x.desc.take e)).flatten
  else if k * e ≤ x.ahead.length then bs = x.ahead.take (k * e)
  else ∃ r, s.readAt x tm (descCtl x.desc 0 2) lo (min row (((copyAt x.desc x.idx).1 + (k * e : Nat) + 7) / 8 * 8) - lo).toNat = .ok r ∧
    bs = (x.ahead ++ r).take (k * e)

/-- A step that is due is taken, to a state of which `post` holds. -/
def Steps (i : Instr) (ok : State → Prop) (post : State → State → Prop) : Prop := ∀ s, ok s → ∃ t, exec i s = .next t ∧ post s t

/-- A team without its counts and without what a wake changes. -/
def Team.still (t : Team) : Team := { t.quiet with bytes := 0 }

/-- Memory reads as `m`, and beyond the caches' dirty lines (R389), what write events bring about and what is counted nothing has changed. -/
structure Stores (s t : State) (m : Nat → Byte) : Prop where
  bytes : ∀ k, t.byte k = m k
  rest : { t with mem := s.mem, lost := s.lost, cache := s.cache, groups := s.groups, teams := s.teams, dies := s.dies, cores := s.cores,
                  free := s.free, losses := s.losses } = s
  groups : t.groups.map Group.quiet = s.groups.map Group.quiet
  teams : t.teams.map Team.still = s.teams.map Team.still
  cores : ∀ die site, (t.core die site).calm = (s.core die site).calm

/-- A copy's next elements, those of one row and one aligned word of the destination, can move: bs are their bytes, and p their place
(R205). -/
def CopyDue (s : State) (x : Thread) (tm : Team) (bs : List Byte) (p : Place) : Prop :=
  let k := copyRun x.desc x.idx
  let a := copyAt x.desc x.idx
  (x.kind ≠ .fill → s.threadHeld x (descCtl x.desc 0 2) a.1 (k * copyBytes x.desc) = false) ∧
    s.threadHeld x (descCtl x.desc 2 2) a.2.1 (k * copyBytes x.desc) = false ∧ CopyBytes s x tm k bs ∧
    s.writeAt x tm (descCtl x.desc 2 2) a.2.1 (k * copyBytes x.desc) (rowFills a.2.1 a.2.2.1 a.2.2.2) = .ok p

/-- From s to t a copy moves n times those elements, each time into one and the same aligned word (R144). -/
def CopyMoves (tid : Nat) (tm : Team) (word : Int) : Nat → State → State → Prop
  | 0, s, t => t = s
  | n + 1, s, t => ∃ m x bs p r, s.thread? tid = some x ∧ x.idx < x.total ∧ x.copyWord = word ∧ CopyDue s x tm bs p ∧
      m.threads = s.threads.map (fun u => if u.id = tid then { u with idx := x.idx + copyRun x.desc x.idx, ahead := r } else u) ∧
      Stores s { m with threads := s.threads } (putAt s.byte (keysOf p.runs) bs) ∧ CopyMoves tid tm word n m t

/-- The element of a gather's or a scatter's next index, xb, can move: bs are its bytes, and p its place (R207). -/
def ElementDue (s : State) (x : Thread) (tm : Team) (xb bs : List Byte) (p : Place) : Prop :=
  let b := x.desc
  let ia : Int := fieldOf b 0 8 + ofBytes xb * fieldOf b 0x20 8
  let da : Int := fieldOf b 0x08 8 + x.idx * fieldOf b 0x18 4
  let src := if x.kind = .gather then (descCtl b 0 2, ia) else (descCtl b 2 2, da)
  let dst := if x.kind = .gather then (descCtl b 2 2, da) else (descCtl b 0 2, ia)
  s.readAt x tm 0 (fieldOf b 0x10 4 + 4 * x.idx : Nat) 4 = .ok xb ∧ (descCtl b 8 1 = 1 → ofBytes xb ≠ 0xFFFFFFFF) ∧
    s.threadHeld x src.1 src.2 (fieldOf b 0x18 4) = false ∧ s.threadHeld x dst.1 dst.2 (fieldOf b 0x18 4) = false ∧
    s.readAt x tm src.1 src.2 (fieldOf b 0x18 4) = .ok bs ∧ s.writeAt x tm dst.1 dst.2 (fieldOf b 0x18 4) = .ok p

/-- From s to t a gather or a scatter moves that element, to the place d. -/
def ElementMove (tid : Nat) (tm : Team) (s t : State) (d : Nat × Int) : Prop :=
  ∃ x xb bs p, s.thread? tid = some x ∧ x.idx < x.total ∧ ElementDue s x tm xb bs p ∧ d = (x.gsPlaces (ofBytes xb)).2 ∧
    t.threads = s.threads.map (fun u => if u.id = tid then { u with idx := x.idx + 1 } else u) ∧
    Stores s { t with threads := s.threads } (putAt s.byte (keysOf p.runs) bs)

/-- A group without the cycles that its paths, and its continuations' paths, have gone without issuing (R254, R255). -/
def Group.uncounted (g : Group) : Group :=
  let f (a : Arch) : Arch := a.onPaths fun p => { p with passed := 0, idle := 0 }
  { g with arch := f g.arch, conts := g.conts.map fun c => { c with arch := f c.arch } }

/-- `o`, and where it is a next state, the cycle counted for the paths that could have issued in it: nothing else differs. -/
def Counted (o out : Host.Outcome State Fault Refusal) : Prop :=
  match o with
  | .next t => ∃ u, out = .next u ∧ { u with groups := t.groups } = t ∧ u.groups.map Group.uncounted = t.groups.map Group.uncounted
  | o => out = o

/-- Only one group has changed, to `f` of it. -/
def GroupTurns (s t : State) (grp : Nat) (f : Group → Group) : Prop :=
  { t with groups := s.groups } = s ∧ t.groups = s.groups.map fun g => if g.id = grp then f g else g

/-- Only one stack has changed, to `f` of it. -/
def StackTurns (s t : State) (n : Nat) (f : Stack → Stack) : Prop :=
  { t with mstacks := s.mstacks } = s ∧ t.mstacks = s.mstacks.map fun k => if k.n = n then f k else k

/-- Of a state that `p` holds of, what waited for a stack has been served to give t; with nothing waiting, p holds of t (R379, R405). -/
def ServesPorts (t : State) (p : State → Prop) : Prop :=
  ∃ u, p u ∧ t = u.servePorts ∧ (u.fe.qcbDue = [] → u.fe.progDue = [] → u.fe.mbxq = [] → t = u)

/-- Only one port has changed, to `f` of it, and the host is signalled (R407). -/
def PortTurns (s t : State) (n : Nat) (f : Port → Port) : Prop :=
  t.ports = s.ports.map (fun p => if p.n = n then f p else p) ∧ t.fe.hsig = s.fe.hsig ||| 8 ∧
    { t with ports := s.ports, free := s.free, fe := { t.fe with hsig := s.fe.hsig, notified := s.fe.notified } } = s

/-- Only the front end has changed. -/
def FrontEndTurns (s t : State) (f : FrontEnd) : Prop := t = { s with fe := f }

/-- Only the package controller has changed. -/
def PackageTurns (s t : State) (p : Package) : Prop := t = { s with pkg := p }

/-- The registers that the host reads and writes serve, and no context command is under way (R326, R417). -/
def State.serves (s : State) : Prop := s.pkg.stage = .d ∧ s.fe.ctxBusy = none

/-- No fault record of a context waits for room in its ring (R336). -/
def State.noHeld (s : State) (ctx : Nat) : Prop := ∀ c, s.ctx? ctx = some c → c.held = []

/-- The machine's identifiers are unique, and the next ones are new: groups, teams and engine threads by their own count, grids by event
number (R353), barrier slots by their place in the hub die's table (R302), and ports by theirs. -/
def State.idsUnique (s : State) : Prop :=
  (s.groups.map (·.id)).Nodup ∧ (∀ g ∈ s.groups, g.id < s.nextGroup) ∧ (s.teams.map (·.id)).Nodup ∧ (∀ x ∈ s.teams, x.id < s.nextTeam) ∧
    (s.threads.map (·.id)).Nodup ∧ (∀ x ∈ s.threads, x.id < s.nextThread) ∧ (s.slots.map (·.id)).Nodup ∧
    (s.grids.map (·.id)).Nodup ∧ (∀ g ∈ s.grids, g.id < s.evSeq) ∧ (s.ports.map (·.n)).Nodup

/-- Where the bytes of an image or a record go that a die writes to main memory, page by page: the key and the length of each piece, as the
die's translation has it once the pieces before are written (R331). -/
def State.pageRuns (s : State) (w : Walker) (bs : List Byte) (base : Nat) : List (Nat × Nat) → List (Nat × Nat)
  | [] => []
  | (a, n) :: r =>
    match s.access w .write a n with
    | .error _ => []
    | .ok x => (x.1, n) :: State.pageRuns (s.store x.1 ((bs.drop (a - base)).take n)) w bs base r

end Sys2Proof.Machine
end

