-- ==== Sys2Proof/Certificates/Slice0/Obligations.lean ====
section
/-!
DEFINITION. The statements for the provers, from the numbered rules of spec/.
-/
section
open Sys2Proof Sys2Proof.Machine

/-! ### Instructions of a group -/

/-- R171, R172, R174, R175, R190, R191: the one-word lane instructions write, in their active lanes, the wrapped sum, difference or
product, the extremum, the bitwise result, the shift, the count, the move or the correctly rounded float result of their sources, as do
`lit.i`, `lit.f` and `lit.mov`, and leave everything else as it was. -/
def Obligations.OneWordLanes : Prop := ∀ i r, laneInt i = some r ∨ laneOneWord i = some r → WritesLanes i r

/-- R171-R175, R183: the extended arithmetic instructions in their type, rounding and modifiers, and `sel`. -/
def Obligations.ExtendedLanes : Prop := ∀ i r, laneExtended i = some r → WritesLanes i r

/-- R176-R180, R184-R189: conversions, packs, exchanges, census, lane numbers, tree reductions and the scan. -/
def Obligations.AcrossLanes : Prop := ∀ i r, laneAcross i = some r → WritesLanes i r

/-- R181, R182, R186: compares, predicate logic and the census write a bit in each active lane; a write to `pt` changes nothing. -/
def Obligations.PredicateResults : Prop := ∀ i r, predResult i = some r → WritesPred i r

/-- R95, R169, R192-R194: a uniform instruction writes its result whatever the execute mask is; `get` reads where the group runs, its
grid's sizes, the core's cycle counter, the masks and `fmt`. -/
def Obligations.UniformResults : Prop := ∀ i r, uniArith i = some r ∨ getResult i = some r → WritesUniform i r

/-- R151, R224, R257-R259, R274: `em.set`, `pm.push`, `pm.inv`, `pm.pop`, `fmt.set`, `nop`, and a `fence` with no lane access of its
path's lanes outstanding change the path's predicate stack or `fmt`, or nothing. -/
def Obligations.MaskInstructions : Prop := ∀ i r, maskResult i = some r → ChangesGroup i r

/-- R260, R261, R270, R271, R275: branches and calls with a sound target; `brd` in its three cases. -/
def Obligations.Transfers : Prop :=
  (∀ i r, transferResult i = some r → ChangesGroup i r) ∧
    (∀ p neg disp rdisp, ChangesGroup (.brd p neg disp rdisp) (brdResult p neg disp rdisp)) ∧
    ∀ disp nret r0 r1 r2 r3, ChangesGroup (.callFk disp nret r0 r1 r2 r3) (callFkResult disp nret r0 r1 r2 r3)

/-- R272, R273, R276, R282, R283: `ret` from a `call`, from a `call.fk` without a live continuation, and from one with, which commits or is
squashed; `exit` of some lanes, and of the last. How a commit joins the continuation's counters is the model's choice (log entry 100). -/
def Obligations.ReturnsAndExits : Prop :=
  ChangesGroup .ret retResult ∧ Completes .ret retForkEffect ∧ (∀ commits, Completes .ret (retResolveEffect commits)) ∧
    ChangesGroup .exit exitSome ∧ Completes .exit exitAllEffect

/-- R138: `wait.k` goes on where the counter is at or below the limit, and clears what that proves complete; above it, it parks. -/
def Obligations.WaitForCounter : Prop :=
  ∀ a n, ChangesGroup (.waitK a n) (waitKResult a n) ∧
    ∀ s h, Clear s h (.waitK a n) (srcS a) .nothing → (h.a.getS a.toNat).toNat < h.a.getK n.toNat →
      KeepsShare s h (.waitK n.toNat (h.a.getS a.toNat).toNat) →
      ∃ t u, exec (.waitK a n) s = .next t ∧ t.group? h.g.id = some u ∧ Parks s h (.waitK n.toNat (h.a.getS a.toNat).toNat) t u

/-- R123, R132, R196-R198: lane loads and stores. That an access acts when it issues, or is put off, is the model's choice (log entry 3). -/
def Obligations.LoadsAndStores : Prop := ∀ i e, laneMemEffect i = some e → Completes i e

/-- R123, R199, R200: lane atomics, in increasing lane order. That an atomic acts when it issues, or is put off, is the model's choice (log
entry 3). -/
def Obligations.LaneAtomics : Prop := ∀ i e, laneAtomicEffect i = some e → Completes i e

/-- R198, R201, R202, R412: each bulk and collective command starts one thread, with no acquire of its path outstanding. -/
def Obligations.EngineCommands : Prop := ∀ i e, engineEffect i = some e → Completes i e

/-- R156, R312, R314, R381: `lnch`, `tfence` and `stk.hand` start their threads; a `lnch` that finds its queue full parks. That `tfence` and `stk.hand` squash the continuations whose
translations they end is the model's choice (log entry 105). -/
def Obligations.LaunchesAndHandOvers : Prop :=
  (∀ a, Completes (.lnch a) (lnchEffect a)) ∧ (∀ a, Completes (.lnch a) (lnchParkEffect a)) ∧ (∀ sc, Completes (.tfence sc) (tfenceEffect sc)) ∧
    ∀ stack die, Completes (.stkHand stack die) (stkHandEffect stack die)

/-- R225, R231-R238: the matrix instructions join the unit's threads in matrix issue order; the rope is kept, and given; and a group
without the rope that asks for it joins the queue, and its path parks. -/
def Obligations.MatrixInstructions : Prop := (∀ i e, mxEffect i = some e → Completes i e) ∧ Completes .ropeTake ropeWaitEffect

/-- R241, R242: register blocks move between a group and its team's pool of the quadrant; a `blk.take` that the pool does not serve joins the
queue, and its path parks. -/
def Obligations.RegisterBlocks : Prop :=
  (∀ i e, blockEffect i = some e → Completes i e) ∧ ∀ n, Completes (.blkTake n) (blkTakeParkEffect n)

/-- R288-R292, R301: barrier instructions park their path; `watch`, `unwatch` and `wait.w` work on the group's one cairn, and a `wait.w` on a
word whose cairn has not fired parks. -/
def Obligations.BarriersAndWatches : Prop :=
  (∀ i e, barrierEffect i = some e → Completes i e) ∧ (∀ i e, watchEffect i = some e → Completes i e) ∧
    ∀ a, Completes (.waitW a) (waitWParkEffect a)

/-- R338-R340, R357-R360: messages to the front end, mailbox instructions that are served at once and those that wait, and the system
registers. Whether
`sys.wr` and `sys.rd` are counted themselves is the model's choice (log entry 71). -/
def Obligations.MessagesAndSystem : Prop :=
  (∀ i e, messageEffect i = some e → Completes i e) ∧ (∀ i e, mailboxEffect i = some e → Completes i e) ∧
    (∀ i e, mailboxParkEffect i = some e → Completes i e) ∧ ∀ i e, sysEffect i = some e → Completes i e

/-- R395-R399: `rfl.run` starts a run at the block's solve routine, and `rfl.put` hands in the norms; a `ret` that pops a controller frame
makes the transition: into the residual routine, or by the test of the norms; and REFINE-EXHAUSTED stops a run that has no rung left and
POLICY bit 3. -/
def Obligations.Refinement : Prop :=
  (∀ a, Completes (.rflRun a) (rflRunEffect a)) ∧ (∀ a b, Completes (.rflPut a b) (rflPutEffect a b)) ∧ Completes .ret retRunEffect ∧
    ∀ s h pc f fl w c, Clear s h .ret [] .nothing → s.popsFrame h pc f fl w →
      runStep (s.bytes (teamKey h.t.id w.toNat) 128) (fl.getLsbD 2) = none → (s.grids.map (·.id)).Nodup →
      s.ctx? (s.hereCtx h) = some c → (c.st = .ready ∨ c.st = .resident ∨ c.st = .partly ∨ c.st = .out) →
        ∃ t d, exec .ret s = .next t ∧ t.ctx? (s.hereCtx h) = some d ∧ (d.st = .faulted ∨ d.st = .dead)

/-- R337: `trap` takes a program fault of kind TRAP with CODE and with the execute mask as LANES. -/
def Obligations.TrapTakesItsFault : Prop :=
  ∀ code s h, Clear s h (.trap code) [] .nothing →
    exec (.trap code) s =
      .next (s.raise h.g h.slot h.p.pc (Instr.trap code).first { kind := .trap, lanes := h.p.em, code := code.toNat })

/-! ### Steps of a group's paths -/

/-- R86: a path that enters a clause has its words, and goes on behind the header where the counters that WAIT names are zero, their pending
bits proven clear; else it parks on them. That the words are those of the entry is the model's choice (log entry 102). -/
def Obligations.ClauseEntry : Prop :=
  Steps .clauseEntry
    (fun s => ∃ h ws, s.entering = some h ∧ s.entryHeld h = false ∧ h.p.entry ≠ .refetch ∧ h.a.refillDue = false ∧
      h.arrives = false ∧ s.clauseAt h.t h.p.entry h.p.pc = .ok ws ∧ KeepsShare s h (.waitHdr (headerWait (ws.headD 0))))
    fun s t => ∃ h ws, s.entering = some h ∧ s.clauseAt h.t h.p.entry h.p.pc = .ok ws ∧
      let m := headerWait (ws.headD 0)
      let p := { h.p with hdr := h.p.pc, words := ws }
      GroupTurns s t h.g.id fun g =>
        if h.a.waitMet m then
          { g with arch := (g.arch.clearWait m).setPath h.slot (some { p with pc := h.p.pc + 4, entry := .inside, park := none }) }
        else { g with arch := g.arch.setPath h.slot (some { p with park := some (.waitHdr m) }) }

/-- R86, R138, R252, R292, R295, R360: a parked path goes on where what it waits for has come, and behind its instruction; nothing
outside its group changes. -/
def Obligations.Wakes : Prop :=
  (∀ grp slot, Steps (.waitKWake grp slot)
    (fun s => ∃ g p tm, s.group? grp = some g ∧ g.arch.path slot = some p ∧ s.team? g.team = some tm ∧ tm.runs = true ∧
      g.arch.counterWake p = true)
    fun s t => ∃ g p u, s.group? grp = some g ∧ g.arch.path slot = some p ∧ t.group? grp = some u ∧ OnlyGroup s t grp ∧ u.sameRest g ∧
      (∀ c lim, p.park = some (.waitK c lim) → u.arch = (g.arch.clearProven c lim).setPath slot (some (p.advance 1))) ∧
      ∀ m, p.park = some (.waitHdr m) →
        u.arch = (g.arch.clearWait m).setPath slot (some { p with pc := p.hdr + 4, entry := .inside, park := none })) ∧
  (∀ grp slot, Steps (.waitWWake grp slot)
    (fun s => ∃ g p o tm, s.group? grp = some g ∧ g.arch.path slot = some p ∧ p.park = some (.cairn o) ∧
      s.team? g.team = some tm ∧ tm.runs = true ∧ ∀ c ∈ g.cairn, c.off = o → c.fired = true)
    fun s t => ∃ g p o u, s.group? grp = some g ∧ g.arch.path slot = some p ∧ p.park = some (.cairn o) ∧ t.group? grp = some u ∧
      OnlyGroup s t grp ∧ u.arch = g.arch.setPath slot (some (p.advance 1)) ∧
      u.cairn = g.cairn.map fun c => if c.off = o then { c with fired := false } else c) ∧
  (∀ grp, Steps (.spinWake grp)
    (fun s => ∃ g slot tm, s.group? grp = some g ∧ g.spinHit = some slot ∧ s.team? g.team = some tm ∧ tm.runs = true)
    fun s t => ∃ g slot u, s.group? grp = some g ∧ g.spinHit = some slot ∧ t.group? grp = some u ∧ OnlyGroup s t grp ∧
      u = { g with detector := none, arch := g.arch.setPath slot ((g.arch.path slot).map fun p => { p with park := none }) }) ∧
  ∀ grp slot, Steps (.mailboxWake grp slot)
    (fun s => ∃ g p get w r tm, s.group? grp = some g ∧ g.arch.path slot = some p ∧ p.park = some (.mbx get w r true) ∧
      s.team? g.team = some tm ∧ tm.runs = true)
    fun s t => ∃ g p u, s.group? grp = some g ∧ g.arch.path slot = some p ∧ t.group? grp = some u ∧ OnlyGroup s t grp ∧
      u.arch = g.arch.setPath slot (some (p.advance 1)) ∧ u.sameRest g

/-- R255, R273, R295: the path passed over longest becomes its quadrant's current path; an exited group frees its slot; a recognised
loop parks with the lines of its last iteration as its wake filter. That R255's cycles are the quadrant's issues is the model's choice
(log entry 72). -/
def Obligations.PathSteps : Prop :=
  (∀ die site quad, Steps (.starvationPromotion die site quad) (fun s => ∃ e ∈ s.quadPaths die site quad, 256 ≤ e.2.2.2)
    fun s t => ∃ e ∈ s.quadPaths die site quad, (∀ f ∈ s.quadPaths die site quad, f.2.2.2 ≤ e.2.2.2) ∧
      (t.core die site).cur.find? (·.1 == quad) = some (quad, e.1, e.2.1, e.2.2.1) ∧ { t with groups := s.groups, cores := s.cores } = s ∧
      t.groups = s.groups.map fun g => if g.id = e.1 then g.promote e.2.1 e.2.2.1 else g) ∧
  (∀ grp, Steps (.groupRetire grp)
    (fun s => ∃ g, s.group? grp = some g ∧ g.exited = true ∧ g.retired = false ∧ g.arch.laneBusy = false)
    fun s t => GroupTurns s t grp fun g => { g with retired := true }) ∧
  ∀ grp, Steps (.spinRecognition grp)
    (fun s => ∃ g d slot p r tm, s.group? grp = some g ∧ g.detector = some d ∧ d.due = true ∧ g.arch.paths = (slot, p) :: r ∧
      s.team? g.team = some tm ∧ tm.runs = true ∧
      let park := s.park grp slot (some (.spin d.lines d.hit))
      (s.fpshare (s.teamCtx g.team) = 0 ∨
        park.faultParked { g with arch := g.arch.setPath slot (some { p with park := some (.spin d.lines d.hit) }) } = false))
    fun s t => ∃ g d slot p r u, s.group? grp = some g ∧ g.detector = some d ∧ g.arch.paths = (slot, p) :: r ∧ t.group? grp = some u ∧
      OnlyGroup s t grp ∧
      u = { g with detector := none, arch := g.arch.setPath slot (some { p with park := some (.spin d.lines d.hit) }) }

/-- R268: the oldest position that the core holds is written to the group's spill area; the newest one there is read back. -/
def Obligations.SplitStackSteps : Prop :=
  (∀ grp, Steps (.splitStackSpill grp)
    (fun s => ∃ h q x, s.spiller grp = some h ∧ h.a.spillDue = true ∧ h.a.stack.getLast? = some q ∧
      s.access (s.privWalker h) .write (s.spillVA h h.a.spilled) 64 = .ok x ∧ s.mergesLost x.1 64 = false ∧
      s.held (s.privWalker h) (s.spillVA h h.a.spilled) = false)
    fun s t => ∃ h q x u, s.spiller grp = some h ∧ h.a.stack.getLast? = some q ∧
      s.access (s.privWalker h) .write (s.spillVA h h.a.spilled) 64 = .ok x ∧
      (∀ k, t.byte k = putAt s.byte ((List.range q.afterService.image.length).map fun j => x.1 + j) q.afterService.image k) ∧
      t.group? grp = some u ∧ u.arch.stack.length + 1 = h.a.stack.length ∧
      (∀ p d, q.afterService = .wait p d → u.arch.kept.head? = some (h.a.spilled, p)) ∧
      u.quiet = { h.g.quiet with arch := { h.a.regs with spilled := h.a.spilled + 1 } } ∧
      OnlyMemory s { t with fe := s.fe, lost := s.lost } grp) ∧
  ∀ grp, Steps (.splitStackRefill grp)
    (fun s => ∃ h x, s.spiller grp = some h ∧ h.a.refillDue = true ∧
      s.access (s.privWalker h) .read (s.spillVA h (h.a.spilled - 1)) 64 = .ok x ∧ s.isLost x.1 64 = false ∧
      s.held (s.privWalker h) (s.spillVA h (h.a.spilled - 1)) = false)
    fun s t => ∃ h x u, s.spiller grp = some h ∧ s.access (s.privWalker h) .read (s.spillVA h (h.a.spilled - 1)) 64 = .ok x ∧
      t.group? grp = some u ∧ OnlyGroup s t grp ∧ u.arch.spilled = h.a.spilled - 1 ∧
      (h.a.path0.isSome = true → h.a.path1.isSome = true →
        let q := match Pos.ofImage (s.bytes x.1 64), h.a.kept.find? (·.1 == h.a.spilled - 1) with
          | .wait p d, some e => Pos.wait (p.keeping e.2) d
          | p, _ => p
        u.arch = { h.a with stack := h.a.stack ++ [q], spilled := h.a.spilled - 1, low := []
                            kept := h.a.kept.filter fun e => e.1 < h.a.spilled - 1 })

/-! ### The matrix unit -/

/-- R226, R229-R232, R242: the rope goes to the head of its queue; a load fills the shadow plane and its tag; the planes exchange; the unit
is released; and the first taker of a pool that holds enough gets its blocks. What a store holds behind a shorter load is the model's choice
(log entry 107). -/
def Obligations.MatrixSteps : Prop :=
  (∀ die site, Steps (.ropeGrant die site)
    (fun s => ∃ g r q, (s.core die site).mx.ropeq = g :: r ∧ s.group? g.1 = some q ∧ (s.core die site).mx.rope = none ∧
      (s.core die site).mx.release = false ∧ ((s.core die site).mx.team = none ∨ (s.core die site).mx.team = some q.team) ∧
      (s.team? q.team).any Team.runs = true)
    fun s t => ∃ g r q u, (s.core die site).mx.ropeq = g :: r ∧ s.group? g.1 = some q ∧ t.group? g.1 = some u ∧
      (t.core die site).mx = { (s.core die site).mx with rope := some g.1, ropeq := r, team := some q.team } ∧
      (∀ w p, (w, p) ∈ q.everyPath → q.placeOf (· == .rope g.2) = some w → match w with
        | .slot slot => q.arch.path slot = some p → u.arch = q.arch.setPath slot (some (p.advance 1))
        | w => u.arch = q.arch.onPathAt w fun p => p.advance 1) ∧
      OnlyGroup s (t.onMx die site fun _ => (s.core die site).mx) g.1) ∧
  (∀ die site, Steps (.matrixLoadThread die site)
    (fun s => ∃ x o, s.mxNext die site MxKind.isLoad (· == .mswp) = some x ∧
      (x.kind = .mldE o ∧ s.isLost (teamKey x.team o) (tileBytes (atyp x.fmt)) = false ∨
        x.kind = .mldS o ∧ s.isLost (teamKey x.team o) (tileScaleBytes (atyp x.fmt)) = false))
    fun s t => ∃ x o, s.mxNext die site MxKind.isLoad (· == .mswp) = some x ∧
      let m := (s.core die site).mx
      let u := (t.core die site).mx
      (x.kind = .mldE o ∧ u.shadow.ptag = fld x.fmt 0 4 ∧ u.shadow.scale = m.shadow.scale ∧
          (∀ j, Sparse.look u.shadow.elem j = if j < tileBytes (atyp x.fmt) then s.byte (teamKey x.team o + j) else 0) ∨
        x.kind = .mldS o ∧ u.shadow.ptag = m.shadow.ptag ∧ u.shadow.elem = m.shadow.elem ∧
          ∀ j, Sparse.look u.shadow.scale j = if j < tileScaleBytes (atyp x.fmt) then s.byte (teamKey x.team o + j) else 0) ∧
      u = { m with shadow := u.shadow, threads := m.threads.filter (·.no != x.no) } ∧
      { t with groups := s.groups, cores := s.cores } = s ∧
      ∀ d q, (d, q) ≠ (die, site) → t.core d q = s.core d q) ∧
  (∀ die site, Steps (.mswpExchange die site)
    (fun s => ∃ x, s.mxNext die site (· == .mswp) (fun k => k.isLoad || k.isLoop) = some x)
    fun s t => ∃ x, s.mxNext die site (· == .mswp) (fun k => k.isLoad || k.isLoop) = some x ∧
      let m := (s.core die site).mx
      (t.core die site).mx = { m with active := m.shadow, shadow := m.active, threads := m.threads.filter (·.no != x.no) } ∧
      { t with groups := s.groups, cores := s.cores } = s) ∧
  (∀ die site, Steps (.matrixRelease die site)
    (fun s => (s.core die site).mx.release = true ∧ (s.core die site).mx.threads = [])
    fun s t => let m := (s.core die site).mx
      (t.core die site).mx = ⟨⟨[], [], 0⟩, ⟨[], [], 0⟩, [], none, m.ropeq, none, [], m.nextNo, false, false⟩ ∧ { t with cores := s.cores } = s) ∧
  ∀ team quad, Steps (.blockWake team quad)
    (fun s => ∃ tm e r g slot p n, s.team? team = some tm ∧ tm.runs = true ∧ s.takersOf tm quad = e :: r ∧ s.group? e.1 = some g ∧
      g.takerPath e.2 = some (.slot slot, n) ∧ g.arch.path slot = some p ∧ n ≤ tm.pools.getD quad 0)
    fun s t => ∃ tm e r g slot p n u, s.team? team = some tm ∧ s.takersOf tm quad = e :: r ∧ s.group? e.1 = some g ∧
      g.takerPath e.2 = some (.slot slot, n) ∧ g.arch.path slot = some p ∧ t.group? g.id = some u ∧
      u.arch = (g.arch.freshBlocks g.arch.blocks n (g.arch.blocks + n)).setPath slot (some (p.advance 1)) ∧
      (t.team? team).map (·.pools) = some (tm.withPool quad fun k => k - n).pools ∧ t.mem = s.mem

/-- R236, R239, R240: a step of a loop multiplies the record's vector at this step into one row of the accumulators; every other row,
and memory, keep their values. -/
def Obligations.MatrixLoopStep : Prop :=
  ∀ die site, Steps (.matrixLoopStep die site)
    (fun s => ∃ x tm o z, s.mxNext die site MxKind.isLoop MxKind.holdsLoop = some x ∧
      x.kind = .mlp o z ∧ s.team? x.team = some tm ∧ (s.core die site).mx.ecc = false ∧
      (x.record = none → s.isLost (teamKey x.team o) 32 = false ∧ loopFault tm x.fmt o (s.bytes (teamKey x.team o) 32) = none) ∧
      s.lost = [])
    fun s t => ∃ x o z, s.mxNext die site MxKind.isLoop MxKind.holdsLoop = some x ∧
      x.kind = .mlp o z ∧
      let b := x.record.getD (s.bytes (teamKey x.team o) 32)
      let r := ((fieldOf b 0x10 2 + x.step * signedField b 0x12 2) % 512).toNat
      let vo := ((fieldOf b 0x00 4 : Int) + x.step * signedField b 0x04 4).toNat
      let so := ((fieldOf b 0x08 4 : Int) + x.step * signedField b 0x0C 4).toNat
      let m := (s.core die site).mx
      let u := (t.core die site).mx
      (∀ n, n < 128 → Sparse.look u.acc (128 * r + n) =
        stepColumn (atyp x.fmt) (btyp x.fmt) (Sparse.look m.active.elem) (Sparse.look m.active.scale)
          (fun j => s.byte (teamKey x.team (vo + j))) (fun j => s.byte (teamKey x.team (so + j))) n
          (if z && !x.rows.contains r then 0 else Sparse.look m.acc (128 * r + n))) ∧
      (∀ k, k / 128 ≠ r → Sparse.look u.acc k = Sparse.look m.acc k) ∧
      { u with acc := m.acc, threads := m.threads } = m ∧ t.mem = s.mem ∧
      { t with groups := s.groups, teams := s.teams, cores := s.cores } = s

/-- R240: a step of a drain writes one row, and the row's scales, at the places that its record gives; every other byte keeps its value,
but for the amax word at the last row, where the drain presents values. That a step is one row is the model's choice (log entry 76). -/
def Obligations.MatrixDrainStep : Prop :=
  ∀ die site, Steps (.drainThread die site)
    (fun s => ∃ x tm o z, s.drainNext die site = some x ∧ x.kind = .mdrn o z ∧
      s.team? x.team = some tm ∧
      (x.record = none → s.isLost (teamKey x.team o) 32 = false ∧ s.drainFault tm x.fmt z o (s.bytes (teamKey x.team o) 32) = none) ∧
      let b := x.record.getD (s.bytes (teamKey x.team o) 32)
      let d := drainOne x.fmt z (BitVec.ofNat 32 (fieldOf b 0x14 4)) ((s.core die site).mx.row ((fieldOf b 0x00 2 + x.step) % 512))
      s.drainLoss tm x (((fieldOf b 0x04 4 : Int) + x.step * signedField b 0x08 4).toNat, d.1.length)
        (((fieldOf b 0x0C 4 : Int) + x.step * signedField b 0x10 4).toNat, d.2.1.length)
        (if x.step + 1 = fieldOf b 0x02 2 && amaxOn x.fmt && !drainDirect x.fmt z then some (fieldOf b 0x18 4) else none) = none)
    fun s t => ∃ x tm o z, s.drainNext die site = some x ∧ x.kind = .mdrn o z ∧
      s.team? x.team = some tm ∧
      let b := x.record.getD (s.bytes (teamKey x.team o) 32)
      let m := (s.core die site).mx
      let row := (List.range 128).map fun n => Sparse.look m.acc (128 * ((fieldOf b 0x00 2 + x.step) % 512) + n)
      let d := drainOne x.fmt z (BitVec.ofNat 32 (fieldOf b 0x14 4)) row
      let eo := teamKey x.team ((fieldOf b 0x04 4 : Int) + x.step * signedField b 0x08 4).toNat
      let so := teamKey x.team ((fieldOf b 0x0C 4 : Int) + x.step * signedField b 0x10 4).toNat
      let m1 := putAt (putAt s.byte ((List.range d.1.length).map fun j => eo + j) d.1) ((List.range d.2.1.length).map fun j => so + j) d.2.1
      (x.step + 1 ≠ fieldOf b 0x02 2 ∨ amaxOn x.fmt = false ∨ drainDirect x.fmt z = true → ∀ k, t.byte k = m1 k) ∧
      (x.step + 1 = fieldOf b 0x02 2 → amaxOn x.fmt = true → drainDirect x.fmt z = false → ∀ q, s.dieKey tm (fieldOf b 0x18 4) 4 = some q →
        ∀ k, t.byte k = fieldsAt m1 q [(0, 4, max (BitVec.ofNat 32 (max x.amax.toNat d.2.2)).toNat (ofBytes ((List.range 4).map fun j => m1 (q + j))))] k) ∧
      (t.core die site).mx.acc = m.acc ∧ (t.core die site).mx.active = m.active ∧ (t.core die site).mx.shadow = m.shadow ∧
      { t with mem := s.mem, lost := s.lost, groups := s.groups, teams := s.teams, dies := s.dies, cores := s.cores, losses := s.losses } = s

/-! ### Engine threads -/

/-- R144, R205-R213: a thread reads and checks its descriptor; moves its next element to the place that the descriptor gives, a copy
a gather or a scatter those of one aligned 8-byte word (R144), also of rows side by side; and, with all of them moved, writes its
completion word and is no more. The order of the elements is the model's choice (assumption 104). -/
def Obligations.EngineSteps : Prop :=
  (∀ tid, Steps (.engineDescriptorRead tid)
    (fun s => ∃ x tm, s.moving tid ThreadKind.described .fresh = some (x, tm) ∧ s.isLost (teamKey x.team x.off) 64 = false ∧
      s.descFault tm x.ctx x.kind x.off (s.threadTeam tm (teamKey x.team x.off) 64) = none)
    fun s t => ∃ x tm, s.moving tid ThreadKind.described .fresh = some (x, tm) ∧
      t.threads = s.threads.map (fun u =>
        if u.id = tid then { u with st := .running, desc := s.threadTeam tm (teamKey x.team x.off) 64, idx := 0 } else u) ∧
      { t with threads := s.threads, free := s.free, fe := { t.fe with joins := s.fe.joins, instances := s.fe.instances } } = s ∧
      (x.kind.bulk = true → t.fe = s.fe)) ∧
  (∀ tid, Steps (.copyThread tid)
    (fun s => ∃ x tm bs p, s.moving tid (fun k => match k with | .copy _ | .fill => true | _ => false) .running = some (x, tm) ∧
      x.idx < x.total ∧ tm.st = .resident ∧ CopyDue s x tm bs p)
    fun s t => ∃ x tm n, s.moving tid (fun k => match k with | .copy _ | .fill => true | _ => false) .running = some (x, tm) ∧
      CopyMoves tid tm x.copyWord (n + 1) s t ∧
      (n = 8 ∨ ∀ y bs p, t.thread? tid = some y → y.idx < y.total → y.copyWord = x.copyWord → ¬ CopyDue t y tm bs p)) ∧
  (∀ tid, Steps (.gatherScatterThread tid)
    (fun s => ∃ x tm xb bs p, s.moving tid (fun k => k == .gather || k == .scatter) .running = some (x, tm) ∧
      x.idx < x.total ∧ tm.st = .resident ∧ ElementDue s x tm xb bs p)
    fun s t => ∃ x tm m d, s.moving tid (fun k => k == .gather || k == .scatter) .running = some (x, tm) ∧ ElementMove tid tm s m d ∧
      (t = m ∧ (∀ y xb bs p, m.thread? tid = some y → y.idx < y.total → ElementDue m y tm xb bs p →
          sharesWord (fieldOf x.desc 0x18 4) d (y.gsPlaces (ofBytes xb)).2 = false) ∨
        ∃ e, sharesWord (fieldOf x.desc 0x18 4) d e = true ∧ ElementMove tid tm m t e)) ∧
  (∀ tid, Steps (.bulkAtomicThread tid)
    (fun s => ∃ x tm op args p, s.moving tid (fun k => match k with | .bam _ => true | _ => false) .running = some (x, tm) ∧
      x.kind = .bam op ∧ x.idx < x.total ∧ tm.st = .resident ∧ bamRet x.desc = false ∧
      let e := bamBytes x.desc
      let w := if op = .cas then 2 * e else e
      s.threadHeld x (descCtl x.desc 0 2) (fieldOf x.desc 0 8 + x.idx * bamTstr x.desc) e = false ∧
      s.readAt x tm 0 (fieldOf x.desc 0x08 4 + x.idx * w : Nat) w = .ok args ∧
      s.writeAt x tm (descCtl x.desc 0 2) (fieldOf x.desc 0 8 + x.idx * bamTstr x.desc) e = .ok p)
    fun s t => ∃ x tm op args p, s.moving tid (fun k => match k with | .bam _ => true | _ => false) .running = some (x, tm) ∧
      x.kind = .bam op ∧
      let e := bamBytes x.desc
      let w := if op = .cas then 2 * e else e
      s.readAt x tm 0 (fieldOf x.desc 0x08 4 + x.idx * w : Nat) w = .ok args ∧
      s.writeAt x tm (descCtl x.desc 0 2) (fieldOf x.desc 0 8 + x.idx * bamTstr x.desc) e = .ok p ∧
      t.threads = s.threads.map (fun u => if u.id = x.id then { u with idx := x.idx + 1 } else u) ∧
      Stores s { t with threads := s.threads } (putAt s.byte (keysOf p.runs) (toBytes e
        (op.eval (bamTy x.desc) (ofBytes ((keysOf p.runs).map s.byte)) (fieldOf args 0 e) (fieldOf args e e))))) ∧
  ∀ tid, Steps (.engineCompletion tid)
    (fun s => ∃ x tm, s.moving tid ThreadKind.described .running = some (x, tm) ∧ x.total ≤ x.idx ∧ x.orphan = false ∧
      (descCwe x.desc = true → descCws x.desc ≠ 1 → s.threadHeld x 2 (descCwa x.desc) 8 = false) ∧
      (descCwe x.desc = true → ∃ p, s.writeAt x tm (if descCws x.desc = 1 then 1 else 2) (descCwa x.desc) 8 = .ok p))
    fun s t => ∃ x tm, s.moving tid ThreadKind.described .running = some (x, tm) ∧ t.threads = s.threads.filter (·.id != x.id) ∧
      (descCwe x.desc = false → GroupTurns s { t with threads := s.threads } x.grp fun g =>
        match x.seq with
        | none => g
        | some n => { g with arch := g.arch.complete n, conts := g.conts.map fun c => { c with arch := c.arch.complete n } }) ∧
      ∀ p, descCwe x.desc = true → s.writeAt x tm (if descCws x.desc = 1 then 1 else 2) (descCwa x.desc) 8 = .ok p →
        (∀ k, t.byte k = putAt s.byte (keysOf p.runs) (toBytes 8 (descCwv x.desc)) k) ∧
        { t with mem := s.mem, lost := s.lost, cache := s.cache, groups := s.groups, teams := s.teams, dies := s.dies, cores := s.cores,
                 threads := s.threads, losses := s.losses } = s

/-! ### Teams and their barriers -/

/-- R289, R301-R303: a group's arrival counts at a named barrier, and completes the generation when enough have come; a team's arrival
counts in its grid's slot, and the generation whose last arrival has come is released: the teams that wait for it go on wherever they are,
bivouac records among them handed to their dispatcher, and the slot is ARMED for the next. That arrivals of ended teams count, which groups of a team that mixes forms go on, and that an exit takes back an arrival at b0 are the model's choices (log
entries 6, 7 and 60), and so is the order of a slot's records (log entry 110). -/
def Obligations.BarrierSteps : Prop :=
  (∀ grp, Steps (.groupBarrierArrival grp)
    (fun s => ∃ g tm n c o, s.group? grp = some g ∧ s.team? g.team = some tm ∧ tm.arrives = true ∧ g.exited = false ∧
      g.arrivesAt = some (.named, n, c, o) ∧ n < tm.bars.length ∧ (∀ b ∈ tm.bars, b.held = []) ∧
      (s.groups.map (·.id)).Nodup ∧ (∀ e ∈ g.arch.paths, e.2.arrived = false) ∧ (∀ p ∈ g.arch.waits, p.arrived = false) ∧ (tm.bar n).who.contains g.gidx = false ∧ c ≤ (s.liveGroups g.team).length ∧
      ((tm.bar n).arr = 0 ∨ c = (tm.bar n).count) ∧
      (if n = 0 then (s.liveGroups g.team).length else c) ≤ (tm.bar n).arr + 1)
    fun s t => ∃ g tm n c o u, s.group? grp = some g ∧ s.team? g.team = some tm ∧ g.arrivesAt = some (.named, n, c, o) ∧
      t.group? grp = some u ∧ (t.team? g.team).map (fun x => x.bar n) = some ⟨(tm.bar n).gen + 1, 0, c, [], []⟩ ∧
      (∀ e ∈ g.arch.paths, u.arch.path e.1 = some (e.2.advance 1)) ∧ u.arch.waits = g.arch.waits.map (·.advance 1) ∧ t.mem = s.mem) ∧
  (∀ grp, Steps (.groupBarrierArrival grp)
    (fun s => ∃ g tm k n c o, s.group? grp = some g ∧ s.team? g.team = some tm ∧ tm.arrives = true ∧ k ≠ .named ∧
      g.arrivesAt = some (k, n, c, o))
    fun s t => GroupTurns s t grp fun g => { g with arch := g.arch.onPaths fun p =>
      match p.park with
      | some (.bar k n c hold false m) => if k = .named then p else { p with park := some (.bar k n c hold true m) }
      | _ => p }) ∧
  (∀ team, Steps (.teamSlotArrival team)
    (fun s => ∃ tm k n hold g id b, s.team? team = some tm ∧ tm.arrives = true ∧ s.teamAtSlot team = some (k, n, hold) ∧
      s.grid? tm.grid = some g ∧ g.slots[n]? = some id ∧ s.slot? id = some b ∧ (b.gen (clusterKey k tm)).g = tm.arrivedAt n ∧
      (b.kind = none ∨ b.kind = some k) ∧ (hold && g.desc.carries) = false)
    fun s t => ∃ tm k n hold g id b c, s.team? team = some tm ∧ s.teamAtSlot team = some (k, n, hold) ∧ s.grid? tm.grid = some g ∧
      g.slots[n]? = some id ∧ s.slot? id = some b ∧ t.slot? id = some c ∧ c.kind = some k ∧
      let x := b.gen (clusterKey k tm)
      let e := if k = .cluster then s.clusterExpected g tm.cluster else g.expected
      c.gen (clusterKey k tm) = { x with arr := x.arr + 1, st := if e ≤ x.arr + 1 then .releasing else .filling } ∧ t.mem = s.mem) ∧
  ∀ slot cluster, Steps (.slotRelease slot cluster)
    (fun s => ∃ b g, s.idsUnique ∧ s.slot? slot = some b ∧ s.grid? b.grid = some g ∧ (b.gen cluster).st = .releasing ∧
      ∀ tm ∈ s.teams, tm.waitsAt slot cluster (b.gen cluster).g = true → tm.bivouacking = false)
    fun s t => ∃ b g c, s.slot? slot = some b ∧ s.grid? b.grid = some g ∧ t.slot? slot = some c ∧
      let x := b.gen cluster
      (c.gen cluster).g = x.g + 1 ∧ (c.gen cluster).arr = x.next ∧ (c.gen cluster).next = 0 ∧
      ((c.gen cluster).st = .armed ∨ (c.gen cluster).st = .releasing ∧ 0 < x.next) ∧
      c.records = b.records.filter (fun id => !(s.teams.any fun tm => tm.waitsAt slot cluster x.g && tm.id == id)) ∧
      (∀ k, k < physKey 4 0 → t.byte k = s.byte k) ∧
      ∀ tm ∈ s.teams, tm.waitsAt slot cluster x.g = true → ∃ m, t.team? tm.id = some m ∧ m.st = tm.st ∧ m.slotWait = none ∧
        (tm.st = .bivouac → m.record = tm.record.map (fun r => (r.1, true)) ∧ ∀ d ∈ t.dies, d.n = tm.die → tm.id ∈ d.absent) ∧
        ∀ q ∈ s.groups, q.team = tm.id → ∃ v, t.group? q.id = some v ∧ ∀ e ∈ q.arch.paths, ∀ k n o h gen,
          e.2.park = some (.bar k n o h true gen) → k ≠ .named → gen ≠ 0 → v.arch.path e.1 = some (e.2.advance 1)

/-! ### Teams leave their cores -/

/-- R297, R299, R329: the teams that leave are those that the rules choose; places are kept for their images, their continuations are
squashed, and they issue nothing more; and with a pre-emption the unit is promised the area. That waiting teams of the own context leave
first, how the length of a list of victims counts, and the places of the images, are the model's choices (log entries 65, 113 and 91). -/
def Obligations.Evictions : Prop :=
  let leave (s t : State) (v : List Nat) (l : Leaving) : Prop :=
    (s.groups.map (·.id)).Nodup → ∃ r, s.reserve v = some r ∧
      { t with teams := r.teams, groups := r.groups, cores := r.cores, dies := r.dies, losses := r.losses } = r ∧
      t.teams = r.teams.map (fun x => if v.contains x.id && x.st == .resident then { x with leaving := l } else x) ∧
      t.groups = s.groups.map fun g => if v.contains g.team then { g with conts := [], detector := none } else g
  let waiting (s : State) (die ctx : Nat) (v : List Nat) : Prop :=
    ∃ u g a, s.firstStuck die ctx = some u ∧ s.unitGrid u = some g ∧
      s.victims u g die ((s.openAreas u g die []).map fun a => (a, a, a.headD 0)) (fun a => youngest (s.teams.filter fun t =>
        t.evictable && t.die == die && a.contains t.site && s.gridCtx t.grid == ctx && s.waiting t)) = some (v, a)
  let lower (s : State) (die team : Nat) (v a : List Nat) : Prop :=
    ∃ g, s.unitGrid (s.unit team) = some g ∧
      s.victims (s.unit team) g die ((s.openAreas (s.unit team) g die []).flatMap fun a => a.map fun c => (a, [c], c)) (fun a =>
        let ts := s.teams.filter fun t => t.evictable && t.die == die && a.contains t.site &&
          (s.gridCtx t.grid != g.ctx && (s.grid? t.grid).any fun h => h.prio < g.prio)
        youngest (ts.filter s.waiting) ++ youngest (ts.filter fun t => !s.waiting t)) = some (v, a)
  let members (s : State) (team : Nat) : List Nat := (s.unit team).filter fun id => (s.team? id).any fun x => x.st == .resident
  (∀ die ctx, Steps (.waitingTeamEviction die ctx)
    (fun s => ∃ u v, s.firstStuck die ctx = some u ∧ s.stuck u die = true ∧ s.placing ctx = true ∧ waiting s die ctx v)
    fun s t => ∃ v, waiting s die ctx v ∧ v ≠ [] ∧ leave s t v .evict ∧ t.dies = s.dies) ∧
  (∀ team, Steps (.rotationEviction team)
    (fun s => ∃ tm, s.team? team = some tm ∧ tm.evictable = true ∧ 2 ^ tm.qlog ≤ tm.ret ∧
      (∀ id ∈ members s team, ∀ x, s.team? id = some x → x.evictable = true) ∧
      s.placing (s.gridCtx tm.grid) = true ∧ (s.firstStuck tm.die (s.gridCtx tm.grid)).isSome = true ∧ (s.reserve (members s team)).isSome = true)
    fun s t => leave s t (members s team) .evict ∧ t.dies = s.dies) ∧
  ∀ die team, Steps (.preEmption die team)
    (fun s => ∃ g v a, s.unitGrid (s.unit team) = some g ∧ (s.queueUnits die g.ctx).contains (s.unit team) = true ∧
      s.unitQueued (s.unit team) die = true ∧ s.unitUnwoken (s.unit team) = false ∧ s.placing g.ctx = true ∧
      s.stuck (s.unit team) die = true ∧ lower s die team v a)
    fun s t => ∃ v a, lower s die team v a ∧ v ≠ [] ∧ leave s t v .preempt ∧
      t.dies = s.dies.map fun d => if d.n = die then { d with claims := d.claims ++ [⟨s.unit team, a, v⟩] } else d

/-- R304-R306, R318, R323, R330, R331: a team that holds behind a slot with a carry set writes its record into its context's pool, in the
die's scratchpad or in main memory, and is in BIVOUAC; a team that leaves is saved, its image in main memory, and EVICTED; no other byte of
the package changes; a team whose groups have all exited and retired is DONE; and the classifier closes its count. The
bytes of an image and of a record that the spec leaves open, and the places that they get, are the model's choices (log entries 10, 35, 36,
91 and 96). -/
def Obligations.TeamEnds : Prop :=
  let recordOf (s : State) (tm : Team) (g : Grid) (w : Nat × Nat × Nat) : List Byte :=
    s.recordBytes { tm with recLink := s.free } g (((s.slot? w.1).bind (·.kind)).getD .grid) ((g.slots.findIdx? (· == w.1)).getD 0) w.2.2
  let place (s : State) (tm : Team) (g : Grid) (m : Bool) (a : Nat) : Prop :=
    s.poolPlace g.ctx tm.die (roundUp (recordLen g.desc (s.liveGroups tm.id).length) 64) = some (m, a)
  let kept (s : State) (tm : Team) (g : Grid) (m : Bool) (a : Nat) : State :=
    s.reserveRecord tm g.ctx (roundUp (recordLen g.desc (s.liveGroups tm.id).length) 64) (m, a)
  (∀ team, Steps (.bivouac team)
    (fun s => ∃ tm g w m a, s.team? team = some tm ∧ s.grid? tm.grid = some g ∧ tm.slotWait = some w ∧ tm.bivouacking = true ∧
      tm.recFault = none ∧ tm.st = .resident ∧ tm.recordAt = none ∧ place s tm g m a ∧
      s.recordHeld tm g.ctx (m, a, roundUp (recordLen g.desc (s.liveGroups team).length) 64) = false ∧
      (m = false → s.mergesLost (scratchKey tm.die (s.bpdoff g.ctx tm.die + a)) (recordOf s tm g w).length = false) ∧
      (m = true → ((kept s tm g m a).writeArea (dieWalker tm.die g.ctx) (recordOf s tm g w) (s.bpma g.ctx tm.die + a)
        (pagePieces (s.bpma g.ctx tm.die + a) (recordOf s tm g w).length)).2.2 = none) ∧
      ∀ c, s.ctx? g.ctx = some c → c.switching = false)
    fun s t => ∃ tm g w m a u, s.team? team = some tm ∧ s.grid? tm.grid = some g ∧ tm.slotWait = some w ∧ place s tm g m a ∧
      t.team? team = some u ∧ u.st = .bivouac ∧ u.leaving = .stay ∧ u.image = none ∧
      u.recordAt = some (m, a, roundUp (recordLen g.desc (s.liveGroups team).length) 64) ∧ u.pools = [0, 0, 0, 0] ∧
      (∀ b, s.slot? w.1 = some b → (t.slot? w.1).map (·.records) = some (b.records ++ [team])) ∧
      (∀ k, k < physKey 4 0 → t.byte k = putAt s.byte (if m
          then keysOf ((kept s tm g m a).pageRuns (dieWalker tm.die g.ctx) (recordOf s tm g w) (s.bpma g.ctx tm.die + a)
            (pagePieces (s.bpma g.ctx tm.die + a) (recordOf s tm g w).length))
          else (List.range (recordOf s tm g w).length).map fun j => scratchKey tm.die (s.bpdoff g.ctx tm.die + a) + j) (recordOf s tm g w) k) ∧
      ∀ q ∈ t.groups, q.team = team → q.exited = false →
        q.arch.p = [] ∧ q.arch.blocks = g.desc.regs ∧ (∀ n, 16 ≤ n → q.arch.getS n = 0) ∧
          ∀ n l, l < 32 → g.desc.carryv.getLsbD n = false → q.arch.getV n l = 0) ∧
  (∀ team, Steps (.bivouac team)
    (fun s => ∃ tm g w, s.team? team = some tm ∧ s.grid? tm.grid = some g ∧ tm.slotWait = some w ∧ tm.bivouacking = true ∧
      tm.recFault = none ∧ tm.st = .resident ∧ tm.recordAt = none ∧
      s.poolPlace g.ctx tm.die (roundUp (recordLen g.desc (s.liveGroups team).length) 64) = none)
    fun s t => t = { s with teams := s.teams.map fun x => if x.id = team then { x with bivouacking := false } else x }) ∧
  (∀ team, Steps (.teamSave team)
    (fun s => ∃ tm a, s.team? team = some tm ∧ tm.st = .resident ∧ tm.leaving ≠ .stay ∧ tm.saveFault = none ∧
      s.liveGroups team ≠ [] ∧ (∀ g ∈ s.liveGroups team, g.arch.laneBusy = false) ∧
      (∀ g ∈ s.teamGroups team, g.arch.stack = [] ∧ (∀ e ∈ g.arch.paths, ∀ b w r, e.2.park ≠ some (.mbx b w r true)) ∧
        ∀ e ∈ g.arch.kept, ∀ b w r, e.2.park ≠ some (.mbx b w r true)) ∧
      s.mxToFinish tm = false ∧ s.saveWaits tm = false ∧ s.arrivalDue tm = false ∧ s.recordWaits (s.gridCtx tm.grid) = false ∧
      s.recordLoss (s.gridCtx tm.grid) = none ∧ (∀ c, s.ctx? (s.gridCtx tm.grid) = some c → c.switching = false) ∧
      ((tm.image.map (·.1)) <|> s.imagePlace tm) = some a ∧
      s.areaHeld tm.die (s.gridCtx tm.grid) (s.savea (s.gridCtx tm.grid) tm.die + a) (s.imageLen tm) = false ∧
      (s.writeArea (dieWalker tm.die (s.gridCtx tm.grid)) (s.imageBytes tm) (s.savea (s.gridCtx tm.grid) tm.die + a)
        (pagePieces (s.savea (s.gridCtx tm.grid) tm.die + a) (s.imageLen tm))).2.2 = none)
    fun s t => ∃ tm a u, s.team? team = some tm ∧ ((tm.image.map (·.1)) <|> s.imagePlace tm) = some a ∧
      t.team? team = some u ∧ u.st = .evicted ∧ u.image = some (a, s.imageLen tm) ∧
      (∀ k, k < physKey 4 0 → t.byte k = putAt s.byte (keysOf (s.pageRuns (dieWalker tm.die (s.gridCtx tm.grid)) (s.imageBytes tm)
        (s.savea (s.gridCtx tm.grid) tm.die + a) (pagePieces (s.savea (s.gridCtx tm.grid) tm.die + a) (s.imageLen tm)))) (s.imageBytes tm) k) ∧
      (∀ g ∈ s.liveGroups team, ∀ v, t.group? g.id = some v → s.group? g.id = some g → v.arch.regs = g.arch.regs)) ∧
  (∀ team, Steps (.teamDone team)
    (fun s => ∃ tm, s.team? team = some tm ∧ tm.st = .resident ∧ s.teamGroups team ≠ [] ∧ s.mxThreadsOf tm = [] ∧
      ∀ g ∈ s.teamGroups team, g.exited = true ∧ g.retired = true)
    fun _ t => ∃ u, t.team? team = some u ∧ u.st = .done ∧ ∀ g ∈ t.groups, g.team ≠ team) ∧
  ∀ grid, Steps (.classifierClose grid)
    (fun s => ∃ g, s.grid? grid = some g ∧ g.clsDone = false ∧ 0 < g.clsTeams ∧ (64 ≤ g.clsTeams ∨ g.total ≤ g.clsTeams ∨ g.total ≤ g.ended))
    fun s t => ∃ g, s.grid? grid = some g ∧
      t.grids = s.grids.map (fun h => if h.id = grid then { h with clsDone := true } else h) ∧
      t.fe.classes.head? = some (g.ctx, g.desc.addr,
        if 256 * max g.clsBytes 1 ≤ g.clsOps then .compute else if g.clsOps < 16 * max g.clsBytes 1 then .memory else .mixed) ∧
      t.fe.classes.length ≤ 1024 ∧ { t with grids := s.grids, fe := { t.fe with classes := s.fe.classes } } = s

/-! ### Teams are placed -/

/-- R298, R306, R318-R322, R332: the dispatcher seats the unit whose turn it is on a core, or a rectangle of cores, where it fits: a new
team, a cluster, a saved team or a bivouac record; each member is RESIDENT at its site, with its range of the core's team memory. A new team
gets its groups with their initial registers, and finds in its team memory what that range held (R121); the groups of a team that returns
take their slots with the registers that they have. A cluster gets its window. Other teams and groups, and the memories of the package,
stay. That a later unit that fits is placed before one that does not, and the lowest
place that fits, what the core's range holds, and RET of a restored team are the model's choices (log entries 5, 62, 91 and 111). -/
def Obligations.Placements : Prop :=
  let ready (s : State) (ctx : Nat) (u : List Nat) : Prop :=
    s.idsUnique ∧ s.recordWaits ctx = false ∧ s.recordLoss ctx = none ∧ ∀ m ∈ s.absentOf u, s.returnHeld m = false ∧ s.returnFault m = none
  let fresh (g : Grid) (q : Group) : Prop :=
    q.exited = false ∧ (∀ n, q.arch.getS n = if n < 8 ∧ 4 * n < g.desc.argsz then g.args.getD n 0 else 0) ∧ (∀ n l, q.arch.getV n l = 0) ∧
      q.arch.p = [] ∧ q.arch.k = [] ∧ q.arch.blocks = g.desc.regs ∧ q.arch.lm = BitVec.allOnes 32 ∧ q.arch.path1 = none ∧ q.arch.stack = [] ∧
      ∃ p, q.arch.path0 = some p ∧ p.pc = g.desc.code ∧ p.m = BitVec.allOnes 32 ∧ p.pst = [BitVec.allOnes 32] ∧ p.fmt = 0 ∧ p.floor = 0 ∧
        p.park = none
  let seated (s t : State) (u : List Nat) (die : Nat) (seats : List (Nat × Nat × List Nat × Nat)) : Prop :=
    (∀ x ∈ seats, ∃ o m g, s.team? x.1 = some o ∧ t.team? x.1 = some m ∧ s.grid? o.grid = some g ∧ m.st = .resident ∧ m.die = die ∧
        m.site = x.2.1 ∧ m.tmBase = x.2.2.2 ∧ m.tmem = g.desc.tmem ∧ (o.st = .bivouac → m.pools = [0, 0, 0, 0]) ∧
        (∀ d ∈ t.dies, x.1 ∉ d.absent) ∧
        (o.st = .unplaced → ∀ (i slot : Nat), x.2.2.1[i]? = some slot → ∃ q ∈ t.groups, q.team = x.1 ∧ q.gidx = i ∧ q.slot = slot ∧ fresh g q) ∧
        (o.st ≠ .unplaced → ∀ (i : Nat) (q : Group) (slot : Nat), (s.liveGroups x.1)[i]? = some q → x.2.2.1[i]? = some slot →
          ∃ v, t.group? q.id = some v ∧ v.team = x.1 ∧ v.gidx = q.gidx ∧ v.slot = slot ∧ v.arch.regs = q.arch.regs)) ∧
      (∀ g, s.unitGrid u = some g → s.needsWindow u g = true → ∀ b, (s.placeable u die).map (·.2) = some b →
        ∀ id ∈ u, ∀ m, t.team? id = some m → m.winBase = b ∧ m.winLen = g.clwin) ∧
      s.placeable u die ≠ none ∧ t.teams.filter (fun y => !u.contains y.id) = s.teams.filter (fun y => !u.contains y.id) ∧
      t.groups.filter (fun q => !u.contains q.team) = s.groups.filter (fun q => !u.contains q.team) ∧
      (∀ k, k < physKey 4 0 → t.byte k = s.byte k) ∧ t.queues = s.queues ∧ t.threads = s.threads ∧ t.mstacks = s.mstacks
  (∀ die ctx, Steps (.teamPlace die ctx)
    (fun s => ∃ u seats b, s.nextUnit die ctx = some (u, seats, b) ∧ alone .unplaced (u.filterMap s.team?) = true ∧ ready s ctx u)
    fun s t => ∃ u seats b, s.nextUnit die ctx = some (u, seats, b) ∧ seated s t u die seats ∧
      ∀ id site slots base tm, seats = [(id, site, slots, base)] → t.team? id = some tm →
        ∀ o, o < tm.tmem → t.byte (teamKey id o) = s.byte (coreKey die site base + o)) ∧
  (∀ die ctx, Steps (.clusterPlace die ctx)
    (fun s => ∃ u seats b, s.nextUnit die ctx = some (u, seats, b) ∧ 1 < (u.filterMap s.team?).length ∧ ready s ctx u)
    fun s t => ∃ u seats b, s.nextUnit die ctx = some (u, seats, b) ∧ seated s t u die seats) ∧
  (∀ team, Steps (.teamRestore team)
    (fun s => ∃ tm seats b, s.team? team = some tm ∧ s.nextUnit tm.die (s.gridCtx tm.grid) = some ([team], seats, b) ∧
      tm.st = .evicted ∧ ready s (s.gridCtx tm.grid) [team])
    fun s t => ∃ tm seats b, s.team? team = some tm ∧ s.nextUnit tm.die (s.gridCtx tm.grid) = some ([team], seats, b) ∧
      seated s t [team] tm.die seats ∧ t.mem = s.mem) ∧
  ∀ team, Steps (.bivouacDispatch team)
    (fun s => ∃ tm seats b, s.team? team = some tm ∧ s.nextUnit tm.die (s.gridCtx tm.grid) = some ([team], seats, b) ∧
      tm.st = .bivouac ∧ ready s (s.gridCtx tm.grid) [team])
    fun s t => ∃ tm seats b, s.team? team = some tm ∧ s.nextUnit tm.die (s.gridCtx tm.grid) = some ([team], seats, b) ∧
      seated s t [team] tm.die seats ∧ t.mem = s.mem

/-! ### Launches and grids -/

/-- R309, R312, R314, R316, R327: a launch's thread reads and checks its record; the front end accepts the launch, and its queue entry is
freed; the oldest parked launcher goes on. A launch for a context that has stopped is refused at once with status 0x06, and one whose
descriptor and fields pass their checks is SUBMITTED. Which refusal comes first, and that a structure is read in one step, are the model's
choices (log entries 55 and 114). -/
def Obligations.LaunchSteps : Prop :=
  (∀ tid, Steps (.launchThread tid)
    (fun s => ∃ x tm, s.moving tid (fun k => k == .launch) .fresh = some (x, tm) ∧ s.isLost (teamKey x.team x.off) 64 = false ∧
      let b := s.threadTeam tm (teamKey x.team x.off) 64
      s.recordCheck x tm b = none ∧ (recCtl b 2 = true → s.isLost (teamKey x.team (fieldOf b 0x10 8)) 32 = false))
    fun s t => ∃ x tm, s.moving tid (fun k => k == .launch) .fresh = some (x, tm) ∧
      let b := s.threadTeam tm (teamKey x.team x.off) 64
      t = { s with
        free := s.free + 1
        threads := s.threads.map fun u =>
          if u.id = tid then
            { u with
              st := .running, desc := b
              args := if recCtl b 2 then wordsAt (s.threadTeam tm (teamKey x.team (fieldOf b 0x10 8)) 32) 0 8 else [] }
          else u }) ∧
  (∀ tid, Steps (.launchAccept tid)
    (fun s => ∃ x s', s.thread? tid = some x ∧ x.kind = .launch ∧ x.st = .running ∧ x.child = none ∧ s.fe.reloading = false ∧
      s.liveGrids < 4096 ∧ s.accept (s.threadReq x) (.thread tid) = .ok s' ∧ s'.threads = s.threads)
    fun s t => ∃ x s' y, s.thread? tid = some x ∧ s.accept (s.threadReq x) (.thread tid) = .ok s' ∧ t.thread? tid = some y ∧
      y = { x with st := .waiting, child := some s.evSeq } ∧ t.grids = s'.grids ∧ t.mem = s'.mem ∧
      (t.core x.die x.site).plq.contains tid = false) ∧
  (∀ die site, Steps (.launchQueueWake die site)
    (fun s => ∃ g r, (s.core die site).plqWait = g :: r ∧ (s.core die site).plqWakes ≠ 0)
    fun s t => ∃ g r, (s.core die site).plqWait = g :: r ∧ (t.core die site).plqWait = r ∧
      (t.core die site).plqWakes + 1 = (s.core die site).plqWakes ∧ { t with groups := s.groups, cores := s.cores } = s ∧
      ∀ q w, s.group? g = some q → q.placeOf (· == .lnchFull) = some w →
        (t.group? g).map (·.arch) = some (q.arch.onPathAt w fun p => { p with park := none })) ∧
  ∀ (s : State) r l,
    ((∀ c, s.ctx? r.ctx = some c → c.st = .faulted ∨ c.st = .dead ∨ c.st = .free) → ∃ t g, s.accept r l = .ok t ∧
      t.grids = s.grids ++ [g] ∧ g.st = .failed ∧ g.code = 6 ∧ g.id = s.evSeq ∧ t.evSeq = s.evSeq + 1 ∧
        { t with grids := s.grids, evSeq := s.evSeq } = s) ∧
    ∀ c d args, s.ctx? r.ctx = some c → c.st ≠ .faulted → c.st ≠ .dead → c.st ≠ .free → s.examine r = .ok (d, args) →
      ∃ t g, s.accept r l = .ok t ∧ t.grids = s.grids ++ [g] ∧ g.st = .submitted ∧ g.desc = d ∧ g.args = args ∧ g.gx = r.gx ∧
        g.gy = r.gy ∧ g.gz = r.gz ∧ g.dies = c.dies ∧ g.id = s.evSeq ∧ t.evSeq = s.evSeq + 1 ∧ { t with grids := s.grids, evSeq := s.evSeq } = s

/-- R302, R310, R313, R319: a grid's slots are allocated and it is DISPATCHING; its teams are dealt to the absent queues of its dies; with
every team and thread ended it is RETIRED; and it reports to its status word, then by one off its completion word. That a grid keeps what was
read at its dispatch, which grid is dealt next, and that no dealt team is withdrawn are the model's choices (log entries 37, 114, 115
and 116). -/
def Obligations.GridSteps : Prop :=
  (∀ grid, Steps (.gridDispatch grid)
    (fun s => ∃ g d, s.grid? grid = some g ∧ g.st = .submitted ∧ g.hold = none ∧ s.slots.length + d.gbar ≤ 4096 ∧
      s.rereadDesc g = .ok d)
    fun s t => ∃ g d ids, s.grid? grid = some g ∧ s.rereadDesc g = .ok d ∧ ids.length = d.gbar ∧ ids.Nodup ∧ (∀ n ∈ ids, ∀ b ∈ s.slots, b.id ≠ n) ∧
      t.slots = s.slots ++ ids.map (fun n => ⟨n, grid, none, [], none, []⟩) ∧
      t.grids = s.grids.map (fun h => if h.id = grid then { h with st := .dispatching, slots := ids, desc := d } else h) ∧
      { t with slots := s.slots, grids := s.grids, free := s.free } = s) ∧
  (∀ die, Steps (.teamDeal die)
    (fun s => (s.grids.map (·.id)).Nodup ∧ ∃ g x d, s.nextDealt = some (g, x) ∧ s.dealDie g = some die ∧ s.rereadDesc g = .ok d ∧
      ∀ y, x = some y → ∀ q ∈ y.1 :: y.2.map (·.1), s.qcbWaits q = false)
    fun s t => ∃ g ∈ s.grids, s.dealable g = true ∧ s.dealDie g = some die ∧
      (∀ h ∈ s.grids, s.dealable h = true → s.dealDie h ≠ none → h.prio ≤ g.prio ∧
        (h.prio = g.prio → h.queue = g.queue → s.sameQueue h.queue h.qgen = s.sameQueue g.queue g.qgen → g.id ≤ h.id)) ∧
      t.fe.rr = (if s.sameQueue g.queue g.qgen then s.fe.rr.mapIdx (fun i n => if i = g.prio then g.queue else n) else s.fe.rr) ∧
      let ts := (List.range (max 1 g.desc.csize)).map fun i => newTeam (s.nextTeam + i) (g.nextDeal + i) die g
      t.teams = s.teams ++ ts ∧ t.grids = s.grids.map (fun h => if h.id = g.id then { h with nextDeal := h.nextDeal + ts.length } else h) ∧
      t.dies = s.dies.map (fun d => if d.n = die then { d with absent := d.absent ++ ts.map (·.id) } else d) ∧
      t.groups = s.groups ∧ t.cores = s.cores ∧ t.threads = s.threads ∧ t.slots = s.slots) ∧
  (∀ grid, Steps (.gridRetire grid)
    (fun s => ∃ g, s.grid? grid = some g ∧ g.st = .draining ∧ g.total ≤ g.ended ∧ s.gridThreads grid = false)
    fun s t => ∃ g, s.grid? grid = some g ∧ t.grids = s.grids.map (fun h =>
        if h.id = grid then { h with st := .retired, code := if h.killed = 0 then 0 else 4, slots := [], report := .status } else h) ∧
      t.slots = s.slots.filter (fun b => b.grid != grid) ∧ { t with slots := s.slots, grids := s.grids, ctxs := s.ctxs } = s ∧
      let used := (s.slots.filter fun b => b.grid == grid).filterMap (·.counts)
      t.ctxs = s.ctxs.map fun c =>
        if c.id = g.ctx then { c with pools := c.pools.filter fun e => !used.contains (e.1, e.2.1, e.2.2.1) } else c) ∧
  (∀ grid, Steps (.gridReport grid)
    (fun s => ∃ g c k, s.grid? grid = some g ∧ s.ctx? g.ctx = some c ∧ g.report = .status ∧ g.sta ≠ 0 ∧
      s.wordHeld g.ctx g.staDie g.sta = false ∧ s.wordTarget g.ctx g.staDie g.sta = .ok k)
    fun s t => ∃ g k, s.grid? grid = some g ∧ s.wordTarget g.ctx g.staDie g.sta = .ok k ∧
      t.grids = s.grids.map (fun h => if h.id = grid then { h with report := .completion } else h) ∧
      Stores s { t with grids := s.grids } (fieldsAt s.byte k [(0, 8, g.code + 2 ^ 32 * (g.killed % 2 ^ 32))])) ∧
  ∀ grid, Steps (.gridReport grid)
    (fun s => ∃ g c k tid, s.grid? grid = some g ∧ s.ctx? g.ctx = some c ∧ (g.report = .completion ∨ g.report = .status ∧ g.sta = 0) ∧
      s.wordHeld g.ctx g.cwDie g.cwa = false ∧ s.wordTarget g.ctx g.cwDie g.cwa = .ok k ∧ g.launcher = .thread tid)
    fun s t => ∃ g k tid, s.grid? grid = some g ∧ s.wordTarget g.ctx g.cwDie g.cwa = .ok k ∧ g.launcher = .thread tid ∧
      (∀ q, t.byte q = fieldsAt s.byte k [(0, 8, s.readLE k 8 + 2 ^ 64 - 1)] q) ∧ (∀ x ∈ t.threads, x.id ≠ tid ∨ s.thread? tid = none) ∧
      t.grids = s.grids.map fun h => if h.id = grid then { h with report := .reported } else h

/-! ### Commands of the host (R326-R328, R334, R343, R349) -/

/-- R326, R327: CTXCMD commands in a context state that admits them, with STATUS 0. For the contexts without queues the whole next state
is given; a queue follows its context by `Obligations.QueueStates`. While a command runs, a write of CTXCMD is ignored. STATUS
where R327 lists no state, what LOAD does not check, the partition of a loaded context and how it changes are the model's choices (log
entries 16, 39, 75, 81 and 91). -/
def Obligations.ContextCommands : Prop :=
  let done (s : State) (n : Nat) : State := { s with fe := { s.fe with ctxStatus := n } }
  let sets (s : State) (ctx : Nat) (f : Ctx → Ctx) : State := { s with ctxs := s.ctxs.map fun c => if c.id = ctx then f c else c }
  let bare (s : State) (ctx : Nat) : Prop := ∀ u ∈ s.queues, u.ctx ≠ ctx
  let has (s : State) (ctx : Nat) (p : Ctx → Prop) : Prop := ctx < 4096 ∧ s.serves ∧ s.noHeld ctx ∧ ∃ c, s.ctx? ctx = some c ∧ p c
  (∀ ctx, Steps (.load ctx)
    (fun s => ctx < 4096 ∧ s.serves ∧ s.noHeld ctx ∧ (∀ c, s.ctx? ctx = some c → c.st = .free) ∧ tagOk s.fe.ctxarg 256 = true ∧
      s.keyHeld (tagKey s.fe.ctxarg) = false ∧ s.keyHeld (tagKey s.fe.mbtbase) = false ∧
      s.keyHeld (tagKey (BitVec.ofNat 64 (s.readLE (tagKey s.fe.ctxarg) 8))) = false ∧ s.isLost (tagKey s.fe.mbtbase + 16 * ctx) 16 = false ∧
      s.isLost (tagKey s.fe.ctxarg) 256 = false ∧ recordOk (s.bytes (tagKey s.fe.ctxarg) 256) = true ∧
      s.isLost (tagKey (BitVec.ofNat 64 (fieldOf (s.bytes (tagKey s.fe.ctxarg) 256) 0 8))) 8 = false)
    fun s t => ∃ c, t = { (done s 0) with ctxs := s.ctxs.filter (fun x => x.id != ctx) ++ [c] } ∧ c.id = ctx ∧ c.st = .ready ∧
      c.recAddr = s.fe.ctxarg ∧ c.h = 0 ∧ c.held = [] ∧ c.faults = [] ∧ c.privUsed = [] ∧ c.saves = [] ∧ c.pools = [] ∧ c.switching = false) ∧
  (∀ ctx, Steps (.activate ctx) (fun s => has s ctx fun c => c.st = .out)
    fun s t => t.fe.ctxStatus = 0 ∧ (bare s ctx → t = sets (done s 0) ctx fun c => { c with st := .ready })) ∧
  (∀ ctx, Steps (.switchOut ctx) (fun s => has s ctx fun c => c.st = .ready)
    fun s t => t.fe.ctxStatus = 0 ∧
      (bare s ctx → t = { sets (done s 0) ctx (fun c => { c with st := .out, switching := false }) with tlb := s.tlb.filter fun e => e.ctx != ctx })) ∧
  (∀ ctx, Steps (.switchOut ctx)
    (fun s => (has s ctx fun c => c.st = .resident ∨ c.st = .partly) ∧ (s.teams.map (·.id)).Nodup ∧
      ∃ x ∈ s.teams, s.gridCtx x.grid = ctx ∧ x.st = .resident)
    fun s t => t.fe = { s.fe with ctxBusy := some ctx } ∧ t.ctxs = (sets s ctx fun c => { c with switching := true }).ctxs ∧
      t.teams = s.teams.map (fun x => if x.st = .resident ∧ s.gridCtx x.grid = ctx then { x with leaving := .evict } else x) ∧
      (∀ g ∈ t.groups, (∃ x ∈ s.teams, x.id = g.team ∧ x.st = .resident ∧ s.gridCtx x.grid = ctx) → g.conts = []) ∧
      { t with fe := s.fe, ctxs := s.ctxs, teams := s.teams, groups := s.groups, cores := s.cores, losses := s.losses } = s) ∧
  (∀ ctx, Steps (.resumeFault ctx)
    (fun s => has s ctx fun c => c.st ≠ .free ∧ ∃ e, c.faults.find? (fun e => e.1 == s.fe.ctxarg.toNat) = some e)
    fun s t => ∃ c e, s.ctx? ctx = some c ∧ c.faults.find? (fun e => e.1 == s.fe.ctxarg.toNat) = some e ∧ t.fe = (done s 0).fe ∧
      t.ctxs = (sets s ctx fun c => { c with faults := c.faults.filter fun x => x.1 != e.1 }).ctxs ∧
      ∀ grp g tm, e.2 = .path grp → s.group? grp = some g → s.team? g.team = some tm →
        GroupTurns s { t with fe := s.fe, ctxs := s.ctxs } grp fun g => { g with arch := g.arch.onPaths fun p =>
          match p.park with
          | some (.fault n _) => if n = e.1 then { p with park := if tm.st = .resident then none else some (.fault n true) } else p
          | _ => p }) ∧
  (∀ ctx, Steps (.resumeFault ctx)
    (fun s => has s ctx fun c => c.st ≠ .free ∧ ∀ e ∈ c.faults, e.1 ≠ s.fe.ctxarg.toNat) fun s t => t = done s 3) ∧
  (∀ ctx, Steps (.clear ctx) (fun s => has s ctx fun c => c.st = .faulted ∧ ∀ g ∈ s.grids, g.ctx = ctx → g.report = .reported)
    fun s t => t.fe.ctxStatus = 0 ∧ (bare s ctx → t = sets (done s 0) ctx fun c => { c with st := .ready })) ∧
  (∀ ctx, Steps (.kill ctx)
    (fun s => ctx < 4096 ∧ s.pkg.stage = .d ∧ (s.fe.ctxBusy = none ∨ s.fe.ctxBusy = some ctx) ∧ s.noHeld ctx ∧ (s.grids.map (·.id)).Nodup ∧
      ∃ c, s.ctx? ctx = some c ∧ c.st ≠ .free ∧ c.st ≠ .dead)
    fun _ t => t.fe.ctxStatus = 0 ∧ t.fe.ctxBusy = none ∧ (∃ c, t.ctx? ctx = some c ∧ c.st = .dead) ∧
      ∀ g ∈ t.grids, g.ctx = ctx → g.st = .retired ∨ g.st = .failed) ∧
  (∀ ctx, Steps (.free ctx) (fun s => has s ctx fun c => c.st = .dead ∧ ∀ x ∈ s.threads, x.ctx = ctx → x.st = .ended)
    fun _ t => t.fe.ctxStatus = 0 ∧ (∃ c, t.ctx? ctx = some c ∧ c.st = .free ∧ c.held = [] ∧ c.faults = []) ∧
      (∀ g ∈ t.grids, g.ctx ≠ ctx) ∧ (∀ x ∈ t.threads, x.ctx ≠ ctx) ∧ ∀ e ∈ t.tlb, e.ctx ≠ ctx) ∧
  (∀ op ctx, Steps (.ctxcmdReservedOp op ctx)
    (fun s => ctx < 4096 ∧ (op = 0 ∨ 8 ≤ op ∧ op < 16) ∧ s.serves ∧ s.noHeld ctx) fun s t => t = done s 4) ∧
  (∀ ctx, Steps (.load ctx) (fun s => has s ctx fun c => c.st ≠ .free) fun s t => t = done s 2) ∧
  (∀ ctx i, (i = .load ctx ∨ i = .activate ctx ∨ i = .switchOut ctx ∨ i = .resumeFault ctx ∨ i = .clear ctx ∨ i = .free ctx) →
    Steps i (fun s => ctx < 4096 ∧ s.pkg.stage = .d ∧ s.fe.ctxBusy ≠ none) fun s t => t = s) ∧
  ∀ ctx dies, Steps (.partitionChange ctx dies)
    (fun s => (∃ c, s.ctx? ctx = some c ∧ c.st ≠ .free) ∧ partsOk s.pkg.dieok (addPart dies (s.partitions ctx)) = true)
    fun s t => t = sets s ctx fun c => { c with dies := dies }

/-- R347, R349: a queue whose context fetches leaves OUT for IDLE or ACTIVE; one whose context does not goes to OUT, and RDIDX stands at a
packet whose mailbox request is withdrawn; with the context FREE it is ABSENT. A progress word gets RDIDX. -/
def Obligations.QueueStates : Prop :=
  (∀ (s : State) q u c, s.queue? q = some u → u.ctl.getLsbD 0 = false → s.ctx? u.ctx = some c → c.st.fetches = true → c.switching = false →
    u.st = .out → ((s.syncQueue q).1.queue? q = some { u with st := if u.rdidx < u.tail then .active else .idle })) ∧
  (∀ (s : State) q u c, s.queue? q = some u → u.ctl.getLsbD 0 = false → s.ctx? u.ctx = some c → c.st ≠ .free → c.st.fetches = false →
    u.st = .idle ∨ u.st = .active ∨ u.st = .stalled ∨ u.st = .blocked → (∀ r ∈ s.fe.mbxq, ∀ n i, r.src ≠ .queue q n i) →
    (s.syncQueue q).1.queue? q = some { u with st := .out, packet := none, feFault := none }) ∧
  (∀ (s : State) q u, s.queue? q = some u → u.st ≠ .absent → (∀ c, s.ctx? u.ctx = some c → c.st = .free) →
    ((s.syncQueue q).1.queue? q).map (·.st) = some .absent) ∧
  ∀ (s : State) q u k, s.queue? q = some u → u.ctl.getLsbD 0 = true → u.prog ≤ u.rdidx →
    s.wordHeld u.ctx (if u.ctl.getLsbD 1 then some (u.ctl.toNat / 4 % 4) else none) u.proga.toNat = false →
    s.wordTarget u.ctx (if u.ctl.getLsbD 1 then some (u.ctl.toNat / 4 % 4) else none) u.proga.toNat = .ok k →
    (s.progress q).2 = none ∧ (s.progress q).1.queues = s.queues.map (fun v => if v.id = q then { v with prog := u.rdidx } else v) ∧
      ∀ j, (s.progress q).1.byte j = fieldsAt s.byte k [(0, 8, u.rdidx)] j

/-- R343, R344, R348, R349, R406, R407: the queue commands, the table registers and doorbells; and writes of the window's other registers.
The exact state of the queue is given where it has no progress word. From which stage the registers serve, and two corners of RESET, are
the model's choices (log entries 13 and 67). -/
def Obligations.QueueCommands : Prop :=
  let inTable (s : State) (q : Nat) : Prop := s.pkg.stage = .d ∧ q < 2 ^ s.fe.qtlog.toNat
  (∀ q, Steps (.queueCreate q)
    (fun s => inTable s q ∧ (∀ u, s.queue? q = some u → u.st = .absent) ∧ s.keyHeld (s.qcbKey q) = false ∧ s.isLost (s.qcbKey q) 256 = false ∧
      qcbOk (s.bytes (s.qcbKey q) 256) = true ∧ ∃ c, s.ctx? (fieldOf (s.bytes (s.qcbKey q) 256) 0x0C 2) = some c ∧ c.st ≠ .free)
    fun s t => t.fe.qStatus = 0 ∧
      let b := s.bytes (s.qcbKey q) 256
      fieldOf b 0x0B 1 % 2 = 0 → ∃ u, t.queue? q = some u ∧ u.st = (if s.fetching (fieldOf b 0x0C 2) then .idle else .out) ∧
        u.ring.toNat = fieldOf b 0 8 ∧ u.szlog = fieldOf b 8 1 ∧ u.prio = fieldOf b 9 1 ∧ u.ctx = fieldOf b 0x0C 2 ∧
        u.tail = fieldOf b 0x10 8 ∧ u.rdidx = fieldOf b 0x18 8 ∧ u.doneidx = fieldOf b 0x18 8 ∧ u.quantum = fieldOf b 0x28 4 ∧
        u.deficit = 0 ∧ u.pending = [] ∧ u.errcode = 0) ∧
  (∀ q, Steps (.queueDestroy q) (fun s => inTable s q ∧ ∃ u, s.queue? q = some u ∧ u.st ≠ .absent)
    fun _ t => t.fe.qStatus = 0 ∧ ∃ u, t.queue? q = some u ∧ u.st = .absent) ∧
  (∀ q, Steps (.queueReset q) (fun s => inTable s q ∧ ∃ u, s.queue? q = some u ∧ u.st = .error ∧ u.rdidx ≤ s.fe.qarg.toNat)
    fun s t => t.fe.qStatus = 0 ∧ ∀ u, s.queue? q = some u → u.ctl.getLsbD 0 = false →
      t.queue? q = some { u with
        st := if s.fetching u.ctx then .idle else .out
        rdidx := s.fe.qarg.toNat, tail := s.fe.qarg.toNat, errcode := 0, errval := 0, packet := none
        doneidx := (u.pending.min?).getD s.fe.qarg.toNat }) ∧
  (∀ op q, Steps (.qcmdReservedOp op q) (fun s => s.pkg.stage = .d ∧ q < 2 ^ 20 ∧ (op = 0 ∨ 4 ≤ op ∧ op < 16))
    fun s t => t = { s with fe := { s.fe with qStatus := 4 } }) ∧
  (∀ v, Steps (.queueTableRegisterWrite .qtbase v) (fun s => s.pkg.stage = .d)
    fun s t => t = if (∀ u ∈ s.queues, u.st = .absent) ∧ tagOk v 4096 = true then { s with fe := { s.fe with qtbase := v } } else s) ∧
  (∀ v, Steps (.queueTableRegisterWrite .qtlog v) (fun s => s.pkg.stage = .d)
    fun s t => t = if (∀ u ∈ s.queues, u.st = .absent) ∧ 6 ≤ (v.setWidth 32).toNat ∧ (v.setWidth 32).toNat ≤ 20 then
        { s with fe := { s.fe with qtlog := v.setWidth 32 } } else s) ∧
  (∀ v, Steps (.queueTableRegisterWrite .mbtbase v) (fun s => s.pkg.stage = .d)
    fun s t => t = if tagOk v 4096 = true then { s with fe := { s.fe with mbtbase := v } } else s) ∧
  (∀ off v, Steps (.registerWrite off v) (fun _ => True) fun s t =>
    (s.pkg.stage ≠ .d → t = s) ∧
    (s.pkg.stage = .d →
      { t.fe with ctxarg := s.fe.ctxarg, qarg := s.fe.qarg, expt := s.fe.expt, cge := s.fe.cge } = s.fe ∧ { t with fe := s.fe } = s ∧
      t.fe.ctxarg = (if off = 0 then v else s.fe.ctxarg) ∧ t.fe.qarg = (if off = 0x28 then v else s.fe.qarg) ∧
      (∀ i, i < 16 → off = 0x200 + 16 * i → Sparse.look t.fe.expt (2 * i) = v &&& 0x000030FFFFFFFFFF) ∧
      (∀ i, i < 16 → off = 0x208 + 16 * i → Sparse.look t.fe.expt (2 * i + 1) = v &&& 0xC00000FFFFFFFFFF) ∧
      (∀ g, g < 256 → off = 0x400 + 16 * g → Sparse.look t.fe.cge (2 * g) =
        if ∃ j ∈ s.fe.joins, j.cg = g then Sparse.look s.fe.cge (2 * g) else v) ∧
      (∀ g, g < 256 → off = 0x408 + 16 * g → Sparse.look t.fe.cge (2 * g + 1) =
        if ∃ j ∈ s.fe.joins, j.cg = g then Sparse.look s.fe.cge (2 * g + 1) else v &&& 0x8000000000000FFF))) ∧
  (∀ m, Steps (.hsigClear m) (fun s => s.pkg.stage = .d) fun s t => t = { s with fe := { s.fe with hsig := s.fe.hsig &&& ~~~m } }) ∧
  (∀ q v, Steps (.doorbell q v)
    (fun s => s.pkg.stage = .d ∧ s.fe.reloading = false ∧ ∃ u, s.queue? q = some u ∧ v.toNat ≤ u.rdidx + 2 ^ u.szlog ∧
      (u.st = .idle ∨ u.st = .active ∨ u.st = .blocked))
    fun s t => ∃ u, s.queue? q = some u ∧ t = { s.touchQueue q with queues := s.queues.map fun w =>
      if w.id = q then { w with tail := max w.tail v.toNat, st := if u.st = .idle ∧ u.rdidx < max u.tail v.toNat then .active else w.st } else w }) ∧
  (∀ q v, Steps (.doorbell q v)
    (fun s => s.pkg.stage = .d ∧ s.fe.reloading = false ∧ ∃ u, s.queue? q = some u ∧ u.rdidx + 2 ^ u.szlog < v.toNat ∧
      u.st ≠ .absent ∧ u.st ≠ .error ∧ s.keyHeld (s.qcbKey q) = false)
    fun s t => ∃ u, s.queue? q = some u ∧ t.fe.hsig.getLsbD 1 = true ∧
      t.queue? q = some { u with st := .error, errcode := 1, erridx := v.toNat, packet := none, feFault := none }) ∧
  ∀ q v, Steps (.doorbell q v) (fun s => s.pkg.stage = .d ∧ s.fe.reloading = true)
    fun s t => t = { s with fe := { s.fe with heldBells := s.fe.heldBells ++ [(q, v, none)] } }

/-- R340, R342, R359, R425: messages of groups reach the front end; and the reload of its logic block. -/
def Obligations.FrontEndSteps : Prop :=
  let takes (s : State) (r : List FeMsg) : State := { s with fe := { s.fe with msgs := r } }
  Steps .qbellDelivery
    (fun s => s.pkg.stage = .d ∧ s.fe.reloading = false ∧
      ∃ ctx q v r u, s.fe.msgs = .bell ctx q v :: r ∧ q.toNat < 2 ^ 20 ∧ s.queue? q.toNat = some u ∧ u.ctx = ctx)
    (fun s t => ∃ ctx q v r, s.fe.msgs = .bell ctx q v :: r ∧ exec (.doorbell q.toNat v) (takes s r) = .next t) ∧
  Steps .qbellDelivery
    (fun s => ∃ ctx q v r, s.fe.msgs = .bell ctx q v :: r ∧
      (2 ^ 20 ≤ q.toNat ∨ s.fe.reloading = false ∧ ∀ u, s.queue? q.toNat = some u → u.ctx ≠ ctx))
    (fun s t => ∃ m r, s.fe.msgs = m :: r ∧ t = takes s r) ∧
  Steps .qbellDelivery
    (fun s => s.fe.reloading = true ∧ ∃ ctx q v r, s.fe.msgs = .bell ctx q v :: r ∧ q.toNat < 2 ^ 20)
    (fun s t => ∃ ctx q v r, s.fe.msgs = .bell ctx q v :: r ∧
      t = { s with fe := { s.fe with msgs := r, heldBells := s.fe.heldBells ++ [(q.toNat, v, some ctx)] } }) ∧
  Steps .sintDelivery
    (fun s => s.fe.reloading = false ∧ ∃ ctx v r, s.fe.msgs = .sint ctx v :: r ∧ v.toNat = 2 ^ 30)
    (fun s t => ∃ ctx v r, s.fe.msgs = .sint ctx v :: r ∧
      t = { takes s r with pkg := { s.pkg with wake := if s.pkg.held then s.pkg.wake else some ctx } }) ∧
  Steps .sintDelivery
    (fun s => s.fe.reloading = false ∧ ∃ ctx v r, s.fe.msgs = .sint ctx v :: r ∧ 2 ^ 31 ≤ v.toNat ∧ v.toNat < 2 ^ 31 + 16)
    (fun s t => ∃ ctx v r, s.fe.msgs = .sint ctx v :: r ∧ t = { takes s r with
      mstacks := s.mstacks.map fun k =>
        if k.n = v.toNat - 2 ^ 31 ∧ s.pkg.held = false ∧ s.training (v.toNat - 2 ^ 31) = false then { k with wake := some ctx } else k }) ∧
  Steps .sintDelivery
    (fun s => s.fe.reloading = false ∧ ∃ ctx v r, s.fe.msgs = .sint ctx v :: r ∧
      (v.toNat / 2 ^ 30 = 3 ∨ v.toNat / 2 ^ 30 = 1 ∧ v.toNat ≠ 2 ^ 30 ∨ v.toNat / 2 ^ 30 = 2 ∧ 2 ^ 31 + 16 ≤ v.toNat ∨
        v.toNat / 2 ^ 30 = 0 ∧ (2 ^ 20 ≤ v.toNat ∨ ∀ u, s.queue? v.toNat = some u → u.ctx ≠ ctx ∨ u.st = .absent ∨ u.st = .error)))
    (fun s t => ∃ m r, s.fe.msgs = m :: r ∧ t = takes s r) ∧
  Steps .sintDelivery
    (fun s => s.fe.reloading = false ∧ ∃ ctx v r u, s.fe.msgs = .sint ctx v :: r ∧ v.toNat < 2 ^ 20 ∧ s.queue? v.toNat = some u ∧ u.ctx = ctx ∧
      (u.st = .idle ∨ u.st = .active ∨ u.st = .blocked ∨ u.st = .out ∨ u.st = .stalled ∧ (s.fetching ctx = false ∨
        ((takes s r).touchQueue v.toNat).slotHeld u = true ∨ ∃ n, ((takes s r).touchQueue v.toNat).headerAt u = .ok n ∧ u.published n = false)))
    (fun s t => ∃ ctx v r, s.fe.msgs = .sint ctx v :: r ∧ t = (takes s r).touchQueue v.toNat) ∧
  Steps .sintDelivery
    (fun s => s.fe.reloading = false ∧ ∃ ctx v r u n, s.fe.msgs = .sint ctx v :: r ∧ v.toNat < 2 ^ 20 ∧ s.queue? v.toNat = some u ∧ u.ctx = ctx ∧
      u.st = .stalled ∧ s.fetching ctx = true ∧ ((takes s r).touchQueue v.toNat).slotHeld u = false ∧
      ((takes s r).touchQueue v.toNat).headerAt u = .ok n ∧ u.published n = true)
    (fun s t => ∃ ctx v r, s.fe.msgs = .sint ctx v :: r ∧ t = { (takes s r).touchQueue v.toNat with
      queues := s.queues.map fun w => if w.id = v.toNat then { w with st := .active } else w }) ∧
  (∀ i, (i = .configEccError ∨ ∃ q, i = .frontEndWatchdog q) → Steps i
    (fun s => s.pkg.stage = .d ∧ s.pkg.held = false ∧ s.fe.reloading = false ∧
      ∀ q, i = .frontEndWatchdog q → ∃ u, s.queue? q = some u ∧ (u.st = .active ∨ u.st = .stalled) ∧ u.rdidx < u.tail)
    fun s t => t = { s with
      queues := s.queues.map fun u =>
        { u with packet := if u.st == .blocked && u.packet.isSome then some [] else none, feFault := none }
      fe := { s.fe with reloading := true } }) ∧
  Steps .logicBlockReload (fun s => s.fe.reloading = true)
    fun s t => ∃ s1, s1.fe = { s.fe with reloading := false, reloads := s.fe.reloads + 1, heldBells := [], hsig := s1.fe.hsig, notified := s1.fe.notified } ∧
      s1.fe.hsig = s.fe.hsig ||| 4 ∧ s1.pkg = { s.pkg with log := s.pkg.log ++ [.reload s.evSeq] } ∧ s1.evSeq = s.evSeq + 1 ∧
      { s1 with fe := s.fe, pkg := s.pkg, evSeq := s.evSeq } = s ∧
      t = s.fe.mbxq.foldl State.serveHeld (s.fe.heldBells.foldl (fun a e => a.ringOrHold e.1 e.2.1.toNat e.2.2) s1)

/-- R349, R350, R352, R353, R357: the fetcher reads the header at RDIDX: an unpublished packet stalls the queue, an unknown opcode is an
error, a sound packet waits to start; and each kind of packet as it starts. The exact state of the queue is given where it has no progress
word. -/
def Obligations.Packets : Prop :=
  let queueIs (t : State) (q : Nat) (u : Queue) (p : Queue → Prop) : Prop :=
    u.ctl.getLsbD 0 = false → ∃ v, t.queue? q = some v ∧ v.packet = none ∧ v.rdidx = u.rdidx + 1 ∧ p v
  let ends (u : Queue) (v : Queue) : Prop :=
    v.pending = u.pending.filter (· != u.rdidx) ∧ v.st = if u.st = .active ∧ u.rdidx + 1 = u.tail then .idle else u.st
  let word (s : State) (u : Queue) (b : List Byte) (k : Nat) : Prop :=
    ∃ c, s.ctx? u.ctx = some c ∧ k = tagKey c.mba + 16 * fieldOf b 0x08 4 ∧ s.isLost k 16 = false ∧ s.readLE (k + 8) 8 ≤ 1 ∧
      s.keyHeld k = false ∧ s.mbxAhead k = false ∧ ∀ r ∈ s.fe.mbxq, ¬(r.ctx = u.ctx ∧ r.word = fieldOf b 0x08 4)
  let cached (s : State) (q : Nat) (u : Queue) : Prop :=
    u.ctl.getLsbD 0 = false ∧ s.fe.qcache.contains q = true ∧ (qcacheSet s.fe.qcache q).length ≤ 8
  (∀ q, Steps (.packetFetch q)
    (fun s => ∃ u n, s.queue? q = some u ∧ u.st = .active ∧ u.packet = none ∧ u.rdidx < u.tail ∧ s.fetching u.ctx = true ∧ s.fe.reloading = false ∧
      s.slotHeld u = false ∧ s.qcbWaits q = false ∧ (s.touchQueue q).headerAt u = .ok n ∧ u.published n = false)
    fun s t => ∃ u, s.queue? q = some u ∧ (u.ctl.getLsbD 0 = false →
      t = { s.touchQueue q with queues := s.queues.map fun w => if w.id = q then { w with st := .stalled } else w })) ∧
  (∀ q, Steps (.packetFetch q)
    (fun s => ∃ u n, s.queue? q = some u ∧ u.st = .active ∧ u.packet = none ∧ u.rdidx < u.tail ∧ s.fetching u.ctx = true ∧ s.fe.reloading = false ∧
      s.slotHeld u = false ∧ s.qcbWaits q = false ∧ (s.touchQueue q).headerAt u = .ok n ∧ u.published n = true ∧ 4 < n / 2 ^ 32 % 256 ∧
      s.keyHeld (s.qcbKey q) = false)
    fun s t => ∃ u n, s.queue? q = some u ∧ (s.touchQueue q).headerAt u = .ok n ∧ t.fe.hsig.getLsbD 1 = true ∧
      t.queue? q = some { u with
        st := .error, errcode := 2, erridx := u.rdidx % 2 ^ 64, errhdr := BitVec.ofNat 64 n, packet := none, feFault := none }) ∧
  (∀ q, Steps (.packetFetch q)
    (fun s => ∃ u n b, s.queue? q = some u ∧ u.st = .active ∧ u.packet = none ∧ u.rdidx < u.tail ∧ s.fetching u.ctx = true ∧ s.fe.reloading = false ∧
      s.slotHeld u = false ∧ s.qcbWaits q = false ∧ (s.touchQueue q).headerAt u = .ok n ∧ u.published n = true ∧ n / 2 ^ 32 % 256 ≤ 4 ∧ n / 2 ^ 40 < 2 ∧
      (s.touchQueue q).feRead u.ctx (u.ring.toNat + 64 * (u.rdidx % 2 ^ u.szlog) + 8) 56 = .ok b ∧
      (s.touchQueue q).packetFault u (toBytes 8 n ++ b) = none)
    fun s t => ∃ u n b, s.queue? q = some u ∧ (s.touchQueue q).headerAt u = .ok n ∧
      (s.touchQueue q).feRead u.ctx (u.ring.toNat + 64 * (u.rdidx % 2 ^ u.szlog) + 8) 56 = .ok b ∧
      t = { s.touchQueue q with queues := s.queues.map fun w => if w.id = q then { w with packet := some (toBytes 8 n ++ b) } else w }) ∧
  (∀ q, Steps (.stallReread q)
    (fun s => ∃ u n, s.queue? q = some u ∧ u.st = .stalled ∧ s.fetching u.ctx = true ∧ s.fe.reloading = false ∧
      s.slotHeld u = false ∧ s.qcbWaits q = false ∧ (s.touchQueue q).slotHeld u = false ∧ (s.touchQueue q).headerAt u = .ok n)
    fun s t => ∃ u n, s.queue? q = some u ∧ (s.touchQueue q).headerAt u = .ok n ∧
      t = if u.published n then { s.touchQueue q with queues := s.queues.map fun w => if w.id = q then { w with st := .active } else w } else s.touchQueue q) ∧
  (∀ q, Steps (.launchPacket q)
    (fun s => ∃ u b s', s.startable q 1 = some (u, b) ∧ s.liveGrids < 4096 ∧ s.accept (u.launchReq b) (.packet q u.gen u.rdidx) = .ok s' ∧
      s'.queues = s.queues)
    fun s t => ∃ u b s', s.startable q 1 = some (u, b) ∧ s.accept (u.launchReq b) (.packet q u.gen u.rdidx) = .ok s' ∧
      (u.ctl.getLsbD 0 = false → t.grids = s'.grids) ∧ (cached s' q u → t.mem = s'.mem) ∧
      queueIs t q u fun v => v.pending = u.pending ++ [u.rdidx] ∧ v.st = if u.st = .active ∧ u.rdidx + 1 = u.tail then .idle else u.st) ∧
  (∀ q, Steps (.mbxPutPacket q)
    (fun s => ∃ u b k, s.startable q 2 = some (u, b) ∧ word s u b k ∧ s.mbxFull k = false ∧ u.st = .active)
    fun s t => ∃ u b k, s.startable q 2 = some (u, b) ∧ word s u b k ∧ queueIs t q u (ends u) ∧
      (cached s q u → ∀ j, t.byte j = fieldsAt s.byte k [(0, 8, fieldOf b 0x10 8), (8, 8, 1)] j)) ∧
  (∀ q, Steps (.mbxPutPacket q)
    (fun s => ∃ u b k, s.startable q 2 = some (u, b) ∧ word s u b k ∧ s.mbxFull k = true ∧ u.st = .active ∧ s.fe.mbxq.length < 4096)
    fun s t => ∃ u b k, s.startable q 2 = some (u, b) ∧ word s u b k ∧ queueIs t q u (fun v => v.st = .blocked) ∧
      (cached s q u → t.mem = s.mem) ∧ (u.ctl.getLsbD 0 = false → t.fe.mbxq = s.fe.mbxq ++ [⟨s.fe.nextReq, u.ctx, fieldOf b 0x08 4, some (BitVec.ofNat 64 (fieldOf b 0x10 8)), .queue q u.gen u.rdidx, 0⟩])) ∧
  (∀ q, Steps (.mbxGetPacket q)
    (fun s => ∃ u b k, s.startable q 3 = some (u, b) ∧ word s u b k ∧ s.mbxFull k = true ∧ u.st = .active ∧ fieldOf b 0x10 8 = 0 ∧
      ∀ e ∈ u.getting, e.1 ≠ u.rdidx)
    fun s t => ∃ u b k, s.startable q 3 = some (u, b) ∧ word s u b k ∧ queueIs t q u (ends u) ∧
      (cached s q u → ∀ j, t.byte j = fieldsAt s.byte k [(8, 8, 0)] j)) ∧
  (∀ q, Steps (.mbxGetPacket q)
    (fun s => ∃ u b k j, s.startable q 3 = some (u, b) ∧ word s u b k ∧ s.mbxFull k = true ∧ u.st = .active ∧ fieldOf b 0x10 8 ≠ 0 ∧
      (∀ e ∈ u.getting, e.1 ≠ u.rdidx) ∧ s.wordHeld u.ctx none (fieldOf b 0x10 8) = false ∧
      ((s.touchQueue q).store (k + 8) (toBytes 8 0)).wordTarget u.ctx none (fieldOf b 0x10 8) = .ok j)
    fun s t => ∃ u b k j, s.startable q 3 = some (u, b) ∧ word s u b k ∧
      ((s.touchQueue q).store (k + 8) (toBytes 8 0)).wordTarget u.ctx none (fieldOf b 0x10 8) = .ok j ∧ queueIs t q u (ends u) ∧
      (cached s q u → ∀ x, t.byte x = fieldsAt (fieldsAt s.byte k [(8, 8, 0)]) j [(0, 8, s.readLE k 8)] x)) ∧
  ∀ q, Steps (.signalPacket q)
    (fun s => ∃ u b j, s.startable q 4 = some (u, b) ∧ s.wordHeld u.ctx none (fieldOf b 0x08 8) = false ∧ (s.touchQueue q).wordTarget u.ctx none (fieldOf b 0x08 8) = .ok j)
    fun s t => ∃ u b j, s.startable q 4 = some (u, b) ∧ (s.touchQueue q).wordTarget u.ctx none (fieldOf b 0x08 8) = .ok j ∧ queueIs t q u (ends u) ∧
      (cached s q u → ∀ x, t.byte x = fieldsAt s.byte j [(0, 8, fieldOf b 0x10 8)] x)

/-! ### The host, other packages and ports -/

/-- R343, R380, R404-R407, R410, R411, R424: the host reads registers and memory, and writes memory under its byte mask, or a register,
which acts; a lost stack reads all ones, takes no write, and counts both; another package is served inside an export window. From
which stage the registers serve, and the values of lost data, are the model's choices (log entries 13 and 42). -/
def Obligations.HostAccess : Prop :=
  let answers (s t : State) (drawn v : Nat) : Prop := t = { s with free := s.free + drawn, fe := { s.fe with reads := v :: s.fe.reads } }
  let mapped (s : State) (a o : Nat) : Prop :=
    s.pkg.stage = .d ∧ s.pkg.held = false ∧ a = s.pkg.hmabase.toNat + o ∧ o < 2 ^ 41 ∧
      ¬(s.pkg.hrwbase.toNat ≤ a ∧ a < s.pkg.hrwbase.toNat + 2 ^ 25)
  let counted (s t : State) (n pa : Nat) : Prop :=
    ∃ k q ch, s.stack? n = some k ∧ t.stack? n = some q ∧ q.st = k.st ∧ q.cecnt = k.cecnt ∧
      q.uecnt = (if k.uecnt = 0xFFFFFFFF then k.uecnt else k.uecnt + 1) ∧ q.lseq = k.lseq + 1 ∧
      (k.log.length < 256 → q.log = k.log ++ [⟨k.lseq, 64 * (pa / 64), 2, ch, k.cecnt, q.uecnt, k.logovf⟩]) ∧ { t with mstacks := s.mstacks } = s
  let live (s : State) (k : Nat) : Prop := k / 2 ^ 64 ≠ 0 ∨ ∃ q d, s.stack? (stackOf k) = some q ∧ q.st = .owned d
  (∀ addr ord off n v, Steps (.hostRead addr n ord)
    (fun s => s.pkg.stage = .d ∧ s.pkg.hrwbase.toNat % 64 = 0 ∧ addr.toNat = s.pkg.hrwbase.toNat + off ∧
      ((n, off, v) ∈ [(8, 0x000, s.fe.ctxarg.toNat), (4, 0x008, (if s.fe.ctxBusy = none then 0 else 2 ^ 31) + 2 ^ 28 * s.fe.ctxStatus % 2 ^ 31),
          (8, 0x010, s.fe.qtbase.toNat), (4, 0x018, s.fe.qtlog.toNat), (8, 0x020, s.fe.mbtbase.toNat), (8, 0x028, s.fe.qarg.toNat),
          (4, 0x140, s.fe.hsig.toNat), (4, 0x148, s.fe.domid.toNat)] ∨
        (∃ p u, p < 16 ∧ n = 8 ∧ off = 0x0C0 + 8 * p ∧ s.port? p = some u ∧ v = u.stat.toNat) ∨
        ∃ i, i < 32 ∧ n = 8 ∧ off = 0x200 + 8 * i ∧ v = (Sparse.look s.fe.expt i).toNat) ∧ s.fe.ctxStatus < 8)
    fun s t => answers s t 0 v) ∧
  (∀ addr ord q (done : Bool), Steps (.hostRead addr 8 ord)
    (fun s => s.pkg.stage = .d ∧ s.pkg.hrwbase.toNat % 64 = 0 ∧ q < 2 ^ 20 ∧ (∃ u, s.queue? q = some u) ∧
      addr.toNat = s.pkg.hrwbase.toNat + 0x1000000 + 16 * q + if done then 8 else 0)
    fun s t => ∃ u, s.queue? q = some u ∧
      answers (s.touchQueue q) t 0 (if u.st = .absent then 0 else if done then u.doneidx else u.rdidx)) ∧
  (∀ addr ord n o, Steps (.hostRead addr n ord)
    (fun s => mapped s addr.toNat o ∧ 0 < n ∧ addr.toNat % 64 + n ≤ 64 ∧
      (o < 2 ^ 40 ∧ live s o ∨ 2 ^ 40 ≤ o ∧ o < 2 ^ 40 + 2 ^ 30 ∧ o % 2 ^ 28 < 0x0C000000) ∧
      ∀ i, i < n → s.isLost ((if o < 2 ^ 40 then o else 2 ^ 64 + (o - 2 ^ 40)) + i) 1 = false)
    fun s t => answers s t n (s.readLE (if o < 2 ^ 40 then o else 2 ^ 64 + (o - 2 ^ 40)) n)) ∧
  (∀ addr ord n o, Steps (.hostRead addr n ord)
    (fun s => mapped s addr.toNat o ∧ 0 < n ∧ addr.toNat % 64 + n ≤ 64 ∧ o < 2 ^ 40 ∧ ∃ q, s.stack? (stackOf o) = some q ∧ q.st = .failed)
    fun s t => t.fe = { s.fe with reads := (256 ^ n - 1) :: s.fe.reads } ∧ counted s { t with fe := s.fe } (stackOf o) o) ∧
  (∀ addr ord mask data o, Steps (.hostWrite addr mask data ord)
    (fun s => mapped s addr.toNat o ∧ addr.toNat % 64 = 0 ∧ mask < 2 ^ 64 ∧
      (o < 2 ^ 40 ∧ live s o ∨ 2 ^ 40 ≤ o ∧ o < 2 ^ 40 + 2 ^ 30 ∧ o % 2 ^ 28 < 0x0C000000))
    fun s t => let k := if o < 2 ^ 40 then o else 2 ^ 64 + (o - 2 ^ 40)
      Stores s t fun q => if k ≤ q ∧ mask.testBit (q - k) then BitVec.ofNat 8 (data / 256 ^ (q - k)) else s.byte q) ∧
  (∀ addr ord mask data o, Steps (.hostWrite addr mask data ord)
    (fun s => mapped s addr.toNat o ∧ addr.toNat % 64 = 0 ∧ mask < 2 ^ 64 ∧ o < 2 ^ 40 ∧ ∃ q, s.stack? (stackOf o) = some q ∧ q.st = .failed)
    fun s t => counted s t (stackOf o) o) ∧
  (∀ (s : State) addr ord data c op, s.pkg.stage = .d → s.pkg.hrwbase.toNat % 64 = 0 → addr.toNat = s.pkg.hrwbase.toNat → c < 4096 →
    data / 256 ^ 8 % 2 ^ 32 = op * 2 ^ 20 + c →
    (op = 1 → exec (.hostWrite addr 0xF00 data ord) s = exec (.load c) s) ∧ (op = 2 → exec (.hostWrite addr 0xF00 data ord) s = exec (.activate c) s) ∧
    (op = 3 → exec (.hostWrite addr 0xF00 data ord) s = exec (.switchOut c) s) ∧
    (op = 4 → exec (.hostWrite addr 0xF00 data ord) s = exec (.resumeFault c) s) ∧
    (op = 5 → exec (.hostWrite addr 0xF00 data ord) s = exec (.clear c) s) ∧ (op = 6 → exec (.hostWrite addr 0xF00 data ord) s = exec (.kill c) s) ∧
    (op = 7 → exec (.hostWrite addr 0xF00 data ord) s = exec (.free c) s) ∧
    (op = 0 ∨ 8 ≤ op ∧ op < 16 → exec (.hostWrite addr 0xF00 data ord) s = exec (.ctxcmdReservedOp op c) s)) ∧
  (∀ (s : State) addr ord data q, s.pkg.stage = .d → s.pkg.hrwbase.toNat % 64 = 0 → q < 2 ^ 20 →
    addr.toNat = s.pkg.hrwbase.toNat + 0x100000 + 8 * q - 8 * (q % 8) →
    exec (.hostWrite addr (0xFF * 2 ^ (8 * (q % 8))) data ord) s = exec (.doorbell q (BitVec.ofNat 64 (data / 256 ^ (8 * (q % 8))))) s) ∧
  (∀ acc : RemoteAccess, Steps (.remoteAccess acc)
    (fun s => s.pkg.stage = .d ∧ (∃ p ∈ s.ports, p.st = .up ∨ p.st = .degraded) ∧ 0 < (if acc.write then acc.data.length else acc.len) ∧
      acc.pa % 64 + (if acc.write then acc.data.length else acc.len) ≤ 64 ∧ paOk 3 acc.pa false = true ∧ acc.pa < 2 ^ 52 ∧
      acc.pa / 2 ^ 46 % 64 = s.fe.domid.toNat % 64 ∧ (s.fe.exports acc.pa (if acc.write then acc.data.length else acc.len) acc.write = true →
        live s (exportKey acc.pa) ∧ (acc.write = false → ∀ i, i < acc.len → s.isLost (exportKey acc.pa + i) 1 = false)))
    fun s t =>
      (s.fe.exports acc.pa (if acc.write then acc.data.length else acc.len) acc.write = false → t = s) ∧
      (s.fe.exports acc.pa (if acc.write then acc.data.length else acc.len) acc.write = true →
        (acc.write = true → Stores s t (putAt s.byte ((List.range acc.data.length).map fun j => exportKey acc.pa + j) acc.data)) ∧
        (acc.write = false → answers s t acc.len (s.readLE (exportKey acc.pa) acc.len)))) ∧
  ∀ n, Steps (.stkstatRead n) (fun s => (s.pkg.stage = .b ∨ s.pkg.stage = .c ∨ s.pkg.stage = .d) ∧ ∃ k, s.stack? n = some k)
    fun s t => ∃ k v, s.stack? n = some k ∧ answers s t 0 v ∧ v / 2 ^ 32 = k.hseq.toNat ∧
      (k.st = .training → v % 32 = 0) ∧ (∀ d, k.st = .owned d → d < 4 → v % 2 ^ 32 = 1 + 32 * d) ∧
      (∀ a b i, k.st = .handing a b i → a < 4 → b < 4 → i < 8 → v % 2 ^ 32 = 2 + 32 * a + 128 * b + 512 * i) ∧ (k.st = .failed → v % 32 = 3)

/-- R403, R405, R409, R410: the Horhorn ports and the host attachment. Each change of a port's state signals the host. How
attempts and replays count, and which peer a trained port finds, are the model's choices (log entries 11, 43 and 117). -/
def Obligations.Ports : Prop :=
  let port (s : State) (p : Nat) (ok : Port → Prop) : Prop := s.pkg.held = false ∧ ∃ u, s.port? p = some u ∧ ok u
  (∀ p, Steps (.flitReplay p) (fun s => port s p fun u => (u.st = .training ∨ u.st = .up ∨ u.st = .degraded) ∧ u.replays < 16)
    fun s t => t = { s with
      ports := s.ports.map fun u => if u.n = p then
        { u with retry := if u.retry = 0xFFFF then u.retry else u.retry + 1, replays := u.replays + 1 } else u }) ∧
  (∀ p, Steps (.replayLimit p) (fun s => port s p fun u => 16 ≤ u.replays ∧ (u.st = .up ∨ u.st = .degraded))
    fun s t => PortTurns s t p fun u => { u with st := .training, lanes := 0, attempts := 0, replays := 0 }) ∧
  (∀ p, Steps (.portEnable p) (fun s => s.pkg.stage = .d ∧ port s p fun u => u.st = .down)
    fun s t => PortTurns s t p fun u => { u with st := .training, attempts := 0, replays := 0 }) ∧
  (∀ p n, Steps (.portTrainingResult p n) (fun s => n < 4 ∧ port s p fun u => u.st = .training)
    fun s t => PortTurns s t p fun u => { u with st := .failed, lanes := 0, attempts := 0 }) ∧
  (∀ p, Steps (.portTrainingResult p 9) (fun s => port s p fun u => u.st = .training ∧ 2 ≤ u.attempts)
    fun s t => PortTurns s t p fun u => { u with st := .failed, lanes := 0, attempts := 0 }) ∧
  (∀ p, Steps (.portTrainingResult p 9) (fun s => port s p fun u => u.st = .training ∧ u.attempts < 2)
    fun s t => t = { s with ports := s.ports.map fun u => if u.n = p then { u with attempts := u.attempts + 1 } else u }) ∧
  (∀ p n, Steps (.portTrainingResult p n) (fun s => 4 ≤ n ∧ n ≤ 8 ∧ port s p fun u => u.st = .training)
    fun s t => ∃ pkg no, PortTurns s t p fun u =>
      { u with st := if n = 8 then .up else .degraded, lanes := if n = 8 then 8 else 4, attempts := 0, replays := 0, peerPkg := pkg, peerPort := no }) ∧
  (∀ p, Steps (.laneFailure p) (fun s => port s p fun u => u.st = .up)
    fun s t => PortTurns s t p fun u => { u with st := .degraded, lanes := 4 }) ∧
  (∀ p, Steps (.portDisable p) (fun s => port s p fun u => u.st ≠ .down)
    fun s t => PortTurns s t p fun u => { u with st := .down, lanes := 0, attempts := 0, replays := 0, peerPkg := 0, peerPort := 0 }) ∧
  (∀ p, Steps (.portDisable p) (fun s => port s p fun u => u.st = .down) fun s t => t = s) ∧
  (∀ a b, Steps (.apertureBaseWrite a b) (fun s => s.pkg.stage = .a ∧ s.pkg.held = false ∧ a.toNat % 2 ^ 25 = 0 ∧ b.toNat % 2 ^ 41 = 0)
    fun s t => PackageTurns s t { s.pkg with hrwbase := a, hmabase := b }) ∧
  (∀ m, Steps (.moduleLevelRetry m) (fun s => ∃ u ∈ s.pkg.modules, u.n = m ∧ u.up = true)
    fun s t => PackageTurns s t { s.pkg with modules := s.pkg.modules.map fun u => if u.n = m then { u with retries := u.retries + 1 } else u }) ∧
  ∀ m l, Steps (.laneRepair m l) (fun s => l < 64 ∧ ∃ u ∈ s.pkg.modules, u.n = m)
    fun s t => PackageTurns s t { s.pkg with modules := s.pkg.modules.map fun u =>
      if u.n = m then { u with repaired := if l ∈ u.repaired then u.repaired else u.repaired ++ [l] } else u }

/-- R414: an instance reduces, element by element over the fixed tree of the packages that contribute, and the result is written at the
destination; participants that differ fault BARRIER-COUNT, and a member that contributes nothing is a loss of class CONTEXT. When an
instance is complete is the model's choice (log entry 83). -/
def Obligations.Collectives : Prop :=
  let at_ (s : State) (cg : Nat) (x : Thread) (tm : Team) (op : BitVec 2) (ty : CollTy) : Prop :=
    ∃ j, s.fe.joins.find? (fun j => j.cg == cg) = some j ∧ s.moving j.tid ThreadKind.described .running = some (x, tm) ∧ x.kind = .coll op ty ∧
      x.args = []
  let members (s : State) (cg : Nat) : DWord := Sparse.look s.fe.cge (2 * cg)
  let all (s : State) (cg : Nat) (rs : List CollPart) : Prop :=
    ∀ k, k < 64 → (members s cg).getLsbD k = true → k ≠ s.fe.domid.toNat % 64 → ∃ p ∈ rs, p.pkg = k
  let same (s : State) (cg : Nat) (x : Thread) (op : BitVec 2) (ty : CollTy) (rs : List CollPart) : Prop :=
    ∀ p ∈ rs, p.members = members s cg ∧ p.op = op ∧ p.ty = ty ∧ p.vals.length = x.total
  (∀ cg rs, Steps (.collectiveInstance cg rs)
    (fun s => ∃ x tm op ty own, at_ s cg x tm op ty ∧ all s cg rs ∧ same s cg x op ty rs ∧ s.collSrc x tm ty x.total = .ok own ∧
      s.collHeld x ty = false ∧ x.orphan = false ∧ x.idx = 0 ∧ tm.st = .resident ∧ s.lost = [] ∧ descCtl x.desc 2 2 = 0 ∧
      fieldOf x.desc 0x08 8 + x.total * collBytes ty ≤ tm.tmem)
    fun s t => ∃ x tm op ty own, at_ s cg x tm op ty ∧ s.collSrc x tm ty x.total = .ok own ∧
      let parts := (s.fe.domid.toNat % 64, own) :: (rs.filter fun p => (members s cg).getLsbD p.pkg).map fun p => (p.pkg, p.vals)
      let vals := (List.range x.total).map fun e => collOut ty (treeReduce64 (collCombine op.toNat ty) fun k =>
        (parts.find? fun p => p.1 == k).map fun p => collIn ty (p.2.getD e 0))
      (∀ q, t.byte q = putAt s.byte ((List.range (x.total * collBytes ty)).map fun j => teamKey x.team (fieldOf x.desc 0x08 8) + j)
        (vals.flatMap fun v => toBytes (collBytes ty) v.toNat) q) ∧
      t.fe.joins = s.fe.joins.filter (fun j => j.tid != x.id) ∧
      t.threads = s.threads.map fun u => if u.id = x.id then { u with args := vals, idx := x.total } else u) ∧
  (∀ cg rs, Steps (.collectiveInstance cg rs)
    (fun s => ∃ x tm op ty, at_ s cg x tm op ty ∧ s.collHeld x ty = false ∧ all s cg rs ∧ ¬same s cg x op ty rs)
    fun s t => ∃ x tm op ty, at_ s cg x tm op ty ∧
      t = { s with fe := { s.fe with joins := s.fe.joins.filter fun j => j.tid != x.id } }.raiseThread x
        { kind := .barrierCount, addr := BitVec.ofNat 64 x.off }) ∧
  ∀ cg rs, Steps (.collectiveInstance cg rs)
    (fun s => ∃ x tm op ty, at_ s cg x tm op ty ∧ s.collHeld x ty = false ∧ ¬all s cg rs)
    fun s t => ∃ x tm op ty, at_ s cg x tm op ty ∧
      t = { s with fe := { s.fe with joins := s.fe.joins.filter fun j => j.tid != x.id } }.raiseThread x
        { kind := .uncorrectable, addr := BitVec.ofNat 64 x.off, cls := 1 }

/-! ### Stacks -/

/-- R20, R379, R386-R388: training, loss, scrub, refresh and the error log of a base-die controller; as training ends and as a stack is lost,
what waited for it is served, and a lost stack leaves its owner's cache. That what a scrub finds is an input, the
fields of the entry of a failed training, and that a refresh clears the wake bit are the model's choices (log entries 25, 33 and 118), and so is what the controller's firmware fixes (log entry 103). -/
def Obligations.BaseDies : Prop :=
  let is (s : State) (n : Nat) (p : Stack → Prop) : Prop := ∃ k, s.stack? n = some k ∧ p k
  let runs (k : Stack) : Prop := (∃ d, k.st = .owned d) ∨ ∃ a b i, k.st = .handing a b i
  let logs (k : Stack) (kind pa ch : Nat) (ce ue : Word) (q : Stack) : Prop :=
    q.cecnt = ce ∧ q.uecnt = ue ∧ q.lseq = k.lseq + 1 ∧
      if k.log.length < 256 then q.log = k.log ++ [⟨k.lseq, pa, kind, ch, ce, ue, k.logovf⟩] ∧ q.logovf = k.logovf
      else q.log = k.log ∧ q.logovf = if k.logovf = 0xFFFFFFFF then k.logovf else k.logovf + 1
  let sat (x : Word) : Word := if x = 0xFFFFFFFF then x else x + 1
  let at_ (k : Stack) : Nat := k.n * 2 ^ 36 + 64 * k.scrubAt
  (∀ n, Steps (.stackTrainingComplete n true) (fun s => is s n fun k => k.st = .training ∧ k.fwOk = true)
    fun s t => ServesPorts t fun u => StackTurns s u n fun k => { k with st := .owned (k.n / 4 % 4), copyA := .owned, copyB := .notOwned, portTo := some (k.n / 4 % 4) }) ∧
  (∀ n, Steps (.stackTrainingComplete n false) (fun s => is s n fun k => k.st = .training ∧ k.fwOk = true)
    fun s t => ServesPorts t fun u => ∃ k q pa ch, s.stack? n = some k ∧ u.stack? n = some q ∧ q.st = .failed ∧ logs k 5 pa ch k.cecnt k.uecnt q ∧
      { u with mstacks := s.mstacks, free := s.free } = s) ∧
  (∀ n, Steps (.stackLost n) (fun s => is s n runs)
    fun s t => ServesPorts t fun u =>
      u.mstacks = s.mstacks.map (fun k => if k.n = n then { k with st := .failed, copyA := .notOwned, copyB := .notOwned } else k) ∧
      u.cache = s.cache.filter (fun c => stackOf (64 * c.line) != n) ∧
      (∀ k, (∀ c ∈ s.cache, stackOf (64 * c.line) = n → k / 64 ≠ c.line) → u.byte k = s.byte k) ∧
      { u with mstacks := s.mstacks, cache := s.cache, mem := s.mem, lost := s.lost } = s) ∧
  (∀ n, Steps (.patrolScrub n .clean) (fun s => is s n runs)
    fun s t => StackTurns s t n fun k => { k with scrubAt := (k.scrubAt + 1) % 2 ^ 30 }) ∧
  (∀ n, Steps (.patrolScrub n .corrected) (fun s => is s n runs)
    fun s t => ∃ k q ch, s.stack? n = some k ∧ t.stack? n = some q ∧ q.st = k.st ∧ q.scrubAt = (k.scrubAt + 1) % 2 ^ 30 ∧
      { t with mstacks := s.mstacks } = s ∧
      let row := Config.rowOf (at_ k)
      let seen := ((k.rowCe.find? fun e => e.1 == row).map (·.2)).getD 0
      (seen + 1 < Config.rowThreshold → logs k 1 (at_ k) ch (sat k.cecnt) k.uecnt q ∧ q.repairs = k.repairs ∧
        q.rowCe.find? (fun e => e.1 == row) = some (row, seen + 1)) ∧
      (Config.rowThreshold ≤ seen + 1 → q.cecnt = sat k.cecnt ∧ q.uecnt = k.uecnt ∧ q.repairs = k.repairs ++ [at_ k] ∧ q.lseq = k.lseq + 2 ∧
        q.rowCe.find? (fun e => e.1 == row) = none)) ∧
  (∀ n, Steps (.patrolScrub n .uncorrectable) (fun s => is s n fun k => runs k ∧ ∀ c ∈ s.cache, c.line ≠ at_ k / 64)
    fun s t => ∃ k q ch, s.stack? n = some k ∧ t.stack? n = some q ∧ logs k 3 (at_ k) ch k.cecnt (sat k.uecnt) q ∧ q.st = k.st ∧
      q.scrubAt = (k.scrubAt + 1) % 2 ^ 30 ∧
      (∀ g, g ∈ t.lost ↔ g ∈ s.lost ∨ g = at_ k / 64) ∧ { t with mstacks := s.mstacks, lost := s.lost } = s) ∧
  (∀ n temp, Steps (.refresh n temp) (fun s => is s n runs)
    fun s t => StackTurns s t n fun k =>
      { k with
        refreshes := k.refreshes + (if Config.refreshTemp < temp then 2 else 1), hotRefresh := decide (Config.refreshTemp < temp)
        temp := temp, wake := none }) ∧
  ∀ n, Steps (.logDrain n) (fun s => is s n fun k => k.log ≠ [])
    fun s t => ∃ k e r, s.stack? n = some k ∧ k.log = e :: r ∧ t.mstacks = s.mstacks.map (fun q => if q.n = n then { q with log := r } else q) ∧
      t.pkg = { s.pkg with log := s.pkg.log ++ [.bdc s.evSeq n e] } ∧ t.evSeq = s.evSeq + 1 ∧ t.fe.hsig = s.fe.hsig ||| 4 ∧
      { t with mstacks := s.mstacks, pkg := s.pkg, evSeq := s.evSeq, fe := { t.fe with hsig := s.fe.hsig, notified := s.fe.notified } } = s

/-- R382: the seven steps of a hand-over, one after the other. The issuing die's threads that precede the fence end first; its
cache has written back the stack's lines, and its translations of the stack's frames are discarded; the accesses that used them complete; the
receiving die's copy becomes OWNED, and what waited for the stack is served; and the hand-over counts in HSEQ as its counter
falls. What the threads that precede the fence are, what the stack cache holds, and what STKSTAT shows before the last step are the model's
choices (log entries 24, 26, 70 and 106). -/
def Obligations.HandOver : Prop :=
  let at_ (s : State) (tid step : Nat) (x : Thread) (n d : Nat) : Prop := s.thread? tid = some x ∧ x.kind = .hand n d ∧ x.idx = step
  let drains (s t : State) (x : Thread) (n d step : Nat) (f : Stack → Stack) : Prop :=
    t.threads = s.threads.map (fun u => if u.id = x.id then { u with idx := step } else u) ∧
      t.mstacks = s.mstacks.map fun k =>
        if k.n = n ∧ k.st = .handing x.die d x.idx then { f k with st := .handing x.die d step } else k
  (∀ tid, Steps (.handoverDrain tid)
    (fun s => ∃ x n d, at_ s tid 1 x n d)
    fun s t => ∃ x n d, at_ s tid 1 x n d ∧ drains s t x n d 2 id ∧ { t with threads := s.threads, mstacks := s.mstacks } = s) ∧
  (∀ tid, Steps (.handoverDrain tid)
    (fun s => ∃ x n d, at_ s tid 2 x n d ∧
      ∀ u ∈ s.threads, u.die = x.die → u.kind.described = true → u.st = .ended ∨ n ∈ u.fenced ∨
        u.desc ≠ [] ∧ (∀ i, u.idx ≤ i → i < u.total → s.elementOn u n i = false) ∧
          (descCwe u.desc = true → descCws u.desc = 1 ∨ s.liesOn u n 2 (descCwa u.desc) 8 = false))
    fun s t => ∃ x n d, at_ s tid 2 x n d ∧ drains s t x n d 3 id ∧ { t with threads := s.threads, mstacks := s.mstacks } = s) ∧
  (∀ tid, Steps (.stackCacheFlush tid) (fun s => ∃ x n d, at_ s tid 3 x n d)
    fun s t => ∃ x n d, at_ s tid 3 x n d ∧
      t.threads = s.threads.map (fun u => if u.id = x.id then { u with idx := 4, waits := s.privOn x.die } else u) ∧
      t.mstacks = s.mstacks.map (fun k => if k.n = n ∧ k.st = .handing x.die d 3 then { k with st := .handing x.die d 4 } else k) ∧
      (∀ c, c ∈ t.cache ↔ c ∈ s.cache ∧ stackOf (64 * c.line) ≠ n) ∧
      (∀ e, e ∈ t.tlb ↔ e ∈ s.tlb ∧ ¬(e.unit.die = x.die ∧
        ((∃ r g, e.unit = .leaf r g) ∧ pteTgt e.pte = 0 ∧ stackOf (ptePa e.pte) = n ∨ (∃ r g, e.unit = .walk r g) ∧ e.table = some n))) ∧
      { t with threads := s.threads, mstacks := s.mstacks, cache := s.cache, tlb := s.tlb } = s) ∧
  (∀ tid, Steps (.handoverTranslationDiscard tid)
    (fun s => ∃ x n d, at_ s tid 4 x n d ∧
      ∀ w ∈ x.waits, ∀ g, s.group? w.1 = some g → ∀ e ∈ g.arch.tracked, e.seq = w.2 → e.done = true)
    fun s t => ∃ x n d, at_ s tid 4 x n d ∧ drains s t x n d 5 id ∧ { t with threads := s.threads, mstacks := s.mstacks } = s) ∧
  (∀ tid, Steps (.portSwitch tid) (fun s => ∃ x n d, at_ s tid 5 x n d)
    fun s t => ∃ x n d, at_ s tid 5 x n d ∧ drains s t x n d 6 (fun k => { k with portTo := some d }) ∧ { t with threads := s.threads, mstacks := s.mstacks } = s) ∧
  (∀ tid, Steps (.ownershipUpdate tid)
    (fun s => ∃ x n d k, at_ s tid 6 x n d ∧ s.stack? n = some k ∧ k.st = .handing x.die d 6 ∧ x.die ≠ d ∧
      (x.die = n / 4 % 4 ∧ d = (n / 4 + 1) % 4 ∨ d = n / 4 % 4 ∧ x.die = (n / 4 + 1) % 4))
    fun s t => ∃ x n d, at_ s tid 6 x n d ∧ ServesPorts t fun u => u.copyOf d n = .owned ∧ u.copyOf x.die n = .notOwned ∧
      u.threads = s.threads.map (fun u => if u.id = tid then { u with idx := 7 } else u) ∧
      { u with threads := s.threads, mstacks := s.mstacks } = s) ∧
  ∀ tid, Steps (.handoverComplete tid)
    (fun s => ∃ x n d k, at_ s tid 7 x n d ∧ s.stack? n = some k)
    fun s t => ∃ x n d k q, at_ s tid 7 x n d ∧ s.stack? n = some k ∧ t.stack? n = some q ∧ 
      q = { k with hseq := k.hseq + 1, st := if k.st = .handing x.die d 7 then .owned d else k.st } ∧
      (∀ u ∈ t.threads, u.id ≠ x.id) ∧ { t with threads := s.threads, mstacks := s.mstacks, groups := s.groups } = s ∧
      (x.orphan = false → ∀ m, x.seq = some m → t.groups = s.groups.map fun g =>
        if g.id = x.grp then { g with arch := g.arch.complete m, conts := g.conts.map fun c => { c with arch := c.arch.complete m } } else g)

/-! ### Start, reset and management -/

/-- R417-R421, R115, R405: the stages of a start, and the causes that halt one; a part that has halted takes no stage. Where a record's
fields begin, and when a staged image is verified, are the model's choices (log entries 53 and 90), and so is the cause where several hold
(log entry 52). -/
def Obligations.StartStages : Prop :=
  let due (s : State) (st : Stage) : Prop := s.pkg.stage = st ∧ s.pkg.stageDue = true ∧ s.pkg.held = false ∧ s.pkg.pendingReset = none
  let halts (s t : State) (p : Package) (c : Nat) : Prop :=
    PackageTurns s t { p with stage := .halted, stageDue := false, cause := BitVec.ofNat 8 c }
  Steps .stageA (fun s => due s .a)
    (fun s t =>
      let p := s.pkg.takeStaged
      let v := minverOf p.flash
      let image (kind : Nat) : Option Image := imageOf p.flash v kind
      let masks := (List.range 4).map (dieMask p.flash v)
      let puf := Config.pufSeed s.pkg.helper
      let known (c : Image) : Bool := c.fields == identityPublic (identityKey puf) (identitySeed puf)
      let starts : Prop := ∃ r c, image 5 = some r ∧ image 7 = some c ∧ fieldOf r.fields 0 r.fields.length < 64 ∧
        known c = true ∧ ∃ m ∈ masks, m.isSome = true
      (image 1 = none → halts s t p 1) ∧
        (image 1 ≠ none → image 5 = none ∨ image 6 = none → halts s t p 2) ∧
        (image 1 ≠ none → image 6 ≠ none → ∀ r, image 5 = some r →
          (64 ≤ fieldOf r.fields 0 r.fields.length → halts s t p 2) ∧
          (fieldOf r.fields 0 r.fields.length < 64 → (∀ m ∈ masks, m = none) → halts s t p 5) ∧
          (fieldOf r.fields 0 r.fields.length < 64 → (∃ m ∈ masks, m.isSome = true) →
            (image 7 = none ∨ ∃ c, image 7 = some c ∧ known c = false) → halts s t p 3)) ∧
        (image 1 ≠ none → image 6 ≠ none → starts → ∃ r, image 5 = some r ∧
          t = { s with
            pkg := { p with
              stage := .b, stageDue := true, minver := v, enmask := masks.map fun m => m.getD 0
              dieok := BitVec.ofNat 4 (ofBits (masks.map Option.isSome)), idKey := some (identityKey puf)
              lmsSeed := some (identitySeed puf) }
            fe := { s.fe with domid := BitVec.ofNat 32 (fieldOf r.fields 0 r.fields.length) } })) ∧
  Steps .stageB (fun s => due s .b)
    (fun s t => t = { s with
      pkg := { s.pkg with stageDue := false }
      mstacks := s.mstacks.map fun k =>
        if imageOf s.pkg.flash s.pkg.minver 2 = none then { k with fwOk := false, st := .failed } else { k with fwOk := true } }) ∧
  Steps .stageB (fun s => s.pkg.stage = .b ∧ s.pkg.stageDue = false ∧ s.pkg.held = false ∧ s.pkg.pendingReset = none ∧ ∀ k ∈ s.mstacks, k.st ≠ .training)
    (fun s t => PackageTurns s t { s.pkg with stage := .c, stageDue := true }) ∧
  Steps .stageC (fun s => due s .c ∧ imageOf s.pkg.flash s.pkg.minver 3 = none) (fun s t => halts s t s.pkg 4) ∧
  Steps .stageC (fun s => due s .c ∧ imageOf s.pkg.flash s.pkg.minver 3 ≠ none)
    (fun s t => PackageTurns s t { s.pkg with
      stageDue := false, signature := moduleSignature s.pkg.enmask
      modules := s.pkg.modules.map fun m => { m with up := true, full := true } }) ∧
  Steps .stageD (fun s => s.pkg.stage = .c ∧ s.pkg.stageDue = false ∧ s.pkg.held = false ∧ s.pkg.pendingReset = none ∧ (s.ports.map (·.n)).Nodup)
    (fun s t =>
      (∀ q, t.byte q = if 2 ^ 64 ≤ q ∧ q < 2 ^ 64 + 2 ^ 24 then 0 else s.byte q) ∧
        t.ports = s.ports.map (fun u => if u.st = .down then { u with st := .training } else u) ∧
        t.fe.hsig = (if s.ports.any fun u => u.st == .down then s.fe.hsig ||| 8 else s.fe.hsig) ∧
        t.pkg = { s.pkg with stage := .d } ∧
        { t with mem := s.mem, lost := s.lost, ports := s.ports, pkg := s.pkg
                 fe := { t.fe with hsig := s.fe.hsig, notified := s.fe.notified } } = s) ∧
  ∀ s : State, s.pkg.stage = .halted → ∀ i ∈ [Instr.stageA, .stageB, .stageC, .stageD], exec i s = .fault .halted

/-- R389, R417, R418, R426: after power good and a cold reset everything is as right after reset but flash, the management log, the leaf
index and the repair maps; a warm reset keeps the error counters and logs of the stacks too, and with preserve their data, as DRAM holds
it: every stack-cache line is lost. A partition reset starts its dies anew, retrains its stacks, its contexts are DEAD, and it abandons a
start. What each reset keeps where the spec is silent, and that power good is such a reset, are the model's choices (log entries 19, 22 and
50). -/
def Obligations.Resets : Prop :=
  let kept (keep : Bool) (k : Nat) : Prop := k / 2 ^ 64 = 2 ∨ k / 2 ^ 64 = 3 ∨ keep = true ∧ k / 2 ^ 64 = 0
  let again (s t : State) (warm keep : Bool) : Prop :=
    (∀ k, (¬kept keep k → t.byte k = 0) ∧ (kept keep k → (∀ c ∈ s.cache, c.dram.length = 64) →
        ((∀ c ∈ s.cache, c.line ≠ k / 64) → t.byte k = s.byte k) ∧
          ((s.cache.map (·.line)).Nodup → ∀ c ∈ s.cache, c.line = k / 64 → t.byte k = c.dram.getD (k % 64) 0))) ∧
      (∀ g, g ∈ t.lost ↔ kept keep (64 * g) ∧
        ((∃ c ∈ s.cache, c.line = g ∧ c.poison = true) ∨ g ∈ s.lost ∧ ∀ c ∈ s.cache, c.line ≠ g)) ∧ t.cache = [] ∧ t.losses = s.losses ∧
      t.mstacks = s.mstacks.map (fun k =>
        let r := { Stack.reset k.n with repairs := k.repairs }
        if warm then { r with cecnt := k.cecnt, uecnt := k.uecnt, logovf := k.logovf, lseq := k.lseq, log := k.log } else r) ∧
      t.pkg = { Package.reset with
        warm := warm, pres := keep, flash := s.pkg.flash, staged := s.pkg.staged, helper := s.pkg.helper, lmsLeaf := s.pkg.lmsLeaf, log := s.pkg.log
        replies := s.pkg.replies, temps := s.pkg.temps } ∧
      t.fe = { FrontEnd.reset with notified := s.fe.notified, reads := s.fe.reads } ∧ t.evSeq = s.evSeq ∧
      { t with mem := [], lost := [], mstacks := State.reset.mstacks, pkg := .reset, fe := .reset, evSeq := 0, agenda := [], free := 0
               losses := 0 } =
        State.reset
  Steps .powerGood (fun _ => True) (fun s t => again s t false false) ∧
  Steps .coldReset (fun s => ∃ p d, s.pkg.pendingReset = some (.cold, p, d)) (fun s t => again s t false false) ∧
  (∀ p, Steps (.warmReset p) (fun s => ∃ d, s.pkg.pendingReset = some (.warm, p, d)) fun s t => again s t true p) ∧
  ∀ dies : BitVec 4, Steps (.partitionReset dies) (fun s => ∃ p, s.pkg.pendingReset = some (.partition, p, dies))
    fun s t =>
      (∀ c ∈ t.cores, dies.getLsbD c.die = false) ∧ (∀ x ∈ t.threads, dies.getLsbD x.die = false) ∧
        (∀ e ∈ t.tlb, dies.getLsbD e.unit.die = false) ∧ (∀ d ∈ t.dies, dies.getLsbD d.n = true → d = ⟨d.n, [], [], [], []⟩) ∧
        (∀ k, k / 2 ^ 64 = 1 → dies.getLsbD (k % 2 ^ 64 / 2 ^ 28) = true → t.byte k = 0) ∧ t.pkg.pendingReset = none ∧
        t.pkg.stage = (if s.pkg.stage = .d ∨ s.pkg.stage = .halted then s.pkg.stage else .a) ∧
        t.pkg.modules = (if s.pkg.stage = .d ∨ s.pkg.stage = .halted then s.pkg.modules
          else s.pkg.modules.map fun m => { m with up := m.n == 0, full := false }) ∧
        (∀ c ∈ s.ctxsIn dies, ∃ x, t.ctx? c = some x ∧ (x.st = .dead ∨ x.st = .free)) ∧
        (s.ctxsIn dies = [] → t.mstacks = s.mstacks.map fun k =>
          if k.ownedBy dies then { k with st := .training, copyA := .notOwned, copyB := .notOwned, hseq := 0, portTo := none, wake := none } else k)

/-- R33, R35, R420-R424: the operations of the management mailbox and the sensor sweep. A reply of more than 56 bytes is several messages
of one SEQ. The layout of a reply's payload, the number of EXHAUSTED, the envelope's bound and how
heat holds the device are the model's choices (log entries 45, 47, 51 and 81). -/
def Obligations.Management : Prop :=
  let replies (s t : State) (p : Package) (seq : Word) (op : Nat) (status : BitVec 16) (pay : List Byte) : Prop :=
    ∃ ms : List MgmtReply, PackageTurns s t { p with replies := s.pkg.replies ++ ms } ∧ ms ≠ [] ∧ ms.flatMap (·.payload) = pay ∧
      (∀ m ∈ ms, m.seq = seq ∧ m.op = BitVec.ofNat 16 op ∧ m.status = status ∧ m.payload.length ≤ 56) ∧
      ∀ m ∈ ms.dropLast, m.payload.length = 56
  let any : State → Prop := fun _ => True
  let stays (k : ResetKind) (p : Bool) (s t : State) : Prop :=
    (p = false ∨ k = .cold → t.cache = s.cache) ∧ (p = true → k = .warm → t.cache = [])
  (∀ seq, Steps (.mgmtStatus seq) any
    fun s t => replies s t s.pkg seq 1 0
      (toBytes 4 s.pkg.mgmtstat.toNat ++ s.pkg.duty.flatMap (toBytes 1) ++ s.pkg.temps.flatMap (toBytes 2))) ∧
  (∀ seq, Steps (.logRead seq) any fun s t => replies s t { s.pkg with log := [] } seq 2 0 (s.pkg.log.flatMap MgmtEntry.bytes)) ∧
  (∀ seq nonce, Steps (.attest seq nonce) (fun s => ∃ k, s.pkg.idKey = some k ∧ s.pkg.lmsLeaf < 2 ^ 20)
    fun s t => ∃ k, s.pkg.idKey = some k ∧
      let r := toBytes 32 nonce ++
        ((s.pkg.flash.filter fun e => e.2.accepted s.pkg.minver).flatMap fun e => toBytes 4 e.2.version ++ toBytes 48 e.2.digest) ++
        toBytes 4 s.pkg.signature.toNat ++ toBytes 4 s.pkg.mgmtstat.toNat
      let seed := s.pkg.lmsSeed.getD 0
      let sig := ecdsaSign k.toNat (Config.signNumber s.free) r
      replies { s with free := t.free } t { s.pkg with lmsLeaf := s.pkg.lmsLeaf + 1 } seq 3 0 (r ++ toBytesBE 48 sig.1 ++ toBytesBE 48 sig.2 ++
        lmsSign (lmsIdOf seed) (toBytesBE 32 seed.toNat) s.pkg.lmsLeaf (toBytesBE 32 (Config.lmsRandom s.free).toNat) r)) ∧
  (∀ seq nonce, Steps (.attest seq nonce) (fun s => ∃ k, s.pkg.idKey = some k ∧ 2 ^ 20 ≤ s.pkg.lmsLeaf)
    fun s t => replies s t s.pkg seq 3 Config.exhausted []) ∧
  (∀ seq k p d, Steps (.mgmtReset seq k p d) (fun s => s.pkg.held = false ∧ s.pkg.pendingReset = none)
    fun s t => replies { s with cache := t.cache } t { s.pkg with pendingReset := some (k, p, d) } seq 4 0 [] ∧ stays k p s t) ∧
  (∀ seq k p d, Steps (.mgmtReset seq k p d) (fun s => s.pkg.held = true ∧ s.pkg.heldReset = none)
    fun s t => replies { s with cache := t.cache } t { s.pkg with heldReset := some (k, p, d) } seq 4 0 [] ∧ stays k p s t) ∧
  (∀ seq slot off chunk, Steps (.flashWrite seq slot off chunk) (fun _ => chunk.length ≤ 56)
    fun s t => ∃ new, replies { s with free := t.free } t
        { s.pkg with staged := s.pkg.staged.filter (fun e => e.1 != slot) ++ [(slot, new)] } seq 5 0 [] ∧
      let old := ((s.pkg.staged.find? fun e => e.1 == slot).map fun e => e.2).getD []
      new.length = max old.length (off + chunk.length) ∧
        ∀ i, (off ≤ i → i < off + chunk.length → new.getD i 0 = chunk.getD (i - off) 0) ∧
          (i < old.length → i < off ∨ off + chunk.length ≤ i → new.getD i 0 = old.getD i 0)) ∧
  (∀ seq (op : BitVec 16), Steps (.mgmtUnknownOp seq op) (fun _ => op = 0 ∨ 6 ≤ op.toNat)
    fun s t => replies s t s.pkg seq op.toNat 0xFFFF []) ∧
  (∀ t0 t1 t2 t3, Steps (.sensorSweep t0 t1 t2 t3)
    (fun s => s.pkg.held = false ∧ s.pkg.duty.length = 4 ∧ t0 < 115 ∧ t1 < 115 ∧ t2 < 115 ∧ t3 < 115)
    fun s t => t.pkg.duty.length = 4 ∧ t.pkg.temps = [t0, t1, t2, t3] ∧
      (∃ limit : Nat → Nat, ∀ d, d < 4 → let x := [t0, t1, t2, t3].getD d 0
        let old := s.pkg.duty.getD d 0
        t.pkg.duty.getD d 0 = if 105 < x ∨ limit d < old then max 1 (old - 1)
          else if x < 100 ∧ old < 16 ∧ old + 1 ≤ limit d then old + 1 else old) ∧ t.pkg.wake = none ∧
      { t with pkg := { t.pkg with duty := s.pkg.duty, temps := s.pkg.temps, wake := s.pkg.wake }, free := s.free } = s) ∧
  (∀ t0 t1 t2 t3, Steps (.sensorSweep t0 t1 t2 t3)
    (fun s => s.pkg.held = true ∧ t0 < 115 ∧ t1 < 115 ∧ t2 < 115 ∧ t3 < 115)
    fun s t => PackageTurns s t { s.pkg with
      temps := [t0, t1, t2, t3], wake := none
      coolSweeps := if t0 < 95 ∧ t1 < 95 ∧ t2 < 95 ∧ t3 < 95 then s.pkg.coolSweeps + 1 else 0 }) ∧
  (∀ t0 t1 t2 t3, Steps (.sensorSweep t0 t1 t2 t3)
    (fun s => s.pkg.held = false ∧ ∃ x ∈ [t0, t1, t2, t3], 115 ≤ x)
    fun s t => t.pkg.held = true ∧ t.pkg.stage = .a ∧ t.evSeq = s.evSeq + 1 ∧
      (∃ die, die < 4 ∧ 115 ≤ [t0, t1, t2, t3].getD die 0 ∧ t.pkg.log = s.pkg.log ++ [.thermal s.evSeq die]) ∧
      (s.cache = [] → ∀ k, k / 2 ^ 64 = 0 → t.byte k = s.byte k)) ∧
  Steps .thermalRelease (fun s => s.pkg.held = true ∧ 64 ≤ s.pkg.coolSweeps ∧ s.pkg.heldReset = none)
    fun s t => t.pkg.held = false ∧ t.pkg.warm = true ∧ t.pkg.pres = true ∧
      (s.cache = [] → ∀ k, k / 2 ^ 64 = 0 → t.byte k = s.byte k)

/-- R336, R369-R371, R156: a table walk caches entries and changes nothing else; `tfence` ends when the private accesses that it
waits for have; a held record is written to the ring once FRTAIL shows room. Which entry a full cache gives up, and what
`tfence` waits for, are the model's choices (log entries 20, 84 and 105). -/
def Obligations.SystemSteps : Prop :=
  let releases (s : State) (ctx : Nat) (c : Ctx) (r : FaultRec) (rs : List FaultRec) (x y : Nat) : Prop :=
    s.ctx? ctx = some c ∧ c.held = r :: rs ∧ c.noRing = false ∧ s.ringFull c = false ∧ r.ctx = ctx ∧
      s.ringHeld c = false ∧ s.isLost (tagKey c.recAddr) 256 = false ∧
      s.feWrite ctx (s.fring ctx + 64 * (c.h % 2 ^ s.frlog ctx)) 64 = .ok x ∧
      (s.store x r.bytes).feWrite ctx ((s.store x r.bytes).notifya ctx) 8 = .ok y
  let released (s t : State) (ctx : Nat) (c : Ctx) (r : FaultRec) (rs : List FaultRec) (x y : Nat) : Prop :=
    (∀ q, t.byte q = putAt (putAt s.byte ((List.range 64).map fun j => x + j) r.bytes)
        ((List.range 8).map fun j => y + j) (toBytes 8 ((c.h + 1) % 2 ^ 32)) q) ∧
      t.ctxs = s.ctxs.map (fun d => if d.id = ctx then { d with held := rs, h := (c.h + 1) % 2 ^ 32 } else d) ∧
      t.fe.hsig = s.fe.hsig ||| 1
  (∀ die ctx va u, Steps (.tableWalk die ctx va u)
    (fun s => (∃ c, s.ctx? ctx = some c) ∧ die < 4 ∧ va < 2 ^ 52 ∧ s.tlbHit (.leaf die u) ctx va = none ∧
      s.walksFor die ctx u = true ∧ s.held ⟨some die, some u, ctx, []⟩ va = false)
    fun s t => { t with tlb := s.tlb } = s ∧
      ∀ size e, ptePoison e = false → (∀ g, u = .fetch g → pteX e = true) → s.walkFrom ⟨some die, none, ctx, []⟩ va 3 (tagTgt (s.rootOf ctx)) (fld (s.rootOf ctx) 0 52).toNat = .ok (size, e) →
        t.tlbHit (.leaf die u) ctx va = some e) ∧
  (∀ tid, Steps (.tfenceComplete tid)
    (fun s => ∃ x sc, s.thread? tid = some x ∧ x.kind = .tfence sc ∧ ∀ w ∈ x.waits, s.stillOut w = false)
    fun s t => ∃ x, s.thread? tid = some x ∧ t.threads = s.threads.filter (·.id != tid) ∧
      { t with threads := s.threads, groups := s.groups } = s ∧
      (x.orphan = false → ∀ m, x.seq = some m → t.groups = s.groups.map fun g =>
        if g.id = x.grp then { g with arch := g.arch.complete m, conts := g.conts.map fun c => { c with arch := c.arch.complete m } } else g)) ∧
  (∀ ctx, Steps (.heldRecordRelease ctx) (fun s => ∃ c r rs x y, releases s ctx c r rs x y)
    fun s t => ∃ c r rs x y, releases s ctx c r rs x y ∧ released s t ctx c r rs x y) ∧
  (∀ ctx, Steps (.frtailReread ctx) (fun s => ∃ c, s.ctx? ctx = some c ∧ c.held ≠ [] ∧ s.ringFull c = true ∧ s.isLost (tagKey c.recAddr) 256 = false)
    fun s t => t = s) ∧
  (∀ ctx, Steps (.frtailReread ctx)
    (fun s => ∃ c, s.ctx? ctx = some c ∧ c.held ≠ [] ∧ c.noRing = false ∧ s.ringHeld c = false ∧ s.isLost (tagKey c.recAddr) 256 = true)
    fun s t => t.losses = s.losses + 1 ∧ t.evSeq = s.evSeq + 1 ∧ { t with
        pkg := s.pkg, losses := s.losses, evSeq := s.evSeq
        fe := { t.fe with hsig := s.fe.hsig, notified := s.fe.notified } } = s) ∧
  ∀ ctx, Steps (.frtailReread ctx) (fun s => ∃ c r x y, releases s ctx c r [] x y)
    fun s t => ∃ c r x y, releases s ctx c r [] x y ∧ released s t ctx c r [] x y

/-! ### Faults -/

/-- R13, R70, R85, R140, R306, R438: the first fault of an arithmetic instruction at issue, in R13's order: past its clause; then the
first register outside the group's blocks; then the first pending one; then the first poisoned one that it reads. LANES of such
a record is 0, by the model's choice (log entry 78). -/
def Obligations.RegisterFaults : Prop :=
  let names (i : Instr) (us : List Use) : Prop :=
    (∃ r, (laneInt i = some r ∨ laneOneWord i = some r ∨ laneExtended i = some r ∨ laneAcross i = some r) ∧ us = r.uses) ∨
      (∃ r, predResult i = some r ∧ us = r.uses) ∨ ∃ r, (uniArith i = some r ∨ getResult i = some r) ∧ us = r.uses
  ∀ i us, names i us → ∀ s h, s.here = some h →
    let takes (r : Report) : Prop := exec i s = .next (s.raise h.g h.slot h.p.pc i.first r)
    let outside (u : Use) : Bool := u.reg.file == .v && 8 * h.a.blocks ≤ u.reg.num
    let poisoned (u : Use) : Bool := u.reads && h.a.poison.contains u.reg
    (h.p.badLength i = true → takes { kind := .clauseLength }) ∧
      (h.p.badLength i = false →
        (∀ u, us.find? outside = some u → takes { kind := .regBlock, addr := u.reg.addr }) ∧
        (us.find? outside = none →
          (∀ u, us.find? (fun u => h.a.pending u.reg) = some u → takes { kind := .hazard, addr := u.reg.addr }) ∧
          (us.find? (fun u => h.a.pending u.reg) = none →
            ∀ u, us.find? poisoned = some u → takes { kind := .carry, addr := u.reg.addr })))

/-- R14, R87, R120, R135, R197, R338, R340, R381: faults of memory and system instructions at issue. Of a lane access in team memory, a
misaligned active lane comes before one out of bounds, and the record names exactly the lanes at fault. LANES of a fault
of the whole instruction is 0, by the model's choice (log entry 78). -/
def Obligations.AccessFaults : Prop :=
  let takes (s : State) (h : Here) (i : Instr) (r : Report) : Prop := exec i s = .next (s.raise h.g h.slot h.p.pc i.first r)
  let teamAccess (i : Instr) (g : Guard) (a : VReg) (n : Nat) (o : MemOrder) : Prop :=
    (∃ d sc, i = .ldN8 g d a o sc .team ∧ n = 1 ∨ i = .ldI8 g d a o sc .team ∧ n = 1 ∨ i = .ldN16 g d a o sc .team ∧ n = 2 ∨
      i = .ldI16 g d a o sc .team ∧ n = 2 ∨ i = .ldB32 g d a o sc .team ∧ n = 4 ∨ i = .ldB64 g d a o sc .team ∧ n = 8 ∨
      i = .ldB128 g d a o sc .team ∧ n = 16) ∨
    ∃ d sc, i = .stB8 g d a o sc .team ∧ n = 1 ∨ i = .stB16 g d a o sc .team ∧ n = 2 ∨ i = .stB32 g d a o sc .team ∧ n = 4 ∨
      i = .stB64 g d a o sc .team ∧ n = 8 ∨ i = .stB128 g d a o sc .team ∧ n = 16
  let lowest (p : Nat → Bool) (l : Nat) : Prop := l < 32 ∧ p l = true ∧ ∀ k, k < l → p k = false
  let tracked (i : Instr) (e : Effect) : Prop := laneMemEffect i = some e ∨ laneAtomicEffect i = some e ∨ engineEffect i = some e
  (∀ i g a n o, teamAccess i g a n o → ∀ e, laneMemEffect i = some e → ∀ s h, Clear s h i e.allUses e.raises → memStall o h = false →
    let odd (l : Nat) : Bool := (h.active g).getLsbD l && (h.offset a l % n != 0)
    let out (l : Nat) : Bool := (h.active g).getLsbD l && decide (h.t.tmem < h.offset a l + n)
    (∀ l, lowest odd l → ∃ m : Word, (∀ k, k < 32 → m.getLsbD k = odd k) ∧
      takes s h i { kind := .align, addr := BitVec.ofNat 64 (h.offset a l), lanes := m }) ∧
    ((∀ l, l < 32 → odd l = false) → ∀ l, lowest out l → ∃ m : Word, (∀ k, k < 32 → m.getLsbD k = out k) ∧
      takes s h i { kind := .bounds, addr := BitVec.ofNat 64 (h.offset a l), lanes := m })) ∧
  (∀ i e, tracked i e → ∀ s h, s.here = some h → e.ok s h → h.p.badLength i = false →
    (e.raises = .ka false → h.p.counter (.ka false) = none → takes s h i { kind := .clauseCounter }) ∧
    ((e.raises = .ka false → h.p.counter (.ka false) ≠ none) → h.a.regFaults e.allUses = none →
      ∀ c, h.p.counter e.raises = some c → h.a.getK c = 63 → takes s h i { kind := .counter })) ∧
  (∀ a n s h, Clear s h (.sysWr a n) (srcS a) .nothing → s.rightPERF (s.hereCtx h) = false →
    takes s h (.sysWr a n) { kind := .privilege }) ∧
  (∀ d (n : BitVec 6) s h, Clear s h (.sysRd d n) (dstS d (if n.toNat ≤ 11 then 2 else 1)) .nothing →
    (s.rightPERF (s.hereCtx h) = false ∨ n.toNat ≤ 11 ∧ (fld (s.core h.t.die h.t.site).perfctl 0 12).toNat ≠ s.hereCtx h) →
    takes s h (.sysRd d n) { kind := .privilege }) ∧
  (∀ a s h, Clear s h (.sint a) (srcS a) .nothing → s.rightMGMT (s.hereCtx h) = false →
    ((h.a.getS a.toNat).toNat / 2 ^ 30 = 1 ∨ (h.a.getS a.toNat).toNat / 2 ^ 30 = 2) → takes s h (.sint a) { kind := .privilege }) ∧
  ∀ n d s h, Clear s h (.stkHand n d) [] .kb → h.acquiring = false →
    let ok : Bool := s.rightSTK (s.hereCtx h) && s.inPartition (s.hereCtx h) d.toNat && s.inPartition (s.hereCtx h) h.t.die
    (ok = false → takes s h (.stkHand n d) { kind := .privilege }) ∧
      (ok = true → (s.copyOf h.t.die n.toNat ≠ .owned ∨ d.toNat = h.t.die) → takes s h (.stkHand n d) { kind := .ownership })

/-- R11, R12, R327, R334, R336: TAKING A FAULT outside a continuation. A recoverable fault writes its record to the ring and H + 1 to
NOTIFYA, signals the host, stays outstanding in the context, and parks its path where it stands. A program fault stops the team; every
grid of the context has ended; the context is FAULTED, or DEAD where the record could not be written. -/
def Obligations.TakingFaults : Prop :=
  (∀ (s : State) (g : Group) (slot : Bool) (pc : DWord) (iw : Word) (r : Report) (c : Ctx) (p : Path) (x y : Nat),
    let rec' := s.pathRecord g pc iw r
    let s1 := s.store x rec'.bytes
    let s2 := s1.storeLE y 8 ((c.h + 1) % 2 ^ 32)
    let t := s.raise g slot pc iw r
    (r.kind = .page ∨ r.kind = .grow) → s.view = none → s.group? g.id = some g → g.conts = [] → g.arch.path slot = some p →
    s.ctx? rec'.ctx = some c → c.noRing = false → c.held = [] → c.st ≠ .free → s.ringFull c = false →
    s.ringHeld c = false → s.isLost (tagKey c.recAddr) 256 = false →
    s.feWrite rec'.ctx (s.fring rec'.ctx + 64 * (c.h % 2 ^ s.frlog rec'.ctx)) 64 = .ok x →
    s1.feWrite rec'.ctx (s1.notifya rec'.ctx) 8 = .ok y → s2.fpshare rec'.ctx = 0 →
      (∀ q, t.byte q = putAt (putAt s.byte ((List.range 64).map fun j => x + j) rec'.bytes)
        ((List.range 8).map fun j => y + j) (toBytes 8 ((c.h + 1) % 2 ^ 32)) q) ∧
      rec'.seq = s.evSeq ∧ rec'.cls = 0 ∧ t.evSeq = s.evSeq + 1 ∧
      t.ctxs = s.ctxs.map (fun d =>
        if d.id = rec'.ctx then { d with faults := d.faults ++ [(s.evSeq, .path g.id)], h := (c.h + 1) % 2 ^ 32 } else d) ∧
      t.fe.hsig = s.fe.hsig ||| 1 ∧
      ∃ u q, t.group? g.id = some u ∧ u.arch.path slot = some q ∧ q.pc = p.pc ∧ q.m = p.m ∧ q.pst = p.pst ∧
        q.park = some (.fault s.evSeq false) ∧ u.arch.regs = g.arch.regs) ∧
  ∀ (s : State) (g : Group) (slot : Bool) (pc : DWord) (iw : Word) (r : Report) (c : Ctx),
    let ctx := (s.pathRecord g pc iw r).ctx
    let t := s.raise g slot pc iw r
    r.kind ≠ .page → r.kind ≠ .grow → r.kind ≠ .uncorrectable → s.view = none → (s.grids.map (·.id)).Nodup → s.ctx? ctx = some c →
    (c.st = .ready ∨ c.st = .resident ∨ c.st = .partly ∨ c.st = .out) →
      (∃ d, t.ctx? ctx = some d ∧ (d.st = .faulted ∨ d.st = .dead)) ∧
      (∀ x ∈ t.grids, x.ctx = ctx → x.st = .retired ∨ x.st = .failed) ∧
      (∀ u, t.team? g.team = some u → u.st = .done ∨ u.st = .killed)

/-- R335: the fields of a fault record stand at their offsets, and its last four bytes are zero. -/
def Obligations.FaultRecordBytes : Prop :=
  ∀ r : FaultRec,
    r.bytes.length = 64 ∧ fieldOf r.bytes 0x00 8 = r.seq % 2 ^ 64 ∧ fieldOf r.bytes 0x08 8 = r.pc.toNat ∧
      fieldOf r.bytes 0x10 8 = r.addr.toNat ∧ fieldOf r.bytes 0x18 4 = r.iword.toNat ∧ fieldOf r.bytes 0x1C 4 = r.lanes.toNat ∧
      fieldOf r.bytes 0x20 2 = r.kind.code ∧ fieldOf r.bytes 0x22 1 = r.cls % 256 ∧ fieldOf r.bytes 0x23 1 = r.flags % 256 ∧
      fieldOf r.bytes 0x24 2 = r.gid % 2 ^ 16 ∧ fieldOf r.bytes 0x26 2 = r.ctx % 2 ^ 16 ∧ fieldOf r.bytes 0x28 8 = r.grid % 2 ^ 64 ∧
      fieldOf r.bytes 0x30 8 = r.team % 2 ^ 64 ∧ fieldOf r.bytes 0x38 2 = (256 * r.die + r.site) % 2 ^ 16 ∧
      fieldOf r.bytes 0x3A 1 = r.gidx % 256 ∧ fieldOf r.bytes 0x3B 1 = r.code % 256 ∧ fieldOf r.bytes 0x3C 4 = 0

/-! ### Counters and write events -/

/-- R132, R136, R152: a lane access that completes brings its data to its registers, and leaves every other register as it was. It lowers
its counter once every earlier one of its path has; while an earlier one has not completed, no counter falls. A store that was put off is
performed, a load that was put off reads, and an atomic that was put off does both. Which accesses are put off is the model's choice (log
entry 3). -/
def Obligations.LaneAccessComplete : Prop :=
  let at_ (s : State) (grp seq : Nat) (g : Group) (pre : List Tracked) (x : Tracked) (post : List Tracked) : Prop :=
    s.group? grp = some g ∧ g.arch.tracked = pre ++ x :: post ∧ x.seq = seq ∧ x.done = false ∧ x.lowered = false ∧
      (x.path = .T ∨ x.path = .D ∨ x.path = .P) ∧ (∀ y ∈ pre, y.seq ≠ seq) ∧
      ∀ y ∈ post, y.seq ≠ seq ∧ (y.path = x.path → y.lowered = true ∨ y.done = false)
  (∀ grp seq, Steps (.laneAccessComplete grp seq)
    (fun s => ∃ g x, s.group? grp = some g ∧ g.arch.tracked.find? (·.seq == seq) = some x ∧ x.done = false ∧
      (x.path = .T ∨ x.path = .D ∨ x.path = .P) ∧ ∀ y ∈ g.arch.tracked, y.seq = seq → y.late = [])
    fun s t => ∃ g x u, s.group? grp = some g ∧ g.arch.tracked.find? (·.seq == seq) = some x ∧ t.group? grp = some u ∧
      (∀ n l, l < 32 → (∀ e ∈ x.data, e.2.1 < 32) →
        u.arch.getV n l = ((x.data.reverse.find? fun e => e.1 == n && e.2.1 == l).map fun e => e.2.2).getD (g.arch.getV n l)) ∧
      { u.arch with v := g.arch.v, k := g.arch.k, tracked := g.arch.tracked } = g.arch ∧ GroupTurns s t grp fun h =>
        { h with arch := h.arch.complete seq, conts := h.conts.map fun c => { c with arch := c.arch.complete seq } }) ∧
  (∀ grp seq, Steps (.laneAccessComplete grp seq)
    (fun s => ∃ g pre x post, at_ s grp seq g pre x post ∧ ∃ y ∈ pre, y.path = x.path ∧ y.lowered = false ∧ y.done = false)
    fun s t => ∃ g u, s.group? grp = some g ∧ t.group? grp = some u ∧
      ∀ c, (∀ z ∈ g.arch.tracked, z.done = true → z.lowered = true) → u.arch.getK c = g.arch.getK c) ∧
  (∀ grp seq, Steps (.laneAccessComplete grp seq)
    (fun s => ∃ g pre x post, at_ s grp seq g pre x post ∧ ∀ y ∈ pre, y.path = x.path → y.lowered = true)
    fun s t => ∃ g x u, s.group? grp = some g ∧ x ∈ g.arch.tracked ∧ x.seq = seq ∧ t.group? grp = some u ∧
      ∀ c, u.arch.getK c = g.arch.getK c - if c = x.ctr then 1 else 0) ∧
  (∀ grp seq, Steps (.laneAccessComplete grp seq)
    (fun s => ∃ g pre x post, ∃ l : List (Nat × List Byte), at_ s grp seq g pre x post ∧ x.late = l.map fun e => .store e.1 e.2)
    fun s t => ∃ g x, ∃ l : List (Nat × List Byte), s.group? grp = some g ∧ x ∈ g.arch.tracked ∧ x.seq = seq ∧
      x.late = (l.map fun e => .store e.1 e.2) ∧
      ∀ q, t.byte q = l.foldl (fun m e => putAt m ((List.range e.2.length).map fun j => e.1 + j) e.2) s.byte q) ∧
  (∀ grp seq lane d n sg runs, Steps (.laneAccessComplete grp seq)
    (fun s => ∃ g pre x post, at_ s grp seq g pre x post ∧ x.late = [.read lane d n sg runs] ∧ x.data = [] ∧ lane < 32 ∧
      (n = 1 ∨ n = 2 ∨ n = 4 ∨ n = 8 ∨ n = 16) ∧ (runs.map (·.2)).sum = n)
    fun s t => ∃ g u, s.group? grp = some g ∧ t.group? grp = some u ∧ { t with groups := s.groups } = s ∧
      ∀ v l, l < 32 → u.arch.getV v l =
        if l = lane ∧ d ≤ v ∧ v < d + (n + 3) / 4 then
          loadedWord n sg (runs.flatMap fun r => (List.range r.2).map fun j => s.byte (r.1 + j)) (v - d)
        else g.arch.getV v l) ∧
  ∀ grp seq lane d op (ty : Ty) b c k, Steps (.laneAccessComplete grp seq)
    (fun s => ∃ g pre x post, at_ s grp seq g pre x post ∧ x.late = [.rmw lane d true op ty b c [(k, 4 * ty.regs)]] ∧ x.data = [] ∧
      lane < 32)
    fun s t => ∃ g u, s.group? grp = some g ∧ t.group? grp = some u ∧
      let keys := (List.range (4 * ty.regs)).map fun j => k + j
      let old := ofBytes (keys.map s.byte)
      (∀ q, t.byte q = putAt s.byte keys (toBytes (4 * ty.regs) (op.eval ty old b c)) q) ∧
      ∀ v l, l < 32 → u.arch.getV v l =
        if l = lane ∧ d ≤ v ∧ v < d + ty.regs then BitVec.ofNat 32 (old / 2 ^ (32 * (v - d))) else g.arch.getV v l

/-- R293, R375: a write puts its bytes, and no others; it fires every cairn whose word it touches, and no other; and a granule that it
covers whole is lost no longer. -/
def Obligations.StoreEvent : Prop :=
  ∀ (s : State) (k : Nat) (bs : List Byte),
    let t := s.store k bs
    (∀ q, t.byte q = putAt s.byte ((List.range bs.length).map fun j => k + j) bs q) ∧
      t.groups.map (·.cairn) = s.groups.map (fun g => g.cairn.map fun c =>
        if k < c.key + 8 ∧ c.key < k + bs.length then { c with fired := true } else c) ∧
      ∀ q, q ∈ t.lost ↔ q ∈ s.lost ∧ ¬(k ≤ 64 * q ∧ 64 * q + 64 ≤ k + bs.length)

/-! ### Decoding and stepping -/

/-- Words written out from the spec's encodings, most of them in the spec itself, decode to what they stand for. -/
def Obligations.DecodedWords : Prop :=
  ∀ e ∈ ([
    -- lane words (R70-R78, R90, R91; the worked examples of chapters 3, 4, 10 and 11)
    ([0x00E04081], .iaddI32 7 1 1 1),
    ([0x40E04205], .icmpI32 7 .eq 1 4 5),
    ([0x30E14200, 0x10], .litI .iadd 7 5 4 0x10),
    ([0x32E04000, 0x40], .litMov 7 1 0x40),
    ([0x64E10100], .ldB32 7 4 2 .plain .grp .team),
    ([0x64E10101], .ldB32 7 4 2 .plain .grp .die),
    ([0x6AE0C080], .stB32 7 3 1 .plain .grp .team),
    ([0x7FE1848A, 0x16278000], .fma 7 6 9 10 11 .f32 .rne false false false),
    -- uniform words (R79-R83, R93-R95, and the words that the instructions' own rules write out)
    ([0x80084180], .uniformIadd 1 2 3 false),
    ([0xC083FFF9], .bra .nz 3 0xFFF9),
    ([0xC240000B, 13], .brd 1 false 11 13),
    ([0xC8008001], .callInd 4),
    ([0xCA000000], .ret),
    ([0xCC000000], .exit),
    ([0xD0100000], .getGroup 2),
    ([0xD2006000], .emSet 3),
    ([0xD4000005], .pmPush 5),
    ([0xD4000020], .pmPop),
    ([0xD6000003], .blkGive 3),
    ([0xD8000040, 3], .fmtSetImm 3),
    ([0xE0010000], .bcpT1 8),
    ([0xE2010000], .bgsGather 8),
    ([0xE4010000], .bamAdd 8),
    ([0xE6014000], .mldE 10),
    ([0xE8000000], .mswp),
    ([0xEA018001], .mlpZero 12),
    ([0xEC01C001], .mdrnScl 14),
    ([0xEE000000], .ropeTake),
    ([0xF0000010], .tbarHold 0 0),
    ([0xF4000015], .tfence .pkg),
    ([0xF6010000], .lnch 8),
    ([0xF8010000], .collSum 8 .f32),
    ([0xF8000131], .stkHand 2 1),
    ([0xFA000280], .trap 5)] : List (List Word × Instr)), decodeWords e.1 = .ok e.2

/-- R68-R96: whatever words follow it, a well-formed instruction's encoding decodes to that instruction, every field at every value
that the encoding admits. -/
def Obligations.RoundTrip : Prop := ∀ i rest, i.wf = true → i.isWord = true → decodeWords (encode i ++ rest) = .ok i

/-- R88, R145, R152, R254, R299: a step of a path whose words decode runs the decoded instruction, and takes the fault of words that do not,
and then counts the cycle for the paths of its quadrant, which changes nothing else; a path of a team that rotation is to evict issues
nothing, nor does one that waits for its die to be dealt a team first; a step of another agent runs that agent's step. Before the instructions that R152
and the machine's other rules put behind a group's lane accesses, those that were put off are performed; the parts of one that was put off
are performed one by one as the agenda asks. Which accesses are put off, and that a clause keeps the words of its entry, are the model's
choices (log entries 3 and 102), and so is that the deal comes first (log entry 127). -/
def Obligations.StepRunsDecoded : Prop :=
  (∀ (s : State) grp slot r h, s.agenda = .issue grp slot :: r →
    let s' := { s with agenda := r, cur := (grp, slot), turn := none }
    s'.here = some h →
      (s'.issueHeld h.t = false →
        (∀ i, decodeWords h.p.rest = .ok i → Counted (exec i (if Instr.leavesStores i then s' else s'.drainLate h.g.id)) (step s)) ∧
          ∀ e, decodeWords h.p.rest = .error e →
            Counted (.next (s'.raise h.g h.slot h.p.pc h.p.iword (DecodeError.report e h.p.rest))) (step s)) ∧
      (s'.mustRotate h.t = true → s'.issueHeld h.t = true) ∧ (s'.issueHeld h.t = true → step s = .refused .noPath)) ∧
  (∀ (s : State) grp slot r h i t, s.agenda = .issueLate grp slot :: r →
    let s' := { s with agenda := r, cur := (grp, slot), turn := none, late := true }
    s'.here = some h → s'.issueHeld h.t = false → decodeWords h.p.rest = .ok i → Instr.leavesStores i = true → exec i s' = .next t →
      Counted (.next { t with late := false }) (step s)) ∧
  (∀ (s : State) (g : Group), s.group? g.id = some g → (∀ x ∈ g.arch.tracked, x.late = []) → s.drainLate g.id = s) ∧
  (∀ (s : State) grp seq i r g x, s.agenda = .perform grp seq i :: r → s.group? grp = some g → g.arch.tracked.find? (·.seq == seq) = some x →
    x.mayPerform i = true → step s = .next ({ s with agenda := r }.performAt grp seq i)) ∧
  (∀ (s : State) grp slot r, s.agenda = .issue grp slot :: r →
    let s' := { s with agenda := r, cur := (grp, slot), turn := none }
    s'.here = none → Counted (exec .clauseEntry s') (step s)) ∧
  ∀ (s : State) i r, s.agenda = .event i :: r → step s = exec i { s with agenda := r }

/-- R11, R12: at a path that can issue, every instruction word answers a next state: its effect, a wait, or the fault it takes. -/
def Obligations.GroupInstructionsAnswer : Prop :=
  ∀ i, i.isWord = true → ∀ (s : State) h, s.here = some h → ∃ t, exec i s = .next t

/-! ### Reset and invariants -/

/-- R379, R410, R417, R426: after reset the start is at Stage A, every stack is TRAINING with its counters clear, every port is DOWN,
nothing is placed, memory is canonical, and identifiers are unique. -/
def Obligations.ResetState : Prop :=
  let s := State.reset
  s.pkg.stage = .a ∧ s.pkg.stageDue = true ∧ s.mstacks.length = 16 ∧
    (∀ k ∈ s.mstacks, k.st = .training ∧ k.hseq = 0 ∧ k.cecnt = 0 ∧ k.uecnt = 0 ∧ k.log = []) ∧ s.ports.length = 16 ∧
    (∀ p ∈ s.ports, p.st = .down ∧ p.retry = 0) ∧ s.groups = [] ∧ s.teams = [] ∧ s.grids = [] ∧ s.threads = [] ∧ s.ctxs = [] ∧
    s.queues = [] ∧ s.tlb = [] ∧ s.cache = [] ∧ s.lost = [] ∧ s.fe.hsig = 0 ∧ s.pkg.hrwbase = 0 ∧ s.pkg.hmabase = 0 ∧ Memory.wf s.mem = true ∧ s.idsUnique

/-- Every step keeps memory in its canonical form. -/
def Obligations.MemoryCanonical : Prop := ∀ s t : State, Memory.wf s.mem = true → step s = .next t → Memory.wf t.mem = true

/-- Every step keeps the identifiers of groups, teams, engine threads, grids, barrier slots and ports unique, and those to come new. -/
def Obligations.IdentifiersUnique : Prop := ∀ s t : State, s.idsUnique → step s = .next t → t.idsUnique

end
end

