-- ==== Sys2Proof/Laws/Memory.lean ====
section
/-!
SUPPORT. Sparse tables and memory: a read after a write, writes that leave every other place alone, and the canonical form
that every operation keeps.
-/
namespace Sys2Proof

section
variable {w : Nat}

theorem Sparse.look_erase_self (t : List (Nat × BitVec w)) (k : Nat) : Sparse.look (Sparse.erase t k) k = 0 := by
  induction t with
  | nil => rfl
  | cons e r ih =>
    obtain ⟨a, b⟩ := e
    by_cases h : a = k
    · simp [Sparse.erase, h, ih]
    · simp [Sparse.erase, Sparse.look, h, ih]

theorem Sparse.look_erase_other (t : List (Nat × BitVec w)) {k j : Nat} (hj : j ≠ k) :
    Sparse.look (Sparse.erase t k) j = Sparse.look t j := by
  induction t with
  | nil => rfl
  | cons e r ih =>
    obtain ⟨a, b⟩ := e
    by_cases h : a = k
    · simp [Sparse.erase, Sparse.look, h, ih, Ne.symm hj]
    · simp only [Sparse.erase, if_neg h, Sparse.look, ih]

theorem Sparse.look_insert_other (t : List (Nat × BitVec w)) {k j : Nat} (v : BitVec w) (hj : j ≠ k) :
    Sparse.look (Sparse.insert t k v) j = Sparse.look t j := by
  induction t with
  | nil => simp [Sparse.insert, Sparse.look, Ne.symm hj]
  | cons e r ih =>
    obtain ⟨a, b⟩ := e
    by_cases h : k < a
    · simp [Sparse.insert, h, Sparse.look, Ne.symm hj]
    · simp [Sparse.insert, h, Sparse.look, ih]

/-- A table that does not list `k` reads `v` there once `v` is put in its place. -/
theorem Sparse.look_insert_self (t : List (Nat × BitVec w)) (k : Nat) (v : BitVec w) :
    Sparse.look (Sparse.insert (Sparse.erase t k) k v) k = v := by
  induction t with
  | nil => simp [Sparse.erase, Sparse.insert, Sparse.look]
  | cons e r ih =>
    obtain ⟨a, b⟩ := e
    by_cases h : a = k
    · simpa [Sparse.erase, h] using ih
    · by_cases h' : k < a
      · simp [Sparse.erase, h, Sparse.insert, h', Sparse.look]
      · simp [Sparse.erase, h, Sparse.insert, h', Sparse.look, ih]

/-- A read after a write to the same place. -/
@[simp] theorem Sparse.look_put_self (t : List (Nat × BitVec w)) (k : Nat) (v : BitVec w) : Sparse.look (Sparse.put t k v) k = v := by
  unfold Sparse.put
  split
  · next h => rw [Sparse.look_erase_self, h]
  · exact Sparse.look_insert_self t k v

/-- A write leaves every other place alone. -/
theorem Sparse.look_put_other (t : List (Nat × BitVec w)) {k j : Nat} (v : BitVec w) (hj : j ≠ k) :
    Sparse.look (Sparse.put t k v) j = Sparse.look t j := by
  unfold Sparse.put
  split
  · exact Sparse.look_erase_other t hj
  · rw [Sparse.look_insert_other _ v hj, Sparse.look_erase_other t hj]

theorem Sparse.look_put (t : List (Nat × BitVec w)) (k j : Nat) (v : BitVec w) :
    Sparse.look (Sparse.put t k v) j = if j = k then v else Sparse.look t j := by
  split
  · next h => rw [h, Sparse.look_put_self]
  · next h => exact Sparse.look_put_other t v h

theorem Sparse.above_erase {a : Nat} (t : List (Nat × BitVec w)) (k : Nat) (h : Sparse.above a t = true) :
    Sparse.above a (Sparse.erase t k) = true := by
  induction t with
  | nil => rfl
  | cons e r ih =>
    obtain ⟨c, b⟩ := e
    simp only [Sparse.above, Bool.and_eq_true, decide_eq_true_eq] at h
    by_cases hk : c = k
    · simpa [Sparse.erase, hk] using ih h.2
    · simp [Sparse.erase, hk, Sparse.above, h.1, ih h.2]

theorem Sparse.wf_erase (t : List (Nat × BitVec w)) (k : Nat) (h : Sparse.wf t = true) : Sparse.wf (Sparse.erase t k) = true := by
  induction t with
  | nil => rfl
  | cons e r ih =>
    obtain ⟨c, b⟩ := e
    simp only [Sparse.wf, Bool.and_eq_true] at h
    by_cases hk : c = k
    · simpa [Sparse.erase, hk] using ih h.2
    · simp only [Sparse.erase, if_neg hk, Sparse.wf, Bool.and_eq_true]
      exact ⟨⟨h.1.1, Sparse.above_erase r k h.1.2⟩, ih h.2⟩

theorem Sparse.above_of_lt {a c : Nat} (t : List (Nat × BitVec w)) (h : Sparse.above c t = true) (hl : a < c) :
    Sparse.above a t = true := by
  induction t with
  | nil => rfl
  | cons e r ih =>
    obtain ⟨d, b⟩ := e
    simp only [Sparse.above, Bool.and_eq_true, decide_eq_true_eq] at h ⊢
    exact ⟨by omega, ih h.2⟩

theorem Sparse.above_insert {a : Nat} (t : List (Nat × BitVec w)) (k : Nat) (v : BitVec w) (h : Sparse.above a t = true) (hk : a < k) :
    Sparse.above a (Sparse.insert t k v) = true := by
  induction t with
  | nil => simp [Sparse.insert, Sparse.above, hk]
  | cons e r ih =>
    obtain ⟨c, b⟩ := e
    simp only [Sparse.above, Bool.and_eq_true, decide_eq_true_eq] at h
    by_cases hc : k < c
    · simp [Sparse.insert, hc, Sparse.above, hk, h.1, h.2]
    · simp [Sparse.insert, hc, Sparse.above, h.1, ih h.2]

theorem Sparse.wf_insert (t : List (Nat × BitVec w)) (k : Nat) (v : BitVec w) (h : Sparse.wf t = true) (hv : v ≠ 0) :
    Sparse.wf (Sparse.insert (Sparse.erase t k) k v) = true := by
  induction t with
  | nil => simpa [Sparse.erase, Sparse.insert, Sparse.wf, Sparse.above] using hv
  | cons e r ih =>
    obtain ⟨c, b⟩ := e
    have h' := h
    simp only [Sparse.wf, Bool.and_eq_true] at h
    by_cases hc : c = k
    · simpa [Sparse.erase, hc] using ih h.2
    · by_cases hlt : k < c
      · simp only [Sparse.erase, if_neg hc, Sparse.insert, if_pos hlt, Sparse.wf, Sparse.above, Bool.and_eq_true, bne_iff_ne, ne_eq,
          decide_eq_true_eq]
        refine ⟨⟨hv, hlt, ?_⟩, ⟨by simpa using h.1.1, Sparse.above_erase r k h.1.2⟩, Sparse.wf_erase r k h.2⟩
        exact Sparse.above_of_lt _ (Sparse.above_erase r k h.1.2) hlt
      · simp only [Sparse.erase, if_neg hc, Sparse.insert, if_neg hlt, Sparse.wf, Bool.and_eq_true]
        exact ⟨⟨h.1.1, Sparse.above_insert _ k v (Sparse.above_erase r k h.1.2) (by omega)⟩, ih h.2⟩

/-- A write keeps the canonical form. -/
theorem Sparse.wf_put (t : List (Nat × BitVec w)) (k : Nat) (v : BitVec w) (h : Sparse.wf t = true) :
    Sparse.wf (Sparse.put t k v) = true := by
  unfold Sparse.put
  split
  · exact Sparse.wf_erase t k h
  · next hv => exact Sparse.wf_insert t k v h hv

theorem Sparse.above_filter {a : Nat} (t : List (Nat × BitVec w)) (p : Nat × BitVec w → Bool) (h : Sparse.above a t = true) :
    Sparse.above a (t.filter p) = true := by
  induction t with
  | nil => rfl
  | cons e r ih =>
    obtain ⟨c, b⟩ := e
    simp only [Sparse.above, Bool.and_eq_true, decide_eq_true_eq] at h
    rw [List.filter_cons]
    split
    · simp [Sparse.above, h.1, ih h.2]
    · exact ih h.2

/-- Leaving entries out keeps the canonical form. -/
theorem Sparse.wf_filter (t : List (Nat × BitVec w)) (p : Nat × BitVec w → Bool) (h : Sparse.wf t = true) :
    Sparse.wf (t.filter p) = true := by
  induction t with
  | nil => rfl
  | cons e r ih =>
    obtain ⟨c, b⟩ := e
    simp only [Sparse.wf, Bool.and_eq_true] at h
    rw [List.filter_cons]
    split
    · simp only [Sparse.wf, Bool.and_eq_true]
      exact ⟨⟨h.1.1, Sparse.above_filter r p h.1.2⟩, ih h.2⟩
    · exact ih h.2

theorem Sparse.wf_clear (t : List (Nat × BitVec w)) (lo n : Nat) (h : Sparse.wf t = true) : Sparse.wf (Sparse.clear t lo n) = true :=
  Sparse.wf_filter t _ h

theorem Sparse.look_of_above {a k : Nat} (t : List (Nat × BitVec w)) (h : Sparse.above a t = true) (hk : k ≤ a) : Sparse.look t k = 0 := by
  induction t with
  | nil => rfl
  | cons e r ih =>
    obtain ⟨c, b⟩ := e
    simp only [Sparse.above, Bool.and_eq_true, decide_eq_true_eq] at h
    rw [Sparse.look, if_neg (by omega), ih h.2]

/-- Tables in canonical form that read alike at every key are equal. -/
theorem Sparse.ext (s t : List (Nat × BitVec w)) (hs : Sparse.wf s = true) (ht : Sparse.wf t = true)
    (h : ∀ k, Sparse.look s k = Sparse.look t k) : s = t := by
  induction s generalizing t with
  | nil =>
    cases t with
    | nil => rfl
    | cons e r =>
      obtain ⟨c, b⟩ := e
      simp only [Sparse.wf, Bool.and_eq_true, bne_iff_ne, ne_eq] at ht
      exact absurd (by simpa [Sparse.look] using (h c).symm) ht.1.1
  | cons e r ih =>
    obtain ⟨a, v⟩ := e
    simp only [Sparse.wf, Bool.and_eq_true, bne_iff_ne, ne_eq] at hs
    cases t with
    | nil => exact absurd (by simpa [Sparse.look] using h a) hs.1.1
    | cons e q =>
      obtain ⟨c, b⟩ := e
      simp only [Sparse.wf, Bool.and_eq_true, bne_iff_ne, ne_eq] at ht
      have hac : a = c := by
        rcases Nat.lt_trichotomy a c with hl | hl | hl
        · have := h a
          rw [Sparse.look, if_pos rfl, Sparse.look, if_neg (by omega), Sparse.look_of_above q ht.1.2 (by omega)] at this
          exact absurd this hs.1.1
        · exact hl
        · have := h c
          rw [Sparse.look, if_neg (by omega), Sparse.look_of_above r hs.1.2 (by omega), Sparse.look, if_pos rfl] at this
          exact absurd this.symm ht.1.1
      subst hac
      have hv : v = b := by simpa [Sparse.look] using h a
      subst hv
      refine congrArg _ (ih q hs.2 ht.2 fun k => ?_)
      by_cases hk : a = k
      · subst hk
        rw [Sparse.look_of_above r hs.1.2 (Nat.le_refl _), Sparse.look_of_above q ht.1.2 (Nat.le_refl _)]
      · simpa [Sparse.look, hk] using h k

end

end Sys2Proof

namespace Sys2Proof.Machine

/-- Bytes put at a key keep the canonical form. -/
theorem putBytes_wf (m : List Host.Cell) (k : Nat) (bs : List Byte) (h : Memory.wf m = true) : Memory.wf (putBytes m k bs) = true := by
  induction bs generalizing m k with
  | nil => exact h
  | cons b r ih => exact ih _ _ (Sparse.wf_put m k b h)

/-- What a byte reads as after bytes were put at a key. -/
theorem look_putBytes (m : List Host.Cell) (k j : Nat) (bs : List Byte) :
    Sparse.look (putBytes m k bs) j = if k ≤ j ∧ j < k + bs.length then bs.getD (j - k) 0 else Sparse.look m j := by
  induction bs generalizing m k with
  | nil => simp only [putBytes, List.length_nil]; rw [if_neg (by omega)]
  | cons b r ih =>
    rw [putBytes, ih, List.length_cons]
    by_cases hj : j = k
    · subst hj
      rw [if_neg (by omega), Sparse.look_put_self, if_pos (by omega)]
      simp
    · rw [Sparse.look_put_other _ _ hj]
      by_cases hin : k + 1 ≤ j ∧ j < k + 1 + r.length
      · rw [if_pos hin, if_pos (by omega)]
        have : j - k = (j - (k + 1)) + 1 := by omega
        rw [this]; simp
      · rw [if_neg hin, if_neg (by omega)]

@[simp] theorem toBytes_length (n x : Nat) : (toBytes n x).length = n := by
  induction n generalizing x with
  | zero => rfl
  | succ n ih => simp [toBytes, ih]

/-- Bytes written as a number read back as it (R1). -/
theorem ofBytes_toBytes (n x : Nat) : ofBytes (toBytes n x) = x % 256 ^ n := by
  induction n generalizing x with
  | zero => simp [toBytes, ofBytes, Nat.mod_one]
  | succ n ih =>
    have h : 256 ^ (n + 1) = 256 * 256 ^ n := by rw [Nat.pow_succ, Nat.mul_comm]
    rw [toBytes, ofBytes, ih, BitVec.toNat_ofNat, h, Nat.mod_mul]

end Sys2Proof.Machine
end

