-- ==== Sys2Proof/Laws/State.lean ====
section
/-!
SUPPORT. What each update of the state leaves as it was: one lemma for each field and update, so that no proof unfolds a
record update.
-/
namespace Sys2Proof.Machine

/-! ### `State.onGroup` -/

@[simp] theorem State.onGroup_mem (s : State) (id : Nat) (f : Group → Group) : (s.onGroup id f).mem = s.mem := rfl
@[simp] theorem State.onGroup_lost (s : State) (id : Nat) (f : Group → Group) : (s.onGroup id f).lost = s.lost := rfl
@[simp] theorem State.onGroup_cache (s : State) (id : Nat) (f : Group → Group) : (s.onGroup id f).cache = s.cache := rfl
@[simp] theorem State.onGroup_losses (s : State) (id : Nat) (f : Group → Group) : (s.onGroup id f).losses = s.losses := rfl
@[simp] theorem State.onGroup_groups (s : State) (id : Nat) (f : Group → Group) : (s.onGroup id f).groups = mapIf s.groups (·.id == id) f := rfl
@[simp] theorem State.onGroup_teams (s : State) (id : Nat) (f : Group → Group) : (s.onGroup id f).teams = s.teams := rfl
@[simp] theorem State.onGroup_grids (s : State) (id : Nat) (f : Group → Group) : (s.onGroup id f).grids = s.grids := rfl
@[simp] theorem State.onGroup_slots (s : State) (id : Nat) (f : Group → Group) : (s.onGroup id f).slots = s.slots := rfl
@[simp] theorem State.onGroup_cores (s : State) (id : Nat) (f : Group → Group) : (s.onGroup id f).cores = s.cores := rfl
@[simp] theorem State.onGroup_saved (s : State) (id : Nat) (f : Group → Group) : (s.onGroup id f).saved = s.saved := rfl
@[simp] theorem State.onGroup_threads (s : State) (id : Nat) (f : Group → Group) : (s.onGroup id f).threads = s.threads := rfl
@[simp] theorem State.onGroup_ctxs (s : State) (id : Nat) (f : Group → Group) : (s.onGroup id f).ctxs = s.ctxs := rfl
@[simp] theorem State.onGroup_queues (s : State) (id : Nat) (f : Group → Group) : (s.onGroup id f).queues = s.queues := rfl
@[simp] theorem State.onGroup_tlb (s : State) (id : Nat) (f : Group → Group) : (s.onGroup id f).tlb = s.tlb := rfl
@[simp] theorem State.onGroup_dies (s : State) (id : Nat) (f : Group → Group) : (s.onGroup id f).dies = s.dies := rfl
@[simp] theorem State.onGroup_mstacks (s : State) (id : Nat) (f : Group → Group) : (s.onGroup id f).mstacks = s.mstacks := rfl
@[simp] theorem State.onGroup_ports (s : State) (id : Nat) (f : Group → Group) : (s.onGroup id f).ports = s.ports := rfl
@[simp] theorem State.onGroup_fe (s : State) (id : Nat) (f : Group → Group) : (s.onGroup id f).fe = s.fe := rfl
@[simp] theorem State.onGroup_pkg (s : State) (id : Nat) (f : Group → Group) : (s.onGroup id f).pkg = s.pkg := rfl
@[simp] theorem State.onGroup_evSeq (s : State) (id : Nat) (f : Group → Group) : (s.onGroup id f).evSeq = s.evSeq := rfl
@[simp] theorem State.onGroup_nextGroup (s : State) (id : Nat) (f : Group → Group) : (s.onGroup id f).nextGroup = s.nextGroup := rfl
@[simp] theorem State.onGroup_nextTeam (s : State) (id : Nat) (f : Group → Group) : (s.onGroup id f).nextTeam = s.nextTeam := rfl
@[simp] theorem State.onGroup_nextThread (s : State) (id : Nat) (f : Group → Group) : (s.onGroup id f).nextThread = s.nextThread := rfl
@[simp] theorem State.onGroup_nextAge (s : State) (id : Nat) (f : Group → Group) : (s.onGroup id f).nextAge = s.nextAge := rfl
@[simp] theorem State.onGroup_cur (s : State) (id : Nat) (f : Group → Group) : (s.onGroup id f).cur = s.cur := rfl
@[simp] theorem State.onGroup_view (s : State) (id : Nat) (f : Group → Group) : (s.onGroup id f).view = s.view := rfl
@[simp] theorem State.onGroup_late (s : State) (id : Nat) (f : Group → Group) : (s.onGroup id f).late = s.late := rfl
@[simp] theorem State.onGroup_turn (s : State) (id : Nat) (f : Group → Group) : (s.onGroup id f).turn = s.turn := rfl
@[simp] theorem State.onGroup_agenda (s : State) (id : Nat) (f : Group → Group) : (s.onGroup id f).agenda = s.agenda := rfl
@[simp] theorem State.onGroup_free (s : State) (id : Nat) (f : Group → Group) : (s.onGroup id f).free = s.free := rfl

/-! ### `State.onTeam` -/

@[simp] theorem State.onTeam_mem (s : State) (id : Nat) (f : Team → Team) : (s.onTeam id f).mem = s.mem := rfl
@[simp] theorem State.onTeam_lost (s : State) (id : Nat) (f : Team → Team) : (s.onTeam id f).lost = s.lost := rfl
@[simp] theorem State.onTeam_cache (s : State) (id : Nat) (f : Team → Team) : (s.onTeam id f).cache = s.cache := rfl
@[simp] theorem State.onTeam_losses (s : State) (id : Nat) (f : Team → Team) : (s.onTeam id f).losses = s.losses := rfl
@[simp] theorem State.onTeam_groups (s : State) (id : Nat) (f : Team → Team) : (s.onTeam id f).groups = s.groups := rfl
@[simp] theorem State.onTeam_teams (s : State) (id : Nat) (f : Team → Team) : (s.onTeam id f).teams = mapIf s.teams (·.id == id) f := rfl
@[simp] theorem State.onTeam_grids (s : State) (id : Nat) (f : Team → Team) : (s.onTeam id f).grids = s.grids := rfl
@[simp] theorem State.onTeam_slots (s : State) (id : Nat) (f : Team → Team) : (s.onTeam id f).slots = s.slots := rfl
@[simp] theorem State.onTeam_cores (s : State) (id : Nat) (f : Team → Team) : (s.onTeam id f).cores = s.cores := rfl
@[simp] theorem State.onTeam_saved (s : State) (id : Nat) (f : Team → Team) : (s.onTeam id f).saved = s.saved := rfl
@[simp] theorem State.onTeam_threads (s : State) (id : Nat) (f : Team → Team) : (s.onTeam id f).threads = s.threads := rfl
@[simp] theorem State.onTeam_ctxs (s : State) (id : Nat) (f : Team → Team) : (s.onTeam id f).ctxs = s.ctxs := rfl
@[simp] theorem State.onTeam_queues (s : State) (id : Nat) (f : Team → Team) : (s.onTeam id f).queues = s.queues := rfl
@[simp] theorem State.onTeam_tlb (s : State) (id : Nat) (f : Team → Team) : (s.onTeam id f).tlb = s.tlb := rfl
@[simp] theorem State.onTeam_dies (s : State) (id : Nat) (f : Team → Team) : (s.onTeam id f).dies = s.dies := rfl
@[simp] theorem State.onTeam_mstacks (s : State) (id : Nat) (f : Team → Team) : (s.onTeam id f).mstacks = s.mstacks := rfl
@[simp] theorem State.onTeam_ports (s : State) (id : Nat) (f : Team → Team) : (s.onTeam id f).ports = s.ports := rfl
@[simp] theorem State.onTeam_fe (s : State) (id : Nat) (f : Team → Team) : (s.onTeam id f).fe = s.fe := rfl
@[simp] theorem State.onTeam_pkg (s : State) (id : Nat) (f : Team → Team) : (s.onTeam id f).pkg = s.pkg := rfl
@[simp] theorem State.onTeam_evSeq (s : State) (id : Nat) (f : Team → Team) : (s.onTeam id f).evSeq = s.evSeq := rfl
@[simp] theorem State.onTeam_nextGroup (s : State) (id : Nat) (f : Team → Team) : (s.onTeam id f).nextGroup = s.nextGroup := rfl
@[simp] theorem State.onTeam_nextTeam (s : State) (id : Nat) (f : Team → Team) : (s.onTeam id f).nextTeam = s.nextTeam := rfl
@[simp] theorem State.onTeam_nextThread (s : State) (id : Nat) (f : Team → Team) : (s.onTeam id f).nextThread = s.nextThread := rfl
@[simp] theorem State.onTeam_nextAge (s : State) (id : Nat) (f : Team → Team) : (s.onTeam id f).nextAge = s.nextAge := rfl
@[simp] theorem State.onTeam_cur (s : State) (id : Nat) (f : Team → Team) : (s.onTeam id f).cur = s.cur := rfl
@[simp] theorem State.onTeam_view (s : State) (id : Nat) (f : Team → Team) : (s.onTeam id f).view = s.view := rfl
@[simp] theorem State.onTeam_late (s : State) (id : Nat) (f : Team → Team) : (s.onTeam id f).late = s.late := rfl
@[simp] theorem State.onTeam_turn (s : State) (id : Nat) (f : Team → Team) : (s.onTeam id f).turn = s.turn := rfl
@[simp] theorem State.onTeam_agenda (s : State) (id : Nat) (f : Team → Team) : (s.onTeam id f).agenda = s.agenda := rfl
@[simp] theorem State.onTeam_free (s : State) (id : Nat) (f : Team → Team) : (s.onTeam id f).free = s.free := rfl

/-! ### `State.onGrid` -/

@[simp] theorem State.onGrid_mem (s : State) (id : Nat) (f : Grid → Grid) : (s.onGrid id f).mem = s.mem := rfl
@[simp] theorem State.onGrid_lost (s : State) (id : Nat) (f : Grid → Grid) : (s.onGrid id f).lost = s.lost := rfl
@[simp] theorem State.onGrid_cache (s : State) (id : Nat) (f : Grid → Grid) : (s.onGrid id f).cache = s.cache := rfl
@[simp] theorem State.onGrid_losses (s : State) (id : Nat) (f : Grid → Grid) : (s.onGrid id f).losses = s.losses := rfl
@[simp] theorem State.onGrid_groups (s : State) (id : Nat) (f : Grid → Grid) : (s.onGrid id f).groups = s.groups := rfl
@[simp] theorem State.onGrid_teams (s : State) (id : Nat) (f : Grid → Grid) : (s.onGrid id f).teams = s.teams := rfl
@[simp] theorem State.onGrid_grids (s : State) (id : Nat) (f : Grid → Grid) : (s.onGrid id f).grids = mapIf s.grids (·.id == id) f := rfl
@[simp] theorem State.onGrid_slots (s : State) (id : Nat) (f : Grid → Grid) : (s.onGrid id f).slots = s.slots := rfl
@[simp] theorem State.onGrid_cores (s : State) (id : Nat) (f : Grid → Grid) : (s.onGrid id f).cores = s.cores := rfl
@[simp] theorem State.onGrid_saved (s : State) (id : Nat) (f : Grid → Grid) : (s.onGrid id f).saved = s.saved := rfl
@[simp] theorem State.onGrid_threads (s : State) (id : Nat) (f : Grid → Grid) : (s.onGrid id f).threads = s.threads := rfl
@[simp] theorem State.onGrid_ctxs (s : State) (id : Nat) (f : Grid → Grid) : (s.onGrid id f).ctxs = s.ctxs := rfl
@[simp] theorem State.onGrid_queues (s : State) (id : Nat) (f : Grid → Grid) : (s.onGrid id f).queues = s.queues := rfl
@[simp] theorem State.onGrid_tlb (s : State) (id : Nat) (f : Grid → Grid) : (s.onGrid id f).tlb = s.tlb := rfl
@[simp] theorem State.onGrid_dies (s : State) (id : Nat) (f : Grid → Grid) : (s.onGrid id f).dies = s.dies := rfl
@[simp] theorem State.onGrid_mstacks (s : State) (id : Nat) (f : Grid → Grid) : (s.onGrid id f).mstacks = s.mstacks := rfl
@[simp] theorem State.onGrid_ports (s : State) (id : Nat) (f : Grid → Grid) : (s.onGrid id f).ports = s.ports := rfl
@[simp] theorem State.onGrid_fe (s : State) (id : Nat) (f : Grid → Grid) : (s.onGrid id f).fe = s.fe := rfl
@[simp] theorem State.onGrid_pkg (s : State) (id : Nat) (f : Grid → Grid) : (s.onGrid id f).pkg = s.pkg := rfl
@[simp] theorem State.onGrid_evSeq (s : State) (id : Nat) (f : Grid → Grid) : (s.onGrid id f).evSeq = s.evSeq := rfl
@[simp] theorem State.onGrid_nextGroup (s : State) (id : Nat) (f : Grid → Grid) : (s.onGrid id f).nextGroup = s.nextGroup := rfl
@[simp] theorem State.onGrid_nextTeam (s : State) (id : Nat) (f : Grid → Grid) : (s.onGrid id f).nextTeam = s.nextTeam := rfl
@[simp] theorem State.onGrid_nextThread (s : State) (id : Nat) (f : Grid → Grid) : (s.onGrid id f).nextThread = s.nextThread := rfl
@[simp] theorem State.onGrid_nextAge (s : State) (id : Nat) (f : Grid → Grid) : (s.onGrid id f).nextAge = s.nextAge := rfl
@[simp] theorem State.onGrid_cur (s : State) (id : Nat) (f : Grid → Grid) : (s.onGrid id f).cur = s.cur := rfl
@[simp] theorem State.onGrid_view (s : State) (id : Nat) (f : Grid → Grid) : (s.onGrid id f).view = s.view := rfl
@[simp] theorem State.onGrid_late (s : State) (id : Nat) (f : Grid → Grid) : (s.onGrid id f).late = s.late := rfl
@[simp] theorem State.onGrid_turn (s : State) (id : Nat) (f : Grid → Grid) : (s.onGrid id f).turn = s.turn := rfl
@[simp] theorem State.onGrid_agenda (s : State) (id : Nat) (f : Grid → Grid) : (s.onGrid id f).agenda = s.agenda := rfl
@[simp] theorem State.onGrid_free (s : State) (id : Nat) (f : Grid → Grid) : (s.onGrid id f).free = s.free := rfl

/-! ### `State.onCtx` -/

@[simp] theorem State.onCtx_mem (s : State) (id : Nat) (f : Ctx → Ctx) : (s.onCtx id f).mem = s.mem := rfl
@[simp] theorem State.onCtx_lost (s : State) (id : Nat) (f : Ctx → Ctx) : (s.onCtx id f).lost = s.lost := rfl
@[simp] theorem State.onCtx_cache (s : State) (id : Nat) (f : Ctx → Ctx) : (s.onCtx id f).cache = s.cache := rfl
@[simp] theorem State.onCtx_losses (s : State) (id : Nat) (f : Ctx → Ctx) : (s.onCtx id f).losses = s.losses := rfl
@[simp] theorem State.onCtx_groups (s : State) (id : Nat) (f : Ctx → Ctx) : (s.onCtx id f).groups = s.groups := rfl
@[simp] theorem State.onCtx_teams (s : State) (id : Nat) (f : Ctx → Ctx) : (s.onCtx id f).teams = s.teams := rfl
@[simp] theorem State.onCtx_grids (s : State) (id : Nat) (f : Ctx → Ctx) : (s.onCtx id f).grids = s.grids := rfl
@[simp] theorem State.onCtx_slots (s : State) (id : Nat) (f : Ctx → Ctx) : (s.onCtx id f).slots = s.slots := rfl
@[simp] theorem State.onCtx_cores (s : State) (id : Nat) (f : Ctx → Ctx) : (s.onCtx id f).cores = s.cores := rfl
@[simp] theorem State.onCtx_saved (s : State) (id : Nat) (f : Ctx → Ctx) : (s.onCtx id f).saved = s.saved := rfl
@[simp] theorem State.onCtx_threads (s : State) (id : Nat) (f : Ctx → Ctx) : (s.onCtx id f).threads = s.threads := rfl
@[simp] theorem State.onCtx_ctxs (s : State) (id : Nat) (f : Ctx → Ctx) : (s.onCtx id f).ctxs = mapIf s.ctxs (·.id == id) f := rfl
@[simp] theorem State.onCtx_queues (s : State) (id : Nat) (f : Ctx → Ctx) : (s.onCtx id f).queues = s.queues := rfl
@[simp] theorem State.onCtx_tlb (s : State) (id : Nat) (f : Ctx → Ctx) : (s.onCtx id f).tlb = s.tlb := rfl
@[simp] theorem State.onCtx_dies (s : State) (id : Nat) (f : Ctx → Ctx) : (s.onCtx id f).dies = s.dies := rfl
@[simp] theorem State.onCtx_mstacks (s : State) (id : Nat) (f : Ctx → Ctx) : (s.onCtx id f).mstacks = s.mstacks := rfl
@[simp] theorem State.onCtx_ports (s : State) (id : Nat) (f : Ctx → Ctx) : (s.onCtx id f).ports = s.ports := rfl
@[simp] theorem State.onCtx_fe (s : State) (id : Nat) (f : Ctx → Ctx) : (s.onCtx id f).fe = s.fe := rfl
@[simp] theorem State.onCtx_pkg (s : State) (id : Nat) (f : Ctx → Ctx) : (s.onCtx id f).pkg = s.pkg := rfl
@[simp] theorem State.onCtx_evSeq (s : State) (id : Nat) (f : Ctx → Ctx) : (s.onCtx id f).evSeq = s.evSeq := rfl
@[simp] theorem State.onCtx_nextGroup (s : State) (id : Nat) (f : Ctx → Ctx) : (s.onCtx id f).nextGroup = s.nextGroup := rfl
@[simp] theorem State.onCtx_nextTeam (s : State) (id : Nat) (f : Ctx → Ctx) : (s.onCtx id f).nextTeam = s.nextTeam := rfl
@[simp] theorem State.onCtx_nextThread (s : State) (id : Nat) (f : Ctx → Ctx) : (s.onCtx id f).nextThread = s.nextThread := rfl
@[simp] theorem State.onCtx_nextAge (s : State) (id : Nat) (f : Ctx → Ctx) : (s.onCtx id f).nextAge = s.nextAge := rfl
@[simp] theorem State.onCtx_cur (s : State) (id : Nat) (f : Ctx → Ctx) : (s.onCtx id f).cur = s.cur := rfl
@[simp] theorem State.onCtx_view (s : State) (id : Nat) (f : Ctx → Ctx) : (s.onCtx id f).view = s.view := rfl
@[simp] theorem State.onCtx_late (s : State) (id : Nat) (f : Ctx → Ctx) : (s.onCtx id f).late = s.late := rfl
@[simp] theorem State.onCtx_turn (s : State) (id : Nat) (f : Ctx → Ctx) : (s.onCtx id f).turn = s.turn := rfl
@[simp] theorem State.onCtx_agenda (s : State) (id : Nat) (f : Ctx → Ctx) : (s.onCtx id f).agenda = s.agenda := rfl
@[simp] theorem State.onCtx_free (s : State) (id : Nat) (f : Ctx → Ctx) : (s.onCtx id f).free = s.free := rfl

/-! ### `State.onQueue` -/

@[simp] theorem State.onQueue_mem (s : State) (id : Nat) (f : Queue → Queue) : (s.onQueue id f).mem = s.mem := rfl
@[simp] theorem State.onQueue_lost (s : State) (id : Nat) (f : Queue → Queue) : (s.onQueue id f).lost = s.lost := rfl
@[simp] theorem State.onQueue_cache (s : State) (id : Nat) (f : Queue → Queue) : (s.onQueue id f).cache = s.cache := rfl
@[simp] theorem State.onQueue_losses (s : State) (id : Nat) (f : Queue → Queue) : (s.onQueue id f).losses = s.losses := rfl
@[simp] theorem State.onQueue_groups (s : State) (id : Nat) (f : Queue → Queue) : (s.onQueue id f).groups = s.groups := rfl
@[simp] theorem State.onQueue_teams (s : State) (id : Nat) (f : Queue → Queue) : (s.onQueue id f).teams = s.teams := rfl
@[simp] theorem State.onQueue_grids (s : State) (id : Nat) (f : Queue → Queue) : (s.onQueue id f).grids = s.grids := rfl
@[simp] theorem State.onQueue_slots (s : State) (id : Nat) (f : Queue → Queue) : (s.onQueue id f).slots = s.slots := rfl
@[simp] theorem State.onQueue_cores (s : State) (id : Nat) (f : Queue → Queue) : (s.onQueue id f).cores = s.cores := rfl
@[simp] theorem State.onQueue_saved (s : State) (id : Nat) (f : Queue → Queue) : (s.onQueue id f).saved = s.saved := rfl
@[simp] theorem State.onQueue_threads (s : State) (id : Nat) (f : Queue → Queue) : (s.onQueue id f).threads = s.threads := rfl
@[simp] theorem State.onQueue_ctxs (s : State) (id : Nat) (f : Queue → Queue) : (s.onQueue id f).ctxs = s.ctxs := rfl
@[simp] theorem State.onQueue_queues (s : State) (id : Nat) (f : Queue → Queue) : (s.onQueue id f).queues = mapIf s.queues (·.id == id) f := rfl
@[simp] theorem State.onQueue_tlb (s : State) (id : Nat) (f : Queue → Queue) : (s.onQueue id f).tlb = s.tlb := rfl
@[simp] theorem State.onQueue_dies (s : State) (id : Nat) (f : Queue → Queue) : (s.onQueue id f).dies = s.dies := rfl
@[simp] theorem State.onQueue_mstacks (s : State) (id : Nat) (f : Queue → Queue) : (s.onQueue id f).mstacks = s.mstacks := rfl
@[simp] theorem State.onQueue_ports (s : State) (id : Nat) (f : Queue → Queue) : (s.onQueue id f).ports = s.ports := rfl
@[simp] theorem State.onQueue_fe (s : State) (id : Nat) (f : Queue → Queue) : (s.onQueue id f).fe = s.fe := rfl
@[simp] theorem State.onQueue_pkg (s : State) (id : Nat) (f : Queue → Queue) : (s.onQueue id f).pkg = s.pkg := rfl
@[simp] theorem State.onQueue_evSeq (s : State) (id : Nat) (f : Queue → Queue) : (s.onQueue id f).evSeq = s.evSeq := rfl
@[simp] theorem State.onQueue_nextGroup (s : State) (id : Nat) (f : Queue → Queue) : (s.onQueue id f).nextGroup = s.nextGroup := rfl
@[simp] theorem State.onQueue_nextTeam (s : State) (id : Nat) (f : Queue → Queue) : (s.onQueue id f).nextTeam = s.nextTeam := rfl
@[simp] theorem State.onQueue_nextThread (s : State) (id : Nat) (f : Queue → Queue) : (s.onQueue id f).nextThread = s.nextThread := rfl
@[simp] theorem State.onQueue_nextAge (s : State) (id : Nat) (f : Queue → Queue) : (s.onQueue id f).nextAge = s.nextAge := rfl
@[simp] theorem State.onQueue_cur (s : State) (id : Nat) (f : Queue → Queue) : (s.onQueue id f).cur = s.cur := rfl
@[simp] theorem State.onQueue_view (s : State) (id : Nat) (f : Queue → Queue) : (s.onQueue id f).view = s.view := rfl
@[simp] theorem State.onQueue_late (s : State) (id : Nat) (f : Queue → Queue) : (s.onQueue id f).late = s.late := rfl
@[simp] theorem State.onQueue_turn (s : State) (id : Nat) (f : Queue → Queue) : (s.onQueue id f).turn = s.turn := rfl
@[simp] theorem State.onQueue_agenda (s : State) (id : Nat) (f : Queue → Queue) : (s.onQueue id f).agenda = s.agenda := rfl
@[simp] theorem State.onQueue_free (s : State) (id : Nat) (f : Queue → Queue) : (s.onQueue id f).free = s.free := rfl

/-! ### `State.onThread` -/

@[simp] theorem State.onThread_mem (s : State) (id : Nat) (f : Thread → Thread) : (s.onThread id f).mem = s.mem := rfl
@[simp] theorem State.onThread_lost (s : State) (id : Nat) (f : Thread → Thread) : (s.onThread id f).lost = s.lost := rfl
@[simp] theorem State.onThread_cache (s : State) (id : Nat) (f : Thread → Thread) : (s.onThread id f).cache = s.cache := rfl
@[simp] theorem State.onThread_losses (s : State) (id : Nat) (f : Thread → Thread) : (s.onThread id f).losses = s.losses := rfl
@[simp] theorem State.onThread_groups (s : State) (id : Nat) (f : Thread → Thread) : (s.onThread id f).groups = s.groups := rfl
@[simp] theorem State.onThread_teams (s : State) (id : Nat) (f : Thread → Thread) : (s.onThread id f).teams = s.teams := rfl
@[simp] theorem State.onThread_grids (s : State) (id : Nat) (f : Thread → Thread) : (s.onThread id f).grids = s.grids := rfl
@[simp] theorem State.onThread_slots (s : State) (id : Nat) (f : Thread → Thread) : (s.onThread id f).slots = s.slots := rfl
@[simp] theorem State.onThread_cores (s : State) (id : Nat) (f : Thread → Thread) : (s.onThread id f).cores = s.cores := rfl
@[simp] theorem State.onThread_saved (s : State) (id : Nat) (f : Thread → Thread) : (s.onThread id f).saved = s.saved := rfl
@[simp] theorem State.onThread_threads (s : State) (id : Nat) (f : Thread → Thread) : (s.onThread id f).threads = mapIf s.threads (·.id == id) f := rfl
@[simp] theorem State.onThread_ctxs (s : State) (id : Nat) (f : Thread → Thread) : (s.onThread id f).ctxs = s.ctxs := rfl
@[simp] theorem State.onThread_queues (s : State) (id : Nat) (f : Thread → Thread) : (s.onThread id f).queues = s.queues := rfl
@[simp] theorem State.onThread_tlb (s : State) (id : Nat) (f : Thread → Thread) : (s.onThread id f).tlb = s.tlb := rfl
@[simp] theorem State.onThread_dies (s : State) (id : Nat) (f : Thread → Thread) : (s.onThread id f).dies = s.dies := rfl
@[simp] theorem State.onThread_mstacks (s : State) (id : Nat) (f : Thread → Thread) : (s.onThread id f).mstacks = s.mstacks := rfl
@[simp] theorem State.onThread_ports (s : State) (id : Nat) (f : Thread → Thread) : (s.onThread id f).ports = s.ports := rfl
@[simp] theorem State.onThread_fe (s : State) (id : Nat) (f : Thread → Thread) : (s.onThread id f).fe = s.fe := rfl
@[simp] theorem State.onThread_pkg (s : State) (id : Nat) (f : Thread → Thread) : (s.onThread id f).pkg = s.pkg := rfl
@[simp] theorem State.onThread_evSeq (s : State) (id : Nat) (f : Thread → Thread) : (s.onThread id f).evSeq = s.evSeq := rfl
@[simp] theorem State.onThread_nextGroup (s : State) (id : Nat) (f : Thread → Thread) : (s.onThread id f).nextGroup = s.nextGroup := rfl
@[simp] theorem State.onThread_nextTeam (s : State) (id : Nat) (f : Thread → Thread) : (s.onThread id f).nextTeam = s.nextTeam := rfl
@[simp] theorem State.onThread_nextThread (s : State) (id : Nat) (f : Thread → Thread) : (s.onThread id f).nextThread = s.nextThread := rfl
@[simp] theorem State.onThread_nextAge (s : State) (id : Nat) (f : Thread → Thread) : (s.onThread id f).nextAge = s.nextAge := rfl
@[simp] theorem State.onThread_cur (s : State) (id : Nat) (f : Thread → Thread) : (s.onThread id f).cur = s.cur := rfl
@[simp] theorem State.onThread_view (s : State) (id : Nat) (f : Thread → Thread) : (s.onThread id f).view = s.view := rfl
@[simp] theorem State.onThread_late (s : State) (id : Nat) (f : Thread → Thread) : (s.onThread id f).late = s.late := rfl
@[simp] theorem State.onThread_turn (s : State) (id : Nat) (f : Thread → Thread) : (s.onThread id f).turn = s.turn := rfl
@[simp] theorem State.onThread_agenda (s : State) (id : Nat) (f : Thread → Thread) : (s.onThread id f).agenda = s.agenda := rfl
@[simp] theorem State.onThread_free (s : State) (id : Nat) (f : Thread → Thread) : (s.onThread id f).free = s.free := rfl

/-! ### `State.onSlot` -/

@[simp] theorem State.onSlot_mem (s : State) (id : Nat) (f : BarSlot → BarSlot) : (s.onSlot id f).mem = s.mem := rfl
@[simp] theorem State.onSlot_lost (s : State) (id : Nat) (f : BarSlot → BarSlot) : (s.onSlot id f).lost = s.lost := rfl
@[simp] theorem State.onSlot_cache (s : State) (id : Nat) (f : BarSlot → BarSlot) : (s.onSlot id f).cache = s.cache := rfl
@[simp] theorem State.onSlot_losses (s : State) (id : Nat) (f : BarSlot → BarSlot) : (s.onSlot id f).losses = s.losses := rfl
@[simp] theorem State.onSlot_groups (s : State) (id : Nat) (f : BarSlot → BarSlot) : (s.onSlot id f).groups = s.groups := rfl
@[simp] theorem State.onSlot_teams (s : State) (id : Nat) (f : BarSlot → BarSlot) : (s.onSlot id f).teams = s.teams := rfl
@[simp] theorem State.onSlot_grids (s : State) (id : Nat) (f : BarSlot → BarSlot) : (s.onSlot id f).grids = s.grids := rfl
@[simp] theorem State.onSlot_slots (s : State) (id : Nat) (f : BarSlot → BarSlot) : (s.onSlot id f).slots = mapIf s.slots (·.id == id) f := rfl
@[simp] theorem State.onSlot_cores (s : State) (id : Nat) (f : BarSlot → BarSlot) : (s.onSlot id f).cores = s.cores := rfl
@[simp] theorem State.onSlot_saved (s : State) (id : Nat) (f : BarSlot → BarSlot) : (s.onSlot id f).saved = s.saved := rfl
@[simp] theorem State.onSlot_threads (s : State) (id : Nat) (f : BarSlot → BarSlot) : (s.onSlot id f).threads = s.threads := rfl
@[simp] theorem State.onSlot_ctxs (s : State) (id : Nat) (f : BarSlot → BarSlot) : (s.onSlot id f).ctxs = s.ctxs := rfl
@[simp] theorem State.onSlot_queues (s : State) (id : Nat) (f : BarSlot → BarSlot) : (s.onSlot id f).queues = s.queues := rfl
@[simp] theorem State.onSlot_tlb (s : State) (id : Nat) (f : BarSlot → BarSlot) : (s.onSlot id f).tlb = s.tlb := rfl
@[simp] theorem State.onSlot_dies (s : State) (id : Nat) (f : BarSlot → BarSlot) : (s.onSlot id f).dies = s.dies := rfl
@[simp] theorem State.onSlot_mstacks (s : State) (id : Nat) (f : BarSlot → BarSlot) : (s.onSlot id f).mstacks = s.mstacks := rfl
@[simp] theorem State.onSlot_ports (s : State) (id : Nat) (f : BarSlot → BarSlot) : (s.onSlot id f).ports = s.ports := rfl
@[simp] theorem State.onSlot_fe (s : State) (id : Nat) (f : BarSlot → BarSlot) : (s.onSlot id f).fe = s.fe := rfl
@[simp] theorem State.onSlot_pkg (s : State) (id : Nat) (f : BarSlot → BarSlot) : (s.onSlot id f).pkg = s.pkg := rfl
@[simp] theorem State.onSlot_evSeq (s : State) (id : Nat) (f : BarSlot → BarSlot) : (s.onSlot id f).evSeq = s.evSeq := rfl
@[simp] theorem State.onSlot_nextGroup (s : State) (id : Nat) (f : BarSlot → BarSlot) : (s.onSlot id f).nextGroup = s.nextGroup := rfl
@[simp] theorem State.onSlot_nextTeam (s : State) (id : Nat) (f : BarSlot → BarSlot) : (s.onSlot id f).nextTeam = s.nextTeam := rfl
@[simp] theorem State.onSlot_nextThread (s : State) (id : Nat) (f : BarSlot → BarSlot) : (s.onSlot id f).nextThread = s.nextThread := rfl
@[simp] theorem State.onSlot_nextAge (s : State) (id : Nat) (f : BarSlot → BarSlot) : (s.onSlot id f).nextAge = s.nextAge := rfl
@[simp] theorem State.onSlot_cur (s : State) (id : Nat) (f : BarSlot → BarSlot) : (s.onSlot id f).cur = s.cur := rfl
@[simp] theorem State.onSlot_view (s : State) (id : Nat) (f : BarSlot → BarSlot) : (s.onSlot id f).view = s.view := rfl
@[simp] theorem State.onSlot_late (s : State) (id : Nat) (f : BarSlot → BarSlot) : (s.onSlot id f).late = s.late := rfl
@[simp] theorem State.onSlot_turn (s : State) (id : Nat) (f : BarSlot → BarSlot) : (s.onSlot id f).turn = s.turn := rfl
@[simp] theorem State.onSlot_agenda (s : State) (id : Nat) (f : BarSlot → BarSlot) : (s.onSlot id f).agenda = s.agenda := rfl
@[simp] theorem State.onSlot_free (s : State) (id : Nat) (f : BarSlot → BarSlot) : (s.onSlot id f).free = s.free := rfl

/-! ### `State.onDie` -/

@[simp] theorem State.onDie_mem (s : State) (n : Nat) (f : Die → Die) : (s.onDie n f).mem = s.mem := rfl
@[simp] theorem State.onDie_lost (s : State) (n : Nat) (f : Die → Die) : (s.onDie n f).lost = s.lost := rfl
@[simp] theorem State.onDie_cache (s : State) (n : Nat) (f : Die → Die) : (s.onDie n f).cache = s.cache := rfl
@[simp] theorem State.onDie_losses (s : State) (n : Nat) (f : Die → Die) : (s.onDie n f).losses = s.losses := rfl
@[simp] theorem State.onDie_groups (s : State) (n : Nat) (f : Die → Die) : (s.onDie n f).groups = s.groups := rfl
@[simp] theorem State.onDie_teams (s : State) (n : Nat) (f : Die → Die) : (s.onDie n f).teams = s.teams := rfl
@[simp] theorem State.onDie_grids (s : State) (n : Nat) (f : Die → Die) : (s.onDie n f).grids = s.grids := rfl
@[simp] theorem State.onDie_slots (s : State) (n : Nat) (f : Die → Die) : (s.onDie n f).slots = s.slots := rfl
@[simp] theorem State.onDie_cores (s : State) (n : Nat) (f : Die → Die) : (s.onDie n f).cores = s.cores := rfl
@[simp] theorem State.onDie_saved (s : State) (n : Nat) (f : Die → Die) : (s.onDie n f).saved = s.saved := rfl
@[simp] theorem State.onDie_threads (s : State) (n : Nat) (f : Die → Die) : (s.onDie n f).threads = s.threads := rfl
@[simp] theorem State.onDie_ctxs (s : State) (n : Nat) (f : Die → Die) : (s.onDie n f).ctxs = s.ctxs := rfl
@[simp] theorem State.onDie_queues (s : State) (n : Nat) (f : Die → Die) : (s.onDie n f).queues = s.queues := rfl
@[simp] theorem State.onDie_tlb (s : State) (n : Nat) (f : Die → Die) : (s.onDie n f).tlb = s.tlb := rfl
@[simp] theorem State.onDie_dies (s : State) (n : Nat) (f : Die → Die) : (s.onDie n f).dies = mapIf s.dies (·.n == n) f := rfl
@[simp] theorem State.onDie_mstacks (s : State) (n : Nat) (f : Die → Die) : (s.onDie n f).mstacks = s.mstacks := rfl
@[simp] theorem State.onDie_ports (s : State) (n : Nat) (f : Die → Die) : (s.onDie n f).ports = s.ports := rfl
@[simp] theorem State.onDie_fe (s : State) (n : Nat) (f : Die → Die) : (s.onDie n f).fe = s.fe := rfl
@[simp] theorem State.onDie_pkg (s : State) (n : Nat) (f : Die → Die) : (s.onDie n f).pkg = s.pkg := rfl
@[simp] theorem State.onDie_evSeq (s : State) (n : Nat) (f : Die → Die) : (s.onDie n f).evSeq = s.evSeq := rfl
@[simp] theorem State.onDie_nextGroup (s : State) (n : Nat) (f : Die → Die) : (s.onDie n f).nextGroup = s.nextGroup := rfl
@[simp] theorem State.onDie_nextTeam (s : State) (n : Nat) (f : Die → Die) : (s.onDie n f).nextTeam = s.nextTeam := rfl
@[simp] theorem State.onDie_nextThread (s : State) (n : Nat) (f : Die → Die) : (s.onDie n f).nextThread = s.nextThread := rfl
@[simp] theorem State.onDie_nextAge (s : State) (n : Nat) (f : Die → Die) : (s.onDie n f).nextAge = s.nextAge := rfl
@[simp] theorem State.onDie_cur (s : State) (n : Nat) (f : Die → Die) : (s.onDie n f).cur = s.cur := rfl
@[simp] theorem State.onDie_view (s : State) (n : Nat) (f : Die → Die) : (s.onDie n f).view = s.view := rfl
@[simp] theorem State.onDie_late (s : State) (n : Nat) (f : Die → Die) : (s.onDie n f).late = s.late := rfl
@[simp] theorem State.onDie_turn (s : State) (n : Nat) (f : Die → Die) : (s.onDie n f).turn = s.turn := rfl
@[simp] theorem State.onDie_agenda (s : State) (n : Nat) (f : Die → Die) : (s.onDie n f).agenda = s.agenda := rfl
@[simp] theorem State.onDie_free (s : State) (n : Nat) (f : Die → Die) : (s.onDie n f).free = s.free := rfl

/-! ### `State.onStack` -/

@[simp] theorem State.onStack_mem (s : State) (n : Nat) (f : Stack → Stack) : (s.onStack n f).mem = s.mem := rfl
@[simp] theorem State.onStack_lost (s : State) (n : Nat) (f : Stack → Stack) : (s.onStack n f).lost = s.lost := rfl
@[simp] theorem State.onStack_cache (s : State) (n : Nat) (f : Stack → Stack) : (s.onStack n f).cache = s.cache := rfl
@[simp] theorem State.onStack_losses (s : State) (n : Nat) (f : Stack → Stack) : (s.onStack n f).losses = s.losses := rfl
@[simp] theorem State.onStack_groups (s : State) (n : Nat) (f : Stack → Stack) : (s.onStack n f).groups = s.groups := rfl
@[simp] theorem State.onStack_teams (s : State) (n : Nat) (f : Stack → Stack) : (s.onStack n f).teams = s.teams := rfl
@[simp] theorem State.onStack_grids (s : State) (n : Nat) (f : Stack → Stack) : (s.onStack n f).grids = s.grids := rfl
@[simp] theorem State.onStack_slots (s : State) (n : Nat) (f : Stack → Stack) : (s.onStack n f).slots = s.slots := rfl
@[simp] theorem State.onStack_cores (s : State) (n : Nat) (f : Stack → Stack) : (s.onStack n f).cores = s.cores := rfl
@[simp] theorem State.onStack_saved (s : State) (n : Nat) (f : Stack → Stack) : (s.onStack n f).saved = s.saved := rfl
@[simp] theorem State.onStack_threads (s : State) (n : Nat) (f : Stack → Stack) : (s.onStack n f).threads = s.threads := rfl
@[simp] theorem State.onStack_ctxs (s : State) (n : Nat) (f : Stack → Stack) : (s.onStack n f).ctxs = s.ctxs := rfl
@[simp] theorem State.onStack_queues (s : State) (n : Nat) (f : Stack → Stack) : (s.onStack n f).queues = s.queues := rfl
@[simp] theorem State.onStack_tlb (s : State) (n : Nat) (f : Stack → Stack) : (s.onStack n f).tlb = s.tlb := rfl
@[simp] theorem State.onStack_dies (s : State) (n : Nat) (f : Stack → Stack) : (s.onStack n f).dies = s.dies := rfl
@[simp] theorem State.onStack_mstacks (s : State) (n : Nat) (f : Stack → Stack) : (s.onStack n f).mstacks = mapIf s.mstacks (·.n == n) f := rfl
@[simp] theorem State.onStack_ports (s : State) (n : Nat) (f : Stack → Stack) : (s.onStack n f).ports = s.ports := rfl
@[simp] theorem State.onStack_fe (s : State) (n : Nat) (f : Stack → Stack) : (s.onStack n f).fe = s.fe := rfl
@[simp] theorem State.onStack_pkg (s : State) (n : Nat) (f : Stack → Stack) : (s.onStack n f).pkg = s.pkg := rfl
@[simp] theorem State.onStack_evSeq (s : State) (n : Nat) (f : Stack → Stack) : (s.onStack n f).evSeq = s.evSeq := rfl
@[simp] theorem State.onStack_nextGroup (s : State) (n : Nat) (f : Stack → Stack) : (s.onStack n f).nextGroup = s.nextGroup := rfl
@[simp] theorem State.onStack_nextTeam (s : State) (n : Nat) (f : Stack → Stack) : (s.onStack n f).nextTeam = s.nextTeam := rfl
@[simp] theorem State.onStack_nextThread (s : State) (n : Nat) (f : Stack → Stack) : (s.onStack n f).nextThread = s.nextThread := rfl
@[simp] theorem State.onStack_nextAge (s : State) (n : Nat) (f : Stack → Stack) : (s.onStack n f).nextAge = s.nextAge := rfl
@[simp] theorem State.onStack_cur (s : State) (n : Nat) (f : Stack → Stack) : (s.onStack n f).cur = s.cur := rfl
@[simp] theorem State.onStack_view (s : State) (n : Nat) (f : Stack → Stack) : (s.onStack n f).view = s.view := rfl
@[simp] theorem State.onStack_late (s : State) (n : Nat) (f : Stack → Stack) : (s.onStack n f).late = s.late := rfl
@[simp] theorem State.onStack_turn (s : State) (n : Nat) (f : Stack → Stack) : (s.onStack n f).turn = s.turn := rfl
@[simp] theorem State.onStack_agenda (s : State) (n : Nat) (f : Stack → Stack) : (s.onStack n f).agenda = s.agenda := rfl
@[simp] theorem State.onStack_free (s : State) (n : Nat) (f : Stack → Stack) : (s.onStack n f).free = s.free := rfl

/-! ### `State.onPort` -/

@[simp] theorem State.onPort_mem (s : State) (n : Nat) (f : Port → Port) : (s.onPort n f).mem = s.mem := rfl
@[simp] theorem State.onPort_lost (s : State) (n : Nat) (f : Port → Port) : (s.onPort n f).lost = s.lost := rfl
@[simp] theorem State.onPort_cache (s : State) (n : Nat) (f : Port → Port) : (s.onPort n f).cache = s.cache := rfl
@[simp] theorem State.onPort_losses (s : State) (n : Nat) (f : Port → Port) : (s.onPort n f).losses = s.losses := rfl
@[simp] theorem State.onPort_groups (s : State) (n : Nat) (f : Port → Port) : (s.onPort n f).groups = s.groups := rfl
@[simp] theorem State.onPort_teams (s : State) (n : Nat) (f : Port → Port) : (s.onPort n f).teams = s.teams := rfl
@[simp] theorem State.onPort_grids (s : State) (n : Nat) (f : Port → Port) : (s.onPort n f).grids = s.grids := rfl
@[simp] theorem State.onPort_slots (s : State) (n : Nat) (f : Port → Port) : (s.onPort n f).slots = s.slots := rfl
@[simp] theorem State.onPort_cores (s : State) (n : Nat) (f : Port → Port) : (s.onPort n f).cores = s.cores := rfl
@[simp] theorem State.onPort_saved (s : State) (n : Nat) (f : Port → Port) : (s.onPort n f).saved = s.saved := rfl
@[simp] theorem State.onPort_threads (s : State) (n : Nat) (f : Port → Port) : (s.onPort n f).threads = s.threads := rfl
@[simp] theorem State.onPort_ctxs (s : State) (n : Nat) (f : Port → Port) : (s.onPort n f).ctxs = s.ctxs := rfl
@[simp] theorem State.onPort_queues (s : State) (n : Nat) (f : Port → Port) : (s.onPort n f).queues = s.queues := rfl
@[simp] theorem State.onPort_tlb (s : State) (n : Nat) (f : Port → Port) : (s.onPort n f).tlb = s.tlb := rfl
@[simp] theorem State.onPort_dies (s : State) (n : Nat) (f : Port → Port) : (s.onPort n f).dies = s.dies := rfl
@[simp] theorem State.onPort_mstacks (s : State) (n : Nat) (f : Port → Port) : (s.onPort n f).mstacks = s.mstacks := rfl
@[simp] theorem State.onPort_ports (s : State) (n : Nat) (f : Port → Port) : (s.onPort n f).ports = mapIf s.ports (·.n == n) f := rfl
@[simp] theorem State.onPort_fe (s : State) (n : Nat) (f : Port → Port) : (s.onPort n f).fe = s.fe := rfl
@[simp] theorem State.onPort_pkg (s : State) (n : Nat) (f : Port → Port) : (s.onPort n f).pkg = s.pkg := rfl
@[simp] theorem State.onPort_evSeq (s : State) (n : Nat) (f : Port → Port) : (s.onPort n f).evSeq = s.evSeq := rfl
@[simp] theorem State.onPort_nextGroup (s : State) (n : Nat) (f : Port → Port) : (s.onPort n f).nextGroup = s.nextGroup := rfl
@[simp] theorem State.onPort_nextTeam (s : State) (n : Nat) (f : Port → Port) : (s.onPort n f).nextTeam = s.nextTeam := rfl
@[simp] theorem State.onPort_nextThread (s : State) (n : Nat) (f : Port → Port) : (s.onPort n f).nextThread = s.nextThread := rfl
@[simp] theorem State.onPort_nextAge (s : State) (n : Nat) (f : Port → Port) : (s.onPort n f).nextAge = s.nextAge := rfl
@[simp] theorem State.onPort_cur (s : State) (n : Nat) (f : Port → Port) : (s.onPort n f).cur = s.cur := rfl
@[simp] theorem State.onPort_view (s : State) (n : Nat) (f : Port → Port) : (s.onPort n f).view = s.view := rfl
@[simp] theorem State.onPort_late (s : State) (n : Nat) (f : Port → Port) : (s.onPort n f).late = s.late := rfl
@[simp] theorem State.onPort_turn (s : State) (n : Nat) (f : Port → Port) : (s.onPort n f).turn = s.turn := rfl
@[simp] theorem State.onPort_agenda (s : State) (n : Nat) (f : Port → Port) : (s.onPort n f).agenda = s.agenda := rfl
@[simp] theorem State.onPort_free (s : State) (n : Nat) (f : Port → Port) : (s.onPort n f).free = s.free := rfl

/-! ### `State.onFe` -/

@[simp] theorem State.onFe_mem (s : State) (f : FrontEnd → FrontEnd) : (s.onFe f).mem = s.mem := rfl
@[simp] theorem State.onFe_lost (s : State) (f : FrontEnd → FrontEnd) : (s.onFe f).lost = s.lost := rfl
@[simp] theorem State.onFe_cache (s : State) (f : FrontEnd → FrontEnd) : (s.onFe f).cache = s.cache := rfl
@[simp] theorem State.onFe_losses (s : State) (f : FrontEnd → FrontEnd) : (s.onFe f).losses = s.losses := rfl
@[simp] theorem State.onFe_groups (s : State) (f : FrontEnd → FrontEnd) : (s.onFe f).groups = s.groups := rfl
@[simp] theorem State.onFe_teams (s : State) (f : FrontEnd → FrontEnd) : (s.onFe f).teams = s.teams := rfl
@[simp] theorem State.onFe_grids (s : State) (f : FrontEnd → FrontEnd) : (s.onFe f).grids = s.grids := rfl
@[simp] theorem State.onFe_slots (s : State) (f : FrontEnd → FrontEnd) : (s.onFe f).slots = s.slots := rfl
@[simp] theorem State.onFe_cores (s : State) (f : FrontEnd → FrontEnd) : (s.onFe f).cores = s.cores := rfl
@[simp] theorem State.onFe_saved (s : State) (f : FrontEnd → FrontEnd) : (s.onFe f).saved = s.saved := rfl
@[simp] theorem State.onFe_threads (s : State) (f : FrontEnd → FrontEnd) : (s.onFe f).threads = s.threads := rfl
@[simp] theorem State.onFe_ctxs (s : State) (f : FrontEnd → FrontEnd) : (s.onFe f).ctxs = s.ctxs := rfl
@[simp] theorem State.onFe_queues (s : State) (f : FrontEnd → FrontEnd) : (s.onFe f).queues = s.queues := rfl
@[simp] theorem State.onFe_tlb (s : State) (f : FrontEnd → FrontEnd) : (s.onFe f).tlb = s.tlb := rfl
@[simp] theorem State.onFe_dies (s : State) (f : FrontEnd → FrontEnd) : (s.onFe f).dies = s.dies := rfl
@[simp] theorem State.onFe_mstacks (s : State) (f : FrontEnd → FrontEnd) : (s.onFe f).mstacks = s.mstacks := rfl
@[simp] theorem State.onFe_ports (s : State) (f : FrontEnd → FrontEnd) : (s.onFe f).ports = s.ports := rfl
@[simp] theorem State.onFe_fe (s : State) (f : FrontEnd → FrontEnd) : (s.onFe f).fe = f s.fe := rfl
@[simp] theorem State.onFe_pkg (s : State) (f : FrontEnd → FrontEnd) : (s.onFe f).pkg = s.pkg := rfl
@[simp] theorem State.onFe_evSeq (s : State) (f : FrontEnd → FrontEnd) : (s.onFe f).evSeq = s.evSeq := rfl
@[simp] theorem State.onFe_nextGroup (s : State) (f : FrontEnd → FrontEnd) : (s.onFe f).nextGroup = s.nextGroup := rfl
@[simp] theorem State.onFe_nextTeam (s : State) (f : FrontEnd → FrontEnd) : (s.onFe f).nextTeam = s.nextTeam := rfl
@[simp] theorem State.onFe_nextThread (s : State) (f : FrontEnd → FrontEnd) : (s.onFe f).nextThread = s.nextThread := rfl
@[simp] theorem State.onFe_nextAge (s : State) (f : FrontEnd → FrontEnd) : (s.onFe f).nextAge = s.nextAge := rfl
@[simp] theorem State.onFe_cur (s : State) (f : FrontEnd → FrontEnd) : (s.onFe f).cur = s.cur := rfl
@[simp] theorem State.onFe_view (s : State) (f : FrontEnd → FrontEnd) : (s.onFe f).view = s.view := rfl
@[simp] theorem State.onFe_late (s : State) (f : FrontEnd → FrontEnd) : (s.onFe f).late = s.late := rfl
@[simp] theorem State.onFe_turn (s : State) (f : FrontEnd → FrontEnd) : (s.onFe f).turn = s.turn := rfl
@[simp] theorem State.onFe_agenda (s : State) (f : FrontEnd → FrontEnd) : (s.onFe f).agenda = s.agenda := rfl
@[simp] theorem State.onFe_free (s : State) (f : FrontEnd → FrontEnd) : (s.onFe f).free = s.free := rfl

/-! ### `State.onPkg` -/

@[simp] theorem State.onPkg_mem (s : State) (f : Package → Package) : (s.onPkg f).mem = s.mem := rfl
@[simp] theorem State.onPkg_lost (s : State) (f : Package → Package) : (s.onPkg f).lost = s.lost := rfl
@[simp] theorem State.onPkg_cache (s : State) (f : Package → Package) : (s.onPkg f).cache = s.cache := rfl
@[simp] theorem State.onPkg_losses (s : State) (f : Package → Package) : (s.onPkg f).losses = s.losses := rfl
@[simp] theorem State.onPkg_groups (s : State) (f : Package → Package) : (s.onPkg f).groups = s.groups := rfl
@[simp] theorem State.onPkg_teams (s : State) (f : Package → Package) : (s.onPkg f).teams = s.teams := rfl
@[simp] theorem State.onPkg_grids (s : State) (f : Package → Package) : (s.onPkg f).grids = s.grids := rfl
@[simp] theorem State.onPkg_slots (s : State) (f : Package → Package) : (s.onPkg f).slots = s.slots := rfl
@[simp] theorem State.onPkg_cores (s : State) (f : Package → Package) : (s.onPkg f).cores = s.cores := rfl
@[simp] theorem State.onPkg_saved (s : State) (f : Package → Package) : (s.onPkg f).saved = s.saved := rfl
@[simp] theorem State.onPkg_threads (s : State) (f : Package → Package) : (s.onPkg f).threads = s.threads := rfl
@[simp] theorem State.onPkg_ctxs (s : State) (f : Package → Package) : (s.onPkg f).ctxs = s.ctxs := rfl
@[simp] theorem State.onPkg_queues (s : State) (f : Package → Package) : (s.onPkg f).queues = s.queues := rfl
@[simp] theorem State.onPkg_tlb (s : State) (f : Package → Package) : (s.onPkg f).tlb = s.tlb := rfl
@[simp] theorem State.onPkg_dies (s : State) (f : Package → Package) : (s.onPkg f).dies = s.dies := rfl
@[simp] theorem State.onPkg_mstacks (s : State) (f : Package → Package) : (s.onPkg f).mstacks = s.mstacks := rfl
@[simp] theorem State.onPkg_ports (s : State) (f : Package → Package) : (s.onPkg f).ports = s.ports := rfl
@[simp] theorem State.onPkg_fe (s : State) (f : Package → Package) : (s.onPkg f).fe = s.fe := rfl
@[simp] theorem State.onPkg_pkg (s : State) (f : Package → Package) : (s.onPkg f).pkg = f s.pkg := rfl
@[simp] theorem State.onPkg_evSeq (s : State) (f : Package → Package) : (s.onPkg f).evSeq = s.evSeq := rfl
@[simp] theorem State.onPkg_nextGroup (s : State) (f : Package → Package) : (s.onPkg f).nextGroup = s.nextGroup := rfl
@[simp] theorem State.onPkg_nextTeam (s : State) (f : Package → Package) : (s.onPkg f).nextTeam = s.nextTeam := rfl
@[simp] theorem State.onPkg_nextThread (s : State) (f : Package → Package) : (s.onPkg f).nextThread = s.nextThread := rfl
@[simp] theorem State.onPkg_nextAge (s : State) (f : Package → Package) : (s.onPkg f).nextAge = s.nextAge := rfl
@[simp] theorem State.onPkg_cur (s : State) (f : Package → Package) : (s.onPkg f).cur = s.cur := rfl
@[simp] theorem State.onPkg_view (s : State) (f : Package → Package) : (s.onPkg f).view = s.view := rfl
@[simp] theorem State.onPkg_late (s : State) (f : Package → Package) : (s.onPkg f).late = s.late := rfl
@[simp] theorem State.onPkg_turn (s : State) (f : Package → Package) : (s.onPkg f).turn = s.turn := rfl
@[simp] theorem State.onPkg_agenda (s : State) (f : Package → Package) : (s.onPkg f).agenda = s.agenda := rfl
@[simp] theorem State.onPkg_free (s : State) (f : Package → Package) : (s.onPkg f).free = s.free := rfl

/-! ### `State.nextSeqNo` -/

@[simp] theorem State.nextSeqNo_mem (s : State) : s.nextSeqNo.mem = s.mem := rfl
@[simp] theorem State.nextSeqNo_lost (s : State) : s.nextSeqNo.lost = s.lost := rfl
@[simp] theorem State.nextSeqNo_cache (s : State) : s.nextSeqNo.cache = s.cache := rfl
@[simp] theorem State.nextSeqNo_losses (s : State) : s.nextSeqNo.losses = s.losses := rfl
@[simp] theorem State.nextSeqNo_groups (s : State) : s.nextSeqNo.groups = s.groups := rfl
@[simp] theorem State.nextSeqNo_teams (s : State) : s.nextSeqNo.teams = s.teams := rfl
@[simp] theorem State.nextSeqNo_grids (s : State) : s.nextSeqNo.grids = s.grids := rfl
@[simp] theorem State.nextSeqNo_slots (s : State) : s.nextSeqNo.slots = s.slots := rfl
@[simp] theorem State.nextSeqNo_cores (s : State) : s.nextSeqNo.cores = s.cores := rfl
@[simp] theorem State.nextSeqNo_saved (s : State) : s.nextSeqNo.saved = s.saved := rfl
@[simp] theorem State.nextSeqNo_threads (s : State) : s.nextSeqNo.threads = s.threads := rfl
@[simp] theorem State.nextSeqNo_ctxs (s : State) : s.nextSeqNo.ctxs = s.ctxs := rfl
@[simp] theorem State.nextSeqNo_queues (s : State) : s.nextSeqNo.queues = s.queues := rfl
@[simp] theorem State.nextSeqNo_tlb (s : State) : s.nextSeqNo.tlb = s.tlb := rfl
@[simp] theorem State.nextSeqNo_dies (s : State) : s.nextSeqNo.dies = s.dies := rfl
@[simp] theorem State.nextSeqNo_mstacks (s : State) : s.nextSeqNo.mstacks = s.mstacks := rfl
@[simp] theorem State.nextSeqNo_ports (s : State) : s.nextSeqNo.ports = s.ports := rfl
@[simp] theorem State.nextSeqNo_fe (s : State) : s.nextSeqNo.fe = s.fe := rfl
@[simp] theorem State.nextSeqNo_pkg (s : State) : s.nextSeqNo.pkg = s.pkg := rfl
@[simp] theorem State.nextSeqNo_evSeq (s : State) : s.nextSeqNo.evSeq = s.evSeq + 1 := rfl
@[simp] theorem State.nextSeqNo_nextGroup (s : State) : s.nextSeqNo.nextGroup = s.nextGroup := rfl
@[simp] theorem State.nextSeqNo_nextTeam (s : State) : s.nextSeqNo.nextTeam = s.nextTeam := rfl
@[simp] theorem State.nextSeqNo_nextThread (s : State) : s.nextSeqNo.nextThread = s.nextThread := rfl
@[simp] theorem State.nextSeqNo_nextAge (s : State) : s.nextSeqNo.nextAge = s.nextAge := rfl
@[simp] theorem State.nextSeqNo_cur (s : State) : s.nextSeqNo.cur = s.cur := rfl
@[simp] theorem State.nextSeqNo_view (s : State) : s.nextSeqNo.view = s.view := rfl
@[simp] theorem State.nextSeqNo_late (s : State) : s.nextSeqNo.late = s.late := rfl
@[simp] theorem State.nextSeqNo_turn (s : State) : s.nextSeqNo.turn = s.turn := rfl
@[simp] theorem State.nextSeqNo_agenda (s : State) : s.nextSeqNo.agenda = s.agenda := rfl
@[simp] theorem State.nextSeqNo_free (s : State) : s.nextSeqNo.free = s.free := rfl

/-! ### `State.draw` -/

@[simp] theorem State.draw_mem (s : State) : s.draw.mem = s.mem := rfl
@[simp] theorem State.draw_lost (s : State) : s.draw.lost = s.lost := rfl
@[simp] theorem State.draw_cache (s : State) : s.draw.cache = s.cache := rfl
@[simp] theorem State.draw_losses (s : State) : s.draw.losses = s.losses := rfl
@[simp] theorem State.draw_groups (s : State) : s.draw.groups = s.groups := rfl
@[simp] theorem State.draw_teams (s : State) : s.draw.teams = s.teams := rfl
@[simp] theorem State.draw_grids (s : State) : s.draw.grids = s.grids := rfl
@[simp] theorem State.draw_slots (s : State) : s.draw.slots = s.slots := rfl
@[simp] theorem State.draw_cores (s : State) : s.draw.cores = s.cores := rfl
@[simp] theorem State.draw_saved (s : State) : s.draw.saved = s.saved := rfl
@[simp] theorem State.draw_threads (s : State) : s.draw.threads = s.threads := rfl
@[simp] theorem State.draw_ctxs (s : State) : s.draw.ctxs = s.ctxs := rfl
@[simp] theorem State.draw_queues (s : State) : s.draw.queues = s.queues := rfl
@[simp] theorem State.draw_tlb (s : State) : s.draw.tlb = s.tlb := rfl
@[simp] theorem State.draw_dies (s : State) : s.draw.dies = s.dies := rfl
@[simp] theorem State.draw_mstacks (s : State) : s.draw.mstacks = s.mstacks := rfl
@[simp] theorem State.draw_ports (s : State) : s.draw.ports = s.ports := rfl
@[simp] theorem State.draw_fe (s : State) : s.draw.fe = s.fe := rfl
@[simp] theorem State.draw_pkg (s : State) : s.draw.pkg = s.pkg := rfl
@[simp] theorem State.draw_evSeq (s : State) : s.draw.evSeq = s.evSeq := rfl
@[simp] theorem State.draw_nextGroup (s : State) : s.draw.nextGroup = s.nextGroup := rfl
@[simp] theorem State.draw_nextTeam (s : State) : s.draw.nextTeam = s.nextTeam := rfl
@[simp] theorem State.draw_nextThread (s : State) : s.draw.nextThread = s.nextThread := rfl
@[simp] theorem State.draw_nextAge (s : State) : s.draw.nextAge = s.nextAge := rfl
@[simp] theorem State.draw_cur (s : State) : s.draw.cur = s.cur := rfl
@[simp] theorem State.draw_view (s : State) : s.draw.view = s.view := rfl
@[simp] theorem State.draw_late (s : State) : s.draw.late = s.late := rfl
@[simp] theorem State.draw_turn (s : State) : s.draw.turn = s.turn := rfl
@[simp] theorem State.draw_agenda (s : State) : s.draw.agenda = s.agenda := rfl
@[simp] theorem State.draw_free (s : State) : s.draw.free = s.free + 1 := rfl

/-! ### `State.setPath` -/

@[simp] theorem State.setPath_mem (s : State) (g : Nat) (b : Bool) (p : Option Path) : (s.setPath g b p).mem = s.mem := rfl
@[simp] theorem State.setPath_lost (s : State) (g : Nat) (b : Bool) (p : Option Path) : (s.setPath g b p).lost = s.lost := rfl
@[simp] theorem State.setPath_cache (s : State) (g : Nat) (b : Bool) (p : Option Path) : (s.setPath g b p).cache = s.cache := rfl
@[simp] theorem State.setPath_losses (s : State) (g : Nat) (b : Bool) (p : Option Path) : (s.setPath g b p).losses = s.losses := rfl
@[simp] theorem State.setPath_teams (s : State) (g : Nat) (b : Bool) (p : Option Path) : (s.setPath g b p).teams = s.teams := rfl
@[simp] theorem State.setPath_grids (s : State) (g : Nat) (b : Bool) (p : Option Path) : (s.setPath g b p).grids = s.grids := rfl
@[simp] theorem State.setPath_slots (s : State) (g : Nat) (b : Bool) (p : Option Path) : (s.setPath g b p).slots = s.slots := rfl
@[simp] theorem State.setPath_cores (s : State) (g : Nat) (b : Bool) (p : Option Path) : (s.setPath g b p).cores = s.cores := rfl
@[simp] theorem State.setPath_saved (s : State) (g : Nat) (b : Bool) (p : Option Path) : (s.setPath g b p).saved = s.saved := rfl
@[simp] theorem State.setPath_threads (s : State) (g : Nat) (b : Bool) (p : Option Path) : (s.setPath g b p).threads = s.threads := rfl
@[simp] theorem State.setPath_ctxs (s : State) (g : Nat) (b : Bool) (p : Option Path) : (s.setPath g b p).ctxs = s.ctxs := rfl
@[simp] theorem State.setPath_queues (s : State) (g : Nat) (b : Bool) (p : Option Path) : (s.setPath g b p).queues = s.queues := rfl
@[simp] theorem State.setPath_tlb (s : State) (g : Nat) (b : Bool) (p : Option Path) : (s.setPath g b p).tlb = s.tlb := rfl
@[simp] theorem State.setPath_dies (s : State) (g : Nat) (b : Bool) (p : Option Path) : (s.setPath g b p).dies = s.dies := rfl
@[simp] theorem State.setPath_mstacks (s : State) (g : Nat) (b : Bool) (p : Option Path) : (s.setPath g b p).mstacks = s.mstacks := rfl
@[simp] theorem State.setPath_ports (s : State) (g : Nat) (b : Bool) (p : Option Path) : (s.setPath g b p).ports = s.ports := rfl
@[simp] theorem State.setPath_fe (s : State) (g : Nat) (b : Bool) (p : Option Path) : (s.setPath g b p).fe = s.fe := rfl
@[simp] theorem State.setPath_pkg (s : State) (g : Nat) (b : Bool) (p : Option Path) : (s.setPath g b p).pkg = s.pkg := rfl
@[simp] theorem State.setPath_evSeq (s : State) (g : Nat) (b : Bool) (p : Option Path) : (s.setPath g b p).evSeq = s.evSeq := rfl
@[simp] theorem State.setPath_nextGroup (s : State) (g : Nat) (b : Bool) (p : Option Path) : (s.setPath g b p).nextGroup = s.nextGroup := rfl
@[simp] theorem State.setPath_nextTeam (s : State) (g : Nat) (b : Bool) (p : Option Path) : (s.setPath g b p).nextTeam = s.nextTeam := rfl
@[simp] theorem State.setPath_nextThread (s : State) (g : Nat) (b : Bool) (p : Option Path) : (s.setPath g b p).nextThread = s.nextThread := rfl
@[simp] theorem State.setPath_nextAge (s : State) (g : Nat) (b : Bool) (p : Option Path) : (s.setPath g b p).nextAge = s.nextAge := rfl
@[simp] theorem State.setPath_cur (s : State) (g : Nat) (b : Bool) (p : Option Path) : (s.setPath g b p).cur = s.cur := rfl
@[simp] theorem State.setPath_view (s : State) (g : Nat) (b : Bool) (p : Option Path) : (s.setPath g b p).view = s.view := rfl
@[simp] theorem State.setPath_late (s : State) (g : Nat) (b : Bool) (p : Option Path) : (s.setPath g b p).late = s.late := rfl
@[simp] theorem State.setPath_turn (s : State) (g : Nat) (b : Bool) (p : Option Path) : (s.setPath g b p).turn = s.turn := rfl
@[simp] theorem State.setPath_agenda (s : State) (g : Nat) (b : Bool) (p : Option Path) : (s.setPath g b p).agenda = s.agenda := rfl
@[simp] theorem State.setPath_free (s : State) (g : Nat) (b : Bool) (p : Option Path) : (s.setPath g b p).free = s.free := rfl

/-! ### `State.onArch` -/

@[simp] theorem State.onArch_mem (s : State) (g : Nat) (f : Arch → Arch) : (s.onArch g f).mem = s.mem := rfl
@[simp] theorem State.onArch_lost (s : State) (g : Nat) (f : Arch → Arch) : (s.onArch g f).lost = s.lost := rfl
@[simp] theorem State.onArch_cache (s : State) (g : Nat) (f : Arch → Arch) : (s.onArch g f).cache = s.cache := rfl
@[simp] theorem State.onArch_losses (s : State) (g : Nat) (f : Arch → Arch) : (s.onArch g f).losses = s.losses := rfl
@[simp] theorem State.onArch_teams (s : State) (g : Nat) (f : Arch → Arch) : (s.onArch g f).teams = s.teams := rfl
@[simp] theorem State.onArch_grids (s : State) (g : Nat) (f : Arch → Arch) : (s.onArch g f).grids = s.grids := rfl
@[simp] theorem State.onArch_slots (s : State) (g : Nat) (f : Arch → Arch) : (s.onArch g f).slots = s.slots := rfl
@[simp] theorem State.onArch_cores (s : State) (g : Nat) (f : Arch → Arch) : (s.onArch g f).cores = s.cores := rfl
@[simp] theorem State.onArch_saved (s : State) (g : Nat) (f : Arch → Arch) : (s.onArch g f).saved = s.saved := rfl
@[simp] theorem State.onArch_threads (s : State) (g : Nat) (f : Arch → Arch) : (s.onArch g f).threads = s.threads := rfl
@[simp] theorem State.onArch_ctxs (s : State) (g : Nat) (f : Arch → Arch) : (s.onArch g f).ctxs = s.ctxs := rfl
@[simp] theorem State.onArch_queues (s : State) (g : Nat) (f : Arch → Arch) : (s.onArch g f).queues = s.queues := rfl
@[simp] theorem State.onArch_tlb (s : State) (g : Nat) (f : Arch → Arch) : (s.onArch g f).tlb = s.tlb := rfl
@[simp] theorem State.onArch_dies (s : State) (g : Nat) (f : Arch → Arch) : (s.onArch g f).dies = s.dies := rfl
@[simp] theorem State.onArch_mstacks (s : State) (g : Nat) (f : Arch → Arch) : (s.onArch g f).mstacks = s.mstacks := rfl
@[simp] theorem State.onArch_ports (s : State) (g : Nat) (f : Arch → Arch) : (s.onArch g f).ports = s.ports := rfl
@[simp] theorem State.onArch_fe (s : State) (g : Nat) (f : Arch → Arch) : (s.onArch g f).fe = s.fe := rfl
@[simp] theorem State.onArch_pkg (s : State) (g : Nat) (f : Arch → Arch) : (s.onArch g f).pkg = s.pkg := rfl
@[simp] theorem State.onArch_evSeq (s : State) (g : Nat) (f : Arch → Arch) : (s.onArch g f).evSeq = s.evSeq := rfl
@[simp] theorem State.onArch_nextGroup (s : State) (g : Nat) (f : Arch → Arch) : (s.onArch g f).nextGroup = s.nextGroup := rfl
@[simp] theorem State.onArch_nextTeam (s : State) (g : Nat) (f : Arch → Arch) : (s.onArch g f).nextTeam = s.nextTeam := rfl
@[simp] theorem State.onArch_nextThread (s : State) (g : Nat) (f : Arch → Arch) : (s.onArch g f).nextThread = s.nextThread := rfl
@[simp] theorem State.onArch_nextAge (s : State) (g : Nat) (f : Arch → Arch) : (s.onArch g f).nextAge = s.nextAge := rfl
@[simp] theorem State.onArch_cur (s : State) (g : Nat) (f : Arch → Arch) : (s.onArch g f).cur = s.cur := rfl
@[simp] theorem State.onArch_view (s : State) (g : Nat) (f : Arch → Arch) : (s.onArch g f).view = s.view := rfl
@[simp] theorem State.onArch_late (s : State) (g : Nat) (f : Arch → Arch) : (s.onArch g f).late = s.late := rfl
@[simp] theorem State.onArch_turn (s : State) (g : Nat) (f : Arch → Arch) : (s.onArch g f).turn = s.turn := rfl
@[simp] theorem State.onArch_agenda (s : State) (g : Nat) (f : Arch → Arch) : (s.onArch g f).agenda = s.agenda := rfl
@[simp] theorem State.onArch_free (s : State) (g : Nat) (f : Arch → Arch) : (s.onArch g f).free = s.free := rfl

/-! ### `State.onPath` -/

@[simp] theorem State.onPath_mem (s : State) (g : Nat) (b : Bool) (f : Path → Path) : (s.onPath g b f).mem = s.mem := rfl
@[simp] theorem State.onPath_lost (s : State) (g : Nat) (b : Bool) (f : Path → Path) : (s.onPath g b f).lost = s.lost := rfl
@[simp] theorem State.onPath_cache (s : State) (g : Nat) (b : Bool) (f : Path → Path) : (s.onPath g b f).cache = s.cache := rfl
@[simp] theorem State.onPath_losses (s : State) (g : Nat) (b : Bool) (f : Path → Path) : (s.onPath g b f).losses = s.losses := rfl
@[simp] theorem State.onPath_teams (s : State) (g : Nat) (b : Bool) (f : Path → Path) : (s.onPath g b f).teams = s.teams := rfl
@[simp] theorem State.onPath_grids (s : State) (g : Nat) (b : Bool) (f : Path → Path) : (s.onPath g b f).grids = s.grids := rfl
@[simp] theorem State.onPath_slots (s : State) (g : Nat) (b : Bool) (f : Path → Path) : (s.onPath g b f).slots = s.slots := rfl
@[simp] theorem State.onPath_cores (s : State) (g : Nat) (b : Bool) (f : Path → Path) : (s.onPath g b f).cores = s.cores := rfl
@[simp] theorem State.onPath_saved (s : State) (g : Nat) (b : Bool) (f : Path → Path) : (s.onPath g b f).saved = s.saved := rfl
@[simp] theorem State.onPath_threads (s : State) (g : Nat) (b : Bool) (f : Path → Path) : (s.onPath g b f).threads = s.threads := rfl
@[simp] theorem State.onPath_ctxs (s : State) (g : Nat) (b : Bool) (f : Path → Path) : (s.onPath g b f).ctxs = s.ctxs := rfl
@[simp] theorem State.onPath_queues (s : State) (g : Nat) (b : Bool) (f : Path → Path) : (s.onPath g b f).queues = s.queues := rfl
@[simp] theorem State.onPath_tlb (s : State) (g : Nat) (b : Bool) (f : Path → Path) : (s.onPath g b f).tlb = s.tlb := rfl
@[simp] theorem State.onPath_dies (s : State) (g : Nat) (b : Bool) (f : Path → Path) : (s.onPath g b f).dies = s.dies := rfl
@[simp] theorem State.onPath_mstacks (s : State) (g : Nat) (b : Bool) (f : Path → Path) : (s.onPath g b f).mstacks = s.mstacks := rfl
@[simp] theorem State.onPath_ports (s : State) (g : Nat) (b : Bool) (f : Path → Path) : (s.onPath g b f).ports = s.ports := rfl
@[simp] theorem State.onPath_fe (s : State) (g : Nat) (b : Bool) (f : Path → Path) : (s.onPath g b f).fe = s.fe := rfl
@[simp] theorem State.onPath_pkg (s : State) (g : Nat) (b : Bool) (f : Path → Path) : (s.onPath g b f).pkg = s.pkg := rfl
@[simp] theorem State.onPath_evSeq (s : State) (g : Nat) (b : Bool) (f : Path → Path) : (s.onPath g b f).evSeq = s.evSeq := rfl
@[simp] theorem State.onPath_nextGroup (s : State) (g : Nat) (b : Bool) (f : Path → Path) : (s.onPath g b f).nextGroup = s.nextGroup := rfl
@[simp] theorem State.onPath_nextTeam (s : State) (g : Nat) (b : Bool) (f : Path → Path) : (s.onPath g b f).nextTeam = s.nextTeam := rfl
@[simp] theorem State.onPath_nextThread (s : State) (g : Nat) (b : Bool) (f : Path → Path) : (s.onPath g b f).nextThread = s.nextThread := rfl
@[simp] theorem State.onPath_nextAge (s : State) (g : Nat) (b : Bool) (f : Path → Path) : (s.onPath g b f).nextAge = s.nextAge := rfl
@[simp] theorem State.onPath_cur (s : State) (g : Nat) (b : Bool) (f : Path → Path) : (s.onPath g b f).cur = s.cur := rfl
@[simp] theorem State.onPath_view (s : State) (g : Nat) (b : Bool) (f : Path → Path) : (s.onPath g b f).view = s.view := rfl
@[simp] theorem State.onPath_late (s : State) (g : Nat) (b : Bool) (f : Path → Path) : (s.onPath g b f).late = s.late := rfl
@[simp] theorem State.onPath_turn (s : State) (g : Nat) (b : Bool) (f : Path → Path) : (s.onPath g b f).turn = s.turn := rfl
@[simp] theorem State.onPath_agenda (s : State) (g : Nat) (b : Bool) (f : Path → Path) : (s.onPath g b f).agenda = s.agenda := rfl
@[simp] theorem State.onPath_free (s : State) (g : Nat) (b : Bool) (f : Path → Path) : (s.onPath g b f).free = s.free := rfl

/-! ### `State.park` -/

@[simp] theorem State.park_mem (s : State) (g : Nat) (b : Bool) (k : Option Park) : (s.park g b k).mem = s.mem := rfl
@[simp] theorem State.park_lost (s : State) (g : Nat) (b : Bool) (k : Option Park) : (s.park g b k).lost = s.lost := rfl
@[simp] theorem State.park_cache (s : State) (g : Nat) (b : Bool) (k : Option Park) : (s.park g b k).cache = s.cache := rfl
@[simp] theorem State.park_losses (s : State) (g : Nat) (b : Bool) (k : Option Park) : (s.park g b k).losses = s.losses := rfl
@[simp] theorem State.park_teams (s : State) (g : Nat) (b : Bool) (k : Option Park) : (s.park g b k).teams = s.teams := rfl
@[simp] theorem State.park_grids (s : State) (g : Nat) (b : Bool) (k : Option Park) : (s.park g b k).grids = s.grids := rfl
@[simp] theorem State.park_slots (s : State) (g : Nat) (b : Bool) (k : Option Park) : (s.park g b k).slots = s.slots := rfl
@[simp] theorem State.park_cores (s : State) (g : Nat) (b : Bool) (k : Option Park) : (s.park g b k).cores = s.cores := rfl
@[simp] theorem State.park_saved (s : State) (g : Nat) (b : Bool) (k : Option Park) : (s.park g b k).saved = s.saved := rfl
@[simp] theorem State.park_threads (s : State) (g : Nat) (b : Bool) (k : Option Park) : (s.park g b k).threads = s.threads := rfl
@[simp] theorem State.park_ctxs (s : State) (g : Nat) (b : Bool) (k : Option Park) : (s.park g b k).ctxs = s.ctxs := rfl
@[simp] theorem State.park_queues (s : State) (g : Nat) (b : Bool) (k : Option Park) : (s.park g b k).queues = s.queues := rfl
@[simp] theorem State.park_tlb (s : State) (g : Nat) (b : Bool) (k : Option Park) : (s.park g b k).tlb = s.tlb := rfl
@[simp] theorem State.park_dies (s : State) (g : Nat) (b : Bool) (k : Option Park) : (s.park g b k).dies = s.dies := rfl
@[simp] theorem State.park_mstacks (s : State) (g : Nat) (b : Bool) (k : Option Park) : (s.park g b k).mstacks = s.mstacks := rfl
@[simp] theorem State.park_ports (s : State) (g : Nat) (b : Bool) (k : Option Park) : (s.park g b k).ports = s.ports := rfl
@[simp] theorem State.park_fe (s : State) (g : Nat) (b : Bool) (k : Option Park) : (s.park g b k).fe = s.fe := rfl
@[simp] theorem State.park_pkg (s : State) (g : Nat) (b : Bool) (k : Option Park) : (s.park g b k).pkg = s.pkg := rfl
@[simp] theorem State.park_evSeq (s : State) (g : Nat) (b : Bool) (k : Option Park) : (s.park g b k).evSeq = s.evSeq := rfl
@[simp] theorem State.park_nextGroup (s : State) (g : Nat) (b : Bool) (k : Option Park) : (s.park g b k).nextGroup = s.nextGroup := rfl
@[simp] theorem State.park_nextTeam (s : State) (g : Nat) (b : Bool) (k : Option Park) : (s.park g b k).nextTeam = s.nextTeam := rfl
@[simp] theorem State.park_nextThread (s : State) (g : Nat) (b : Bool) (k : Option Park) : (s.park g b k).nextThread = s.nextThread := rfl
@[simp] theorem State.park_nextAge (s : State) (g : Nat) (b : Bool) (k : Option Park) : (s.park g b k).nextAge = s.nextAge := rfl
@[simp] theorem State.park_cur (s : State) (g : Nat) (b : Bool) (k : Option Park) : (s.park g b k).cur = s.cur := rfl
@[simp] theorem State.park_view (s : State) (g : Nat) (b : Bool) (k : Option Park) : (s.park g b k).view = s.view := rfl
@[simp] theorem State.park_late (s : State) (g : Nat) (b : Bool) (k : Option Park) : (s.park g b k).late = s.late := rfl
@[simp] theorem State.park_turn (s : State) (g : Nat) (b : Bool) (k : Option Park) : (s.park g b k).turn = s.turn := rfl
@[simp] theorem State.park_agenda (s : State) (g : Nat) (b : Bool) (k : Option Park) : (s.park g b k).agenda = s.agenda := rfl
@[simp] theorem State.park_free (s : State) (g : Nat) (b : Bool) (k : Option Park) : (s.park g b k).free = s.free := rfl

/-! ### `State.setCore` -/

@[simp] theorem State.setCore_mem (s : State) (c : Core) : (s.setCore c).mem = s.mem := by unfold State.setCore; split <;> rfl
@[simp] theorem State.setCore_lost (s : State) (c : Core) : (s.setCore c).lost = s.lost := by unfold State.setCore; split <;> rfl
@[simp] theorem State.setCore_cache (s : State) (c : Core) : (s.setCore c).cache = s.cache := by unfold State.setCore; split <;> rfl
@[simp] theorem State.setCore_losses (s : State) (c : Core) : (s.setCore c).losses = s.losses := by unfold State.setCore; split <;> rfl
@[simp] theorem State.setCore_groups (s : State) (c : Core) : (s.setCore c).groups = s.groups := by unfold State.setCore; split <;> rfl
@[simp] theorem State.setCore_teams (s : State) (c : Core) : (s.setCore c).teams = s.teams := by unfold State.setCore; split <;> rfl
@[simp] theorem State.setCore_grids (s : State) (c : Core) : (s.setCore c).grids = s.grids := by unfold State.setCore; split <;> rfl
@[simp] theorem State.setCore_slots (s : State) (c : Core) : (s.setCore c).slots = s.slots := by unfold State.setCore; split <;> rfl
@[simp] theorem State.setCore_saved (s : State) (c : Core) : (s.setCore c).saved = s.saved := by unfold State.setCore; split <;> rfl
@[simp] theorem State.setCore_threads (s : State) (c : Core) : (s.setCore c).threads = s.threads := by unfold State.setCore; split <;> rfl
@[simp] theorem State.setCore_ctxs (s : State) (c : Core) : (s.setCore c).ctxs = s.ctxs := by unfold State.setCore; split <;> rfl
@[simp] theorem State.setCore_queues (s : State) (c : Core) : (s.setCore c).queues = s.queues := by unfold State.setCore; split <;> rfl
@[simp] theorem State.setCore_tlb (s : State) (c : Core) : (s.setCore c).tlb = s.tlb := by unfold State.setCore; split <;> rfl
@[simp] theorem State.setCore_dies (s : State) (c : Core) : (s.setCore c).dies = s.dies := by unfold State.setCore; split <;> rfl
@[simp] theorem State.setCore_mstacks (s : State) (c : Core) : (s.setCore c).mstacks = s.mstacks := by unfold State.setCore; split <;> rfl
@[simp] theorem State.setCore_ports (s : State) (c : Core) : (s.setCore c).ports = s.ports := by unfold State.setCore; split <;> rfl
@[simp] theorem State.setCore_fe (s : State) (c : Core) : (s.setCore c).fe = s.fe := by unfold State.setCore; split <;> rfl
@[simp] theorem State.setCore_pkg (s : State) (c : Core) : (s.setCore c).pkg = s.pkg := by unfold State.setCore; split <;> rfl
@[simp] theorem State.setCore_evSeq (s : State) (c : Core) : (s.setCore c).evSeq = s.evSeq := by unfold State.setCore; split <;> rfl
@[simp] theorem State.setCore_nextGroup (s : State) (c : Core) : (s.setCore c).nextGroup = s.nextGroup := by unfold State.setCore; split <;> rfl
@[simp] theorem State.setCore_nextTeam (s : State) (c : Core) : (s.setCore c).nextTeam = s.nextTeam := by unfold State.setCore; split <;> rfl
@[simp] theorem State.setCore_nextThread (s : State) (c : Core) : (s.setCore c).nextThread = s.nextThread := by unfold State.setCore; split <;> rfl
@[simp] theorem State.setCore_nextAge (s : State) (c : Core) : (s.setCore c).nextAge = s.nextAge := by unfold State.setCore; split <;> rfl
@[simp] theorem State.setCore_cur (s : State) (c : Core) : (s.setCore c).cur = s.cur := by unfold State.setCore; split <;> rfl
@[simp] theorem State.setCore_view (s : State) (c : Core) : (s.setCore c).view = s.view := by unfold State.setCore; split <;> rfl
@[simp] theorem State.setCore_late (s : State) (c : Core) : (s.setCore c).late = s.late := by unfold State.setCore; split <;> rfl
@[simp] theorem State.setCore_turn (s : State) (c : Core) : (s.setCore c).turn = s.turn := by unfold State.setCore; split <;> rfl
@[simp] theorem State.setCore_agenda (s : State) (c : Core) : (s.setCore c).agenda = s.agenda := by unfold State.setCore; split <;> rfl
@[simp] theorem State.setCore_free (s : State) (c : Core) : (s.setCore c).free = s.free := by unfold State.setCore; split <;> rfl

/-! ### `State.onCore` -/

@[simp] theorem State.onCore_mem (s : State) (die site : Nat) (f : Core → Core) : (s.onCore die site f).mem = s.mem := State.setCore_mem s _
@[simp] theorem State.onCore_lost (s : State) (die site : Nat) (f : Core → Core) : (s.onCore die site f).lost = s.lost := State.setCore_lost s _
@[simp] theorem State.onCore_cache (s : State) (die site : Nat) (f : Core → Core) : (s.onCore die site f).cache = s.cache := State.setCore_cache s _
@[simp] theorem State.onCore_losses (s : State) (die site : Nat) (f : Core → Core) : (s.onCore die site f).losses = s.losses := State.setCore_losses s _
@[simp] theorem State.onCore_groups (s : State) (die site : Nat) (f : Core → Core) : (s.onCore die site f).groups = s.groups := State.setCore_groups s _
@[simp] theorem State.onCore_teams (s : State) (die site : Nat) (f : Core → Core) : (s.onCore die site f).teams = s.teams := State.setCore_teams s _
@[simp] theorem State.onCore_grids (s : State) (die site : Nat) (f : Core → Core) : (s.onCore die site f).grids = s.grids := State.setCore_grids s _
@[simp] theorem State.onCore_slots (s : State) (die site : Nat) (f : Core → Core) : (s.onCore die site f).slots = s.slots := State.setCore_slots s _
@[simp] theorem State.onCore_saved (s : State) (die site : Nat) (f : Core → Core) : (s.onCore die site f).saved = s.saved := State.setCore_saved s _
@[simp] theorem State.onCore_threads (s : State) (die site : Nat) (f : Core → Core) : (s.onCore die site f).threads = s.threads := State.setCore_threads s _
@[simp] theorem State.onCore_ctxs (s : State) (die site : Nat) (f : Core → Core) : (s.onCore die site f).ctxs = s.ctxs := State.setCore_ctxs s _
@[simp] theorem State.onCore_queues (s : State) (die site : Nat) (f : Core → Core) : (s.onCore die site f).queues = s.queues := State.setCore_queues s _
@[simp] theorem State.onCore_tlb (s : State) (die site : Nat) (f : Core → Core) : (s.onCore die site f).tlb = s.tlb := State.setCore_tlb s _
@[simp] theorem State.onCore_dies (s : State) (die site : Nat) (f : Core → Core) : (s.onCore die site f).dies = s.dies := State.setCore_dies s _
@[simp] theorem State.onCore_mstacks (s : State) (die site : Nat) (f : Core → Core) : (s.onCore die site f).mstacks = s.mstacks := State.setCore_mstacks s _
@[simp] theorem State.onCore_ports (s : State) (die site : Nat) (f : Core → Core) : (s.onCore die site f).ports = s.ports := State.setCore_ports s _
@[simp] theorem State.onCore_fe (s : State) (die site : Nat) (f : Core → Core) : (s.onCore die site f).fe = s.fe := State.setCore_fe s _
@[simp] theorem State.onCore_pkg (s : State) (die site : Nat) (f : Core → Core) : (s.onCore die site f).pkg = s.pkg := State.setCore_pkg s _
@[simp] theorem State.onCore_evSeq (s : State) (die site : Nat) (f : Core → Core) : (s.onCore die site f).evSeq = s.evSeq := State.setCore_evSeq s _
@[simp] theorem State.onCore_nextGroup (s : State) (die site : Nat) (f : Core → Core) : (s.onCore die site f).nextGroup = s.nextGroup := State.setCore_nextGroup s _
@[simp] theorem State.onCore_nextTeam (s : State) (die site : Nat) (f : Core → Core) : (s.onCore die site f).nextTeam = s.nextTeam := State.setCore_nextTeam s _
@[simp] theorem State.onCore_nextThread (s : State) (die site : Nat) (f : Core → Core) : (s.onCore die site f).nextThread = s.nextThread := State.setCore_nextThread s _
@[simp] theorem State.onCore_nextAge (s : State) (die site : Nat) (f : Core → Core) : (s.onCore die site f).nextAge = s.nextAge := State.setCore_nextAge s _
@[simp] theorem State.onCore_cur (s : State) (die site : Nat) (f : Core → Core) : (s.onCore die site f).cur = s.cur := State.setCore_cur s _
@[simp] theorem State.onCore_view (s : State) (die site : Nat) (f : Core → Core) : (s.onCore die site f).view = s.view := State.setCore_view s _
@[simp] theorem State.onCore_late (s : State) (die site : Nat) (f : Core → Core) : (s.onCore die site f).late = s.late := State.setCore_late s _
@[simp] theorem State.onCore_turn (s : State) (die site : Nat) (f : Core → Core) : (s.onCore die site f).turn = s.turn := State.setCore_turn s _
@[simp] theorem State.onCore_agenda (s : State) (die site : Nat) (f : Core → Core) : (s.onCore die site f).agenda = s.agenda := State.setCore_agenda s _
@[simp] theorem State.onCore_free (s : State) (die site : Nat) (f : Core → Core) : (s.onCore die site f).free = s.free := State.setCore_free s _

/-! ### `State.perf` -/

@[simp] theorem State.perf_mem (s : State) (die site ctx n k : Nat) : (s.perf die site ctx n k).mem = s.mem := by unfold State.perf; dsimp only; split <;> simp
@[simp] theorem State.perf_lost (s : State) (die site ctx n k : Nat) : (s.perf die site ctx n k).lost = s.lost := by unfold State.perf; dsimp only; split <;> simp
@[simp] theorem State.perf_cache (s : State) (die site ctx n k : Nat) : (s.perf die site ctx n k).cache = s.cache := by unfold State.perf; dsimp only; split <;> simp
@[simp] theorem State.perf_losses (s : State) (die site ctx n k : Nat) : (s.perf die site ctx n k).losses = s.losses := by unfold State.perf; dsimp only; split <;> simp
@[simp] theorem State.perf_groups (s : State) (die site ctx n k : Nat) : (s.perf die site ctx n k).groups = s.groups := by unfold State.perf; dsimp only; split <;> simp
@[simp] theorem State.perf_teams (s : State) (die site ctx n k : Nat) : (s.perf die site ctx n k).teams = s.teams := by unfold State.perf; dsimp only; split <;> simp
@[simp] theorem State.perf_grids (s : State) (die site ctx n k : Nat) : (s.perf die site ctx n k).grids = s.grids := by unfold State.perf; dsimp only; split <;> simp
@[simp] theorem State.perf_slots (s : State) (die site ctx n k : Nat) : (s.perf die site ctx n k).slots = s.slots := by unfold State.perf; dsimp only; split <;> simp
@[simp] theorem State.perf_saved (s : State) (die site ctx n k : Nat) : (s.perf die site ctx n k).saved = s.saved := by unfold State.perf; dsimp only; split <;> simp
@[simp] theorem State.perf_threads (s : State) (die site ctx n k : Nat) : (s.perf die site ctx n k).threads = s.threads := by unfold State.perf; dsimp only; split <;> simp
@[simp] theorem State.perf_ctxs (s : State) (die site ctx n k : Nat) : (s.perf die site ctx n k).ctxs = s.ctxs := by unfold State.perf; dsimp only; split <;> simp
@[simp] theorem State.perf_queues (s : State) (die site ctx n k : Nat) : (s.perf die site ctx n k).queues = s.queues := by unfold State.perf; dsimp only; split <;> simp
@[simp] theorem State.perf_tlb (s : State) (die site ctx n k : Nat) : (s.perf die site ctx n k).tlb = s.tlb := by unfold State.perf; dsimp only; split <;> simp
@[simp] theorem State.perf_dies (s : State) (die site ctx n k : Nat) : (s.perf die site ctx n k).dies = s.dies := by unfold State.perf; dsimp only; split <;> simp
@[simp] theorem State.perf_mstacks (s : State) (die site ctx n k : Nat) : (s.perf die site ctx n k).mstacks = s.mstacks := by unfold State.perf; dsimp only; split <;> simp
@[simp] theorem State.perf_ports (s : State) (die site ctx n k : Nat) : (s.perf die site ctx n k).ports = s.ports := by unfold State.perf; dsimp only; split <;> simp
@[simp] theorem State.perf_fe (s : State) (die site ctx n k : Nat) : (s.perf die site ctx n k).fe = s.fe := by unfold State.perf; dsimp only; split <;> simp
@[simp] theorem State.perf_pkg (s : State) (die site ctx n k : Nat) : (s.perf die site ctx n k).pkg = s.pkg := by unfold State.perf; dsimp only; split <;> simp
@[simp] theorem State.perf_evSeq (s : State) (die site ctx n k : Nat) : (s.perf die site ctx n k).evSeq = s.evSeq := by unfold State.perf; dsimp only; split <;> simp
@[simp] theorem State.perf_nextGroup (s : State) (die site ctx n k : Nat) : (s.perf die site ctx n k).nextGroup = s.nextGroup := by unfold State.perf; dsimp only; split <;> simp
@[simp] theorem State.perf_nextTeam (s : State) (die site ctx n k : Nat) : (s.perf die site ctx n k).nextTeam = s.nextTeam := by unfold State.perf; dsimp only; split <;> simp
@[simp] theorem State.perf_nextThread (s : State) (die site ctx n k : Nat) : (s.perf die site ctx n k).nextThread = s.nextThread := by unfold State.perf; dsimp only; split <;> simp
@[simp] theorem State.perf_nextAge (s : State) (die site ctx n k : Nat) : (s.perf die site ctx n k).nextAge = s.nextAge := by unfold State.perf; dsimp only; split <;> simp
@[simp] theorem State.perf_cur (s : State) (die site ctx n k : Nat) : (s.perf die site ctx n k).cur = s.cur := by unfold State.perf; dsimp only; split <;> simp
@[simp] theorem State.perf_view (s : State) (die site ctx n k : Nat) : (s.perf die site ctx n k).view = s.view := by unfold State.perf; dsimp only; split <;> simp
@[simp] theorem State.perf_late (s : State) (die site ctx n k : Nat) : (s.perf die site ctx n k).late = s.late := by unfold State.perf; dsimp only; split <;> simp
@[simp] theorem State.perf_turn (s : State) (die site ctx n k : Nat) : (s.perf die site ctx n k).turn = s.turn := by unfold State.perf; dsimp only; split <;> simp
@[simp] theorem State.perf_agenda (s : State) (die site ctx n k : Nat) : (s.perf die site ctx n k).agenda = s.agenda := by unfold State.perf; dsimp only; split <;> simp
@[simp] theorem State.perf_free (s : State) (die site ctx n k : Nat) : (s.perf die site ctx n k).free = s.free := by unfold State.perf; dsimp only; split <;> simp

/-! ### `State.perfGroup` -/

@[simp] theorem State.perfGroup_mem (s : State) (g : Group) (n k : Nat) : (s.perfGroup g n k).mem = s.mem := by unfold State.perfGroup; (repeat' split) <;> simp
@[simp] theorem State.perfGroup_lost (s : State) (g : Group) (n k : Nat) : (s.perfGroup g n k).lost = s.lost := by unfold State.perfGroup; (repeat' split) <;> simp
@[simp] theorem State.perfGroup_cache (s : State) (g : Group) (n k : Nat) : (s.perfGroup g n k).cache = s.cache := by unfold State.perfGroup; (repeat' split) <;> simp
@[simp] theorem State.perfGroup_losses (s : State) (g : Group) (n k : Nat) : (s.perfGroup g n k).losses = s.losses := by unfold State.perfGroup; (repeat' split) <;> simp
@[simp] theorem State.perfGroup_groups (s : State) (g : Group) (n k : Nat) : (s.perfGroup g n k).groups = s.groups := by unfold State.perfGroup; (repeat' split) <;> simp
@[simp] theorem State.perfGroup_teams (s : State) (g : Group) (n k : Nat) : (s.perfGroup g n k).teams = s.teams := by unfold State.perfGroup; (repeat' split) <;> simp
@[simp] theorem State.perfGroup_grids (s : State) (g : Group) (n k : Nat) : (s.perfGroup g n k).grids = s.grids := by unfold State.perfGroup; (repeat' split) <;> simp
@[simp] theorem State.perfGroup_slots (s : State) (g : Group) (n k : Nat) : (s.perfGroup g n k).slots = s.slots := by unfold State.perfGroup; (repeat' split) <;> simp
@[simp] theorem State.perfGroup_saved (s : State) (g : Group) (n k : Nat) : (s.perfGroup g n k).saved = s.saved := by unfold State.perfGroup; (repeat' split) <;> simp
@[simp] theorem State.perfGroup_threads (s : State) (g : Group) (n k : Nat) : (s.perfGroup g n k).threads = s.threads := by unfold State.perfGroup; (repeat' split) <;> simp
@[simp] theorem State.perfGroup_ctxs (s : State) (g : Group) (n k : Nat) : (s.perfGroup g n k).ctxs = s.ctxs := by unfold State.perfGroup; (repeat' split) <;> simp
@[simp] theorem State.perfGroup_queues (s : State) (g : Group) (n k : Nat) : (s.perfGroup g n k).queues = s.queues := by unfold State.perfGroup; (repeat' split) <;> simp
@[simp] theorem State.perfGroup_tlb (s : State) (g : Group) (n k : Nat) : (s.perfGroup g n k).tlb = s.tlb := by unfold State.perfGroup; (repeat' split) <;> simp
@[simp] theorem State.perfGroup_dies (s : State) (g : Group) (n k : Nat) : (s.perfGroup g n k).dies = s.dies := by unfold State.perfGroup; (repeat' split) <;> simp
@[simp] theorem State.perfGroup_mstacks (s : State) (g : Group) (n k : Nat) : (s.perfGroup g n k).mstacks = s.mstacks := by unfold State.perfGroup; (repeat' split) <;> simp
@[simp] theorem State.perfGroup_ports (s : State) (g : Group) (n k : Nat) : (s.perfGroup g n k).ports = s.ports := by unfold State.perfGroup; (repeat' split) <;> simp
@[simp] theorem State.perfGroup_fe (s : State) (g : Group) (n k : Nat) : (s.perfGroup g n k).fe = s.fe := by unfold State.perfGroup; (repeat' split) <;> simp
@[simp] theorem State.perfGroup_pkg (s : State) (g : Group) (n k : Nat) : (s.perfGroup g n k).pkg = s.pkg := by unfold State.perfGroup; (repeat' split) <;> simp
@[simp] theorem State.perfGroup_evSeq (s : State) (g : Group) (n k : Nat) : (s.perfGroup g n k).evSeq = s.evSeq := by unfold State.perfGroup; (repeat' split) <;> simp
@[simp] theorem State.perfGroup_nextGroup (s : State) (g : Group) (n k : Nat) : (s.perfGroup g n k).nextGroup = s.nextGroup := by unfold State.perfGroup; (repeat' split) <;> simp
@[simp] theorem State.perfGroup_nextTeam (s : State) (g : Group) (n k : Nat) : (s.perfGroup g n k).nextTeam = s.nextTeam := by unfold State.perfGroup; (repeat' split) <;> simp
@[simp] theorem State.perfGroup_nextThread (s : State) (g : Group) (n k : Nat) : (s.perfGroup g n k).nextThread = s.nextThread := by unfold State.perfGroup; (repeat' split) <;> simp
@[simp] theorem State.perfGroup_nextAge (s : State) (g : Group) (n k : Nat) : (s.perfGroup g n k).nextAge = s.nextAge := by unfold State.perfGroup; (repeat' split) <;> simp
@[simp] theorem State.perfGroup_cur (s : State) (g : Group) (n k : Nat) : (s.perfGroup g n k).cur = s.cur := by unfold State.perfGroup; (repeat' split) <;> simp
@[simp] theorem State.perfGroup_view (s : State) (g : Group) (n k : Nat) : (s.perfGroup g n k).view = s.view := by unfold State.perfGroup; (repeat' split) <;> simp
@[simp] theorem State.perfGroup_late (s : State) (g : Group) (n k : Nat) : (s.perfGroup g n k).late = s.late := by unfold State.perfGroup; (repeat' split) <;> simp
@[simp] theorem State.perfGroup_turn (s : State) (g : Group) (n k : Nat) : (s.perfGroup g n k).turn = s.turn := by unfold State.perfGroup; (repeat' split) <;> simp
@[simp] theorem State.perfGroup_agenda (s : State) (g : Group) (n k : Nat) : (s.perfGroup g n k).agenda = s.agenda := by unfold State.perfGroup; (repeat' split) <;> simp
@[simp] theorem State.perfGroup_free (s : State) (g : Group) (n k : Nat) : (s.perfGroup g n k).free = s.free := by unfold State.perfGroup; (repeat' split) <;> simp

/-! ### `State.tick` -/

@[simp] theorem State.tick_mem (s : State) (t : Team) : (s.tick t).mem = s.mem := by unfold State.tick; simp
@[simp] theorem State.tick_lost (s : State) (t : Team) : (s.tick t).lost = s.lost := by unfold State.tick; simp
@[simp] theorem State.tick_cache (s : State) (t : Team) : (s.tick t).cache = s.cache := by unfold State.tick; simp
@[simp] theorem State.tick_losses (s : State) (t : Team) : (s.tick t).losses = s.losses := by unfold State.tick; simp
@[simp] theorem State.tick_groups (s : State) (t : Team) : (s.tick t).groups = s.groups := by unfold State.tick; simp
@[simp] theorem State.tick_teams (s : State) (t : Team) : (s.tick t).teams = s.teams := by unfold State.tick; simp
@[simp] theorem State.tick_grids (s : State) (t : Team) : (s.tick t).grids = s.grids := by unfold State.tick; simp
@[simp] theorem State.tick_slots (s : State) (t : Team) : (s.tick t).slots = s.slots := by unfold State.tick; simp
@[simp] theorem State.tick_saved (s : State) (t : Team) : (s.tick t).saved = s.saved := by unfold State.tick; simp
@[simp] theorem State.tick_threads (s : State) (t : Team) : (s.tick t).threads = s.threads := by unfold State.tick; simp
@[simp] theorem State.tick_ctxs (s : State) (t : Team) : (s.tick t).ctxs = s.ctxs := by unfold State.tick; simp
@[simp] theorem State.tick_queues (s : State) (t : Team) : (s.tick t).queues = s.queues := by unfold State.tick; simp
@[simp] theorem State.tick_tlb (s : State) (t : Team) : (s.tick t).tlb = s.tlb := by unfold State.tick; simp
@[simp] theorem State.tick_dies (s : State) (t : Team) : (s.tick t).dies = s.dies := by unfold State.tick; simp
@[simp] theorem State.tick_mstacks (s : State) (t : Team) : (s.tick t).mstacks = s.mstacks := by unfold State.tick; simp
@[simp] theorem State.tick_ports (s : State) (t : Team) : (s.tick t).ports = s.ports := by unfold State.tick; simp
@[simp] theorem State.tick_fe (s : State) (t : Team) : (s.tick t).fe = s.fe := by unfold State.tick; simp
@[simp] theorem State.tick_pkg (s : State) (t : Team) : (s.tick t).pkg = s.pkg := by unfold State.tick; simp
@[simp] theorem State.tick_evSeq (s : State) (t : Team) : (s.tick t).evSeq = s.evSeq := by unfold State.tick; simp
@[simp] theorem State.tick_nextGroup (s : State) (t : Team) : (s.tick t).nextGroup = s.nextGroup := by unfold State.tick; simp
@[simp] theorem State.tick_nextTeam (s : State) (t : Team) : (s.tick t).nextTeam = s.nextTeam := by unfold State.tick; simp
@[simp] theorem State.tick_nextThread (s : State) (t : Team) : (s.tick t).nextThread = s.nextThread := by unfold State.tick; simp
@[simp] theorem State.tick_nextAge (s : State) (t : Team) : (s.tick t).nextAge = s.nextAge := by unfold State.tick; simp
@[simp] theorem State.tick_cur (s : State) (t : Team) : (s.tick t).cur = s.cur := by unfold State.tick; simp
@[simp] theorem State.tick_view (s : State) (t : Team) : (s.tick t).view = s.view := by unfold State.tick; simp
@[simp] theorem State.tick_late (s : State) (t : Team) : (s.tick t).late = s.late := by unfold State.tick; simp
@[simp] theorem State.tick_turn (s : State) (t : Team) : (s.tick t).turn = s.turn := by unfold State.tick; simp
@[simp] theorem State.tick_agenda (s : State) (t : Team) : (s.tick t).agenda = s.agenda := by unfold State.tick; simp

end Sys2Proof.Machine
end

