-- ==== Sys2Proof/Laws/Issue.lean ====
section
/-!
SUPPORT. What the issue of an instruction does: the one way through `run` that has the instruction's own effect, what retiring and
accounting leave alone, and the group in which the effect stands.
-/
namespace Sys2Proof.Machine

/-! ### Finding and replacing -/

theorem find?_map_key {α : Type} (l : List α) (p : α → Bool) (f : α → α) (h : ∀ x, p (f x) = p x) :
    (l.map f).find? p = (l.find? p).map f := by
  induction l with
  | nil => rfl
  | cons x r ih => simp only [List.map_cons, List.find?_cons, h]; split <;> simp [*]

theorem find?_mapIf {α : Type} (l : List α) (p : α → Bool) (f : α → α) (h : ∀ x, p x = true → p (f x) = true) :
    (mapIf l p f).find? p = (l.find? p).map f := by
  induction l with
  | nil => rfl
  | cons x r ih =>
    unfold mapIf at ih ⊢
    simp only [List.map_cons, List.find?_cons]
    by_cases hx : p x = true
    · simp [hx, h x hx]
    · simp only [hx, Bool.false_eq_true, if_false]; exact ih

theorem State.group?_onGroup (s : State) (n : Nat) (f : Group → Group) (h : ∀ g, (f g).id = g.id) :
    (s.onGroup n f).group? n = (s.group? n).map f := by
  unfold State.group? State.onGroup
  exact find?_mapIf _ _ _ fun x hx => by simpa [h] using hx

theorem State.group?_onArch (s : State) (n : Nat) (f : Arch → Arch) :
    (s.onArch n f).group? n = (s.group? n).map fun g => { g with arch := f g.arch } :=
  State.group?_onGroup s n _ fun _ => rfl

theorem State.group?_congr {s t : State} (h : s.groups = t.groups) (n : Nat) : s.group? n = t.group? n := by
  unfold State.group?; rw [h]

theorem State.core_setCore (s : State) (c : Core) (die site : Nat) :
    (s.setCore c).core die site = if c.die = die ∧ c.site = site then c else s.core die site := by
  unfold State.setCore State.core
  split
  · next h =>
    simp only [mapIf]
    by_cases hc : c.die = die ∧ c.site = site
    · rw [if_pos hc]
      obtain ⟨rfl, rfl⟩ := hc
      rw [← mapIf, find?_mapIf _ _ _ (by simp)]
      obtain ⟨d, hd⟩ : ∃ d, List.find? (fun d : Core => d.die == c.die && d.site == c.site) s.cores = some d := by
        rw [← Option.isSome_iff_exists, List.find?_isSome]
        simpa using h
      simp [hd]
    · rw [if_neg hc]
      congr 1
      generalize s.cores = l
      induction l with
      | nil => rfl
      | cons x r ih =>
        simp only [List.map_cons, List.find?_cons]
        by_cases hx : (x.die == c.die && x.site == c.site) = true
        · simp only [hx, if_true]
          simp only [Bool.and_eq_true, beq_iff_eq] at hx
          have h1 : (c.die == die && c.site == site) = false := by simpa using hc
          have h2 : (x.die == die && x.site == site) = false := by rw [hx.1, hx.2]; exact h1
          simp only [h1, h2]; exact ih
        · simp only [hx, Bool.false_eq_true, if_false]
          split
          · rfl
          · exact ih
  · next h =>
    rw [List.find?_append]
    by_cases hc : c.die = die ∧ c.site = site
    · obtain ⟨rfl, rfl⟩ := hc
      rw [if_pos ⟨rfl, rfl⟩]
      have : List.find? (fun d : Core => d.die == c.die && d.site == c.site) s.cores = none := by
        rw [List.find?_eq_none]
        intro x hx hp
        exact h (List.any_eq_true.mpr ⟨x, hx, hp⟩)
      simp [this]
    · rw [if_neg hc]
      have h1 : (c.die == die && c.site == site) = false := by simpa using hc
      simp [h1]

/-- A core replaced under its own name is found again. -/
theorem State.core_onCore (s : State) (die site : Nat) (f : Core → Core) (h : ∀ c, (f c).die = c.die ∧ (f c).site = c.site) (d q : Nat)
    (hk : (s.core die site).die = die ∧ (s.core die site).site = site) :
    (s.onCore die site f).core d q = if d = die ∧ q = site then f (s.core die site) else s.core d q := by
  unfold State.onCore
  rw [State.core_setCore, (h _).1, (h _).2, hk.1, hk.2]
  simp only [eq_comm]

theorem State.core_name (s : State) (die site : Nat) : (s.core die site).die = die ∧ (s.core die site).site = site := by
  unfold State.core
  cases h : List.find? (fun c : Core => c.die == die && c.site == site) s.cores with
  | none => simp [Core.reset]
  | some c => simpa using List.find?_some h

/-! ### The way through `run` -/

/-- A path that issues finds its group, its team and itself. -/
theorem State.here_group {s : State} {h : Here} (e : s.here = some h) : s.group? h.g.id = some h.g := by
  unfold State.here at e
  split at e
  · cases e
  · next g hg =>
    split at e
    · split at e
      · cases e
        have : g.id = s.cur.1 := by simpa using List.find?_some hg
        simpa [this] using hg
      · cases e
    · cases e

theorem State.here_path {s : State} {h : Here} (e : s.here = some h) : h.a.path h.slot = some h.p := by
  unfold State.here at e
  split at e
  · cases e
  · split at e
    · next hp =>
      split at e
      · cases e; exact hp
      · cases e
    · cases e

/-- A path that issues answers a next state, whatever the instruction does with it. -/
theorem run_next {s : State} {h : Here} (i : Instr) (p : Plan) (e : s.here = some h) : ∃ t, run i p s = .next t := by
  unfold run
  rw [e]
  dsimp only
  (repeat' split) <;> exact ⟨_, rfl⟩

/-- An instruction that is clear to issue, with no fault of its own and nothing to wait for, retires with its effect. -/
theorem run_effect {s : State} {h : Here} {i : Instr} {p : Plan} (c : Clear s h i p.allUses p.raises) (hs : p.stall s h = false)
    (he : p.early s h = none) (hl : p.late s h = none) (hh : p.hold s h = none) (hd : p.loss s h = none) :
    run i p s = .next ((p.act h (s.retire h i p)).account h i (h.active p.guard)) := by
  have hn : ¬(p.raises = .ka false ∧ h.p.counter p.raises = none) := fun q => c.named q.1 q.2
  have hf : s.issueFault h i p = none := by
    unfold State.issueFault
    simp only [c.length, he, hl, c.regs, Bool.false_eq_true, if_false, Bool.and_eq_true, decide_eq_true_eq, if_neg hn]
    rfl
  unfold run
  simp only [c.here, hs, hf, hh, c.counter, hd, c.sound, Bool.false_eq_true, if_false]
  rfl

/-- An instruction of which no rule is broken but one of its own that is checked last takes that fault. -/
theorem run_late {s : State} {h : Here} {i : Instr} {p : Plan} {r : Report} (e : s.here = some h) (hb : h.p.badLength i = false)
    (hr : h.a.regFaults p.allUses = none) (hn : ¬(p.raises = .ka false ∧ h.p.counter p.raises = none)) (hs : p.stall s h = false)
    (he : p.early s h = none) (hl : p.late s h = some r) :
    run i p s = .next (s.raise h.g h.slot h.p.pc i.first r) := by
  have hf : s.issueFault h i p = some r := by
    unfold State.issueFault
    simp only [hb, he, hl, hr, Bool.false_eq_true, if_false, Bool.and_eq_true, decide_eq_true_eq, if_neg hn]
    rfl
  unfold run
  simp only [e, hs, hf, Bool.false_eq_true, if_false]

/-! ### What accounting leaves alone -/

/-- States that agree on every field but those that accounting changes. -/
theorem State.same_but_counts {s t : State} (h : t.mem = s.mem ∧ t.lost = s.lost ∧ t.cache = s.cache ∧ t.losses = s.losses ∧ t.grids = s.grids ∧
    t.slots = s.slots ∧ t.saved = s.saved ∧ t.threads = s.threads ∧ t.ctxs = s.ctxs ∧ t.queues = s.queues ∧ t.tlb = s.tlb ∧ t.dies = s.dies ∧
    t.mstacks = s.mstacks ∧ t.ports = s.ports ∧ t.fe = s.fe ∧ t.pkg = s.pkg ∧ t.evSeq = s.evSeq ∧ t.nextGroup = s.nextGroup ∧
    t.nextTeam = s.nextTeam ∧ t.nextThread = s.nextThread ∧ t.nextAge = s.nextAge ∧ t.cur = s.cur ∧ t.view = s.view ∧ t.late = s.late ∧
    t.turn = s.turn ∧ t.agenda = s.agenda) :
    { t with groups := s.groups, teams := s.teams, cores := s.cores, free := s.free } = s := by
  cases t; cases s; simp_all

theorem State.count_fields (s : State) (h : Here) (i : Instr) (act : Word) :
    { s.count h i act with groups := s.groups, teams := s.teams, cores := s.cores, free := s.free } = s := by
  apply State.same_but_counts
  unfold State.count
  dsimp only
  split <;> simp

theorem State.account_fields (s : State) (h : Here) (i : Instr) (act : Word) :
    { s.account h i act with groups := s.groups, teams := s.teams, cores := s.cores, free := s.free } = s := by
  have hc := State.count_fields s h i act
  unfold State.account
  generalize s.count h i act = c at hc ⊢
  dsimp only
  rw [← hc]
  apply State.same_but_counts
  split <;> simp

theorem State.account_groups (s : State) (h : Here) (i : Instr) (act : Word) : (s.account h i act).groups = (s.count h i act).groups := by
  unfold State.account
  dsimp only
  split
  · rfl
  · exact State.tick_groups _ _

/-- The issuing group after accounting: as it was, but for a continuation's counts. -/
theorem State.account_group (s : State) (h : Here) (i : Instr) (act : Word) {g : Group} (e : s.group? h.g.id = some g) :
    ∃ u, (s.account h i act).group? h.g.id = some u ∧ u.arch = g.arch ∧ { u with conts := g.conts } = g := by
  rw [State.group?_congr (State.account_groups s h i act)]
  unfold State.count
  dsimp only
  rw [State.group?_congr (State.perf_groups _ _ _ _ _ _)]
  split
  · let ops := if i.isLaneArith then (lanesOf act).length else 0
    have q := State.group?_onGroup s h.g.id
      (fun g => { g with conts := g.conts.mapIdx fun j c => if s.view = some j then c.counted ops else c }) fun _ => rfl
    rw [q, e]
    exact ⟨_, rfl, rfl, rfl⟩
  · rw [State.group?_congr (State.onTeam_groups _ _ _), e]
    exact ⟨_, rfl, rfl, rfl⟩

/-- An update of one group leaves the others. -/
theorem State.onGroup_others (s : State) (id : Nat) (f : Group → Group) (hf : ∀ g, (f g).id = g.id) :
    ((s.onGroup id f).groups.filter fun g => g.id != id) = s.groups.filter fun g => g.id != id := by
  unfold State.onGroup mapIf
  dsimp only
  induction s.groups with
  | nil => rfl
  | cons x r ih =>
    simp only [List.map_cons, List.filter_cons]
    by_cases hx : x.id = id
    · rw [ih]; simp [hx, hf]
    · rw [ih]; simp [hx]

/-- The other groups after accounting. -/
theorem State.account_others (s : State) (h : Here) (i : Instr) (act : Word) :
    ((s.account h i act).groups.filter fun g => g.id != h.g.id) = s.groups.filter fun g => g.id != h.g.id := by
  rw [State.account_groups]
  unfold State.count
  dsimp only
  rw [State.perf_groups]
  split
  · exact State.onGroup_others _ _ _ fun _ => rfl
  · rfl

theorem State.account_teams (s : State) (h : Here) (i : Instr) (act : Word) :
    (s.account h i act).teams.map Team.calm = s.teams.map Team.calm := by
  have hc : (s.count h i act).teams.map Team.calm = s.teams.map Team.calm := by
    unfold State.count
    dsimp only
    rw [State.perf_teams]
    split
    · rfl
    · unfold State.onTeam mapIf
      simp only [List.map_map]
      apply List.map_congr_left
      intro x _
      simp only [Function.comp_apply]
      split <;> rfl
  rw [← hc]
  unfold State.account
  dsimp only
  split
  · rfl
  · rw [State.tick_teams]

theorem State.perf_core (s : State) (die site ctx n k d q : Nat) : ((s.perf die site ctx n k).core d q).calm = (s.core d q).calm := by
  unfold State.perf
  dsimp only
  split
  · rw [State.core_setCore]
    split
    · next hc =>
      have := State.core_name s die site
      obtain ⟨rfl, rfl⟩ := hc
      simp [this, Core.calm]
    · rfl
  · rfl

theorem State.tick_core (s : State) (t : Team) (d q : Nat) : ((s.tick t).core d q).calm = (s.core d q).calm := by
  have hn := State.core_name s t.die t.site
  unfold State.tick
  dsimp only
  have hd : ∀ s : State, s.draw.core d q = s.core d q := fun _ => rfl
  rw [hd, State.core_setCore]
  split <;> split <;> simp_all [Core.calm]

theorem State.account_core (s : State) (h : Here) (i : Instr) (act : Word) (d q : Nat) :
    ((s.account h i act).core d q).calm = (s.core d q).calm := by
  have hc : ((s.count h i act).core d q).calm = (s.core d q).calm := by
    unfold State.count
    dsimp only
    rw [State.perf_core]
    split <;> rfl
  rw [← hc]
  unfold State.account
  dsimp only
  split
  · rfl
  · rw [State.tick_core]

/-! ### A plan that changes the registers of its group -/

/-- What an instruction's effect is when it only changes the architected state of its group, by `f`. -/
theorem run_arch {s : State} {h : Here} {i : Instr} {p : Plan} (c : Clear s h i p.allUses p.raises) (hs : p.stall s h = false)
    (he : p.early s h = none) (hl : p.late s h = none) (hh : p.hold s h = none) (hd : p.loss s h = none) (f : Arch → Arch)
    (ha : ∀ st, p.act h st = st.onArch h.g.id f) :
    ∃ t u, run i p s = .next t ∧ t.group? h.g.id = some u ∧ u.sameRest h.g ∧ OnlyGroup s t h.g.id ∧
      u.arch = f (h.g.issued h i p.allUses (h.active p.guard) s.view).arch := by
  have hrun := run_effect c hs he hl hh hd
  rw [ha] at hrun
  have hg : ((s.retire h i p).onArch h.g.id f).group? h.g.id =
      some { h.g.issued h i p.allUses (h.active p.guard) s.view with arch := f (h.g.issued h i p.allUses (h.active p.guard) s.view).arch } := by
    have hr : (s.retire h i p).group? h.g.id = some (h.g.issued h i p.allUses (h.active p.guard) s.view) := by
      unfold State.retire
      rw [State.group?_onGroup s h.g.id (fun g => g.issued h i p.allUses (h.active p.guard) s.view) fun _ => rfl,
        State.here_group c.here]
      rfl
    rw [State.group?_onArch, hr]
    rfl
  obtain ⟨u, hu, ha', hr⟩ := State.account_group _ h i (h.active p.guard) hg
  refine ⟨_, u, hrun, hu, ?_, ⟨?_, ?_, ?_, ?_⟩, ha'⟩
  · unfold Group.sameRest
    cases u
    simp only [Group.mk.injEq] at hr
    simp_all [Group.issued]
  · have := State.account_fields ((s.retire h i p).onArch h.g.id f) h i (h.active p.guard)
    generalize hx : (s.retire h i p).onArch h.g.id f = x at this ⊢
    have e : x = { s with groups := x.groups } := by rw [← hx]; rfl
    generalize State.account x h i (h.active p.guard) = t at this ⊢
    generalize x.groups = l at e
    subst e
    exact (congrArg (fun y : State => { y with groups := s.groups, losses := s.losses }) this :)
  · rw [State.account_others]
    unfold State.retire State.onArch
    exact (State.onGroup_others _ _ (fun g => { g with arch := f g.arch }) fun _ => rfl).trans
      (State.onGroup_others _ _ (fun g => g.issued h i p.allUses (h.active p.guard) s.view) fun _ => rfl)
  · rw [State.account_teams]; rfl
  · intro d q; rw [State.account_core]; rfl

end Sys2Proof.Machine
end

