-- ==== Sys2Proof/Laws/Lane.lean ====
section
/-!
SUPPORT. Writing vector registers in the active lanes, and the plans of the lane instructions: what they write and what they leave.
-/
namespace Sys2Proof.Machine

theorem Arch.getV_setV (a : Arch) (n l m j : Nat) (x : Word) (hl : l < 32) (hj : j < 32) :
    (a.setV n l x).getV m j = if m = n ∧ j = l then x else a.getV m j := by
  unfold Arch.getV Arch.setV
  rw [Sparse.look_put]
  by_cases h : m = n ∧ j = l
  · rw [if_pos h, if_pos (by omega)]
  · rw [if_neg h, if_neg (by omega)]

theorem Arch.setV_rest (a : Arch) (n l : Nat) (x : Word) : { a.setV n l x with v := a.v } = a := rfl

theorem Arch.writeV_rest (a : Arch) (act : Word) (d : Nat) (val : Nat → Word) : { a.writeV act d val with v := a.v } = a := by
  unfold Arch.writeV
  generalize List.range 32 = l
  suffices h : ∀ b : Arch, { b with v := a.v } = a → { l.foldl (fun (b : Arch) l => if act.getLsbD l then b.setV d l (val l) else b) b with v := a.v } = a from
    h a rfl
  induction l with
  | nil => exact fun b h => h
  | cons x r ih =>
    intro b h
    rw [List.foldl_cons]
    apply ih
    split
    · exact h
    · exact h

theorem Arch.getV_writeV (a : Arch) (act : Word) (d : Nat) (val : Nat → Word) (n j : Nat) (hj : j < 32) :
    (a.writeV act d val).getV n j = if act.getLsbD j ∧ n = d then val j else a.getV n j := by
  unfold Arch.writeV
  suffices h : ∀ (l : List Nat) (b : Arch), (∀ x ∈ l, x < 32) → l.Nodup →
      (l.foldl (fun (b : Arch) l => if act.getLsbD l then b.setV d l (val l) else b) b).getV n j =
        if j ∈ l ∧ act.getLsbD j ∧ n = d then val j else b.getV n j by
    rw [h (List.range 32) a (by simp) List.nodup_range]
    simp [hj]
  intro l
  induction l with
  | nil => intro b _ _; simp
  | cons x r ih =>
    intro b hlt hnd
    rw [List.foldl_cons, ih _ (fun y hy => hlt y (List.mem_cons_of_mem _ hy)) (List.nodup_cons.mp hnd).2]
    have hx : x < 32 := hlt x List.mem_cons_self
    have hxr : x ∉ r := (List.nodup_cons.mp hnd).1
    by_cases hjx : j = x
    · subst hjx
      simp only [hxr, false_and, if_false, List.mem_cons_self, true_and]
      split
      · next ha => rw [Arch.getV_setV _ _ _ _ _ _ hx hj]; simp [ha]
      · next ha => simp [ha]
    · simp only [List.mem_cons, hjx, false_or]
      split
      · rfl
      · split
        · rw [Arch.getV_setV _ _ _ _ _ _ hx hj, if_neg (by tauto)]
        · rfl

theorem Arch.writeLanes_rest (a : Arch) (act : Word) (d k : Nat) (val : Nat → Nat) : { a.writeLanes act d k val with v := a.v } = a := by
  unfold Arch.writeLanes
  generalize List.range k = l
  suffices h : ∀ b : Arch, { b with v := a.v } = a → { l.foldl (fun (b : Arch) j => b.writeV act (d + j) fun l => BitVec.ofNat 32 (val l / 2 ^ (32 * j))) b with v := a.v } = a from
    h a rfl
  induction l with
  | nil => exact fun b h => h
  | cons x r ih =>
    intro b h
    rw [List.foldl_cons]
    apply ih
    have := Arch.writeV_rest b act (d + x) fun l => BitVec.ofNat 32 (val l / 2 ^ (32 * x))
    generalize b.writeV act (d + x) (fun l => BitVec.ofNat 32 (val l / 2 ^ (32 * x))) = c at this ⊢
    cases b; cases c; cases a; simp_all

/-- What a vector register reads as after a result was written in the lanes of a mask. -/
theorem Arch.getV_writeLanes (a : Arch) (act : Word) (d k : Nat) (val : Nat → Nat) (n j : Nat) (hj : j < 32) :
    (a.writeLanes act d k val).getV n j =
      if act.getLsbD j ∧ d ≤ n ∧ n < d + k then BitVec.ofNat 32 (val j / 2 ^ (32 * (n - d))) else a.getV n j := by
  unfold Arch.writeLanes
  induction k with
  | zero => simp only [List.range_zero, List.foldl_nil]; rw [if_neg (by omega)]
  | succ k ih =>
    rw [List.range_succ, List.foldl_append, List.foldl_cons, List.foldl_nil, Arch.getV_writeV _ _ _ _ _ _ hj, ih]
    by_cases ha : act.getLsbD j = true
    · by_cases hn : n = d + k
      · subst hn
        rw [if_pos ⟨ha, rfl⟩, if_pos ⟨ha, by omega, by omega⟩]
        simp
      · rw [if_neg (by tauto)]
        by_cases hin : d ≤ n ∧ n < d + k
        · rw [if_pos ⟨ha, hin⟩, if_pos ⟨ha, by omega, by omega⟩]
        · rw [if_neg (by tauto), if_neg (by omega)]
    · simp [ha]

/-- The architected state of a group once an instruction has issued. -/
theorem Group.issued_arch (g : Group) (h : Here) (i : Instr) (us : List Use) (act : Word) (view : Option Nat) :
    (g.issued h i us act view).arch =
      (g.arch.setPath h.slot (some (h.p.advance i.size))).cleansed us act := by
  unfold Group.issued Arch.unpoison Arch.restore Arch.cleansed
  dsimp only
  split
  · congr 1 <;> (apply List.filter_congr; intro r _; simp [reading, List.any_append])
  · rfl

theorem Arch.path_setPath (a : Arch) (slot : Bool) (p : Option Path) : (a.setPath slot p).path slot = p := by
  cases slot <;> rfl

theorem Arch.path_setPath_other (a : Arch) (slot : Bool) (p : Option Path) : (a.setPath slot p).path (!slot) = a.path (!slot) := by
  cases slot <;> rfl

/-- What an instruction whose effect is a change `f` of the group's registers leaves of its group: `f` leaves the paths, the poison
and the losses alone. -/
theorem run_regs {s : State} {h : Here} {i : Instr} {p : Plan} (c : Clear s h i p.allUses p.raises) (hs : p.stall s h = false)
    (he : p.early s h = none) (hl : p.late s h = none) (hh : p.hold s h = none) (hd : p.loss s h = none) (f : Arch → Arch)
    (ha : ∀ st, p.act h st = st.onArch h.g.id f)
    (hp : ∀ a, (f a).path0 = a.path0 ∧ (f a).path1 = a.path1 ∧ (f a).poison = a.poison ∧ (f a).ecc = a.ecc) :
    ∃ t u, run i p s = .next t ∧ t.group? h.g.id = some u ∧ Behind u h i p.allUses (h.active p.guard) ∧ u.sameRest h.g ∧
      OnlyGroup s t h.g.id ∧
      ∃ a : Arch, { a with path0 := h.a.path0, path1 := h.a.path1, poison := h.a.poison, ecc := h.a.ecc } = h.a ∧
        { u.arch with path0 := h.a.path0, path1 := h.a.path1, poison := h.a.poison, ecc := h.a.ecc } =
          { f a with path0 := h.a.path0, path1 := h.a.path1, poison := h.a.poison, ecc := h.a.ecc } := by
  obtain ⟨t, u, hr, hu, hrest, honly, hua⟩ := run_arch c hs he hl hh hd f ha
  refine ⟨t, u, hr, hu, ⟨?_, ?_, ?_, ?_⟩, hrest, honly, (h.g.issued h i p.allUses (h.active p.guard) s.view).arch, ?_, ?_⟩
  · rw [hua]
    have := hp (h.g.issued h i p.allUses (h.active p.guard) s.view).arch
    have e : (f (h.g.issued h i p.allUses (h.active p.guard) s.view).arch).path h.slot
        = (h.g.issued h i p.allUses (h.active p.guard) s.view).arch.path h.slot := by
      unfold Arch.path; rw [this.1, this.2.1]
    rw [e, Group.issued_arch]
    cases h.slot <;> rfl
  · rw [hua]
    have := hp (h.g.issued h i p.allUses (h.active p.guard) s.view).arch
    have e : (f (h.g.issued h i p.allUses (h.active p.guard) s.view).arch).path (!h.slot)
        = (h.g.issued h i p.allUses (h.active p.guard) s.view).arch.path (!h.slot) := by
      unfold Arch.path; rw [this.1, this.2.1]
    rw [e, Group.issued_arch]
    cases h.slot <;> rfl
  · have e : u.arch.poison = (f (h.g.issued h i p.allUses (h.active p.guard) s.view).arch).poison := (congrArg Arch.poison hua :)
    rw [e, (hp _).2.2.1, Group.issued_arch]
    cases h.slot <;> rfl
  · have e : u.arch.ecc = (f (h.g.issued h i p.allUses (h.active p.guard) s.view).arch).ecc := (congrArg Arch.ecc hua :)
    rw [e, (hp _).2.2.2, Group.issued_arch]
    cases h.slot <;> rfl
  · rw [Group.issued_arch]
    cases h.slot <;> rfl
  · rw [hua]

/-- A lane instruction that is run by the plan of a lane result writes that result. -/
theorem writesLanes_of_plan {i : Instr} {g : Guard} {d : VReg} {k : Nat} {src : List Use} {val val' : Arch → Word → Nat → Nat}
    (e : ∀ s, exec i s = run i (lanePlan g d k src val) s)
    (hv : ∀ a act l j, l < 32 → j < k →
      BitVec.ofNat 32 (val a act l / 2 ^ (32 * j)) = BitVec.ofNat 32 (val' a act l / 2 ^ (32 * j))) :
    WritesLanes i ⟨g, d.toNat, k, src, val'⟩ := by
  intro s h c
  have c' : Clear s h i (lanePlan g d k src val).allUses (lanePlan g d k src val).raises := by
    simpa [LaneResult.uses, lanePlan, Plan.allUses, dstV, List.append_assoc] using c
  obtain ⟨t, u, hr, hu, hbeh, hrest, honly, a, ha, hua⟩ := run_regs c' rfl rfl rfl rfl rfl
    (fun b => b.writeLanes (h.active g) d.toNat k (val h.a (h.active g))) (fun _ => rfl)
    (fun a => by
      have := Arch.writeLanes_rest a (h.active g) d.toNat k (val h.a (h.active g))
      generalize a.writeLanes (h.active g) d.toNat k (val h.a (h.active g)) = w at this ⊢
      cases a; cases w; simp_all)
  refine ⟨t, u, (e s).trans hr, hu, ?_, ?_, ?_, hrest, honly⟩
  · intro n l hl
    have hget : u.arch.getV n l = (a.writeLanes (h.active g) d.toNat k (val h.a (h.active g))).getV n l := by
      have := congrArg Arch.v hua
      simp only at this
      unfold Arch.getV; rw [this]
    have hav : a.v = h.a.v := (congrArg Arch.v ha :)
    rw [hget, Arch.getV_writeLanes _ _ _ _ _ _ _ hl]
    split
    · next q => exact hv h.a _ l _ hl (by omega)
    · unfold Arch.getV; rw [hav]
  · have hw := Arch.writeLanes_rest a (h.active g) d.toNat k (val h.a (h.active g))
    generalize a.writeLanes (h.active g) d.toNat k (val h.a (h.active g)) = w at hw hua
    generalize h.a = x at ha hua ⊢
    cases w; cases a; cases x
    generalize u.arch = y at hua ⊢
    cases y
    simp_all
  · simpa [LaneResult.uses, lanePlan, Plan.allUses, dstV, List.append_assoc] using hbeh

end Sys2Proof.Machine
end

