-- ==== Sys2Proof/Tests/Slice0.lean ====
section
/-!
SUPPORT. Tests of the model: ill-formed terms that the well-formedness check refuses; words written out from the spec's
encodings; for each statement with hypotheses a state that meets them; and single steps with results from the spec.
-/
namespace Sys2Proof.Tests
set_option Elab.async false
open Sys2Proof Sys2Proof.Machine

/-! ### A bench -/

/-- Fields of stack 0's memory: address, size and value. -/
def homeFields (m : List Host.Cell) : List (Nat × Nat × Nat) → List Host.Cell
  | [] => m
  | (a, n, x) :: r => homeFields (putBytes m (homeKey a) (toBytes n x)) r

/-- The record of context 1 at address 0 of stack 0: every right, a save area at 0x3000, a scratchpad window, a bivouac pool in it, a fault
ring at 0x1000 and NOTIFYA at 0x2000; and its pages: 0x1000 to 0x8FFF of the context are its pages 0x6000 to 0xDFFF, writable. -/
def benchRecord : List (Nat × Nat × Nat) :=
  [(0x14, 2, 4), (0x16, 1, 12), (0x18, 2, 7), (0x20, 8, 0x3000), (0x28, 8, 0x4000), (0x60, 4, 0x6000), (0x64, 4, 0x3000), (0x80, 4, 0x9000),
    (0x84, 4, 0x3000), (0xE0, 8, 0x1000), (0xE8, 4, 6), (0xF0, 8, 0x2000)] ++
    (List.range 8).map fun j => (0x4008 + 8 * j, 8, 0x6083 + 4096 * j)

/-- Words loaded in a clause of the only group of a team with 64 KiB of team memory, in that context. -/
def bench (ws : List Word) : State :=
  let s := State.reset.loadWords ws
  { s with
    mem := homeFields s.mem benchRecord
    teams := s.teams.map fun t => { t with tmem := 65536 }
    pkg := { s.pkg with stage := .d, stageDue := false, dieok := 15 }
    evSeq := 2 }

/-- The bench for one instruction. -/
def benchOf (i : Instr) : State := bench (encode i)

/-- The bench with the group's registers and stack changed. -/
def benchArch (i : Instr) (f : Arch → Arch) : State :=
  let s := benchOf i
  { s with groups := s.groups.map fun g => { g with arch := f g.arch } }

/-- The bench with its path changed. -/
def benchPath (i : Instr) (f : Path → Path) : State := benchArch i fun a => { a with path0 := a.path0.map f }

/-- The bench with the unit of its core changed. -/
def benchMx (i : Instr) (f : Matrix → Matrix) : State := (benchOf i).onMx 0 0 f

/-- Whether an instruction is clear to issue. -/
def clearB (s : State) (i : Instr) (us : List Use) (r : Raises) : Bool :=
  match s.here with
  | some h => !h.p.badLength i && (h.a.regFaults us).isNone && (h.a.eccFault us).isNone && (r != .ka false || (h.p.counter r).isSome) && (h.counterFault r).isNone
  | none => false

theorem here_of_clearB {s i us r} (c : clearB s i us r = true) : s.here.isSome = true := by
  unfold clearB at c
  cases h : s.here <;> simp_all

theorem clear_of {s i us r} (c : clearB s i us r = true) : Clear s (s.here.get (here_of_clearB c)) i us r := by
  obtain ⟨q, hq⟩ := Option.isSome_iff_exists.mp (here_of_clearB c)
  have e : s.here.get (here_of_clearB c) = q := by simp [hq]
  rw [e]
  unfold clearB at c
  simp only [hq, Bool.and_eq_true, Bool.not_eq_true', Option.isNone_iff_eq_none, Bool.or_eq_true, bne_iff_ne, ne_eq] at c
  obtain ⟨⟨⟨⟨c1, c2⟩, ce⟩, c3⟩, c4⟩ := c
  refine ⟨hq, c1, c2, ce, fun hr hn => ?_, c4⟩
  rcases c3 with c3 | c3
  · exact c3 hr
  · subst hr; simp [hn] at c3

theorem ok_of_toOption {ε α : Type} {x : Except ε α} {a : α} (h : x.toOption = some a) : x = .ok a := by
  cases x <;> simp_all [Except.toOption]

theorem some_of {α : Type} {o : Option α} (h : o.isSome = true) : o = some (o.get h) := by simp

theorem ok_of {ε α : Type} {x : Except ε α} (h : x.toOption.isSome = true) : x = .ok (x.toOption.get h) := by
  cases x
  · simp [Except.toOption] at h
  · rfl

theorem ok_unit_of {ε : Type} {x : Except ε Unit} (h : x.toOption.isSome = true) : x = .ok () := ok_of h

theorem ok_pair_of {ε α β : Type} {x : Except ε (α × β)} (h : x.toOption.isSome = true) :
    x = .ok ((x.toOption.get h).1, (x.toOption.get h).2) := ok_of h

theorem triple_of {α β γ : Type} {x : α × β × Option γ} (h : x.2.2.isNone = true) : x = (x.1, x.2.1, none) :=
  Prod.ext rfl (Prod.ext rfl (Option.isNone_iff_eq_none.mp h))

theorem both_of {α β : Type} {o : Option (α × β)} (h : o.isSome = true) : o = some ((o.get h).1, (o.get h).2) := some_of h

theorem unit_of {α β γ : Type} {o : Option (α × β × γ)} (u : α) (h : o.isSome = true) (e : (o.get h).1 = u) :
    o = some (u, (o.get h).2.1, (o.get h).2.2) := by
  obtain ⟨x, rfl⟩ := Option.isSome_iff_exists.mp h
  subst e
  rfl

theorem each_of {α : Type} {o : Option α} {P : α → Prop} (h : ∀ c ∈ o, P c) : ∀ c, o = some c → P c := h

/-- What a theorem of the form "premise gives conclusion" asks for. -/
abbrev Premise {A B : Prop} (_ : A → B) : Prop := A

/-! ### Ill-formed instructions -/

/-- For each check of well-formedness a term that breaks it. -/
theorem test_ill_formed_lanes : ∀ i ∈ [
    -- a pair in an odd register (R6)
    Instr.faddF64 7 1 2 4, .faddF64 7 0 3 4, .isubI64 7 0 2 5, .fabsF64 7 1 2, .movB64 7 0 3, .icmpI64 7 .eq 0 1 2, .fcmpF64 7 .eq 0 2 3,
    -- conditions (R72), orders, scopes and spaces (R75), alignment of data registers
    .icmpI32 7 .num 0 1 2, .icmpN32 7 .nan 0 1 2, .ldB32 7 4 2 .rel .sys .team, .ldB32 7 4 2 .acqRel .sys .team, .ldB32 7 4 2 .plain .sys .team,
    .ldN8 7 4 2 .acq .sys .priv, .ldB64 7 3 2 .plain .grp .team, .ldB128 7 2 2 .plain .grp .team, .stB32 7 4 2 .acq .sys .team,
    .stB64 7 3 2 .plain .grp .team, .stB128 7 2 2 .plain .grp .team,
    -- types, roundings and modifiers of extended operations (R91)
    .iaddExt 7 0 0 0 .f32 false, .imulExt 7 1 0 0 .i64, .shlExt 7 0 0 0 .i32, .bfe 7 0 0 0 0 .b32, .faddExt 7 0 0 0 .f32 .sr false false,
    .fdiv 7 0 0 1 .f64 .rne false false, .frint 7 0 0 .i32 .rne, .sel 7 0 0 0 0 .i32, .cvt 7 0 0 .f32 .f32 .rne false false,
    .cvt 7 0 0 .f16 .f32 .rne true false, .cvt 7 0 0 .f16 .f32 .rne false true, .cvt 7 0 0 .i32 .i16 .rz false false, .cvt 7 1 0 .f64 .f32 .rne false false,
    .cvtPk 7 0 0 0 .f32 .rne, .cvtPk4 7 0 2 .e4m3 .rne, .cvtPk4 7 0 4 .f16 .rne, .redAdd 7 0 0 .f64, .scanAdd 7 0 0 .f32,
    -- atomics (R199)
    .atmAdd 7 0 0 0 .b32 .plain .grp .team true, .atmAnd 7 0 0 0 .i32 .plain .grp .team true, .atmAdd 7 0 0 0 .i32 .plain .grp .priv true,
    .atmAdd 7 0 0 0 .i32 .plain .sys .team true, .atmAdd 7 1 0 0 .i32 .plain .grp .team false, .atmCas 7 0 0 0 1 .b64 .plain .grp .team true],
    i.wf = false := by decide

theorem test_ill_formed_others : ∀ i ∈ [
    -- uniform pairs, literals and extended words (R79, R80, R93, R194)
    Instr.uniformIadd 1 2 4 true, .uniformMov 2 1 true, .uniformIcmpI 0 2 4 false .num, .uniformLiteralForm .fadd 0 0 true .eq 0,
    .uniformLiteralForm .iadd 0 0 false .ne 0, .uniformLiteralForm .icmpI 0 0 false .nan 0, .uniformLiteralForm .mov 0 1 false .eq 0,
    .uniformLiteralForm .iadd 1 0 true .eq 0, .uniformExtended .fsqrt 0 0 1 0 .f32 .rne ⟨false, false, false, false, false, .i8⟩ none,
    .uniformExtended .fsqrt 0 0 0 0 .f32 .rne ⟨false, false, false, false, false, .i8⟩ (some 0),
    .uniformExtended .fma 0 0 0 1 .f64 .rne ⟨false, false, false, false, false, .i8⟩ none,
    .uniformExtended .cvt 0 0 0 0 .f32 .rne ⟨false, false, false, false, false, .f32⟩ none,
    -- control (R81, R82, R95)
    .bra .always 1 0, .callFk 0 5 0 0 0 0, .callFk 0 0 1 0 0 0, .callFk 0 1 0 1 0 0, .callFk 0 2 0 0 1 0, .callFk 0 3 0 0 0 1, .braInd 1, .callInd 1,
    .waitK 0 12, .getCycle 1, .blkGive 0, .blkTake 17, .fmtSetImm 0x8000, .tbarPass 17 0, .tbarHold 0 1, .tbarPass 1 0,
    -- the front end, stacks, refinement and system registers (R94)
    .qBell 0 1, .mbxPut 0 1, .mbxGet 1 0, .stkHand 0 2, .rflPut 1 0, .rflPut 0 1, .sysRd 0 12, .sysRd 1 0, .sysWr 0 0,
    -- hardware steps: units, contexts, queues, stacks and ports that the part does not have
    .starvationPromotion 4 0 0, .ropeGrant 0 156, .tableWalk 0 4096 0 (.fetch 0), .tableWalk 0 0 (2 ^ 52) (.priv 0), .teamPlace 4 0, .preEmption 4 0,
    .teamDeal 4, .blockWake 0 4, .load 4096, .ctxcmdReservedOp 7 0, .queueCreate 1048576, .qcmdReservedOp 3 0, .stackLost 16, .flitReplay 16,
    .portTrainingResult 0 10, .collectiveInstance 256 [], .moduleLevelRetry 4, .laneRepair 4 0], i.wf = false := by decide

/-! ### Words that name no instruction (R88, R96) -/

theorem test_refused_words : ∀ e ∈ ([
    -- an unassigned opcode, a header, an LL SUBOP, two selectors, an XOP, a TYP
    ([0x17E00000], .illegal 0), ([0xFE001FE0], .illegal 0), ([0x30E00011, 0], .illegal 0), ([0x5FE00001], .illegal 0), ([0xD010000F], .illegal 0),
    ([0x7FE00000, 0x01100000], .illegal 1), ([0x7FE00000, 0x00018000], .illegal 1),
    -- an unused field, an odd pair, a condition of floats only, order and space codes
    ([0x11E00001], .reserved 0), ([0x20E04000], .reserved 0), ([0x40EC0000], .reserved 0), ([0x64E10103], .reserved 0), ([0x64E10140], .reserved 0),
    ([0xD4000100], .reserved 0),
    -- no second word
    ([0x30E00000], .length), ([0x7FE00000], .length)] : List (List Word × DecodeError)),
    (match decodeWords e.1 with | .error x => some x | .ok _ => none) = some e.2 := by decide +kernel

theorem test_decode_0 : ∀ e ∈ ([
    ([0x00B5151C], .iaddI32 5 84 42 28),
    ([0x01B5151C], .isubI32 5 84 42 28),
    ([0x02B5151C], .imulI32 5 84 42 28),
    ([0x03B5151C], .imulhiI32 5 84 42 28),
    ([0x04B5151C], .imulhiN32 5 84 42 28),
    ([0x05B5151C], .iminI32 5 84 42 28),
    ([0x06B5151C], .iminN32 5 84 42 28),
    ([0x07B5151C], .imaxI32 5 84 42 28),
    ([0x08B5151C], .imaxN32 5 84 42 28),
    ([0x09B5151C], .andB32 5 84 42 28),
    ([0x0AB5151C], .orB32 5 84 42 28),
    ([0x0BB5151C], .xorB32 5 84 42 28),
    ([0x0CB5151C], .andnB32 5 84 42 28),
    ([0x0DB5151C], .shlB32 5 84 42 28),
    ([0x0EB5151C], .shrN32 5 84 42 28),
    ([0x0FB5151C], .shrI32 5 84 42 28),
    ([0x10B5151C], .rotlB32 5 84 42 28),
    ([0x11B51500], .popcB32 5 84 42),
    ([0x12B51500], .clzB32 5 84 42),
    ([0x13B51500], .brevB32 5 84 42),
    ([0x14B51500], .movB32 5 84 42),
    ([0x15B51500], .iabsI32 5 84 42),
    ([0x16B51500], .inegI32 5 84 42),
    ([0x18B5151C], .faddF32 5 84 42 28),
    ([0x19B5151C], .fsubF32 5 84 42 28),
    ([0x1AB5151C], .fmulF32 5 84 42 28),
    ([0x1BB5151C], .fminF32 5 84 42 28),
    ([0x1CB5151C], .fmaxF32 5 84 42 28),
    ([0x1DB51500], .fabsF32 5 84 42),
    ([0x1EB51500], .fnegF32 5 84 42)] : List (List Word × Instr)), (decodeWords e.1).toOption = some e.2 := by decide

theorem test_decode_1 : ∀ e ∈ ([
    ([0x20B5151C], .faddF64 5 84 42 28),
    ([0x21B5151C], .fsubF64 5 84 42 28),
    ([0x22B5151C], .fmulF64 5 84 42 28),
    ([0x23B5151C], .fminF64 5 84 42 28),
    ([0x24B5151C], .fmaxF64 5 84 42 28),
    ([0x25B51500], .fabsF64 5 84 42),
    ([0x26B51500], .fnegF64 5 84 42),
    ([0x27B51500], .movB64 5 84 42),
    ([0x28B5151C], .iaddI64 5 84 42 28),
    ([0x29B5151C], .isubI64 5 84 42 28),
    ([0x30B4D50F, 0xDEADBEEF], .litI .shrI 5 83 42 0xDEADBEEF),
    ([0x31B4D51A, 0x40490FDB], .litF .fmul 5 83 42 0x40490FDB),
    ([0x32B4C000, 0xDEADBEEF], .litMov 5 83 0xDEADBEEF),
    ([0x40A8D51C], .icmpI32 5 .gt 3 42 28),
    ([0x41A8D51C], .icmpN32 5 .gt 3 42 28),
    ([0x42A8D51C], .icmpI64 5 .gt 3 42 28),
    ([0x43A8D51C], .icmpN64 5 .gt 3 42 28),
    ([0x44AED51C], .fcmpF32 5 .nan 3 42 28),
    ([0x45AED51C], .fcmpF64 5 .nan 3 42 28),
    ([0x48A0C301], .pand 5 3 6 1),
    ([0x49A0C301], .por 5 3 6 1),
    ([0x4AA0C301], .pxor 5 3 6 1),
    ([0x4BA0C301], .pandn 5 3 6 1),
    ([0x50B5151C], .xchAt 5 84 42 28),
    ([0x51B5151C], .xchSub 5 84 42 28),
    ([0x52B5151C], .xchAdd 5 84 42 28),
    ([0x53B5151C], .xchFlip 5 84 42 28),
    ([0x54A0C300], .cenAll 5 3 6),
    ([0x55A0C300], .cenAny 5 3 6),
    ([0x56B50300], .cenBits 5 84 6)] : List (List Word × Instr)), (decodeWords e.1).toOption = some e.2 := by decide

theorem test_decode_2 : ∀ e ∈ ([
    ([0x5FB50000], .getLane 5 84),
    ([0x60B51531], .ldN8 5 84 42 .acq .die .die),
    ([0x61B51531], .ldI8 5 84 42 .acq .die .die),
    ([0x62B51531], .ldN16 5 84 42 .acq .die .die),
    ([0x63B51531], .ldI16 5 84 42 .acq .die .die),
    ([0x64B51531], .ldB32 5 84 42 .acq .die .die),
    ([0x65B51531], .ldB64 5 84 42 .acq .die .die),
    ([0x66B51531], .ldB128 5 84 42 .acq .die .die),
    ([0x68B51551], .stB8 5 84 42 .rel .die .die),
    ([0x69B51551], .stB16 5 84 42 .rel .die .die),
    ([0x6AB51551], .stB32 5 84 42 .rel .die .die),
    ([0x6BB51551], .stB64 5 84 42 .rel .die .die),
    ([0x6CB51551], .stB128 5 84 42 .rel .die .die),
    ([0x7FB5151C, 0x0000E200], .iaddExt 5 84 42 28 .n64 true),
    ([0x7FB5151C, 0x00026200], .isubExt 5 84 42 28 .i64 true),
    ([0x7FB5151C, 0x0004E000], .imulExt 5 84 42 28 .n64),
    ([0x7FB5151C, 0x00066000], .imulhiExt 5 84 42 28 .i64),
    ([0x7FB5151C, 0x8C08C200], .imad 5 84 42 28 70 .n32 true),
    ([0x7FB5151C, 0x000AE000], .iminExt 5 84 42 28 .n64),
    ([0x7FB5151C, 0x000C6000], .imaxExt 5 84 42 28 .i64),
    ([0x7FB51500, 0x000E6200], .iabsExt 5 84 42 .i64 true),
    ([0x7FB51500, 0x00106200], .inegExt 5 84 42 .i64 true),
    ([0x7FB5151C, 0x8C13A000], .clamp 5 84 42 28 70 .f64),
    ([0x7FB5151C, 0x0C152000], .sel 5 84 42 28 6 .b64),
    ([0x7FB5151C, 0x00172000], .shlExt 5 84 42 28 .b64),
    ([0x7FB5151C, 0x00186000], .shrExt 5 84 42 28 .i64),
    ([0x7FB5151C, 0x8C1AC000], .bfe 5 84 42 28 70 .n32),
    ([0x7FB5151C, 0x8C1D0000], .bfi 5 84 42 28 70),
    ([0x7FB5151C, 0x0021AC80], .faddExt 5 84 42 28 .f64 .ru false true),
    ([0x7FB5151C, 0x00238C80], .fsubExt 5 84 42 28 .f32 .ru false true)] : List (List Word × Instr)), (decodeWords e.1).toOption = some e.2 := by decide

theorem test_decode_3 : ∀ e ∈ ([
    ([0x7FB5151C, 0x0025AC80], .fmulExt 5 84 42 28 .f64 .ru false true),
    ([0x7FB5151C, 0x8C27ACC0], .fma 5 84 42 28 70 .f64 .ru false true true),
    ([0x7FB5151C, 0x0029A100], .fminExt 5 84 42 28 .f64 true false),
    ([0x7FB5151C, 0x002B8080], .fmaxExt 5 84 42 28 .f32 false true),
    ([0x7FB5151C, 0x002DAD00], .fdiv 5 84 42 28 .f64 .ru true false),
    ([0x7FB51500, 0x002FAC00], .fsqrt 5 84 42 .f64 .ru),
    ([0x7FB51500, 0x0031AC00], .frcp 5 84 42 .f64 .ru),
    ([0x7FB51500, 0x0033A000], .frsqrt 5 84 42 .f64),
    ([0x7FB51500, 0x00358000], .fexp2 5 84 42),
    ([0x7FB51500, 0x00378000], .flog2 5 84 42),
    ([0x7FB51500, 0x0039AC00], .frint 5 84 42 .f64 .ru),
    ([0x7FB51500, 0x0081A01B], .cvt 5 84 42 .f64 .bf16 .rne false true),
    ([0x7FB51500, 0x00804207], .cvt 5 84 42 .i32 .n64 .rne true false),
    ([0x7FB5151C, 0x00836C0C], .cvtPk 5 84 42 28 .bf16 .ru),
    ([0x7FB51400, 0x0085EC0C], .cvtPk4 5 84 40 .e5m2 .ru),
    ([0x7FB51500, 0x00C18000], .redAdd 5 84 42 .f32),
    ([0x7FB51500, 0x00C2C000], .redMin 5 84 42 .n32),
    ([0x7FB51500, 0x00C44000], .redMax 5 84 42 .i32),
    ([0x7FB51500, 0x00C6C000], .scanAdd 5 84 42 .n32),
    ([0x7FB5151C, 0x010183AC], .atmAdd 5 84 42 28 .f32 .acqRel .pkg .die true),
    ([0x7FB5151C, 0x010263AC], .atmMin 5 84 42 28 .i64 .acqRel .pkg .die true),
    ([0x7FB5151C, 0x0104E3AC], .atmMax 5 84 42 28 .n64 .acqRel .pkg .die true),
    ([0x7FB5151C, 0x010723AC], .atmAnd 5 84 42 28 .b64 .acqRel .pkg .die true),
    ([0x7FB5151C, 0x010903AC], .atmOr 5 84 42 28 .b32 .acqRel .pkg .die true),
    ([0x7FB5151C, 0x010B23AC], .atmXor 5 84 42 28 .b64 .acqRel .pkg .die true),
    ([0x7FB5151C, 0x010D23AC], .atmXchg 5 84 42 28 .b64 .acqRel .pkg .die true),
    ([0x7FB5151C, 0x8D0F23AC], .atmCas 5 84 42 28 70 .b64 .acqRel .pkg .die true),
    ([0x81535920], .uniformIadd 42 26 50 true),
    ([0x83535920], .uniformIsub 42 26 50 true),
    ([0x85535920], .uniformImul 42 26 50 true)] : List (List Word × Instr)), (decodeWords e.1).toOption = some e.2 := by decide

theorem test_decode_4 : ∀ e ∈ ([
    ([0x87535920], .uniformImulhiI 42 26 50 true),
    ([0x89535920], .uniformImulhiN 42 26 50 true),
    ([0x8B535920], .uniformIminI 42 26 50 true),
    ([0x8D535920], .uniformIminN 42 26 50 true),
    ([0x8F535920], .uniformImaxI 42 26 50 true),
    ([0x91535920], .uniformImaxN 42 26 50 true),
    ([0x93535920], .uniformAnd 42 26 50 true),
    ([0x95535920], .uniformOr 42 26 50 true),
    ([0x97535920], .uniformXor 42 26 50 true),
    ([0x99535920], .uniformAndn 42 26 50 true),
    ([0x9B535920], .uniformShl 42 26 50 true),
    ([0x9D535920], .uniformShrN 42 26 50 true),
    ([0x9F535920], .uniformShrI 42 26 50 true),
    ([0xA1535920], .uniformRotl 42 26 50 true),
    ([0xA3534020], .uniformPopc 42 26 true),
    ([0xA5534020], .uniformClz 42 26 true),
    ([0xA7534020], .uniformBrev 42 26 true),
    ([0xA9534020], .uniformMov 42 26 true),
    ([0xAB535924], .uniformIcmpI 42 26 50 true .gt),
    ([0xAD535924], .uniformIcmpN 42 26 50 true .gt),
    ([0xAF535900], .uniformFadd 42 26 50),
    ([0xB1535900], .uniformFsub 42 26 50),
    ([0xB3535900], .uniformFmul 42 26 50),
    ([0xB5535900], .uniformFmin 42 26 50),
    ([0xB7535900], .uniformFmax 42 26 50),
    ([0xB9535907], .uniformFcmp 42 26 50 .nan),
    ([0xAB5B4062, 0xDEADBEEF], .uniformLiteralForm .icmpI 43 26 true .lt 0xDEADBEEF),
    ([0xA9500040, 0xDEADBEEF], .uniformLiteralForm .mov 42 0 false .eq 0xDEADBEEF),
    ([0xFD535900, 0x984F6140], .uniformExtended .fma 42 26 50 38 .f64 .rd ⟨false, true, false, true, false, .i8⟩ none),
    ([0xFD534040, 0x0004C200, 0xDEADBEEF], .uniformExtended .isub 42 26 0 0 .i64 .rne ⟨true, false, false, false, false, .i8⟩ (some 0xDEADBEEF))] : List (List Word × Instr)), (decodeWords e.1).toOption = some e.2 := by decide

theorem test_decode_5 : ∀ e ∈ ([
    ([0xFD5B4000, 0x0100880D], .uniformExtended .cvt 43 26 0 0 .i32 .rz ⟨false, false, false, false, false, .f64⟩ none),
    ([0xC0E5FF84], .bra .neg 37 65412),
    ([0xC3A0FF84, 0x00000123], .brd 6 true 0xFF84 0x0123),
    ([0xC400FF84], .call 65412),
    ([0xC600FF84, 0x3014D51D], .callFk 0xFF84 3 29 42 83 0),
    ([0xC8034000], .braInd 26),
    ([0xC8034001], .callInd 26),
    ([0xCA000000], .ret),
    ([0xCC000000], .exit),
    ([0xCE03600B], .waitK 27 11),
    ([0xD1500000], .getGroup 42),
    ([0xD1500001], .getTeamX 42),
    ([0xD1500002], .getTeamY 42),
    ([0xD1500003], .getTeamZ 42),
    ([0xD1500004], .getGridX 42),
    ([0xD1500005], .getGridY 42),
    ([0xD1500006], .getGridZ 42),
    ([0xD1500007], .getCore 42),
    ([0xD1500008], .getCluster 42),
    ([0xD1500009], .getDie 42),
    ([0xD150000A], .getCtx 42),
    ([0xD150000B], .getCycle 42),
    ([0xD150000C], .getEm 42),
    ([0xD150000D], .getLm 42),
    ([0xD150000E], .getFmt 42),
    ([0xD2034000], .emSet 26),
    ([0xD4000003], .pmPush 3),
    ([0xD4000010], .pmInv),
    ([0xD4000020], .pmPop),
    ([0xD600000D], .blkGive 13)] : List (List Word × Instr)), (decodeWords e.1).toOption = some e.2 := by decide

theorem test_decode_6 : ∀ e ∈ ([
    ([0xD600004D], .blkTake 13),
    ([0xD8034000], .fmtSet 26),
    ([0xD8000040, 0x000004D2], .fmtSetImm 0x4D2),
    ([0xDA000000], .nop),
    ([0xE0034000], .bcpT1 26),
    ([0xE0034001], .bcpT2 26),
    ([0xE0034002], .bcpT3 26),
    ([0xE0034003], .bcpFill 26),
    ([0xE2034000], .bgsGather 26),
    ([0xE2034001], .bgsScatter 26),
    ([0xE4034000], .bamAdd 26),
    ([0xE4034001], .bamMin 26),
    ([0xE4034002], .bamMax 26),
    ([0xE4034003], .bamAnd 26),
    ([0xE4034004], .bamOr 26),
    ([0xE4034005], .bamXor 26),
    ([0xE4034006], .bamXchg 26),
    ([0xE4034007], .bamCas 26),
    ([0xE6034000], .mldE 26),
    ([0xE6034001], .mldS 26),
    ([0xE8000000], .mswp),
    ([0xEA034000], .mlp 26),
    ([0xEA034001], .mlpZero 26),
    ([0xEC034000], .mdrn 26),
    ([0xEC034001], .mdrnScl 26),
    ([0xEE000000], .ropeTake),
    ([0xEE000001], .ropeGive),
    ([0xF000068B], .tbarPass 13 11),
    ([0xF000069B], .tbarHold 13 11),
    ([0xF2034000], .gbarHold 26)] : List (List Word × Instr)), (decodeWords e.1).toOption = some e.2 := by decide

theorem test_decode_7 : ∀ e ∈ ([
    ([0xF2034001], .gbarPass 26),
    ([0xF2034002], .cbarHold 26),
    ([0xF2034003], .cbarPass 26),
    ([0xF2034084], .watch 26 .d),
    ([0xF2034005], .unwatch 26),
    ([0xF2034006], .waitW 26),
    ([0xF4000006], .fence .dom),
    ([0xF4000016], .tfence .dom),
    ([0xF6034000], .lnch 26),
    ([0xF6035901], .qBell 26 50),
    ([0xF7534002], .mbxGet 42 26),
    ([0xF6035903], .mbxPut 26 50),
    ([0xF6034004], .sint 26),
    ([0xF8034002], .collSum 26 .i32),
    ([0xF8034012], .collMax 26 .i32),
    ([0xF8034022], .collMin 26 .i32),
    ([0xF80004B3], .stkHand 9 3),
    ([0xF8034040], .rflRun 26),
    ([0xF8035950], .rflPut 26 50),
    ([0xFA001280], .trap 37),
    ([0xFB500581], .sysRd 42 11),
    ([0xFA036802], .sysWr 27 16)] : List (List Word × Instr)), (decodeWords e.1).toOption = some e.2 := by decide

/-! ### Hypotheses that are met: instructions that write registers -/

/-- Each instruction of a list is clear to issue on its bench. -/
def allClear {α : Type} (f : Instr → Option α) (us : α → List Use) (is : List Instr) : Bool :=
  is.all fun i => (f i).any fun r => clearB (benchOf i) i (us r) .nothing

theorem met_of_allClear {α : Type} {f : Instr → Option α} {us : α → List Use} {is : List Instr} (h : allClear f us is = true) :
    ∀ i ∈ is, ∃ r, f i = some r ∧ ∃ h, Clear (benchOf i) h i (us r) .nothing := by
  intro i hi
  have hc := List.all_eq_true.mp h i hi
  cases hf : f i with
  | none => simp [hf] at hc
  | some r => exact ⟨r, rfl, _, clear_of (by simpa [hf] using hc)⟩

theorem witness_laneInt_0 : allClear laneInt LaneResult.uses [
    .iaddI32 5 84 42 28, .isubI32 5 84 42 28, .imulI32 5 84 42 28, .imulhiI32 5 84 42 28, .imulhiN32 5 84 42 28, .iminI32 5 84 42 28,
    .iminN32 5 84 42 28, .imaxI32 5 84 42 28, .imaxN32 5 84 42 28, .andB32 5 84 42 28, .orB32 5 84 42 28, .xorB32 5 84 42 28,
    .andnB32 5 84 42 28, .shlB32 5 84 42 28, .shrN32 5 84 42 28, .shrI32 5 84 42 28, .rotlB32 5 84 42 28,
    .litI .shrI 5 83 42 0xDEADBEEF] = true := by decide

theorem witness_laneOneWord_0 : allClear laneOneWord LaneResult.uses [
    .popcB32 5 84 42, .clzB32 5 84 42, .brevB32 5 84 42, .movB32 5 84 42, .movB64 5 84 42, .iabsI32 5 84 42, .inegI32 5 84 42,
    .iaddI64 5 84 42 28, .isubI64 5 84 42 28, .faddF32 5 84 42 28, .fsubF32 5 84 42 28, .fmulF32 5 84 42 28, .fminF32 5 84 42 28,
    .fmaxF32 5 84 42 28, .faddF64 5 84 42 28, .fsubF64 5 84 42 28, .fmulF64 5 84 42 28, .fminF64 5 84 42 28, .fmaxF64 5 84 42 28,
    .fabsF32 5 84 42] = true := by decide

theorem witness_laneOneWord_1 : allClear laneOneWord LaneResult.uses [
    .fabsF64 5 84 42, .fnegF32 5 84 42, .fnegF64 5 84 42, .litF .fmul 5 83 42 0x40490FDB, .litMov 5 83 0xDEADBEEF] = true := by decide

theorem witness_laneExtended_0 : allClear laneExtended LaneResult.uses [
    .iaddExt 5 84 42 28 .n64 true, .isubExt 5 84 42 28 .i64 true, .imulExt 5 84 42 28 .n64, .imulhiExt 5 84 42 28 .i64,
    .iminExt 5 84 42 28 .n64, .imaxExt 5 84 42 28 .i64, .shlExt 5 84 42 28 .b64, .shrExt 5 84 42 28 .i64,
    .faddExt 5 84 42 28 .f64 .ru false true, .fsubExt 5 84 42 28 .f32 .ru false true, .fmulExt 5 84 42 28 .f64 .ru false true,
    .fdiv 5 84 42 28 .f64 .ru true false, .fminExt 5 84 42 28 .f64 true false, .fmaxExt 5 84 42 28 .f32 false true,
    .imad 5 84 42 28 70 .n32 true, .clamp 5 84 42 28 70 .f64, .fma 5 84 42 28 70 .f64 .ru false true true, .bfe 5 84 42 28 70 .n32,
    .bfi 5 84 42 28 70, .iabsExt 5 84 42 .i64 true] = true := by decide

theorem witness_laneExtended_1 : allClear laneExtended LaneResult.uses [
    .inegExt 5 84 42 .i64 true, .fsqrt 5 84 42 .f64 .ru, .frcp 5 84 42 .f64 .ru, .frint 5 84 42 .f64 .ru, .frsqrt 5 84 42 .f64,
    .fexp2 5 84 42, .flog2 5 84 42, .sel 5 84 42 28 6 .b64] = true := by decide

theorem witness_laneAcross_0 : allClear laneAcross LaneResult.uses [
    .xchAt 5 84 42 28, .xchSub 5 84 42 28, .xchAdd 5 84 42 28, .xchFlip 5 84 42 28, .cenBits 5 84 6, .getLane 5 84,
    .redAdd 5 84 42 .f32, .redMin 5 84 42 .n32, .redMax 5 84 42 .i32, .scanAdd 5 84 42 .n32, .cvt 5 84 42 .f64 .bf16 .rne false true,
    .cvt 5 84 42 .i32 .n64 .rne true false, .cvtPk 5 84 42 28 .bf16 .ru, .cvtPk4 5 84 40 .e5m2 .ru] = true := by decide

theorem witness_predResult_0 : allClear predResult PredResult.uses [
    .icmpI32 5 .gt 3 42 28, .icmpN32 5 .gt 3 42 28, .icmpI64 5 .gt 3 42 28, .icmpN64 5 .gt 3 42 28, .fcmpF32 5 .nan 3 42 28,
    .fcmpF64 5 .nan 3 42 28, .pand 5 3 6 1, .por 5 3 6 1, .pxor 5 3 6 1, .pandn 5 3 6 1, .cenAll 5 3 6, .cenAny 5 3 6] = true := by decide

theorem witness_uniArith_0 : allClear uniArith UniResult.uses [
    .uniformIadd 42 26 50 true, .uniformIsub 42 26 50 true, .uniformImul 42 26 50 true, .uniformImulhiI 42 26 50 true,
    .uniformImulhiN 42 26 50 true, .uniformIminI 42 26 50 true, .uniformIminN 42 26 50 true, .uniformImaxI 42 26 50 true,
    .uniformImaxN 42 26 50 true, .uniformAnd 42 26 50 true, .uniformOr 42 26 50 true, .uniformXor 42 26 50 true,
    .uniformAndn 42 26 50 true, .uniformShl 42 26 50 true, .uniformShrN 42 26 50 true, .uniformShrI 42 26 50 true,
    .uniformRotl 42 26 50 true, .uniformIcmpI 42 26 50 true .gt, .uniformIcmpN 42 26 50 true .gt, .uniformFadd 42 26 50] = true := by decide

theorem witness_uniArith_1 : allClear uniArith UniResult.uses [
    .uniformFsub 42 26 50, .uniformFmul 42 26 50, .uniformFmin 42 26 50, .uniformFmax 42 26 50, .uniformFcmp 42 26 50 .nan,
    .uniformPopc 42 26 true, .uniformClz 42 26 true, .uniformBrev 42 26 true, .uniformMov 42 26 true,
    .uniformLiteralForm .icmpI 43 26 true .lt 0xDEADBEEF, .uniformLiteralForm .mov 42 0 false .eq 0xDEADBEEF,
    .uniformExtended .fma 42 26 50 38 .f64 .rd ⟨false, true, false, true, false, .i8⟩ none,
    .uniformExtended .isub 42 26 0 0 .i64 .rne ⟨true, false, false, false, false, .i8⟩ (some 0xDEADBEEF),
    .uniformExtended .cvt 43 26 0 0 .i32 .rz ⟨false, false, false, false, false, .f64⟩ none] = true := by decide

theorem witness_getResult_0 : allClear getResult UniResult.uses [
    .getGroup 42, .getTeamX 42, .getTeamY 42, .getTeamZ 42, .getGridX 42, .getGridY 42, .getGridZ 42, .getCore 42, .getCluster 42,
    .getDie 42, .getCtx 42, .getCycle 42, .getEm 42, .getLm 42, .getFmt 42] = true := by decide

/-! ### Hypotheses that are met: masks, transfers, returns -/

/-- A state meets the hypotheses of a statement about what an instruction leaves of its group. -/
def MetGroup (i : Instr) (r : GroupResult) : Prop := ∃ s h, Clear s h i r.uses .nothing ∧ r.ok s h

theorem witness_emSet : ∃ r, maskResult (.emSet 26) = some r ∧ MetGroup (.emSet 26) r :=
  ⟨_, rfl, benchOf (.emSet 26), _, clear_of (by decide +kernel), trivial⟩

theorem witness_pmPush : ∃ r, maskResult (.pmPush 5) = some r ∧ MetGroup (.pmPush 5) r :=
  ⟨_, rfl, benchOf (.pmPush 5), _, clear_of (by decide +kernel), by dsimp only; decide +kernel⟩

theorem witness_fmtSet : ∃ r, maskResult (.fmtSet 26) = some r ∧ MetGroup (.fmtSet 26) r :=
  ⟨_, rfl, benchOf (.fmtSet 26), _, clear_of (by decide +kernel), trivial⟩

theorem witness_fmtSetImm : ∃ r, maskResult (.fmtSetImm 0x7FFF) = some r ∧ MetGroup (.fmtSetImm 0x7FFF) r :=
  ⟨_, rfl, benchOf (.fmtSetImm 0x7FFF), _, clear_of (by decide +kernel), trivial⟩

theorem witness_nop : ∃ r, maskResult (.nop) = some r ∧ MetGroup (.nop) r :=
  ⟨_, rfl, benchOf (.nop), _, clear_of (by decide +kernel), trivial⟩

theorem witness_fence : ∃ r, maskResult (.fence .sys) = some r ∧ MetGroup (.fence .sys) r :=
  ⟨_, rfl, benchOf (.fence .sys), _, clear_of (by decide +kernel), by dsimp only; decide +kernel⟩

theorem witness_pmInv : ∃ r, maskResult (.pmInv) = some r ∧ MetGroup (.pmInv) r :=
  ⟨_, rfl, benchPath .pmInv fun p => { p with pst := [0x0F, 0xFF] }, _, clear_of (by decide +kernel), by dsimp only; decide +kernel⟩

theorem witness_pmPop : ∃ r, maskResult (.pmPop) = some r ∧ MetGroup (.pmPop) r :=
  ⟨_, rfl, benchPath .pmPop fun p => { p with pst := [0x0F, 0xFF] }, _, clear_of (by decide +kernel), by dsimp only; decide +kernel⟩

theorem witness_pmPush_fifteenth : ∃ r, maskResult (.pmPush 5) = some r ∧ MetGroup (.pmPush 5) r :=
  ⟨_, rfl, benchPath (.pmPush 5) fun p => { p with pst := List.replicate 16 0xFF }, _, clear_of (by decide +kernel), by dsimp only; decide +kernel⟩

theorem witness_bra : ∃ r, transferResult (.bra .always 0 0xFFFF) = some r ∧ MetGroup (.bra .always 0 0xFFFF) r :=
  ⟨_, rfl, benchOf (.bra .always 0 0xFFFF), _, clear_of (by decide +kernel), by dsimp only; decide +kernel⟩

theorem witness_bra_not_taken : ∃ r, transferResult (.bra .nz 5 0x7FFF) = some r ∧ MetGroup (.bra .nz 5 0x7FFF) r :=
  ⟨_, rfl, benchOf (.bra .nz 5 0x7FFF), _, clear_of (by decide +kernel), by dsimp only; decide +kernel⟩

theorem witness_braInd : ∃ r, transferResult (.braInd 26) = some r ∧ MetGroup (.braInd 26) r :=
  ⟨_, rfl, benchArch (.braInd 26) fun a => a.setX 26 0x100, _, clear_of (by decide +kernel), by dsimp only; decide +kernel⟩

theorem witness_call : ∃ r, transferResult (.call 0xFFFF) = some r ∧ MetGroup (.call 0xFFFF) r :=
  ⟨_, rfl, benchOf (.call 0xFFFF), _, clear_of (by decide +kernel), by dsimp only; decide +kernel⟩

theorem witness_callInd : ∃ r, transferResult (.callInd 26) = some r ∧ MetGroup (.callInd 26) r :=
  ⟨_, rfl, benchArch (.callInd 26) fun a => a.setX 26 0x100, _, clear_of (by decide +kernel), by dsimp only; decide +kernel⟩

theorem witness_brd_none : MetGroup (.brd 5 false 0xFFFF 0xFFFF) (brdResult 5 false 0xFFFF 0xFFFF) :=
  ⟨benchOf (.brd 5 false 0xFFFF 0xFFFF), _, clear_of (by decide +kernel), ⟨by decide +kernel, fun h => absurd h (by decide +kernel)⟩⟩

theorem witness_brd_all : MetGroup (.brd 7 false 0xFFFF 0xFFFF) (brdResult 7 false 0xFFFF 0xFFFF) :=
  ⟨benchOf (.brd 7 false 0xFFFF 0xFFFF), _, clear_of (by decide +kernel), ⟨by decide +kernel, fun h => absurd h (by decide +kernel)⟩⟩

theorem witness_brd_splits : MetGroup (.brd 5 false 0xFFFF 0xFFFF) (brdResult 5 false 0xFFFF 0xFFFF) :=
  ⟨benchArch (.brd 5 false 0xFFFF 0xFFFF) fun a => a.setP 5 0xFF, _, clear_of (by decide +kernel), ⟨by decide +kernel, fun _ => ⟨⟨packHeader 0 0 1 1, ok_of_toOption (by decide +kernel), by decide +kernel⟩, by decide +kernel, by decide +kernel⟩⟩⟩

theorem witness_callFk : MetGroup (.callFk 0xFFFF 3 29 42 83 0) (callFkResult 0xFFFF 3 29 42 83 0) :=
  ⟨benchOf (.callFk 0xFFFF 3 29 42 83 0), _, clear_of (by decide +kernel), by dsimp only [callFkResult]; decide +kernel⟩

theorem witness_ret : MetGroup (.ret) (retResult) :=
  ⟨benchArch .ret fun a => { a with stack := [.call 0x100 0 0 0 0 0] }, _, clear_of (by decide +kernel), ⟨by decide +kernel, by decide +kernel, _, _, _, _, _, _, rfl, by decide +kernel⟩⟩

theorem witness_exit_some : MetGroup (.exit) (exitSome) :=
  ⟨benchPath .exit fun p => { p with pst := [0xFF] }, _, clear_of (by decide +kernel), by dsimp only [exitSome]; decide +kernel⟩

theorem witness_waitK : MetGroup (.waitK 27 11) (waitKResult 27 11) :=
  ⟨benchArch (.waitK 27 11) fun a => (a.setS 27 63).setK 11 63, _, clear_of (by decide +kernel), by dsimp only [waitKResult]; decide +kernel⟩

theorem witness_waitK_parks : ∃ s h, Clear s h (.waitK 27 11) (srcS 27) .nothing ∧ (h.a.getS (27 : SReg).toNat).toNat < h.a.getK (11 : BitVec 4).toNat ∧
    KeepsShare s h (.waitK 11 (h.a.getS (27 : SReg).toNat).toNat) :=
  ⟨benchArch (.waitK 27 11) fun a => (a.setS 27 62).setK 11 63, _, clear_of (by decide +kernel), by decide +kernel, by decide +kernel⟩

/-- A state meets the hypotheses of a statement about an instruction's effect. -/
def MetEffect (i : Instr) (e : Effect) : Prop := ∃ s h, Clear s h i e.allUses e.raises ∧ e.ok s h

theorem witness_ret_fork : MetEffect .ret retForkEffect :=
  ⟨benchArch .ret fun a => { a with stack := [.call 0x100 0 0 1 0 0] }, _, clear_of (by decide +kernel),
    by decide +kernel, by decide +kernel, by decide +kernel, by decide +kernel, _, _, _, _, _, _, rfl, by decide +kernel⟩

/-- A continuation of that call, which has stored a byte of team memory and has written s40. -/
def fork0 (a : Arch) (f : Cont → Cont) : Cont :=
  f { shadow := 0, arch := a.setS 40 7, preds := [(1, 0, 0)], declared := [1], belay := [(teamKey 0 64, 5)], lines := [], readFirst := [⟨.s, 41⟩],
      wrote := [(⟨.s, 40⟩, 0xFFFFFFFF)], calleeWrote := [⟨.s, 42⟩], exited := false, stopped := false, depth := 0, ret := 1, ops := 0, base := 256,
      forked := 0, privs := [], losses := 0 }
def forking (f : Cont → Cont) : State :=
  let s := benchArch .ret fun a => { a with stack := [.call 0x100 0 0 1 3 2] }
  { s with groups := s.groups.map fun g => { g with conts := [fork0 g.arch f] } }

theorem witness_ret_commits : MetEffect .ret (retResolveEffect true) :=
  ⟨forking id, _, clear_of (by decide +kernel), by decide +kernel, by decide +kernel, by decide +kernel, by decide +kernel,
    _, _, _, _, _, _, _, _, rfl, by decide +kernel, rfl, by decide +kernel, by decide +kernel⟩
/-- The callee has written what the continuation read. -/
theorem witness_ret_squashes : MetEffect .ret (retResolveEffect false) :=
  ⟨forking fun c => { c with calleeWrote := [⟨.s, 41⟩] }, _, clear_of (by decide +kernel), by decide +kernel, by decide +kernel, by decide +kernel,
    by decide +kernel, _, _, _, _, _, _, _, _, rfl, by decide +kernel, rfl, by decide +kernel, by decide +kernel⟩

theorem witness_exit_all : MetEffect .exit exitAllEffect :=
  ⟨benchOf .exit, _, clear_of (by decide +kernel), by dsimp only [exitAllEffect]; decide +kernel⟩

/-! ### Hypotheses that are met: memory, engines, units -/

/-- The bench for an instruction, changed. -/
def benchWith (i : Instr) (f : State → State) : State := f (benchOf i)

theorem met {i : Instr} {e : Effect} (s : Instr → State) (c : clearB (s i) i e.allUses e.raises = true)
    (ok : e.ok (s i) ((s i).here.get (here_of_clearB c))) : MetEffect i e := ⟨s i, _, clear_of c, ok⟩

/-- Every active lane's access is sound, and none waits. -/
def lanesOkB (s : State) (h : Here) (g : Guard) (a : VReg) (sp : Space) (store : Bool) (n : Nat) : Bool :=
  ((lanesOf (h.active g)).all fun l =>
    match s.laneBytes h sp store n l (h.offset a l) with
    | .ok b => b.runs.all fun r => !s.isLost r.1 r.2
    | .error _ => false) &&
  !s.privHeld h g a sp n && h.a.tracked.all fun t => t.late.isEmpty

theorem lanesOk_of {s h g a sp store n} (c : lanesOkB s h g a sp store n = true) : s.lanesOk h g a sp store n := by
  unfold lanesOkB at c
  simp only [Bool.and_eq_true, Bool.not_eq_true', List.all_eq_true, List.isEmpty_iff] at c
  refine ⟨fun l hl => ?_, c.1.2, c.2⟩
  have hc := c.1.1 l hl
  cases hb : s.laneBytes h sp store n l (h.offset a l) with
  | error e => simp [hb] at hc
  | ok b => exact ⟨b, rfl, by simpa [hb] using hc⟩

/-- The last bytes of team memory that lane 31 reaches, and the first. -/
def lastLane (n : Nat) (a : Arch) : Arch := { a with v := Sparse.put a.v (32 * 42 + 31) (BitVec.ofNat 32 (65536 - n)) }

theorem witness_loads : ∀ i ∈ [Instr.ldN8 7 84 42 .plain .grp .team, .ldI8 7 84 42 .plain .grp .team, .ldN16 7 84 42 .plain .grp .team,
    .ldI16 7 84 42 .plain .grp .team, .ldB32 7 84 42 .acq .sys .team, .ldB64 7 84 42 .plain .grp .team, .ldB128 7 84 42 .plain .grp .die],
    ∃ e, laneMemEffect i = some e ∧ MetEffect i e := by
  intro i hi
  simp only [List.mem_cons, List.not_mem_nil, or_false] at hi
  rcases hi with rfl | rfl | rfl | rfl | rfl | rfl | rfl <;>
    exact ⟨_, rfl, met benchOf (by decide +kernel) ⟨by decide +kernel, lanesOk_of (by decide +kernel)⟩⟩

theorem witness_stores : ∀ i ∈ [Instr.stB8 7 84 42 .plain .grp .team, .stB16 7 84 42 .plain .grp .team, .stB32 7 84 42 .plain .grp .die,
    .stB64 7 84 42 .rel .sys .team, .stB128 7 84 42 .plain .grp .team],
    ∃ e, laneMemEffect i = some e ∧ MetEffect i e := by
  intro i hi
  simp only [List.mem_cons, List.not_mem_nil, or_false] at hi
  rcases hi with rfl | rfl | rfl | rfl | rfl <;>
    exact ⟨_, rfl, met benchOf (by decide +kernel) ⟨by decide +kernel, lanesOk_of (by decide +kernel)⟩⟩

theorem witness_store_at_the_end : ∃ e, laneMemEffect (.stB128 7 84 42 .plain .grp .team) = some e ∧
    MetEffect (.stB128 7 84 42 .plain .grp .team) e :=
  ⟨_, rfl, met (fun i => benchArch i (lastLane 16)) (by decide +kernel) ⟨by decide +kernel, lanesOk_of (by decide +kernel)⟩⟩

theorem witness_atomics : ∀ i ∈ [Instr.atmAdd 7 84 42 28 .f32 .acqRel .pkg .die true, .atmMin 7 84 42 28 .i64 .plain .grp .team true,
    .atmMax 7 84 42 28 .n64 .plain .grp .team true, .atmAnd 7 84 42 28 .b64 .plain .grp .team true, .atmOr 7 0 42 28 .b32 .plain .grp .team false,
    .atmXor 7 84 42 28 .b64 .plain .grp .team true, .atmXchg 7 84 42 28 .b64 .plain .grp .team true, .atmCas 7 84 42 28 70 .b64 .plain .grp .team true],
    ∃ e, laneAtomicEffect i = some e ∧ MetEffect i e := by
  intro i hi
  simp only [List.mem_cons, List.not_mem_nil, or_false] at hi
  rcases hi with rfl | rfl | rfl | rfl | rfl | rfl | rfl | rfl <;>
    exact ⟨_, rfl, met benchOf (by decide +kernel) ⟨by decide +kernel, by decide +kernel, lanesOk_of (by decide +kernel)⟩⟩

/-- Every command's descriptor lies in the last 64 bytes of team memory. -/
def atTheEnd (i : Instr) : State := benchArch i fun a => a.setS 26 65472

theorem witness_engine : ∀ i ∈ [Instr.bcpT1 26, .bcpT2 26, .bcpT3 26, .bcpFill 26, .bgsGather 26, .bgsScatter 26, .bamAdd 26, .bamMin 26,
    .bamMax 26, .bamAnd 26, .bamOr 26, .bamXor 26, .bamXchg 26, .bamCas 26, .collSum 26 .i32, .collMax 26 .bf16, .collMin 26 .f32],
    ∃ e, engineEffect i = some e ∧ MetEffect i e := by
  intro i hi
  simp only [List.mem_cons, List.not_mem_nil, or_false] at hi
  rcases hi with rfl | rfl | rfl | rfl | rfl | rfl | rfl | rfl | rfl | rfl | rfl | rfl | rfl | rfl | rfl | rfl | rfl <;>
    exact ⟨_, rfl, met atTheEnd (by decide +kernel) ⟨by decide +kernel, by decide +kernel, by decide +kernel, fun _ => by decide +kernel⟩⟩

theorem witness_lnch : MetEffect (.lnch 26) (lnchEffect 26) :=
  ⟨(atTheEnd (.lnch 26)).onCore 0 0 fun c => { c with plq := [0, 1, 2] }, _, clear_of (by decide +kernel), by decide +kernel, by decide +kernel,
    by decide +kernel, by decide +kernel⟩

theorem witness_lnch_full : MetEffect (.lnch 26) (lnchParkEffect 26) :=
  ⟨(atTheEnd (.lnch 26)).onCore 0 0 fun c => { c with plq := [0, 1, 2, 3] }, _, clear_of (by decide +kernel), by decide +kernel, by decide +kernel,
    by decide +kernel, by decide +kernel, Or.inl (by decide +kernel)⟩

theorem witness_tfence : MetEffect (.tfence .dom) (tfenceEffect .dom) := met benchOf (by decide +kernel) trivial

theorem witness_stkHand : MetEffect (.stkHand 3 1) (stkHandEffect 3 1) :=
  ⟨benchWith (.stkHand 3 1) fun s => { s with ctxs := s.ctxs.map fun c => { c with dies := 3 } }, _, clear_of (by decide +kernel),
    by decide +kernel, by decide +kernel, by decide +kernel, by decide +kernel, by decide +kernel, by decide +kernel⟩

/-- The bench with the rope held by the group, the matrix team its own, and formats. -/
def roped (i : Instr) (f : BitVec 16) : State :=
  ((benchPath i fun p => { p with fmt := f }).onMx 0 0 fun m => { m with rope := some 0, team := some 0 })

theorem witness_mldE : ∃ e, mxEffect (.mldE 26) = some e ∧ MetEffect (.mldE 26) e :=
  ⟨_, rfl, met (fun i => roped i 0x99) (by decide +kernel) (by dsimp only [matrixEffect, Here.operandOk]; decide +kernel)⟩
theorem witness_mldS : ∃ e, mxEffect (.mldS 26) = some e ∧ MetEffect (.mldS 26) e :=
  ⟨_, rfl, met (fun i => roped i 0x55) (by decide +kernel) (by dsimp only [matrixEffect, Here.operandOk]; decide +kernel)⟩
theorem witness_mswp : ∃ e, mxEffect .mswp = some e ∧ MetEffect .mswp e :=
  ⟨_, rfl, met (fun i => roped i 0) (by decide +kernel) (by dsimp only [matrixEffect, Here.operandOk]; decide +kernel)⟩
theorem witness_mlp : ∃ e, mxEffect (.mlp 26) = some e ∧ MetEffect (.mlp 26) e :=
  ⟨_, rfl, met (fun i => roped i 0) (by decide +kernel) (by dsimp only [matrixEffect, Here.operandOk]; decide +kernel)⟩
theorem witness_mlpZero : ∃ e, mxEffect (.mlpZero 26) = some e ∧ MetEffect (.mlpZero 26) e :=
  ⟨_, rfl, met (fun i => roped i 0) (by decide +kernel) (by dsimp only [matrixEffect, Here.operandOk]; decide +kernel)⟩
theorem witness_mdrn : ∃ e, mxEffect (.mdrn 26) = some e ∧ MetEffect (.mdrn 26) e :=
  ⟨_, rfl, met (fun i => roped i 0x2900) (by decide +kernel) (by dsimp only [matrixEffect, Here.operandOk]; decide +kernel)⟩
theorem witness_mdrnScl : ∃ e, mxEffect (.mdrnScl 26) = some e ∧ MetEffect (.mdrnScl 26) e :=
  ⟨_, rfl, met (fun i => roped i 0) (by decide +kernel) (by dsimp only [matrixEffect, Here.operandOk]; decide +kernel)⟩
theorem witness_ropeTake : ∃ e, mxEffect .ropeTake = some e ∧ MetEffect .ropeTake e :=
  ⟨_, rfl, met (fun i => roped i 0) (by decide +kernel) (by dsimp only [matrixEffect, Here.operandOk]; decide +kernel)⟩
/-- The rope held by another group. -/
theorem witness_ropeTake_waits : MetEffect .ropeTake ropeWaitEffect :=
  met (fun i => benchMx i fun m => { m with rope := some 5 }) (by decide +kernel) ⟨by decide +kernel, by decide +kernel⟩
theorem witness_ropeGive : ∃ e, mxEffect .ropeGive = some e ∧ MetEffect .ropeGive e :=
  ⟨_, rfl, met (fun i => roped i 0) (by decide +kernel) (by dsimp only [matrixEffect, Here.operandOk]; decide +kernel)⟩

theorem witness_blkGive : ∃ e, blockEffect (.blkGive 15) = some e ∧ MetEffect (.blkGive 15) e :=
  ⟨_, rfl, met benchOf (by decide +kernel) (by dsimp only <;> decide +kernel)⟩
theorem witness_blkTake : ∃ e, blockEffect (.blkTake 13) = some e ∧ MetEffect (.blkTake 13) e :=
  ⟨_, rfl, { benchArch (.blkTake 13) (fun a => { a with blocks := 3 }) with
    teams := (benchOf (.blkTake 13)).teams.map fun t => { t with pools := [13, 0, 0, 0] } }, _, clear_of (by decide +kernel),
    by dsimp only <;> decide +kernel⟩

/-- Another path of the group can still give. -/
theorem witness_blkTake_parks : MetEffect (.blkTake 13) (blkTakeParkEffect 13) :=
  ⟨{ benchArch (.blkTake 13) (fun a => { a with blocks := 3, path1 := a.path0.map fun p => { p with m := 1 } }) with
    teams := (benchOf (.blkTake 13)).teams.map fun t => { t with pools := [12, 0, 0, 0] } }, _, clear_of (by decide +kernel),
    by decide +kernel, Or.inr (by decide +kernel), by decide +kernel, Or.inl (by decide +kernel)⟩

/-- The bench with two named barriers and a grid that has one barrier slot. -/
def barred (i : Instr) : State :=
  let s := benchOf i
  { s with
    teams := s.teams.map fun t => { t with bars := [⟨0, 0, 0, [], []⟩, ⟨0, 0, 0, [], []⟩] }
    grids := s.grids.map fun g => { g with desc := { g.desc with gbar := 1 } } }

theorem witness_named_barriers : ∀ i ∈ [Instr.tbarPass 0 0, .tbarHold 1 1], ∃ e, barrierEffect i = some e ∧ MetEffect i e := by
  intro i hi
  simp only [List.mem_cons, List.not_mem_nil, or_false] at hi
  rcases hi with rfl | rfl <;> exact ⟨_, rfl, met barred (by decide +kernel) (by dsimp only <;> decide +kernel)⟩

theorem witness_slot_barriers : ∀ i ∈ [Instr.gbarHold 26, .gbarPass 26, .cbarHold 26, .cbarPass 26],
    ∃ e, barrierEffect i = some e ∧ MetEffect i e := by
  intro i hi
  simp only [List.mem_cons, List.not_mem_nil, or_false] at hi
  rcases hi with rfl | rfl | rfl | rfl <;>
    exact ⟨_, rfl, met barred (by decide +kernel) ⟨⟨_, rfl, by decide +kernel⟩, by decide +kernel⟩⟩

theorem witness_watches : ∀ i ∈ [Instr.watch 26 .t, .watch 26 .d, .unwatch 26, .waitW 26], ∃ e, watchEffect i = some e ∧ MetEffect i e := by
  intro i hi
  simp only [List.mem_cons, List.not_mem_nil, or_false] at hi
  rcases hi with rfl | rfl | rfl | rfl <;>
    exact ⟨_, rfl, met benchOf (by decide +kernel) (by dsimp only <;> decide +kernel)⟩

theorem witness_waitW_parks : MetEffect (.waitW 26) (waitWParkEffect 26) :=
  ⟨let s := benchOf (.waitW 26); { s with groups := s.groups.map fun g => { g with cairn := some ⟨.team, 0, teamKey 0 0, false⟩ } }, _,
    clear_of (by decide +kernel), ⟨_, rfl, by decide +kernel⟩, Or.inl (by decide +kernel)⟩

theorem witness_messages : ∀ i ∈ [Instr.qBell 26 50, .sint 26], ∃ e, messageEffect i = some e ∧ MetEffect i e := by
  intro i hi
  simp only [List.mem_cons, List.not_mem_nil, or_false] at hi
  rcases hi with rfl | rfl <;>
    exact ⟨_, rfl, met (fun i => benchArch i fun a => a.setS 26 0x80000000) (by decide +kernel) (by dsimp only <;> decide +kernel)⟩

/-- The bench with one mailbox word at 0xF000 of stack 0, full or empty. -/
def boxed (i : Instr) (full : Nat) : State :=
  let s := benchOf i
  { s with
    mem := homeFields s.mem [(0xF000, 8, 0x1122334455667788), (0xF008, 8, full)]
    ctxs := s.ctxs.map fun c => { c with mba := homeTag 0xF000, mbn := 1 } }

theorem witness_mbxGet : ∃ e, mailboxEffect (.mbxGet 42 26) = some e ∧ MetEffect (.mbxGet 42 26) e :=
  ⟨_, rfl, met (fun i => boxed i 1) (by decide +kernel) ⟨_, rfl, by dsimp only <;> decide +kernel⟩⟩
theorem witness_mbxPut : ∃ e, mailboxEffect (.mbxPut 26 50) = some e ∧ MetEffect (.mbxPut 26 50) e :=
  ⟨_, rfl, met (fun i => boxed i 0) (by decide +kernel) ⟨_, rfl, by dsimp only <;> decide +kernel⟩⟩

theorem witness_mbxGet_parks : ∃ e, mailboxParkEffect (.mbxGet 42 26) = some e ∧ MetEffect (.mbxGet 42 26) e :=
  ⟨_, rfl, met (fun i => boxed i 0) (by decide +kernel) ⟨⟨_, rfl, by dsimp only <;> decide +kernel⟩, Or.inl (by decide +kernel)⟩⟩
theorem witness_mbxPut_parks : ∃ e, mailboxParkEffect (.mbxPut 26 50) = some e ∧ MetEffect (.mbxPut 26 50) e :=
  ⟨_, rfl, met (fun i => boxed i 1) (by decide +kernel) ⟨⟨_, rfl, by dsimp only <;> decide +kernel⟩, Or.inl (by decide +kernel)⟩⟩

/-- The bench with the counters of the core owned by context 1. -/
def counting (i : Instr) : State := (benchOf i).onCore 0 0 fun c => { c with perfctl := 1 }

theorem witness_sys : ∀ i ∈ [Instr.sysRd 42 11, .sysRd 43 16, .sysWr 26 16], ∃ e, sysEffect i = some e ∧ MetEffect i e := by
  intro i hi
  simp only [List.mem_cons, List.not_mem_nil, or_false] at hi
  rcases hi with rfl | rfl | rfl <;>
    exact ⟨_, rfl, met counting (by decide +kernel) (by dsimp only <;> decide +kernel)⟩

/-- The bench with a refinement block in the last 128 bytes of team memory: routines at 0x100, limits, one rung; and its phase. -/
def refining (i : Instr) (phase : Nat) (f : Arch → Arch) : State :=
  let s := benchArch i f
  let fs : List (Nat × Nat × Nat) := [(0x00, 8, 0x100), (0x08, 8, 0x100), (0x10, 8, 0x100), (0x18, 8, 0x100), (0x20, 8, 0x100),
    (0x2C, 4, 0x3F800000), (0x30, 4, 0x3F800000), (0x34, 4, 0x1000000), (0x3C, 1, 1), (0x3F, 1, phase)]
  { s with mem := fs.foldl (fun m e => putBytes m (teamKey 0 (65408 + e.1)) (toBytes e.2.1 e.2.2)) s.mem }

theorem witness_rflRun : MetEffect (.rflRun 26) (rflRunEffect 26) :=
  ⟨refining (.rflRun 26) 8 (fun a => a.setS 26 65408), _, clear_of (by decide +kernel), by dsimp only [rflRunEffect]; decide +kernel⟩
theorem witness_rflPut : MetEffect (.rflPut 26 50) (rflPutEffect 26 50) :=
  ⟨refining (.rflPut 26 50) 2 (fun a => { a with stack := [.call 0x100 0 0 2 0 65408] }), _, clear_of (by decide +kernel),
    by decide +kernel, by decide +kernel, 65408, by decide +kernel, by decide +kernel, by decide +kernel⟩

/-- A path at the end of a run's routine: the frame's FLAGS say which. -/
def atFrame (phase : Nat) (fl : BitVec 8) (fs : List (Nat × Nat × Nat)) : State :=
  let s := refining .ret phase fun a => { a with stack := [.call 0x100 0 0 fl 0 65408] }
  { s with mem := fs.foldl (fun m e => putBytes m (teamKey 0 (65408 + e.1)) (toBytes e.2.1 e.2.2)) s.mem }
/-- From the solve routine into the residual routine. -/
theorem witness_ret_solved : MetEffect .ret retRunEffect :=
  ⟨atFrame 1 2 [], _, clear_of (by decide +kernel), 0x100, 0, 2, 65408, _,
    ⟨by decide +kernel, by decide +kernel, by decide +kernel, by decide +kernel, ⟨0, 0, [], by decide +kernel⟩, by decide +kernel⟩,
    some_of (by decide +kernel)⟩
/-- From the residual routine by the test of the norms. -/
theorem witness_ret_tested : MetEffect .ret retRunEffect :=
  ⟨atFrame 2 6 [(0x69, 1, 0)], _, clear_of (by decide +kernel), 0x100, 0, 6, 65408, _,
    ⟨by decide +kernel, by decide +kernel, by decide +kernel, by decide +kernel, ⟨0, 0, [], by decide +kernel⟩, by decide +kernel⟩,
    some_of (by decide +kernel)⟩
/-- The run's last pass is made, and POLICY bit 3 asks for the fault. -/
theorem witness_run_exhausted : ∀ H : Obligations.Refinement, ∃ h pc f fl w c n1 n2 n3 n4 n5,
    Premise (H.2.2.2 (atFrame 2 6 [(0x34, 4, 1), (0x3E, 1, 8)]) h pc f fl w c n1 n2 n3 n4 n5) :=
  fun _ => ⟨_, 0x100, 0, 6, 65408, _, clear_of (by decide +kernel),
    ⟨by decide +kernel, by decide +kernel, by decide +kernel, by decide +kernel, ⟨0, 0, [], by decide +kernel⟩, by decide +kernel⟩,
    by decide +kernel, by decide +kernel, some_of (by decide +kernel), by delta Premise; decide +kernel⟩

theorem witness_trap : ∃ s h, Clear s h (.trap 63) [] .nothing := ⟨benchOf (.trap 63), _, clear_of (by decide +kernel)⟩

/-! ### Hypotheses that are met: steps of ports and the package -/

/-- The module right after reset with every port in a state, in Stage D. -/
def ported (st : PortState) (lanes : Nat) (att : Nat := 0) (rep : Nat := 0) : State :=
  { State.reset with
    ports := State.reset.ports.map fun u => { u with st := st, lanes := lanes, attempts := att, replays := rep }
    pkg := { Package.reset with stage := .d, stageDue := false, dieok := 15 } }

theorem witness_Ports_flitReplay : ∀ H : Obligations.Ports, Premise (H.1 15 (ported .degraded 4)) :=
  fun _ => ⟨rfl, _, rfl, by decide⟩
theorem witness_Ports_replayLimit : ∀ H : Obligations.Ports, Premise (H.2.1 15 (ported .up 8 0 16)) := fun _ => ⟨rfl, _, rfl, by decide⟩
theorem witness_Ports_portEnable : ∀ H : Obligations.Ports, Premise (H.2.2.1 0 (ported .down 0)) := fun _ => ⟨rfl, rfl, _, rfl, rfl⟩
theorem witness_Ports_training_fails : ∀ H : Obligations.Ports, Premise (H.2.2.2.1 0 3 (ported .training 0)) :=
  fun _ => ⟨by decide, rfl, _, rfl, rfl⟩
theorem witness_Ports_third_attempt : ∀ H : Obligations.Ports, Premise (H.2.2.2.2.1 0 (ported .training 0 2)) :=
  fun _ => ⟨rfl, _, rfl, rfl, by decide⟩
theorem witness_Ports_second_attempt : ∀ H : Obligations.Ports, Premise (H.2.2.2.2.2.1 0 (ported .training 0 1)) :=
  fun _ => ⟨rfl, _, rfl, rfl, by decide⟩
theorem witness_Ports_training_ends : ∀ H : Obligations.Ports, Premise (H.2.2.2.2.2.2.1 0 4 (ported .training 0)) :=
  fun _ => ⟨by decide, by decide, rfl, _, rfl, rfl⟩
theorem witness_Ports_laneFailure : ∀ H : Obligations.Ports, Premise (H.2.2.2.2.2.2.2.1 7 (ported .up 8)) := fun _ => ⟨rfl, _, rfl, rfl⟩
theorem witness_Ports_portDisable : ∀ H : Obligations.Ports, Premise (H.2.2.2.2.2.2.2.2.1 7 (ported .failed 0)) :=
  fun _ => ⟨rfl, _, rfl, by decide⟩
theorem witness_Ports_portDisable_down : ∀ H : Obligations.Ports, Premise (H.2.2.2.2.2.2.2.2.2.1 7 (ported .down 0)) :=
  fun _ => ⟨rfl, _, rfl, rfl⟩
theorem witness_Ports_apertureBaseWrite : ∀ H : Obligations.Ports,
    Premise (H.2.2.2.2.2.2.2.2.2.2.1 0x2000000 0x20000000000 State.reset) := fun _ => ⟨rfl, rfl, rfl, rfl⟩
theorem witness_Ports_moduleLevelRetry : ∀ H : Obligations.Ports,
    Premise (H.2.2.2.2.2.2.2.2.2.2.2.1 0 { State.reset with pkg := { Package.reset with modules := [⟨0, true, true, 0, []⟩] } }) :=
  fun _ => ⟨_, List.mem_singleton.mpr rfl, rfl, rfl⟩
theorem witness_Ports_laneRepair : ∀ H : Obligations.Ports,
    Premise (H.2.2.2.2.2.2.2.2.2.2.2.2 0 63 { State.reset with pkg := { Package.reset with modules := [⟨0, true, true, 0, []⟩] } }) :=
  fun _ => ⟨by decide, _, List.mem_singleton.mpr rfl, rfl⟩

/-! ### Hypotheses that are met: steps of a group's paths -/

theorem witness_ClauseEntry : ∀ H : Obligations.ClauseEntry,
    Premise (H (benchPath .nop fun p => { p with pc := 0x100, hdr := 0, words := [], entry := .target })) :=
  fun _ => ⟨_, _, some_of (by decide +kernel), by decide +kernel, by decide +kernel, by decide +kernel, by decide +kernel,
    ok_of (by decide +kernel), by decide +kernel⟩

/-- The bench with its path parked. -/
def parked (k : Park) (f : Arch → Arch) : State := benchArch .nop fun a => f { a with path0 := a.path0.map fun p => { p with park := some k } }

theorem witness_Wakes_counter : ∀ H : Obligations.Wakes, Premise (H.1 0 false (parked (.waitK 11 3) fun a => a.setK 11 3)) :=
  fun _ => ⟨_, _, _, rfl, rfl, rfl, by decide +kernel, by decide +kernel⟩
theorem witness_Wakes_header : ∀ H : Obligations.Wakes, Premise (H.1 0 false (parked (.waitHdr 0x800) id)) :=
  fun _ => ⟨_, _, _, rfl, rfl, rfl, by decide +kernel, by decide +kernel⟩
theorem witness_Wakes_cairn : ∀ H : Obligations.Wakes, Premise (H.2.1 0 false
    (let s := parked (.cairn 8) id; { s with groups := s.groups.map fun g => { g with cairn := some ⟨.team, 8, teamKey 0 8, true⟩ } })) :=
  fun _ => ⟨_, _, _, _, rfl, rfl, rfl, rfl, by decide +kernel, by decide +kernel⟩
theorem witness_Wakes_spin : ∀ H : Obligations.Wakes, Premise (H.2.2.1 0 (parked (.spin [1] true) id)) :=
  fun _ => ⟨_, _, _, rfl, rfl, rfl, by decide +kernel⟩
theorem witness_Wakes_mailbox : ∀ H : Obligations.Wakes, Premise (H.2.2.2 0 false (parked (.mbx true 0 (some 0) true) id)) :=
  fun _ => ⟨_, _, _, _, _, _, rfl, rfl, rfl, rfl, by decide +kernel⟩

theorem witness_PathSteps_starvation : ∀ H : Obligations.PathSteps, Premise (H.1 0 0 0 (benchPath .nop fun p => { p with passed := 256 })) :=
  fun _ => ⟨(0, false, none, 256), by decide +kernel, by decide +kernel⟩
theorem witness_PathSteps_retire : ∀ H : Obligations.PathSteps, Premise (H.2.1 0
    (let s := benchOf .nop; { s with groups := s.groups.map fun g => { g with exited := true } })) :=
  fun _ => ⟨_, rfl, rfl, rfl, by decide +kernel⟩
theorem witness_PathSteps_spin : ∀ H : Obligations.PathSteps, Premise (H.2.2 0
    (let s := benchOf .nop
     { s with groups := s.groups.map fun g => { g with detector := some ⟨0x104, 0x100, 0x108, 4, true, [], [], [], [], false, 4, true⟩ } })) :=
  fun _ => ⟨_, _, _, _, _, _, rfl, rfl, rfl, rfl, rfl, by decide +kernel⟩

/-- The bench with private slot 1 and its page, and a split stack. -/
def splitBench (n spilled : Nat) : State :=
  let s := benchArch .nop fun a => { a with stack := (List.range n).map fun j => .call 0x100 0 0 0 0 (BitVec.ofNat 32 j), spilled := spilled }
  { s with
    mem := homeFields s.mem [(0x3040, 8, 0x10001), (0x10000, 8, 0x11083)]
    groups := s.groups.map fun g => { g with priv := 1 } }

theorem witness_SplitStackSteps_spill : ∀ H : Obligations.SplitStackSteps, Premise (H.1 0 (splitBench 9 0)) :=
  fun _ => ⟨_, _, _, some_of (by decide +kernel), by decide +kernel, some_of (by decide +kernel), ok_of (by decide +kernel), by decide +kernel, by decide +kernel⟩
theorem witness_SplitStackSteps_refill : ∀ H : Obligations.SplitStackSteps, Premise (H.2 0 (splitBench 7 1)) :=
  fun _ => ⟨_, _, some_of (by decide +kernel), by decide +kernel, ok_of (by decide +kernel), by decide +kernel, by decide +kernel⟩

/-! ### Hypotheses that are met: the matrix unit -/

/-- A thread of the matrix unit. -/
def mxThread (k : MxKind) (f : BitVec 16) : MxThread := ⟨0, k, 0, 0, none, f, 0x104, 0, none, 0, [], 0⟩
def mxBench (f : Matrix → Matrix) : State := benchMx .nop f

theorem witness_MatrixSteps_grant : ∀ H : Obligations.MatrixSteps, Premise (H.1 0 0 (mxBench fun m => { m with ropeq := [(0, 0)], team := some 0 })) :=
  fun _ => ⟨(0, 0), [], _, by decide +kernel, rfl, by decide +kernel, by decide +kernel, by decide +kernel, by decide +kernel⟩
theorem witness_MatrixSteps_elements : ∀ H : Obligations.MatrixSteps, Premise (H.2.1 0 0 (mxBench fun m => { m with threads := [mxThread (.mldE 64) 0x99] })) :=
  fun _ => ⟨mxThread (.mldE 64) 0x99, 64, by decide +kernel, Or.inl ⟨rfl, by decide +kernel⟩⟩
theorem witness_MatrixSteps_scales : ∀ H : Obligations.MatrixSteps, Premise (H.2.1 0 0 (mxBench fun m => { m with threads := [mxThread (.mldS 8) 0x55] })) :=
  fun _ => ⟨mxThread (.mldS 8) 0x55, 8, by decide +kernel, Or.inr ⟨rfl, by decide +kernel⟩⟩
theorem witness_MatrixSteps_exchange : ∀ H : Obligations.MatrixSteps, Premise (H.2.2.1 0 0 (mxBench fun m => { m with threads := [mxThread .mswp 0] })) :=
  fun _ => ⟨mxThread .mswp 0, by decide +kernel⟩
theorem witness_MatrixSteps_release : ∀ H : Obligations.MatrixSteps, Premise (H.2.2.2.1 0 0 (mxBench fun m => { m with release := true })) :=
  fun _ => ⟨by decide +kernel, by decide +kernel⟩
theorem witness_MatrixSteps_blocks : ∀ H : Obligations.MatrixSteps, Premise (H.2.2.2.2 0 0
    (let s := parked (.blk 2 0) fun a => { a with blocks := 4 }
     { s with teams := s.teams.map fun t => { t with pools := [2, 0, 0, 0], takers := [(0, 0)] } })) :=
  fun _ => ⟨_, _, _, _, _, _, _, rfl, by decide +kernel, rfl, rfl, rfl, rfl, by decide +kernel⟩

/-- A loop record at offset 0 of one step, and a drain record of one row, in formats that need no scales. -/
theorem witness_MatrixLoopStep : ∀ H : Obligations.MatrixLoopStep, Premise (H 0 0
    (let s := mxBench fun m => { m with threads := [mxThread (.mlp 0 true) 0] }
     { s with mem := putBytes s.mem (teamKey 0 0x14) [1] })) :=
  fun _ => ⟨mxThread (.mlp 0 true) 0, _, 0, true, by decide +kernel, rfl, rfl, by decide +kernel, fun _ => ⟨by decide +kernel, by decide +kernel⟩,
    by decide +kernel⟩
theorem witness_MatrixDrainStep : ∀ H : Obligations.MatrixDrainStep, Premise (H 0 0
    (let s := mxBench fun m => { m with threads := [mxThread (.mdrn 0 false) 0] }
     { s with mem := putBytes s.mem (teamKey 0 0x02) [1] })) :=
  fun _ => ⟨mxThread (.mdrn 0 false) 0, _, 0, false, by decide +kernel, rfl, rfl, fun _ => ⟨by decide +kernel, by decide +kernel⟩, by decide +kernel⟩

/-! ### Hypotheses that are met: engine threads -/

/-- The 64 bytes of a descriptor or record from its fields. -/
def rec64 (fs : List (Nat × Nat × Nat)) : List Byte := (List.range 64).map (fieldsAt (fun _ => 0) 0 fs)

/-- Thread 0 of the bench's group. -/
def thread0 (k : ThreadKind) (st : ThreadState) (desc : List Byte) (idx : Nat) : Thread :=
  { id := 0, kind := k, grp := 0, team := 0, grid := 1, ctx := 1, die := 0, site := 0, slot := 0, gidx := 0, pc := 0x104, iword := 0, path := .B,
    seq := none, st := st, off := 0, desc := desc, idx := idx, ahead := [], args := [], child := none, fenced := [], waits := [], orphan := false }

/-- The bench with one thread, and its descriptor at the start of team memory. -/
def threaded (t : Thread) : State :=
  let s := benchOf .nop
  { s with threads := [t], mem := putBytes s.mem (teamKey 0 0) t.desc }

/-- One 4-byte element from main memory 0x2000 to the last bytes of team memory. -/
def copyDesc : List Byte := rec64 [(0x00, 8, 0x2000), (0x08, 8, 65532), (0x10, 4, 1), (0x14, 2, 1), (0x16, 2, 1), (0x38, 4, 0x22)]
/-- One 4-byte element, by the index in team memory at 0x100, from main memory 0x2000 on to team memory. -/
def gatherDesc : List Byte := rec64 [(0x00, 8, 0x2000), (0x08, 8, 0x200), (0x10, 4, 0x100), (0x14, 4, 1), (0x18, 4, 4), (0x20, 8, 4), (0x38, 4, 2)]
/-- One i32 operation on main memory 0x2000, its argument in team memory at 0x100; a completion word at 0x2008. -/
def bamDesc (cw : Nat) : List Byte := rec64 [(0x00, 8, 0x2000), (0x08, 4, 0x100), (0x10, 4, 1), (0x28, 8, cw * 0x2008), (0x38, 4, 0x0A + 64 * cw)]

theorem witness_EngineSteps_descriptor : ∀ H : Obligations.EngineSteps,
    Premise (H.1 0 (threaded (thread0 (.copy 1) .fresh copyDesc 0))) :=
  fun _ => ⟨_, _, rfl, by decide +kernel, by decide +kernel⟩
/-- The bytes that a copy reads now. -/
theorem copyBytes_of {s : State} {x : Thread} {tm : Team} {k : Nat} (h1 : x.kind ≠ .fill) (h2 : ¬ k * copyBytes x.desc ≤ x.ahead.length)
    (h : (s.readAt x tm (descCtl x.desc 0 2) ((copyAt x.desc x.idx).1 + x.ahead.length)
      (min ((copyAt x.desc x.idx).1 + ((copyN x.desc 0 - x.idx % copyN x.desc 0) * copyBytes x.desc : Nat))
        (((copyAt x.desc x.idx).1 + (k * copyBytes x.desc : Nat) + 7) / 8 * 8) - ((copyAt x.desc x.idx).1 + x.ahead.length)).toNat).toOption.isSome = true) :
    CopyBytes s x tm k ((x.ahead ++ Option.get _ h).take (k * copyBytes x.desc)) := by
  simp only [CopyBytes, h1, h2, if_false]
  exact ⟨_, ok_of h, rfl⟩

theorem witness_EngineSteps_copy : ∀ H : Obligations.EngineSteps,
    Premise (H.2.1 0 (threaded (thread0 (.copy 1) .running copyDesc 0))) :=
  fun _ => ⟨thread0 (.copy 1) .running copyDesc 0, _, _, _, rfl, by decide +kernel, rfl, ⟨fun _ => by decide +kernel, by decide +kernel,
    copyBytes_of (by decide) (by decide) (by decide +kernel), ok_of (by decide +kernel)⟩⟩
theorem witness_EngineSteps_fill : ∀ H : Obligations.EngineSteps,
    Premise (H.2.1 0 (threaded (thread0 .fill .running copyDesc 0))) :=
  fun _ => ⟨thread0 .fill .running copyDesc 0, _, _, _, rfl, by decide +kernel, rfl, ⟨fun h => absurd rfl h, by decide +kernel, rfl,
    ok_of (by decide +kernel)⟩⟩
theorem witness_EngineSteps_gather : ∀ H : Obligations.EngineSteps,
    Premise (H.2.2.1 0 (threaded (thread0 .gather .running gatherDesc 0))) :=
  fun _ => ⟨thread0 .gather .running gatherDesc 0, _, _, _, _, rfl, by decide +kernel, rfl, ⟨ok_of (by decide +kernel), by decide +kernel,
    by decide +kernel, by decide +kernel, ok_of (by decide +kernel), ok_of (by decide +kernel)⟩⟩
theorem witness_EngineSteps_scatter : ∀ H : Obligations.EngineSteps,
    Premise (H.2.2.1 0 (threaded (thread0 .scatter .running gatherDesc 0))) :=
  fun _ => ⟨thread0 .scatter .running gatherDesc 0, _, _, _, _, rfl, by decide +kernel, rfl, ⟨ok_of (by decide +kernel), by decide +kernel,
    by decide +kernel, by decide +kernel, ok_of (by decide +kernel), ok_of (by decide +kernel)⟩⟩
theorem witness_EngineSteps_atomic : ∀ H : Obligations.EngineSteps,
    Premise (H.2.2.2.1 0 (threaded (thread0 (.bam .add) .running (bamDesc 0) 0))) :=
  fun _ => ⟨thread0 (.bam .add) .running (bamDesc 0) 0, _, .add, _, _, rfl, rfl, by decide +kernel, rfl, by decide +kernel,
    by decide +kernel, ok_of (by decide +kernel), ok_of (by decide +kernel)⟩
theorem witness_EngineSteps_completion : ∀ H : Obligations.EngineSteps,
    Premise (H.2.2.2.2 0 (threaded (thread0 (.bam .add) .running (bamDesc 0) 1))) :=
  fun _ => ⟨thread0 (.bam .add) .running (bamDesc 0) 1, _, rfl, by decide +kernel, rfl, fun h => absurd h (by decide +kernel),
    fun h => absurd h (by decide +kernel)⟩
theorem witness_EngineSteps_completion_word : ∀ H : Obligations.EngineSteps,
    Premise (H.2.2.2.2 0 (threaded (thread0 (.bam .add) .running (bamDesc 1) 1))) :=
  fun _ => ⟨thread0 (.bam .add) .running (bamDesc 1) 1, _, rfl, by decide +kernel, rfl, fun _ _ => by decide +kernel,
    fun _ => ⟨_, ok_of (by decide +kernel)⟩⟩

/-! ### Hypotheses that are met: barriers -/

/-- The bench with its group parked at a barrier, two named barriers, and a slot of the grid. -/
def atBarrier (k : BarKind) (n count : Nat) (hold arrived : Bool) : State :=
  let s := parked (.bar k n count hold arrived 0) id
  { s with
    teams := s.teams.map fun t => { t with bars := [⟨0, 0, 0, [], []⟩, ⟨7, 0, 1, [], []⟩] }
    grids := s.grids.map fun g => { g with desc := { g.desc with gbar := 1 }, slots := [5] }
    slots := [⟨5, 1, none, [], none, []⟩] }

theorem witness_BarrierSteps_named : ∀ H : Obligations.BarrierSteps, Premise (H.1 0 (atBarrier .named 1 1 true false)) :=
  fun _ => ⟨_, _, 1, 1, false, rfl, rfl, by decide +kernel, rfl, by decide +kernel, by decide +kernel, by decide +kernel, by decide +kernel,
    by decide +kernel, by decide +kernel, by decide +kernel, by decide +kernel, by decide +kernel⟩
theorem witness_BarrierSteps_b0 : ∀ H : Obligations.BarrierSteps, Premise (H.1 0 (atBarrier .named 0 0 false false)) :=
  fun _ => ⟨_, _, 0, 0, false, rfl, rfl, by decide +kernel, rfl, by decide +kernel, by decide +kernel, by decide +kernel, by decide +kernel,
    by decide +kernel, by decide +kernel, by decide +kernel, by decide +kernel, by decide +kernel⟩
theorem witness_BarrierSteps_slot : ∀ H : Obligations.BarrierSteps, Premise (H.2.1 0 (atBarrier .grid 0 0 true false)) :=
  fun _ => ⟨_, _, .grid, 0, 0, true, rfl, rfl, by decide +kernel, by decide, by decide +kernel⟩
theorem witness_BarrierSteps_team : ∀ H : Obligations.BarrierSteps, Premise (H.2.2.1 0 (atBarrier .grid 0 0 true true)) :=
  fun _ => ⟨_, .grid, 0, true, _, 5, _, rfl, by decide +kernel, by decide +kernel, rfl, rfl, rfl, by decide +kernel, Or.inl rfl, by decide +kernel⟩
/-- A bivouac record is handed on. -/
theorem witness_BarrierSteps_release_record : ∀ H : Obligations.BarrierSteps, Premise (H.2.2.2 5 0
    (let s := atBarrier .grid 0 0 true true
     { s with
       teams := s.teams.map fun t => { t with st := .bivouac, slotWait := some (5, 0, 0), record := some (512, false) }
       slots := [⟨5, 1, some .grid, [⟨0, .releasing, 0, 1, 0⟩], none, [0]⟩] })) :=
  fun _ => ⟨_, _, by unfold State.idsUnique; decide +kernel, rfl, rfl, by decide +kernel, by decide +kernel⟩
theorem witness_BarrierSteps_release : ∀ H : Obligations.BarrierSteps, Premise (H.2.2.2 5 0
    { atBarrier .grid 0 0 true true with slots := [⟨5, 1, some .grid, [⟨0, .releasing, 0, 1, 0⟩], none, []⟩] }) :=
  fun _ => ⟨_, _, by unfold State.idsUnique; decide +kernel, rfl, rfl, by decide +kernel, by decide +kernel⟩

/-! ### Hypotheses that are met: teams leave and come -/

/-- The bench with one enabled core on die 0, team 0 changed, further teams of its grid, die 0's absent queue, and the kernel's needs. -/
def crew (k : Park) (f : Team → Team) (more : List Team) (absent : List Nat) (d : KDesc → KDesc) : State :=
  let s := parked k id
  { s with
    mem := homeFields s.mem [(0x28, 8, 0x100000)]
    teams := s.teams.map f ++ more
    nextTeam := 2
    grids := s.grids.map fun g => { g with desc := d g.desc, gx := 2, nextDeal := 2 }
    dies := s.dies.map fun x => if x.n = 0 then { x with absent := absent } else x
    pkg := { s.pkg with enmask := [3, 0, 0, 0] } }

/-- Team 1 of the grid. -/
def team1 (f : Team → Team) : Team := f { Team.first 1 1 0 with t := 1, st := .unplaced, bound := false, cluster := 1 }

/-- A kernel that needs all the team memory of a core, and is pinned to core 0. -/
def greedy (d : KDesc) : KDesc := { d with tmem := 0x180000, pinned := true, bitmap := [1, 0, 0, 0] }

theorem witness_Evictions_waiting : ∀ H : Obligations.Evictions, Premise (H.1 0 1 (crew (.cairn 0) id [team1 id] [1] greedy)) :=
  fun _ => ⟨_, _, some_of (by decide +kernel), by decide +kernel, by decide +kernel,
    ⟨_, _, _, some_of (by decide +kernel), some_of (by decide +kernel), both_of (by decide +kernel)⟩⟩
theorem witness_Evictions_rotation : ∀ H : Obligations.Evictions,
    Premise (H.2.1 0 (crew (.rope 0) (fun t => { t with qlog := 12, ret := 4096 }) [team1 id] [1] greedy)) :=
  fun _ => ⟨_, rfl, by decide +kernel, by decide +kernel, by decide +kernel, by decide +kernel, by decide +kernel, by decide +kernel⟩
theorem witness_Evictions_preEmption : ∀ H : Obligations.Evictions, Premise (H.2.2 0 1
    (let s := crew (.cairn 0) id [team1 fun t => { t with grid := 2, t := 0, cluster := 0 }] [1] greedy
     { s with
       ctxs := s.ctxs ++ [{ (Ctx.first 2 (homeTag 0)) with privUsed := [] }]
       grids := s.grids ++ [{ (Grid.first 2 2 (greedy (.first 0x100))) with prio := 3 }] })) :=
  fun _ => ⟨_, _, _, some_of (by decide +kernel), by decide +kernel, by decide +kernel, by decide +kernel, by decide +kernel, by decide +kernel,
    ⟨_, some_of (by decide +kernel), both_of (by decide +kernel)⟩⟩

/-- Team 0 holds at generation 0 of the one slot of its grid. -/
def camped (pool : Nat) : State :=
  let s := crew (.bar .grid 0 0 true true 0) (fun t => { t with slotWait := some (5, 0, 0), bivouacking := true, arrivals := [(0, 1)] }) [] [] fun d =>
    { d with gbar := 1, carryv := 1, regs := 1 }
  { s with
    mem := homeFields s.mem [(0x84, 4, pool)]
    grids := s.grids.map fun g => { g with slots := [5] }
    slots := [⟨5, 1, some .grid, [⟨0, .filling, 0, 1, 0⟩], none, []⟩] }

theorem mergesLost_none {s : State} {k n : Nat} (h : s.lost = []) (hk : ¬ k < 2 ^ 40) : s.mergesLost k n = false := by
  rw [State.mergesLost, h, decide_eq_false hk]; rfl

theorem witness_TeamEnds_bivouac : ∀ H : Obligations.TeamEnds, Premise (H.1 0 (camped 0x3000)) :=
  fun _ => ⟨_, _, _, false, 0, rfl, rfl, rfl, by decide +kernel, by decide +kernel, by decide +kernel, by decide +kernel, by decide +kernel,
    by decide +kernel, fun _ => mergesLost_none rfl (by decide +kernel), fun h => Bool.noConfusion h, each_of (by decide +kernel)⟩
/-- The same with the part of the pool in main memory alone. -/
theorem witness_TeamEnds_bivouac_main : ∀ H : Obligations.TeamEnds,
    Premise (H.1 0 (let s := camped 0; { s with mem := homeFields s.mem [(0x88, 8, 0x5000), (0xC0, 8, 0x1000)] })) :=
  fun _ => ⟨_, _, _, true, 0, rfl, rfl, rfl, by decide +kernel, by decide +kernel, by decide +kernel, by decide +kernel, by decide +kernel,
    by decide +kernel, fun h => Bool.noConfusion h, fun _ => by decide +kernel, each_of (by decide +kernel)⟩
theorem witness_TeamEnds_no_room : ∀ H : Obligations.TeamEnds, Premise (H.2.1 0 (camped 0)) :=
  fun _ => ⟨_, _, _, rfl, rfl, rfl, by decide +kernel, by decide +kernel, by decide +kernel, by decide +kernel, by decide +kernel⟩
/-- No path's mailbox request was served. -/
theorem noMailbox_of {gs : List Group} (h : (gs.all fun g => g.arch.stack.isEmpty && g.arch.kept.isEmpty &&
      g.arch.paths.all fun e => match e.2.park with | some (.mbx _ _ _ true) => false | _ => true) = true) :
    ∀ g ∈ gs, g.arch.stack = [] ∧ (∀ e ∈ g.arch.paths, ∀ b w r, e.2.park ≠ some (.mbx b w r true)) ∧
      ∀ e ∈ g.arch.kept, ∀ b w r, e.2.park ≠ some (.mbx b w r true) := by
  intro g hg
  have hc := List.all_eq_true.mp h g hg
  simp only [Bool.and_eq_true, List.isEmpty_iff, List.all_eq_true] at hc
  refine ⟨hc.1.1, fun e he b w r hp => ?_, by simp [hc.1.2]⟩
  have := hc.2 e he
  simp [hp] at this

theorem witness_TeamEnds_save : ∀ H : Obligations.TeamEnds, Premise (H.2.2.1 0
    (let s := crew (.rope 0) (fun t => { t with leaving := .evict, tmem := 0 }) [] [] id
     { s with groups := s.groups.map fun g => { g with arch := { g.arch with blocks := 1 } } })) :=
  fun _ => ⟨_, 0, rfl, by decide +kernel, by decide +kernel, by decide +kernel, by decide +kernel, by decide +kernel,
    noMailbox_of (by decide +kernel), by decide +kernel, by decide +kernel, by decide +kernel, by decide +kernel, by decide +kernel,
    each_of (by decide +kernel), by decide +kernel, by decide +kernel, by decide +kernel⟩
theorem witness_TeamEnds_done : ∀ H : Obligations.TeamEnds, Premise (H.2.2.2.1 0
    (let s := benchOf .nop; { s with groups := s.groups.map fun g => { g with exited := true, retired := true } })) :=
  fun _ => ⟨_, rfl, by decide +kernel, by decide +kernel, by decide +kernel, by decide +kernel⟩
theorem witness_TeamEnds_classifier : ∀ H : Obligations.TeamEnds, Premise (H.2.2.2.2 1
    (let s := benchOf .nop; { s with grids := s.grids.map fun g => { g with clsTeams := 1 } })) :=
  fun _ => ⟨_, rfl, by decide +kernel, by decide +kernel, by decide +kernel⟩

theorem witness_Placements_team : ∀ H : Obligations.Placements, Premise (H.1 0 1 (crew (.cairn 0) id [team1 id] [1] id)) :=
  fun _ => ⟨[1], _, _, unit_of [1] (by decide +kernel) (by decide +kernel), by decide +kernel, ⟨by unfold State.idsUnique; decide +kernel, by decide +kernel, by decide +kernel, by decide +kernel⟩⟩
theorem witness_Placements_cluster : ∀ H : Obligations.Placements, Premise (H.2.1 0 1
    (crew (.cairn 0) (fun t => { t with st := .unplaced, bound := false }) [team1 fun t => { t with cluster := 0 }] [0, 1] fun d => { d with cols := 2 })) :=
  fun _ => ⟨[0, 1], _, _, unit_of [0, 1] (by decide +kernel) (by decide +kernel), by decide +kernel, ⟨by unfold State.idsUnique; decide +kernel, by decide +kernel, by decide +kernel, by decide +kernel⟩⟩
theorem witness_Placements_restore : ∀ H : Obligations.Placements, Premise (H.2.2.1 0
    (crew (.cairn 0) (fun t => { t with st := .evicted, woken := true, image := some (0, 128) }) [] [0] id)) :=
  fun _ => ⟨_, _, _, rfl, unit_of [0] (by decide +kernel) (by decide +kernel), by decide +kernel,
    ⟨by unfold State.idsUnique; decide +kernel, by decide +kernel, by decide +kernel, by decide +kernel⟩⟩
theorem witness_Placements_bivouac : ∀ H : Obligations.Placements, Premise (H.2.2.2 0
    (crew (.cairn 0) (fun t => { t with st := .bivouac, record := some (512, true), recordAt := some (false, 0, 512) }) [] [0] id)) :=
  fun _ => ⟨_, _, _, rfl, unit_of [0] (by decide +kernel) (by decide +kernel), by decide +kernel,
    ⟨by unfold State.idsUnique; decide +kernel, by decide +kernel, by decide +kernel, by decide +kernel⟩⟩

/-! ### Hypotheses that are met: launches and grids -/

/-- A kernel descriptor at 0x4000 of the context, one group with one block a lane register file. -/
def withKernel (s : State) : State :=
  { s with mem := homeFields s.mem [(0x9000, 8, 0x100), (0x9008, 1, 1), (0x9009, 1, 1), (0x900A, 1, 1)] }

/-- A launch record for it: 2 teams, completion word at 0x2000, status word at 0x2008. -/
def launchRec : List Byte := rec64 [(0x00, 8, 0x4000), (0x08, 4, 2), (0x0C, 2, 1), (0x0E, 2, 1), (0x18, 8, 0x2000), (0x20, 8, 0x2008)]

theorem witness_LaunchSteps_thread : ∀ H : Obligations.LaunchSteps, Premise (H.1 0 (threaded (thread0 .launch .fresh launchRec 0))) :=
  fun _ => ⟨_, _, rfl, by decide +kernel, by decide +kernel, by decide +kernel⟩
theorem witness_LaunchSteps_accept : ∀ H : Obligations.LaunchSteps, Premise (H.2.1 0 (withKernel (threaded (thread0 .launch .running launchRec 0)))) :=
  fun _ => ⟨thread0 .launch .running launchRec 0, _, rfl, rfl, rfl, rfl, by decide +kernel, by decide +kernel, ok_of (by decide +kernel),
    by decide +kernel⟩
theorem witness_LaunchSteps_wake : ∀ H : Obligations.LaunchSteps, Premise (H.2.2.1 0 0
    ((parked .lnchFull id).onCore 0 0 fun c => { c with plqWait := [0], plqWakes := 1 })) :=
  fun _ => ⟨0, [], by decide +kernel, by decide +kernel⟩

/-- The same launch as the front end has it. -/
def launchReq : LaunchReq := (withKernel (benchOf .nop)).threadReq (thread0 .launch .running launchRec 0)

theorem witness_LaunchSteps_refused : ∀ H : Obligations.LaunchSteps, Premise (H.2.2.2
    (let s := withKernel (benchOf .nop); { s with ctxs := s.ctxs.map fun c => { c with st := .faulted } }) launchReq (.thread 0)).1 :=
  fun _ => each_of (by decide +kernel)
theorem witness_LaunchSteps_accepted : ∀ H : Obligations.LaunchSteps, ∃ c d args h1 h2 h3 h4,
    Premise ((H.2.2.2 (withKernel (benchOf .nop)) launchReq (.thread 0)).2 c d args h1 h2 h3 h4) :=
  fun _ => ⟨_, _, _, some_of (by decide +kernel), by decide +kernel, by decide +kernel, by decide +kernel, ok_pair_of (by decide +kernel)⟩

theorem witness_GridSteps_dispatch : ∀ H : Obligations.GridSteps, Premise (H.1 1
    (let s := withKernel (benchOf .nop)
     { s with grids := s.grids.map fun g => { g with st := .submitted, root := 0x4000, desc := { g.desc with addr := 0x4000 } }, mem := homeFields s.mem [(0x9010, 2, 256)] })) :=
  fun _ => by
    refine ⟨_, _, rfl, by decide +kernel, by decide +kernel, ?_, ok_of ?h⟩
    case h => decide +kernel
    decide +kernel
theorem witness_GridSteps_deal : ∀ H : Obligations.GridSteps, Premise (H.2.1 0
    (let s := withKernel (benchOf .nop); { s with grids := s.grids.map fun g => { g with st := .dispatching, gx := 2, root := 0x4000, desc := { g.desc with addr := 0x4000 } } })) :=
  fun _ => ⟨by decide +kernel, _, _, _, both_of (by decide +kernel), by decide +kernel, ok_of (by decide +kernel), by decide +kernel⟩
theorem witness_GridSteps_retire : ∀ H : Obligations.GridSteps, Premise (H.2.2.1 1
    (let s := benchOf .nop; { s with grids := s.grids.map fun g => { g with ended := 1 } })) :=
  fun _ => ⟨_, rfl, by decide +kernel, by decide +kernel, by decide +kernel⟩
theorem witness_GridSteps_status : ∀ H : Obligations.GridSteps, Premise (H.2.2.2.1 1
    (let s := benchOf .nop; { s with grids := s.grids.map fun g => { g with report := .status, sta := 0x2008 } })) :=
  fun _ => ⟨_, _, _, rfl, some_of (by decide +kernel), by decide +kernel, by decide +kernel, by decide +kernel, ok_of (by decide +kernel)⟩
theorem witness_GridSteps_completion : ∀ H : Obligations.GridSteps, Premise (H.2.2.2.2 1
    (let s := benchOf .nop; { s with grids := s.grids.map fun g => { g with report := .completion, cwa := 0x2000, launcher := .thread 0 } })) :=
  fun _ => ⟨_, _, _, 0, rfl, some_of (by decide +kernel), Or.inl (by decide +kernel), by decide +kernel, ok_of (by decide +kernel), by decide +kernel⟩

/-! ### Hypotheses that are met: commands of the host -/

/-- The bench with context 1 in a state, and CTXARG. -/
def commanded (f : Ctx → Ctx) (arg : DWord) : State :=
  let s := benchOf .nop
  { s with ctxs := s.ctxs.map f, fe := { s.fe with ctxarg := arg } }

theorem noHeld_of {s : State} {ctx : Nat} (h : ∀ c ∈ s.ctx? ctx, c.held = []) : s.noHeld ctx := h

theorem witness_ContextCommands_load : ∀ H : Obligations.ContextCommands, Premise (H.1 4095 (commanded id (homeTag 0))) :=
  fun _ => ⟨by decide, ⟨rfl, rfl⟩, noHeld_of (by decide +kernel), each_of (by decide +kernel), by decide +kernel, by decide +kernel,
    by decide +kernel, by decide +kernel, by decide +kernel, by decide +kernel, by decide +kernel, by decide +kernel⟩
theorem witness_ContextCommands_activate : ∀ H : Obligations.ContextCommands, Premise (H.2.1 1 (commanded (fun c => { c with st := .out }) 0)) :=
  fun _ => ⟨by decide, ⟨rfl, rfl⟩, noHeld_of (by decide +kernel), _, rfl, rfl⟩
theorem witness_ContextCommands_switchOut : ∀ H : Obligations.ContextCommands, Premise (H.2.2.1 1 (commanded (fun c => { c with st := .ready }) 0)) :=
  fun _ => ⟨by decide, ⟨rfl, rfl⟩, noHeld_of (by decide +kernel), _, rfl, rfl⟩
theorem witness_ContextCommands_switchOut_resident : ∀ H : Obligations.ContextCommands, Premise (H.2.2.2.1 1 (commanded id 0)) :=
  fun _ => ⟨⟨by decide, ⟨rfl, rfl⟩, noHeld_of (by decide +kernel), _, rfl, Or.inl rfl⟩, by decide +kernel, by decide +kernel⟩
theorem witness_ContextCommands_resumeFault : ∀ H : Obligations.ContextCommands,
    Premise (H.2.2.2.2.1 1 (commanded (fun c => { c with faults := [(1, .path 0)] }) 1)) :=
  fun _ => ⟨by decide, ⟨rfl, rfl⟩, noHeld_of (by decide +kernel), _, rfl, by decide, _, rfl⟩
theorem witness_ContextCommands_resumeFault_none : ∀ H : Obligations.ContextCommands, Premise (H.2.2.2.2.2.1 1 (commanded id 1)) :=
  fun _ => ⟨by decide, ⟨rfl, rfl⟩, noHeld_of (by decide +kernel), _, rfl, by decide, by decide⟩
theorem witness_ContextCommands_clear : ∀ H : Obligations.ContextCommands, Premise (H.2.2.2.2.2.2.1 1
    (let s := commanded (fun c => { c with st := .faulted }) 0
     { s with grids := s.grids.map fun g => { g with st := .failed, report := .reported } })) :=
  fun _ => ⟨by decide, ⟨rfl, rfl⟩, noHeld_of (by decide +kernel), _, rfl, rfl, by decide +kernel⟩
theorem witness_ContextCommands_kill : ∀ H : Obligations.ContextCommands, Premise (H.2.2.2.2.2.2.2.1 1
    (let s := commanded id 0; { s with fe := { s.fe with ctxBusy := some 1 } })) :=
  fun _ => ⟨by decide, rfl, Or.inr rfl, noHeld_of (by decide +kernel), by decide +kernel, _, rfl, by decide, by decide⟩
theorem witness_ContextCommands_free : ∀ H : Obligations.ContextCommands,
    Premise (H.2.2.2.2.2.2.2.2.1 1 (commanded (fun c => { c with st := .dead }) 0)) :=
  fun _ => ⟨by decide, ⟨rfl, rfl⟩, noHeld_of (by decide +kernel), _, rfl, rfl, by decide +kernel⟩
theorem witness_ContextCommands_reserved : ∀ H : Obligations.ContextCommands, Premise (H.2.2.2.2.2.2.2.2.2.1 15 1 (commanded id 0)) :=
  fun _ => ⟨by decide, by decide, ⟨rfl, rfl⟩, noHeld_of (by decide +kernel)⟩
theorem witness_ContextCommands_not_free : ∀ H : Obligations.ContextCommands, Premise (H.2.2.2.2.2.2.2.2.2.2.1 1 (commanded id 0)) :=
  fun _ => ⟨by decide, ⟨rfl, rfl⟩, noHeld_of (by decide +kernel), _, rfl, by decide⟩
theorem witness_ContextCommands_busy : ∀ H : Obligations.ContextCommands, ∃ h, Premise (H.2.2.2.2.2.2.2.2.2.2.2.1 1 (.free 1) h
    (let s := commanded id 0; { s with fe := { s.fe with ctxBusy := some 2 } })) :=
  fun _ => ⟨by simp, ⟨by decide, rfl, by decide⟩⟩
theorem witness_ContextCommands_partition : ∀ H : Obligations.ContextCommands, Premise (H.2.2.2.2.2.2.2.2.2.2.2.2 1 3 (commanded id 0)) :=
  fun _ => ⟨⟨_, rfl, by decide⟩, by decide +kernel⟩

/-- A queue of context 1 with its ring at 0x2000 of the context, 64 entries, and packets 0 to TAIL. -/
def queue (st : QState) (ctl : BitVec 8) (rdidx tail : Nat) : Queue :=
  { id := 3, ring := 0x2000, szlog := 6, prio := 0, st := st, ctl := ctl, ctx := 1, tail := tail, rdidx := rdidx, doneidx := 0, quantum := 1,
    deficit := 0, proga := 0x3000, errcode := 0, erridx := 0, errhdr := 0, errval := 0, pending := [], packet := none, getting := [],
    feFault := none, prog := 0, gen := 0 }

/-- The bench with that queue, the queue table in stack 0 at 0x10000 and the mailbox word of `boxed`. -/
def queued (u : Queue) (full : Nat) : State :=
  let s := boxed .nop full
  { s with
    queues := [u]
    fe := { s.fe with qtbase := homeTag 0x10000, qtlog := 6 } }

theorem witness_QueueStates_ready : ∀ H : Obligations.QueueStates, ∃ u c h1 h2 h3 h4 h5, Premise (H.1 (queued (queue .out 0 1 2) 0) 3 u c h1 h2 h3 h4 h5) :=
  fun _ => ⟨_, _, rfl, by decide, rfl, by decide, rfl, rfl⟩
theorem witness_QueueStates_out : ∀ H : Obligations.QueueStates, ∃ u c h1 h2 h3 h4 h5 h6, Premise (H.2.1
    (let s := queued (queue .blocked 0 1 2) 0; { s with ctxs := s.ctxs.map fun c => { c with st := .out } }) 3 u c h1 h2 h3 h4 h5 h6) :=
  fun _ => ⟨_, _, rfl, by decide, rfl, by decide, by decide, by decide, fun _ h => nomatch h⟩
theorem witness_QueueStates_absent : ∀ H : Obligations.QueueStates, ∃ u h1 h2, Premise (H.2.2.1
    (let s := queued (queue .blocked 0 1 2) 0; { s with ctxs := s.ctxs.map fun c => { c with st := .free } }) 3 u h1 h2) :=
  fun _ => ⟨_, rfl, by decide, each_of (by decide +kernel)⟩
theorem witness_QueueStates_progress : ∀ H : Obligations.QueueStates, ∃ u k h1 h2 h3 h4, Premise (H.2.2.2
    (queued (queue .idle 1 1 1) 0) 3 u k h1 h2 h3 h4) :=
  fun _ => ⟨_, _, rfl, by decide, by decide, by decide +kernel, ok_of (by decide +kernel)⟩

/-- A queue control block in the table, of a queue without a progress word. -/
def withQcb (s : State) : State :=
  { s with mem := homeFields s.mem [(0x10300, 8, 0x2000), (0x10308, 1, 6), (0x1030C, 2, 1), (0x10328, 4, 1)] }

theorem witness_QueueCommands_create : ∀ H : Obligations.QueueCommands, Premise (H.1 3
    (let s := withQcb (queued (queue .idle 0 1 1) 0); { s with queues := [] })) :=
  fun _ => ⟨⟨rfl, by decide +kernel⟩, each_of (by decide +kernel), by decide +kernel, by decide +kernel, by decide +kernel, _, some_of (by decide +kernel), by decide +kernel⟩
theorem witness_QueueCommands_destroy : ∀ H : Obligations.QueueCommands, Premise (H.2.1 3 (queued (queue .blocked 0 1 2) 0)) :=
  fun _ => ⟨⟨rfl, by decide +kernel⟩, _, rfl, by decide⟩
theorem witness_QueueCommands_reset : ∀ H : Obligations.QueueCommands, Premise (H.2.2.1 3
    (let s := queued (queue .error 0 1 2) 0; { s with fe := { s.fe with qarg := 1 } })) :=
  fun _ => ⟨⟨rfl, by decide +kernel⟩, _, rfl, rfl, by decide⟩
theorem witness_QueueCommands_reserved : ∀ H : Obligations.QueueCommands, Premise (H.2.2.2.1 15 1048575 (benchOf .nop)) :=
  fun _ => ⟨rfl, by decide, by decide⟩
theorem witness_QueueCommands_qtbase : ∀ H : Obligations.QueueCommands, Premise (H.2.2.2.2.1 (homeTag 4096) (benchOf .nop)) := fun _ => rfl
theorem witness_QueueCommands_qtlog : ∀ H : Obligations.QueueCommands, Premise (H.2.2.2.2.2.1 20 (benchOf .nop)) := fun _ => rfl
theorem witness_QueueCommands_mbtbase : ∀ H : Obligations.QueueCommands, Premise (H.2.2.2.2.2.2.1 0 (benchOf .nop)) := fun _ => rfl
theorem witness_QueueCommands_register : ∀ H : Obligations.QueueCommands, Premise (H.2.2.2.2.2.2.2.1 0x13F8 5 (benchOf .nop)) := fun _ => trivial
theorem witness_QueueCommands_hsig : ∀ H : Obligations.QueueCommands, Premise (H.2.2.2.2.2.2.2.2.1 15 (benchOf .nop)) := fun _ => rfl
theorem witness_QueueCommands_doorbell : ∀ H : Obligations.QueueCommands,
    Premise (H.2.2.2.2.2.2.2.2.2.1 3 65 (queued (queue .idle 0 1 1) 0)) := fun _ => ⟨rfl, rfl, _, rfl, by decide, by decide⟩
theorem witness_QueueCommands_overrun : ∀ H : Obligations.QueueCommands,
    Premise (H.2.2.2.2.2.2.2.2.2.2.1 3 66 (queued (queue .idle 0 1 1) 0)) := fun _ => ⟨rfl, rfl, _, rfl, by decide, by decide, by decide, by decide +kernel⟩
theorem witness_QueueCommands_held : ∀ H : Obligations.QueueCommands, Premise (H.2.2.2.2.2.2.2.2.2.2.2 3 66
    (let s := queued (queue .idle 0 1 1) 0; { s with fe := { s.fe with reloading := true } })) := fun _ => ⟨rfl, rfl⟩

/-- A queue with one message on its way to the front end. -/
def messaged (u : Queue) (m : FeMsg) : State :=
  let s := queued u 0
  { s with fe := { s.fe with msgs := [m] } }

theorem witness_FrontEndSteps_bell : ∀ H : Obligations.FrontEndSteps, Premise (H.1 (messaged (queue .idle 0 1 1) (.bell 1 3 2))) :=
  fun _ => ⟨rfl, rfl, _, _, _, _, _, rfl, by decide, rfl, rfl⟩
theorem witness_FrontEndSteps_bell_of_another : ∀ H : Obligations.FrontEndSteps,
    Premise (H.2.1 (messaged (queue .idle 0 1 1) (.bell 2 3 2))) := fun _ => ⟨_, _, _, _, rfl, Or.inr ⟨rfl, each_of (by decide +kernel)⟩⟩
theorem witness_FrontEndSteps_bell_too_far : ∀ H : Obligations.FrontEndSteps,
    Premise (H.2.1 (messaged (queue .idle 0 1 1) (.bell 1 0x100000 2))) := fun _ => ⟨_, _, _, _, rfl, Or.inl (by decide)⟩
theorem witness_FrontEndSteps_bell_held : ∀ H : Obligations.FrontEndSteps, Premise (H.2.2.1
    (let s := messaged (queue .idle 0 1 1) (.bell 1 0xFFFFF 2); { s with fe := { s.fe with reloading := true } })) :=
  fun _ => ⟨rfl, _, _, _, _, rfl, by decide⟩
theorem witness_FrontEndSteps_sint_package : ∀ H : Obligations.FrontEndSteps,
    Premise (H.2.2.2.1 (messaged (queue .idle 0 1 1) (.sint 1 0x40000000))) := fun _ => ⟨rfl, _, _, _, rfl, rfl⟩
theorem witness_FrontEndSteps_sint_stack : ∀ H : Obligations.FrontEndSteps,
    Premise (H.2.2.2.2.1 (messaged (queue .idle 0 1 1) (.sint 1 0x8000000F))) := fun _ => ⟨rfl, _, _, _, rfl, by decide, by decide⟩
theorem witness_FrontEndSteps_sint_reserved : ∀ H : Obligations.FrontEndSteps,
    Premise (H.2.2.2.2.2.1 (messaged (queue .idle 0 1 1) (.sint 1 0xFFFFFFFF))) := fun _ => ⟨rfl, _, _, _, rfl, Or.inl (by decide)⟩
theorem witness_FrontEndSteps_sint_package_bits : ∀ H : Obligations.FrontEndSteps,
    Premise (H.2.2.2.2.2.1 (messaged (queue .idle 0 1 1) (.sint 1 0x40000001))) :=
  fun _ => ⟨rfl, _, _, _, rfl, Or.inr (Or.inl ⟨by decide, by decide⟩)⟩
theorem witness_FrontEndSteps_sint_stack_bits : ∀ H : Obligations.FrontEndSteps,
    Premise (H.2.2.2.2.2.1 (messaged (queue .idle 0 1 1) (.sint 1 0x80000010))) :=
  fun _ => ⟨rfl, _, _, _, rfl, Or.inr (Or.inr (Or.inl ⟨by decide, by decide⟩))⟩
theorem witness_FrontEndSteps_sint_queue_bits : ∀ H : Obligations.FrontEndSteps,
    Premise (H.2.2.2.2.2.1 (messaged (queue .idle 0 1 1) (.sint 1 0x100003))) :=
  fun _ => ⟨rfl, _, _, _, rfl, Or.inr (Or.inr (Or.inr ⟨by decide, Or.inl (by decide)⟩))⟩
theorem witness_FrontEndSteps_sint_no_queue : ∀ H : Obligations.FrontEndSteps,
    Premise (H.2.2.2.2.2.1 (messaged (queue .idle 0 1 1) (.sint 2 3))) :=
  fun _ => ⟨rfl, _, _, _, rfl, Or.inr (Or.inr (Or.inr ⟨by decide, Or.inr (each_of (by decide +kernel))⟩))⟩
theorem witness_FrontEndSteps_sint_idle : ∀ H : Obligations.FrontEndSteps,
    Premise (H.2.2.2.2.2.2.1 (messaged (queue .idle 0 1 1) (.sint 1 3))) :=
  fun _ => ⟨rfl, _, _, _, _, rfl, by decide, rfl, rfl, Or.inl rfl⟩

/-- A queue whose packet 1 has a header, and those fields. -/
def packeted (u : Queue) (full : Nat) (hdr : Nat) (fs : List (Nat × Nat × Nat)) : State :=
  let s := queued u full
  { s with mem := homeFields s.mem ((0x7040, 8, hdr) :: fs) }

theorem witness_FrontEndSteps_sint_queue : ∀ H : Obligations.FrontEndSteps, Premise (H.2.2.2.2.2.2.2.1
    (let s := packeted (queue .stalled 0 1 2) 0 0x400000001 []; { s with fe := { s.fe with msgs := [.sint 1 3] } })) :=
  fun _ => ⟨rfl, _, _, _, _, _, rfl, by decide, rfl, rfl, rfl, by decide +kernel, by decide +kernel, ok_of (by decide +kernel),
    by decide +kernel⟩
theorem witness_FrontEndSteps_ecc : ∀ H : Obligations.FrontEndSteps, ∃ h, Premise (H.2.2.2.2.2.2.2.2.1 .configEccError h (benchOf .nop)) :=
  fun _ => ⟨Or.inl rfl, ⟨rfl, rfl, rfl, fun _ h => nomatch h⟩⟩
theorem witness_FrontEndSteps_watchdog : ∀ H : Obligations.FrontEndSteps, ∃ h, Premise (H.2.2.2.2.2.2.2.2.1 (.frontEndWatchdog 3) h
    (queued (queue .stalled 0 1 2) 0)) :=
  fun _ => ⟨Or.inr ⟨3, rfl⟩, ⟨rfl, rfl, rfl, fun q h => by cases h; exact ⟨_, rfl, Or.inr rfl, by decide⟩⟩⟩
theorem witness_FrontEndSteps_reload : ∀ H : Obligations.FrontEndSteps, Premise (H.2.2.2.2.2.2.2.2.2
    (let s := queued (queue .idle 0 1 1) 0; { s with fe := { s.fe with reloading := true } })) := fun _ => rfl

theorem witness_Packets_stall : ∀ H : Obligations.Packets, Premise (H.1 3 (packeted (queue .active 0 1 2) 0 0x400000002 [])) :=
  fun _ => ⟨_, _, rfl, rfl, rfl, by decide, by decide +kernel, rfl, by decide +kernel, by decide +kernel, ok_of (by decide +kernel),
    by decide +kernel⟩
theorem witness_Packets_unknown : ∀ H : Obligations.Packets, Premise (H.2.1 3 (packeted (queue .active 0 1 2) 0 0x500000001 [])) :=
  fun _ => ⟨_, _, rfl, rfl, rfl, by decide, by decide +kernel, rfl, by decide +kernel, by decide +kernel, ok_of (by decide +kernel),
    by decide +kernel, by decide +kernel, by decide +kernel⟩
theorem witness_Packets_fetch : ∀ H : Obligations.Packets, Premise (H.2.2.1 3
    (packeted (queue .active 0 1 2) 0 0x400000001 [(0x7048, 8, 0x3000), (0x7050, 8, 77)])) :=
  fun _ => ⟨_, _, _, rfl, rfl, rfl, by decide, by decide +kernel, rfl, by decide +kernel, by decide +kernel, ok_of (by decide +kernel), by decide +kernel,
    by decide +kernel, by decide +kernel, ok_of (by decide +kernel), by decide +kernel⟩
theorem witness_Packets_reread : ∀ H : Obligations.Packets, Premise (H.2.2.2.1 3 (packeted (queue .stalled 0 1 2) 0 0x400000001 [])) :=
  fun _ => ⟨_, _, rfl, rfl, by decide +kernel, rfl, by decide +kernel, by decide +kernel, by decide +kernel, ok_of (by decide +kernel)⟩

/-- The bench with the queue waiting to start packet 1, with these fields. -/
def started (full : Nat) (fs : List (Nat × Nat × Nat)) : State :=
  withKernel (queued { queue .active 0 1 2 with packet := some (rec64 fs) } full)

theorem witness_Packets_launch : ∀ H : Obligations.Packets, Premise (H.2.2.2.2.1 3
    (started 0 [(0x00, 4, 1), (0x04, 1, 1), (0x08, 8, 0x4000), (0x10, 4, 1), (0x14, 2, 1), (0x16, 2, 1), (0x20, 8, 0x3000), (0x28, 8, 0x3008)])) :=
  fun _ => ⟨_, _, _, some_of (by decide +kernel), by decide +kernel, ok_of (by decide +kernel), by decide +kernel⟩

theorem witness_Packets_put : ∀ H : Obligations.Packets, Premise (H.2.2.2.2.2.1 3 (started 0 [(0x00, 4, 1), (0x04, 1, 2), (0x10, 8, 5)])) :=
  fun _ => ⟨_, _, _, some_of (by decide +kernel), ⟨_, rfl, rfl, by decide +kernel, by decide +kernel, by decide +kernel, by decide +kernel, fun _ h => nomatch h⟩, by decide +kernel,
    by decide +kernel⟩
theorem witness_Packets_put_full : ∀ H : Obligations.Packets,
    Premise (H.2.2.2.2.2.2.1 3 (started 1 [(0x00, 4, 1), (0x04, 1, 2), (0x10, 8, 5)])) :=
  fun _ => ⟨_, _, _, some_of (by decide +kernel), ⟨_, rfl, rfl, by decide +kernel, by decide +kernel, by decide +kernel, by decide +kernel, fun _ h => nomatch h⟩, by decide +kernel,
    by decide +kernel, by decide⟩
theorem witness_Packets_get : ∀ H : Obligations.Packets, Premise (H.2.2.2.2.2.2.2.1 3 (started 1 [(0x00, 4, 1), (0x04, 1, 3)])) :=
  fun _ => ⟨_, _, _, some_of (by decide +kernel), ⟨_, rfl, rfl, by decide +kernel, by decide +kernel, by decide +kernel, by decide +kernel, fun _ h => nomatch h⟩, by decide +kernel,
    by decide +kernel, by decide +kernel, fun _ h => nomatch h⟩
theorem witness_Packets_get_stored : ∀ H : Obligations.Packets,
    Premise (H.2.2.2.2.2.2.2.2.1 3 (started 1 [(0x00, 4, 1), (0x04, 1, 3), (0x10, 8, 0x3000)])) :=
  fun _ => ⟨_, _, _, _, some_of (by decide +kernel), ⟨_, rfl, rfl, by decide +kernel, by decide +kernel, by decide +kernel, by decide +kernel, fun _ h => nomatch h⟩,
    by decide +kernel, by decide +kernel, by decide +kernel, (fun _ h => nomatch h), by decide +kernel, ok_of (by decide +kernel)⟩
theorem witness_Packets_signal : ∀ H : Obligations.Packets,
    Premise (H.2.2.2.2.2.2.2.2.2 3 (started 1 [(0x00, 4, 1), (0x04, 1, 4), (0x08, 8, 0x3000), (0x10, 8, 7)])) :=
  fun _ => ⟨_, _, _, some_of (by decide +kernel), by decide +kernel, ok_of (by decide +kernel)⟩

/-! ### Hypotheses that are met: the host and other packages -/

/-- The bench with its apertures apart: registers at 2 ** 45, memory at 0. -/
def apart (f : State → State) : State :=
  let s := f (queued (queue .idle 0 1 1) 0)
  { s with pkg := { s.pkg with hrwbase := 0x200000000000 } }

/-- A stack lost. -/
def lostStack (n : Nat) (s : State) : State := s.onStack n fun k => { k with st := .failed }

theorem witness_HostAccess_register : ∀ H : Obligations.HostAccess, Premise (H.1 0x200000000140 false 0x140 4 0 (apart id)) :=
  fun _ => ⟨rfl, by decide, by decide, Or.inl (by decide +kernel), by decide⟩
theorem witness_HostAccess_portStat : ∀ H : Obligations.HostAccess, ∃ v, Premise (H.1 0x200000000138 false 0x138 8 v (apart id)) :=
  fun _ => ⟨_, ⟨rfl, by decide, by decide, Or.inr (Or.inl ⟨15, _, by decide, rfl, rfl, rfl, rfl⟩), by decide⟩⟩
theorem witness_HostAccess_export : ∀ H : Obligations.HostAccess, Premise (H.1 0x2000000002F8 false 0x2F8 8 0 (apart id)) :=
  fun _ => ⟨rfl, by decide, by decide, Or.inr (Or.inr ⟨31, by decide, rfl, rfl, by decide⟩), by decide⟩
theorem witness_HostAccess_rdidx : ∀ H : Obligations.HostAccess, Premise (H.2.1 0x200001000030 false 3 false (apart id)) :=
  fun _ => ⟨rfl, by decide, by decide, ⟨_, rfl⟩, by decide⟩
theorem witness_HostAccess_doneidx : ∀ H : Obligations.HostAccess, Premise (H.2.1 0x200001000038 false 3 true (apart id)) :=
  fun _ => ⟨rfl, by decide, by decide, ⟨_, rfl⟩, by decide⟩
theorem witness_HostAccess_stack : ∀ H : Obligations.HostAccess, Premise (H.2.2.1 0xFFFFFFFFC0 false 64 0xFFFFFFFFC0 (apart id)) :=
  fun _ => ⟨⟨rfl, rfl, by decide, by decide, by decide⟩, by decide, by decide,
    Or.inl ⟨by decide, Or.inr ⟨_, 3, some_of (by decide +kernel), by decide +kernel⟩⟩, by decide +kernel⟩
theorem witness_HostAccess_scratchpad : ∀ H : Obligations.HostAccess, Premise (H.2.2.1 0x1003BFFFFC0 false 64 0x1003BFFFFC0 (apart id)) :=
  fun _ => ⟨⟨rfl, rfl, by decide, by decide, by decide⟩, by decide, by decide, Or.inr ⟨by decide, by decide, by decide⟩, by decide +kernel⟩
theorem witness_HostAccess_failed_read : ∀ H : Obligations.HostAccess,
    Premise (H.2.2.2.1 0xF000000038 false 8 0xF000000038 (apart (lostStack 15))) :=
  fun _ => ⟨⟨rfl, rfl, by decide, by decide, by decide⟩, by decide, by decide, by decide, _, some_of (by decide +kernel), by decide +kernel⟩
theorem witness_HostAccess_write : ∀ H : Obligations.HostAccess,
    Premise (H.2.2.2.2.1 0xFFFFFFFFC0 false (2 ^ 63 + 1) 5 0xFFFFFFFFC0 (apart id)) :=
  fun _ => ⟨⟨rfl, rfl, by decide, by decide, by decide⟩, by decide, by decide,
    Or.inl ⟨by decide, Or.inr ⟨_, 3, some_of (by decide +kernel), by decide +kernel⟩⟩⟩
theorem witness_HostAccess_failed_write : ∀ H : Obligations.HostAccess,
    Premise (H.2.2.2.2.2.1 0xF000000040 false 255 5 0xF000000040 (apart (lostStack 15))) :=
  fun _ => ⟨⟨rfl, rfl, by decide, by decide, by decide⟩, by decide, by decide, by decide, _, some_of (by decide +kernel), by decide +kernel⟩
theorem witness_HostAccess_ctxcmd : ∀ H : Obligations.HostAccess, ∃ h1 h2 h3 h4 h5,
    Premise (H.2.2.2.2.2.2.1 (apart id) 0x200000000000 false (2 ^ 64 * (15 * 2 ^ 20 + 4095)) 4095 15 h1 h2 h3 h4 h5).2.2.2.2.2.2.2 :=
  fun _ => ⟨rfl, by decide, by decide, by decide, by decide, Or.inr (by decide)⟩
theorem witness_HostAccess_doorbell : ∀ H : Obligations.HostAccess, ∃ h1 h2 h3, Premise (H.2.2.2.2.2.2.2.1 (apart id) 0x2000008FFFC0 false 5 1048575 h1 h2 h3) :=
  fun _ => ⟨rfl, by decide, by decide, show 0x2000008FFFC0 = 0x200000000000 + 0x100000 + 8 * 1048575 - 8 * (1048575 % 8) by decide⟩

/-- A package with its ports up, an export window over the whole of its stacks, and another. -/
def exporting : State :=
  let s := ported .up 8
  { s with
    mstacks := s.mstacks.map Stack.trained
    fe := { s.fe with expt := Sparse.put (Sparse.put s.fe.expt 0 0) 1 0xC00000FFFFFFFFFF } }

theorem witness_HostAccess_remote_write : ∀ H : Obligations.HostAccess,
    Premise (H.2.2.2.2.2.2.2.2.1 ⟨64, true, [1], 0⟩ exporting) :=
  fun _ => ⟨rfl, by decide +kernel, by decide, by decide, by decide, by decide, by decide,
    fun _ => ⟨Or.inr ⟨_, 0, some_of (by decide +kernel), by decide +kernel⟩, fun h => absurd h (by decide)⟩⟩
theorem witness_HostAccess_remote_read : ∀ H : Obligations.HostAccess,
    Premise (H.2.2.2.2.2.2.2.2.1 ⟨64, false, [], 64⟩ exporting) :=
  fun _ => ⟨rfl, by decide +kernel, by decide, by decide, by decide, by decide, by decide,
    fun _ => ⟨Or.inr ⟨_, 0, some_of (by decide +kernel), by decide +kernel⟩, fun _ => by decide +kernel⟩⟩
theorem witness_HostAccess_remote_outside : ∀ H : Obligations.HostAccess,
    Premise (H.2.2.2.2.2.2.2.2.1 ⟨2 ^ 44, false, [], 64⟩ exporting) :=
  fun _ => ⟨rfl, by decide +kernel, by decide, by decide, by decide, by decide, by decide, fun h => absurd h (by decide +kernel)⟩
theorem witness_HostAccess_stkstat : ∀ H : Obligations.HostAccess, Premise (H.2.2.2.2.2.2.2.2.2 15 (apart (lostStack 15))) :=
  fun _ => ⟨Or.inr (Or.inr rfl), _, some_of (by decide +kernel)⟩

/-! ### Hypotheses that are met: collectives and stacks -/

/-- A reduction of two i32 elements at the start of team memory, its result 8 bytes before the end, in collective group 255. -/
def collDesc : List Byte := rec64 [(0x00, 8, 0x200), (0x08, 8, 65528), (0x10, 4, 2), (0x14, 2, 255)]

/-- The bench with that reduction joined; packages 0 and 63 are members. -/
def joined : State :=
  let s := threaded (thread0 (.coll 0 .i32) .running collDesc 0)
  { s with fe := { s.fe with joins := [⟨255, 0, 0⟩], cge := Sparse.put s.fe.cge 510 0x8000000000000001 } }

theorem witness_Collectives_result : ∀ H : Obligations.Collectives, Premise (H.1 255 [⟨63, 0x8000000000000001, 0, .i32, [1, 2]⟩] joined) :=
  fun _ => ⟨_, _, 0, .i32, _, ⟨_, rfl, some_of (by decide +kernel), by decide +kernel, by decide +kernel⟩, by decide +kernel, by decide +kernel,
    ok_of (by decide +kernel), by decide +kernel, by decide +kernel, by decide +kernel, by decide +kernel, by decide +kernel, by decide +kernel⟩
theorem witness_Collectives_mismatch : ∀ H : Obligations.Collectives, Premise (H.2.1 255 [⟨63, 0x8000000000000001, 1, .i32, [1, 2]⟩] joined) :=
  fun _ => ⟨_, _, 0, .i32, ⟨_, rfl, some_of (by decide +kernel), by decide +kernel, by decide +kernel⟩, by decide +kernel, by decide +kernel⟩
theorem witness_Collectives_missing : ∀ H : Obligations.Collectives, Premise (H.2.2 255 [] joined) :=
  fun _ => ⟨_, _, 0, .i32, ⟨_, rfl, some_of (by decide +kernel), by decide +kernel, by decide +kernel⟩, by decide +kernel⟩

/-- The module right after reset with a stack changed. -/
def stacked (n : Nat) (f : Stack → Stack) : State := (ported .down 0).onStack n f

theorem witness_BaseDies_trained : ∀ H : Obligations.BaseDies, Premise (H.1 15 (stacked 15 fun k => { k with fwOk := true })) :=
  fun _ => ⟨_, some_of (by decide +kernel), by decide +kernel⟩
theorem witness_BaseDies_not_trained : ∀ H : Obligations.BaseDies, Premise (H.2.1 0 (stacked 0 fun k => { k with fwOk := true })) :=
  fun _ => ⟨_, some_of (by decide +kernel), by decide +kernel⟩
theorem witness_BaseDies_lost : ∀ H : Obligations.BaseDies, Premise (H.2.2.1 15 (stacked 15 Stack.trained)) :=
  fun _ => ⟨_, some_of (by decide +kernel), Or.inl ⟨3, by decide +kernel⟩⟩
theorem witness_BaseDies_clean : ∀ H : Obligations.BaseDies, Premise (H.2.2.2.1 15 (stacked 15 Stack.trained)) :=
  fun _ => ⟨_, some_of (by decide +kernel), Or.inl ⟨3, by decide +kernel⟩⟩
theorem witness_BaseDies_corrected : ∀ H : Obligations.BaseDies, Premise (H.2.2.2.2.1 15 (stacked 15 Stack.trained)) :=
  fun _ => ⟨_, some_of (by decide +kernel), Or.inl ⟨3, by decide +kernel⟩⟩
theorem witness_BaseDies_corrected_handing : ∀ H : Obligations.BaseDies, Premise (H.2.2.2.2.1 15
    (stacked 15 fun k => { k with st := .handing 3 0 4 })) :=
  fun _ => ⟨_, some_of (by decide +kernel), Or.inr ⟨3, 0, 4, by decide +kernel⟩⟩
theorem witness_BaseDies_uncorrectable : ∀ H : Obligations.BaseDies, Premise (H.2.2.2.2.2.1 15 (stacked 15 Stack.trained)) :=
  fun _ => ⟨_, some_of (by decide +kernel), Or.inl ⟨3, by decide +kernel⟩, fun _ h => nomatch h⟩
theorem witness_BaseDies_refresh : ∀ H : Obligations.BaseDies, Premise (H.2.2.2.2.2.2.1 15 90 (stacked 15 Stack.trained)) :=
  fun _ => ⟨_, some_of (by decide +kernel), Or.inl ⟨3, by decide +kernel⟩⟩
theorem witness_BaseDies_drain : ∀ H : Obligations.BaseDies, Premise (H.2.2.2.2.2.2.2 15
    (stacked 15 fun k => { k with log := [⟨0, 0xF000000040, 3, 31, 0, 1, 0⟩] })) :=
  fun _ => ⟨_, some_of (by decide +kernel), by decide +kernel⟩

/-- The bench handing stack 3 from die 0 to die 1, before a step. -/
def handing (step : Nat) : State :=
  (threaded (thread0 (.hand 3 1) .running [] step)).onStack 3 fun k => { k with st := .handing 0 1 step }

/-- Every engine thread of a die has ended, comes behind the fence, or is done with the stack. -/
theorem drained_of {s : State} {n die : Nat} (c : (s.threads.all fun u => u.die != die || !u.kind.described || u.st == .ended || u.fenced.contains n ||
      (!u.desc.isEmpty && ((List.range u.total).all fun i => i < u.idx || !s.elementOn u n i) &&
        (!descCwe u.desc || descCws u.desc == 1 || !s.liesOn u n 2 (descCwa u.desc) 8))) = true) :
    ∀ u ∈ s.threads, u.die = die → u.kind.described = true → u.st = .ended ∨ n ∈ u.fenced ∨
      u.desc ≠ [] ∧ (∀ i, u.idx ≤ i → i < u.total → s.elementOn u n i = false) ∧
        (descCwe u.desc = true → descCws u.desc = 1 ∨ s.liesOn u n 2 (descCwa u.desc) 8 = false) := by
  intro u hu hd hk
  have h := List.all_eq_true.mp c u hu
  simp only [hd, hk, bne_self_eq_false, Bool.not_true, Bool.false_or, Bool.or_eq_true, Bool.and_eq_true, beq_iff_eq, List.contains_iff_mem,
    Bool.not_eq_true', List.isEmpty_eq_false_iff, List.all_eq_true, List.mem_range, decide_eq_true_eq] at h
  rcases h with (h | h) | ⟨⟨h1, h2⟩, h3⟩
  · exact Or.inl h
  · exact Or.inr (Or.inl h)
  · refine Or.inr (Or.inr ⟨h1, fun i hi ht => (h2 i ht).resolve_left (by omega), fun hc => ?_⟩)
    rcases h3 with (h3 | h3) | h3
    · simp [h3] at hc
    · exact Or.inl h3
    · exact Or.inr h3

theorem witness_HandOver_begin : ∀ H : Obligations.HandOver, Premise (H.1 0 (handing 1)) := fun _ => ⟨_, 3, 1, rfl, rfl, rfl⟩
/-- With a copy beside it that touches stack 0 only. -/
theorem witness_HandOver_drain : ∀ H : Obligations.HandOver, Premise (H.2.1 0
    (let s := handing 2; { s with threads := s.threads ++ [{ thread0 (.copy 1) .running copyDesc 0 with id := 1 }] })) :=
  fun _ => ⟨_, 3, 1, ⟨rfl, rfl, rfl⟩, drained_of (by decide +kernel)⟩
theorem witness_HandOver_flush : ∀ H : Obligations.HandOver, Premise (H.2.2.1 0 (handing 3)) := fun _ => ⟨_, 3, 1, rfl, rfl, rfl⟩
theorem witness_HandOver_discard : ∀ H : Obligations.HandOver, Premise (H.2.2.2.1 0 (handing 4)) :=
  fun _ => ⟨_, 3, 1, ⟨rfl, rfl, rfl⟩, fun _ h => nomatch h⟩
theorem witness_HandOver_switch : ∀ H : Obligations.HandOver, Premise (H.2.2.2.2.1 0 (handing 5)) := fun _ => ⟨_, 3, 1, rfl, rfl, rfl⟩
theorem witness_HandOver_update : ∀ H : Obligations.HandOver, Premise (H.2.2.2.2.2.1 0 (handing 6)) :=
  fun _ => ⟨_, 3, 1, _, ⟨rfl, rfl, rfl⟩, some_of (by decide +kernel), by decide +kernel, by decide +kernel, by decide +kernel⟩
theorem witness_HandOver_complete : ∀ H : Obligations.HandOver, Premise (H.2.2.2.2.2.2 0 (handing 7)) :=
  fun _ => ⟨_, 3, 1, _, ⟨rfl, rfl, rfl⟩, some_of (by decide +kernel)⟩

/-! ### Hypotheses that are met: start, reset and management -/

/-- The module right after reset with its package changed. -/
def packaged (f : Package → Package) : State := { State.reset with pkg := f Package.reset }

theorem witness_StartStages_a : ∀ H : Obligations.StartStages, Premise (H.1 State.reset) := fun _ => ⟨rfl, rfl, rfl, rfl⟩
theorem witness_StartStages_b : ∀ H : Obligations.StartStages, Premise (H.2.1 (packaged fun p => { p with stage := .b })) := fun _ => ⟨rfl, rfl, rfl, rfl⟩
theorem witness_StartStages_b_ends : ∀ H : Obligations.StartStages, Premise (H.2.2.1
    (let s := packaged fun p => { p with stage := .b, stageDue := false }; { s with mstacks := s.mstacks.map Stack.trained })) :=
  fun _ => ⟨rfl, rfl, rfl, rfl, by decide⟩
theorem witness_StartStages_c_halts : ∀ H : Obligations.StartStages, Premise (H.2.2.2.1 (packaged fun p => { p with stage := .c })) :=
  fun _ => ⟨⟨rfl, rfl, rfl, rfl⟩, rfl⟩
/-- What the algorithms of a signature give is not stated, so an accepted bitstream is supposed here. -/
theorem witness_StartStages_c : ∀ (H : Obligations.StartStages) (i : Image), i.kind = 3 → i.accepted [] = true →
    Premise (H.2.2.2.2.1 (packaged fun p => { p with stage := .c, flash := [(0, i)] })) :=
  fun _ i hk ha => ⟨⟨rfl, rfl, rfl, rfl⟩, by simp [imageOf, packaged, Package.reset, hk, ha]⟩
theorem witness_StartStages_d : ∀ H : Obligations.StartStages, Premise (H.2.2.2.2.2.1 (packaged fun p => { p with stage := .c, stageDue := false })) :=
  fun _ => ⟨rfl, rfl, rfl, rfl, by decide⟩
theorem witness_StartStages_halted : ∀ H : Obligations.StartStages, Premise (H.2.2.2.2.2.2 (packaged fun p => { p with stage := .halted })) :=
  fun _ => rfl

theorem witness_Resets_powerGood : ∀ H : Obligations.Resets, Premise (H.1 State.reset) := fun _ => trivial
theorem witness_Resets_cold : ∀ H : Obligations.Resets, Premise (H.2.1 (packaged fun p => { p with pendingReset := some (.cold, false, 0) })) :=
  fun _ => ⟨false, 0, rfl⟩
theorem witness_Resets_warm : ∀ H : Obligations.Resets,
    Premise (H.2.2.1 true (packaged fun p => { p with pendingReset := some (.warm, true, 0) })) := fun _ => ⟨0, rfl⟩
theorem witness_Resets_partition : ∀ H : Obligations.Resets,
    Premise (H.2.2.2 8 (packaged fun p => { p with pendingReset := some (.partition, true, 8) })) := fun _ => ⟨true, rfl⟩

theorem witness_Management_status : ∀ H : Obligations.Management, Premise (H.1 7 State.reset) := fun _ => trivial
theorem witness_Management_log : ∀ H : Obligations.Management, Premise (H.2.1 7 State.reset) := fun _ => trivial
theorem witness_Management_attest : ∀ H : Obligations.Management,
    Premise (H.2.2.1 7 5 (packaged fun p => { p with idKey := some 1, lmsLeaf := 1048575 })) := fun _ => ⟨1, rfl, by decide⟩
theorem witness_Management_exhausted : ∀ H : Obligations.Management,
    Premise (H.2.2.2.1 7 5 (packaged fun p => { p with idKey := some 1, lmsLeaf := 1048576 })) := fun _ => ⟨1, rfl, by decide⟩
theorem witness_Management_reset : ∀ H : Obligations.Management, Premise (H.2.2.2.2.1 7 .warm true 0 State.reset) := fun _ => ⟨rfl, rfl⟩
theorem witness_Management_reset_held : ∀ H : Obligations.Management,
    Premise (H.2.2.2.2.2.1 7 .cold false 0 (packaged fun p => { p with held := true })) := fun _ => ⟨rfl, rfl⟩
theorem witness_Management_flash : ∀ H : Obligations.Management, Premise (H.2.2.2.2.2.2.1 7 0 4 [1, 2] State.reset) := fun _ => show 2 ≤ 56 by decide
theorem witness_Management_unknown : ∀ H : Obligations.Management, Premise (H.2.2.2.2.2.2.2.1 7 6 State.reset) := fun _ => Or.inr (by decide)
theorem witness_Management_sweep : ∀ H : Obligations.Management, Premise (H.2.2.2.2.2.2.2.2.1 114 106 105 99 State.reset) :=
  fun _ => ⟨rfl, rfl, by decide, by decide, by decide, by decide⟩
theorem witness_Management_sweep_held : ∀ H : Obligations.Management,
    Premise (H.2.2.2.2.2.2.2.2.2.1 94 94 94 94 (packaged fun p => { p with held := true })) := fun _ => ⟨rfl, by decide, by decide, by decide, by decide⟩
theorem witness_Management_hot : ∀ H : Obligations.Management, Premise (H.2.2.2.2.2.2.2.2.2.2.1 90 90 90 115 State.reset) :=
  fun _ => ⟨rfl, 115, by simp, by decide⟩
theorem witness_Management_release : ∀ H : Obligations.Management,
    Premise (H.2.2.2.2.2.2.2.2.2.2.2 (packaged fun p => { p with held := true, coolSweeps := 64 })) := fun _ => ⟨rfl, by decide, rfl⟩

/-! ### Hypotheses that are met: translation, fault records, faults -/

theorem witness_SystemSteps_walk : ∀ H : Obligations.SystemSteps, Premise (H.1 0 1 0x1000 (.fetch 0) (benchOf .nop)) :=
  fun _ => ⟨⟨_, rfl⟩, by decide, by decide, by decide +kernel⟩
theorem witness_SystemSteps_tfence : ∀ H : Obligations.SystemSteps,
    Premise (H.2.1 0 (threaded { thread0 (.tfence .pkg) .running [] 0 with waits := [(0, 0)] })) :=
  fun _ => ⟨_, .pkg, rfl, rfl, by decide +kernel⟩

/-- A fault record of context 1. -/
def rec0 : FaultRec :=
  ((benchOf .nop).pathRecord (Group.first 0 0 0 0 0 0 (Arch.first (pathIn 0x100 []) 16)) 0x100 0 { kind := .clauseLength })

/-- The bench with that record held. -/
def holding (h : Nat) : State :=
  let s := benchOf .nop
  { s with ctxs := s.ctxs.map fun c => { c with held := [{ rec0 with ctx := 1 }], h := h } }

theorem witness_SystemSteps_release : ∀ H : Obligations.SystemSteps, Premise (H.2.2.1 1 (holding 0)) :=
  fun _ => ⟨_, _, _, _, _, ⟨rfl, rfl, by decide +kernel, by decide +kernel, rfl, by decide +kernel, by decide +kernel, ok_of (by decide +kernel), ok_of (by decide +kernel)⟩⟩
theorem witness_SystemSteps_full : ∀ H : Obligations.SystemSteps, Premise (H.2.2.2.1 1 (holding 64)) :=
  fun _ => ⟨_, rfl, by decide, by decide +kernel⟩
theorem witness_SystemSteps_lost : ∀ H : Obligations.SystemSteps,
    Premise (H.2.2.2.2.1 1 (let s := holding 0; { s with lost := [homeKey 0 / 64] })) :=
  fun _ => ⟨_, rfl, by decide, by decide +kernel, by decide +kernel, by decide +kernel⟩
theorem witness_SystemSteps_reread : ∀ H : Obligations.SystemSteps, Premise (H.2.2.2.2.2 1 (holding 0)) :=
  fun _ => ⟨_, _, _, _, ⟨rfl, rfl, by decide +kernel, by decide +kernel, rfl, by decide +kernel, by decide +kernel, ok_of (by decide +kernel), ok_of (by decide +kernel)⟩⟩

/-- An integer sum of lane registers, the last register first outside the group's blocks. -/
def sum : Instr := .iaddI32 7 127 0 0

theorem witness_RegisterFaults : ∀ H : Obligations.RegisterFaults, ∃ us n1 h n2, Premise (H sum us n1 (benchOf sum) h n2).1 ∨
    Premise (H sum us n1 (benchOf sum) h n2).2 :=
  fun _ => ⟨_, Or.inl ⟨_, Or.inl rfl, rfl⟩, _, some_of (by decide +kernel), Or.inr (by delta Premise; decide +kernel)⟩
/-- The bench with an operand or a condition of the instruction's own. -/
theorem witness_RegisterFaults_pending : ∀ H : Obligations.RegisterFaults, ∃ us n1 h n2 h1 h2 u,
    Premise (((H (.iaddI32 7 1 2 3) us n1 (benchArch (.iaddI32 7 1 2 3) fun a => { a with
      tracked := [⟨0, .T, 11, [⟨.v, 3⟩], [], false, 0xFFFFFFFF, [], false, false, false⟩] }) h n2).2 h1).2 h2 |>.1 u) :=
  fun _ => ⟨_, Or.inl ⟨_, Or.inl rfl, rfl⟩, _, some_of (by decide +kernel), by decide +kernel, by decide +kernel, _, some_of (by decide +kernel)⟩
theorem witness_RegisterFaults_poisoned : ∀ H : Obligations.RegisterFaults, ∃ us n1 h n2 h1 h2 h3 u,
    Premise (((H (.iaddI32 7 1 2 3) us n1 (benchArch (.iaddI32 7 1 2 3) fun a => { a with poison := [⟨.v, 3⟩] }) h n2).2 h1).2 h2 |>.2 h3 u) :=
  fun _ => ⟨_, Or.inl ⟨_, Or.inl rfl, rfl⟩, _, some_of (by decide +kernel), by decide +kernel, by decide +kernel, by decide +kernel, _,
    some_of (by decide +kernel)⟩
theorem witness_RegisterFaults_long : ∀ H : Obligations.RegisterFaults, ∃ us n1 h n2,
    Premise (H (.litMov 7 1 5) us n1 (let s := benchOf (.litMov 7 1 5); { s with groups := s.groups.map fun g => { g with
      arch := { g.arch with path0 := g.arch.path0.map fun p => { p with words := (clauseOf [0]).take 1 ++ p.words.drop 1 } } } }) h n2).1 :=
  fun _ => ⟨_, Or.inl ⟨_, Or.inr (Or.inl rfl), rfl⟩, _, some_of (by decide +kernel), by delta Premise; decide +kernel⟩

/-- The bench with an offset for every lane in v42. -/
def offsets (i : Instr) (x : Word) : State := benchArch i fun a => { a with v := Sparse.put a.v (32 * 42 + 31) x }

theorem witness_AccessFaults_align : ∀ H : Obligations.AccessFaults, ∃ n1 n2 n3 h n4 n5, Premise ((H.1 (.ldB32 7 84 42 .plain .grp .team) 7 42 4 .plain n1 n2 n3
    (offsets (.ldB32 7 84 42 .plain .grp .team) 65534) h n4 n5).1 31) :=
  fun _ => ⟨Or.inl ⟨84, .grp, by simp⟩, _, rfl, _, clear_of (by decide +kernel), by decide +kernel, by decide, by decide +kernel, by decide +kernel⟩
theorem witness_AccessFaults_bounds : ∀ H : Obligations.AccessFaults, ∃ n1 n2 n3 h n4 n5 n6, Premise ((H.1 (.stB16 7 84 42 .plain .grp .team) 7 42 2 .plain n1 n2 n3
    (offsets (.stB16 7 84 42 .plain .grp .team) 65536) h n4 n5).2 n6 31) :=
  fun _ => ⟨Or.inr ⟨84, .grp, by simp⟩, _, rfl, _, clear_of (by decide +kernel), by decide +kernel, by decide +kernel, by decide, by decide +kernel,
    by decide +kernel⟩

/-- The bench with the header of its clause changed. -/
def headed (i : Instr) (h : Word) : State := benchPath i fun p => { p with words := h :: p.words.drop 1 }

/-- A store of one word, and its effect. -/
def put : Instr := .stB32 7 84 42 .plain .grp .team

/-- A load of one word, and its effect. -/
def take : Instr := .ldB32 7 84 42 .plain .grp .team
def takeEffect : Effect := loadEffect take 7 84 42 4 false .plain .team

theorem witness_AccessFaults_no_counter : ∀ H : Obligations.AccessFaults, ∃ n1 h n2 n3 n4 n5,
    Premise ((H.2.1 take takeEffect n1 (headed take (packHeader 0 15 0 0)) h n2 n3 n4).1 n5) :=
  fun _ => ⟨Or.inl rfl, _, some_of (by decide +kernel), ⟨by decide +kernel, lanesOk_of (by decide +kernel)⟩, by decide +kernel, rfl,
    by delta Premise; decide +kernel⟩
theorem witness_AccessFaults_counter_full : ∀ H : Obligations.AccessFaults, ∃ n1 h n2 n3 n4 n5 n6 c n7,
    Premise ((H.2.1 take takeEffect n1 (benchArch take fun a => a.setK 0 63) h n2 n3 n4).2 n5 n6 c n7) :=
  fun _ => ⟨Or.inl rfl, _, some_of (by decide +kernel), ⟨by decide +kernel, lanesOk_of (by decide +kernel)⟩, by decide +kernel,
    fun _ => by decide +kernel, by decide +kernel, _, some_of (by decide +kernel), by delta Premise; decide +kernel⟩

/-- The bench with the rights of its context changed (the byte at 0x18 of the record). -/
def entitled (i : Instr) (rights : Nat) : State :=
  let s := benchOf i
  { s with mem := homeFields s.mem [(0x18, 2, rights)] }

theorem witness_AccessFaults_sysWr : ∀ H : Obligations.AccessFaults, ∃ h n, Premise (H.2.2.1 26 16 (entitled (.sysWr 26 16) 0) h n) :=
  fun _ => ⟨_, clear_of (by decide +kernel), by delta Premise; decide +kernel⟩
theorem witness_AccessFaults_sysRd : ∀ H : Obligations.AccessFaults, ∃ h n, Premise (H.2.2.2.1 42 11 (benchOf (.sysRd 42 11)) h n) :=
  fun _ => ⟨_, clear_of (by decide +kernel), Or.inr ⟨by decide, by decide +kernel⟩⟩
theorem witness_AccessFaults_sint : ∀ H : Obligations.AccessFaults, ∃ h n1 n2, Premise (H.2.2.2.2.1 26
    (let s := entitled (.sint 26) 0
     { s with groups := s.groups.map fun g => { g with arch := g.arch.setS 26 0x80000000 } }) h n1 n2) :=
  fun _ => ⟨_, clear_of (by decide +kernel), by decide +kernel, Or.inr (by decide +kernel)⟩
theorem witness_AccessFaults_stkHand : ∀ H : Obligations.AccessFaults, ∃ h n1 n2, Premise ((H.2.2.2.2.2 3 1
    (entitled (.stkHand 3 1) 0) h n1 n2).1) :=
  fun _ => ⟨_, clear_of (by decide +kernel), by decide +kernel, by delta Premise; decide +kernel⟩
theorem witness_AccessFaults_not_owned : ∀ H : Obligations.AccessFaults, ∃ h n1 n2 n3, Premise ((H.2.2.2.2.2 3 0
    (benchOf (.stkHand 3 0)) h n1 n2).2 n3) :=
  fun _ => ⟨_, clear_of (by decide +kernel), by decide +kernel, by decide +kernel, Or.inr (by decide +kernel)⟩

/-- The group of a bench. -/
def group0 (s : State) : Group := (s.group? 0).getD (.first 0 0 0 0 0 0 (Arch.first (pathIn 0x100 []) 16))

theorem witness_TakingFaults_recoverable : ∀ H : Obligations.TakingFaults, let s := benchOf put; ∃ c p x y n1 n2 n3 n4 n5 n6 n7 n8 n9 n10 n11 n12 n13 n14,
    Premise (H.1 s (group0 s) false 0x104 0 { kind := .page } c p x y n1 n2 n3 n4 n5 n6 n7 n8 n9 n10 n11 n12 n13 n14) :=
  fun _ => ⟨_, _, _, _, Or.inl rfl, by decide +kernel, by decide +kernel, by decide +kernel, some_of (by decide +kernel), some_of (by decide +kernel),
    by decide +kernel, by decide +kernel, by decide +kernel, by decide +kernel, by decide +kernel, by decide +kernel, ok_of (by decide +kernel), ok_of (by decide +kernel), by delta Premise; decide +kernel⟩
theorem witness_TakingFaults_program : ∀ H : Obligations.TakingFaults, let s := benchOf put; ∃ c n1 n2 n3 n4 n5 n6,
    Premise (H.2 s (group0 s) false 0x104 0 { kind := .clauseLength } c n1 n2 n3 n4 n5 n6) :=
  fun _ => ⟨_, by decide, by decide, by decide, by decide +kernel, by decide +kernel, some_of (by decide +kernel),
    Or.inr (Or.inl (by decide +kernel))⟩

/-- The bench with these accesses on their way. -/
def tracking (l : List Tracked) : State := benchArch .nop fun a => { a with tracked := l }

/-- One of them, on a path, with its counter. -/
def access (n : Nat) (p : AccPath) (c : Nat) (late : List Late := []) : Tracked :=
  ⟨n, p, c, [⟨.v, 84⟩], if late.isEmpty then [(84, 31, 7)] else [], false, 0xFFFFFFFF, late, false, false, false⟩

theorem witness_LaneAccessComplete_data : ∀ H : Obligations.LaneAccessComplete, Premise (H.1 0 5 (tracking [access 5 .T 11])) :=
  fun _ => ⟨_, _, rfl, rfl, rfl, Or.inl rfl, by decide⟩
theorem witness_LaneAccessComplete_order : ∀ H : Obligations.LaneAccessComplete, Premise (H.2.1 0 5
    (tracking [access 4 .T 11, access 5 .T 11])) :=
  fun _ => ⟨_, [access 4 .T 11], access 5 .T 11, [], ⟨rfl, rfl, rfl, rfl, rfl, Or.inl rfl, by decide, fun _ h => nomatch h⟩, by decide⟩
theorem witness_LaneAccessComplete_lowers : ∀ H : Obligations.LaneAccessComplete, Premise (H.2.2.1 0 5 (tracking [access 5 .P 0])) :=
  fun _ => ⟨_, [], access 5 .P 0, [], ⟨rfl, rfl, rfl, rfl, rfl, Or.inr (Or.inr rfl), by simp, by simp⟩, by simp⟩
theorem witness_LaneAccessComplete_stores : ∀ H : Obligations.LaneAccessComplete, Premise (H.2.2.2.1 0 5
    (tracking [access 5 .D 0 [.store (scratchKey 0 0) [1, 2]]])) :=
  fun _ => ⟨_, [], access 5 .D 0 [.store (scratchKey 0 0) [1, 2]], [], [(scratchKey 0 0, [1, 2])],
    ⟨rfl, rfl, rfl, rfl, rfl, Or.inr (Or.inl rfl), by simp, by simp⟩, rfl⟩
/-- The last lane of a load of 16 bytes that was put off: two bytes at the end of one place, and the rest at another. -/
def lastRuns : List (Nat × Nat) := [(scratchKey 0 0xFFE, 2), (scratchKey 3 0, 14)]
theorem witness_LaneAccessComplete_reads : ∀ H : Obligations.LaneAccessComplete, Premise (H.2.2.2.2.1 0 5 31 84 16 false lastRuns
    (tracking [access 5 .D 0 [.read 31 84 16 false lastRuns]])) :=
  fun _ => ⟨_, [], access 5 .D 0 [.read 31 84 16 false lastRuns], [],
    ⟨rfl, rfl, rfl, rfl, rfl, Or.inr (Or.inl rfl), by simp, by simp⟩, rfl, rfl, by decide, by decide, by decide⟩
theorem witness_LaneAccessComplete_atomics : ∀ H : Obligations.LaneAccessComplete, Premise (H.2.2.2.2.2 0 5 0 84 .cas .n64 7 9 (scratchKey 0 8)
    (tracking [access 5 .D 0 [.rmw 0 84 true .cas .n64 7 9 [(scratchKey 0 8, 8)]]])) :=
  fun _ => ⟨_, [], access 5 .D 0 [.rmw 0 84 true .cas .n64 7 9 [(scratchKey 0 8, 8)]], [],
    ⟨rfl, rfl, rfl, rfl, rfl, Or.inr (Or.inl rfl), by simp, by simp⟩, rfl, rfl, by decide⟩

/-! ### Hypotheses that are met: stepping and invariants -/

/-- The bench with its agenda. -/
def due (l : List Act) (s : State) : State := { s with agenda := l }

theorem witness_StepRunsDecoded : ∀ H : Obligations.StepRunsDecoded, ∃ h n1 n2 n3,
    Premise ((H.1 (due [.issue 0 false] (benchOf put)) 0 false [] h n1 n2).1 n3 |>.1 put) :=
  fun _ => ⟨_, rfl, some_of (by decide +kernel), by decide +kernel, ok_of_toOption (by decide +kernel)⟩

/-- The next state of a result. -/
def nextOf {σ φ ρ : Type} : Host.Outcome σ φ ρ → Option σ
  | .next t => some t
  | _ => none

theorem next_of {σ φ ρ : Type} {x : Host.Outcome σ φ ρ} (h : (nextOf x).isSome = true) : x = .next ((nextOf x).get h) := by
  cases x
  · rfl
  · simp [nextOf] at h
  · simp [nextOf] at h

/-- The error of a result. -/
def errorOf {ε α : Type} : Except ε α → Option ε
  | .error e => some e
  | .ok _ => none

theorem error_of {ε α : Type} {x : Except ε α} {e : ε} (h : errorOf x = some e) : x = .error e := by
  cases x <;> simp_all [errorOf]

theorem witness_StepRunsDecoded_error : ∀ H : Obligations.StepRunsDecoded, ∃ h n1 n2 n3 e,
    Premise ((H.1 (due [.issue 0 false] (bench [0xFE000000])) 0 false [] h n1 n2).1 n3 |>.2 e) :=
  fun _ => ⟨_, rfl, some_of (by decide +kernel), by decide +kernel, .illegal 0, error_of (by decide +kernel)⟩
/-- A team that has waited 16 times and waits to leave for another that the core has no room for. -/
def rotating : State := due [.issue 0 false]
  (let s := crew (.rope 0) (fun t => { t with qlog := 4, ret := 16 }) [team1 id] [1] greedy
   { s with groups := s.groups.map fun g => { g with arch := { g.arch with path0 := g.arch.path0.map fun p => { p with park := none } } } })
theorem witness_StepRunsDecoded_rotates : ∀ H : Obligations.StepRunsDecoded, ∃ h n1 n2, Premise ((H.1 rotating 0 false [] h n1 n2).2.1) ∧
    Premise ((H.1 rotating 0 false [] h n1 n2).2.2) :=
  fun _ => ⟨_, rfl, some_of (by decide +kernel), by delta Premise; decide +kernel, by delta Premise; decide +kernel⟩
/-- A store that is put off as it issues. -/
theorem witness_StepRunsDecoded_late : ∀ H : Obligations.StepRunsDecoded, ∃ h t n1 n2 n3 n4 n5,
    Premise (H.2.1 (due [.issueLate 0 false] (benchOf put)) 0 false [] h put t n1 n2 n3 n4 n5) :=
  fun _ => ⟨_, _, rfl, some_of (by decide +kernel), by decide +kernel, ok_of_toOption (by decide +kernel), rfl, next_of (by decide +kernel)⟩
theorem witness_StepRunsDecoded_drained : ∀ H : Obligations.StepRunsDecoded, ∃ g n, Premise (H.2.2.1 (benchOf put) g n) :=
  fun _ => ⟨group0 (benchOf put), by decide +kernel, by delta Premise; decide +kernel⟩
/-- The second lane of a store that was put off, before the first. -/
theorem witness_StepRunsDecoded_perform : ∀ H : Obligations.StepRunsDecoded,
    let x := access 5 .T 0 [.store (teamKey 0 8) [1], .store (teamKey 0 9) [2]]
    ∃ n1 n2 n3, Premise (H.2.2.2.1 (due [.perform 0 5 1] (tracking [x])) 0 5 1 [] (group0 (tracking [x])) x n1 n2 n3) :=
  fun _ => ⟨rfl, by decide +kernel, by decide +kernel, by delta Premise; decide +kernel⟩
theorem witness_StepRunsDecoded_entry : ∀ H : Obligations.StepRunsDecoded, ∃ n1,
    Premise (H.2.2.2.2.1 (due [.issue 0 false] State.reset) 0 false [] n1) := fun _ => ⟨rfl, rfl⟩
theorem witness_StepRunsDecoded_event : ∀ H : Obligations.StepRunsDecoded,
    Premise (H.2.2.2.2.2 (due [.event .powerGood] State.reset) .powerGood []) := fun _ => rfl
theorem witness_GroupInstructionsAnswer : ∀ H : Obligations.GroupInstructionsAnswer, ∃ n h, Premise (H put n (benchOf put) h) :=
  fun _ => ⟨by decide, _, some_of (by decide +kernel)⟩
theorem witness_RoundTrip : ∀ H : Obligations.RoundTrip, ∃ n, Premise (H put [] n) := fun _ => ⟨by decide, rfl⟩
theorem witness_MemoryCanonical : ∀ H : Obligations.MemoryCanonical, ∃ t n, Premise (H (due [.event .powerGood] State.reset) t n) :=
  fun _ => ⟨_, by decide, rfl⟩
theorem witness_IdentifiersUnique : ∀ H : Obligations.IdentifiersUnique, ∃ t n, Premise (H (due [.event .powerGood] State.reset) t n) :=
  fun _ => ⟨_, by unfold State.idsUnique; decide, rfl⟩

/-! ### One step: lane results (R167-R191; most values are those of the spec's own tables and examples) -/

/-- The lane register that the instruction leaves, from the registers given. -/
def laneAfter (i : Instr) (ins : List (Nat × Nat × Nat)) (r l : Nat) : Option Nat :=
  match exec i (benchArch i fun a => ins.foldl (fun a e => a.setV e.1 e.2.1 (BitVec.ofNat 32 e.2.2)) a) with
  | .next t => (t.group? 0).map fun g => (g.arch.getV r l).toNat
  | _ => none

theorem test_lanes_0 : ∀ e ∈ ([
    (.iaddI32 7 1 1 3, [(1, 31, 0xFFFFFFFF), (3, 31, 2)], 1, 31, 1),
    (.isubI32 7 1 2 3, [(2, 31, 0), (3, 31, 1)], 1, 31, 0xFFFFFFFF),
    (.imulI32 7 1 2 3, [(2, 31, 0x10001), (3, 31, 0x10001)], 1, 31, 0x20001),
    (.imulhiI32 7 1 2 3, [(2, 31, 0xFFFFFFFF), (3, 31, 2)], 1, 31, 0xFFFFFFFF),
    (.imulhiN32 7 1 2 3, [(2, 31, 0xFFFFFFFF), (3, 31, 2)], 1, 31, 1),
    (.iminI32 7 1 2 3, [(2, 31, 0xFFFFFFFF), (3, 31, 1)], 1, 31, 0xFFFFFFFF),
    (.iminN32 7 1 2 3, [(2, 31, 0xFFFFFFFF), (3, 31, 1)], 1, 31, 1),
    (.imaxI32 7 1 2 3, [(2, 31, 0xFFFFFFFF), (3, 31, 1)], 1, 31, 1),
    (.imaxN32 7 1 2 3, [(2, 31, 0xFFFFFFFF), (3, 31, 1)], 1, 31, 0xFFFFFFFF),
    (.andB32 7 1 2 3, [(2, 31, 12), (3, 31, 10)], 1, 31, 8),
    (.orB32 7 1 2 3, [(2, 31, 12), (3, 31, 10)], 1, 31, 14),
    (.xorB32 7 1 2 3, [(2, 31, 12), (3, 31, 10)], 1, 31, 6)] : List (Instr × List (Nat × Nat × Nat) × Nat × Nat × Nat)),
    laneAfter e.1 e.2.1 e.2.2.1 e.2.2.2.1 = some e.2.2.2.2 := by decide +kernel
theorem test_lanes_1 : ∀ e ∈ ([
    (.andnB32 7 1 2 3, [(2, 31, 12), (3, 31, 10)], 1, 31, 4),
    (.shlB32 7 1 2 3, [(2, 31, 1), (3, 31, 32)], 1, 31, 0),
    (.shrN32 7 1 2 3, [(2, 31, 0x80000000), (3, 31, 31)], 1, 31, 1),
    (.shrI32 7 1 2 3, [(2, 31, 0x80000000), (3, 31, 99)], 1, 31, 0xFFFFFFFF),
    (.rotlB32 7 1 2 3, [(2, 31, 0x80000001), (3, 31, 33)], 1, 31, 3),
    (.popcB32 7 1 2, [(2, 31, 0xF0F0)], 1, 31, 8),
    (.clzB32 7 1 2, [(2, 31, 0)], 1, 31, 32),
    (.brevB32 7 1 2, [(2, 31, 1)], 1, 31, 0x80000000),
    (.iabsI32 7 1 2, [(2, 31, 0x80000000)], 1, 31, 0x80000000),
    (.inegI32 7 1 2, [(2, 31, 1)], 1, 31, 0xFFFFFFFF),
    (.faddF32 7 1 2 3, [(2, 31, 0x3F800000), (3, 31, 0x4B800000)], 1, 31, 0x4B800000),
    (.fsubF32 7 1 2 3, [(2, 31, 0x3F800000), (3, 31, 0x3F800000)], 1, 31, 0)] : List (Instr × List (Nat × Nat × Nat) × Nat × Nat × Nat)),
    laneAfter e.1 e.2.1 e.2.2.1 e.2.2.2.1 = some e.2.2.2.2 := by decide +kernel
theorem test_lanes_2 : ∀ e ∈ ([
    (.fmulF32 7 1 2 3, [(2, 31, 0), (3, 31, 0x7F800000)], 1, 31, 0x7FC00000),
    (.fminF32 7 1 2 3, [(2, 31, 0), (3, 31, 0x80000000)], 1, 31, 0x80000000),
    (.fmaxF32 7 1 2 3, [(2, 31, 0x7FFFFFFF), (3, 31, 5)], 1, 31, 5),
    (.fabsF32 7 1 2, [(2, 31, 0x80000001)], 1, 31, 1),
    (.fnegF32 7 1 2, [(2, 31, 0xFFC00001)], 1, 31, 0x7FC00000),
    (.faddF64 7 2 4 6, [(5, 31, 0x3FF00000), (7, 31, 0x3FF00000)], 3, 31, 0x40000000),
    (.iaddI64 7 2 2 4, [(2, 31, 0xFFFFFFFF), (4, 31, 1)], 3, 31, 1),
    (.isubI64 7 2 2 4, [(4, 31, 1)], 3, 31, 0xFFFFFFFF),
    (.litI .isub 7 1 2 1, [], 1, 31, 0xFFFFFFFF),
    (.litF .fmul 7 2 2 0x3FC00000, [(2, 31, 0x40000000)], 2, 31, 0x40400000),
    (.litMov 7 1 77, [], 1, 31, 77),
    (.xchFlip 7 4 4 9, [(4, 0, 5), (9, 31, 31)], 4, 31, 5)] : List (Instr × List (Nat × Nat × Nat) × Nat × Nat × Nat)),
    laneAfter e.1 e.2.1 e.2.2.1 e.2.2.2.1 = some e.2.2.2.2 := by decide +kernel
theorem test_lanes_3 : ∀ e ∈ ([
    (.xchSub 7 1 4 9, [(4, 0, 5), (4, 3, 6), (9, 0, 1), (9, 3, 3)], 1, 0, 5),
    (.xchAdd 7 1 4 9, [(4, 31, 5), (9, 30, 1)], 1, 30, 5),
    (.xchAt 7 1 4 9, [(4, 7, 5), (9, 31, 39)], 1, 31, 5),
    (.getLane 7 1, [], 1, 31, 31),
    (.cenBits 7 1 7, [], 1, 31, 0xFFFFFFFF),
    (.iaddExt 7 1 2 3 .i32 true, [(2, 31, 0x7FFFFFFF), (3, 31, 1)], 1, 31, 0x7FFFFFFF),
    (.isubExt 7 1 2 3 .n32 true, [(2, 31, 1), (3, 31, 2)], 1, 31, 0),
    (.imad 7 1 2 3 4 .i32 false, [(2, 31, 0xFFFFFFFF), (3, 31, 3), (4, 31, 5)], 1, 31, 2),
    (.iabsExt 7 1 2 .i32 true, [(2, 31, 0x80000000)], 1, 31, 0x7FFFFFFF),
    (.clamp 7 1 2 3 4 .i32, [(2, 31, 0), (3, 31, 9), (4, 31, 4)], 1, 31, 4),
    (.sel 7 1 2 3 0 .b32, [(2, 31, 8), (3, 31, 9)], 1, 31, 9),
    (.shrExt 7 2 4 1 .i64, [(5, 31, 0x80000000), (1, 31, 64)], 2, 31, 0xFFFFFFFF)] : List (Instr × List (Nat × Nat × Nat) × Nat × Nat × Nat)),
    laneAfter e.1 e.2.1 e.2.2.1 e.2.2.2.1 = some e.2.2.2.2 := by decide +kernel
theorem test_lanes_4 : ∀ e ∈ ([
    (.bfe 7 1 2 3 4 .i32, [(2, 31, 0x80000000), (3, 31, 28), (4, 31, 8)], 1, 31, 0xFFFFFFF8),
    (.bfi 7 1 2 3 4, [(2, 31, 0xFFFFFFFF), (3, 31, 0), (4, 31, 0xFFFF0404)], 1, 31, 0xFFFFFF0F),
    (.fma 7 1 2 3 4 .f32 .rne false false false, [(2, 31, 0), (3, 31, 0x7F800000), (4, 31, 0x7FC00000)], 1, 31, 0x7FC00000),
    (.faddExt 7 1 2 3 .f32 .rd false true, [(2, 31, 0x3F800000), (3, 31, 0x3F800000)], 1, 31, 0x80000000),
    (.fdiv 7 1 2 3 .f32 .rne false false, [(2, 31, 0xBF800000), (3, 31, 0)], 1, 31, 0xFF800000),
    (.fsqrt 7 1 2 .f32 .rne, [(2, 31, 0x80000000)], 1, 31, 0x80000000),
    (.frcp 7 1 2 .f32 .rne, [(2, 31, 0xFF800000)], 1, 31, 0x80000000),
    (.frsqrt 7 1 2 .f32, [(2, 31, 0x40800000)], 1, 31, 0x3F000000),
    (.fexp2 7 1 2, [(2, 31, 0xFF800000)], 1, 31, 0),
    (.flog2 7 1 2, [(2, 31, 0x3F800000)], 1, 31, 0),
    (.frint 7 1 2 .f32 .rne, [(2, 31, 0xBE99999A)], 1, 31, 0x80000000),
    (.cvt 7 1 2 .i8 .i32 .rne false false, [(2, 31, 0x12C)], 1, 31, 44)] : List (Instr × List (Nat × Nat × Nat) × Nat × Nat × Nat)),
    laneAfter e.1 e.2.1 e.2.2.1 e.2.2.2.1 = some e.2.2.2.2 := by decide +kernel
theorem test_lanes_5 : ∀ e ∈ ([
    (.cvt 7 1 2 .i8 .i32 .rne true false, [(2, 31, 0x12C)], 1, 31, 127),
    (.cvt 7 1 2 .n16 .f32 .rz false false, [(2, 31, 0xC06CCCCD)], 1, 31, 0),
    (.cvt 7 1 2 .i32 .f32 .rne false false, [(2, 31, 0x7FC00000)], 1, 31, 0),
    (.cvt 7 1 2 .f16 .f32 .rne false false, [(2, 31, 0x4788B800)], 1, 31, 0x7C00),
    (.cvt 7 1 2 .e4m3 .f16 .rne false false, [(2, 31, 0x7C00)], 1, 31, 127),
    (.cvt 7 1 2 .f32 .e5m2 .rne false false, [(2, 31, 124)], 1, 31, 0x7F800000),
    (.cvtPk 7 1 2 3 .bf16 .rz, [(2, 31, 0x3F80FFFF), (3, 31, 0x40000000)], 1, 31, 0x40003F80),
    (.cvtPk4 7 1 4 .e4m3 .rne, [(7, 31, 0x3F800000)], 1, 31, 0x38000000),
    (.scanAdd 7 1 2 .n32, [(2, 0, 3), (2, 30, 4), (2, 31, 5)], 1, 31, 12),
    (.redMax 7 1 2 .i32, [(2, 0, 0xFFFFFFFF), (2, 5, 9)], 1, 31, 9)] : List (Instr × List (Nat × Nat × Nat) × Nat × Nat × Nat)),
    laneAfter e.1 e.2.1 e.2.2.1 e.2.2.2.1 = some e.2.2.2.2 := by decide +kernel

/-! ### One step: uniform results (R79, R81, R95, R169-R175) -/

/-- The uniform register that the instruction leaves, from the registers given. -/
def uniformAfter (i : Instr) (ins : List (Nat × Nat)) (r : Nat) : Option Nat :=
  match exec i (benchArch i fun a => ins.foldl (fun a e => a.setS e.1 (BitVec.ofNat 32 e.2)) a) with
  | .next t => (t.group? 0).map fun g => (g.arch.getS r).toNat
  | _ => none

theorem test_uniform : ∀ e ∈ ([
    (.uniformIadd 2 2 4 true, [(2, 0xFFFFFFFF), (3, 0), (4, 1)], 3, 1),
    (.uniformIsub 1 2 3 false, [(2, 0), (3, 1)], 1, 0xFFFFFFFF),
    (.uniformImulhiI 2 4 6 true, [(4, 0xFFFFFFFF), (5, 0xFFFFFFFF), (6, 2)], 2, 0xFFFFFFFF),
    (.uniformRotl 1 2 3 false, [(2, 0x80000001), (3, 1)], 1, 3),
    (.uniformPopc 2 4 true, [(4, 0xFFFFFFFF), (5, 1)], 2, 33),
    (.uniformIcmpN 1 2 3 false .lt, [(2, 1), (3, 0xFFFFFFFF)], 1, 1),
    (.uniformIcmpI 1 2 3 false .lt, [(2, 1), (3, 0xFFFFFFFF)], 1, 0),
    (.uniformFadd 1 2 3, [(2, 0x3FC00000), (3, 0x40200000)], 1, 0x40800000),
    (.uniformFcmp 1 2 3 .ne, [(2, 0x7FC00000), (3, 0)], 1, 1),
    (.uniformLiteralForm .isub 1 2 false .eq 1, [(2, 0)], 1, 0xFFFFFFFF),
    (.getCtx 1, [], 1, 1),
    (.getEm 1, [], 1, 0xFFFFFFFF),
    (.getLm 1, [], 1, 0xFFFFFFFF)] : List (Instr × List (Nat × Nat) × Nat × Nat)),
    uniformAfter e.1 e.2.1 e.2.2.1 = some e.2.2.2 := by decide +kernel

/-! ### One step: the spec's worked examples -/

/-- The sum over four lanes of R188's example: 1, 2 ** 24, 1 and -2 ** 24 give 1 by the tree. -/
theorem test_red_add : ∀ l : Fin 5, (match exec (.redAdd 7 7 3 .f32) (benchArch (.redAdd 7 7 3 .f32) fun a =>
      [0x3F800000, 0x4B800000, 0x3F800000, 0xCB800000].zipIdx.foldl (fun a e => a.setV 3 e.2 e.1)
        { a with path0 := a.path0.map fun p => { p with m := 15 } }) with
    | .next t => (t.group? 0).map fun g => g.arch.getV 7 l
    | _ => none) = some (if l < 4 then 0x3F800000 else 0) := by decide +kernel

/-- Two lanes on one word that holds 7, with 5 and 9: it is left with 9, and both lanes return 7 (R200's example). -/
theorem test_atomic_max : (match exec (.atmMax 7 5 2 3 .n32 .rel .die .die true)
      (let s := benchArch (.atmMax 7 5 2 3 .n32 .rel .die .die true) fun a =>
        { (((a.setV 2 0 0x40).setV 2 1 0x40).setV 3 0 5).setV 3 1 9 with path0 := a.path0.map fun p => { p with m := 3 } }
       { s with mem := putBytes s.mem (scratchKey 0 (s.spwbase 1 0 + 0x40)) [7, 0, 0, 0] }) with
    | .next t => some (t.readLE (scratchKey 0 (t.spwbase 1 0 + 0x40)) 4, (t.group? 0).map fun g => g.arch.tracked.flatMap fun x => x.data)
    | _ => none) = some (9, some [(5, 0, 7), (5, 1, 7)]) := by decide +kernel

/-- The split of the example of chapter 10: lane 0 is taken to 0x130, lanes 1 and 2 stay at 0x10C, and lane 3 has arrived. -/
theorem test_brd : (match exec (.brd 1 false 11 13)
      (let s := benchArch (.brd 1 false 11 13) fun a =>
        { a with lm := 15, p := Sparse.put a.p 1 1, path0 := a.path0.map fun p => { p with m := 15, pst := [7, 15] } }
       { s with mem := homeFields s.mem [(0x510C, 4, 0xFE001FE0), (0x5130, 4, 0xFE001FE0), (0x5138, 4, 0xFE001FE0)] }) with
    | .next t => (t.group? 0).bind fun g => match g.arch.path0, g.arch.path1, g.arch.stack with
      | some a, some b, [.recon rpc mask arrv top d floor _] => some ([a.pc, b.pc, rpc], [a.m, b.m, mask, arrv, top], [a.floor, b.floor, d, floor])
      | _, _, _ => none
    | _ => none) = some ([0x10C, 0x130, 0x138], [6, 1, 15, 8, 7], [1, 1, 1, 0]) := by decide +kernel

end Sys2Proof.Tests
end

section
/-!
SUPPORT. The instructions that work across lanes (R176-R180, R184-R189): each is run by the plan of its lane result. Uniform results
(R95, R169, R192-R194): writing uniform registers, the plan of an instruction that writes them, and the instructions run by it.
-/
namespace Sys2Proof.Machine

/-! ### Across lanes -/

/-- The scan's terms: the active lanes up to its own (R189). -/
theorem sum_lanesOf_upTo (act : Word) (f : Nat → Nat) (l : Nat) :
    (((lanesOf act).filter (· ≤ l)).map f).sum =
      ((List.range 32).map fun j => if act.getLsbD j && j ≤ l then f j else 0).sum := by
  rw [List.sum_map_ite, lanesOf, List.filter_filter]
  simp [Bool.and_comm]

/-- An exchange out of the lanes' range keeps the lane's own value (R184); the others compute their statement's value as it stands. -/
theorem writesLanes_of_laneAcross (i : Instr) (r : LaneResult) (h : laneAcross i = some r) : WritesLanes i r := by
  cases i with
  | xchAt | xchFlip | cenBits | getLane | redAdd | redMin | redMax | cvt | cvtPk | cvtPk4 =>
    cases h; exact writesLanes_of_plan (fun _ => rfl) fun _ _ _ _ _ _ => rfl
  | xchSub | xchAdd =>
    cases h
    refine writesLanes_of_plan (fun _ => rfl) fun _ _ _ _ _ _ => ?_
    dsimp only
    split <;> rfl
  | scanAdd => cases h; exact writesLanes_of_plan (fun _ => rfl) fun _ _ _ _ _ _ => by rw [sum_lanesOf_upTo]
  | _ => cases h

/-! ### Uniform registers -/

theorem Arch.getS_setS (a : Arch) (n m : Nat) (x : Word) : (a.setS n x).getS m = if m = n then x else a.getS m :=
  Sparse.look_put a.s n m x

theorem Arch.writeUni_rest (a : Arch) (d k x : Nat) : { a.writeUni d k x with s := a.s } = a := by
  unfold Arch.writeUni
  split <;> rfl

theorem Arch.getS_setX (a : Arch) (n m : Nat) (x : DWord) :
    (a.setX n x).getS m = if m = n + 1 then (x >>> 32).setWidth 32 else if m = n then x.setWidth 32 else a.getS m := by
  rw [Arch.setX, Arch.getS_setS, Arch.getS_setS]

/-- The high half of a pair's value (R170). -/
theorem highHalf_ofNat (x : Nat) : (BitVec.ofNat 64 x >>> 32).setWidth 32 = BitVec.ofNat 32 (x / 2 ^ 32) := by
  apply BitVec.eq_of_toNat_eq
  rw [BitVec.toNat_setWidth, BitVec.toNat_ushiftRight, BitVec.toNat_ofNat, BitVec.toNat_ofNat, Nat.shiftRight_eq_div_pow]
  omega

/-- What a uniform register reads as after a result of one register, or of a pair, was written. -/
theorem Arch.getS_writeUni (a : Arch) (d k x n : Nat) (hk : k = 1 ∨ k = 2) :
    (a.writeUni d k x).getS n = if d ≤ n ∧ n < d + k then BitVec.ofNat 32 (x / 2 ^ (32 * (n - d))) else a.getS n := by
  unfold Arch.writeUni
  obtain rfl | rfl := hk
  · rw [if_neg (by decide), Arch.getS_setS]
    by_cases hd : n = d
    · rw [if_pos hd, if_pos (by omega), hd, Nat.sub_self, Nat.mul_zero, Nat.pow_zero, Nat.div_one]
    · rw [if_neg hd, if_neg (by omega)]
  · rw [if_pos rfl, Arch.getS_setX]
    by_cases hhi : n = d + 1
    · rw [if_pos hhi, if_pos (by omega), hhi, Nat.add_sub_cancel_left, Nat.mul_one, highHalf_ofNat]
    · by_cases hlo : n = d
      · rw [if_neg hhi, if_pos hlo, if_pos (by omega), hlo, Nat.sub_self, Nat.mul_zero, Nat.pow_zero, Nat.div_one,
          BitVec.setWidth_ofNat_of_le (by decide)]
      · rw [if_neg hhi, if_neg hlo, if_neg (by omega)]

theorem wregs_cases (w : Bool) : wregs w = 1 ∨ wregs w = 2 := by cases w <;> simp [wregs]

/-- A compare writes one register in either width (R192). -/
theorem compare_or_wregs_cases (cmp w : Bool) :
    (if cmp then 1 else wregs w) = 1 ∨ (if cmp then 1 else wregs w) = 2 := by
  cases cmp
  · exact wregs_cases w
  · exact .inl rfl

theorem regs_cases (t : Ty) : t.regs = 1 ∨ t.regs = 2 := by unfold Ty.regs; split <;> simp

/-- Without a guard an instruction is active in the lanes of the execute mask (R7). -/
theorem Here.active_seven (h : Here) : h.active 7 = h.p.em := by
  have hpt : h.a.getP (7 : Guard).toNat = BitVec.allOnes 32 := rfl
  rw [Here.active, hpt, BitVec.and_allOnes]

/-! ### The plan of a uniform result -/

/-- Two effects that agree on the state in which an instruction of the path that issues acts make no difference. -/
theorem run_congr_act {s : State} {h : Here} {i : Instr} {p : Plan} {act : Here → State → State} (e : s.here = some h)
    (ha : p.act h (s.retire h i p) = act h (s.retire h i p)) : run i p s = run i { p with act := act } s := by
  unfold run
  simp only [e, ha]
  rfl

/-- An instruction whose plan reads a value into one uniform register or a pair writes it there, whatever the execute mask holds (R169).
The plan reads the value once the path stands behind the instruction; `hval` says that this does not change it. -/
theorem writesUniform_of_getPlan {i : Instr} {d : SReg} {k : Nat} {src : List Use} {val : State → Here → Nat}
    (e : ∀ s, exec i s = run i (getPlan d k src val) s) (hk : k = 1 ∨ k = 2)
    (hval : ∀ s h, val (s.retire h i (getPlan d k src val)) h = val s h) : WritesUniform i ⟨d.toNat, k, src, val⟩ := by
  intro s h c
  obtain ⟨t, u, hr, hu, hbeh, hrest, honly, a, ha, hua⟩ := run_regs (p := uniPlan d k src fun _ => val s h) c rfl rfl rfl rfl rfl
    (fun b => b.writeUni d.toNat k (val s h)) (fun _ => rfl) fun b => by
      have hw := Arch.writeUni_rest b d.toNat k (val s h)
      exact ⟨(congrArg Arch.path0 hw :), (congrArg Arch.path1 hw :), (congrArg Arch.poison hw :), (congrArg Arch.ecc hw :)⟩
  have hrun : exec i s = run i (uniPlan d k src fun _ => val s h) s :=
    (e s).trans <| run_congr_act c.here <|
      congrArg (fun x => (s.retire h i (getPlan d k src val)).onArch h.g.id fun b => b.writeUni d.toNat k x) (hval s h)
  refine ⟨t, u, hrun.trans hr, hu, ?_, ?_, ?_, hrest, honly⟩
  · intro n
    have hus : u.arch.getS n = (a.writeUni d.toNat k (val s h)).getS n :=
      (congrArg (fun x : Arch => x.getS n) hua :)
    have has : a.getS n = h.a.getS n := (congrArg (fun x : Arch => x.getS n) ha :)
    rw [hus, Arch.getS_writeUni _ _ _ _ _ hk, has]
  · have has : a.s = h.a.s := (congrArg Arch.s ha :)
    calc ({ u.arch with s := h.a.s, poison := h.a.poison, ecc := h.a.ecc, path0 := h.a.path0, path1 := h.a.path1 } : Arch)
      _ = { a.writeUni d.toNat k (val s h) with
            s := h.a.s, poison := h.a.poison, ecc := h.a.ecc, path0 := h.a.path0, path1 := h.a.path1 } :=
          (congrArg (fun x : Arch => { x with s := h.a.s }) hua :)
      _ = { a with poison := h.a.poison, ecc := h.a.ecc, path0 := h.a.path0, path1 := h.a.path1 } := by
          rw [← has]
          exact congrArg (fun x : Arch => { x with poison := h.a.poison, ecc := h.a.ecc, path0 := h.a.path0, path1 := h.a.path1 })
            (Arch.writeUni_rest a d.toNat k (val s h))
      _ = h.a := ha
  · rwa [← Here.active_seven]

/-! ### The uniform instructions -/

theorem writesUniform_of_uniBin {i : Instr} {op : UOp} {d a b : SReg} {w : Bool} {c : Cond} {r : UniResult}
    (h : uniOf op d a b w c = some r) (e : ∀ s, exec i s = uniBin i op d a b w c s) : WritesUniform i r := by
  obtain rfl := Option.some.inj h
  exact writesUniform_of_getPlan e (compare_or_wregs_cases op.isCompare w) fun _ _ => rfl

theorem bits_wregs (w : Bool) : 32 * wregs w = if w then 64 else 32 := by cases w <;> rfl

/-- A one-source operation `f` of the operand's width (R192). -/
theorem writesUniform_of_uniUn {i : Instr} {d a : SReg} {w : Bool} {f : Nat → Nat → Nat}
    (e : ∀ s, exec i s = uniUn i d a (wregs w) (f (32 * wregs w)) s) :
    WritesUniform i ⟨d.toNat, wregs w, srcS a (wregs w), fun _ h => f (if w then 64 else 32) (h.a.uni a.toNat (wregs w))⟩ := by
  rw [bits_wregs] at e
  exact writesUniform_of_getPlan e (wregs_cases w) fun _ _ => rfl

theorem writesUniform_of_uniArith (i : Instr) (r : UniResult) (h : uniArith i = some r) : WritesUniform i r := by
  cases i with
  | uniformIadd | uniformIsub | uniformImul | uniformImulhiI | uniformImulhiN | uniformIminI | uniformIminN | uniformImaxI
  | uniformImaxN | uniformAnd | uniformOr | uniformXor | uniformAndn | uniformShl | uniformShrN | uniformShrI | uniformRotl
  | uniformIcmpI | uniformIcmpN | uniformFadd | uniformFsub | uniformFmul | uniformFmin | uniformFmax | uniformFcmp =>
    exact writesUniform_of_uniBin h fun _ => rfl
  | uniformPopc => cases h; exact writesUniform_of_uniUn (f := popCount) fun _ => rfl
  | uniformClz => cases h; exact writesUniform_of_uniUn (f := leadingZeros) fun _ => rfl
  | uniformBrev => cases h; exact writesUniform_of_uniUn (f := bitReverse) fun _ => rfl
  | uniformMov => cases h; exact writesUniform_of_uniUn (f := fun _ x => x) fun _ => rfl
  | uniformLiteralForm op d a w =>
    cases h; exact writesUniform_of_getPlan (fun _ => rfl) (compare_or_wregs_cases op.isCompare w) fun _ _ => rfl
  | uniformExtended op d a b c t => cases h; exact writesUniform_of_getPlan (fun _ => rfl) (regs_cases t) fun _ _ => rfl
  | _ => cases h

theorem writesUniform_of_getResult (i : Instr) (r : UniResult) (h : getResult i = some r) : WritesUniform i r := by
  cases i with
  | getGroup | getTeamX | getTeamY | getTeamZ | getGridX | getGridY | getGridZ | getCore | getCluster | getDie | getCtx | getEm
  | getLm | getFmt => cases h; exact writesUniform_of_getPlan (fun _ => rfl) (.inl rfl) fun _ _ => rfl
  | getCycle => cases h; exact writesUniform_of_getPlan (fun _ => rfl) (.inr rfl) fun _ _ => rfl
  | _ => cases h

/-! ### The statements -/

/-- Settles O3: each instruction that works across lanes is run by the plan of its lane result. -/
theorem acrossLanes : Obligations.AcrossLanes := writesLanes_of_laneAcross

/-- Settles O5: the uniform arithmetic instructions and `get` are run by the plan of their uniform result, which has no guard. -/
theorem uniformResults : Obligations.UniformResults := fun i r h =>
  h.elim (writesUniform_of_uniArith i r) (writesUniform_of_getResult i r)

end Sys2Proof.Machine
end

section
/-!
SUPPORT. Effects that stay within one group (its registers and paths, and what its forks and its detector note), the instructions whose
plan has such an effect, and the transfers (R260, R261, R270, R271, R275).
-/
namespace Sys2Proof.Machine

/-! ### Effects within a group -/

theorem OnlyGroup.refl (s : State) (grp : Nat) : OnlyGroup s s grp := ⟨rfl, rfl, rfl, fun _ _ => rfl⟩

theorem OnlyGroup.trans {s t u : State} {grp : Nat} (h : OnlyGroup s t grp) (k : OnlyGroup t u grp) : OnlyGroup s u grp where
  rest :=
    calc
      _ = { ({ u with groups := t.groups, teams := t.teams, cores := t.cores, free := t.free, losses := t.losses } : State) with
            groups := s.groups, teams := s.teams, cores := s.cores, free := s.free, losses := s.losses } := rfl
      _ = { t with groups := s.groups, teams := s.teams, cores := s.cores, free := s.free, losses := s.losses } := by rw [k.rest]
      _ = s := h.rest
  others := k.others.trans h.others
  teams := k.teams.trans h.teams
  cores die site := (k.cores die site).trans (h.cores die site)

/-- From `s` to `t` one group's architected state changes by `f`; of the rest of that group, only what forks and the detector note, and
outside it only what is counted. -/
structure Within (grp : Nat) (f : Arch → Arch) (s t : State) : Prop where
  group : ∀ g, s.group? grp = some g → ∃ u, t.group? grp = some u ∧ u.arch = f g.arch ∧ u.sameRest g
  only : OnlyGroup s t grp

theorem Group.sameRest_refl (g : Group) : g.sameRest g := rfl

theorem Group.sameRest_trans {a b c : Group} (h : a.sameRest b) (k : b.sameRest c) : a.sameRest c := by
  unfold Group.sameRest at h k ⊢
  calc
    _ = { b with arch := c.arch, detector := c.detector, conts := c.conts } :=
      (congrArg (fun x : Group => { x with arch := c.arch, detector := c.detector, conts := c.conts }) h :)
    _ = c := k

theorem Group.id_of_sameRest {u g : Group} (h : u.sameRest g) : u.id = g.id := (congrArg Group.id h :)

theorem Within.refl (grp : Nat) (s : State) : Within grp id s s := ⟨fun g e => ⟨g, e, rfl, g.sameRest_refl⟩, .refl s grp⟩

theorem Within.trans {grp : Nat} {f k : Arch → Arch} {s t u : State} (h : Within grp f s t) (h' : Within grp k t u) :
    Within grp (fun a => k (f a)) s u where
  group g e := by
    obtain ⟨x, hx, hxa, hxr⟩ := h.group g e
    obtain ⟨y, hy, hya, hyr⟩ := h'.group x hx
    exact ⟨y, hy, hya.trans (congrArg k hxa), Group.sameRest_trans hyr hxr⟩
  only := h.only.trans h'.only

/-- An update of a group that leaves all of it but its architected state, its detector and its continuations. -/
theorem State.within_onGroup (s : State) (grp : Nat) {k : Group → Group} {f : Arch → Arch} (ha : ∀ g, (k g).arch = f g.arch)
    (hr : ∀ g, (k g).sameRest g) : Within grp f s (s.onGroup grp k) := by
  have hid : ∀ g, (k g).id = g.id := fun g => Group.id_of_sameRest (hr g)
  refine ⟨fun g e => ⟨k g, ?_, ha g, hr g⟩, rfl, State.onGroup_others s grp k hid, rfl, fun _ _ => rfl⟩
  rw [State.group?_onGroup s grp k hid, e]
  rfl

theorem State.within_onArch (s : State) (grp : Nat) (f : Arch → Arch) : Within grp f s (s.onArch grp f) :=
  s.within_onGroup grp (fun _ => rfl) fun _ => rfl

/-- A state whose groups are as they were. -/
theorem Within.of_groups {grp : Nat} {s t : State} (hg : t.groups = s.groups) (only : OnlyGroup s t grp) : Within grp id s t :=
  ⟨fun g e => ⟨g, (State.group?_congr hg grp).trans e, rfl, g.sameRest_refl⟩, only⟩

theorem State.perfGroup_core (s : State) (g : Group) (n k die site : Nat) :
    ((s.perfGroup g n k).core die site).calm = (s.core die site).calm := by
  unfold State.perfGroup
  split
  · split
    · exact State.perf_core ..
    · rfl
  · rfl

theorem State.within_perfGroup (s : State) (grp : Nat) (g : Group) (n k : Nat) : Within grp id s (s.perfGroup g n k) := by
  refine .of_groups (State.perfGroup_groups s g n k) ⟨?_, by rw [State.perfGroup_groups], by rw [State.perfGroup_teams], s.perfGroup_core g n k⟩
  have hf : { s.perfGroup g n k with groups := s.groups, teams := s.teams, cores := s.cores, free := s.free } = s :=
    State.same_but_counts (by simp)
  exact (congrArg (fun x : State => { x with losses := s.losses }) hf :)

theorem State.within_account (s : State) (h : Here) (i : Instr) (act : Word) : Within h.g.id id s (s.account h i act) where
  group g e := by
    obtain ⟨u, hu, ha, hr⟩ := s.account_group h i act e
    exact ⟨u, hu, ha, (congrArg (fun x : Group => { x with arch := g.arch, detector := g.detector }) hr :)⟩
  only :=
    { rest := (congrArg (fun x : State => { x with losses := s.losses }) (s.account_fields h i act) :)
      others := s.account_others h i act
      teams := s.account_teams h i act
      cores := s.account_core h i act }

theorem State.within_retire (s : State) (h : Here) (i : Instr) (p : Plan) :
    Within h.g.id (fun a => (a.setPath h.slot (some (h.p.advance i.size))).cleansed p.allUses (h.active p.guard)) s (s.retire h i p) :=
  s.within_onGroup h.g.id (fun g => g.issued_arch h i p.allUses (h.active p.guard) s.view) fun _ => rfl

/-! ### Plans with an effect within their group -/

/-- Nothing of the instruction's own keeps it from its effect. -/
structure Plan.Proceeds (p : Plan) (s : State) (h : Here) : Prop where
  stall : p.stall s h = false
  early : p.early s h = none
  late : p.late s h = none
  hold : p.hold s h = none
  loss : p.loss s h = none

/-- An instruction without a guard or a counter, whose effect stays within its group, changes the group as its result says. -/
theorem changesGroup_of_plan {i : Instr} {r : GroupResult} {p : Plan} (f : State → Here → Arch → Arch) (e : ∀ s, exec i s = run i p s)
    (hp : p.guard = 7 ∧ p.uses = r.uses ∧ p.raises = .nothing) (hok : ∀ s h, r.ok s h → p.Proceeds s h)
    (hact : ∀ s h st, Within h.g.id (f s h) st (p.act h st))
    (hf : ∀ s h, f s h (h.behind i r.uses) = r.after s h (h.behind i r.uses)) : ChangesGroup i r := by
  obtain ⟨hguard, huses, hraises⟩ := hp
  have hall : p.allUses = r.uses := by rw [Plan.allUses, hguard, huses]; rfl
  intro s h c ok
  have q := hok s h ok
  have hrun := run_effect (p := p) (by rwa [hall, hraises]) q.stall q.early q.late q.hold q.loss
  have w := ((s.within_retire h i p).trans (hact s h _)).trans (State.within_account _ h i (h.active p.guard))
  obtain ⟨u, hu, ha, hr⟩ := w.group h.g (State.here_group c.here)
  refine ⟨_, u, (e s).trans hrun, hu, ?_, hr, w.only⟩
  rw [ha, ← hf, Here.behind, ← hall, hguard, Here.active_seven]
  rfl

theorem Here.path_behind (h : Here) (i : Instr) (us : List Use) (act : Word) :
    (h.behind i us act).path h.slot = some (h.p.advance i.size) :=
  Arch.path_setPath h.a h.slot _

/-! ### Transfers -/

/-- A header at an address makes it a sound target, whatever the report would name. -/
theorem State.targetFault_eq_none {s : State} {t : Team} {a addr : DWord} {w : Word} (hb : badTarget a = false)
    (hw : s.fetchWord t a.toNat = .ok w) (hh : isHeader w = true) : s.targetFault t a addr = none := by
  simp [State.targetFault, hb, hw, hh]

theorem State.within_spinAt (s : State) (h : Here) (i : Instr) (taken : Bool) (t : DWord) : Within h.g.id id s (s.spinAt h i taken t) := by
  unfold State.spinAt
  split
  · exact .refl _ _
  · exact s.within_onGroup h.g.id (fun _ => rfl) fun _ => rfl

theorem State.within_goto (s : State) (h : Here) (t : DWord) : Within h.g.id (h.onOwn (.jump t)) s (s.goto h.g.id h.slot t) :=
  s.within_onArch h.g.id _

/-- A call pushes its CALL and goes to its target (R270). -/
theorem State.within_call (s : State) (h : Here) (t : DWord) (flags : BitVec 8) (pidx : BitVec 16) (rets : Word) :
    Within h.g.id (fun a => h.onOwn (.jump t) (a.pushCall h.slot h.p.nextClause flags pidx rets)) s (s.call h t flags pidx rets) :=
  (s.within_onArch h.g.id _).trans (State.within_goto _ h t)

/-- A fork gives the group a continuation and leaves its own registers and paths (R277). -/
theorem State.within_fork (s : State) (h : Here) (rets : Word) : Within h.g.id id s (s.fork h rets) := by
  unfold State.fork
  split
  · exact .refl _ _
  · refine Within.trans (f := id) (k := id) (State.within_onGroup s h.g.id ?_ ?_) (State.within_perfGroup _ h.g.id h.g 3 1)
    · exact fun _ => rfl
    · exact fun _ => rfl

theorem State.within_ownUses (s : State) (grp : Nat) (us : List Use) (act : Word) (seen : Reg → Word) :
    Within grp id s (s.ownUses grp us act seen) :=
  s.within_onGroup grp (fun _ => rfl) fun _ => rfl

/-- `bra` reads its condition before the path moves, and goes on or to its target (R260). -/
theorem changesGroup_bra (c : BrCond) (a : SReg) (disp : BitVec 16) (r : GroupResult) (e : transferResult (.bra c a disp) = some r) :
    ChangesGroup (.bra c a disp) r := by
  cases e
  refine changesGroup_of_plan (fun _ h => if c.holds (h.a.getS a.toNat) then h.onOwn (.jump (branchTarget h.p.pc disp)) else id)
    (fun _ => rfl) ⟨rfl, rfl, rfl⟩ ?_ ?_ fun _ _ => rfl
  · intro s h ok
    by_cases hc : c.holds (h.a.getS a.toNat) = true
    · obtain ⟨hfault, hheld⟩ : s.goesTo h (branchTarget h.p.pc disp) := ok hc
      exact ⟨by simpa [hc] using hheld, by simpa [hc] using hfault, rfl, rfl, rfl⟩
    · exact ⟨by simp [hc], by simp [hc], rfl, rfl, rfl⟩
  · intro s h st
    by_cases hc : c.holds (h.a.getS a.toNat) = true
    · simp only [hc, if_true]
      exact (st.within_spinAt h _ true _).trans (State.within_goto _ h _)
    · simp only [hc, if_false, Bool.false_eq_true]
      exact st.within_spinAt h _ false _

theorem changesGroup_of_transferResult (i : Instr) (r : GroupResult) (e : transferResult i = some r) : ChangesGroup i r := by
  cases i with
  | bra c a disp => exact changesGroup_bra c a disp r e
  | braInd a =>
    cases e
    exact changesGroup_of_plan _ (fun _ => rfl) ⟨rfl, rfl, rfl⟩ (fun _ _ ⟨hfault, hheld⟩ => ⟨hheld, hfault, rfl, rfl, rfl⟩)
      (fun _ h st => st.within_goto h (h.a.getX a.toNat)) fun _ _ => rfl
  | call disp =>
    cases e
    exact changesGroup_of_plan _ (fun _ => rfl) ⟨rfl, rfl, rfl⟩ (fun _ _ ⟨⟨hfault, hheld⟩, hpush⟩ => ⟨hheld, hfault, hpush, rfl, rfl⟩)
      (fun _ h st => st.within_call h (branchTarget h.p.pc disp) 0 0 0) fun _ _ => rfl
  | callInd a =>
    cases e
    exact changesGroup_of_plan _ (fun _ => rfl) ⟨rfl, rfl, rfl⟩ (fun _ _ ⟨⟨hfault, hheld⟩, hpush⟩ => ⟨hheld, hfault, hpush, rfl, rfl⟩)
      (fun _ h st => st.within_call h (h.a.getX a.toNat) 0 0 0) fun _ _ => rfl
  | _ => cases e

/-- `call.fk` changes its group as a call does, whether it forks or not (R275). -/
theorem changesGroup_callFk (disp : BitVec 16) (nret : BitVec 3) (r0 r1 r2 r3 : VReg) :
    ChangesGroup (.callFk disp nret r0 r1 r2 r3) (callFkResult disp nret r0 r1 r2 r3) := by
  refine changesGroup_of_plan _ (fun _ => rfl) ⟨rfl, rfl, rfl⟩ ?_ (fun _ h st => ?_) fun _ _ => rfl
  · rintro s h ⟨⟨hfault, hheld⟩, hpush, hdecl⟩
    refine ⟨hheld, hfault, ?_, rfl, rfl⟩
    have hfind : (declaredOf ((encode (.callFk disp nret r0 r1 r2 r3)).getD 1 0)).find? (fun n => decide (8 * h.a.blocks ≤ n)) = none := by
      simpa [List.find?_eq_none] using hdecl
    dsimp only
    rw [hfind]
    exact hpush
  · have hfork : Within h.g.id id st
        (if st.forks h then st.fork h ((encode (.callFk disp nret r0 r1 r2 r3)).getD 1 0) else st) := by
      split
      · exact st.within_fork h _
      · exact .refl _ _
    exact hfork.trans (State.within_call _ h (branchTarget h.p.pc disp) 1 _ _)

/-! ### `brd` -/

theorem Arch.path_pushOther (a : Arch) (slot : Bool) : (a.pushOther slot).path slot = a.path slot := by
  unfold Arch.pushOther
  split
  · cases slot <;> rfl
  · rfl

/-- The change that a `brd` makes (R261). -/
def Here.brd (h : Here) (p : PReg) (neg : Bool) (t r : DWord) (a : Arch) : Arch :=
  if h.taken p neg = 0 then a
  else if h.splits p neg then a.split h.slot (h.taken p neg) (h.falls p neg) h.off t r
  else h.onOwn (.jump t) a

/-- The split of a path that stands behind its `brd`: both children come from the path, and the taken one goes to the target. -/
theorem Here.brd_behind (h : Here) (p : PReg) (neg : Bool) (disp rdisp : BitVec 16) (s : State) {a : Arch} {n : Nat}
    (ha : a.path h.slot = some (h.p.advance n)) :
    h.brd p neg (branchTarget h.p.pc disp) (branchTarget h.p.pc rdisp) a = (brdResult p neg disp rdisp).after s h a := by
  unfold Here.brd Arch.split brdResult
  dsimp only
  rw [Arch.path_pushOther, ha]
  rfl

/-- `brd` goes on, to its target, or splits (R261). -/
theorem changesGroup_brd (p : PReg) (neg : Bool) (disp rdisp : BitVec 16) :
    ChangesGroup (.brd p neg disp rdisp) (brdResult p neg disp rdisp) := by
  refine changesGroup_of_plan (fun _ h => h.brd p neg (branchTarget h.p.pc disp) (branchTarget h.p.pc rdisp))
    (fun _ => rfl) ⟨rfl, rfl, rfl⟩ ?_ ?_ fun s h => h.brd_behind p neg disp rdisp s (h.path_behind ..)
  · rintro s h ⟨htaken, hsplits⟩
    by_cases ht : h.taken p neg = 0
    · have hs : h.splits p neg = false := by simp [Here.splits, ht]
      exact ⟨by simp [ht], by simp [ht], by simp [hs], rfl, rfl⟩
    · obtain ⟨hfault, hheld⟩ : s.goesTo h (branchTarget h.p.pc disp) := htaken ht
      by_cases hs : h.splits p neg = true
      · obtain ⟨⟨w, hw, hhead⟩, hbad, hrheld, hpush⟩ :
            (∃ w, s.fetchWord h.t (branchTarget h.p.pc rdisp).toNat = .ok w ∧ isHeader w = true) ∧ badTarget (branchTarget h.p.pc rdisp) = false ∧
              s.clauseHeld h.t (branchTarget h.p.pc rdisp) = false ∧ h.a.pushFault h.slot = none := hsplits hs
        exact ⟨by simp [hheld, hrheld], by simpa [State.targetFault_eq_none hbad hw hhead] using fun _ => hfault, by simp [hw, hpush], rfl, rfl⟩
      · exact ⟨by simp [hheld, hs], by simpa [hs] using fun _ => hfault, by simp [hs], rfl, rfl⟩
  · intro s h st
    unfold Here.brd
    by_cases ht : h.taken p neg = 0
    · simp only [ht, beq_self_eq_true, if_true]
      exact st.within_spinAt h _ false _
    · by_cases hs : h.splits p neg = true
      · simp only [ht, hs, beq_iff_eq, if_true, if_false]
        refine ((st.within_onGroup h.g.id ?_ ?_).trans (State.within_ownUses _ h.g.id _ 0 _)).trans (State.within_perfGroup _ h.g.id h.g 6 1)
        · exact fun _ => rfl
        · exact fun _ => rfl
      · simp only [ht, hs, beq_iff_eq, if_false, Bool.false_eq_true]
        exact (st.within_spinAt h _ true _).trans (State.within_goto _ h _)

/-! ### The statement -/

/-- Settles O7: each transfer is run by a plan whose effect stays within the group, and that effect is the transfer's result. -/
theorem transfers : Obligations.Transfers := ⟨changesGroup_of_transferResult, changesGroup_brd, changesGroup_callFk⟩

end Sys2Proof.Machine
end

section
/-!
SUPPORT. The round trip of encoding and decoding (R68-R96): the fields of packed words, the codes of enumerated fields, the checks that
a well-formed instruction passes, and each form of instruction word.
-/
namespace Sys2Proof

/-! ### Fields of packed words -/

theorem fld_append_low {v w : Nat} (x : BitVec v) (y : BitVec w) {lo n : Nat} (h : lo + n ≤ w) : fld (x ++ y) lo n = fld y lo n := by
  apply BitVec.eq_of_getLsbD_eq
  intro i hi
  simp only [fld, BitVec.getLsbD_extractLsb', BitVec.getLsbD_append]
  rw [if_pos (by omega)]

theorem fld_append_high {v w : Nat} (x : BitVec v) (y : BitVec w) {lo n : Nat} (h : w ≤ lo) : fld (x ++ y) lo n = fld x (lo - w) n := by
  apply BitVec.eq_of_getLsbD_eq
  intro i hi
  simp only [fld, BitVec.getLsbD_extractLsb', BitVec.getLsbD_append]
  rw [if_neg (by omega), Nat.sub_add_comm h]

theorem fld_all {w : Nat} (x : BitVec w) : fld x 0 w = x := by
  apply BitVec.eq_of_getLsbD_eq
  intro i hi
  simp [fld, hi]

/-- The lane form (R70). -/
@[simp] theorem fld_packLR (opc : BitVec 7) (g : BitVec 3) (d a b : BitVec 7) :
    fld (packLR opc g d a b) 31 1 = 0 ∧ fld (packLR opc g d a b) 24 7 = opc ∧ fld (packLR opc g d a b) 21 3 = g ∧
      fld (packLR opc g d a b) 14 7 = d ∧ fld (packLR opc g d a b) 7 7 = a ∧ fld (packLR opc g d a b) 0 7 = b := by
  refine ⟨?_, ?_, ?_, ?_, ?_, ?_⟩ <;>
    (change fld (w := 1 + 7 + 3 + 7 + 7 + 7) (0#1 ++ opc ++ g ++ d ++ a ++ b) _ _ = _
     simp (disch := decide) only [fld_append_high, fld_append_low, fld_all, Nat.reduceSub, BitVec.ofNat_eq_ofNat])

/-- Order, scope and space (R74). -/
@[simp] theorem fld_packLM (o : BitVec 2) (sc : BitVec 3) (sp : BitVec 2) :
    fld (packLM o sc sp) 5 2 = o ∧ fld (packLM o sc sp) 2 3 = sc ∧ fld (packLM o sc sp) 0 2 = sp := by
  refine ⟨?_, ?_, ?_⟩ <;>
    (change fld (w := 2 + 3 + 2) (o ++ sc ++ sp) _ _ = _
     simp (disch := decide) only [fld_append_high, fld_append_low, fld_all, Nat.reduceSub])

/-- A compare's condition and destination (R71). -/
@[simp] theorem fld_packCP (c : BitVec 4) (p : BitVec 3) :
    fld (packCP c p) 3 4 = c ∧ fld (packCP c p) 0 3 = p ∧ fld (packCP c p) 4 3 = fld c 1 3 ∧ fld (packCP c p) 3 1 = fld c 0 1 := by
  refine ⟨?_, ?_, ?_, ?_⟩ <;>
    (change fld (w := 4 + 3) (c ++ p) _ _ = _
     simp (disch := decide) only [fld_append_high, fld_append_low, fld_all, Nat.reduceSub])

/-- The extension word of the lane form (R76). -/
@[simp] theorem fld_packLX (c : BitVec 7) (x : BitVec 8) (t : BitVec 4) (r : BitVec 3) (m : BitVec 10) :
    fld (packLX c x t r m) 25 7 = c ∧ fld (packLX c x t r m) 17 8 = x ∧ fld (packLX c x t r m) 13 4 = t ∧
      fld (packLX c x t r m) 10 3 = r ∧ fld (packLX c x t r m) 0 10 = m := by
  refine ⟨?_, ?_, ?_, ?_, ?_⟩ <;>
    (change fld (w := 7 + 8 + 4 + 3 + 10) (c ++ x ++ t ++ r ++ m) _ _ = _
     simp (disch := decide) only [fld_append_high, fld_append_low, fld_all, Nat.reduceSub])

/-- The modifiers of an arithmetic operation (R78). -/
@[simp] theorem fld_packArith (sat na nb nc : Bool) :
    fld (packArith sat na nb nc) 9 1 = BitVec.ofBool sat ∧ fld (packArith sat na nb nc) 8 1 = BitVec.ofBool na ∧
      fld (packArith sat na nb nc) 7 1 = BitVec.ofBool nb ∧ fld (packArith sat na nb nc) 6 1 = BitVec.ofBool nc ∧
      fld (packArith sat na nb nc) 0 6 = 0 := by
  refine ⟨?_, ?_, ?_, ?_, ?_⟩ <;>
    (change fld (w := 1 + 1 + 1 + 1 + 6) (BitVec.ofBool sat ++ BitVec.ofBool na ++ BitVec.ofBool nb ++ BitVec.ofBool nc ++ 0#6) _ _ = _
     simp (disch := decide) only [fld_append_high, fld_append_low, fld_all, Nat.reduceSub, BitVec.ofNat_eq_ofNat])

/-- The modifiers of a conversion (R78). -/
@[simp] theorem fld_packCvt (sat hi : Bool) (st : BitVec 4) :
    fld (packCvt sat hi st) 9 1 = BitVec.ofBool sat ∧ fld (packCvt sat hi st) 5 4 = 0 ∧
      fld (packCvt sat hi st) 4 1 = BitVec.ofBool hi ∧ fld (packCvt sat hi st) 0 4 = st := by
  refine ⟨?_, ?_, ?_, ?_⟩ <;>
    (change fld (w := 1 + 4 + 1 + 4) (BitVec.ofBool sat ++ 0#4 ++ BitVec.ofBool hi ++ st) _ _ = _
     simp (disch := decide) only [fld_append_high, fld_append_low, fld_all, Nat.reduceSub, BitVec.ofNat_eq_ofNat])

/-- The modifiers of an atomic (R78). -/
@[simp] theorem fld_packAtomic (o : BitVec 2) (sc : BitVec 3) (sp : BitVec 2) (ret : Bool) :
    fld (packAtomic o sc sp ret) 8 2 = o ∧ fld (packAtomic o sc sp ret) 5 3 = sc ∧ fld (packAtomic o sc sp ret) 3 2 = sp ∧
      fld (packAtomic o sc sp ret) 2 1 = BitVec.ofBool ret ∧ fld (packAtomic o sc sp ret) 0 2 = 0 := by
  refine ⟨?_, ?_, ?_, ?_, ?_⟩ <;>
    (change fld (w := 2 + 3 + 2 + 1 + 2) (o ++ sc ++ sp ++ BitVec.ofBool ret ++ 0#2) _ _ = _
     simp (disch := decide) only [fld_append_high, fld_append_low, fld_all, Nat.reduceSub, BitVec.ofNat_eq_ofNat])

/-- The uniform register form (R79). -/
@[simp] theorem fld_packUR (opc d a b : BitVec 6) (sub : BitVec 7) :
    fld (packUR opc d a b sub) 31 1 = 1 ∧ fld (packUR opc d a b sub) 25 6 = opc ∧ fld (packUR opc d a b sub) 19 6 = d ∧
      fld (packUR opc d a b sub) 13 6 = a ∧ fld (packUR opc d a b sub) 7 6 = b ∧ fld (packUR opc d a b sub) 0 7 = sub := by
  refine ⟨?_, ?_, ?_, ?_, ?_, ?_⟩ <;>
    (change fld (w := 1 + 6 + 6 + 6 + 6 + 7) (1#1 ++ opc ++ d ++ a ++ b ++ sub) _ _ = _
     simp (disch := decide) only [fld_append_high, fld_append_low, fld_all, Nat.reduceSub, BitVec.ofNat_eq_ofNat])

/-- SUB of the uniform arithmetic opcodes (R79). -/
@[simp] theorem fld_packSub (lit w : Bool) (c : BitVec 4) :
    fld (packSub lit w c) 6 1 = BitVec.ofBool lit ∧ fld (packSub lit w c) 5 1 = BitVec.ofBool w ∧ fld (packSub lit w c) 4 1 = 0 ∧
      fld (packSub lit w c) 0 4 = c := by
  refine ⟨?_, ?_, ?_, ?_⟩ <;>
    (change fld (w := 1 + 1 + 1 + 4) (BitVec.ofBool lit ++ BitVec.ofBool w ++ 0#1 ++ c) _ _ = _
     simp (disch := decide) only [fld_append_high, fld_append_low, fld_all, Nat.reduceSub, BitVec.ofNat_eq_ofNat])

/-- A SUB field with an operation and an operand (R94). -/
@[simp] theorem fld_packOp (op : BitVec 3) (x : BitVec 4) :
    fld (packOp op x) 4 3 = op ∧ fld (packOp op x) 0 4 = x ∧ fld (packOp op x) 2 2 = fld x 2 2 ∧ fld (packOp op x) 0 2 = fld x 0 2 := by
  refine ⟨?_, ?_, ?_, ?_⟩ <;>
    (change fld (w := 3 + 4) (op ++ x) _ _ = _
     simp (disch := decide) only [fld_append_high, fld_append_low, fld_all, Nat.reduceSub])

/-- The extension word of the uniform form (R80). -/
@[simp] theorem fld_packUX (c : BitVec 6) (x : BitVec 8) (t : BitVec 4) (r : BitVec 3) (m : BitVec 10) :
    fld (packUX c x t r m) 26 6 = c ∧ fld (packUX c x t r m) 18 8 = x ∧ fld (packUX c x t r m) 14 4 = t ∧
      fld (packUX c x t r m) 11 3 = r ∧ fld (packUX c x t r m) 10 1 = 0 ∧ fld (packUX c x t r m) 0 10 = m := by
  refine ⟨?_, ?_, ?_, ?_, ?_, ?_⟩ <;>
    (change fld (w := 6 + 8 + 4 + 3 + 1 + 10) (c ++ x ++ t ++ r ++ 0#1 ++ m) _ _ = _
     simp (disch := decide) only [fld_append_high, fld_append_low, fld_all, Nat.reduceSub, BitVec.ofNat_eq_ofNat])

/-- The branch form (R81). -/
@[simp] theorem fld_packUB (opc : BitVec 6) (bc : BitVec 3) (a : BitVec 6) (disp : BitVec 16) :
    fld (packUB opc bc a disp) 31 1 = 1 ∧ fld (packUB opc bc a disp) 25 6 = opc ∧ fld (packUB opc bc a disp) 22 3 = bc ∧
      fld (packUB opc bc a disp) 16 6 = a ∧ fld (packUB opc bc a disp) 0 16 = disp := by
  refine ⟨?_, ?_, ?_, ?_, ?_⟩ <;>
    (change fld (w := 1 + 6 + 3 + 6 + 16) (1#1 ++ opc ++ bc ++ a ++ disp) _ _ = _
     simp (disch := decide) only [fld_append_high, fld_append_low, fld_all, Nat.reduceSub, BitVec.ofNat_eq_ofNat])

/-- The first word of `brd` (R82). -/
@[simp] theorem fld_packUD (p : BitVec 3) (neg : Bool) (disp : BitVec 16) :
    fld (packUD p neg disp) 31 1 = 1 ∧ fld (packUD p neg disp) 25 6 = 0x21 ∧ fld (packUD p neg disp) 22 3 = p ∧
      fld (packUD p neg disp) 21 1 = BitVec.ofBool neg ∧ fld (packUD p neg disp) 16 5 = 0 ∧ fld (packUD p neg disp) 0 16 = disp := by
  refine ⟨?_, ?_, ?_, ?_, ?_, ?_⟩ <;>
    (change fld (w := 1 + 6 + 3 + 1 + 5 + 16) (1#1 ++ 0x21#6 ++ p ++ BitVec.ofBool neg ++ 0#5 ++ disp) _ _ = _
     simp (disch := decide) only [fld_append_high, fld_append_low, fld_all, Nat.reduceSub, BitVec.ofNat_eq_ofNat])

/-- The second word of `call.fk` (R83). -/
@[simp] theorem fld_packUF (n : BitVec 3) (r3 r2 r1 r0 : BitVec 7) :
    fld (packUF n r3 r2 r1 r0) 31 1 = 0 ∧ fld (packUF n r3 r2 r1 r0) 28 3 = n ∧ fld (packUF n r3 r2 r1 r0) 21 7 = r3 ∧
      fld (packUF n r3 r2 r1 r0) 14 7 = r2 ∧ fld (packUF n r3 r2 r1 r0) 7 7 = r1 ∧ fld (packUF n r3 r2 r1 r0) 0 7 = r0 := by
  refine ⟨?_, ?_, ?_, ?_, ?_, ?_⟩ <;>
    (change fld (w := 1 + 3 + 7 + 7 + 7 + 7) (0#1 ++ n ++ r3 ++ r2 ++ r1 ++ r0) _ _ = _
     simp (disch := decide) only [fld_append_high, fld_append_low, fld_all, Nat.reduceSub, BitVec.ofNat_eq_ofNat])

/-! ### Codes -/

@[simp] theorem Cond.ofCode_code (c : Cond) : Cond.ofCode c.code = some c := by cases c <;> rfl
@[simp] theorem Ty.ofCode_code (t : Ty) : Ty.ofCode t.code = t := by cases t <;> rfl
@[simp] theorem Rnd.ofCode_code (r : Rnd) : Rnd.ofCode r.code = some r := by cases r <;> rfl
@[simp] theorem MemOrder.ofCode_code (o : MemOrder) : MemOrder.ofCode o.code = o := by cases o <;> rfl
@[simp] theorem Scope.ofCode_code (sc : Scope) : Scope.ofCode sc.code = sc := by cases sc <;> rfl
@[simp] theorem Space.ofCode_code (sp : Space) : Space.ofCode sp.code = some sp := by cases sp <;> rfl
@[simp] theorem BrCond.ofCode_code (c : BrCond) : BrCond.ofCode c.code = some c := by cases c <;> rfl
@[simp] theorem WatchSpace.ofCode_code (sp : WatchSpace) : WatchSpace.ofCode sp.code = some sp := by cases sp <;> rfl
@[simp] theorem CollTy.ofCode_code (t : CollTy) : CollTy.ofCode t.code = some t := by cases t <;> rfl
@[simp] theorem LitOp.ofCode_code (op : LitOp) : LitOp.ofCode op.code = some op := by cases op <;> rfl
@[simp] theorem LitFOp.ofCode_code (op : LitFOp) : LitFOp.ofCode op.code = some op := by cases op <;> rfl
@[simp] theorem UOp.ofCode_code (op : UOp) : UOp.ofCode op.code = some op := by cases op <;> rfl
@[simp] theorem XOp.ofCode_code (op : XOp) : XOp.ofCode op.code = some op := by cases op <;> rfl
@[simp] theorem rndOf_code (r : Rnd) : rndOf r.code = r := by simp [rndOf]

@[simp] theorem ofBool_beq_one (b : Bool) : (BitVec.ofBool b == 1#1) = b := by cases b <;> rfl

@[simp] theorem arithMod_packArith (sat na nb nc : Bool) : arithMod (packArith sat na nb nc) = laneMod sat na nb nc := by
  simp [arithMod, laneMod]

@[simp] theorem cvtMod_packCvt (sat hi : Bool) (st : Ty) : cvtMod (packCvt sat hi st.code) = ⟨sat, false, false, false, hi, st⟩ := by
  simp [cvtMod]

/-! ### Checks that pass -/

/-- No check of a list fails. -/
def Check.allPass (cs : List Check) : Bool := cs.all fun c => !c.bad

@[simp] theorem Check.allPass_nil : Check.allPass [] = true := rfl
@[simp] theorem Check.allPass_cons (c : Check) (cs : List Check) : Check.allPass (c :: cs) = (!c.bad && Check.allPass cs) := rfl
@[simp] theorem Check.allPass_append (cs ds : List Check) : Check.allPass (cs ++ ds) = (Check.allPass cs && Check.allPass ds) :=
  List.all_append

@[simp] theorem rsv_bad (b : Bool) (k : Nat) : (rsv b k).bad = b := rfl
@[simp] theorem ill_bad (b : Bool) (k : Nat) : (ill b k).bad = b := rfl
@[simp] theorem zeroChk_bad {n : Nat} (r : BitVec n) (k : Nat) : (zeroChk r k).bad = (r != 0) := rfl
@[simp] theorem evenChk_bad {n : Nat} (w : Bool) (r : BitVec n) (k : Nat) : (evenChk w r k).bad = !pairOk w r := rfl
@[simp] theorem pairOk_zero {n : Nat} (w : Bool) : pairOk w (0#n) = true := by simp [pairOk]
@[simp] theorem pairOk_false {n : Nat} (r : BitVec n) : pairOk false r = true := rfl

/-- Words of which every check passes, all of them in the clause, decode to the instruction. -/
theorem settle_ok {avail size : Nat} {cs : List Check} {i j : Instr} (hi : i = j) (hc : Check.allPass cs = true) (hs : size ≤ avail) :
    settle avail size cs i = .ok j := by
  have hnil : (cs.filter fun c => c.bad && decide (c.word < avail)) = [] := by
    rw [List.filter_eq_nil_iff]
    intro c hm
    have := List.all_eq_true.mp hc c hm
    simp_all
  rw [← hi]
  simp only [settle, hnil]
  simp [Nat.not_lt.mpr hs]

/-! ### Lane words -/

/-- A lane word decodes by its opcode (R70). -/
theorem decodeWords_packLR (opc : BitVec 7) (g : BitVec 3) (d a b : BitVec 7) (rest : List Word) :
    decodeWords (packLR opc g d a b :: rest) = decodeLane (rest.length + 1) (packLR opc g d a b) (rest.headD 0) := by
  simp [decodeWords, decode]

/-- A lane word with an extension word (R76). -/
theorem decodeWords_encLX (g : Guard) (d a b c : VReg) (x : BitVec 8) (t : Ty) (r : Rnd) (m : BitVec 10) (rest : List Word) :
    decodeWords (encLX g d a b c x t r m ++ rest) = decodeLX (rest.length + 2) g d a b (packLX c x t.code r.code m) := by
  refine (decodeWords_packLR ..).trans ?_
  obtain ⟨-, hopc, hg, hd, ha, hb⟩ := fld_packLR 0x7F g d a b
  rw [decodeLane, hopc]
  change decodeLX _ (fld _ 21 3) (fld _ 14 7) (fld _ 7 7) (fld _ 0 7) _ = _
  rw [hg, hd, ha, hb]
  rfl

/-- What R91 asks of the fields of an arithmetic operation besides its type, rounding and modifiers. -/
def XOp.lanePairs (op : XOp) (d a b c : VReg) (t : Ty) : Bool :=
  pairOk t.is64 d && pairOk t.is64 a && (if op.spec.b then pairOk (t.is64 && !op.isShift) b else b == 0)
    && (if op == .sel then c.toNat ≤ 7 else if op.spec.c then pairOk t.is64 c else c == 0)

/-- An arithmetic operation in the lane form (R91). -/
theorem decodeLX_arith {op : XOp} {g : Guard} {d a b c : VReg} {t : Ty} {rnd : Rnd} {sat na nb nc : Bool} {i : Instr} (n : Nat)
    (hop : op ≠ .cvt) (hi : op.lane g d a b c t rnd (laneMod sat na nb nc) = i)
    (hacc : op.accepts t rnd (laneMod sat na nb nc) = true) (hp : op.lanePairs d a b c t = true) :
    decodeLX (n + 2) g d a b (packLX c op.code t.code rnd.code (packArith sat na nb nc)) = .ok i := by
  unfold decodeLX
  simp only [fld_packLX, XOp.ofCode_code, Ty.ofCode_code, rndOf_code, arithMod_packArith]
  rw [if_neg (by omega)]
  refine settle_ok hi ?_ (by omega)
  simp only [XOp.accepts, laneMod, Bool.and_eq_true] at hacc
  simp only [XOp.lanePairs, Bool.and_eq_true] at hp
  obtain ⟨⟨⟨⟨⟨⟨⟨ht, hr⟩, hsat⟩, hna⟩, hnb⟩, hnc⟩, -⟩, -⟩ := hacc
  obtain ⟨⟨⟨hd, ha⟩, hb⟩, hc⟩ := hp
  have hb' : (if op.spec.b then evenChk (t.is64 && !op.isShift) b else zeroChk b).bad = false := by
    split at hb <;> simp_all
  have hc' : (if op == .sel then rsv (7 < c.toNat) 1 else if op.spec.c then evenChk t.is64 c 1 else zeroChk c 1).bad = false := by
    split at hc
    · simp_all
    · split at hc <;> simp_all
  have hm : ((sat && !op.spec.sat) || (na && !op.spec.na) || (nb && !op.spec.nb) || (nc && !op.spec.nc)) = false := by
    cases sat <;> cases na <;> cases nb <;> cases nc <;> simp_all
  simp only [Check.allPass_append, Check.allPass_cons, Check.allPass_nil, hb', hc', arithChecks, arithMod_packArith, laneMod, ill_bad, rsv_bad,
    evenChk_bad, ht, hd, ha, hm, Rnd.ofCode_code, Option.any_some, hr, fld_packArith]
  decide

/-! ### Uniform words -/

/-- The uniform arithmetic opcodes (R79). -/
theorem decodeWords_packUR_arith (opc d a b : BitVec 6) (sub : BitVec 7) (rest : List Word) (h : opc.toNat < 0x20) :
    decodeWords (packUR opc d a b sub :: rest) = decodeUR (rest.length + 1) opc d a b sub (rest.headD 0) := by
  obtain ⟨hset, hopc, hd, ha, hb, hsub⟩ := fld_packUR opc d a b sub
  change decode _ _ _ _ = _
  rw [decode, hset, if_neg (by decide), decodeUniform, hopc, hd, ha, hb, hsub]
  split <;> first | omega | exact if_pos h

/-- The uniform opcodes 0x24-0x3D (R94). -/
theorem decodeWords_packUR_misc (opc d a b : BitVec 6) (sub : BitVec 7) (rest : List Word) (h : 0x24 ≤ opc.toNat) (h' : opc.toNat < 0x3E) :
    decodeWords (packUR opc d a b sub :: rest) = decodeUM (rest.length + 1) opc d a b sub (rest.headD 0) := by
  obtain ⟨hset, hopc, hd, ha, hb, hsub⟩ := fld_packUR opc d a b sub
  change decode _ _ _ _ = _
  rw [decode, hset, if_neg (by decide), decodeUniform, hopc, hd, ha, hb, hsub]
  split <;> first | omega | exact if_neg (by omega)

/-- The extended uniform form (R80). -/
theorem decodeWords_packUR_extended (d a b : BitVec 6) (sub : BitVec 7) (w1 : Word) (rest : List Word) :
    decodeWords (packUR 0x3E d a b sub :: w1 :: rest) = decodeUX (rest.length + 2) d a b sub w1 (rest.headD 0) := by
  obtain ⟨hset, hopc, hd, ha, hb, hsub⟩ := fld_packUR 0x3E d a b sub
  change decode _ _ _ _ = _
  rw [decode, hset, if_neg (by decide), decodeUniform, hopc, hd, ha, hb, hsub]
  rfl

/-- A branch word (R81). -/
theorem decodeWords_packUB (opc : BitVec 6) (bc : BitVec 3) (a : BitVec 6) (disp : BitVec 16) (rest : List Word) :
    decodeWords (packUB opc bc a disp :: rest) =
      decodeUniform (rest.length + 1) (packUB opc bc a disp) (rest.headD 0) (rest.tail.headD 0) := by
  change decode _ _ _ _ = _
  rw [decode, (fld_packUB ..).1, if_neg (by decide)]
  rfl

theorem UOp.code_lt (op : UOp) : op.code.toNat < 0x20 ∧ op.code.toNat ≠ 0x11 ∧ op.code.toNat ≠ 0x12 ∧ op.code.toNat ≠ 0x13 := by
  cases op <;> decide

/-- What the two forms of a uniform operation ask of W64, the condition and the destination (R79). -/
def UOp.commonOk (op : UOp) (d : SReg) (w : Bool) (c : Cond) : Bool :=
  (!op.isFloat || !w) && (op.isCompare || c == .eq) && condOk op.isFloat c && (op.isCompare || pairOk w d)

theorem UOp.allPass_common {op : UOp} {d : SReg} {w : Bool} {c : Cond} (lit : Bool) (h : op.commonOk d w c = true) :
    Check.allPass [zeroChk (fld (packSub lit w c.code) 4 1), rsv (op.isFloat && w),
      rsv (if op.isCompare then !(Cond.ofCode c.code).any (condOk op.isFloat) else c.code != 0), evenChk (w && !op.isCompare) d] = true := by
  simp only [UOp.commonOk, Bool.and_eq_true] at h
  obtain ⟨⟨⟨hf, hc⟩, hcond⟩, hd⟩ := h
  cases hcmp : op.isCompare
  · obtain rfl : c = .eq := by simpa [hcmp] using hc
    cases hfl : op.isFloat <;> simp_all [Cond.code]
  · cases hfl : op.isFloat <;> simp_all

/-- A uniform operation in register form (R79, R93). -/
theorem decodeWords_uniBinary {op : UOp} {d a b : SReg} {w : Bool} {c : Cond} {i : Instr} (rest : List Word) (hi : op.binary d a b w c = i)
    (hc : op.commonOk d w c = true) (ha : pairOk w a = true) (hb : if op = .mov then b = 0 else pairOk w b = true) :
    decodeWords (packUR op.code d a b (packSub false w c.code) :: rest) = .ok i := by
  obtain ⟨hlt, h11, h12, h13⟩ := op.code_lt
  rw [decodeWords_packUR_arith _ _ _ _ _ _ hlt, decodeUR]
  split
  · exact absurd ‹_› h11
  · exact absurd ‹_› h12
  · exact absurd ‹_› h13
  · simp only [UOp.ofCode_code]
    rw [if_neg (by simp)]
    refine settle_ok (by simpa using hi) ?_ (by simp)
    rw [Check.allPass_append, Bool.and_eq_true]
    have := UOp.allPass_common false hc
    refine ⟨by simpa using this, ?_⟩
    split at hb <;> simp_all

/-- A uniform operation in literal form (R79, R93). -/
theorem decodeWords_uniLiteral {op : UOp} {d a : SReg} {w : Bool} {c : Cond} (lit : Word) (rest : List Word)
    (h : ulWf op d a w c = true) :
    decodeWords (packUR op.code d a 0 (packSub true w c.code) :: lit :: rest) = .ok (.uniformLiteralForm op d a w c lit) := by
  obtain ⟨hlt, h11, h12, h13⟩ := op.code_lt
  rw [decodeWords_packUR_arith _ _ _ _ _ _ hlt, decodeUR]
  split
  · exact absurd ‹_› h11
  · exact absurd ‹_› h12
  · exact absurd ‹_› h13
  · simp only [UOp.ofCode_code]
    rw [if_pos (by simp)]
    refine settle_ok (by simp) ?_ (by simp)
    rw [Check.allPass_append, Bool.and_eq_true]
    obtain ⟨hc, ha⟩ : op.commonOk d w c = true ∧ (if op == .mov then a == 0 else pairOk w a) = true := by
      simpa [ulWf, UOp.commonOk, and_assoc] using h
    have := UOp.allPass_common true hc
    refine ⟨by simpa using this, ?_⟩
    split at ha <;> simp_all

theorem XOp.accepts_iff {op : XOp} {t : Ty} {rnd : Rnd} {m : XMod} : op.accepts t rnd m = true ↔
    t ∈ op.spec.tys ∧ rnd ∈ op.spec.rnds ∧ ((m.sat && !op.spec.sat) || (m.na && !op.spec.na) || (m.nb && !op.spec.nb) || (m.nc && !op.spec.nc)) = false ∧
      m.hi = false ∧ m.st = .i8 := by
  obtain ⟨sat, na, nb, nc, hi, st⟩ := m
  cases sat <;> cases na <;> cases nb <;> cases nc <;> simp [XOp.accepts, and_assoc]

/-- The checks of an arithmetic operation pass where R91 accepts its fields. -/
theorem allPass_arithChecks {op : XOp} {t : Ty} {rnd : Rnd} {m : XMod} (h : op.accepts t rnd m = true) :
    Check.allPass (arithChecks op t rnd.code (packArith m.sat m.na m.nb m.nc)) = true ∧ arithMod (packArith m.sat m.na m.nb m.nc) = m := by
  obtain ⟨ht, hr, hm, hhi, hst⟩ := XOp.accepts_iff.mp h
  obtain ⟨sat, na, nb, nc, hi, st⟩ := m
  obtain rfl : hi = false := hhi
  obtain rfl : st = .i8 := hst
  refine ⟨?_, by simp [laneMod]⟩
  simp only [arithChecks, Check.allPass_cons, Check.allPass_nil, ill_bad, rsv_bad, arithMod_packArith, laneMod, hm]
  simp [ht, hr]

/-- The checks of a conversion pass where R176 accepts its fields. -/
theorem allPass_cvtChecks {t st : Ty} {rnd : Rnd} {sat hi : Bool} (ht : cvtTys t st = true) (hr : (cvtRnds t st).contains rnd = true)
    (hm : cvtMods t st sat hi = true) : Check.allPass (cvtChecks t rnd.code (packCvt sat hi st.code)) = true := by
  simp only [List.contains_iff_mem] at hr
  simp [cvtChecks, ht, hr, hm]

/-- SUB of the extended uniform form: whether a literal follows (R80). -/
theorem fld_litFlag (l : Bool) : fld (w := 7) (BitVec.ofBool l ++ 0#6) 6 1 = BitVec.ofBool l ∧ fld (w := 7) (BitVec.ofBool l ++ 0#6) 0 6 = 0 := by
  cases l <;> decide

/-- An arithmetic operation in the extended uniform form (R80, R91, R194). -/
theorem decodeUX_arith {op : XOp} {d a b c : SReg} {t : Ty} {rnd : Rnd} {m : XMod} {lit : Option Word} (rest : List Word) (hop : op ≠ .cvt)
    (h : uxWf op d a b c t rnd m lit = true) :
    decodeUX ((lit.toList ++ rest).length + 2) d a b (BitVec.ofBool lit.isSome ++ 0#6)
      (packUX c op.code t.code rnd.code (packArith m.sat m.na m.nb m.nc)) ((lit.toList ++ rest).headD 0) =
        .ok (.uniformExtended op d a b c t rnd m lit) := by
  obtain ⟨hflag, hlow⟩ := fld_litFlag lit.isSome
  have hw : op.accepts t rnd m && pairOk t.is64 d && pairOk t.is64 a
      && (if op.spec.b && lit == none then pairOk t.is64 b else b == 0)
      && (if op.spec.c then op == .sel || pairOk t.is64 c else c == 0) && (op.spec.b || lit == none) := by
    unfold uxWf at h
    split at h
    · exact absurd rfl hop
    · exact h
  simp only [Bool.and_eq_true] at hw
  obtain ⟨⟨⟨⟨⟨hacc, hd⟩, ha⟩, hb⟩, hc⟩, hl⟩ := hw
  obtain ⟨hchecks, hmod⟩ := allPass_arithChecks hacc
  unfold decodeUX
  simp only [fld_packUX, XOp.ofCode_code, Ty.ofCode_code, rndOf_code, hmod, hflag, hlow]
  rw [if_neg (by omega)]
  have hb' : (if op.spec.b && !lit.isSome then evenChk t.is64 b else zeroChk b).bad = false := by
    cases lit <;> split at hb <;> simp_all
  have hc' : (if op.spec.c then evenChk (t.is64 && op != .sel) c 1 else zeroChk c 1).bad = false := by
    split at hc
    · simp only [Bool.or_eq_true, beq_iff_eq] at hc
      obtain rfl | hc := hc
      · simp_all
      · cases hs : op != .sel <;> simp_all
    · simp_all
  have hl' : (lit.isSome && !op.spec.b) = false := by cases lit <;> simp_all
  refine settle_ok ?_ ?_ ?_
  · cases lit <;> simp
  · simpa [hchecks, hd, ha, hc', hl'] using hb'
  · cases lit <;> simp

/-- A conversion in the extended uniform form (R80, R176, R194). -/
theorem decodeUX_cvt {d a b c : SReg} {t : Ty} {rnd : Rnd} {m : XMod} {lit : Option Word} (rest : List Word)
    (h : uxWf .cvt d a b c t rnd m lit = true) :
    decodeUX ((lit.toList ++ rest).length + 2) d a b (BitVec.ofBool lit.isSome ++ 0#6)
      (packUX c (XOp.code .cvt) t.code rnd.code (packCvt m.sat m.hi m.st.code)) ((lit.toList ++ rest).headD 0) =
        .ok (.uniformExtended .cvt d a b c t rnd m lit) := by
  obtain ⟨hflag, hlow⟩ := fld_litFlag lit.isSome
  obtain ⟨sat, na, nb, nc, hi, st⟩ := m
  simp only [uxWf, Bool.and_eq_true, Bool.not_eq_true', beq_iff_eq] at h
  obtain ⟨⟨⟨⟨⟨⟨⟨⟨⟨⟨ht, hr⟩, hm⟩, rfl⟩, rfl⟩, rfl⟩, hd⟩, ha⟩, rfl⟩, rfl⟩, rfl⟩ := h
  have hchecks := allPass_cvtChecks ht hr hm
  unfold decodeUX
  simp only [fld_packUX, XOp.ofCode_code, Ty.ofCode_code, rndOf_code, cvtMod_packCvt, hflag, hlow]
  rw [if_neg (by omega)]
  exact settle_ok rfl (by simp [hchecks, hd, ha]) (by simp)

/-- The extended uniform form (R80, R194). -/
theorem decodeWords_uniExtended {op : XOp} {d a b c : SReg} {t : Ty} {rnd : Rnd} {m : XMod} {lit : Option Word} (rest : List Word)
    (h : uxWf op d a b c t rnd m lit = true) :
    decodeWords (encode (.uniformExtended op d a b c t rnd m lit) ++ rest) = .ok (.uniformExtended op d a b c t rnd m lit) := by
  have hw : encode (.uniformExtended op d a b c t rnd m lit) ++ rest =
      packUR 0x3E d a b (BitVec.ofBool lit.isSome ++ 0#6) ::
        packUX c op.code t.code rnd.code (if op == .cvt then packCvt m.sat m.hi m.st.code else packArith m.sat m.na m.nb m.nc) ::
          (lit.toList ++ rest) := rfl
  rw [hw, decodeWords_packUR_extended]
  by_cases hop : op = .cvt
  · subst hop
    exact decodeUX_cvt rest h
  · rw [if_neg (by simpa using hop)]
    exact decodeUX_arith rest hop h

/-- A branch word's opcode decides its decoding (R81). -/
theorem decodeWords_branch {opc : BitVec 6} {bc : BitVec 3} {a : BitVec 6} {disp : BitVec 16} {rest : List Word}
    {r : Except DecodeError Instr} (h : decodeUniform (rest.length + 1) (packUB opc bc a disp) (rest.headD 0) (rest.tail.headD 0) = r) :
    decodeWords (packUB opc bc a disp :: rest) = r := (decodeWords_packUB ..).trans h

/-- MOD of a packing conversion holds the source type alone (R180). -/
theorem fld_packCvt_packs : fld (packCvt false false Ty.f32.code) 4 6 = 0 := by decide

/-- The second word of `brd` (R82). -/
@[simp] theorem fld_rdisp (r : BitVec 16) : fld (w := 32) (0#16 ++ r) 0 16 = r ∧ fld (w := 32) (0#16 ++ r) 16 16 = 0 := by
  refine ⟨?_, ?_⟩ <;>
    (change fld (w := 16 + 16) (0#16 ++ r) _ _ = _
     simp (disch := decide) only [fld_append_high, fld_append_low, fld_all, Nat.reduceSub, BitVec.ofNat_eq_ofNat])

/-- Fields of the constant SUB fields (R94). -/
@[simp] theorem fld_constants : fld (0#4) 1 3 = 0 ∧ fld (0#4) 0 1 = 0 ∧ fld (2#4) 1 3 = 1 ∧ fld (2#4) 0 1 = 0 ∧ fld (0#7) 0 6 = 0 ∧
    fld (64#7) 0 6 = 0 ∧ fld (0#2) 0 1 = 0 ∧ fld (0#2) 1 1 = 0 ∧ fld (2#2) 0 1 = 0 ∧ fld (2#2) 1 1 = 1 := by decide

/-- A predicate number in a register field (R71). -/
@[simp] theorem fld_p7 (p : PReg) : fld (p7 p) 4 3 = 0 ∧ fld (p7 p) 3 4 = 0 ∧ fld (p7 p) 3 1 = 0 ∧ fld (p7 p) 0 3 = p := by
  simp [p7]

/-- `blk.give` and `blk.take` (R94). -/
@[simp] theorem fld_blocks (op : BitVec 2) (n : BitVec 5) : fld (w := 7) (op ++ n) 6 1 = fld op 1 1 ∧ fld (w := 7) (op ++ n) 5 1 = fld op 0 1 ∧
    fld (w := 7) (op ++ n) 0 5 = n := by
  refine ⟨?_, ?_, ?_⟩ <;>
    (change fld (w := 2 + 5) (op ++ n) _ _ = _
     simp (disch := decide) only [fld_append_high, fld_append_low, fld_all, Nat.reduceSub])

/-- `stk.hand` names its stack and its die in wider fields (R94). -/
@[simp] theorem fld_handStack (n : BitVec 4) : fld (w := 6) (0#2 ++ n) 0 4 = n := by
  change fld (w := 2 + 4) (0#2 ++ n) _ _ = _
  simp (disch := decide) only [fld_append_low, fld_all]

@[simp] theorem fld_handDie (die : BitVec 2) : fld (w := 4) (0#2 ++ die) 0 2 = die ∧ fld (w := 4) (0#2 ++ die) 2 2 = 0 := by
  refine ⟨?_, ?_⟩ <;>
    (change fld (w := 2 + 2) (0#2 ++ die) _ _ = _
     simp (disch := decide) only [fld_append_high, fld_append_low, fld_all, Nat.reduceSub, BitVec.ofNat_eq_ofNat])

theorem toNat_hand_lt (n : BitVec 4) : BitVec.toNat (w := 6) (0#2 ++ n) < 16 := by
  have := n.isLt
  exact lt_of_eq_of_lt ((BitVec.toNat_append 0#2 n).trans (by simp)) this

theorem Cond.code_eq : Cond.code .eq = 0 := rfl
theorem Rnd.code_rne : Rnd.code .rne = 0 := rfl
theorem BrCond.code_eq_zero {c : BrCond} : c.code = 0#3 ↔ c = .always := by cases c <;> decide

/-- The packing conversions round in every mode (R180). -/
theorem mem_packRnds (r : Rnd) : r ∈ packRnds := by cases r <;> decide

/-- A guard's or a predicate's number in a register field (R71). -/
theorem p7_toNat_le (p : PReg) : (p7 p).toNat ≤ 7 := by
  have hp : (p7 p).toNat = p.toNat := (BitVec.toNat_append 0#4 p).trans (by simp)
  have := p.isLt
  omega

/-- The lane form of an arithmetic operation (R76, R91). -/
theorem decodeWords_laneArith (op : XOp) {i : Instr} {g : Guard} {d a b c : VReg} {t : Ty} {rnd : Rnd} {sat na nb nc : Bool} {regs : List VReg}
    (rest : List Word) (hop : op ≠ .cvt) (h : xWf op t rnd (laneMod sat na nb nc) regs = true)
    (he : encode i = encLX g d a b c op.code t rnd (packArith sat na nb nc)) (hi : op.lane g d a b c t rnd (laneMod sat na nb nc) = i)
    (hp : regs.all (pairOk t.is64) = true → op.lanePairs d a b c t = true) : decodeWords (encode i ++ rest) = .ok i := by
  obtain ⟨hacc, hregs⟩ := Bool.and_eq_true_iff.mp h
  rw [he, decodeWords_encLX]
  exact decodeLX_arith rest.length hop hi hacc (hp hregs)

theorem decodeWords_encode (i : Instr) (rest : List Word) (h : i.wf = true) (hw : i.isWord = true) : decodeWords (encode i ++ rest) = .ok i := by
  cases i with
  | iaddI32 | isubI32 | imulI32 | imulhiI32 | imulhiN32 | iminI32 | iminN32 | imaxI32 | imaxN32 | andB32 | orB32 | xorB32 | andnB32
  | shlB32 | shrN32 | shrI32 | rotlB32 | popcB32 | clzB32 | brevB32 | movB32 | iabsI32 | inegI32 | faddF32 | fsubF32 | fmulF32 | fminF32
  | fmaxF32 | fabsF32 | fnegF32 | pand | por | pxor | pandn | xchAt | xchSub | xchAdd | xchFlip | cenAll | cenAny | cenBits | getLane
  | litI | litF | litMov =>
    refine (decodeWords_packLR ..).trans ?_
    rw [decodeLane, (fld_packLR ..).2.1]
    exact settle_ok (by simp [p7]) (by simp [p7]) (by simp)
  | fcmpF32 =>
    refine (decodeWords_packLR ..).trans ?_
    rw [decodeLane, (fld_packLR ..).2.1]
    exact settle_ok (by simp) (by simp [condOk]) (by simp)
  | faddF64 | fsubF64 | fmulF64 | fminF64 | fmaxF64 | iaddI64 | isubI64 | fabsF64 | fnegF64 | movB64 | icmpI32 | icmpN32 | icmpI64
  | icmpN64 | fcmpF64 =>
    refine (decodeWords_packLR ..).trans ?_
    rw [decodeLane, (fld_packLR ..).2.1]
    exact settle_ok (by simp) (by simpa [Instr.wf, and_assoc, condOk] using h) (by simp)
  | ldN8 | ldI8 | ldN16 | ldI16 | ldB32 | ldB64 | ldB128 | stB8 | stB16 | stB32 | stB64 | stB128 =>
    refine (decodeWords_packLR ..).trans ?_
    rw [decodeLane, (fld_packLR ..).2.1]
    exact settle_ok (by simp) (by simpa [Instr.wf, memWf, and_comm] using h) (by simp)
  | iaddExt => exact decodeWords_laneArith .iadd rest nofun h rfl rfl (by simp +contextual [XOp.lanePairs, XOp.spec, XOp.isShift])
  | isubExt => exact decodeWords_laneArith .isub rest nofun h rfl rfl (by simp +contextual [XOp.lanePairs, XOp.spec, XOp.isShift])
  | imulExt => exact decodeWords_laneArith .imul rest nofun h rfl rfl (by simp +contextual [XOp.lanePairs, XOp.spec, XOp.isShift])
  | imulhiExt => exact decodeWords_laneArith .imulhi rest nofun h rfl rfl (by simp +contextual [XOp.lanePairs, XOp.spec, XOp.isShift])
  | imad => exact decodeWords_laneArith .imad rest nofun h rfl rfl (by simp +contextual [XOp.lanePairs, XOp.spec, XOp.isShift])
  | iminExt => exact decodeWords_laneArith .imin rest nofun h rfl rfl (by simp +contextual [XOp.lanePairs, XOp.spec, XOp.isShift])
  | imaxExt => exact decodeWords_laneArith .imax rest nofun h rfl rfl (by simp +contextual [XOp.lanePairs, XOp.spec, XOp.isShift])
  | iabsExt => exact decodeWords_laneArith .iabs rest nofun h rfl rfl (by simp +contextual [XOp.lanePairs, XOp.spec])
  | inegExt => exact decodeWords_laneArith .ineg rest nofun h rfl rfl (by simp +contextual [XOp.lanePairs, XOp.spec])
  | clamp => exact decodeWords_laneArith .clamp rest nofun h rfl rfl (by simp +contextual [XOp.lanePairs, XOp.spec, XOp.isShift])
  | shlExt => exact decodeWords_laneArith .shl rest nofun h rfl rfl (by simp +contextual [XOp.lanePairs, XOp.spec, XOp.isShift])
  | shrExt => exact decodeWords_laneArith .shr rest nofun h rfl rfl (by simp +contextual [XOp.lanePairs, XOp.spec, XOp.isShift])
  | bfe => exact decodeWords_laneArith .bfe rest nofun h rfl rfl (by simp +contextual [XOp.lanePairs, XOp.spec, XOp.isShift])
  | faddExt => exact decodeWords_laneArith .fadd rest nofun h rfl rfl (by simp +contextual [XOp.lanePairs, XOp.spec, XOp.isShift])
  | fsubExt => exact decodeWords_laneArith .fsub rest nofun h rfl rfl (by simp +contextual [XOp.lanePairs, XOp.spec, XOp.isShift])
  | fmulExt => exact decodeWords_laneArith .fmul rest nofun h rfl rfl (by simp +contextual [XOp.lanePairs, XOp.spec, XOp.isShift])
  | fma => exact decodeWords_laneArith .fma rest nofun h rfl rfl (by simp +contextual [XOp.lanePairs, XOp.spec, XOp.isShift])
  | fminExt => exact decodeWords_laneArith .fmin rest nofun h rfl rfl (by simp +contextual [XOp.lanePairs, XOp.spec, XOp.isShift])
  | fmaxExt => exact decodeWords_laneArith .fmax rest nofun h rfl rfl (by simp +contextual [XOp.lanePairs, XOp.spec, XOp.isShift])
  | fdiv => exact decodeWords_laneArith .fdiv rest nofun h rfl rfl (by simp +contextual [XOp.lanePairs, XOp.spec, XOp.isShift])
  | fsqrt => exact decodeWords_laneArith .fsqrt rest nofun h rfl rfl (by simp +contextual [XOp.lanePairs, XOp.spec])
  | frcp => exact decodeWords_laneArith .frcp rest nofun h rfl rfl (by simp +contextual [XOp.lanePairs, XOp.spec])
  | frsqrt => exact decodeWords_laneArith .frsqrt rest nofun h rfl rfl (by simp +contextual [XOp.lanePairs, XOp.spec])
  | frint => exact decodeWords_laneArith .frint rest nofun h rfl rfl (by simp +contextual [XOp.lanePairs, XOp.spec])
  | fexp2 =>
    exact decodeWords_laneArith .fexp2 rest (by decide)
      (show xWf .fexp2 .f32 .rne (laneMod false false false false) [] = true from rfl) rfl rfl (by simp [XOp.lanePairs, XOp.spec, Ty.is64])
  | flog2 =>
    exact decodeWords_laneArith .flog2 rest (by decide)
      (show xWf .flog2 .f32 .rne (laneMod false false false false) [] = true from rfl) rfl rfl (by simp [XOp.lanePairs, XOp.spec, Ty.is64])
  | bfi =>
    exact decodeWords_laneArith .bfi rest (by decide)
      (show xWf .bfi .b32 .rne (laneMod false false false false) [] = true from rfl) rfl rfl (by simp [XOp.lanePairs, XOp.spec, Ty.is64])
  | sel g d a b p t =>
    exact decodeWords_laneArith .sel rest nofun h rfl (by simp [XOp.lane, p7])
      (by simp +contextual [XOp.lanePairs, XOp.spec, XOp.isShift, p7_toNat_le])
  | cvt g d a t st rnd sat hi =>
    simp only [Instr.wf, Bool.and_eq_true] at h
    obtain ⟨⟨⟨⟨ht, hr⟩, hm⟩, hd⟩, ha⟩ := h
    have hchecks := allPass_cvtChecks ht hr hm
    refine (decodeWords_encLX ..).trans ?_
    unfold decodeLX
    rw [if_neg (by omega), show XOp.ofCode (fld (packLX 0 0x40 t.code rnd.code (packCvt sat hi st.code)) 17 8) = some .cvt by simp; rfl]
    exact settle_ok (by simp) (by simp [hchecks, hd, ha]) (by simp)
  | cvtPk | cvtPk4 =>
    refine (decodeWords_encLX ..).trans ?_
    unfold decodeLX
    rw [if_neg (by omega), (fld_packLX ..).2.1]
    exact settle_ok (by simp) (by simpa [Instr.wf, fld_packCvt_packs, mem_packRnds, and_assoc] using h) (by simp)
  | redAdd | redMin | redMax | scanAdd =>
    refine (decodeWords_encLX ..).trans ?_
    unfold decodeLX
    rw [if_neg (by omega), (fld_packLX ..).2.1]
    exact settle_ok (by simp) (by simpa [Instr.wf, Rnd.code_rne, or_assoc] using h) (by simp)
  | atmAdd | atmMin | atmMax | atmAnd | atmOr | atmXor | atmXchg | atmCas =>
    refine (decodeWords_encLX ..).trans ?_
    unfold decodeLX
    rw [if_neg (by omega), (fld_packLX ..).2.1]
    exact settle_ok (by simp) (by cases ‹Bool› <;> simp_all [Instr.wf, atomicWf, Rnd.code_rne]) (by simp)
  | uniformIadd | uniformIsub | uniformImul | uniformImulhiI | uniformImulhiN | uniformIminI | uniformIminN | uniformImaxI
  | uniformImaxN | uniformAnd | uniformOr | uniformXor | uniformAndn | uniformShl | uniformShrN | uniformShrI | uniformRotl
  | uniformPopc | uniformClz | uniformBrev | uniformMov | uniformIcmpI | uniformIcmpN =>
    refine (decodeWords_packUR_arith _ _ _ _ _ _ (by decide)).trans ?_
    unfold decodeUR
    simp only [fld_packSub]
    exact settle_ok (by simp [UOp.binary]) (by simp_all [Instr.wf, ubWf, UOp.isFloat, UOp.isCompare, Cond.code_eq]) (by simp)
  | uniformFadd => exact decodeWords_uniBinary (op := .fadd) (w := false) (c := .eq) rest rfl rfl rfl rfl
  | uniformFsub => exact decodeWords_uniBinary (op := .fsub) (w := false) (c := .eq) rest rfl rfl rfl rfl
  | uniformFmul => exact decodeWords_uniBinary (op := .fmul) (w := false) (c := .eq) rest rfl rfl rfl rfl
  | uniformFmin => exact decodeWords_uniBinary (op := .fmin) (w := false) (c := .eq) rest rfl rfl rfl rfl
  | uniformFmax => exact decodeWords_uniBinary (op := .fmax) (w := false) (c := .eq) rest rfl rfl rfl rfl
  | uniformFcmp => exact decodeWords_uniBinary (op := .fcmp) (w := false) rest rfl rfl rfl rfl
  | uniformLiteralForm op d a w c lit => exact decodeWords_uniLiteral lit rest h
  | uniformExtended => exact decodeWords_uniExtended rest h
  | bra =>
    refine (decodeWords_packUB ..).trans ?_
    rw [decodeUniform, (fld_packUB ..).2.1]
    exact settle_ok (by simp) (by simpa [Instr.wf, BrCond.code_eq_zero] using h) (by simp)
  | call =>
    refine (decodeWords_packUB ..).trans ?_
    rw [decodeUniform, (fld_packUB ..).2.1]
    exact settle_ok (by simp) (by simp) (by simp)
  | callFk =>
    refine (decodeWords_packUB ..).trans ?_
    rw [decodeUniform, (fld_packUB ..).2.1]
    exact settle_ok (by simp) (by simp [h]) (by simp)
  | brd =>
    change decode (rest.length + 2) _ _ _ = _
    rw [decode, (fld_packUD ..).1, if_neg (by decide), decodeUniform, (fld_packUD ..).2.1]
    exact settle_ok (by simp) (by simp) (by simp)
  | braInd | callInd | ret | exit | getGroup | getTeamX | getTeamY | getTeamZ | getGridX | getGridY | getGridZ | getCore | getCluster
  | getDie | getCtx | getCycle | getEm | getLm | getFmt | emSet | nop | bcpT1 | bcpT2 | bcpT3
  | bcpFill | bgsGather | bgsScatter | bamAdd | bamMin | bamMax | bamAnd | bamOr | bamXor | bamXchg | bamCas | mldE | mldS | mswp | mlp
  | mlpZero | mdrn | mdrnScl | ropeTake | ropeGive | gbarHold | gbarPass | cbarHold | cbarPass | unwatch | waitW
  | lnch | sint | rflRun =>
    refine (decodeWords_packUR_misc _ _ _ _ _ _ (by decide) (by decide)).trans ?_
    unfold decodeUM
    exact settle_ok rfl (by simp_all [Instr.wf, getOf, engineOf]) (by simp)
  | waitK | pmPush | tbarPass | tbarHold | watch | fence | tfence | qBell | mbxGet | mbxPut | trap | sysWr =>
    refine (decodeWords_packUR_misc _ _ _ _ _ _ (by decide) (by decide)).trans ?_
    unfold decodeUM
    exact settle_ok (by simp) (by simp_all [Instr.wf]) (by simp)
  | pmInv | pmPop =>
    refine (decodeWords_packUR_misc _ _ _ _ _ _ (by decide) (by decide)).trans ?_
    unfold decodeUM
    exact settle_ok rfl (by decide) (by simp)
  | fmtSet =>
    refine (decodeWords_packUR_misc _ _ _ _ _ _ (by decide) (by decide)).trans ?_
    unfold decodeUM
    exact (if_neg (by decide)).trans (settle_ok rfl (by simp) (by simp))
  | fmtSetImm =>
    refine (decodeWords_packUR_misc _ _ _ _ _ _ (by decide) (by decide)).trans ?_
    unfold decodeUM
    exact (if_pos (by decide)).trans (settle_ok rfl (by simpa [Instr.wf] using h) (by simp))
  | collSum | collMax | collMin | rflPut =>
    refine (decodeWords_packUR_misc _ _ _ _ _ _ (by decide) (by decide)).trans ?_
    unfold decodeUM
    rw [(fld_packOp ..).1]
    exact settle_ok (by simp) (by simp_all [Instr.wf]) (by simp)
  | sysRd d n =>
    refine (decodeWords_packUR_misc _ _ _ _ _ _ (by decide) (by decide)).trans ?_
    unfold decodeUM
    refine settle_ok (by simp) ?_ (by simp)
    by_cases hn : n.toNat ≤ 11
    · have : n.toNat ≠ 16 := by omega
      simp_all [Instr.wf]
    · simp_all [Instr.wf]
  | blkGive | blkTake =>
    refine (decodeWords_packUR_misc _ _ _ _ _ _ (by decide) (by decide)).trans ?_
    unfold decodeUM
    exact settle_ok (by simp) (by simp_all [Instr.wf, Nat.one_le_iff_ne_zero]) (by simp)
  | stkHand n =>
    refine (decodeWords_packUR_misc _ _ _ _ _ _ (by decide) (by decide)).trans ?_
    unfold decodeUM
    rw [(fld_packOp ..).1]
    have := toNat_hand_lt n
    exact settle_ok (by simp) (by simp [h]; omega) (by simp)
  | _ => exact absurd hw Bool.false_ne_true

/-- Settles O55: each word's fields decode to what was packed, and a well-formed instruction passes every check of its opcode. -/
theorem roundTrip : Obligations.RoundTrip := decodeWords_encode

end Sys2Proof
end

section
/-!
SUPPORT. Integer operations on words, and the lane instructions that write registers or predicates (R171-R175, R181-R183, R186, R190,
R191).
-/
namespace Sys2Proof

/-! ### Integer operations on 32-bit patterns (R171, R172) -/

theorem wrap_eq_toNat_ofInt (z : Int) (n : Nat) : wrap z n = (BitVec.ofInt n z).toNat := (BitVec.toNat_ofInt z).symm

/-- A signed 32-bit operand (R47). -/
theorem int_i32 (x : Word) : Ty.i32.int x.toNat = x.toInt := by
  change sext x.toNat 32 = x.toInt
  have := x.isLt
  rw [sext, BitVec.toInt_eq_toNat_cond, Nat.mod_eq_of_lt this]
  simp only [OfNat.ofNat_ne_zero, if_false]
  split <;> split <;> first | rfl | omega

/-- An unsigned 32-bit operand (R47). -/
theorem int_n32 (x : Word) : Ty.n32.int x.toNat = (x.toNat : Int) := by
  change ((x.toNat % 2 ^ 32 : Nat) : Int) = x.toNat
  rw [Nat.mod_eq_of_lt x.isLt]

theorem ofInt_sub_toInt (x y : Word) : BitVec.ofInt 32 (x.toInt - y.toInt) = x - y := by
  rw [Int.sub_eq_add_neg, BitVec.ofInt_add, BitVec.ofInt_neg, BitVec.ofInt_toInt, BitVec.ofInt_toInt, BitVec.sub_eq_add_neg]

/-- The smaller, or the larger, of two signed operands is one of them. -/
theorem wrap_min_toInt (x y : Word) : wrap (if x.toInt ≤ y.toInt then x.toInt else y.toInt) 32 = (if x.sle y then x else y).toNat := by
  rw [wrap_eq_toNat_ofInt, BitVec.sle_eq_decide]
  by_cases h : x.toInt ≤ y.toInt <;> simp [h, BitVec.ofInt_toInt]

theorem wrap_max_toInt (x y : Word) : wrap (if x.toInt ≤ y.toInt then y.toInt else x.toInt) 32 = (if x.sle y then y else x).toNat := by
  rw [wrap_eq_toNat_ofInt, BitVec.sle_eq_decide]
  by_cases h : x.toInt ≤ y.toInt <;> simp [h, BitVec.ofInt_toInt]

theorem wrap_natCast (x : Word) : wrap (x.toNat : Int) 32 = x.toNat := by
  have := x.isLt
  simp only [wrap]
  omega

theorem wrap_min_toNat (x y : Word) : wrap (if (x.toNat : Int) ≤ y.toNat then (x.toNat : Int) else y.toNat) 32 = (if x ≤ y then x else y).toNat := by
  by_cases h : x.toNat ≤ y.toNat
  · rw [if_pos (by exact_mod_cast h), if_pos (by exact h), wrap_natCast]
  · rw [if_neg (by exact_mod_cast h), if_neg (by exact h), wrap_natCast]

theorem wrap_max_toNat (x y : Word) : wrap (if (x.toNat : Int) ≤ y.toNat then (y.toNat : Int) else x.toNat) 32 = (if x ≤ y then y else x).toNat := by
  by_cases h : x.toNat ≤ y.toNat
  · rw [if_pos (by exact_mod_cast h), if_pos (by exact h), wrap_natCast]
  · rw [if_neg (by exact_mod_cast h), if_neg (by exact h), wrap_natCast]

/-- The high half of a signed product (R171). -/
theorem mulHi_i32 (x y : Word) : intMulHi .i32 x.toNat y.toNat = (((x.signExtend 64 * y.signExtend 64) >>> 32).setWidth 32).toNat := by
  have hx : x.signExtend 64 = BitVec.ofInt 64 x.toInt := rfl
  have hy : y.signExtend 64 = BitVec.ofInt 64 y.toInt := rfl
  rw [hx, hy, ← BitVec.ofInt_mul, BitVec.toNat_setWidth, BitVec.toNat_ushiftRight, BitVec.toNat_ofInt, Nat.shiftRight_eq_div_pow]
  simp only [intMulHi, int_i32]
  change ((x.toInt * y.toInt / (2 ^ 32 : Nat)) % (2 ^ 32 : Nat)).toNat = _
  generalize x.toInt * y.toInt = p
  omega

/-- The high half of an unsigned product (R171). -/
theorem mulHi_n32 (x y : Word) : intMulHi .n32 x.toNat y.toNat = (((x.setWidth 64 * y.setWidth 64) >>> 32).setWidth 32).toNat := by
  have hp : x.toNat * y.toNat < 2 ^ 32 * 2 ^ 32 := Nat.mul_lt_mul'' x.isLt y.isLt
  rw [BitVec.toNat_setWidth, BitVec.toNat_ushiftRight, BitVec.toNat_mul, BitVec.toNat_setWidth_of_le (by decide),
    BitVec.toNat_setWidth_of_le (by decide), Nat.shiftRight_eq_div_pow]
  simp only [intMulHi, int_n32]
  change ((((x.toNat : Int) * y.toNat) / (2 ^ 32 : Nat)) % (2 ^ 32 : Nat)).toNat = _
  rw [← Nat.cast_mul]
  generalize x.toNat * y.toNat = p at hp ⊢
  omega

theorem shiftLeft_word (x : Word) (n : Nat) : shiftLeft 32 x.toNat n = (x <<< n).toNat := by
  rw [shiftLeft, BitVec.toNat_shiftLeft, Nat.shiftLeft_eq]
  split
  · next h =>
    symm
    apply Nat.mod_eq_zero_of_dvd
    exact Dvd.dvd.mul_left (Nat.pow_dvd_pow 2 h) _
  · rfl

theorem shiftRight_n32 (x : Word) (n : Nat) : shiftRight .n32 x.toNat n = (x >>> n).toNat := by
  have hx := x.isLt
  rw [BitVec.toNat_ushiftRight, Nat.shiftRight_eq_div_pow]
  simp only [shiftRight, int_n32]
  change (if 32 ≤ n then (if (x.toNat : Int) < 0 then 2 ^ 32 - 1 else 0) else (((x.toNat : Int) / (2 ^ n : Nat)) % (2 ^ 32 : Nat)).toNat) = _
  split
  · next h =>
    rw [if_neg (by omega), Nat.div_eq_of_lt]
    exact lt_of_lt_of_le hx (Nat.pow_le_pow_right (by decide) h)
  · have : x.toNat / 2 ^ n ≤ x.toNat := Nat.div_le_self _ _
    rw [← Int.natCast_ediv]
    generalize x.toNat / 2 ^ n = q at this ⊢
    omega

/-- A shift by the width or more leaves copies of the sign (R172). -/
theorem toInt_ediv_pow_of_le (x : Word) {n : Nat} (h : 32 ≤ n) : x.toInt / (2 ^ n : Nat) = if x.toInt < 0 then -1 else 0 := by
  have hlo := BitVec.le_toInt x
  have hhi := BitVec.toInt_lt (x := x)
  have hp : (2 ^ 32 : Nat) ≤ 2 ^ n := Nat.pow_le_pow_right (by decide) h
  generalize (2 ^ n : Nat) = d at hp ⊢
  generalize x.toInt = z at *
  split
  · next hz =>
    have hadd : (z + 1 * (d : Int)) / d = z / d + 1 := Int.add_mul_ediv_right z 1 (by omega)
    have hzero : (z + 1 * (d : Int)) / d = 0 := Int.ediv_eq_zero_of_lt (by omega) (by omega)
    omega
  · exact Int.ediv_eq_zero_of_lt (by omega) (by omega)

theorem shiftRight_i32 (x : Word) (n : Nat) : shiftRight .i32 x.toNat n = (x.sshiftRight n).toNat := by
  have hs : x.sshiftRight n = BitVec.ofInt 32 (x.toInt / (2 ^ n : Nat)) := by
    rw [← BitVec.ofInt_toInt (x := x.sshiftRight n), BitVec.toInt_sshiftRight, Int.shiftRight_eq_div_pow]
  rw [hs, BitVec.toNat_ofInt]
  simp only [shiftRight, int_i32]
  change (if 32 ≤ n then (if x.toInt < 0 then 2 ^ 32 - 1 else 0) else (x.toInt / (2 ^ n : Nat) % (2 ^ 32 : Nat)).toNat) = _
  split
  · next h =>
    rw [toInt_ediv_pow_of_le x h]
    split <;> rfl
  · rfl

theorem rotateLeft_word (x : Word) (n : Nat) : rotateLeft 32 x.toNat n = (x.rotateLeft (n % 32)).toNat := by
  have hx := x.isLt
  have hk : n % 32 < 32 := Nat.mod_lt _ (by decide)
  rw [BitVec.toNat_rotateLeft, Nat.mod_mod, Nat.shiftLeft_eq, Nat.shiftRight_eq_div_pow]
  simp only [rotateLeft, Nat.mod_eq_of_lt hx]
  generalize n % 32 = k at hk ⊢
  generalize x.toNat = a at hx ⊢
  have hlow : a / 2 ^ (32 - k) < 2 ^ k := by
    rw [Nat.div_lt_iff_lt_mul (by positivity), ← Nat.pow_add]
    rwa [show k + (32 - k) = 32 by omega]
  have hhigh : a * 2 ^ k % 2 ^ 32 = (a % 2 ^ (32 - k)) <<< k := by
    rw [Nat.shiftLeft_eq, ← Nat.mul_mod_mul_right, ← Nat.pow_add]
    rw [show 32 - k + k = 32 by omega]
  have hlt : (a % 2 ^ (32 - k)) <<< k + a / 2 ^ (32 - k) < 2 ^ 32 := by
    have : a % 2 ^ (32 - k) < 2 ^ (32 - k) := Nat.mod_lt _ (by positivity)
    have : (a % 2 ^ (32 - k) + 1) * 2 ^ k ≤ 2 ^ (32 - k) * 2 ^ k := Nat.mul_le_mul_right _ this
    rw [← Nat.pow_add, show 32 - k + k = 32 by omega] at this
    rw [Nat.shiftLeft_eq]
    rw [Nat.add_mul] at this
    omega
  rw [Nat.add_mod, hhigh, Nat.mod_eq_of_lt (a := a / 2 ^ (32 - k)) (by omega), Nat.mod_eq_of_lt hlt, Nat.shiftLeft_add_eq_or_of_lt hlow]

end Sys2Proof
namespace Sys2Proof.Machine

/-- The operations of R190 on 32-bit registers are those that the statement names. -/
theorem eval_litOp_word (op : LitOp) (x y : Word) : op.eval false x.toNat y.toNat = (int32 op x y).toNat := by
  have hy : y.toNat % 2 ^ 32 = y.toNat := Nat.mod_eq_of_lt y.isLt
  cases op with
  | iadd =>
    change wrap (Ty.i32.int x.toNat + Ty.i32.int y.toNat) 32 = (x + y).toNat
    rw [int_i32, int_i32, wrap_eq_toNat_ofInt, BitVec.ofInt_add, BitVec.ofInt_toInt, BitVec.ofInt_toInt]
  | isub =>
    change wrap (Ty.i32.int x.toNat - Ty.i32.int y.toNat) 32 = (x - y).toNat
    rw [int_i32, int_i32, wrap_eq_toNat_ofInt, ofInt_sub_toInt]
  | imul =>
    change wrap (Ty.i32.int x.toNat * Ty.i32.int y.toNat) 32 = (x * y).toNat
    rw [int_i32, int_i32, wrap_eq_toNat_ofInt, BitVec.ofInt_mul, BitVec.ofInt_toInt, BitVec.ofInt_toInt]
  | imulhiI => exact mulHi_i32 x y
  | imulhiN => exact mulHi_n32 x y
  | iminI =>
    change wrap (if Ty.i32.int x.toNat ≤ Ty.i32.int y.toNat then Ty.i32.int x.toNat else Ty.i32.int y.toNat) 32 = _
    rw [int_i32, int_i32]
    exact wrap_min_toInt x y
  | imaxI =>
    change wrap (if Ty.i32.int x.toNat ≤ Ty.i32.int y.toNat then Ty.i32.int y.toNat else Ty.i32.int x.toNat) 32 = _
    rw [int_i32, int_i32]
    exact wrap_max_toInt x y
  | iminN =>
    change wrap (if Ty.n32.int x.toNat ≤ Ty.n32.int y.toNat then Ty.n32.int x.toNat else Ty.n32.int y.toNat) 32 = _
    rw [int_n32, int_n32]
    exact wrap_min_toNat x y
  | imaxN =>
    change wrap (if Ty.n32.int x.toNat ≤ Ty.n32.int y.toNat then Ty.n32.int y.toNat else Ty.n32.int x.toNat) 32 = _
    rw [int_n32, int_n32]
    exact wrap_max_toNat x y
  | and => exact (BitVec.toNat_and x y).symm
  | or => exact (BitVec.toNat_or x y).symm
  | xor => exact (BitVec.toNat_xor x y).symm
  | andn =>
    change x.toNat &&& (2 ^ 32 - 1 - y.toNat % 2 ^ 32) = _
    rw [hy]
    exact ((BitVec.toNat_and x (~~~y)).trans (by rw [BitVec.toNat_not])).symm
  | shl =>
    change shiftLeft 32 x.toNat (y.toNat % 2 ^ 32) = _
    rw [hy]; exact shiftLeft_word x y.toNat
  | shrN =>
    change shiftRight .n32 x.toNat (y.toNat % 2 ^ 32) = _
    rw [hy]; exact shiftRight_n32 x y.toNat
  | shrI =>
    change shiftRight .i32 x.toNat (y.toNat % 2 ^ 32) = _
    rw [hy]; exact shiftRight_i32 x y.toNat
  | rotl =>
    change rotateLeft 32 x.toNat (y.toNat % 2 ^ 32) = _
    rw [hy]; exact rotateLeft_word x y.toNat

/-! ### The lane instructions of one word (R171, R174, R175, R190, R191) -/

/-- An operand of one register (R170). -/
theorem Arch.lane_one (a : Arch) (n l : Nat) : a.lane n 1 l = (a.getV n l).toNat := by
  simp [Arch.lane]

theorem writesLanes_of_laneInt (i : Instr) (r : LaneResult) (h : laneInt i = some r) : WritesLanes i r := by
  cases i with
  | iaddI32 | isubI32 | imulI32 | imulhiI32 | imulhiN32 | iminI32 | iminN32 | imaxI32 | imaxN32 | andB32 | orB32 | xorB32 | andnB32
  | shlB32 | shrN32 | shrI32 | rotlB32 =>
    cases h
    exact writesLanes_of_plan (fun _ => rfl) fun a _ l j _ _ => by rw [Arch.lane_one, Arch.lane_one, eval_litOp_word]
  | litI =>
    cases h
    exact writesLanes_of_plan (fun _ => rfl) fun a _ l j _ _ => by dsimp only; rw [Arch.lane_one, eval_litOp_word]
  | _ => cases h

/-- Sums and differences of 64 bits wrap (R171). -/
theorem iaddI64_wraps (x y : Nat) : intBin .add .i64 false x y = (x + y) % 2 ^ 64 := by
  change wrap (sext x 64 + sext y 64) 64 = _
  simp only [wrap, sext, OfNat.ofNat_ne_zero, if_false]
  split <;> split <;> omega

theorem isubI64_wraps (x y : Nat) (hy : y < 2 ^ 64) : intBin .sub .i64 false x y = (x + (2 ^ 64 - y)) % 2 ^ 64 := by
  change wrap (sext x 64 - sext y 64) 64 = _
  simp only [wrap, sext, OfNat.ofNat_ne_zero, if_false]
  split <;> split <;> omega

theorem Arch.lane_two_lt (a : Arch) (n l : Nat) : a.lane n 2 l < 2 ^ 64 := by
  have := (a.getV n l).isLt
  have := (a.getV (n + 1) l).isLt
  simp only [Arch.lane]
  omega

theorem writesLanes_of_laneOneWord (i : Instr) (r : LaneResult) (h : laneOneWord i = some r) : WritesLanes i r := by
  cases i with
  | popcB32 | clzB32 | brevB32 | movB32 | movB64 | iabsI32 | inegI32 | faddF32 | fsubF32 | fmulF32 | fminF32 | fmaxF32 | faddF64 | fsubF64
  | fmulF64 | fminF64 | fmaxF64 | fabsF32 | fabsF64 | fnegF32 | fnegF64 | litF | litMov =>
    cases h
    exact writesLanes_of_plan (fun _ => rfl) fun _ _ _ _ _ _ => rfl
  | iaddI64 =>
    cases h
    exact writesLanes_of_plan (fun _ => rfl) fun a _ l j _ _ => by
      dsimp only
      rw [← iaddI64_wraps]
      rfl
  | isubI64 =>
    cases h
    exact writesLanes_of_plan (fun _ => rfl) fun a _ l j _ _ => by
      dsimp only
      rw [← isubI64_wraps _ _ (Arch.lane_two_lt ..)]
      rfl
  | _ => cases h

/-! ### Extended lane arithmetic (R171-R175, R183) -/

theorem writesLanes_of_laneExtended (i : Instr) (r : LaneResult) (h : laneExtended i = some r) : WritesLanes i r := by
  cases i with
  | iaddExt | isubExt | imulExt | imulhiExt | iminExt | imaxExt | shlExt | shrExt | faddExt | fsubExt | fmulExt | fdiv | fminExt | fmaxExt
  | imad | clamp | fma | bfe | bfi | iabsExt | inegExt | fsqrt | frcp | frint | frsqrt | fexp2 | flog2 | sel =>
    cases h
    exact writesLanes_of_plan (fun _ => rfl) fun _ _ _ _ _ _ => rfl
  | _ => cases h

/-! ### Predicate results (R181, R182, R186) -/

/-- Bit l of the number that a list of bits stands for. -/
theorem testBit_ofBits (bs : List Bool) (l : Nat) : (ofBits bs).testBit l = bs.getD l false := by
  induction bs generalizing l with
  | nil => simp [ofBits]
  | cons b bs ih =>
    cases l with
    | zero => cases b <;> simp [ofBits, Nat.testBit_zero]
    | succ l =>
      have : (ofBits (b :: bs)) / 2 = ofBits bs := by
        cases b
        · simp [ofBits]
        · simp only [ofBits, if_true]; omega
      rw [Nat.testBit_succ, this, ih]
      rfl

theorem Arch.getP_setP (a : Arch) (p n : Nat) (x : Word) : (a.setP p x).getP n = if n = p ∧ n ≠ 7 then x else a.getP n := by
  unfold Arch.setP Arch.getP
  by_cases hn : n = 7
  · simp [hn]
  · by_cases hp : p = 7
    · rw [if_pos hp, if_neg (by omega), if_neg (by omega)]
    · rw [if_neg hp, if_neg hn, if_neg hn, Sparse.look_put]
      simp [hn]

theorem Arch.setP_rest (a : Arch) (p : Nat) (x : Word) : { a.setP p x with p := a.p } = a := by
  unfold Arch.setP
  split <;> rfl

/-- A predicate's bit after bits were written in the lanes of a mask (R181). -/
theorem Arch.getP_writeP (a : Arch) (act : Word) (p : Nat) (val : Nat → Bool) (n l : Nat) (hl : l < 32) :
    ((a.writeP act p val).getP n).getLsbD l = if act.getLsbD l ∧ n = p ∧ n ≠ 7 then val l else (a.getP n).getLsbD l := by
  unfold Arch.writeP
  dsimp only
  rw [Arch.getP_setP]
  have hbit : (BitVec.ofNat 32 (ofBits ((List.range 32).map val))).getLsbD l = val l := by
    rw [BitVec.getLsbD_ofNat, testBit_ofBits]
    simp [hl]
  by_cases hn : n = p ∧ n ≠ 7
  · obtain ⟨rfl, h7⟩ := hn
    rw [if_pos ⟨rfl, h7⟩, BitVec.getLsbD_or, BitVec.getLsbD_and, BitVec.getLsbD_and, BitVec.getLsbD_not, hbit]
    cases h : act.getLsbD l <;> simp [h7, hl]
  · rw [if_neg hn, if_neg (by tauto)]

theorem Arch.writeP_rest (a : Arch) (act : Word) (p : Nat) (val : Nat → Bool) : { a.writeP act p val with p := a.p } = a :=
  Arch.setP_rest a p _

/-- A lane instruction that is run by the plan of a predicate result writes that result. -/
theorem writesPred_of_plan {i : Instr} {g : Guard} {p : PReg} {src : List Use} {val val' : Arch → Word → Nat → Bool}
    (e : ∀ s, exec i s = run i (predPlan g p src val) s) (hv : ∀ a act l, l < 32 → val a act l = val' a act l) :
    WritesPred i ⟨g, p, src, val'⟩ := by
  intro s h c
  have c' : Clear s h i (predPlan g p src val).allUses (predPlan g p src val).raises := by
    simpa [PredResult.uses, predPlan, Plan.allUses, List.append_assoc] using c
  obtain ⟨t, u, hr, hu, hbeh, hrest, honly, a, ha, hua⟩ := run_regs c' rfl rfl rfl rfl rfl
    (fun b => b.writeP (h.active g) p.toNat (val h.a (h.active g))) (fun _ => rfl) fun b => by
      have hw := Arch.writeP_rest b (h.active g) p.toNat (val h.a (h.active g))
      exact ⟨(congrArg Arch.path0 hw :), (congrArg Arch.path1 hw :), (congrArg Arch.poison hw :), (congrArg Arch.ecc hw :)⟩
  refine ⟨t, u, (e s).trans hr, hu, ?_, ?_, ?_, hrest, honly⟩
  · intro n l hl
    have hup : u.arch.getP n = (a.writeP (h.active g) p.toNat (val h.a (h.active g))).getP n := (congrArg (fun x : Arch => x.getP n) hua :)
    have hap : a.getP n = h.a.getP n := (congrArg (fun x : Arch => x.getP n) ha :)
    rw [hup, Arch.getP_writeP _ _ _ _ _ _ hl, hap, hv _ _ _ hl]
  · have hap : a.p = h.a.p := (congrArg Arch.p ha :)
    calc ({ u.arch with p := h.a.p, poison := h.a.poison, ecc := h.a.ecc, path0 := h.a.path0, path1 := h.a.path1 } : Arch)
      _ = { a.writeP (h.active g) p.toNat (val h.a (h.active g)) with
            p := h.a.p, poison := h.a.poison, ecc := h.a.ecc, path0 := h.a.path0, path1 := h.a.path1 } :=
          (congrArg (fun x : Arch => { x with p := h.a.p }) hua :)
      _ = { a with poison := h.a.poison, ecc := h.a.ecc, path0 := h.a.path0, path1 := h.a.path1 } := by
          rw [← hap]
          exact congrArg (fun x : Arch => { x with poison := h.a.poison, ecc := h.a.ecc, path0 := h.a.path0, path1 := h.a.path1 })
            (Arch.writeP_rest a (h.active g) p.toNat (val h.a (h.active g)))
      _ = h.a := ha
  · simpa [PredResult.uses, predPlan, Plan.allUses, List.append_assoc] using hbeh

/-- Every active lane's bit is set where no active lane lies outside the predicate (R186). -/
theorem all_lanesOf (act q : Word) : ((lanesOf act).all fun l => q.getLsbD l) = (act &&& ~~~q == 0) := by
  rw [Bool.eq_iff_iff]
  simp only [List.all_eq_true, lanesOf, List.mem_filter, List.mem_range, beq_iff_eq, and_imp]
  refine ⟨fun h => BitVec.eq_of_getLsbD_eq fun l hl => ?_, fun h l hl ha => ?_⟩
  · change _ = (0#32).getLsbD l
    rw [BitVec.getLsbD_and, BitVec.getLsbD_not, BitVec.getLsbD_zero]
    cases ha : act.getLsbD l with
    | false => rfl
    | true => simp [h l hl ha, hl]
  · have hz := congrArg (fun x : Word => x.getLsbD l) h
    change _ = (0#32).getLsbD l at hz
    simp only [BitVec.getLsbD_and, BitVec.getLsbD_not, BitVec.getLsbD_zero, ha, hl, decide_true, Bool.true_and] at hz
    simpa using hz

theorem any_lanesOf (act q : Word) : ((lanesOf act).any fun l => q.getLsbD l) = (act &&& q != 0) := by
  rw [Bool.eq_iff_iff, bne_iff_ne, ne_eq, ← not_iff_not, not_not, Bool.not_eq_true, List.any_eq_false]
  simp only [lanesOf, List.mem_filter, List.mem_range, and_imp]
  refine ⟨fun h => BitVec.eq_of_getLsbD_eq fun l hl => ?_, fun h l hl ha => ?_⟩
  · change _ = (0#32).getLsbD l
    rw [BitVec.getLsbD_and, BitVec.getLsbD_zero]
    cases ha : act.getLsbD l with
    | false => rfl
    | true => simp [h l hl ha]
  · have hz := congrArg (fun x : Word => x.getLsbD l) h
    change _ = (0#32).getLsbD l at hz
    simp only [BitVec.getLsbD_and, BitVec.getLsbD_zero, ha, Bool.true_and] at hz
    simp [hz]

/-- An unsigned operand of one register, or of a pair, is its own value (R47). -/
theorem int_n32_lane (a : Arch) (n l : Nat) : Ty.n32.int (a.lane n 1 l) = a.lane n 1 l := by
  rw [Arch.lane_one]; exact int_n32 _

theorem int_n64_lane (a : Arch) (n l : Nat) : Ty.n64.int (a.lane n 2 l) = a.lane n 2 l := by
  change ((a.lane n 2 l % 2 ^ 64 : Nat) : Int) = _
  rw [Nat.mod_eq_of_lt (Arch.lane_two_lt a n l)]

theorem writesPred_of_predResult (i : Instr) (r : PredResult) (h : predResult i = some r) : WritesPred i r := by
  cases i with
  | icmpI32 | icmpI64 | fcmpF32 | fcmpF64 | pand | por | pandn | pxor =>
    cases h; exact writesPred_of_plan (fun _ => rfl) fun _ _ _ _ => rfl
  | icmpN32 => cases h; exact writesPred_of_plan (fun _ => rfl) fun _ _ _ _ => by dsimp only; rw [int_n32_lane, int_n32_lane]
  | icmpN64 => cases h; exact writesPred_of_plan (fun _ => rfl) fun _ _ _ _ => by dsimp only; rw [int_n64_lane, int_n64_lane]
  | cenAll => cases h; exact writesPred_of_plan (fun _ => rfl) fun _ _ _ _ => all_lanesOf _ _
  | cenAny => cases h; exact writesPred_of_plan (fun _ => rfl) fun _ _ _ _ => any_lanesOf _ _
  | _ => cases h

/-! ### The statements -/

/-- Settles O1: each one-word lane instruction is run by the plan of its lane result, whose value is that of its operation on patterns. -/
theorem oneWordLanes : Obligations.OneWordLanes := fun i r h =>
  h.elim (writesLanes_of_laneInt i r) (writesLanes_of_laneOneWord i r)

/-- Settles O2: each extended lane instruction is run by the plan of its lane result. -/
theorem extendedLanes : Obligations.ExtendedLanes := writesLanes_of_laneExtended

/-- Settles O4: compares, predicate logic and the census are run by the plan of their predicate result. -/
theorem predicateResults : Obligations.PredicateResults := writesPred_of_predResult

end Sys2Proof.Machine
end

section
/-!
SUPPORT. Masks, `fmt`, fences and `trap`; `wait.k` in a continuation; fault records; words of the spec, the reset state, and the answer of
every instruction word.
-/
namespace Sys2Proof.Machine

/-! ### `wait.k` in a continuation (R138, R280) -/

/-- A continuation that has done nothing yet, on a group's registers. -/
def freshCont (a : Arch) : Cont :=
  { shadow := 0, arch := a, preds := [], declared := [], belay := [], lines := [], readFirst := [], wrote := [], calleeWrote := [], exited := false
    stopped := false, depth := 0, ret := 0, ops := 0, base := 0, forked := 0, privs := [], losses := 0 }

/-- A continuation at a `wait.k` on k0, which stands at 1, with the limit 0. -/
def contAtWait : State :=
  let s := State.reset.loadWords (encode (.waitK 0 0))
  { s with view := some 0, groups := s.groups.map fun g => { g with arch := g.arch.setK 0 1, conts := [freshCont g.arch] } }

/-- The continuations of group 0 in the state that an instruction answers. -/
def contsAfter (o : Host.Outcome State Fault Refusal) : Option (List Cont) :=
  match o with
  | .next t => (t.group? 0).map (·.conts)
  | _ => none

theorem contAtWait_clear : ∃ h, Clear contAtWait h (.waitK 0 0) (srcS 0) .nothing ∧ h.g.id = 0 ∧
    (h.a.getS 0).toNat < h.a.getK 0 ∧ contAtWait.fpshare (contAtWait.hereCtx h) = 0 ∧
    contsAfter (exec (.waitK 0 0) contAtWait) ≠ some h.g.conts := by
  cases e : contAtWait.here with
  | none => exact absurd (congrArg Option.isSome e) (by decide +kernel)
  | some h =>
    have q : h = contAtWait.here.get (by decide +kernel) := by simp [e]
    subst q
    exact ⟨_, ⟨e, by decide +kernel, by decide +kernel, by decide +kernel, nofun, by decide +kernel⟩, by decide +kernel, by decide +kernel,
      by decide +kernel, by decide +kernel⟩

/-- Refutes O9: a continuation's `wait.k` that parks notes the register that it read before any write (R280), so its continuation does
not stay as it was, as the second part says of every field of the group but its registers. -/
theorem not_waitForCounter : ¬ Obligations.WaitForCounter := by
  intro claim
  obtain ⟨h, clear, hid, hlt, hshare, hne⟩ := contAtWait_clear
  obtain ⟨t, u, hrun, hu, hpark, -⟩ := (claim 0 0).2 _ h clear hlt (.inl hshare)
  refine hne ?_
  rw [hrun, contsAfter, ← hid, hu, hpark]
  rfl

/-! ### The predicate stack, `fmt`, `nop` and `fence` (R151, R224, R257-R259, R274) -/

theorem State.within_setPst (s : State) (h : Here) (l : List Word) :
    Within h.g.id (h.onOwn fun p => { p with pst := l }) s (s.setPst h l) :=
  s.within_onArch h.g.id _

/-- Bits 14:0 of a value are its low half without bit 15 (R224). -/
theorem fmt_of_fld (v : Word) : (fld v 0 15).setWidth 16 = v.setWidth 16 &&& 0x7FFF := by
  apply BitVec.eq_of_toNat_eq
  have h : (0x7FFF : BitVec 16).toNat = 2 ^ 15 - 1 := rfl
  simp only [fld, BitVec.toNat_setWidth, BitVec.extractLsb'_toNat, BitVec.toNat_and, Nat.shiftRight_zero]
  rw [h, Nat.and_two_pow_sub_one_eq_mod]
  omega

theorem State.within_setFmt (s : State) (h : Here) (v : Word) :
    Within h.g.id (h.onOwn fun p => { p with fmt := v.setWidth 16 &&& 0x7FFF }) s (s.setFmt h v) := by
  rw [← fmt_of_fld]
  exact s.within_onArch h.g.id _

/-- No lane access of the path's lanes is outstanding. -/
theorem Here.busy_eq_false {h : Here}
    (ok : ∀ t ∈ h.a.tracked, t.done = false → t.lanes &&& h.p.m ≠ 0 → t.path ≠ .T ∧ t.path ≠ .D ∧ t.path ≠ .P) : h.busy = false := by
  unfold Here.busy
  rw [List.any_eq_false]
  intro t ht
  have := ok t ht
  simp only [Tracked.before, Bool.and_eq_true, Bool.or_eq_true, beq_iff_eq, Bool.not_eq_true', bne_iff_ne, ne_eq]
  tauto

theorem changesGroup_of_maskResult (i : Instr) (r : GroupResult) (e : maskResult i = some r) : ChangesGroup i r := by
  cases i with
  | emSet =>
    cases e
    exact changesGroup_of_plan _ (fun _ => rfl) ⟨rfl, rfl, rfl⟩ (fun _ _ _ => ⟨rfl, rfl, rfl, rfl, rfl⟩)
      (fun _ h st => st.within_setPst h _) fun _ _ => rfl
  | pmPush | pmInv | pmPop =>
    cases e
    exact changesGroup_of_plan _ (fun _ => rfl) ⟨rfl, rfl, rfl⟩ (fun _ _ ok => ⟨rfl, rfl, if_neg (by simpa using ok), rfl, rfl⟩)
      (fun _ h st => st.within_setPst h _) fun _ _ => rfl
  | fmtSet | fmtSetImm =>
    cases e
    exact changesGroup_of_plan _ (fun _ => rfl) ⟨rfl, rfl, rfl⟩ (fun _ _ _ => ⟨rfl, rfl, rfl, rfl, rfl⟩)
      (fun _ h st => st.within_setFmt h _) fun _ _ => rfl
  | nop =>
    cases e
    exact changesGroup_of_plan (fun _ _ => id) (fun _ => rfl) ⟨rfl, rfl, rfl⟩ (fun _ _ _ => ⟨rfl, rfl, rfl, rfl, rfl⟩)
      (fun _ h st => .refl h.g.id st) fun _ _ => rfl
  | fence =>
    cases e
    exact changesGroup_of_plan (fun _ _ => id) (fun _ => rfl) ⟨rfl, rfl, rfl⟩ (fun _ _ ok => ⟨Here.busy_eq_false ok, rfl, rfl, rfl, rfl⟩)
      (fun _ h st => .refl h.g.id st) fun _ _ => rfl
  | _ => cases e

/-- Settles O6: each of them is run by a plan that changes the stack or the `fmt` of the issuing path, or nothing. -/
theorem maskInstructions : Obligations.MaskInstructions := changesGroup_of_maskResult

/-! ### `trap` (R337) -/

/-- Settles O19: the fault of `trap` is the last of its checks, and no other is met. -/
theorem trapTakesItsFault : Obligations.TrapTakesItsFault := fun _ _ _ c =>
  run_late c.here c.length c.regs nofun rfl rfl rfl

/-! ### Fault records (R335) -/

theorem fieldOf_append_left (a b : List Byte) (i n : Nat) (h : i + n ≤ a.length) : fieldOf (a ++ b) i n = fieldOf a i n := by
  unfold fieldOf
  rw [List.drop_append_of_le_length (by omega), List.take_append_of_le_length (by simp; omega)]

theorem fieldOf_append_right (a b : List Byte) (i n : Nat) (h : a.length ≤ i) : fieldOf (a ++ b) i n = fieldOf b (i - a.length) n := by
  unfold fieldOf
  rw [List.drop_append, List.drop_eq_nil_of_le h, List.nil_append]

theorem fieldOf_toBytes (n x : Nat) : fieldOf (toBytes n x) 0 n = x % 256 ^ n := by
  rw [fieldOf, List.drop_zero, List.take_of_length_le (by simp), ofBytes_toBytes]

theorem FaultKind.code_lt (k : FaultKind) : k.code < 65536 := by
  cases k <;> decide

/-- Settles O51: the record is its fields one after the other, each at the sum of the sizes before it. -/
theorem faultRecordBytes : Obligations.FaultRecordBytes := by
  intro r
  have hpc := r.pc.isLt
  have haddr := r.addr.isLt
  have hword := r.iword.isLt
  have hlanes := r.lanes.isLt
  have hcode := r.kind.code_lt
  refine ⟨by simp [FaultRec.bytes], ?_, ?_, ?_, ?_, ?_, ?_, ?_, ?_, ?_, ?_, ?_, ?_, ?_, ?_, ?_, ?_⟩ <;>
    · unfold FaultRec.bytes
      simp only [fieldOf_append_left, fieldOf_append_right, fieldOf_toBytes, List.length_append, toBytes_length, Nat.reduceAdd, Nat.reduceLeDiff,
        Nat.reduceSub, Nat.reducePow, Nat.zero_mod, Nat.mod_eq_of_lt, hpc, haddr, hword, hlanes, hcode]

/-! ### Words of the spec, and the machine after reset -/

/-- Settles O54: each word is decoded. -/
theorem decodedWords : Obligations.DecodedWords := by
  unfold Obligations.DecodedWords
  decide +kernel

/-- Settles O58: the state after reset is written out. -/
theorem resetState : Obligations.ResetState := by
  unfold Obligations.ResetState State.idsUnique
  decide +kernel

/-! ### Every instruction word answers (R11, R12) -/

/-- Settles O57: an instruction word is run by a plan, and every way through `run` ends in a next state. -/
theorem groupInstructionsAnswer : Obligations.GroupInstructionsAnswer := by
  intro i hw s h e
  cases i with
  | iaddI32 | isubI32 | imulI32 | imulhiI32 | imulhiN32 | iminI32 | iminN32 | imaxI32 | imaxN32 | andB32 | orB32 | xorB32 | andnB32 | shlB32
  | shrN32 | shrI32 | rotlB32 | popcB32 | clzB32 | brevB32 | movB32 | iabsI32 | inegI32 | faddF32 | fsubF32 | fmulF32 | fminF32 | fmaxF32
  | fabsF32 | fnegF32 | faddF64 | fsubF64 | fmulF64 | fminF64 | fmaxF64 | fabsF64 | fnegF64 | movB64 | iaddI64 | isubI64 | litI | litF
  | litMov | icmpI32 | icmpN32 | icmpI64 | icmpN64 | fcmpF32 | fcmpF64 | pand | por | pxor | pandn | xchAt | xchSub | xchAdd | xchFlip
  | cenAll | cenAny | cenBits | getLane | ldN8 | ldI8 | ldN16 | ldI16 | ldB32 | ldB64 | ldB128 | stB8 | stB16 | stB32 | stB64 | stB128
  | iaddExt | isubExt | imulExt | imulhiExt | imad | iminExt | imaxExt | iabsExt | inegExt | clamp | sel | shlExt | shrExt | bfe | bfi
  | faddExt | fsubExt | fmulExt | fma | fminExt | fmaxExt | fdiv | fsqrt | frcp | frsqrt | fexp2 | flog2 | frint | cvt | cvtPk | cvtPk4
  | redAdd | redMin | redMax | scanAdd | atmAdd | atmMin | atmMax | atmAnd | atmOr | atmXor | atmXchg | atmCas | uniformIadd | uniformIsub
  | uniformImul | uniformImulhiI | uniformImulhiN | uniformIminI | uniformIminN | uniformImaxI | uniformImaxN | uniformAnd | uniformOr
  | uniformXor | uniformAndn | uniformShl | uniformShrN | uniformShrI | uniformRotl | uniformPopc | uniformClz | uniformBrev | uniformMov
  | uniformIcmpI | uniformIcmpN | uniformFadd | uniformFsub | uniformFmul | uniformFmin | uniformFmax | uniformFcmp | uniformLiteralForm
  | uniformExtended | bra | brd | call | callFk | braInd | callInd | ret | exit | waitK | getGroup | getTeamX | getTeamY | getTeamZ
  | getGridX | getGridY | getGridZ | getCore | getCluster | getDie | getCtx | getCycle | getEm | getLm | getFmt | emSet | pmPush | pmInv
  | pmPop | blkGive | blkTake | fmtSet | fmtSetImm | nop | bcpT1 | bcpT2 | bcpT3 | bcpFill | bgsGather | bgsScatter | bamAdd | bamMin
  | bamMax | bamAnd | bamOr | bamXor | bamXchg | bamCas | mldE | mldS | mswp | mlp | mlpZero | mdrn | mdrnScl | ropeTake | ropeGive
  | tbarPass | tbarHold | gbarHold | gbarPass | cbarHold | cbarPass | watch | unwatch | waitW | fence | tfence | lnch | qBell | mbxGet
  | mbxPut | sint | collSum | collMax | collMin | stkHand | rflRun | rflPut | trap | sysRd | sysWr => exact run_next _ _ e
  | _ => exact absurd hw Bool.false_ne_true

end Sys2Proof.Machine
end

section
/-!
SUPPORT. Write events: what a write changes in memory, and what it brings about in groups, continuations and teams (R279, R293, R295,
R297, R375).
-/
namespace Sys2Proof.Machine

/-! ### Bytes -/

/-- Memory in which a run of bytes was put, as a function of the key. -/
theorem look_putBytes_eq_putAt (m : List Host.Cell) (k : Nat) (bs : List Byte) (q : Nat) :
    Sparse.look (putBytes m k bs) q = putAt (Sparse.look m) ((List.range bs.length).map fun j => k + j) bs q := by
  induction bs generalizing m k with
  | nil => rfl
  | cons b bs ih =>
    have hput : Sparse.look (Sparse.put m k b) = fun x => if x = k then b else Sparse.look m x := funext fun x => Sparse.look_put m k x b
    have hkeys : (List.range (b :: bs).length).map (fun j => k + j) = k :: (List.range bs.length).map fun j => k + 1 + j := by
      rw [List.length_cons, List.range_succ_eq_map, List.map_cons, List.map_map, Nat.add_zero]
      exact congrArg _ (List.map_congr_left fun j _ => by simp only [Function.comp_apply]; omega)
    rw [putBytes, ih, hkeys, putAt, hput]

/-! ### Groups that a change maps one by one -/

/-- Every group has become `F` of it, where `R` ties the two. -/
def MapsGroups (R : Group → Group → Prop) (s t : State) : Prop := ∃ F : Group → Group, t.groups = s.groups.map F ∧ ∀ g, R g (F g)

theorem MapsGroups.refl {R : Group → Group → Prop} (h : ∀ g, R g g) {s t : State} (e : t.groups = s.groups) : MapsGroups R s t :=
  ⟨id, by simpa using e, h⟩

theorem MapsGroups.trans {R S T : Group → Group → Prop} (h : ∀ a b c, R a b → S b c → T a c) {s t u : State} (hs : MapsGroups R s t)
    (ht : MapsGroups S t u) : MapsGroups T s u := by
  obtain ⟨F, hF, hR⟩ := hs
  obtain ⟨G, hG, hS⟩ := ht
  exact ⟨G ∘ F, by rw [hG, hF, List.map_map], fun g => h _ _ _ (hR g) (hS _)⟩

theorem State.mapsGroups_onGroup {R : Group → Group → Prop} (s : State) (id : Nat) {f : Group → Group} (h : ∀ g, R g g) (hf : ∀ g, R g (f g)) :
    MapsGroups R s (s.onGroup id f) := by
  refine ⟨fun g => if g.id == id then f g else g, rfl, fun g => ?_⟩
  dsimp only
  split
  · exact hf g
  · exact h g

/-- A property of groups that the change keeps. -/
theorem MapsGroups.map_eq {R : Group → Group → Prop} {α : Type} (f : Group → α) (h : ∀ a b, R a b → f b = f a) {s t : State}
    (hs : MapsGroups R s t) : t.groups.map f = s.groups.map f := by
  obtain ⟨F, hF, hR⟩ := hs
  rw [hF, List.map_map]
  exact List.map_congr_left fun g _ => h _ _ (hR g)

/-- The group of a number after a change that keeps numbers. -/
theorem MapsGroups.group? {R : Group → Group → Prop} (h : ∀ a b, R a b → b.id = a.id) {s t : State} (hs : MapsGroups R s t) {n : Nat} {g : Group}
    (e : s.group? n = some g) : ∃ u, t.group? n = some u ∧ R g u := by
  obtain ⟨F, hF, hR⟩ := hs
  refine ⟨F g, ?_, hR g⟩
  unfold State.group? at e ⊢
  rw [hF, find?_map_key _ _ F fun x => by rw [h _ _ (hR x)], e]
  rfl

/-! ### Dirty lines -/

theorem State.dirtyLine_rest (s : State) (q : Nat) : { s.dirtyLine q with cache := s.cache } = s := by
  unfold State.dirtyLine
  split <;> rfl

/-- A write's dirty lines change the caches only. -/
theorem State.dirty_rest (s : State) (k n : Nat) : { s.dirty k n with cache := s.cache } = s := by
  unfold State.dirty
  generalize stackLines k n = l
  induction l generalizing s with
  | nil => rfl
  | cons q l ih =>
    rw [List.foldl_cons]
    exact (congrArg (fun x : State => { x with cache := s.cache }) (ih (s.dirtyLine q)) :).trans (s.dirtyLine_rest q)

/-! ### Squashed continuations -/

/-- The same group but for its continuations. -/
def Group.SameButConts (g u : Group) : Prop := { u with conts := g.conts } = g

theorem Group.sameButConts_refl (g : Group) : g.SameButConts g := rfl

theorem Group.sameButConts_trans (a b c : Group) (h : a.SameButConts b) (k : b.SameButConts c) : a.SameButConts c :=
  (congrArg (fun x : Group => { x with conts := a.conts }) k :).trans h

/-- Of the machine, only continuations have gone; they are counted, and the losses that they consumed. -/
structure Squashes (s t : State) : Prop where
  rest : { t with groups := s.groups, cores := s.cores, losses := s.losses } = s
  groups : MapsGroups Group.SameButConts s t
  cores : ∀ die site, (t.core die site).calm = (s.core die site).calm

theorem Squashes.refl (s : State) : Squashes s s := ⟨rfl, .refl Group.sameButConts_refl rfl, fun _ _ => rfl⟩

theorem Squashes.trans {s t u : State} (h : Squashes s t) (k : Squashes t u) : Squashes s u where
  rest := (congrArg (fun x : State => { x with groups := s.groups, cores := s.cores, losses := s.losses }) k.rest :).trans h.rest
  groups := h.groups.trans Group.sameButConts_trans k.groups
  cores die site := (k.cores die site).trans (h.cores die site)

theorem State.perf_rest (s : State) (die site ctx n k : Nat) : { s.perf die site ctx n k with cores := s.cores } = s := by
  unfold State.perf
  dsimp only
  split
  · unfold State.setCore
    split <;> rfl
  · rfl

theorem State.perfGroup_rest (s : State) (g : Group) (n k : Nat) : { s.perfGroup g n k with cores := s.cores } = s := by
  unfold State.perfGroup
  split
  · split
    · exact State.perf_rest ..
    · rfl
  · rfl

theorem State.squashes_perfGroup (s : State) (g : Group) (n k : Nat) : Squashes s (s.perfGroup g n k) :=
  ⟨(congrArg (fun x : State => { x with groups := s.groups, losses := s.losses }) (s.perfGroup_rest g n k) :),
    .refl Group.sameButConts_refl (s.perfGroup_groups g n k), s.perfGroup_core g n k⟩

theorem State.squashes_losses (s : State) (n : Nat) : Squashes s { s with losses := n } :=
  ⟨rfl, .refl Group.sameButConts_refl rfl, fun _ _ => rfl⟩

theorem State.squashes_countSquash (s : State) (g : Group) (cs : List Cont) : Squashes s (s.countSquash g cs) :=
  (s.squashes_perfGroup g 5 cs.length).trans (State.squashes_losses _ _)

/-- Continuations of one group go. -/
theorem State.squashes_onGroup (s : State) (id : Nat) (f : Group → List Cont) : Squashes s (s.onGroup id fun h => { h with conts := f h }) :=
  ⟨rfl, s.mapsGroups_onGroup id Group.sameButConts_refl fun _ => rfl, fun _ _ => rfl⟩

theorem State.squashes_squashIf (s : State) (p : Group → Cont → Bool) : Squashes s (s.squashIf p) := by
  unfold State.squashIf
  suffices h : ∀ (l : List Group) (st : State), Squashes s st → Squashes s (l.foldl (fun st g =>
      let dead := g.conts.filter (p g)
      if dead = [] then st else (st.onGroup g.id fun h => { h with conts := h.conts.filter fun c => !p g c }).countSquash g dead) st) from
    h _ s (.refl s)
  intro l
  induction l with
  | nil => exact fun _ h => h
  | cons g l ih =>
    refine fun st h => ih _ ?_
    dsimp only
    split
    · exact h
    · exact h.trans ((st.squashes_onGroup g.id _).trans (State.squashes_countSquash _ g _))

theorem State.squashes_squashAll (s : State) (grp : Nat) : Squashes s (s.squashAll grp) := by
  unfold State.squashAll
  split
  · exact .refl s
  · split
    · exact .refl s
    · exact (s.squashes_onGroup grp _).trans (State.squashes_countSquash _ _ _)

/-! ### Woken teams -/

/-- Of the machine, teams have been woken, and moved in their dies' queues. -/
structure Wakens (s t : State) : Prop where
  rest : { t with teams := s.teams, dies := s.dies } = s
  teams : ∃ F : Team → Team, t.teams = s.teams.map F ∧ ∀ x, { F x with woken := x.woken, wakeSet := x.wakeSet } = x

theorem Wakens.refl (s : State) : Wakens s s := ⟨rfl, id, by simp, fun _ => rfl⟩

theorem Wakens.trans {s t u : State} (h : Wakens s t) (k : Wakens t u) : Wakens s u where
  rest := (congrArg (fun x : State => { x with teams := s.teams, dies := s.dies }) k.rest :).trans h.rest
  teams := by
    obtain ⟨F, hF, hf⟩ := h.teams
    obtain ⟨G, hG, hg⟩ := k.teams
    exact ⟨G ∘ F, by rw [hG, hF, List.map_map],
      fun x => (congrArg (fun y : Team => { y with woken := x.woken, wakeSet := x.wakeSet }) (hg (F x)) :).trans (hf x)⟩

theorem State.wakens_wakeTeam (s : State) (team : Nat) : Wakens s (s.wakeTeam team) := by
  refine ⟨rfl, fun x => if x.id == team then { x with woken := true, wakeSet := [] } else x, rfl, fun x => ?_⟩
  dsimp only
  split <;> rfl

theorem State.wakens_fireWake (s : State) (hit : WakeOn → Bool) : Wakens s (s.fireWake hit) := by
  unfold State.fireWake
  dsimp only
  split
  · exact .refl s
  · generalize wokenBy s hit = l
    suffices h : ∀ (l : List Nat) (st : State), Wakens s st → Wakens s (l.foldl State.wakeTeam st) from h l s (.refl s)
    intro l
    induction l with
    | nil => exact fun _ h => h
    | cons x l ih => exact fun st h => ih _ (h.trans (st.wakens_wakeTeam x))

/-! ### The write event (R293, R295, R279, R297, R375) -/

/-- What a write of n bytes at a key leaves of a group: its cairn and its recognised spins are hit, and continuations may be gone. -/
def Group.Fired (k n : Nat) (g u : Group) : Prop := { u with conts := g.conts } = g.firedBy k n

/-- A state with what write events change taken from another. -/
def State.unwritten (t s : State) : State :=
  { t with
    mem := s.mem, lost := s.lost, cache := s.cache, groups := s.groups, teams := s.teams, dies := s.dies, cores := s.cores, losses := s.losses }

/-- What a write event changes, and how. -/
structure WriteEvent (s t : State) (k : Nat) (bs : List Byte) : Prop where
  mem : t.mem = putBytes s.mem k bs
  lost : t.lost = lostAfter s.lost k bs.length
  rest : t.unwritten s = s
  groups : MapsGroups (Group.Fired k bs.length) s t
  teams : ∃ F : Team → Team, t.teams = s.teams.map F ∧ ∀ x, { F x with woken := x.woken, wakeSet := x.wakeSet } = x
  cores : ∀ die site, (t.core die site).calm = (s.core die site).calm

/-- A write is a write event. -/
theorem State.writeEvent_store (s : State) (k : Nat) (bs : List Byte) : WriteEvent s (s.store k bs) k bs := by
  have hd := s.dirty_rest k bs.length
  unfold State.store State.squashTracked
  dsimp only
  generalize s.dirty k bs.length = d at hd ⊢
  obtain ⟨c, rfl⟩ : ∃ c, d = { s with cache := c } := ⟨d.cache, by rw [← hd]⟩
  dsimp only
  generalize hw : ({ s with mem := _, lost := _, cache := _, groups := _ } : State) = w
  have hs := w.squashes_squashIf fun _ c => c.hitBy k bs.length
  generalize w.squashIf (fun _ c => c.hitBy k bs.length) = q at hs ⊢
  have hf := q.wakens_fireWake fun w => match w with | .line l => touches k bs.length l | _ => false
  generalize q.fireWake _ = t at hf ⊢
  have hqt : t.mem = q.mem ∧ t.lost = q.lost ∧ t.groups = q.groups ∧ t.cores = q.cores := by rw [← hf.rest]; exact ⟨rfl, rfl, rfl, rfl⟩
  have hwq : q.mem = w.mem ∧ q.lost = w.lost ∧ q.teams = w.teams := by rw [← hs.rest]; exact ⟨rfl, rfl, rfl⟩
  subst hw
  refine ⟨hqt.1.trans hwq.1, hqt.2.1.trans hwq.2.1, ?_, ?_, ?_, ?_⟩
  · exact (congrArg (fun x : State => x.unwritten s) hf.rest :).trans (congrArg (fun x : State => x.unwritten s) hs.rest :)
  · obtain ⟨F, hF, hR⟩ := hs.groups
    refine ⟨F ∘ fun g => g.firedBy k bs.length, ?_, fun g => ?_⟩
    · rw [hqt.2.2.1, hF, List.map_map]
    · exact (hR (g.firedBy k bs.length))
  · obtain ⟨F, hF, hR⟩ := hf.teams
    exact ⟨F, by rw [hF, hwq.2.2], hR⟩
  · intro die site
    have : t.core die site = q.core die site := by unfold State.core; rw [hqt.2.2.2]
    rw [this, hs.cores]
    rfl

theorem State.store_mem (s : State) (k : Nat) (bs : List Byte) : (s.store k bs).mem = putBytes s.mem k bs := (s.writeEvent_store k bs).mem

/-- What a byte reads as after a write event. -/
theorem State.byte_store (s : State) (k : Nat) (bs : List Byte) :
    (s.store k bs).byte = putAt s.byte ((List.range bs.length).map fun j => k + j) bs := by
  funext q
  unfold State.byte
  rw [State.store_mem]
  exact look_putBytes_eq_putAt s.mem k bs q

theorem mem_lostAfter (l : List Nat) (k n q : Nat) : q ∈ lostAfter l k n ↔ q ∈ l ∧ ¬(k ≤ 64 * q ∧ 64 * q + 64 ≤ k + n) := by
  rw [lostAfter, List.mem_filter]
  simp only [Bool.not_eq_true', Bool.and_eq_false_iff, decide_eq_false_iff_not]
  tauto

/-- Settles O53: the three parts of a write event. -/
theorem storeEvent : Obligations.StoreEvent := by
  intro s k bs
  have w := s.writeEvent_store k bs
  refine ⟨fun q => congrFun (s.byte_store k bs) q, ?_, fun q => by rw [w.lost, mem_lostAfter]⟩
  obtain ⟨F, hF, hR⟩ := w.groups
  rw [hF, List.map_map]
  refine List.map_congr_left fun g _ => ?_
  have hc : (F g).cairn = (g.firedBy k bs.length).cairn := (congrArg Group.cairn (hR g) :)
  simp only [Function.comp_apply, hc, Group.firedBy, overlaps, Bool.and_eq_true, decide_eq_true_eq]

end Sys2Proof.Machine
end

section
/-!
SUPPORT. Instructions that complete, or wait, and change more than their group: barriers and watches (R289-R292, R301), engine commands
(R198, R202), launches, `tfence` and hand-overs (R156, R314, R381), matrix instructions (R225, R231-R238), and register blocks (R241, R242).
-/
namespace Sys2Proof.Machine

/-! ### The issuing group and its team -/

/-- A path that issues belongs to a team that runs. -/
theorem State.here_team {s : State} {h : Here} (e : s.here = some h) : s.team? h.g.team = some h.t ∧ h.t.runs = true ∧ h.g.runs = true := by
  unfold State.here at e
  split at e
  · cases e
  · split at e
    · next hteam _ =>
      split at e
      · next hruns =>
        cases e
        simp only [Bool.and_eq_true] at hruns
        exact ⟨hteam, hruns.1⟩
      · cases e
    · cases e

theorem State.here_teamId {s : State} {h : Here} (e : s.here = some h) : h.t.id = h.g.team := by
  have := List.find?_some (State.here_team e).1
  simpa using this

theorem State.here_ctx {s : State} {h : Here} (e : s.here = some h) : s.teamCtx h.g.team = s.hereCtx h := by
  unfold State.teamCtx State.hereCtx
  rw [(State.here_team e).1]
  rfl

/-! ### What accounting leaves -/

/-- From `w` to `t` an instruction was counted, and its cycle passed. -/
structure Accounted (w t : State) (grp : Nat) : Prop where
  only : OnlyGroup w t grp
  losses : t.losses = w.losses
  group : ∀ v, w.group? grp = some v → ∃ u, t.group? grp = some u ∧ u.arch = v.arch ∧ { u with conts := v.conts } = v

theorem State.accounted_account (w : State) (h : Here) (i : Instr) (act : Word) : Accounted w (w.account h i act) h.g.id :=
  ⟨(w.within_account h i act).only, (congrArg State.losses (w.account_fields h i act) :), fun _ e => w.account_group h i act e⟩

/-- The bytes of memory are those before the accounting. -/
theorem OnlyGroup.mem {s t : State} {grp : Nat} (h : OnlyGroup s t grp) : t.mem = s.mem := (congrArg State.mem h.rest :)

theorem OnlyGroup.byte {s t : State} {grp : Nat} (h : OnlyGroup s t grp) : t.byte = s.byte := by
  funext k
  unfold State.byte
  rw [h.mem]

/-- A change of fields that no group, team or core is among, made before and after. -/
theorem OnlyGroup.under {s t : State} {grp : Nat} (h : OnlyGroup s t grp) (F : State → State)
    (hg : ∀ x, (F x).groups = x.groups) (ht : ∀ x, (F x).teams = x.teams)
    (hc : ∀ x, (F x).cores = x.cores)
    (hr : ∀ x g t c f l, ({ F x with groups := g, teams := t, cores := c, free := f, losses := l } : State) =
      F { x with groups := g, teams := t, cores := c, free := f, losses := l })
    (hs : ∀ x : State, (F x).free = x.free ∧ (F x).losses = x.losses) : OnlyGroup (F s) (F t) grp where
  rest := by rw [hr, hg, ht, hc, (hs s).1, (hs s).2, h.rest]
  others := by rw [hg, hg]; exact h.others
  teams := by rw [ht, ht]; exact h.teams
  cores die site := by
    have e : ∀ x : State, (F x).core die site = x.core die site := fun x => by unfold State.core; rw [hc]
    rw [e, e]; exact h.cores die site

/-! ### An instruction that has its effect -/

/-- Clear, and not kept by its own rules, an instruction retires, acts and is counted. -/
theorem completes_of_plan {i : Instr} {e : Effect} {p : Plan} (he : ∀ s, exec i s = run i p s)
    (hp : p.guard = e.guard ∧ p.uses = e.uses ∧ p.raises = e.raises) (hok : ∀ s h, s.here = some h → e.ok s h → p.Proceeds s h)
    (hpost : ∀ s h, s.here = some h → e.ok s h → ∀ t, Accounted (p.act h (s.retire h i p)) t h.g.id →
      ∃ u, t.group? h.g.id = some u ∧ e.post s h t u) : Completes i e := by
  obtain ⟨hguard, huses, hraises⟩ := hp
  have hall : p.allUses = e.allUses := by rw [Plan.allUses, Effect.allUses, hguard, huses]
  intro s h c ok
  have q := hok s h c.here ok
  have hrun := run_effect (p := p) (by rwa [hall, hraises]) q.stall q.early q.late q.hold q.loss
  obtain ⟨u, hu, hpost⟩ := hpost s h c.here ok _ (State.accounted_account _ h i (h.active p.guard))
  exact ⟨_, u, (he s).trans hrun, hu, hpost⟩

/-- The group behind an instruction that has issued, before the effect. -/
theorem State.retire_group {s : State} {h : Here} (e : s.here = some h) (i : Instr) (p : Plan) :
    ∃ v, (s.retire h i p).group? h.g.id = some v ∧ v.arch = h.behind i p.allUses (h.active p.guard) ∧ v.sameRest h.g := by
  obtain ⟨v, hv, ha, hr⟩ := (s.within_retire h i p).group h.g (State.here_group e)
  exact ⟨v, hv, ha, hr⟩

/-! ### An instruction that waits -/

/-- Clear, and held by its own rule, an instruction waits as that rule says. -/
theorem run_hold {s : State} {h : Here} {i : Instr} {p : Plan} {f : State → State} (c : Clear s h i p.allUses p.raises)
    (hs : p.stall s h = false) (he : p.early s h = none) (hl : p.late s h = none) (hh : p.hold s h = some f) :
    run i p s = .next (((f s).parkTest h.g.id).tick h.t) := by
  have hn : ¬(p.raises = .ka false ∧ h.p.counter p.raises = none) := fun q => c.named q.1 q.2
  have hf : s.issueFault h i p = none := by
    unfold State.issueFault
    simp only [c.length, he, hl, c.regs, Bool.false_eq_true, if_false, Bool.and_eq_true, decide_eq_true_eq, if_neg hn]
    rfl
  unfold run
  simp only [c.here, hs, hf, hh, Bool.false_eq_true, if_false]

theorem State.onlyGroup_tick (s : State) (t : Team) (grp : Nat) : OnlyGroup s (s.tick t) grp where
  rest := by
    have hf : { s.tick t with groups := s.groups, teams := s.teams, cores := s.cores, free := s.free } = s :=
      State.same_but_counts (by simp)
    exact (congrArg (fun x : State => { x with losses := s.losses }) hf :)
  others := by rw [State.tick_groups]
  teams := by rw [State.tick_teams]
  cores := s.tick_core t

/-- The test of R333 changes nothing where the group is not fault-parked, or its context names no share. -/
theorem State.parkTest_eq {w : State} {grp : Nat} {g : Group} (hg : w.group? grp = some g)
    (hk : w.fpshare (w.teamCtx g.team) = 0 ∨ w.faultParked g = false) : w.parkTest grp = w := by
  unfold State.parkTest
  rw [hg]
  dsimp only
  rcases hk with hk | hk
  · unfold State.shareTest
    cases w.ctx? (w.teamCtx g.team) with
    | none => simp
    | some c => simp [hk]
  · simp [hk]

/-- The group with its issuing path parked. -/
def Here.parked (h : Here) (k : Park) : Group := { h.g with arch := h.a.setPath h.slot (some { h.p with park := some k }) }

theorem State.group?_park {s : State} {h : Here} (e : s.here = some h) (k : Park) :
    (s.park h.g.id h.slot (some k)).group? h.g.id = some (h.parked k) := by
  unfold State.park State.onPath
  rw [State.group?_onArch, State.here_group e]
  have hp : h.g.arch.path h.slot = some h.p := State.here_path e
  simp only [Option.map_some, hp]
  rfl

/-- Where the group is parked so, and its share is kept, the test of R333 changes nothing, and a cycle passes. -/
theorem State.parked_tick {w : State} {h : Here} {k : Park} (hg : w.group? h.g.id = some (h.parked k))
    (hk : w.fpshare (w.teamCtx h.g.team) = 0 ∨ w.faultParked (h.parked k) = false) :
    ((w.parkTest h.g.id).tick h.t).group? h.g.id = some (h.parked k) ∧ OnlyGroup w ((w.parkTest h.g.id).tick h.t) h.g.id := by
  rw [State.parkTest_eq hg hk]
  exact ⟨(State.group?_congr (State.tick_groups _ _) _).trans hg, State.onlyGroup_tick _ h.t h.g.id⟩

/-- The share of a context reads alike once the path is parked. -/
theorem State.keepsShare_park {s : State} {h : Here} {k : Park} (e : s.here = some h) (hk : KeepsShare s h k) :
    (s.park h.g.id h.slot (some k)).fpshare ((s.park h.g.id h.slot (some k)).teamCtx h.g.team) = 0 ∨
      (s.park h.g.id h.slot (some k)).faultParked (h.parked k) = false := by
  have hctx : (s.park h.g.id h.slot (some k)).fpshare ((s.park h.g.id h.slot (some k)).teamCtx h.g.team) = s.fpshare (s.hereCtx h) :=
    (congrArg s.fpshare (State.here_ctx e) :)
  rw [hctx]
  exact hk

theorem State.onlyGroup_park (s : State) (grp : Nat) (slot : Bool) (k : Option Park) : OnlyGroup s (s.park grp slot k) grp := by
  unfold State.park State.onPath
  exact (State.within_onArch s grp _).only

/-- An instruction that parks its path and does nothing else. -/
theorem parks_of_park {s : State} {h : Here} {k : Park} (e : s.here = some h) (hk : KeepsShare s h k) :
    ∃ u, (((s.park h.g.id h.slot (some k)).parkTest h.g.id).tick h.t).group? h.g.id = some u ∧
      Parks s h k (((s.park h.g.id h.slot (some k)).parkTest h.g.id).tick h.t) u := by
  obtain ⟨hu, honly⟩ := State.parked_tick (State.group?_park e k) (State.keepsShare_park e hk)
  exact ⟨_, hu, rfl, (s.onlyGroup_park _ _ _).trans honly⟩

/-! ### Barriers (R289, R301) -/

/-- A barrier instruction of the barrier's plan parks its path. -/
theorem completes_bar {i : Instr} {p : Plan} {us : List Use} {late : State → Here → Option Report} {key : Here → BarKind × Nat × Nat}
    {hold : Bool} {ok : State → Here → Prop} (he : ∀ s, exec i s = run i p s) (hp : p.guard = 7 ∧ p.uses = us ∧ p.raises = .nothing)
    (hs : ∀ s h, p.stall s h = false ∧ p.early s h = none) (hh : p.hold = (barPlan us late key hold).hold)
    (hl : ∀ s h, ok s h → h.barMismatch ((key h).1, (key h).2.1, (key h).2.2, if (key h).1 = .named then false else hold) = false →
      p.late s h = none) :
    Completes i
      { uses := us
        ok := fun s h => ok s h ∧ h.barMismatch ((key h).1, (key h).2.1, (key h).2.2, if (key h).1 = .named then false else hold) = false ∧
          (s.park h.g.id h.slot (some (.bar (key h).1 (key h).2.1 (key h).2.2 hold false 0))).barDeadlock h.t.id = none ∧
          KeepsShare s h (.bar (key h).1 (key h).2.1 (key h).2.2 hold false 0)
        post := fun s h t u => Parks s h (.bar (key h).1 (key h).2.1 (key h).2.2 hold false 0) t u } := by
  obtain ⟨hguard, huses, hraises⟩ := hp
  rintro s h c ⟨hok, hmis, hdead, hshare⟩
  have hall : p.allUses = us := by rw [Plan.allUses, hguard, huses]; rfl
  obtain ⟨u, hu, hparks⟩ := parks_of_park c.here hshare
  refine ⟨_, u, ?_, hu, hparks⟩
  rw [he]
  have hrun := run_hold (p := p) (f := fun s =>
      let s := s.park h.g.id h.slot (some (.bar (key h).1 (key h).2.1 (key h).2.2 hold false 0))
      match s.barDeadlock h.t.id with
      | some m => s.raise h.g h.slot h.p.pc h.p.iword { kind := .barrierDeadlock, addr := BitVec.ofNat 64 m }
      | none => s) (by rw [hall, hraises]; exact c) (hs s h).1 (hs s h).2 (hl s h hok hmis) (by rw [hh]; rfl)
  rw [hrun]
  dsimp only
  rw [hdead]

/-- `tbar` (R288, R289): its barrier is one of the team's, and its count one that the live groups can reach. -/
theorem completes_tbar {i : Instr} (c : BitVec 6) (n : BitVec 4) (hold : Bool) (he : ∀ s, exec i s = run i (tbarPlan c n hold) s)
    {e : Effect} (hb : barrierEffect i = some e)
    (hi : barrierEffect i = barrierEffect (if hold then .tbarHold c n else .tbarPass c n)) : Completes i e := by
  have hplan : ∀ s h, n.toNat < h.t.bars.length ∧ c.toNat ≤ (s.liveGroups h.t.id).length →
      h.barMismatch (.named, n.toNat, c.toNat, if BarKind.named = .named then false else hold) = false → (tbarPlan c n hold).late s h = none := by
    rintro s h ⟨hn, hc⟩ hm
    have hn' : ¬h.t.bars.length ≤ n.toNat := by omega
    have hc' : ¬(s.liveGroups h.t.id).length < c.toNat := by omega
    unfold tbarPlan barPlan
    dsimp only
    rw [if_neg hn', if_neg hc', hm]
    rfl
  have hcomp := completes_bar (late := fun _ h =>
      if h.t.bars.length ≤ n.toNat then some { kind := .bounds, addr := BitVec.ofNat 64 n.toNat } else none) (key := fun _ => (.named, n.toNat, c.toNat))
    (hold := hold) he ⟨rfl, rfl, rfl⟩ (fun _ _ => ⟨rfl, rfl⟩) rfl hplan
  cases hold <;> (rw [hi] at hb; cases hb; exact hcomp)

/-- A barrier of the grid's slots (R301): its slot is one that the grid has. -/
theorem completes_slot {i : Instr} (k : BarKind) (a : SReg) (hold : Bool) (he : ∀ s, exec i s = run i (slotPlan k a hold) s) :
    Completes i
      { uses := srcS a
        ok := fun s h => (∃ g, s.grid? h.t.grid = some g ∧ (h.a.getS a.toNat).toNat < g.desc.gbar) ∧
          h.barMismatch (k, (h.a.getS a.toNat).toNat, 0, if k = .named then false else hold) = false ∧
          (s.park h.g.id h.slot (some (.bar k (h.a.getS a.toNat).toNat 0 hold false 0))).barDeadlock h.t.id = none ∧
          KeepsShare s h (.bar k (h.a.getS a.toNat).toNat 0 hold false 0)
        post := fun s h t u => Parks s h (.bar k (h.a.getS a.toNat).toNat 0 hold false 0) t u } := by
  refine completes_bar (key := fun h => (k, (h.a.getS a.toNat).toNat, 0)) he ⟨rfl, rfl, rfl⟩ (fun _ _ => ⟨rfl, rfl⟩) rfl ?_
  rintro s h ⟨g, hg, hj⟩ hm
  have hj' : ¬g.desc.gbar ≤ (h.a.getS a.toNat).toNat := by omega
  simp only [slotPlan, barPlan, hg, Option.map_some, Option.getD_some, hj', hm, if_false, Bool.false_eq_true]
  rfl

theorem completes_of_barrierEffect (i : Instr) (e : Effect) (h : barrierEffect i = some e) : Completes i e := by
  cases i with
  | tbarPass c n => exact completes_tbar c n false (fun _ => rfl) h rfl
  | tbarHold c n => exact completes_tbar c n true (fun _ => rfl) h rfl
  | gbarHold a => cases h; exact completes_slot .grid a true fun _ => rfl
  | gbarPass a => cases h; exact completes_slot .grid a false fun _ => rfl
  | cbarHold a => cases h; exact completes_slot .cluster a true fun _ => rfl
  | cbarPass a => cases h; exact completes_slot .cluster a false fun _ => rfl
  | _ => cases h

/-! ### Watches (R291, R292) -/

/-- An instruction that changes the cairn of its group, and nothing else of it. -/
theorem completes_cairn {i : Instr} {a : SReg} {ok : State → Here → Prop} {f : State → Here → Option Cairn} {p : Plan}
    (he : ∀ s, exec i s = run i p s) (hp : p.guard = 7 ∧ p.uses = srcS a ∧ p.raises = .nothing) (hok : ∀ s h, s.here = some h → ok s h → p.Proceeds s h)
    (k : Here → State → Group → Option Cairn) (hact : ∀ h st, p.act h st = st.onGroup h.g.id fun g => { g with cairn := k h st g })
    (hk : ∀ s h v, s.here = some h → ok s h → v.cairn = h.g.cairn → k h (s.retire h i p) v = f s h) :
    Completes i { uses := srcS a, ok := ok, post := fun s h t u => LeavesCairn h i (srcS a) (f s h) u ∧ OnlyGroup s t h.g.id } := by
  refine completes_of_plan he hp hok fun s h e ok t acc => ?_
  obtain ⟨hguard, huses, -⟩ := hp
  have hall : p.allUses = srcS a := by rw [Plan.allUses, hguard, huses]; rfl
  obtain ⟨v, hv, hva, hvr⟩ := State.retire_group e i p
  have hcairn : v.cairn = h.g.cairn := (congrArg Group.cairn hvr :)
  have hw : (p.act h (s.retire h i p)).group? h.g.id = some { v with cairn := f s h } := by
    have hmap := State.group?_onGroup (s.retire h i p) h.g.id (fun g => { g with cairn := k h (s.retire h i p) g }) fun _ => rfl
    rw [hact, hmap, hv]
    simp only [Option.map_some]
    rw [hk s h v e ok hcairn]
  obtain ⟨u, hu, hua, hur⟩ := acc.group _ hw
  refine ⟨u, hu, ⟨?_, ?_, ?_⟩, ?_⟩
  · exact (congrArg Group.cairn hur :)
  · rw [hua]
    exact hva.trans (by rw [hall, hguard, Here.active_seven])
  · have h1 : { u with arch := h.g.arch, detector := h.g.detector, conts := h.g.conts, cairn := h.g.cairn } =
        { v with arch := h.g.arch, detector := h.g.detector, conts := h.g.conts, cairn := h.g.cairn } :=
      (congrArg (fun x : Group => { x with arch := h.g.arch, detector := h.g.detector, conts := h.g.conts, cairn := h.g.cairn }) hur :)
    exact h1.trans (congrArg (fun x : Group => { x with cairn := h.g.cairn }) hvr :)
  · refine ((s.within_retire h i p).only.trans ?_).trans acc.only
    rw [hact]
    refine ⟨rfl, State.onGroup_others _ _ _ ?_, rfl, fun _ _ => rfl⟩
    exact fun _ => rfl

/-- The plan of `watch`. -/
def watchPlan (a : SReg) (sp : WatchSpace) : Plan :=
  { uses := srcS a
    late := fun s h =>
      let o := (h.a.getS a.toNat).toNat
      let addr := BitVec.ofNat 64 o
      if (WatchSpace.space sp).isNone then some { kind := .watchSpace, addr := addr }
      else if o % 8 != 0 then some { kind := .align, addr := addr }
      else
        (if sp = .d then recordLost (s.windowLoss h.t o) o else none)
          <|> if (s.watchKey h.t sp o).isNone then some { kind := .bounds, addr := addr } else none
    act := fun h s =>
      let o := (h.a.getS a.toNat).toNat
      s.onGroup h.g.id fun g =>
        { g with cairn := some ⟨(WatchSpace.space sp).getD .team, o, (s.watchKey h.t sp o).getD 0, false⟩ } }

/-- The plan of `wait.w`. -/
def waitWPlan (a : SReg) : Plan :=
  { uses := srcS a
    hold := fun _ h =>
      let o := (h.a.getS a.toNat).toNat
      if h.g.cairn.any fun c => c.off == o && !c.fired then some fun s => s.park h.g.id h.slot (some (.cairn o)) else none
    act := fun h s =>
      s.onGroup h.g.id fun g =>
        { g with cairn := g.cairn.map fun c => if c.off = (h.a.getS a.toNat).toNat then { c with fired := false } else c } }

/-- A watched word's space, where it has a key (R292). -/
theorem WatchSpace.space_of_key {s : State} {t : Team} {w : WatchSpace} {off : Nat} (h : (s.watchKey t w off).isSome = true) :
    WatchSpace.space w = some (if w = .t then .team else .die) := by
  cases w with
  | t => rfl
  | d => rfl
  | _ => cases h

theorem watch_proceeds {s : State} {h : Here} {a : SReg} {sp : WatchSpace} (halign : (h.a.getS a.toNat).toNat % 8 = 0)
    (hloss : sp = .d → s.windowLoss h.t (h.a.getS a.toNat).toNat = none) (hkey : (s.watchKey h.t sp (h.a.getS a.toNat).toNat).isSome = true) :
    (watchPlan a sp).Proceeds s h := by
  have hspace : ¬(WatchSpace.space sp).isNone = true := by rw [WatchSpace.space_of_key hkey]; nofun
  have ha : ¬((h.a.getS a.toNat).toNat % 8 != 0) = true := by simp [halign]
  have hk : ¬(s.watchKey h.t sp (h.a.getS a.toNat).toNat).isNone = true := by simpa [Option.isNone_iff_eq_none, ← Option.isSome_iff_ne_none] using hkey
  have hw : (if sp = .d then recordLost (s.windowLoss h.t (h.a.getS a.toNat).toNat) (h.a.getS a.toNat).toNat else none) = none := by
    split
    · next hd => rw [hloss hd]; rfl
    · rfl
  refine ⟨rfl, rfl, ?_, rfl, rfl⟩
  unfold watchPlan
  dsimp only
  rw [if_neg hspace, if_neg ha, if_neg hk, hw]
  rfl

/-- The hold of `wait.w`: the cairn names the word, and has not fired (R292). -/
theorem waitW_unfired (h : Here) (a : SReg) :
    (h.g.cairn.any fun c => c.off == (h.a.getS a.toNat).toNat && !c.fired) = true ↔
      ∃ c ∈ h.g.cairn, c.off = (h.a.getS a.toNat).toNat ∧ c.fired = false := by
  cases h.g.cairn <;> simp

theorem Option.filter_bne_eq_ite (c : Option Cairn) (o : Nat) : (c.filter fun c => c.off != o) = if c.any fun c => c.off == o then none else c := by
  cases c with
  | none => rfl
  | some c => by_cases h : c.off = o <;> simp [Option.filter, h]

theorem completes_of_watchEffect (i : Instr) (e : Effect) (h : watchEffect i = some e) : Completes i e := by
  cases i with
  | watch a sp =>
    cases h
    refine completes_cairn (p := watchPlan a sp) (fun _ => rfl) ⟨rfl, rfl, rfl⟩ (fun s h e ok => watch_proceeds ok.1 ok.2.1 ok.2.2)
      (fun h st _ => some ⟨(WatchSpace.space sp).getD .team, (h.a.getS a.toNat).toNat, (st.watchKey h.t sp (h.a.getS a.toNat).toNat).getD 0, false⟩) (fun _ _ => rfl) ?_
    rintro s h v e ⟨-, -, hkey⟩ -
    have hsame : (s.retire h (.watch a sp) (watchPlan a sp)).watchKey h.t sp (h.a.getS a.toNat).toNat = s.watchKey h.t sp (h.a.getS a.toNat).toNat := rfl
    rw [hsame, WatchSpace.space_of_key hkey]
    obtain ⟨k, hk⟩ := Option.isSome_iff_exists.mp hkey
    rw [hk]
    rfl
  | unwatch a =>
    cases h
    refine completes_cairn (fun _ => rfl) ⟨rfl, rfl, rfl⟩ (fun _ _ _ _ => ⟨rfl, rfl, rfl, rfl, rfl⟩) _ (fun _ _ => rfl) ?_
    intro s h v e _ hv
    rw [hv]
    exact Option.filter_bne_eq_ite _ _
  | waitW a =>
    cases h
    refine completes_cairn (p := waitWPlan a) (fun _ => rfl) ⟨rfl, rfl, rfl⟩ ?_
      (fun h _ g => g.cairn.map fun c => if c.off = (h.a.getS a.toNat).toNat then { c with fired := false } else c) (fun _ _ => rfl) ?_
    · intro s h e ok
      have hn : ¬(h.g.cairn.any fun c => c.off == (h.a.getS a.toNat).toNat && !c.fired) = true := by
        rw [waitW_unfired]
        rintro ⟨c, hc, ho, hf⟩
        rw [ok c hc ho] at hf
        cases hf
      exact ⟨rfl, rfl, rfl, if_neg hn, rfl⟩
    · intro s h v e _ hv
      rw [hv]
  | _ => cases h

/-- `wait.w` on a word whose cairn has not fired parks its path (R292). -/
theorem completes_waitW_parks (a : SReg) : Completes (.waitW a) (waitWParkEffect a) := by
  rintro s h c ⟨hcairn, hshare⟩
  obtain ⟨u, hu, hparks⟩ := parks_of_park c.here hshare
  exact ⟨_, u, run_hold (i := .waitW a) (p := waitWPlan a) c rfl rfl rfl (if_pos ((waitW_unfired h a).mpr hcairn)), hu, hparks⟩

/-- Settles O16: barrier instructions park, `watch`, `unwatch` and `wait.w` change the cairn, and an unfired cairn parks. -/
theorem barriersAndWatches : Obligations.BarriersAndWatches := by
  unfold Obligations.BarriersAndWatches
  exact ⟨completes_of_barrierEffect, completes_of_watchEffect, completes_waitW_parks⟩

/-! ### What an instruction changes outside its group -/

/-- `M` puts back what an instruction changes outside its group: it leaves the groups, and states that differ within a group alone still do
so behind it. -/
structure Restores (M : State → State) (grp : Nat) : Prop where
  groups : ∀ x, (M x).groups = x.groups
  only : ∀ x y, OnlyGroup x y grp → OnlyGroup (M x) (M y) grp

theorem Restores.id (grp : Nat) : Restores (fun x => x) grp := ⟨fun _ => rfl, fun _ _ h => h⟩

theorem Restores.comp {M N : State → State} {grp : Nat} (h : Restores M grp) (k : Restores N grp) : Restores (fun x => M (N x)) grp :=
  ⟨fun x => (h.groups _).trans (k.groups x), fun x y e => h.only _ _ (k.only x y e)⟩

theorem Restores.threads (ts : List Thread) (n grp : Nat) : Restores (fun x => { x with threads := ts, nextThread := n }) grp :=
  ⟨fun _ => rfl, fun _ _ h => h.under (fun x => { x with threads := ts, nextThread := n }) (fun _ => rfl) (fun _ => rfl) (fun _ => rfl) (fun _ _ _ _ _ _ => rfl) fun _ => ⟨rfl, rfl⟩⟩

theorem Restores.stacks (ms : List Stack) (grp : Nat) : Restores (fun x => { x with mstacks := ms }) grp :=
  ⟨fun _ => rfl, fun _ _ h => h.under (fun x => { x with mstacks := ms }) (fun _ => rfl) (fun _ => rfl) (fun _ => rfl) (fun _ _ _ _ _ _ => rfl) fun _ => ⟨rfl, rfl⟩⟩

theorem Restores.tlb (l : List TlbEntry) (grp : Nat) : Restores (fun x => { x with tlb := l }) grp :=
  ⟨fun _ => rfl, fun _ _ h => h.under (fun x => { x with tlb := l }) (fun _ => rfl) (fun _ => rfl) (fun _ => rfl) (fun _ _ _ _ _ _ => rfl) fun _ => ⟨rfl, rfl⟩⟩

theorem Restores.fe (f : FrontEnd) (grp : Nat) : Restores (fun x => { x with fe := f }) grp :=
  ⟨fun _ => rfl, fun _ _ h => h.under (fun x => { x with fe := f }) (fun _ => rfl) (fun _ => rfl) (fun _ => rfl) (fun _ _ _ _ _ _ => rfl) fun _ => ⟨rfl, rfl⟩⟩

theorem Restores.teams (ts : List Team) (grp : Nat) : Restores (fun x => { x with teams := ts }) grp where
  groups _ := rfl
  only _ _ h :=
    { rest := (congrArg (fun z : State => { z with teams := ts }) h.rest :)
      others := h.others
      teams := rfl
      cores := h.cores }

/-- Only the list of cores changes as a core does. -/
theorem State.onCore_eq (s : State) (die site : Nat) (f : Core → Core) :
    s.onCore die site f = { s with cores := (s.onCore die site f).cores } := by
  unfold State.onCore State.setCore
  split <;> rfl

/-- An update of a core that does not read what is counted. -/
theorem Restores.core (die site : Nat) (f : Core → Core) (grp : Nat) (hn : ∀ c, (f c).die = c.die ∧ (f c).site = c.site)
    (hf : ∀ c d : Core, c.calm = d.calm → (f c).calm = (f d).calm) : Restores (fun x => x.onCore die site f) grp where
  groups x := x.onCore_groups die site f
  only x y h :=
    { rest := by
        rw [State.onCore_eq x, State.onCore_eq y]
        exact (congrArg (fun z : State => { z with cores := (x.onCore die site f).cores }) h.rest :)
      others := by rw [State.onCore_groups, State.onCore_groups]; exact h.others
      teams := by rw [State.onCore_teams, State.onCore_teams]; exact h.teams
      cores d q := by
        rw [State.core_onCore _ _ _ _ hn _ _ (x.core_name die site), State.core_onCore _ _ _ _ hn _ _ (y.core_name die site)]
        split
        · exact hf _ _ (h.cores die site)
        · exact h.cores d q }

theorem Restores.mx (die site : Nat) (m : Matrix) (grp : Nat) : Restores (fun x => x.onMx die site fun _ => m) grp :=
  .core die site _ grp (fun _ => ⟨rfl, rfl⟩) fun _ _ h => (congrArg (fun c : Core => { c with mx := m }) h :)

/-- An update of a core that keeps its name, read back. -/
theorem State.core_onCore_same (s : State) (die site : Nat) (f : Core → Core) (hf : ∀ c, (f c).die = c.die ∧ (f c).site = c.site) :
    (s.onCore die site f).core die site = f (s.core die site) := by
  rw [State.core_onCore _ _ _ _ hf _ _ (s.core_name die site), if_pos (And.intro rfl rfl)]

/-- An update of a core, put back. -/
theorem State.core_restored (s : State) (die site : Nat) (f g : Core → Core) (hf : ∀ c, (f c).die = c.die ∧ (f c).site = c.site)
    (hg : ∀ c, (g c).die = c.die ∧ (g c).site = c.site) (h : (g (f (s.core die site))).calm = (s.core die site).calm) (grp : Nat) :
    OnlyGroup s ((s.onCore die site f).onCore die site g) grp where
  rest := by
    rw [State.onCore_eq (s.onCore die site f), State.onCore_eq s]
  others := by rw [State.onCore_groups, State.onCore_groups]
  teams := by rw [State.onCore_teams, State.onCore_teams]
  cores d q := by
    have hfc : ∀ d q, (s.onCore die site f).core d q = if d = die ∧ q = site then f (s.core die site) else s.core d q :=
      fun d q => State.core_onCore _ _ _ _ hf _ _ (s.core_name die site)
    rw [State.core_onCore _ _ _ _ hg _ _ (State.core_name _ _ _), hfc die site, hfc d q, if_pos (And.intro rfl rfl)]
    split
    · next e => rw [e.1, e.2]; exact h
    · rfl

/-! ### Instructions that complete, or park, and change more than their group -/

/-- An instruction whose effect is `f` on its group's state; outside the group `M` puts its changes back, but for those that `B` makes too. -/
theorem completes_of_effect {i : Instr} {e : Effect} {p : Plan} (f : State → Here → Arch → Arch) (M B : State → Here → State → State)
    (he : ∀ s, exec i s = run i p s) (hp : p.guard = 7 ∧ e.guard = 7 ∧ p.uses = e.uses ∧ p.raises = e.raises)
    (hok : ∀ s h, s.here = some h → e.ok s h → p.Proceeds s h) (hM : ∀ s h, Restores (M s h) h.g.id)
    (hB : ∀ s h x, OnlyGroup s x h.g.id → OnlyGroup (B s h s) (B s h x) h.g.id)
    (hact : ∀ s h, s.here = some h → e.ok s h → ∀ g, (s.retire h i p).group? h.g.id = some g →
      (∃ u, (M s h (p.act h (s.retire h i p))).group? h.g.id = some u ∧ u.arch = f s h g.arch ∧ u.sameRest g) ∧
        OnlyGroup (B s h (s.retire h i p)) (M s h (p.act h (s.retire h i p))) h.g.id)
    (hpost : ∀ s h t u, s.here = some h → e.ok s h → OnlyGroup (p.act h (s.retire h i p)) t h.g.id → Leaves h i e.uses (f s h) u →
      OnlyGroup (B s h s) (M s h t) h.g.id → e.post s h t u) : Completes i e := by
  obtain ⟨hguard, heg, huses, hraises⟩ := hp
  have hall : p.allUses = e.uses := by rw [Plan.allUses, hguard, huses]; rfl
  refine completes_of_plan he ⟨hguard.trans heg.symm, huses, hraises⟩ hok fun s h here ok t acc => ?_
  obtain ⟨w, hw, hwa, hwr⟩ := State.retire_group here i p
  obtain ⟨⟨v, hv, hva, hvr⟩, honly⟩ := hact s h here ok w hw
  rw [State.group?_congr ((hM s h).groups _)] at hv
  obtain ⟨u, hu, hua, hur⟩ := acc.group v hv
  refine ⟨u, hu, hpost s h t u here ok acc.only ⟨?_, ?_⟩
    (((hB s h _ (s.within_retire h i p).only).trans honly).trans ((hM s h).only _ _ acc.only))⟩
  · rw [hua, hva, hwa, hall, hguard, Here.active_seven]
  · exact Group.sameRest_trans (congrArg (fun x : Group => { x with arch := v.arch, detector := v.detector }) hur :) (Group.sameRest_trans hvr hwr)

/-- An instruction whose effect is `f` on its group's state, and what `M` puts back. -/
theorem completes_of_within {i : Instr} {e : Effect} {p : Plan} (f : State → Here → Arch → Arch) (M : State → Here → State → State)
    (he : ∀ s, exec i s = run i p s) (hp : p.guard = 7 ∧ e.guard = 7 ∧ p.uses = e.uses ∧ p.raises = e.raises)
    (hok : ∀ s h, s.here = some h → e.ok s h → p.Proceeds s h) (hM : ∀ s h, Restores (M s h) h.g.id)
    (hact : ∀ s h, s.here = some h → e.ok s h → Within h.g.id (f s h) (s.retire h i p) (M s h (p.act h (s.retire h i p))))
    (hpost : ∀ s h t u, s.here = some h → e.ok s h → OnlyGroup (p.act h (s.retire h i p)) t h.g.id → Leaves h i e.uses (f s h) u →
      OnlyGroup s (M s h t) h.g.id → e.post s h t u) : Completes i e :=
  completes_of_effect f M (fun _ _ x => x) he hp hok hM (fun _ _ _ h => h) (fun s h here ok g hg => ⟨(hact s h here ok).group g hg, (hact s h here ok).only⟩)
    hpost

/-- An instruction that its own rule parks, by `f` on the state; `M` puts back what `f` changes besides. -/
theorem completes_of_hold {i : Instr} {e : Effect} {p : Plan} (f : State → Here → State → State) (k : State → Here → Park) (M : State → Here → State → State)
    (he : ∀ s, exec i s = run i p s) (hp : p.guard = e.guard ∧ p.uses = e.uses ∧ p.raises = e.raises)
    (hhold : ∀ s h, s.here = some h → e.ok s h → p.stall s h = false ∧ p.early s h = none ∧ p.late s h = none ∧ p.hold s h = some (f s h))
    (hM : ∀ s h, Restores (M s h) h.g.id)
    (hf : ∀ s h, s.here = some h → e.ok s h → (f s h s).group? h.g.id = some (h.parked (k s h)) ∧
      ((f s h s).fpshare ((f s h s).teamCtx h.g.team) = 0 ∨ (f s h s).faultParked (h.parked (k s h)) = false) ∧
      OnlyGroup s (M s h (f s h s)) h.g.id)
    (hpost : ∀ s h t u, s.here = some h → e.ok s h → OnlyGroup (f s h s) t h.g.id → Parks s h (k s h) (M s h t) u → e.post s h t u) :
    Completes i e := by
  obtain ⟨hguard, huses, hraises⟩ := hp
  have hall : p.allUses = e.allUses := by rw [Plan.allUses, Effect.allUses, hguard, huses]
  intro s h c ok
  obtain ⟨hstall, hearly, hlate, hh⟩ := hhold s h c.here ok
  obtain ⟨hg, hshare, honly⟩ := hf s h c.here ok
  obtain ⟨hu, hpark⟩ := State.parked_tick hg hshare
  refine ⟨_, _, (he s).trans (run_hold (by rwa [hall, hraises]) hstall hearly hlate hh), hu, ?_⟩
  exact hpost s h _ _ c.here ok hpark ⟨rfl, honly.trans ((hM s h).only _ _ hpark)⟩

/-! ### Engine commands (R198, R202) -/

theorem operandFault_eq_none {t : Team} {o align n : Nat} (ha : o % align = 0) (hn : o + n ≤ t.tmem) : operandFault t o align n = none := by
  have hk : teamMemKey t o n = some (teamKey t.id o) := if_neg (by omega)
  unfold operandFault failIf
  rw [ha, hk]
  rfl

/-- A started thread, and the rest of the state but for the group that starts it. -/
theorem starts_of_act {s st t : State} {h : Here} {i : Instr} {k : ThreadKind} {p : AccPath} {off : Nat} {launch : Bool} {f : Thread → Thread}
    {more : Thread → Prop} (hf : ∀ x, f x = { x with st := (f x).st, idx := (f x).idx, waits := (f x).waits })
    (hts : t.threads = (st.startThread h i k p off launch f).threads) (hn : t.nextThread = (st.startThread h i k p off launch f).nextThread)
    (hst : st.threads = s.threads ∧ st.nextThread = s.nextThread ∧ st.hereCtx h = s.hereCtx h)
    (hm : ∀ x, x.off = off → x.st = .fresh → more (f x)) : Starts s t h i k p more := by
  obtain ⟨hst, hnt, hctx⟩ := hst
  refine ⟨by rw [hn, ← hnt]; rfl, _, by rw [hts, ← hst]; rfl, ?_, ?_, ?_, ?_, ?_, ?_, ?_, ?_, ?_, ?_, ?_, ?_, ?_, hm _ rfl rfl⟩ <;> rw [hf]
  · exact hnt
  · exact hctx
  · rfl

/-- What an instruction changed outside its group, behind the accounting. -/
theorem OnlyGroup.threads {s t : State} {grp : Nat} (h : OnlyGroup s t grp) : t.threads = s.threads ∧ t.nextThread = s.nextThread :=
  ⟨(congrArg State.threads h.rest :), (congrArg State.nextThread h.rest :)⟩

theorem completes_command {i : Instr} {k : ThreadKind} {p : AccPath} {a : SReg} {full : State → Here → Bool}
    (he : ∀ s, exec i s = run i (commandPlan i k p a full) s)
    (hfull : ∀ s h, (k.bulk = true → s.bulkThreads h.t.die h.t.site < 256) → full s h = false) : Completes i (commandEffect i k p a) := by
  refine completes_of_within (fun _ h b => b.raise (h.p.counter .kb) { path := p }) (fun s _ x => { x with threads := s.threads, nextThread := s.nextThread })
    he ⟨rfl, rfl, rfl, rfl⟩ ?_ (fun s h => .threads _ _ _) ?_ ?_
  · rintro s h - ⟨hacq, halign, hbound, hbulk⟩
    refine ⟨hacq, rfl, operandFault_eq_none halign hbound, ?_, rfl⟩
    show holdIf full s h = none
    rw [holdIf, hfull s h hbulk]
    rfl
  · intro s h _ _
    exact State.within_onArch (s.retire h i (commandPlan i k p a full)) h.g.id _
  · intro s h t u _ _ hact hleaves honly
    refine ⟨starts_of_act (fun _ => rfl) hact.threads.1 hact.threads.2 ⟨rfl, rfl, rfl⟩ ?_, hleaves, honly⟩
    exact fun x ho hf => ⟨hf, ho⟩

theorem completes_bulk {i : Instr} {k : ThreadKind} {p : AccPath} {a : SReg} (hk : k.bulk = true) (he : ∀ s, exec i s = run i (bulkPlan i k p a) s) :
    Completes i (commandEffect i k p a) :=
  completes_command he fun _ _ hb => decide_eq_false (Nat.not_le.mpr (hb hk))

/-- Settles O12: the plan of each command starts a thread. -/
theorem engineCommands : Obligations.EngineCommands := by
  unfold Obligations.EngineCommands
  intro i e h
  cases i with
  | bcpT1 | bcpT2 | bcpT3 | bcpFill | bgsGather | bgsScatter | bamAdd | bamMin | bamMax | bamAnd | bamOr | bamXor | bamXchg | bamCas =>
    cases h
    exact completes_bulk rfl fun _ => rfl
  | collSum | collMax | collMin =>
    cases h
    exact completes_command (fun _ => rfl) fun _ _ _ => rfl
  | _ => cases h

/-! ### `lnch` (R312, R314) -/

theorem State.plq_of_only {s t : State} {grp die site : Nat} (h : OnlyGroup s t grp) : (t.core die site).plq = (s.core die site).plq :=
  (congrArg Core.plq (h.cores die site) :)

theorem State.plqWait_of_only {s t : State} {grp die site : Nat} (h : OnlyGroup s t grp) : (t.core die site).plqWait = (s.core die site).plqWait :=
  (congrArg Core.plqWait (h.cores die site) :)

/-- The list of threads and a core change independently. -/
theorem State.onCore_withThreads (s : State) (die site : Nat) (f : Core → Core) (ts : List Thread) (n : Nat) :
    { s.onCore die site f with threads := ts, nextThread := n } = { s with threads := ts, nextThread := n }.onCore die site f := by
  have hset : ∀ c, { s.setCore c with threads := ts, nextThread := n } = { s with threads := ts, nextThread := n }.setCore c := by
    intro c
    unfold State.setCore
    by_cases hc : (s.cores.any fun d => d.die == c.die && d.site == c.site) = true
    · rw [if_pos hc, if_pos hc]
    · rw [if_neg hc, if_neg hc]
  exact hset _

theorem completes_lnch (a : SReg) : Completes (.lnch a) (lnchEffect a) := by
  refine completes_of_within (fun _ h b => b.raise (h.p.counter .kb) { path := .X, launch := true })
    (fun s h x => { x with threads := s.threads, nextThread := s.nextThread }.onCore h.t.die h.t.site fun c => { c with plq := (s.core h.t.die h.t.site).plq })
    (fun _ => rfl) ⟨rfl, rfl, rfl, rfl⟩ ?_ (fun s h => ?_) ?_ ?_
  · rintro s h - ⟨hacq, halign, hbound, hroom⟩
    exact ⟨hacq, rfl, operandFault_eq_none halign hbound, if_neg (Nat.not_le.mpr hroom), rfl⟩
  · have hcore : Restores (fun x => x.onCore h.t.die h.t.site fun c => { c with plq := (s.core h.t.die h.t.site).plq }) h.g.id :=
      .core _ _ _ _ (fun _ => ⟨rfl, rfl⟩) fun _ _ e => (congrArg (fun c : Core => { c with plq := (s.core h.t.die h.t.site).plq }) e :)
    exact hcore.comp (.threads s.threads s.nextThread h.g.id)
  · intro s h _ _
    dsimp only
    rw [State.onCore_withThreads]
    refine (State.within_onArch (s.retire h (.lnch a) _) h.g.id fun b => b.raise (h.p.counter .kb) { path := .X, launch := true }).trans (.of_groups ?_ ?_)
    · rw [State.onCore_groups, State.onCore_groups]; rfl
    · refine State.core_restored _ _ _ _ _ ?_ ?_ ?_ _
      · exact fun _ => ⟨rfl, rfl⟩
      · exact fun _ => ⟨rfl, rfl⟩
      · rfl
  · intro s h t u _ _ hact hleaves honly
    refine ⟨starts_of_act (off := (h.a.getS a.toNat).toNat) (launch := true) (f := fun x => x) (fun _ => rfl) ?_ ?_ ⟨rfl, rfl, rfl⟩ ?_, ?_, hleaves, honly⟩
    · exact hact.threads.1.trans (State.onCore_threads _ _ _ _)
    · exact hact.threads.2.trans (State.onCore_nextThread _ _ _ _)
    · exact fun x ho hf => ⟨hf, ho⟩
    · rw [State.plq_of_only hact]
      dsimp only
      rw [State.core_onCore_same]
      · rfl
      · exact fun _ => ⟨rfl, rfl⟩

/-- Pieces of main memory depend on the state only through the access of each. -/
theorem State.mainRuns_congr {s t : State} {w : Walker} (h : ∀ k a n, t.access w k a n = s.access w k a n) (k : AccKind) (l : List (Nat × Nat)) :
    t.mainRuns w k l = s.mainRuns w k l := by
  induction l with
  | nil => rfl
  | cons e l ih =>
    unfold State.mainRuns
    rw [h, ih]

/-- Where a thread's access goes does not depend on the cores. -/
theorem State.place_cores (s : State) (cs : List Core) (t : Thread) (tm : Team) (sp : Nat) (k : AccKind) (a n : Nat) :
    { s with cores := cs }.place t tm sp k a n = s.place t tm sp k a n := by
  unfold State.place
  split
  · rfl
  · rfl
  · unfold State.mainPlace
    have hruns : { s with cores := cs }.mainRuns t.walker k (pagePieces a n) = s.mainRuns t.walker k (pagePieces a n) :=
      State.mainRuns_congr (s := s) (t := { s with cores := cs }) (fun _ _ _ => rfl) k _
    exact congrArg (fun x => if 2 ^ 52 < a + n then _ else x) hruns

/-- The share of a context, and whether a group is fault-parked, do not depend on the cores. -/
theorem State.share_onCore (s : State) (die site : Nat) (f : Core → Core) (team : Nat) (g : Group) :
    (s.onCore die site f).fpshare ((s.onCore die site f).teamCtx team) = s.fpshare (s.teamCtx team) ∧
      (s.onCore die site f).faultParked g = s.faultParked g := by
  rw [State.onCore_eq]
  refine ⟨rfl, ?_⟩
  unfold State.faultParked State.yetToWrite
  simp only [State.place_cores]
  rfl

theorem completes_lnch_parks (a : SReg) : Completes (.lnch a) (lnchParkEffect a) := by
  refine completes_of_hold
    (fun _ h x => (x.park h.g.id h.slot (some .lnchFull)).onCore h.t.die h.t.site fun c => { c with plqWait := c.plqWait ++ [h.g.id] })
    (fun _ _ => .lnchFull) (fun s h x => x.onCore h.t.die h.t.site fun c => { c with plqWait := (s.core h.t.die h.t.site).plqWait })
    (fun _ => rfl) ⟨rfl, rfl, rfl⟩ ?_ (fun s h => ?_) ?_ ?_
  · rintro s h - ⟨hacq, halign, hbound, hfull, -⟩
    exact ⟨hacq, rfl, operandFault_eq_none halign hbound, if_pos hfull⟩
  · exact .core _ _ _ _ (fun _ => ⟨rfl, rfl⟩) fun _ _ e =>
      (congrArg (fun c : Core => { c with plqWait := (s.core h.t.die h.t.site).plqWait }) e :)
  · rintro s h e ⟨-, -, -, -, hshare⟩
    refine ⟨(State.group?_congr (State.onCore_groups _ _ _ _) _).trans (State.group?_park e _), ?_, ?_⟩
    · obtain ⟨h1, h2⟩ := State.share_onCore (s.park h.g.id h.slot (some .lnchFull)) h.t.die h.t.site (fun c => { c with plqWait := c.plqWait ++ [h.g.id] }) h.g.team (h.parked .lnchFull)
      rw [h1, h2]
      exact State.keepsShare_park e hshare
    · refine (s.onlyGroup_park _ _ _).trans (State.core_restored _ _ _ _ _ ?_ ?_ ?_ _)
      · exact fun _ => ⟨rfl, rfl⟩
      · exact fun _ => ⟨rfl, rfl⟩
      · rfl
  · intro s h t u _ _ hact hparks
    refine ⟨?_, hparks⟩
    rw [State.plqWait_of_only hact]
    rw [State.core_onCore_same]
    · rfl
    · exact fun _ => ⟨rfl, rfl⟩

/-! ### `tfence` and `stk.hand` (R156, R381) -/

/-- The groups once the continuations of one group that `p` holds of are gone. -/
def squashStep (p : Group → Cont → Bool) (l : List Group) (g : Group) : List Group :=
  if g.conts.filter (p g) = [] then l else mapIf l (·.id == g.id) fun h => { h with conts := h.conts.filter fun c => !p g c }

theorem State.squashIf_groups (s : State) (p : Group → Cont → Bool) : (s.squashIf p).groups = s.groups.foldl (squashStep p) s.groups := by
  unfold State.squashIf
  suffices h : ∀ (l : List Group) (st : State), (l.foldl (fun st g =>
      let dead := g.conts.filter (p g)
      if dead = [] then st else (st.onGroup g.id fun h => { h with conts := h.conts.filter fun c => !p g c }).countSquash g dead) st).groups =
        l.foldl (squashStep p) st.groups from h _ s
  intro l
  induction l with
  | nil => exact fun _ => rfl
  | cons g l ih =>
    intro st
    rw [List.foldl_cons, List.foldl_cons, ih]
    congr 1
    dsimp only
    unfold squashStep
    split
    · rfl
    · exact State.perfGroup_groups _ _ _ _

/-- Among the other groups, a squash of a group's continuations is not seen. -/
theorem filter_squashStep (p : Group → Cont → Bool) (grp : Nat) (l : List Group) (g : Group) :
    (squashStep p l g).filter (fun x => x.id != grp) =
      if g.id != grp then squashStep p (l.filter fun x => x.id != grp) g else l.filter fun x => x.id != grp := by
  unfold squashStep
  split
  · split <;> rfl
  · unfold mapIf
    rw [List.filter_map]
    have hkeep : ((fun x : Group => x.id != grp) ∘ fun x => if (x.id == g.id) = true then { x with conts := x.conts.filter fun c => !p g c } else x) =
        fun x => x.id != grp := by
      funext x
      dsimp only [Function.comp]
      split <;> rfl
    rw [hkeep]
    split
    · rfl
    · next hg =>
      have hg : g.id = grp := by simpa using hg
      refine (List.map_congr_left fun x hx => ?_).trans (List.map_id _)
      have hx : x.id ≠ grp := by simpa using (List.mem_filter.mp hx).2
      rw [if_neg (by simp [hg, hx])]
      rfl

theorem filter_squashSteps (p : Group → Cont → Bool) (grp : Nat) (gs : List Group) (l : List Group) :
    (gs.foldl (squashStep p) l).filter (fun x => x.id != grp) =
      (gs.filter fun x => x.id != grp).foldl (squashStep p) (l.filter fun x => x.id != grp) := by
  induction gs generalizing l with
  | nil => rfl
  | cons g gs ih =>
    rw [List.foldl_cons, ih, filter_squashStep, List.filter_cons]
    split <;> rfl

/-- States that differ within a group alone still do so once continuations are squashed. -/
theorem OnlyGroup.squashIf {s t : State} {grp : Nat} (h : OnlyGroup s t grp) (p : Group → Cont → Bool) :
    OnlyGroup (s.squashIf p) (t.squashIf p) grp := by
  have hs := s.squashes_squashIf p
  have ht := t.squashes_squashIf p
  have hf : ∀ {x y : State}, Squashes x y → y = { x with groups := y.groups, cores := y.cores, losses := y.losses } := fun {x y} k =>
    (congrArg (fun z : State => { z with groups := y.groups, cores := y.cores, losses := y.losses }) k.rest :)
  refine ⟨?_, ?_, ?_, fun die site => ?_⟩
  · have hts : t.squashIf p = { t with groups := (t.squashIf p).groups, cores := (t.squashIf p).cores, losses := (t.squashIf p).losses } := hf ht
    have hss : s.squashIf p = { s with groups := (s.squashIf p).groups, cores := (s.squashIf p).cores, losses := (s.squashIf p).losses } := hf hs
    have hsT : (s.squashIf p).teams = s.teams := (congrArg State.teams hs.rest :)
    have hsF : (s.squashIf p).free = s.free := (congrArg State.free hs.rest :)
    rw [hts, hsT, hsF]
    refine Eq.trans ?_ hss.symm
    exact (congrArg (fun z : State => { z with groups := (s.squashIf p).groups, cores := (s.squashIf p).cores, losses := (s.squashIf p).losses }) h.rest :)
  · rw [State.squashIf_groups, State.squashIf_groups, filter_squashSteps, filter_squashSteps, h.others]
  · have hsT : (s.squashIf p).teams = s.teams := (congrArg State.teams hs.rest :)
    have htT : (t.squashIf p).teams = t.teams := (congrArg State.teams ht.rest :)
    rw [hsT, htT]
    exact h.teams
  · exact ((ht.cores die site).trans (h.cores die site)).trans (hs.cores die site).symm

/-- A squash of continuations leaves the rest of the machine. -/
theorem State.squashIf_eq (s : State) (p : Group → Cont → Bool) :
    s.squashIf p = { s with groups := (s.squashIf p).groups, cores := (s.squashIf p).cores, losses := (s.squashIf p).losses } :=
  (congrArg (fun z : State => { z with groups := (s.squashIf p).groups, cores := (s.squashIf p).cores, losses := (s.squashIf p).losses })
    (s.squashes_squashIf p).rest :)

/-- An update of a group's state once continuations have been squashed. -/
theorem State.squashIf_onArch (s : State) (p : Group → Cont → Bool) (f : Arch → Arch) {grp : Nat} {g : Group} (e : s.group? grp = some g) :
    (∃ u, ((s.squashIf p).onArch grp f).group? grp = some u ∧ u.arch = f g.arch ∧ u.sameRest g) ∧
      OnlyGroup (s.squashIf p) ((s.squashIf p).onArch grp f) grp := by
  obtain ⟨v, hv, hvg⟩ := (s.squashes_squashIf p).groups.group? (R := Group.SameButConts) (fun a b h => (congrArg Group.id h :)) e
  have w := (s.squashIf p).within_onArch grp f
  obtain ⟨u, hu, hua, hur⟩ := w.group v hv
  have hva : v.arch = g.arch := (congrArg Group.arch hvg :)
  have hvr : v.sameRest g := (congrArg (fun x : Group => { x with arch := g.arch, detector := g.detector, conts := g.conts }) hvg :)
  exact ⟨⟨u, hu, by rw [hua, hva], Group.sameRest_trans hur hvr⟩, w.only⟩

/-- The test of `tfence` for the continuations that it squashes. -/
def tfenceHits (s : State) (h : Here) (sc : Scope) : Group → Cont → Bool := s.usedPriv (s.hereCtx h) (tfenceDies sc h.t.die) fun _ => true

/-- The plan of `tfence`. -/
def tfencePlan (sc : Scope) : Plan :=
  { uses := []
    raises := .kb
    act := fun h s =>
      let dies := tfenceDies sc h.t.die
      let ctx := s.hereCtx h
      let w := s.privOutstanding ctx dies
      let s := s.squashIf (s.usedPriv ctx dies fun _ => true)
      (s.discardOn ctx dies).startThread h (.tfence sc) (.tfence sc) .X 0 false fun t => { t with waits := w } }

theorem completes_tfence (sc : Scope) : Completes (.tfence sc) (tfenceEffect sc) := by
  refine completes_of_effect (p := tfencePlan sc) (fun _ h b => b.raise (h.p.counter .kb) { path := .X })
    (fun s _ x => { x with threads := s.threads, nextThread := s.nextThread, tlb := s.tlb }) (fun s h x => x.squashIf (tfenceHits s h sc))
    (fun _ => rfl) ⟨rfl, rfl, rfl, rfl⟩ (fun _ _ _ _ => ⟨rfl, rfl, rfl, rfl, rfl⟩) (fun s h => ?_) (fun s h x hx => hx.squashIf _) ?_ ?_
  · exact (Restores.tlb s.tlb h.g.id).comp (.threads s.threads s.nextThread h.g.id)
  · intro s h _ _ g hg
    have hw : ({ (s.retire h (.tfence sc) (tfencePlan sc)).squashIf (tfenceHits s h sc) with
        threads := s.threads, nextThread := s.nextThread, tlb := s.tlb } : State) = (s.retire h (.tfence sc) (tfencePlan sc)).squashIf (tfenceHits s h sc) := by
      rw [State.squashIf_eq (s.retire h (.tfence sc) (tfencePlan sc))]
      rfl
    have hx : ({ (tfencePlan sc).act h (s.retire h (.tfence sc) (tfencePlan sc)) with
        threads := s.threads, nextThread := s.nextThread, tlb := s.tlb } : State) =
        ((s.retire h (.tfence sc) (tfencePlan sc)).squashIf (tfenceHits s h sc)).onArch h.g.id fun b => b.raise (h.p.counter .kb) { path := .X } :=
      (congrArg (fun x : State => x.onArch h.g.id fun b => b.raise (h.p.counter .kb) { path := .X }) hw :)
    rw [hx]
    exact State.squashIf_onArch _ _ _ hg
  · intro s h t u _ _ hact hleaves honly
    have hw := State.squashIf_eq (s.retire h (.tfence sc) (tfencePlan sc)) (tfenceHits s h sc)
    refine ⟨?_, ?_, hleaves, honly⟩
    · refine starts_of_act (st := ((s.retire h (.tfence sc) (tfencePlan sc)).squashIf (tfenceHits s h sc)).discardOn (s.hereCtx h) (tfenceDies sc h.t.die))
        (off := 0) (launch := false) (f := fun t => { t with waits := (s.retire h (.tfence sc) (tfencePlan sc)).privOutstanding (s.hereCtx h) (tfenceDies sc h.t.die) })
        (fun _ => rfl) hact.threads.1 hact.threads.2 ⟨?_, ?_, ?_⟩ fun _ _ _ => trivial
      · exact (congrArg State.threads hw :)
      · exact (congrArg State.nextThread hw :)
      · exact (congrArg (fun x : State => x.hereCtx h) hw :)
    · have htlb : t.tlb = ((tfencePlan sc).act h (s.retire h (.tfence sc) (tfencePlan sc))).tlb := (congrArg State.tlb hact.rest :)
      rw [htlb]
      exact (congrArg (fun x : State => x.tlb.filter fun e => !(e.ctx == s.hereCtx h && (tfenceDies sc h.t.die).contains e.unit.die)) hw :)

/-- The plan of `stk.hand`. -/
def handPlan (stack : BitVec 4) (die : BitVec 2) : Plan :=
  { uses := []
    raises := .kb
    stall := fun _ h => h.acquiring
    late := fun s h =>
      let c := s.hereCtx h
      s.rightsLost c <|> failIf (!s.rightSTK c || !s.inPartition c die.toNat || !s.inPartition c h.t.die) .privilege
        <|> failIf (s.copyOf h.t.die stack.toNat != .owned || die.toNat == h.t.die) .ownership
    act := fun h s =>
      let s := s.squashIf fun g c => (s.team? g.team).any (fun t => t.die == h.t.die) && c.privs.any fun k => k < 2 ^ 40 && stackOf k == stack.toNat
      let s := s.startThread h (.stkHand stack die) (.hand stack.toNat die.toNat) .X 0 false fun t => { t with st := .running, idx := 1 }
      s.onStack stack.toNat fun k => { k.setCopy h.t.die .handing with st := .handing h.t.die die.toNat 1 } }

/-- The test of `stk.hand` for the continuations that it squashes. -/
def handHits (s : State) (h : Here) (stack : BitVec 4) : Group → Cont → Bool :=
  fun g c => (s.team? g.team).any (fun q => q.die == h.t.die) && c.privs.any fun k => k < 2 ^ 40 && stackOf k == stack.toNat

theorem completes_stkHand (stack : BitVec 4) (die : BitVec 2) : Completes (.stkHand stack die) (stkHandEffect stack die) := by
  refine completes_of_effect (p := handPlan stack die) (fun _ h b => b.raise (h.p.counter .kb) { path := .X })
    (fun s _ x => { x with threads := s.threads, nextThread := s.nextThread, mstacks := s.mstacks }) (fun s h x => x.squashIf (handHits s h stack))
    (fun _ => rfl) ⟨rfl, rfl, rfl, rfl⟩ ?_ (fun s h => ?_) (fun s h x hx => hx.squashIf _) ?_ ?_
  · rintro s h - ⟨hacq, hlost, hright, hdie, hown, hcopy, hne⟩
    refine ⟨hacq, rfl, ?_, rfl, rfl⟩
    simp [handPlan, failIf, hlost, hright, hdie, hown, hcopy, hne]
  · exact (Restores.stacks s.mstacks h.g.id).comp (.threads s.threads s.nextThread h.g.id)
  · intro s h _ _ g hg
    have hw : ({ (s.retire h (.stkHand stack die) (handPlan stack die)).squashIf (handHits s h stack) with
        threads := s.threads, nextThread := s.nextThread, mstacks := s.mstacks } : State) =
        (s.retire h (.stkHand stack die) (handPlan stack die)).squashIf (handHits s h stack) := by
      rw [State.squashIf_eq (s.retire h (.stkHand stack die) (handPlan stack die))]
      rfl
    have hx : ({ (handPlan stack die).act h (s.retire h (.stkHand stack die) (handPlan stack die)) with
        threads := s.threads, nextThread := s.nextThread, mstacks := s.mstacks } : State) =
        ((s.retire h (.stkHand stack die) (handPlan stack die)).squashIf (handHits s h stack)).onArch h.g.id fun b =>
          b.raise (h.p.counter .kb) { path := .X } :=
      (congrArg (fun x : State => x.onArch h.g.id fun b => b.raise (h.p.counter .kb) { path := .X }) hw :)
    rw [hx]
    exact State.squashIf_onArch _ _ _ hg
  · intro s h t u _ _ hact hleaves honly
    have hw := State.squashIf_eq (s.retire h (.stkHand stack die) (handPlan stack die)) (handHits s h stack)
    refine ⟨?_, ?_, hleaves, honly⟩
    · refine starts_of_act (st := (s.retire h (.stkHand stack die) (handPlan stack die)).squashIf (handHits s h stack))
        (off := 0) (launch := false) (f := fun t => { t with st := .running, idx := 1 })
        (fun _ => rfl) hact.threads.1 hact.threads.2 ⟨?_, ?_, ?_⟩ fun _ _ _ => ⟨rfl, rfl⟩
      · exact (congrArg State.threads hw :)
      · exact (congrArg State.nextThread hw :)
      · exact (congrArg (fun x : State => x.hereCtx h) hw :)
    · have hms : t.mstacks = ((handPlan stack die).act h (s.retire h (.stkHand stack die) (handPlan stack die))).mstacks :=
        (congrArg State.mstacks hact.rest :)
      have hst : ((s.retire h (.stkHand stack die) (handPlan stack die)).squashIf (handHits s h stack)).mstacks = s.mstacks :=
        (congrArg State.mstacks hw :)
      rw [hms]
      refine (congrArg (fun l => mapIf l (·.n == stack.toNat) fun k =>
        { k.setCopy h.t.die .handing with st := .handing h.t.die die.toNat 1 }) hst).trans (List.map_congr_left fun k _ => ?_)
      by_cases hk : k.n = stack.toNat <;> simp [hk]

/-- Settles O13: `lnch`, `tfence` and `stk.hand` start a thread; a `lnch` on a full queue parks. -/
theorem launchesAndHandOvers : Obligations.LaunchesAndHandOvers :=
  ⟨completes_lnch, completes_lnch_parks, completes_tfence, completes_stkHand⟩

/-! ### The matrix unit (R225, R231-R238) -/

theorem State.mxOf_of_only {s t : State} {grp : Nat} (h : OnlyGroup s t grp) (w : Here) : t.mxOf w = s.mxOf w :=
  (congrArg Core.mx (h.cores w.t.die w.t.site) :)

theorem State.mxOf_onMx (s : State) (h : Here) (f : Matrix → Matrix) : (s.onMx h.t.die h.t.site f).mxOf h = f (s.mxOf h) := by
  unfold State.mxOf State.onMx
  rw [State.core_onCore_same]
  · exact fun _ => ⟨rfl, rfl⟩

/-- A core and a group change independently. -/
theorem State.onCore_onGroup (s : State) (die site : Nat) (f : Core → Core) (grp : Nat) (k : Group → Group) :
    (s.onGroup grp k).onCore die site f = (s.onCore die site f).onGroup grp k := by
  have hset : ∀ c, (s.onGroup grp k).setCore c = (s.setCore c).onGroup grp k := by
    intro c
    unfold State.setCore
    by_cases hc : (s.cores.any fun d => d.die == c.die && d.site == c.site) = true
    · exact (if_pos hc).trans (by rw [if_pos hc]; rfl)
    · exact (if_neg hc).trans (by rw [if_neg hc]; rfl)
  exact hset _

/-- A matrix unit, changed and put back. -/
theorem State.mx_restored (s : State) (h : Here) (f : Matrix → Matrix) (m : Matrix) (hm : m = s.mxOf h) (grp : Nat) :
    OnlyGroup s ((s.onMx h.t.die h.t.site f).onMx h.t.die h.t.site fun _ => m) grp := by
  subst hm
  refine State.core_restored _ _ _ _ _ ?_ ?_ ?_ _
  · exact fun _ => ⟨rfl, rfl⟩
  · exact fun _ => ⟨rfl, rfl⟩
  · rfl

theorem State.onMx_groups (s : State) (die site : Nat) (f : Matrix → Matrix) : (s.onMx die site f).groups = s.groups := State.onCore_groups _ _ _ _

/-- The unit with one more thread, last in matrix issue order (R237). -/
def Matrix.queued (m : Matrix) (h : Here) (i : Instr) (k : MxKind) (seq : Option Nat) : Matrix :=
  { m with
    threads := m.threads ++ [⟨m.nextNo, k, h.g.id, h.t.id, seq, h.p.fmt, h.p.pc, i.first, none, 0, [], 0⟩]
    nextNo := m.nextNo + 1 }

theorem State.queueMx_eq (s : State) (h : Here) (i : Instr) (k : MxKind) (tracked : Bool) :
    s.queueMx h i k tracked =
      if tracked then
        (s.onMx h.t.die h.t.site fun m => m.queued h i k (h.seqFor .kb)).onArch h.g.id fun b => b.raise (h.p.counter .kb) { path := .M }
      else s.onMx h.t.die h.t.site fun m => m.queued h i k none := by
  cases tracked <;> rfl

/-- An instruction whose plan queues a thread of the unit. -/
theorem completes_matrix {i : Instr} {us : List Use} {k : Here → MxKind} {tracked : Bool} {ok : State → Here → Prop} {p : Plan}
    (he : ∀ s, exec i s = run i p s) (hp : p.guard = 7 ∧ p.uses = us ∧ p.raises = if tracked then .kb else .nothing)
    (hact : ∀ h s, p.act h s = s.queueMx h i (k h) tracked) (hok : ∀ s h, ok s h → p.Proceeds s h) :
    Completes i (matrixEffect i us k tracked ok) := by
  refine completes_of_within (p := p) (fun _ h b => b.raise (if tracked then h.p.counter .kb else none) { path := .M })
    (fun s h x => x.onMx h.t.die h.t.site fun _ => s.mxOf h) he ⟨hp.1, rfl, hp.2.1, hp.2.2⟩ (fun s h _ => hok s h) (fun s h => .mx _ _ _ _) ?_ ?_
  · intro s h _ _
    have hback : ∀ seq, OnlyGroup (s.retire h i p) (((s.retire h i p).onMx h.t.die h.t.site fun m => m.queued h i (k h) seq).onMx h.t.die h.t.site
        fun _ => s.mxOf h) h.g.id := fun _ => State.mx_restored _ h _ _ rfl _
    have hgroups : ∀ seq, (((s.retire h i p).onMx h.t.die h.t.site fun m => m.queued h i (k h) seq).onMx h.t.die h.t.site
        fun _ => s.mxOf h).groups = (s.retire h i p).groups := fun _ => (State.onMx_groups _ _ _ _).trans (State.onMx_groups _ _ _ _)
    rw [hact, State.queueMx_eq]
    cases tracked with
    | true =>
      have hcomm : (((s.retire h i p).onMx h.t.die h.t.site fun m => m.queued h i (k h) (h.seqFor .kb)).onArch h.g.id
          fun b => b.raise (h.p.counter .kb) { path := .M }).onMx h.t.die h.t.site (fun _ => s.mxOf h) =
          (((s.retire h i p).onMx h.t.die h.t.site fun m => m.queued h i (k h) (h.seqFor .kb)).onMx h.t.die h.t.site fun _ => s.mxOf h).onArch
            h.g.id fun b => b.raise (h.p.counter .kb) { path := .M } := State.onCore_onGroup _ _ _ _ _ _
      simp only [if_true]
      rw [hcomm]
      exact Within.trans (f := id) (k := fun b => b.raise (h.p.counter .kb) { path := .M }) (.of_groups (hgroups _) (hback _)) (State.within_onArch _ _ _)
    | false => exact .of_groups (hgroups none) (hback none)
  · intro s h t u _ _ honly hleaves hrest
    refine ⟨?_, hleaves, hrest⟩
    rw [State.mxOf_of_only honly, hact, State.queueMx_eq]
    cases tracked with
    | true => exact State.mxOf_onMx (s.retire h i p) h fun m => m.queued h i (k h) (h.seqFor .kb)
    | false => exact State.mxOf_onMx (s.retire h i p) h fun m => m.queued h i (k h) none

theorem State.ropeFault_eq_none {s : State} {h : Here} (e : (s.mxOf h).rope = some h.g.id) : s.ropeFault h = none := by
  unfold State.ropeFault failIf
  simp [e]

theorem Here.operandFault_eq_none {h : Here} {a : SReg} {align n : Nat} (e : h.operandOk a align n) :
    operandFault h.t (h.a.getS a.toNat).toNat align n = none := Sys2Proof.Machine.operandFault_eq_none e.1 e.2

theorem completes_mld {i : Instr} (a : SReg) (scl : Bool) (he : ∀ s, exec i s = run i (mldPlan i a scl) s) {ok : State → Here → Prop}
    (hok : ∀ s h, ok s h → h.acquiring = false ∧ pairFmts (atyp h.p.fmt) (btyp h.p.fmt) = true ∧ (scl = true → fmtScale (atyp h.p.fmt) ≠ 0) ∧
      h.operandOk a (if scl then 8 else 64) (if scl then tileScaleBytes (atyp h.p.fmt) else tileBytes (atyp h.p.fmt)) ∧
      (s.mxOf h).rope = some h.g.id ∧ (s.mxOf h).seqFull = false) :
    Completes i (matrixEffect i (srcS a) (fun h => if scl then .mldS (h.a.getS a.toNat).toNat else .mldE (h.a.getS a.toNat).toNat) true ok) := by
  refine completes_matrix he ⟨rfl, rfl, rfl⟩ (fun _ _ => rfl) fun s h o => ?_
  obtain ⟨hacq, hpair, hscale, hop, hrope, hfull⟩ := hok s h o
  refine ⟨hacq, rfl, ?_, by simp [mldPlan, holdIf, hfull], rfl⟩
  have hfmt : (!pairFmts (atyp h.p.fmt) (btyp h.p.fmt) || (scl && fmtScale (atyp h.p.fmt) == 0)) = false := by simpa [hpair] using hscale
  unfold mldPlan
  dsimp only
  rw [hfmt, State.ropeFault_eq_none hrope, Here.operandFault_eq_none hop]
  rfl

theorem completes_mlp {i : Instr} (a : SReg) (zero : Bool) (he : ∀ s, exec i s = run i (mlpPlan i a zero) s) {ok : State → Here → Prop}
    (hok : ∀ s h, ok s h → h.acquiring = false ∧ pairFmts (atyp h.p.fmt) (btyp h.p.fmt) = true ∧ atyp h.p.fmt = (s.mxOf h).tagNext ∧
      h.operandOk a 32 32 ∧ (s.mxOf h).rope = some h.g.id ∧ (s.mxOf h).seqFull = false) :
    Completes i (matrixEffect i (srcS a) (fun h => .mlp (h.a.getS a.toNat).toNat zero) true ok) := by
  refine completes_matrix he ⟨rfl, rfl, rfl⟩ (fun _ _ => rfl) fun s h o => ?_
  obtain ⟨hacq, hpair, htag, hop, hrope, hfull⟩ := hok s h o
  refine ⟨hacq, rfl, ?_, by simp [mlpPlan, holdIf, hfull], rfl⟩
  have hfmt : (!pairFmts (atyp h.p.fmt) (btyp h.p.fmt) || atyp h.p.fmt != (s.mxOf h).tagNext) = false := by
    rw [← htag, hpair]
    simp
  unfold mlpPlan
  dsimp only
  rw [hfmt, State.ropeFault_eq_none hrope, Here.operandFault_eq_none hop]
  rfl

theorem completes_mdrn {i : Instr} (a : SReg) (scl : Bool) (he : ∀ s, exec i s = run i (mdrnPlan i a scl) s) {ok : State → Here → Prop}
    (hok : ∀ s h, ok s h → h.acquiring = false ∧ otyp h.p.fmt ≤ 9 ∧ ornd h.p.fmt ≠ 3 ∧ (s.mxOf h).team = some h.t.id ∧
      (s.mxOf h).release = false ∧ h.operandOk a 32 32 ∧ (s.mxOf h).drainFull = false) :
    Completes i (matrixEffect i (srcS a) (fun h => .mdrn (h.a.getS a.toNat).toNat scl) true ok) := by
  refine completes_matrix he ⟨rfl, rfl, rfl⟩ (fun _ _ => rfl) fun s h o => ?_
  obtain ⟨hacq, hotyp, hornd, hteam, hrel, hop, hfull⟩ := hok s h o
  refine ⟨hacq, rfl, ?_, by simp [mdrnPlan, holdIf, hfull], rfl⟩
  have hfmt : (9 < otyp h.p.fmt || ornd h.p.fmt == 3) = false := by simp [hotyp, hornd]
  have hholds : (!(s.mxOf h).holds h.t.id) = false := by simp [Matrix.holds, hteam, hrel]
  unfold mdrnPlan
  dsimp only
  rw [hholds, Here.operandFault_eq_none hop]
  simp [failIf, hotyp, hornd]

theorem completes_mswp (ok : State → Here → Prop) (hok : ∀ s h, ok s h → (s.mxOf h).rope = some h.g.id ∧ (s.mxOf h).seqFull = false) :
    Completes .mswp (matrixEffect .mswp [] (fun _ => .mswp) false ok) := by
  refine completes_matrix (fun _ => rfl) ⟨rfl, rfl, rfl⟩ (fun _ _ => rfl) fun s h o => ?_
  obtain ⟨hrope, hfull⟩ := hok s h o
  exact ⟨rfl, rfl, State.ropeFault_eq_none hrope, by simp [holdIf, hfull], rfl⟩

theorem completes_of_mxEffect (i : Instr) (e : Effect) (h : mxEffect i = some e) : Completes i e := by
  cases i with
  | mldE a =>
    cases h
    exact completes_mld a false (fun _ => rfl) fun s h ⟨⟨hacq, hpair, hop⟩, hrope, hfull⟩ => ⟨hacq, hpair, nofun, hop, hrope, hfull⟩
  | mldS a =>
    cases h
    exact completes_mld a true (fun _ => rfl) fun s h ⟨⟨hacq, hpair, hscale, hop⟩, hrope, hfull⟩ => ⟨hacq, hpair, fun _ => hscale, hop, hrope, hfull⟩
  | mswp => cases h; exact completes_mswp _ fun s h ⟨_, hrope, hfull⟩ => ⟨hrope, hfull⟩
  | mlp a =>
    cases h
    exact completes_mlp a false (fun _ => rfl) fun s h ⟨⟨⟨hacq, hpair, hop⟩, hrope, hfull⟩, htag⟩ => ⟨hacq, hpair, htag, hop, hrope, hfull⟩
  | mlpZero a =>
    cases h
    exact completes_mlp a true (fun _ => rfl) fun s h ⟨⟨⟨hacq, hpair, hop⟩, hrope, hfull⟩, htag⟩ => ⟨hacq, hpair, htag, hop, hrope, hfull⟩
  | mdrn a => cases h; exact completes_mdrn a false (fun _ => rfl) fun _ _ o => o
  | mdrnScl a => cases h; exact completes_mdrn a true (fun _ => rfl) fun _ _ o => o
  | ropeTake =>
    cases h
    refine completes_of_within (fun _ _ b => b) (fun _ _ x => x) (fun _ => rfl) ⟨rfl, rfl, rfl, rfl⟩
      (fun s h _ hrope => ⟨rfl, rfl, rfl, if_pos hrope, rfl⟩) (fun _ _ => .id _) (fun s h _ _ => .refl _ _) fun s h t u _ _ _ hleaves honly => ⟨hleaves, honly⟩
  | ropeGive =>
    cases h
    refine completes_of_within (fun _ _ b => b) (fun s h x => x.onMx h.t.die h.t.site fun _ => s.mxOf h) (fun _ => rfl) ⟨rfl, rfl, rfl, rfl⟩
      (fun s h _ hrope => ⟨rfl, rfl, State.ropeFault_eq_none hrope, rfl, rfl⟩) (fun s h => .mx _ _ _ _) ?_ ?_
    · intro s h _ _
      refine .of_groups ((State.onMx_groups _ _ _ _).trans (State.onMx_groups _ _ _ _)) (State.mx_restored (s.retire h .ropeGive _) h _ _ rfl _)
    · intro s h t u _ _ honly hleaves hrest
      refine ⟨?_, hleaves, hrest⟩
      rw [State.mxOf_of_only honly]
      exact State.mxOf_onMx (s.retire h .ropeGive _) h fun m => { m with rope := none }
  | _ => cases h

theorem completes_ropeWait : Completes .ropeTake ropeWaitEffect := by
  refine completes_of_hold
    (fun _ h x => (x.park h.g.id h.slot (some (.rope (nextEntry (x.mxOf h).ropeq h.g.id)))).onMx h.t.die h.t.site fun m =>
      { m with ropeq := m.ropeq ++ [(h.g.id, nextEntry (x.mxOf h).ropeq h.g.id)] })
    (fun s h => .rope (nextEntry (s.mxOf h).ropeq h.g.id)) (fun s h x => x.onMx h.t.die h.t.site fun _ => s.mxOf h)
    (fun _ => rfl) ⟨rfl, rfl, rfl⟩ ?_ (fun s h => .mx _ _ _ _) ?_ ?_
  · rintro s h - ⟨hrope, -⟩
    exact ⟨rfl, rfl, rfl, if_neg hrope⟩
  · rintro s h e ⟨-, hshare⟩
    refine ⟨(State.group?_congr (State.onMx_groups _ _ _ _) _).trans (State.group?_park e _), ?_, ?_⟩
    · obtain ⟨h1, h2⟩ := State.share_onCore (s.park h.g.id h.slot (some (.rope (nextEntry (s.mxOf h).ropeq h.g.id)))) h.t.die h.t.site
        (fun c => { c with mx := { c.mx with ropeq := c.mx.ropeq ++ [(h.g.id, nextEntry (s.mxOf h).ropeq h.g.id)] } }) h.g.team
        (h.parked (.rope (nextEntry (s.mxOf h).ropeq h.g.id)))
      have hk := State.keepsShare_park e hshare
      rw [← h1, ← h2] at hk
      exact hk
    · exact (s.onlyGroup_park _ _ _).trans (State.mx_restored _ h _ _ rfl _)
  · intro s h t u _ _ hact hparks
    refine ⟨?_, hparks⟩
    rw [State.mxOf_of_only hact]
    exact State.mxOf_onMx (s.park h.g.id h.slot _) h _

/-- Settles O14: matrix instructions queue their threads; the rope is kept and given; a group without it joins the queue. -/
theorem matrixInstructions : Obligations.MatrixInstructions := ⟨completes_of_mxEffect, completes_ropeWait⟩

/-! ### Register blocks (R241, R242) -/

/-- A team with another queue of takers. -/
def Team.withTaker (t : Team) (e : Nat × Nat) : Team := { t with takers := t.takers ++ [e] }

theorem State.team?_onTeam (s : State) (id : Nat) {f : Team → Team} (h : ∀ t, (f t).id = t.id) (n : Nat) :
    (s.onTeam id f).team? n = (s.team? n).map fun t => if t.id == id then f t else t := by
  unfold State.team? State.onTeam mapIf
  refine find?_map_key _ _ _ fun t => ?_
  dsimp only
  split
  · rw [h]
  · rfl

theorem State.team?_onTaker (s : State) (id : Nat) (e : Nat × Nat) (n : Nat) :
    (s.onTeam id fun x => x.withTaker e).team? n = (s.team? n).map fun t => if t.id == id then t.withTaker e else t :=
  s.team?_onTeam id (f := fun x => x.withTaker e) (fun _ => rfl) n

/-- Where a thread's access goes does not depend on the teams of the state, nor on a queue of takers. -/
theorem State.place_teams (s : State) (ts : List Team) (t : Thread) (tm : Team) (l : List (Nat × Nat)) (sp : Nat) (k : AccKind) (a n : Nat) :
    { s with teams := ts }.place t { tm with takers := l } sp k a n = s.place t tm sp k a n := by
  unfold State.place
  split
  · rfl
  · rfl
  · have hruns : { s with teams := ts }.mainRuns t.walker k (pagePieces a n) = s.mainRuns t.walker k (pagePieces a n) :=
      State.mainRuns_congr (s := s) (t := { s with teams := ts }) (fun _ _ _ => rfl) k _
    exact congrArg (fun x => if 2 ^ 52 < a + n then _ else x) hruns

theorem State.place_onTaker (s : State) (id : Nat) (e : Nat × Nat) (t : Thread) (tm : Team) (sp : Nat) (k : AccKind) (a n : Nat) :
    (s.onTeam id fun x => x.withTaker e).place t (if (tm.id == id) = true then tm.withTaker e else tm) sp k a n = s.place t tm sp k a n := by
  split
  · exact State.place_teams s _ t tm (tm.takers ++ [e]) sp k a n
  · exact State.place_teams s _ t tm tm.takers sp k a n

theorem State.restAny_teams (s : State) (ts : List Team) (t : Thread) (f : Nat → Int → Nat → Bool) :
    { s with teams := ts }.restAny t f = s.restAny t f := rfl

theorem State.yetToWrite_onTaker (s : State) (id : Nat) (e : Nat × Nat) (t : Thread) (k n : Nat) :
    (s.onTeam id fun x => x.withTaker e).yetToWrite t k n = s.yetToWrite t k n := by
  unfold State.yetToWrite
  rw [State.team?_onTaker]
  cases s.team? t.team with
  | none => rw [Option.map_none, Option.any_none, Option.any_none]
  | some tm =>
    rw [Option.map_some, Option.any_some, Option.any_some]
    refine (State.restAny_teams s (s.onTeam id fun x => x.withTaker e).teams t _).trans (congrArg (s.restAny t) ?_)
    funext sp a w
    simp only [State.place_onTaker]

theorem State.share_onTaker (s : State) (id : Nat) (e : Nat × Nat) (team : Nat) (g : Group) :
    (s.onTeam id fun x => x.withTaker e).fpshare ((s.onTeam id fun x => x.withTaker e).teamCtx team) = s.fpshare (s.teamCtx team) ∧
      (s.onTeam id fun x => x.withTaker e).faultParked g = s.faultParked g := by
  refine ⟨?_, ?_⟩
  · unfold State.teamCtx
    rw [State.team?_onTaker]
    cases s.team? team with
    | none => rfl
    | some tm => simp only [Option.map_some]; split <;> rfl
  · have hrec : ((s.onTeam id fun x => x.withTaker e).team? g.team).any (fun t => t.recFault.isSome) = (s.team? g.team).any fun t => t.recFault.isSome := by
      rw [State.team?_onTaker]
      cases s.team? g.team with
      | none => rfl
      | some tm => simp only [Option.map_some, Option.any_some]; split <;> rfl
    unfold State.faultParked
    rw [hrec]
    simp only [State.yetToWrite_onTaker]
    rfl

/-- The teams behind an update of one of them. -/
theorem calm_onTeam (l : List Team) (id : Nat) (f : Team → Team) :
    (mapIf l (·.id == id) f).map Team.calm = l.map fun x => if x.id = id then (f x).calm else x.calm := by
  rw [mapIf, List.map_map]
  refine List.map_congr_left fun x _ => ?_
  by_cases h : x.id = id <;> simp [h]

/-- An instruction that moves blocks between its group and the team's pool. -/
theorem completes_blocks {i : Instr} {p : Plan} {ok : State → Here → Prop} (f g : Here → Arch → Arch) (pool : Nat → Nat) (k : Here → Group → Group)
    (he : ∀ s, exec i s = run i p s) (hp : p.guard = 7 ∧ p.uses = [] ∧ p.raises = .nothing) (hok : ∀ s h, s.here = some h → ok s h → p.Proceeds s h)
    (hact : ∀ h s, p.act h s = (s.onGroup h.g.id (k h)).onTeam h.t.id fun t => t.withPool (h.g.slot / 16) pool)
    (hk : ∀ h x, (k h x).arch = f h x.arch ∧ (k h x).sameRest x) (hf : ∀ h, f h (h.behind i []) = g h (h.behind i [])) :
    Completes i
      { uses := [], ok := ok
        post := fun s h t u =>
          t.teams.map Team.calm = s.teams.map (fun x => if x.id = h.t.id then (x.withPool (h.g.slot / 16) pool).calm else x.calm) ∧
            Leaves h i [] (g h) u ∧ OnlyGroup s { t with teams := s.teams } h.g.id } := by
  refine completes_of_within (p := p) (fun _ => f) (fun s _ x => { x with teams := s.teams }) he ⟨hp.1, rfl, hp.2.1, hp.2.2⟩ hok
    (fun s h => .teams _ _) ?_ ?_
  · intro s h _ _
    rw [hact]
    exact State.within_onGroup (s.retire h i p) h.g.id (fun x => (hk h x).1) fun x => (hk h x).2
  · intro s h t u _ _ honly hleaves hrest
    refine ⟨?_, ⟨hleaves.1.trans (hf h), hleaves.2⟩, hrest⟩
    rw [honly.teams, hact]
    exact calm_onTeam s.teams h.t.id fun t => t.withPool (h.g.slot / 16) pool

/-- Whether the pool serves a taker at once (R242). -/
theorem State.poolServes_iff (s : State) (h : Here) (n : Nat) :
    s.poolServes h n = true ↔ s.takersOf h.t (h.g.slot / 16) = [] ∧ n ≤ h.t.pools.getD (h.g.slot / 16) 0 := by
  unfold State.poolServes Group.quad
  simp

theorem Group.setBlocks_arch (g : Group) (lo n c : Nat) : (g.setBlocks lo n c).arch = g.arch.freshBlocks lo n c := by
  unfold Group.setBlocks Arch.clearBlocks Arch.freshBlocks Reg.inBlocks Sparse.clear
  congr 1

theorem Here.behind_blocks (h : Here) (i : Instr) (us : List Use) (act : Word) : (h.behind i us act).blocks = h.a.blocks := by
  unfold Here.behind Arch.cleansed Arch.setPath
  split <;> rfl

theorem completes_of_blockEffect (i : Instr) (e : Effect) (h : blockEffect i = some e) : Completes i e := by
  cases i with
  | blkGive n =>
    cases h
    refine completes_blocks (fun h a => a.freshBlocks (h.a.blocks - n.toNat) n.toNat (h.a.blocks - n.toNat)) _ (fun k => k + n.toNat)
      (fun h g => g.setBlocks (h.a.blocks - n.toNat) n.toNat (h.a.blocks - n.toNat)) (fun _ => rfl) ⟨rfl, rfl, rfl⟩ ?_ (fun _ _ => rfl)
      (fun h x => ⟨x.setBlocks_arch _ _ _, rfl⟩) fun _ => rfl
    rintro s h - ⟨hn, hpend⟩
    refine ⟨rfl, rfl, ?_, rfl, rfl⟩
    have hfind : (regsFrom .v (8 * (h.a.blocks - n.toNat)) (8 * n.toNat)).find? h.a.pending = none := by
      rw [List.find?_eq_none]
      intro r hr
      have := List.all_eq_true.mp hpend r hr
      simpa using this
    dsimp only
    rw [hfind]
    simp [failIf, regFault, hn]
  | blkTake n =>
    cases h
    refine completes_blocks (fun h a => a.freshBlocks a.blocks n.toNat (a.blocks + n.toNat)) _ (fun k => k - n.toNat)
      (fun _ g => g.setBlocks g.arch.blocks n.toNat (g.arch.blocks + n.toNat)) (fun _ => rfl) ⟨rfl, rfl, rfl⟩ ?_ (fun _ _ => rfl)
      (fun h x => ⟨x.setBlocks_arch _ _ _, rfl⟩) fun h => by rw [Here.behind_blocks]
    rintro s h - ⟨hn, htakers, hpool⟩
    have hserves : s.poolServes h n.toNat = true := (s.poolServes_iff h _).mpr ⟨htakers, hpool⟩
    exact ⟨rfl, rfl, by simp [failIf, hserves, hn], by simp [hserves], rfl⟩
  | _ => cases h

theorem completes_blkTake_parks (n : BitVec 5) : Completes (.blkTake n) (blkTakeParkEffect n) := by
  refine completes_of_hold
    (fun _ h x => (x.park h.g.id h.slot (some (.blk n.toNat (nextEntry h.t.takers h.g.id)))).onTeam h.t.id fun t =>
      t.withTaker (h.g.id, nextEntry h.t.takers h.g.id))
    (fun _ h => .blk n.toNat (nextEntry h.t.takers h.g.id)) (fun s _ x => { x with teams := s.teams })
    (fun _ => rfl) ⟨rfl, rfl, rfl⟩ ?_ (fun s h => .teams _ _) ?_ ?_
  · rintro s h - ⟨hn, htakers, hgiver, -⟩
    have hserves : s.poolServes h n.toNat = false := by
      rw [Bool.eq_false_iff, Ne, s.poolServes_iff h]
      rintro ⟨h1, h2⟩
      rcases htakers with h3 | h3
      · exact h3 h1
      · omega
    exact ⟨rfl, rfl, by simp [failIf, hserves, hgiver, hn], by simp [hserves]; rfl⟩
  · rintro s h e ⟨-, -, -, hshare⟩
    refine ⟨State.group?_park e _, ?_, s.onlyGroup_park _ _ _⟩
    obtain ⟨h1, h2⟩ := State.share_onTaker (s.park h.g.id h.slot (some (.blk n.toNat (nextEntry h.t.takers h.g.id)))) h.t.id
      (h.g.id, nextEntry h.t.takers h.g.id) h.g.team (h.parked (.blk n.toNat (nextEntry h.t.takers h.g.id)))
    rw [h1, h2]
    exact State.keepsShare_park e hshare
  · intro s h t u _ _ hact hparks
    refine ⟨?_, hparks⟩
    rw [hact.teams]
    exact calm_onTeam s.teams h.t.id fun t => t.withTaker (h.g.id, nextEntry h.t.takers h.g.id)

/-- Settles O15: blocks are given, taken, or waited for. -/
theorem registerBlocks : Obligations.RegisterBlocks := ⟨completes_of_blockEffect, completes_blkTake_parks⟩

end Sys2Proof.Machine
end

section
/-!
SUPPORT. A mailbox area shared by contexts; clause entry (R86); wakes of parked paths; promotion, retirement and recognised loops (R255, R273,
R295).
-/
namespace Sys2Proof.Machine

/-! ### A get that waits for its write comes first (R357, R379) -/

/-- A queue of context 2 with a started MBX-GET that has a DEST. -/
def gettingQueue : Queue :=
  { id := 0, ring := 0, szlog := 0, prio := 0, st := .active, ctl := 0, ctx := 2, tail := 0, rdidx := 0, doneidx := 0, quantum := 0, deficit := 0
    proga := 0, errcode := 0, erridx := 0, errhdr := 0, errval := 0, pending := [], packet := none, getting := [(0, 0, 8)], feFault := none, prog := 0
    gen := 0 }

/-- Group 0 at `mbx.get` of mailbox word 0, which is full. Context 2 shares the mailbox area; the get of its queue waits, as its record lies
on a stack in training. -/
def getAhead : State :=
  let s := State.reset.loadWords (encode (.mbxGet 0 2))
  { s with
    mstacks := s.mstacks.map fun k => if k.n = 1 then { k with st := .training } else k
    ctxs := (s.ctxs.map fun c => { c with mba := homeTag 0x9000, mbn := 1 }) ++ [{ Ctx.first 2 (homeTag 0x1000000000) with mba := homeTag 0x9000, mbn := 1 }]
    mem := putBytes s.mem (homeKey 0x9008) [1]
    queues := [gettingQueue]
    fe := { s.fe with mbxq := [⟨0, 2, 0, none, .queue 0 0 0, 0⟩] } }

/-- The path in a slot of group 0 in the state that an instruction answers. -/
def pathAfter (o : Host.Outcome State Fault Refusal) (slot : Bool) : Option Path :=
  match o with
  | .next t => (t.group? 0).bind (·.arch.path slot)
  | _ => none

/-- What the statement asks of a `mbx.get` that is served at once. -/
def getServes (s : State) (h : Here) : Prop :=
  ∃ c, s.ctx? (s.hereCtx h) = some c ∧ (h.a.getS 2).toNat < c.mbn ∧ s.isLost (mbxKey c (h.a.getS 2).toNat) 16 = false ∧
    s.mbxSound (mbxKey c (h.a.getS 2).toNat) = true ∧ s.keyHeld (mbxKey c (h.a.getS 2).toNat) = false ∧ s.fe.reloading = false ∧
    s.mbxFull (mbxKey c (h.a.getS 2).toNat) = true ∧ s.fe.mbxq.all fun r => !(r.ctx == s.hereCtx h && r.word == (h.a.getS 2).toNat)

theorem getServes_of_isSome {s : State} {h : Here} (e : ((s.ctx? (s.hereCtx h)).any fun c =>
      (h.a.getS 2).toNat < c.mbn && !s.isLost (mbxKey c (h.a.getS 2).toNat) 16 && s.mbxSound (mbxKey c (h.a.getS 2).toNat) &&
      !s.keyHeld (mbxKey c (h.a.getS 2).toNat) && !s.fe.reloading && s.mbxFull (mbxKey c (h.a.getS 2).toNat) &&
      s.fe.mbxq.all fun r => !(r.ctx == s.hereCtx h && r.word == (h.a.getS 2).toNat)) = true) : getServes s h := by
  cases hc : s.ctx? (s.hereCtx h) with
  | none => rw [hc] at e; cases e
  | some c =>
    rw [hc] at e
    simp only [Option.any_some, Bool.and_eq_true, decide_eq_true_eq, Bool.not_eq_true'] at e
    obtain ⟨⟨⟨⟨⟨⟨h1, h2⟩, h3⟩, h4⟩, h5⟩, h6⟩, h7⟩ := e
    exact ⟨c, hc, h1, h2, h3, h4, h5, h6, h7⟩

theorem getAhead_clear : ∃ h, Clear getAhead h (.mbxGet 0 2) (dstS 0 2 ++ srcS 2) .nothing ∧ h.g.id = 0 ∧ getServes getAhead h ∧
    pathAfter (exec (.mbxGet 0 2) getAhead) h.slot ≠ some (h.p.advance 1) := by
  cases e : getAhead.here with
  | none => exact absurd (congrArg Option.isSome e) (by decide +kernel)
  | some h =>
    have q : h = getAhead.here.get (by decide +kernel) := by simp [e]
    subst q
    exact ⟨_, ⟨e, by decide +kernel, by decide +kernel, by decide +kernel, nofun, by decide +kernel⟩, by decide +kernel,
      getServes_of_isSome (by decide +kernel), by decide +kernel⟩

/-- Refutes O17: no request of the group's context waits on the word, but the get of another context whose mailbox area is the same does, and
`mbx.get` is not served at once before it (R357, R379). -/
theorem not_messagesAndSystem : ¬ Obligations.MessagesAndSystem := by
  intro claim
  obtain ⟨h, clear, hid, hserves, hne⟩ := getAhead_clear
  obtain ⟨t, u, hrun, hu, c, -, -, ⟨hpath, -⟩, -⟩ := claim.2.1 (.mbxGet 0 2) _ rfl getAhead h clear hserves
  refine hne ?_
  rw [hrun, pathAfter, ← hid, hu]
  exact hpath

/-! ### Steps of a group's paths: what they leave -/

theorem State.onlyGroup_onGroup (s : State) (grp : Nat) (k : Group → Group) (hid : ∀ g, (k g).id = g.id) : OnlyGroup s (s.onGroup grp k) grp :=
  ⟨rfl, State.onGroup_others s grp k hid, rfl, fun _ _ => rfl⟩

/-- A team's count of issues changes, and nothing else. -/
theorem State.within_ret (s : State) (grp team : Nat) (f : Team → Nat) : Within grp id s (s.onTeam team fun t => { t with ret := f t }) := by
  refine .of_groups rfl ⟨rfl, rfl, ?_, fun _ _ => rfl⟩
  rw [State.onTeam_teams, mapIf, List.map_map]
  refine List.map_congr_left fun x _ => ?_
  dsimp only [Function.comp]
  split <;> rfl

theorem State.within_clearRet (s : State) (grp team : Nat) : Within grp id s (s.clearRet team) := s.within_ret grp team fun _ => 0

/-- A parked path goes on behind its instruction. -/
def Arch.goesOn (a : Arch) (slot : Bool) : Arch := a.setPath slot ((a.path slot).map fun p => p.advance 1)

theorem State.within_retireParked (s : State) (grp : Nat) (slot : Bool) : Within grp (fun a => a.goesOn slot) s (s.retireParked grp slot) := by
  unfold State.retireParked
  cases e : s.group? grp with
  | none =>
    refine ⟨fun g hg => ?_, .refl s grp⟩
    rw [e] at hg
    cases hg
  | some g =>
    have h1 : Within grp id s (s.onGroup grp fun h =>
        { h with detector := if h.single then h.detector.bind fun d => (h.arch.path slot).bind d.parked else none }) :=
      s.within_onGroup grp (f := id) (fun _ => rfl) fun _ => rfl
    have h2 := Within.trans (f := id) (k := fun a => a.goesOn slot) h1 (State.within_onArch _ grp fun a => a.goesOn slot)
    have h3 := Within.trans (k := id) h2 (State.within_ret _ grp g.team fun t => satCount (t.ret + 1))
    exact Within.trans (k := id) h3 (State.within_perfGroup _ grp g 2 1)

theorem Arch.goesOn_of_path {a : Arch} {slot : Bool} {p : Path} (e : a.path slot = some p) : a.goesOn slot = a.setPath slot (some (p.advance 1)) := by
  rw [Arch.goesOn, e]
  rfl

theorem Arch.path_clearProven (a : Arch) (c lim : Nat) (slot : Bool) : (a.clearProven c lim).path slot = a.path slot := by
  cases slot <;> rfl

theorem Arch.path_clearWait (a : Arch) (m : BitVec 12) (slot : Bool) : (a.clearWait m).path slot = a.path slot := by
  unfold Arch.clearWait
  generalize List.range 12 = l
  induction l generalizing a with
  | nil => rfl
  | cons j l ih =>
    rw [List.foldl_cons, ih]
    split
    · exact Arch.path_clearProven ..
    · rfl

/-! ### Wakes (R86, R138, R292, R295, R360) -/

theorem wakes_waitK (grp : Nat) (slot : Bool) : Steps (.waitKWake grp slot)
    (fun s => ∃ g p tm, s.group? grp = some g ∧ g.arch.path slot = some p ∧ s.team? g.team = some tm ∧ tm.runs = true ∧
      g.arch.counterWake p = true)
    fun s t => ∃ g p u, s.group? grp = some g ∧ g.arch.path slot = some p ∧ t.group? grp = some u ∧ OnlyGroup s t grp ∧ u.sameRest g ∧
      (∀ c lim, p.park = some (.waitK c lim) → u.arch = (g.arch.clearProven c lim).setPath slot (some (p.advance 1))) ∧
      ∀ m, p.park = some (.waitHdr m) →
        u.arch = (g.arch.clearWait m).setPath slot (some { p with pc := p.hdr + 4, entry := .inside, park := none }) := by
  rintro s ⟨g, p, tm, hg, hp, htm, hruns, hwake⟩
  refine ⟨s.wakeCounter grp slot p, ?_, g, p, ?_⟩
  · show execWaitKWake grp slot s = _
    simp [execWaitKWake, hg, hp, hwake, htm, hruns]
  unfold State.wakeCounter
  unfold Arch.counterWake at hwake
  split at hwake
  · next c lim hk =>
    have w := Within.trans (f := fun a => a.clearProven c lim) (State.within_onArch s grp _) (State.within_retireParked _ grp slot)
    obtain ⟨u, hu, hua, hur⟩ := w.group g hg
    rw [Arch.goesOn_of_path ((Arch.path_clearProven ..).trans hp)] at hua
    refine ⟨u, hg, hp, hu, w.only, hur, ?_, ?_⟩
    · rintro c' lim' e
      cases hk.symm.trans e
      exact hua
    · rintro m e
      cases hk.symm.trans e
  · next m hk =>
    have w := Within.trans (f := fun a => a.clearWait m) (State.within_onArch s grp _)
      (State.within_onArch _ grp fun a => a.setPath slot ((a.path slot).map Path.inside))
    obtain ⟨u, hu, hua, hur⟩ := w.group g hg
    rw [Arch.path_clearWait, hp] at hua
    refine ⟨u, hg, hp, hu, w.only, hur, ?_, ?_⟩
    · rintro c' lim' e
      cases hk.symm.trans e
    · rintro m' e
      cases hk.symm.trans e
      exact hua
  · cases hwake

theorem wakes_waitW (grp : Nat) (slot : Bool) : Steps (.waitWWake grp slot)
    (fun s => ∃ g p o tm, s.group? grp = some g ∧ g.arch.path slot = some p ∧ p.park = some (.cairn o) ∧
      s.team? g.team = some tm ∧ tm.runs = true ∧ ∀ c ∈ g.cairn, c.off = o → c.fired = true)
    fun s t => ∃ g p o u, s.group? grp = some g ∧ g.arch.path slot = some p ∧ p.park = some (.cairn o) ∧ t.group? grp = some u ∧
      OnlyGroup s t grp ∧ u.arch = g.arch.setPath slot (some (p.advance 1)) ∧
      u.cairn = g.cairn.map fun c => if c.off = o then { c with fired := false } else c := by
  rintro s ⟨g, p, o, tm, hg, hp, hk, htm, hruns, hfired⟩
  have hmet : g.cairnMet slot = true := by
    unfold Group.cairnMet
    rw [hp]
    simp only [Option.bind_some, hk]
    cases hc : g.cairn with
    | none => rfl
    | some c =>
      have := hfired c (by rw [hc]; rfl)
      by_cases ho : c.off = o <;> simp [ho, this]
  have hstep : execWaitWWake grp slot s = .next (((s.onGroup grp fun h =>
      { h with cairn := h.cairn.map fun c => if c.off = o then { c with fired := false } else c }).clearRet g.team).retireParked grp slot) := by
    unfold execWaitWWake
    simp only [hg, hmet, htm, Option.any_some, hruns, Bool.and_self, if_true, hp, Option.bind_some, hk]
  have hv : (s.onGroup grp fun h => { h with cairn := h.cairn.map fun c => if c.off = o then { c with fired := false } else c }).group? grp =
      some { g with cairn := g.cairn.map fun c => if c.off = o then { c with fired := false } else c } := by
    rw [State.group?_onGroup, hg]
    · rfl
    · exact fun _ => rfl
  have w := Within.trans (f := id) (State.within_clearRet (s.onGroup grp fun h =>
    { h with cairn := h.cairn.map fun c => if c.off = o then { c with fired := false } else c }) grp g.team) (State.within_retireParked _ grp slot)
  obtain ⟨u, hu, hua, hur⟩ := w.group _ hv
  refine ⟨_, hstep, g, p, o, u, hg, hp, hk, hu, ?_, ?_, ?_⟩
  · exact (State.onlyGroup_onGroup s grp _ (by exact fun _ => rfl)).trans w.only
  · exact hua.trans (Arch.goesOn_of_path hp)
  · exact (congrArg Group.cairn hur :)

theorem wakes_spin (grp : Nat) : Steps (.spinWake grp)
    (fun s => ∃ g slot tm, s.group? grp = some g ∧ g.spinHit = some slot ∧ s.team? g.team = some tm ∧ tm.runs = true)
    fun s t => ∃ g slot u, s.group? grp = some g ∧ g.spinHit = some slot ∧ t.group? grp = some u ∧ OnlyGroup s t grp ∧
      u = { g with detector := none, arch := g.arch.setPath slot ((g.arch.path slot).map fun p => { p with park := none }) } := by
  rintro s ⟨g, slot, tm, hg, hhit, htm, hruns⟩
  refine ⟨((s.park grp slot none).onGroup grp fun h => { h with detector := none }).clearRet g.team, ?_, g, slot, _, hg, hhit, ?_, ?_, rfl⟩
  · show execSpinWake grp s = _
    simp [execSpinWake, hg, hhit, htm, hruns]
  · show ((s.park grp slot none).onGroup grp fun h => { h with detector := none }).group? grp = _
    unfold State.park State.onPath
    rw [State.group?_onGroup, State.group?_onArch, hg]
    · rfl
    · exact fun _ => rfl
  · exact ((s.onlyGroup_park grp slot none).trans (State.onlyGroup_onGroup _ grp _ (by exact fun _ => rfl))).trans (State.within_clearRet _ grp g.team).only

theorem wakes_mailbox (grp : Nat) (slot : Bool) : Steps (.mailboxWake grp slot)
    (fun s => ∃ g p get w r tm, s.group? grp = some g ∧ g.arch.path slot = some p ∧ p.park = some (.mbx get w r true) ∧
      s.team? g.team = some tm ∧ tm.runs = true)
    fun s t => ∃ g p u, s.group? grp = some g ∧ g.arch.path slot = some p ∧ t.group? grp = some u ∧ OnlyGroup s t grp ∧
      u.arch = g.arch.setPath slot (some (p.advance 1)) ∧ u.sameRest g := by
  rintro s ⟨g, p, get, w, r, tm, hg, hp, hk, htm, hruns⟩
  have hready : s.mbxReady g p = true := by simp [State.mbxReady, hk]
  have q := Within.trans (f := id) (State.within_clearRet s grp g.team) (State.within_retireParked _ grp slot)
  obtain ⟨u, hu, hua, hur⟩ := q.group g hg
  refine ⟨(s.clearRet g.team).retireParked grp slot, ?_, g, p, u, hg, hp, hu, q.only, hua.trans (Arch.goesOn_of_path hp), hur⟩
  show execMailboxWake grp slot s = _
  simp [execMailboxWake, hg, hp, hready, htm, hruns, hk]

/-- Settles O21: each wake takes its path on behind its instruction, or into its clause. -/
theorem wakes : Obligations.Wakes := ⟨wakes_waitK, wakes_waitW, wakes_spin, wakes_mailbox⟩

/-! ### Fault-parked groups of states that differ in their groups -/

theorem State.place_groups (s : State) (gs : List Group) (cs : List Core) (t : Thread) (tm : Team) (sp : Nat) (k : AccKind) (a n : Nat) :
    { s with groups := gs, cores := cs }.place t tm sp k a n = s.place t tm sp k a n := by
  unfold State.place
  split
  · rfl
  · rfl
  · have hruns : { s with groups := gs, cores := cs }.mainRuns t.walker k (pagePieces a n) = s.mainRuns t.walker k (pagePieces a n) :=
      State.mainRuns_congr (s := s) (t := { s with groups := gs, cores := cs }) (fun _ _ _ => rfl) k _
    exact congrArg (fun x => if 2 ^ 52 < a + n then _ else x) hruns

/-- Two groups that differ in nothing that the share of R333 asks about. -/
structure Group.ParkedAlike (u g : Group) : Prop where
  id : u.id = g.id
  team : u.team = g.team
  spillFault : u.spillFault = g.spillFault
  cairn : u.cairn = g.cairn
  tracked : u.arch.tracked = g.arch.tracked
  parked : u.parked = g.parked

theorem Group.parkedAlike_refl (g : Group) : g.ParkedAlike g := ⟨rfl, rfl, rfl, rfl, rfl, rfl⟩

/-- Whether a group is fault-parked depends on no group of the state, and no core. -/
theorem State.faultParked_eq {s t : State} (h : { t with groups := s.groups, cores := s.cores } = s) {g u : Group} (hu : u.ParkedAlike g) :
    t.faultParked u = s.faultParked g := by
  have ht : t = { s with groups := t.groups, cores := t.cores } := by rw [← h]
  rw [ht]
  unfold State.faultParked State.yetToWrite
  simp only [hu.id, hu.team, hu.spillFault, hu.cairn, hu.tracked, hu.parked, State.place_groups]
  rfl

theorem State.share_eq {s t : State} (h : { t with groups := s.groups, cores := s.cores } = s) (team : Nat) :
    t.fpshare (t.teamCtx team) = s.fpshare (s.teamCtx team) := by
  have ht : t = { s with groups := t.groups, cores := t.cores } := by rw [← h]
  rw [ht]
  rfl

/-! ### Clause entry (R86) -/

/-- The path with the words of its clause. -/
def Here.latched (h : Here) (ws : List Word) : Path := { h.p with hdr := h.p.pc, words := ws }

theorem State.entering_spec {s : State} {h : Here} (e : s.entering = some h) :
    s.group? h.g.id = some h.g ∧ s.team? h.g.team = some h.t ∧ h.a.path h.slot = some h.p := by
  unfold State.entering at e
  split at e
  · cases e
  · next g hg =>
    split at e
    · next ht hp =>
      split at e
      · cases e
        have hid : g.id = s.cur.1 := by simpa using List.find?_some hg
        exact ⟨by rw [hid]; exact hg, ht, hp⟩
      · cases e
    · cases e

theorem Arch.tracked_setPath (a : Arch) (slot : Bool) (p : Option Path) : (a.setPath slot p).tracked = a.tracked := by cases slot <;> rfl

/-- Two paths in a slot that are parked alike park the group alike. -/
theorem parked_setPath (g : Group) (slot : Bool) {p q : Path} (e : p.park = q.park) :
    ({ g with arch := g.arch.setPath slot (some p) } : Group).parked = ({ g with arch := g.arch.setPath slot (some q) } : Group).parked := by
  unfold Group.parked
  cases slot with
  | false =>
    simp only [Arch.setPath, Bool.false_eq_true, if_false]
    cases g.arch.path1 <;> simp only [e]
  | true =>
    simp only [Arch.setPath, if_true]
    cases g.arch.path0 <;> simp only [e]

theorem State.onGroup_groups_ite (s : State) (grp : Nat) (f : Group → Group) :
    (s.onGroup grp f).groups = s.groups.map fun g => if g.id = grp then f g else g := by
  rw [State.onGroup_groups, mapIf]
  refine List.map_congr_left fun g _ => ?_
  by_cases h : g.id = grp <;> simp [h]

theorem State.onArch_setPath (s : State) (grp : Nat) (f : Arch → Arch) (slot : Bool) (p : Option Path) :
    ((s.onArch grp f).setPath grp slot p).groups = s.groups.map fun g => if g.id = grp then { g with arch := (f g.arch).setPath slot p } else g := by
  unfold State.setPath State.onArch State.onGroup mapIf
  rw [List.map_map]
  refine List.map_congr_left fun g _ => ?_
  by_cases h : g.id = grp <;> simp [h]

/-- Settles O20: a path has its clause's words, and goes on or parks as WAIT says. -/
theorem clauseEntry : Obligations.ClauseEntry := by
  rintro s ⟨h, ws, hent, hheld, hentry, hrefill, harr, hcl, hshare⟩
  obtain ⟨hg, ht, hp⟩ := State.entering_spec hent
  refine ⟨s.enterClause h, ?_, h, ws, hent, hcl, ?_⟩
  · show execClauseEntry s = _
    simp [execClauseEntry, hent, hheld, hentry, State.enter, harr]
  · unfold State.enterClause
    rw [hcl]
    dsimp only
    by_cases hw : h.a.waitMet (headerWait (ws.headD 0)) = true
    · simp only [hw, if_true]
      exact ⟨rfl, State.onArch_setPath s h.g.id _ h.slot _⟩
    · simp only [hw, if_false, Bool.false_eq_true]
      have hu : (s.setPath h.g.id h.slot (some { h.latched ws with park := some (.waitHdr (headerWait (ws.headD 0))) })).group? h.g.id =
          some { h.g with arch := h.a.setPath h.slot (some { h.latched ws with park := some (.waitHdr (headerWait (ws.headD 0))) }) } := by
        unfold State.setPath
        rw [State.group?_onGroup, hg]
        · rfl
        · exact fun _ => rfl
      have hpark := State.parkTest_eq hu (by
        have hctx : (s.setPath h.g.id h.slot (some { h.latched ws with park := some (.waitHdr (headerWait (ws.headD 0))) })).teamCtx h.g.team =
            s.hereCtx h := by
          show s.teamCtx h.g.team = _
          unfold State.teamCtx State.hereCtx
          rw [ht]
          rfl
        rw [hctx]
        refine hshare.imp id fun hf => ?_
        rw [← hf]
        have hset : { s.setPath h.g.id h.slot (some { h.latched ws with park := some (.waitHdr (headerWait (ws.headD 0))) }) with
          groups := s.groups, cores := s.cores } = s := rfl
        have hpark : { s.park h.g.id h.slot (some (.waitHdr (headerWait (ws.headD 0)))) with groups := s.groups, cores := s.cores } = s := rfl
        refine (State.faultParked_eq (g := h.parked (.waitHdr (headerWait (ws.headD 0))))
          (u := { h.g with arch := h.a.setPath h.slot (some { h.latched ws with park := some (.waitHdr (headerWait (ws.headD 0))) }) }) hset ⟨rfl, rfl, rfl, rfl, ?_, ?_⟩).trans
          (State.faultParked_eq hpark (Group.parkedAlike_refl _)).symm
        · exact (Arch.tracked_setPath ..).trans (Arch.tracked_setPath ..).symm
        · exact parked_setPath h.g h.slot rfl)
      show GroupTurns s ((s.setPath h.g.id h.slot (some { h.latched ws with park := some (.waitHdr (headerWait (ws.headD 0))) })).parkTest h.g.id) _ _
      rw [hpark]
      exact ⟨rfl, State.onGroup_groups_ite s h.g.id _⟩

/-! ### Promotion, retirement and recognised loops (R255, R273, R295) -/

theorem foldl_max_ge (l : List Nat) (a : Nat) : a ≤ l.foldl max a ∧ ∀ x ∈ l, x ≤ l.foldl max a := by
  induction l generalizing a with
  | nil => exact ⟨le_rfl, nofun⟩
  | cons b l ih =>
    obtain ⟨h1, h2⟩ := ih (max a b)
    rw [List.foldl_cons]
    refine ⟨by omega, fun x hx => ?_⟩
    rcases List.mem_cons.mp hx with rfl | hx
    · omega
    · exact h2 x hx

theorem foldl_max_mem (l : List Nat) (a : Nat) : l.foldl max a = a ∨ l.foldl max a ∈ l := by
  induction l generalizing a with
  | nil => exact .inl rfl
  | cons b l ih =>
    rw [List.foldl_cons]
    rcases ih (max a b) with h | h
    · rw [h]
      rcases Nat.le_total a b with hab | hab
      · exact .inr (by simp [Nat.max_eq_right hab])
      · exact .inl (Nat.max_eq_left hab)
    · exact .inr (List.mem_cons_of_mem _ h)

theorem pathSteps_promotion (die site quad : Nat) :
    Steps (.starvationPromotion die site quad) (fun s => ∃ e ∈ s.quadPaths die site quad, 256 ≤ e.2.2.2)
      fun s t => ∃ e ∈ s.quadPaths die site quad, (∀ f ∈ s.quadPaths die site quad, f.2.2.2 ≤ e.2.2.2) ∧
        (t.core die site).cur.find? (·.1 == quad) = some (quad, e.1, e.2.1, e.2.2.1) ∧ { t with groups := s.groups, cores := s.cores } = s ∧
        t.groups = s.groups.map fun g => if g.id = e.1 then g.promote e.2.1 e.2.2.1 else g := by
  rintro s ⟨e0, he0, h256⟩
  let ps := (s.quadPaths die site quad).filter fun e => 256 ≤ e.2.2.2
  let top := (ps.map (·.2.2.2)).foldl max 0
  have hps : e0 ∈ ps := List.mem_filter.mpr ⟨he0, by simpa using h256⟩
  have hge : ∀ f ∈ ps, f.2.2.2 ≤ top := fun f hf => (foldl_max_ge _ 0).2 _ (List.mem_map_of_mem hf)
  have hmem : top ∈ ps.map (·.2.2.2) := by
    rcases foldl_max_mem (ps.map (·.2.2.2)) 0 with h | h
    · have h1 := hge e0 hps
      have h2 : top = 0 := h
      omega
    · exact h
  cases hfind : ps.find? fun e => e.2.2.2 == top with
  | none =>
    obtain ⟨e, he, htop⟩ := List.mem_map.mp hmem
    exact absurd htop (by simpa using List.find?_eq_none.mp hfind e he)
  | some e =>
    have hetop : e.2.2.2 = top := by simpa using List.find?_some hfind
    have he : e ∈ s.quadPaths die site quad := (List.mem_filter.mp (List.mem_of_find?_eq_some hfind)).1
    refine ⟨(s.onCore die site fun c => { c with cur := (quad, e.1, e.2.1, e.2.2.1) :: c.cur.filter (·.1 != quad) }).onGroup e.1
      fun x => x.promote e.2.1 e.2.2.1, ?_, e, he, ?_, ?_, ?_, ?_⟩
    · show execStarvationPromotion die site quad s = _
      unfold execStarvationPromotion
      dsimp only
      rw [show ((s.quadPaths die site quad).filter fun e => decide (256 ≤ e.2.2.2)).find? _ = some e from hfind]
    · intro f hf
      rw [hetop]
      by_cases h : 256 ≤ f.2.2.2
      · exact hge f (List.mem_filter.mpr ⟨hf, by simpa using h⟩)
      · have h1 := hge e0 hps
        omega
    · show ((s.onCore die site _).core die site).cur.find? _ = _
      rw [State.core_onCore_same]
      · simp
      · exact fun _ => ⟨rfl, rfl⟩
    · show ({ s.onCore die site _ with groups := s.groups, cores := s.cores } : State) = s
      rw [State.onCore_eq]
    · rw [State.onGroup_groups_ite, State.onCore_groups]

theorem pathSteps_retire (grp : Nat) : Steps (.groupRetire grp)
    (fun s => ∃ g, s.group? grp = some g ∧ g.exited = true ∧ g.retired = false ∧ g.arch.laneBusy = false)
    fun s t => GroupTurns s t grp fun g => { g with retired := true } := by
  rintro s ⟨g, hg, hex, hret, hbusy⟩
  refine ⟨s.onGroup grp fun g => { g with retired := true }, ?_, rfl, State.onGroup_groups_ite s grp _⟩
  show execGroupRetire grp s = _
  simp [execGroupRetire, hg, hex, hret, hbusy]

theorem Arch.path_of_paths {a : Arch} {slot : Bool} {p : Path} {r : List (Bool × Path)} (h : a.paths = (slot, p) :: r) : a.path slot = some p := by
  unfold Arch.paths at h
  cases h0 : a.path0 with
  | some q =>
    rw [h0] at h
    cases h
    exact h0
  | none =>
    rw [h0] at h
    cases h1 : a.path1 with
    | some q =>
      rw [h1] at h
      cases h
      exact h1
    | none =>
      rw [h1] at h
      cases h

theorem pathSteps_spin (grp : Nat) : Steps (.spinRecognition grp)
    (fun s => ∃ g d slot p r tm, s.group? grp = some g ∧ g.detector = some d ∧ d.due = true ∧ g.arch.paths = (slot, p) :: r ∧
      s.team? g.team = some tm ∧ tm.runs = true ∧
      let park := s.park grp slot (some (.spin d.lines d.hit))
      (s.fpshare (s.teamCtx g.team) = 0 ∨
        park.faultParked { g with arch := g.arch.setPath slot (some { p with park := some (.spin d.lines d.hit) }) } = false))
    fun s t => ∃ g d slot p r u, s.group? grp = some g ∧ g.detector = some d ∧ g.arch.paths = (slot, p) :: r ∧ t.group? grp = some u ∧
      OnlyGroup s t grp ∧
      u = { g with detector := none, arch := g.arch.setPath slot (some { p with park := some (.spin d.lines d.hit) }) } := by
  rintro s ⟨g, d, slot, p, r, tm, hg, hd, hdue, hpaths, htm, hruns, hshare⟩
  have hp : g.arch.path slot = some p := Arch.path_of_paths hpaths
  have hw : (((s.onGroup grp fun h => { h with detector := none }).park grp slot (some (.spin d.lines d.hit))).perfGroup g 10 1).group? grp =
      some { g with detector := none, arch := g.arch.setPath slot (some { p with park := some (.spin d.lines d.hit) }) } := by
    rw [State.group?_congr (State.perfGroup_groups _ _ _ _)]
    unfold State.park State.onPath
    rw [State.group?_onArch, State.group?_onGroup, hg]
    · simp only [Option.map_some, hp]
    · exact fun _ => rfl
  have hrest : { ((s.onGroup grp fun h => { h with detector := none }).park grp slot (some (.spin d.lines d.hit))).perfGroup g 10 1 with
      groups := s.groups, cores := s.cores } = s :=
    (congrArg (fun x : State => { x with groups := s.groups })
      (((s.onGroup grp fun h => { h with detector := none }).park grp slot (some (.spin d.lines d.hit))).perfGroup_rest g 10 1) :)
  have hkeep := State.parkTest_eq hw (by
    rw [State.share_eq hrest]
    refine hshare.imp id fun hf => ?_
    rw [← hf]
    have hpark : { s.park grp slot (some (.spin d.lines d.hit)) with groups := s.groups, cores := s.cores } = s := rfl
    exact (State.faultParked_eq (g := { g with arch := g.arch.setPath slot (some { p with park := some (.spin d.lines d.hit) }) }) hrest
      ⟨rfl, rfl, rfl, rfl, rfl, rfl⟩).trans (State.faultParked_eq hpark (Group.parkedAlike_refl _)).symm)
  refine ⟨_, ?_, g, d, slot, p, r, _, hg, hd, hpaths, hw, ?_, rfl⟩
  · show execSpinRecognition grp s = _
    simp only [execSpinRecognition, hg, hd, hpaths, hdue, htm, Option.any_some, hruns, Bool.and_self, if_true]
    rw [hkeep]
  · exact ((State.onlyGroup_onGroup s grp _ (by exact fun _ => rfl)).trans (State.onlyGroup_park _ grp slot _)).trans (State.within_perfGroup _ grp g 10 1).only

/-- Settles O22: the longest-waiting path is promoted, exited groups retire, recognised loops park. -/
theorem pathSteps : Obligations.PathSteps := ⟨pathSteps_promotion, pathSteps_retire, pathSteps_spin⟩

end Sys2Proof.Machine
end

section
/-!
SUPPORT. The matrix unit's rope, loads, exchanges and release, and register blocks (R226, R229-R232, R242).
-/
namespace Sys2Proof.Machine

/-! ### The matrix unit and its cores -/

theorem State.core_onMx (s : State) (die site : Nat) (f : Matrix → Matrix) : ((s.onMx die site f).core die site).mx = f (s.core die site).mx := by
  unfold State.onMx
  rw [State.core_onCore_same]
  exact fun _ => ⟨rfl, rfl⟩

theorem State.core_onMx_other (s : State) (die site : Nat) (f : Matrix → Matrix) {d q : Nat} (h : (d, q) ≠ (die, site)) :
    (s.onMx die site f).core d q = s.core d q := by
  unfold State.onMx
  rw [State.core_onCore _ _ _ _ ?_ _ _ (s.core_name die site), if_neg fun e => h (by rw [e.1, e.2])]
  exact fun _ => ⟨rfl, rfl⟩

theorem State.onMx_rest (s : State) (die site : Nat) (f : Matrix → Matrix) : { s.onMx die site f with cores := s.cores } = s := by
  unfold State.onMx
  rw [State.onCore_eq]

/-- A completed access of a group leaves everything outside its group. -/
theorem State.complete_eq (s : State) (grp : Nat) (seq : Option Nat) : s.complete grp seq = { s with groups := (s.complete grp seq).groups } := by
  unfold State.complete
  split <;> rfl

theorem State.core_complete (s : State) (grp : Nat) (seq : Option Nat) (d q : Nat) : (s.complete grp seq).core d q = s.core d q := by
  rw [State.complete_eq]
  rfl

/-- The unit of a core without a thread that has run (R136). -/
theorem State.endMx_mx (s : State) (die site : Nat) (x : MxThread) :
    ((s.endMx die site x).core die site).mx =
      { (s.core die site).mx with threads := (s.core die site).mx.threads.filter (·.no != x.no) } := by
  unfold State.endMx
  rw [State.core_complete, State.core_onMx]

theorem State.endMx_rest (s : State) (die site : Nat) (x : MxThread) : { s.endMx die site x with groups := s.groups, cores := s.cores } = s := by
  unfold State.endMx
  rw [State.complete_eq]
  exact (congrArg (fun z : State => { z with groups := s.groups }) (s.onMx_rest die site fun m => { m with threads := m.threads.filter (·.no != x.no) }) :)

theorem State.core_endMx_other (s : State) (die site : Nat) (x : MxThread) {d q : Nat} (h : (d, q) ≠ (die, site)) :
    (s.endMx die site x).core d q = s.core d q := by
  unfold State.endMx
  rw [State.core_complete, State.core_onMx_other _ _ _ _ h]

/-! ### The rope (R226) -/

/-- The path at a place goes on behind its instruction. -/
def Arch.goesOnAt (a : Arch) (w : PathAt) : Arch :=
  match w with
  | .slot b => a.goesOn b
  | w => a.onPathAt w fun p => p.advance 1

theorem State.within_retireAt (s : State) (grp : Nat) (w : PathAt) : Within grp (fun a => a.goesOnAt w) s (s.retireAt grp w) := by
  have hheld : ∀ g, Within grp (fun a => a.onPathAt w fun p => p.advance 1) s
      (((s.onArch grp fun a => a.onPathAt w fun p => p.advance 1).onTeam g.team fun t => { t with ret := satCount (t.ret + 1) }).perfGroup g 2 1) :=
    fun g => Within.trans (k := id) (Within.trans (k := id) (State.within_onArch s grp fun a => a.onPathAt w fun p => p.advance 1)
      (State.within_ret _ grp g.team fun t => satCount (t.ret + 1))) (State.within_perfGroup _ grp g 2 1)
  cases w with
  | slot b => exact State.within_retireParked s grp b
  | held i =>
    unfold State.retireAt
    cases e : s.group? grp with
    | none => exact ⟨fun g hg => (by rw [e] at hg; cases hg), .refl s grp⟩
    | some g => exact hheld g
  | spilled n =>
    unfold State.retireAt
    cases e : s.group? grp with
    | none => exact ⟨fun g hg => (by rw [e] at hg; cases hg), .refl s grp⟩
    | some g => exact hheld g

theorem matrixSteps_ropeGrant (die site : Nat) : Steps (.ropeGrant die site)
    (fun s => ∃ g r q, (s.core die site).mx.ropeq = g :: r ∧ s.group? g.1 = some q ∧ (s.core die site).mx.rope = none ∧
      (s.core die site).mx.release = false ∧ ((s.core die site).mx.team = none ∨ (s.core die site).mx.team = some q.team) ∧
      (s.team? q.team).any Team.runs = true)
    fun s t => ∃ g r q u, (s.core die site).mx.ropeq = g :: r ∧ s.group? g.1 = some q ∧ t.group? g.1 = some u ∧
      (t.core die site).mx = { (s.core die site).mx with rope := some g.1, ropeq := r, team := some q.team } ∧
      (∀ w p, (w, p) ∈ q.everyPath → q.placeOf (· == .rope g.2) = some w → match w with
        | .slot slot => q.arch.path slot = some p → u.arch = q.arch.setPath slot (some (p.advance 1))
        | w => u.arch = q.arch.onPathAt w fun p => p.advance 1) ∧
      OnlyGroup s (t.onMx die site fun _ => (s.core die site).mx) g.1 := by
  rintro s ⟨g, r, q, hq, hg, hrope, hrel, hteam, hruns⟩
  let w : State := s.onMx die site fun m => { m with rope := some g.1, ropeq := r, team := some q.team }
  have hwg : w.group? g.1 = some q := (State.group?_congr (State.onMx_groups _ _ _ _) _).trans hg
  have hcond : ((s.core die site).mx.rope == none && !(s.core die site).mx.release &&
      ((s.core die site).mx.team == none || (s.core die site).mx.team == some q.team) && (s.team? q.team).any Team.runs) = true := by
    rcases hteam with h | h <;> simp [hrope, hrel, h, hruns]
  have hback : OnlyGroup s (w.onMx die site fun _ => (s.core die site).mx) g.1 := by
    refine State.core_restored _ _ _ _ _ ?_ ?_ ?_ _
    · exact fun _ => ⟨rfl, rfl⟩
    · exact fun _ => ⟨rfl, rfl⟩
    · rfl
  have hstep : execRopeGrant die site s = .next (match q.placeOf (· == .rope g.2) with | some x => w.retireAt g.1 x | none => w) := by
    unfold execRopeGrant
    simp only [hq, hg, hcond, if_true]
    cases q.placeOf (· == .rope g.2) <;> rfl
  cases hp : q.placeOf (· == .rope g.2) with
  | none =>
    rw [hp] at hstep
    refine ⟨w, hstep, g, r, q, q, hq, hg, hwg, State.core_onMx .., ?_, hback⟩
    intro x p _ e
    rw [hp] at e
    cases e
  | some x =>
    rw [hp] at hstep
    have hw := State.within_retireAt w g.1 x
    obtain ⟨u, hu, hua, -⟩ := hw.group q hwg
    refine ⟨_, hstep, g, r, q, u, hq, hg, hu, ?_, ?_, hback.trans ((Restores.mx die site _ g.1).only _ _ hw.only)⟩
    · exact (congrArg Core.mx (hw.only.cores die site) :).trans (State.core_onMx ..)
    · intro y p _ e
      cases hp.symm.trans e
      cases x with
      | slot b => exact fun hpath => hua.trans (Arch.goesOn_of_path hpath)
      | held i => exact hua
      | spilled n => exact hua

/-! ### Loads, exchanges and release (R230-R232) -/

theorem look_storeOf (s : State) (k n j : Nat) : Sparse.look (storeOf (s.bytes k n)) j = if j < n then s.byte (k + j) else 0 := by
  unfold storeOf
  rw [look_putBytes]
  have hlen : (s.bytes k n).length = n := by simp [State.bytes]
  rw [hlen]
  split
  · next h =>
    have hj : j < n := by omega
    rw [if_pos hj]
    simp [State.bytes, hj]
  · next h => rw [if_neg (by omega)]; rfl

theorem matrixSteps_load (die site : Nat) : Steps (.matrixLoadThread die site)
    (fun s => ∃ x o, s.mxNext die site MxKind.isLoad (· == .mswp) = some x ∧
      (x.kind = .mldE o ∧ s.isLost (teamKey x.team o) (tileBytes (atyp x.fmt)) = false ∨
        x.kind = .mldS o ∧ s.isLost (teamKey x.team o) (tileScaleBytes (atyp x.fmt)) = false))
    fun s t => ∃ x o, s.mxNext die site MxKind.isLoad (· == .mswp) = some x ∧
      let m := (s.core die site).mx
      let u := (t.core die site).mx
      (x.kind = .mldE o ∧ u.shadow.ptag = fld x.fmt 0 4 ∧ u.shadow.scale = m.shadow.scale ∧
          (∀ j, Sparse.look u.shadow.elem j = if j < tileBytes (atyp x.fmt) then s.byte (teamKey x.team o + j) else 0) ∨
        x.kind = .mldS o ∧ u.shadow.ptag = m.shadow.ptag ∧ u.shadow.elem = m.shadow.elem ∧
          ∀ j, Sparse.look u.shadow.scale j = if j < tileScaleBytes (atyp x.fmt) then s.byte (teamKey x.team o + j) else 0) ∧
      u = { m with shadow := u.shadow, threads := m.threads.filter (·.no != x.no) } ∧
      { t with groups := s.groups, cores := s.cores } = s ∧
      ∀ d q, (d, q) ≠ (die, site) → t.core d q = s.core d q := by
  rintro s ⟨x, o, hx, h⟩
  have hrest : ∀ f : Matrix → Matrix, { (s.onMx die site f).endMx die site x with groups := s.groups, cores := s.cores } = s := fun f =>
    (congrArg (fun z : State => { z with groups := s.groups, cores := s.cores }) ((s.onMx die site f).endMx_rest die site x) :).trans
      (congrArg (fun z : State => { z with groups := s.groups }) (s.onMx_rest die site f) :)
  have hother : ∀ (f : Matrix → Matrix) d q, (d, q) ≠ (die, site) → ((s.onMx die site f).endMx die site x).core d q = s.core d q := fun f d q e =>
    (State.core_endMx_other _ die site x e).trans (s.core_onMx_other die site f e)
  rcases h with ⟨hk, hl⟩ | ⟨hk, hl⟩
  · refine ⟨_, ?_, x, o, hx, ?_, ?_, hrest fun m => { m with shadow := { m.shadow with
        elem := storeOf (s.bytes (teamKey x.team o) (tileBytes (atyp x.fmt))), ptag := fld x.fmt 0 4 } }, hother _⟩
    · change execMatrixLoadThread die site s = _
      unfold execMatrixLoadThread
      simp [hx, hk, hl]
    · rw [State.endMx_mx, State.core_onMx]
      exact .inl ⟨hk, rfl, rfl, look_storeOf s _ _⟩
    · rw [State.endMx_mx, State.core_onMx]
  · refine ⟨_, ?_, x, o, hx, ?_, ?_, hrest fun m => { m with shadow := { m.shadow with
        scale := storeOf (s.bytes (teamKey x.team o) (tileScaleBytes (atyp x.fmt))) } }, hother _⟩
    · change execMatrixLoadThread die site s = _
      unfold execMatrixLoadThread
      simp [hx, hk, hl]
    · rw [State.endMx_mx, State.core_onMx]
      exact .inr ⟨hk, rfl, rfl, look_storeOf s _ _⟩
    · rw [State.endMx_mx, State.core_onMx]

theorem matrixSteps_exchange (die site : Nat) : Steps (.mswpExchange die site)
    (fun s => ∃ x, s.mxNext die site (· == .mswp) (fun k => k.isLoad || k.isLoop) = some x)
    fun s t => ∃ x, s.mxNext die site (· == .mswp) (fun k => k.isLoad || k.isLoop) = some x ∧
      let m := (s.core die site).mx
      (t.core die site).mx = { m with active := m.shadow, shadow := m.active, threads := m.threads.filter (·.no != x.no) } ∧
      { t with groups := s.groups, cores := s.cores } = s := by
  rintro s ⟨x, hx⟩
  refine ⟨(s.onMx die site fun m => { m with active := m.shadow, shadow := m.active }).endMx die site x, ?_, x, hx, ?_, ?_⟩
  · change execMswpExchange die site s = _
    unfold execMswpExchange
    rw [hx]
  · rw [State.endMx_mx, State.core_onMx]
  · exact (congrArg (fun z : State => { z with groups := s.groups, cores := s.cores }) (State.endMx_rest _ die site x) :).trans
      (congrArg (fun z : State => { z with groups := s.groups }) (s.onMx_rest die site _) :)

theorem matrixSteps_release (die site : Nat) : Steps (.matrixRelease die site)
    (fun s => (s.core die site).mx.release = true ∧ (s.core die site).mx.threads = [])
    fun s t => let m := (s.core die site).mx
      (t.core die site).mx = ⟨⟨[], [], 0⟩, ⟨[], [], 0⟩, [], none, m.ropeq, none, [], m.nextNo, false, false⟩ ∧ { t with cores := s.cores } = s := by
  rintro s ⟨hr, ht⟩
  refine ⟨s.onMx die site fun m => { Matrix.reset with ropeq := m.ropeq, nextNo := m.nextNo }, ?_, ?_, s.onMx_rest die site _⟩
  · change execMatrixRelease die site s = _
    unfold execMatrixRelease
    simp [hr, ht]
  · rw [State.core_onMx]
    rfl

/-! ### Register blocks (R242) -/

/-- Teams that differ in their counts only are found alike. -/
theorem State.team?_calm {s t : State} (h : t.teams.map Team.calm = s.teams.map Team.calm) (n : Nat) :
    (t.team? n).map Team.calm = (s.team? n).map Team.calm := by
  have hfind : ∀ l : List Team, (l.find? (·.id == n)).map Team.calm = (l.map Team.calm).find? (·.id == n) := fun l => by
    rw [List.find?_map]
    rfl
  unfold State.team?
  rw [hfind, hfind, h]

theorem matrixSteps_blockWake (team quad : Nat) : Steps (.blockWake team quad)
    (fun s => ∃ tm e r g slot p n, s.team? team = some tm ∧ tm.runs = true ∧ s.takersOf tm quad = e :: r ∧ s.group? e.1 = some g ∧
      g.takerPath e.2 = some (.slot slot, n) ∧ g.arch.path slot = some p ∧ n ≤ tm.pools.getD quad 0)
    fun s t => ∃ tm e r g slot p n u, s.team? team = some tm ∧ s.takersOf tm quad = e :: r ∧ s.group? e.1 = some g ∧
      g.takerPath e.2 = some (.slot slot, n) ∧ g.arch.path slot = some p ∧ t.group? g.id = some u ∧
      u.arch = (g.arch.freshBlocks g.arch.blocks n (g.arch.blocks + n)).setPath slot (some (p.advance 1)) ∧
      (t.team? team).map (·.pools) = some (tm.withPool quad fun k => k - n).pools ∧ t.mem = s.mem := by
  rintro s ⟨tm, e, r, g, slot, p, n, htm, hruns, htk, hg, hpath, hp, hn⟩
  let w := (s.onTeam team fun t => { t with takers := dropFirst (· == e) t.takers }).takeBlocks e.1 team quad n
  have hid : g.id = e.1 := by simpa using List.find?_some hg
  have hwg : w.group? e.1 = some (g.setBlocks g.arch.blocks n (g.arch.blocks + n)) := by
    refine (State.group?_onGroup s e.1 (fun g => g.setBlocks g.arch.blocks n (g.arch.blocks + n)) fun _ => rfl).trans ?_
    rw [hg]
    rfl
  have hwt : (w.team? team).map (·.pools) = some (tm.withPool quad fun k => k - n).pools := by
    have htid : tm.id = team := by simpa using List.find?_some htm
    refine (congrArg (Option.map (·.pools)) (State.team?_onTeam _ team (f := fun t => { t with
      pools := t.pools.mapIdx fun i k => if i = quad then k - n else k }) (fun _ => rfl) team) :).trans ?_
    have hinner : ((s.onTeam team fun t => { t with takers := dropFirst (· == e) t.takers }).onGroup e.1 fun g =>
        g.setBlocks g.arch.blocks n (g.arch.blocks + n)).team? team = some { tm with takers := dropFirst (· == e) tm.takers } := by
      refine (State.team?_onTeam s team (f := fun t => { t with takers := dropFirst (· == e) t.takers }) (fun _ => rfl) team).trans ?_
      rw [htm]
      simp [htid]
    rw [hinner]
    simp [htid, Team.withPool]
  have hw := State.within_retireAt w e.1 (.slot slot)
  obtain ⟨u, hu, hua, -⟩ := hw.group _ hwg
  refine ⟨w.retireAt e.1 (.slot slot), ?_, tm, e, r, g, slot, p, n, u, htm, htk, hg, hpath, hp, by rw [hid]; exact hu, ?_, ?_, ?_⟩
  · change execBlockWake team quad s = _
    unfold execBlockWake
    have hc : (decide (n ≤ tm.pools.getD quad 0) && tm.runs) = true := by rw [hruns, Bool.and_true]; exact decide_eq_true hn
    simp only [htm, htk, List.head?_cons, Option.bind_some, hg, hpath, Option.map_some, hc, if_true]
    rfl
  · rw [hua]
    refine (Arch.goesOn_of_path (p := p) ?_).trans ?_
    · rw [Group.setBlocks_arch]
      exact hp
    · rw [Group.setBlocks_arch]
  · rw [← hwt]
    have h := congrArg (Option.map Team.pools) (State.team?_calm hw.only.teams team)
    rwa [Option.map_map, Option.map_map] at h
  · exact (congrArg State.mem hw.only.rest :)

/-- Settles O24, step by step: the rope, loads, exchanges, the release of the unit, and register blocks. -/
theorem matrixSteps : Obligations.MatrixSteps :=
  ⟨matrixSteps_ropeGrant, matrixSteps_load, matrixSteps_exchange, matrixSteps_release, matrixSteps_blockWake⟩

end Sys2Proof.Machine
end

section
/-!
SUPPORT. A step of a loop (R236), and a drain's last row over its window's registers (R240).
-/
namespace Sys2Proof.Machine

/-! ### A step of a loop (R236) -/

/-- Words put one after another from a place on. -/
theorem Sparse.look_foldl_put {w : Nat} (t : List (Nat × BitVec w)) (b n k : Nat) (f : Nat → BitVec w) :
    Sparse.look ((List.range n).foldl (fun acc i => Sparse.put acc (b + i) (f i)) t) k =
      if b ≤ k ∧ k < b + n then f (k - b) else Sparse.look t k := by
  induction n with
  | zero => rw [if_neg (by omega)]; rfl
  | succ n ih =>
    rw [List.range_succ, List.foldl_append, List.foldl_cons, List.foldl_nil, Sparse.look_put, ih]
    by_cases h : k = b + n
    · subst h
      rw [if_pos rfl, if_pos (by omega), Nat.add_sub_cancel_left]
    · rw [if_neg h]
      by_cases hk : b ≤ k ∧ k < b + n
      · rw [if_pos hk, if_pos (by omega)]
      · rw [if_neg hk, if_neg (by omega)]

theorem Matrix.loopStep_acc (m : Matrix) (x : MxThread) (zero : Bool) (b : List Byte) (vec vscale : Nat → Byte) (k : Nat) :
    Sparse.look (m.loopStep x zero b vec vscale).acc k =
      if 128 * loopRow b x.step ≤ k ∧ k < 128 * loopRow b x.step + 128 then
        stepColumn (atyp x.fmt) (btyp x.fmt) (Sparse.look m.active.elem) (Sparse.look m.active.scale) vec vscale (k - 128 * loopRow b x.step)
          (if zero && !x.rows.contains (loopRow b x.step) then 0 else Sparse.look m.acc (128 * loopRow b x.step + (k - 128 * loopRow b x.step)))
      else Sparse.look m.acc k := by
  unfold Matrix.loopStep
  dsimp only
  rw [Sparse.look_foldl_put]

/-- Team memory is no stack's. -/
theorem not_teamKey_lt (team o : Nat) : ¬ teamKey team o < 2 ^ 40 := by
  unfold teamKey physKey
  omega

theorem State.lostIn_of_none {s : State} (h : s.lost = []) (team o n : Nat) : s.lostIn (teamKey team o) n = 0 := by
  unfold State.lostIn State.isLost
  rw [h, decide_eq_false (not_teamKey_lt team o)]
  simp

/-- A thread's step leaves the core's unit as it made it, but for the thread that has run. -/
theorem State.mx_stepped (s : State) (die site ctx n k team : Nat) (f : Matrix → Matrix) (F : Team → Team) (x : MxThread) (last : Prop) [Decidable last] :
    let w := ((s.onMx die site f).perf die site ctx n k).onTeam team F
    let t := if last then w.endMx die site x else w
    (∃ ts, (t.core die site).mx = { f (s.core die site).mx with threads := ts }) ∧ { t with groups := s.groups, teams := s.teams, cores := s.cores } = s := by
  intro w t
  have hmx : (w.core die site).mx = f (s.core die site).mx :=
    (congrArg Core.mx (State.perf_core (s.onMx die site f) die site ctx n k die site) :).trans (s.core_onMx die site f)
  have hrest : { w with groups := s.groups, teams := s.teams, cores := s.cores } = s :=
    (congrArg (fun z : State => { z with groups := s.groups, teams := s.teams, cores := s.cores }) ((s.onMx die site f).perf_rest die site ctx n k) :).trans
      (congrArg (fun z : State => { z with groups := s.groups, teams := s.teams }) (s.onMx_rest die site f) :)
  by_cases h : last
  · have ht : t = w.endMx die site x := if_pos h
    rw [ht]
    refine ⟨⟨_, (w.endMx_mx die site x).trans (by rw [hmx])⟩, ?_⟩
    exact (congrArg (fun z : State => { z with groups := s.groups, teams := s.teams, cores := s.cores }) (w.endMx_rest die site x) :).trans hrest
  · have ht : t = w := if_neg h
    rw [ht]
    exact ⟨⟨_, hmx⟩, hrest⟩

/-- The bytes that a loop's step reads: the record b gives their base and increment (R236). -/
def State.loopBytes (s : State) (x : MxThread) (b : List Byte) (base inc : Nat) : Nat → Byte :=
  fun i => s.byte (teamKey x.team (((fieldOf b base 4 : Int) + x.step * signedField b inc 4).toNat + i))

/-- Settles O25: a loop's step is one step of its core's unit. -/
theorem matrixLoopStep : Obligations.MatrixLoopStep := by
  rintro die site s ⟨x, tm, o, z, hx, hk, htm, hecc, hrec, hlost⟩
  obtain ⟨b, hb⟩ : ∃ b, b = x.record.getD (s.bytes (teamKey x.team o) 32) := ⟨_, rfl⟩
  obtain ⟨⟨ts, hmx⟩, hrest⟩ := s.mx_stepped die site (s.gridCtx tm.grid) 8 1 x.team
    (fun m => m.loopStep x z b (s.loopBytes x b 0x00 0x04) (s.loopBytes x b 0x08 0x0C))
    (fun u => { u with ops := u.ops + 128 * fmtDepth (atyp x.fmt) }) x (x.step + 1 = fieldOf b 0x14 4)
  have hbad : (if x.record.isSome then none else if s.isLost (teamKey x.team o) 32 then some (lossAt o ⟨teamKey x.team o, 0, 1⟩)
      else loopFault tm x.fmt o b) = none := by
    cases hr : x.record with
    | some b => rfl
    | none =>
      obtain ⟨hl, hf⟩ := hrec hr
      rw [hb, hr]
      simp [hl, hf]
  refine ⟨_, ?_, x, o, z, hx, hk, ?_, ?_, ?_, ?_, hrest⟩
  · change execMatrixLoopStep die site s = _
    unfold execMatrixLoopStep
    simp only [hx, htm, hk, ← hb, hbad, State.lostIn_of_none hlost, State.mxLost, hecc, Nat.add_zero, if_true, Bool.false_eq_true, if_false]
    split <;> rfl
  · intro n hn
    rw [hmx, ← hb]
    refine (Matrix.loopStep_acc ..).trans ?_
    rw [if_pos (by unfold loopRow; omega)]
    unfold loopRow State.loopBytes
    rw [Nat.add_sub_cancel_left]
  · intro k hr
    rw [← hb] at hr
    rw [hmx]
    refine (Matrix.loopStep_acc ..).trans (if_neg fun h => hr ?_)
    unfold loopRow at h
    omega
  · rw [hmx]
    rfl
  · exact (congrArg State.mem hrest :)

/-! ### A drain's last row over the window's registers (R125, R240) -/

/-- A drain record of one row, with its elements at offset 0 and its amax word at die-scratchpad offset 0. -/
def rowRecord : List Byte := [0, 0, 1] ++ List.replicate 29 0

/-- The drain of team 1 that is due: FP32 to FP32 with AMAX, and 5 as the largest magnitude so far. -/
def lastRow : MxThread :=
  { no := 0, kind := .mdrn 0 false, grp := 0, team := 1, seq := none, fmt := 0x4000, pc := 0, iword := 0, record := some rowRecord, step := 0, rows := []
    amax := 5 }

/-- The die of a team so far that SPWBASE and SPWLEN of it, in a context record of target 3, stand where team 1's memory begins. -/
def farDie : Nat := 2 ^ 61 + 2 ^ 18 - 12

/-- Team 1 with that drain; SPWLEN is 4. -/
def drainOver : State :=
  { State.reset with
    cores := [{ Core.reset 0 0 with mx := { Matrix.reset with threads := [lastRow] } }]
    teams := [{ Team.first 1 0 farDie with tmem := 512 }]
    ctxs := [Ctx.first 0 (BitVec.ofNat 64 (3 * 2 ^ 62))]
    mem := putBytes [] (teamKey 1 4) [4] }

/-- A byte of the state that a step answers. -/
def byteAfter (o : Host.Outcome State Fault Refusal) (k : Nat) : Byte :=
  match o with
  | .next t => t.byte k
  | _ => 1

/-- The drain that is due, its team and the place of its amax word; and what its last row leaves there. -/
theorem drainOver_facts : drainOver.drainNext 0 0 = some lastRow ∧ drainOver.team? 1 = some { Team.first 1 0 farDie with tmem := 512 } ∧
    drainOver.dieKey { Team.first 1 0 farDie with tmem := 512 } 0 4 = some (scratchKey farDie 0) ∧
    byteAfter (exec (.drainThread 0 0) drainOver) (scratchKey farDie 0) = 0 := by decide +kernel

/-- Refutes O26: the statement admits teams of any die number. On a die so far that its SPWBASE and SPWLEN stand in team 1's memory, the row that
the last step writes ends the window before the amax is merged, and the amax word stays 0 where the statement asks for 5. -/
theorem not_matrixDrainStep : ¬ Obligations.MatrixDrainStep := by
  intro claim
  obtain ⟨hnext, hteam, hplace, hnow⟩ := drainOver_facts
  obtain ⟨t, ht, x, tm, o, z, hx, hk, htm, -, hmerge, -⟩ := claim 0 0 drainOver
    ⟨lastRow, _, 0, false, hnext, rfl, hteam, nofun, by decide +kernel⟩
  have hxe : x = lastRow := Option.some_inj.mp (hx.symm.trans hnext)
  subst hxe
  have htme := Option.some_inj.mp (htm.symm.trans hteam)
  subst htme
  cases hk
  have hbyte : t.byte (scratchKey farDie 0) = 0 := (congrArg (byteAfter · (scratchKey farDie 0)) ht).symm.trans hnow
  have hword := hmerge (by decide +kernel) (by decide +kernel) (by decide +kernel) _ hplace (scratchKey farDie 0)
  exact absurd (hbyte.symm.trans hword) (by decide +kernel)

end Sys2Proof.Machine
end

section
/-!
SUPPORT. Split-stack positions (R268).
-/
namespace Sys2Proof.Machine

/-! ### Writes that change memory and one group (R268) -/

theorem Group.quiet_firedBy (g : Group) (k n : Nat) : (g.firedBy k n).quiet = g.quiet := rfl

theorem Group.quiet_of_fired {k n : Nat} {g u : Group} (h : Group.Fired k n g u) : u.quiet = g.quiet :=
  (congrArg Group.quiet h :)

theorem WriteEvent.quiet_groups {s t : State} {k : Nat} {bs : List Byte} (h : WriteEvent s t k bs) (p : Group → Bool) (hp : ∀ g u, u.id = g.id → p u = p g) :
    (t.groups.filter p).map Group.quiet = (s.groups.filter p).map Group.quiet := by
  obtain ⟨F, hF, hR⟩ := h.groups
  have hq : ∀ g, (F g).quiet = g.quiet := fun g => Group.quiet_of_fired (hR g)
  have hpF : p ∘ F = p := funext fun g => hp g (F g) (congrArg Group.id (hq g) :)
  rw [hF, List.filter_map, List.map_map, hpF]
  exact List.map_congr_left fun g _ => hq g

theorem WriteEvent.quiet_teams {s t : State} {k : Nat} {bs : List Byte} (h : WriteEvent s t k bs) : t.teams.map Team.quiet = s.teams.map Team.quiet := by
  obtain ⟨F, hF, hR⟩ := h.teams
  rw [hF, List.map_map]
  exact List.map_congr_left fun x _ => (congrArg Team.quiet (hR x) :)

/-- A write, and what changes one group behind it. -/
theorem WriteEvent.onlyMemory {s w p t : State} {k grp : Nat} {bs : List Byte} (hw : { w with fe := s.fe } = s) (hp : WriteEvent w p k bs)
    (ht : OnlyGroup p t grp) : OnlyMemory s { t with fe := s.fe, lost := s.lost } grp where
  rest := by
    have h := (congrArg (fun z : State => { z.unwritten s with fe := s.fe, free := s.free }) ht.rest :).trans
      (congrArg (fun z : State => { z.unwritten s with fe := s.fe, free := s.free }) hp.rest :)
    exact h.trans (congrArg (fun z : State => { z.unwritten s with fe := s.fe, free := s.free }) hw :)
  others := by
    have hg : w.groups = s.groups := (congrArg State.groups hw :)
    refine (congrArg (List.map Group.quiet) ht.others :).trans ((hp.quiet_groups (fun g => g.id != grp) fun g u e => ?_).trans ?_)
    · rw [e]
    · rw [hg]
  teams := by
    have hg : w.teams = s.teams := (congrArg State.teams hw :)
    have hcalm := congrArg (List.map Team.quiet) ht.teams
    rw [List.map_map, List.map_map] at hcalm
    refine (hcalm :).trans (hp.quiet_teams.trans ?_)
    rw [hg]
  cores die site := by
    have hg : w.cores = s.cores := (congrArg State.cores hw :)
    refine (ht.cores die site).trans ((hp.cores die site).trans ?_)
    unfold State.core
    rw [hg]

/-! ### Split-stack positions (R268) -/

theorem State.spiller_group {s : State} {grp : Nat} {h : Here} (e : s.spiller grp = some h) : s.group? grp = some h.g := by
  unfold State.spiller at e
  cases hg : s.group? grp with
  | none => rw [hg] at e; cases e
  | some g =>
    rw [hg] at e
    dsimp only at e
    cases ht : s.team? g.team with
    | none => rw [ht] at e; cases e
    | some t =>
      rw [ht] at e
      dsimp only at e
      split at e
      · cases e; rfl
      · cases e

theorem State.withdrawFor_fe (s : State) (p : Pos) : { s.withdrawFor p with fe := s.fe } = s := by
  unfold State.withdrawFor
  split <;> rfl

theorem Arch.spill_kept (a : Arch) {q : Pos} {p : Path} {d : Nat} (e : q = .wait p d) : (a.spill q).kept.head? = some (a.spilled, p) := by
  subst e
  rfl

theorem splitStackSteps_spill (grp : Nat) : Steps (.splitStackSpill grp)
    (fun s => ∃ h q x, s.spiller grp = some h ∧ h.a.spillDue = true ∧ h.a.stack.getLast? = some q ∧
      s.access (s.privWalker h) .write (s.spillVA h h.a.spilled) 64 = .ok x ∧ s.mergesLost x.1 64 = false ∧
      s.held (s.privWalker h) (s.spillVA h h.a.spilled) = false)
    fun s t => ∃ h q x u, s.spiller grp = some h ∧ h.a.stack.getLast? = some q ∧
      s.access (s.privWalker h) .write (s.spillVA h h.a.spilled) 64 = .ok x ∧
      (∀ k, t.byte k = putAt s.byte ((List.range q.afterService.image.length).map fun j => x.1 + j) q.afterService.image k) ∧
      t.group? grp = some u ∧ u.arch.stack.length + 1 = h.a.stack.length ∧
      (∀ p d, q.afterService = .wait p d → u.arch.kept.head? = some (h.a.spilled, p)) ∧
      u.quiet = { h.g.quiet with arch := { h.a.regs with spilled := h.a.spilled + 1 } } ∧
      OnlyMemory s { t with fe := s.fe, lost := s.lost } grp := by
  rintro s ⟨h, q, x, hh, hdue, hlast, hx, hlost, hheld⟩
  have hg := State.spiller_group hh
  have hid : h.g.id = grp := by simpa using List.find?_some hg
  have hwd := s.withdrawFor_fe q
  have hw := (s.withdrawFor q).writeEvent_store x.1 q.afterService.image
  have hk : Within grp (fun a => a.spill q.afterService) ((s.withdrawFor q).store x.1 q.afterService.image)
      ((((s.withdrawFor q).store x.1 q.afterService.image).onArch grp fun a => a.spill q.afterService).perfGroup h.g 7 1) :=
    Within.trans (k := id) (State.within_onArch ..) (State.within_perfGroup ..)
  obtain ⟨v, hv, hfired⟩ := MapsGroups.group? (R := Group.Fired x.1 q.afterService.image.length) (fun a b e => (congrArg Group.id e :)) hw.groups (n := grp) (g := h.g)
    ((State.group?_congr (congrArg State.groups hwd :) grp).trans hg)
  obtain ⟨u, hu, hua, hur⟩ := hk.group v hv
  have hva : v.arch = h.g.arch.onPaths (·.firedBy x.1 q.afterService.image.length) := (congrArg Group.arch hfired :)
  have hvq : v.quiet = h.g.quiet := Group.quiet_of_fired hfired
  have huq : u.quiet = { v.quiet with arch := u.arch.regs } := (congrArg (fun y : Group => { y.quiet with arch := u.arch.regs }) hur :)
  refine ⟨_, ?_, h, q, x, u, hh, hlast, hx, ?_, hu, ?_, ?_, ?_, hw.onlyMemory hwd hk.only⟩
  · change execSplitStackSpill grp s = _
    unfold execSplitStackSpill State.spillOne
    simp only [hh, hdue, hheld, hlast, hx, hlost, hid]
    rfl
  · intro k
    refine (congrFun (congrArg Sparse.look (congrArg State.mem hk.only.rest :)) k).trans ?_
    refine (congrFun ((s.withdrawFor q).byte_store x.1 q.afterService.image) k).trans ?_
    have hb : (s.withdrawFor q).byte = s.byte := (congrArg State.byte hwd :)
    rw [hb]
  · rw [hua, hva]
    have hne : h.g.arch.stack ≠ [] := fun e => by rw [Here.a, e] at hlast; cases hlast
    have := List.length_pos_iff.mpr hne
    simp only [Arch.spill, Arch.onPaths, List.length_dropLast, List.length_map, Here.a]
    omega
  · intro p d e
    rw [hua, hva]
    exact Arch.spill_kept _ e
  · rw [huq, hvq, hua, hva]
    rfl

theorem Arch.spilled_setPath (a : Arch) (slot : Bool) (p : Option Path) : (a.setPath slot p).spilled = a.spilled := by
  unfold Arch.setPath
  split <;> rfl

theorem Arch.spilled_popWait (a : Arch) (pst : List Word) : (a.popWait pst).spilled = a.spilled := by
  unfold Arch.popWait
  split
  · exact Arch.spilled_setPath ..
  · rfl

theorem Arch.spilled_mergeCheck (a : Arch) (pst : List Word) : (a.mergeCheck pst).spilled = a.spilled := by
  unfold Arch.mergeCheck
  split
  · dsimp only
    split
    · split
      · rw [Arch.spilled_popWait, Arch.spilled_setPath]
      · rfl
    · rfl
  · rfl

theorem Arch.spilled_unwind (n : Nat) (a : Arch) (pst : List Word) : (a.unwind n pst).spilled = a.spilled := by
  induction n generalizing a with
  | zero => rfl
  | succ n ih =>
    unfold Arch.unwind
    split
    · rfl
    · split
      · rfl
      · exact ih _
      · exact (ih _).trans (Arch.spilled_mergeCheck ..)
      · exact (ih _).trans (Arch.spilled_popWait ..)

theorem Arch.spilled_settle (a : Arch) (pst : List Word) : (a.settle pst).spilled = a.spilled :=
  (Arch.spilled_popWait ..).trans (Arch.spilled_unwind ..)

/-- With a path in both slots nothing is popped. -/
theorem Arch.settle_of_paths {a : Arch} (h0 : a.path0.isSome = true) (h1 : a.path1.isSome = true) (pst : List Word) :
    a.settle pst = { a with low := [] } := by
  obtain ⟨p0, e0⟩ := Option.isSome_iff_exists.mp h0
  obtain ⟨p1, e1⟩ := Option.isSome_iff_exists.mp h1
  have hu : a.unwindAll pst = a := by
    unfold Arch.unwindAll Arch.unwind
    rw [h0, Bool.true_or, Bool.true_or, if_pos rfl]
  have hf : a.freeSlot = none := by
    unfold Arch.freeSlot
    simp [e0, e1]
  have hp : a.popWait pst = a := by
    unfold Arch.popWait
    rw [hf]
    split
    · next e _ => cases e
    · rfl
  unfold Arch.settle
  rw [hu, hp]
  simp [e0]

theorem splitStackSteps_refill (grp : Nat) : Steps (.splitStackRefill grp)
    (fun s => ∃ h x, s.spiller grp = some h ∧ h.a.refillDue = true ∧
      s.access (s.privWalker h) .read (s.spillVA h (h.a.spilled - 1)) 64 = .ok x ∧ s.isLost x.1 64 = false ∧
      s.held (s.privWalker h) (s.spillVA h (h.a.spilled - 1)) = false)
    fun s t => ∃ h x u, s.spiller grp = some h ∧ s.access (s.privWalker h) .read (s.spillVA h (h.a.spilled - 1)) 64 = .ok x ∧
      t.group? grp = some u ∧ OnlyGroup s t grp ∧ u.arch.spilled = h.a.spilled - 1 ∧
      (h.a.path0.isSome = true → h.a.path1.isSome = true →
        let q := match Pos.ofImage (s.bytes x.1 64), h.a.kept.find? (·.1 == h.a.spilled - 1) with
          | .wait p d, some e => Pos.wait (p.keeping e.2) d
          | p, _ => p
        u.arch = { h.a with stack := h.a.stack ++ [q], spilled := h.a.spilled - 1, low := []
                            kept := h.a.kept.filter fun e => e.1 < h.a.spilled - 1 }) := by
  rintro s ⟨h, x, hh, hdue, hx, hlost, hheld⟩
  have hg := State.spiller_group hh
  have hk : Within grp (fun a =>
        let b := a.refill (Pos.ofImage (s.bytes x.1 64))
        b.settle (match b.paths with | e :: _ => e.2.pst | [] => b.low)) s _ :=
    Within.trans (k := id) (State.within_onArch ..) (State.within_perfGroup (grp := grp) (g := h.g) (n := 7) (k := 1) _)
  obtain ⟨u, hu, hua, hur⟩ := hk.group h.g hg
  refine ⟨_, ?_, h, x, u, hh, hx, hu, hk.only, ?_, fun h0 h1 => ?_⟩
  · change execSplitStackRefill grp s = _
    unfold execSplitStackRefill
    simp only [hh, hdue, hheld, hx, hlost]
    rfl
  · rw [hua]
    exact Arch.spilled_settle ..
  · rw [hua]
    exact (Arch.settle_of_paths (a := h.g.arch.refill (Pos.ofImage (s.bytes x.1 64))) h0 h1 _ :)

/-- Settles O23: a spill is a write and a refill a read of the position's 64 bytes. -/
theorem splitStackSteps : Obligations.SplitStackSteps := ⟨splitStackSteps_spill, splitStackSteps_refill⟩

end Sys2Proof.Machine
end

section
/-!
SUPPORT. Lane accesses that complete: what was put off of them, their data, and the counters that fall (R132, R136, R152).
-/
namespace Sys2Proof.Machine

/-! ### Counters fall in issue order (R136) -/

/-- A tracked instruction without what is still to be done of it, and without its data. -/
def Tracked.bare (t : Tracked) : Tracked := { t with late := [], data := [] }

theorem lowerSweep_bare (p : AccPath) (l : List Tracked) : (lowerSweep p (l.map Tracked.bare)).2 = (lowerSweep p l).2 := by
  induction l with
  | nil => rfl
  | cons t l ih =>
    simp only [List.map_cons, lowerSweep]
    have hp : t.bare.path = t.path := rfl
    have hl : t.bare.lowered = t.lowered := rfl
    have hd : t.bare.done = t.done := rfl
    have hc : t.bare.ctr = t.ctr := rfl
    rw [hp, hl, hd, hc]
    split
    · split
      · dsimp only; rw [ih]
      · rfl
    · exact ih

theorem lowerSweep_append_lowered (p : AccPath) {l : List Tracked} (h : ∀ y ∈ l, y.path = p → y.lowered = true) (r : List Tracked) :
    (lowerSweep p (l ++ r)).2 = (lowerSweep p r).2 := by
  induction l with
  | nil => rfl
  | cons t l ih =>
    simp only [List.cons_append, lowerSweep]
    rw [if_neg]
    · exact ih fun y hy => h y (List.mem_cons_of_mem _ hy)
    · intro e
      simp only [Bool.and_eq_true, beq_iff_eq, Bool.not_eq_true'] at e
      rw [h t (List.mem_cons_self ..) e.1] at e
      cases e.2

theorem lowerSweep_nothing (p : AccPath) {l : List Tracked} (h : ∀ y ∈ l, y.path = p → y.lowered = true ∨ y.done = false) :
    (lowerSweep p l).2 = [] := by
  induction l with
  | nil => rfl
  | cons t l ih =>
    simp only [lowerSweep]
    split
    · next e =>
      simp only [Bool.and_eq_true, beq_iff_eq, Bool.not_eq_true'] at e
      rcases h t (List.mem_cons_self ..) e.1 with hl | hd
      · rw [hl] at e; cases e.2
      · rw [hd]; rfl
    · exact ih fun y hy => h y (List.mem_cons_of_mem _ hy)

/-- An instruction that has not completed holds back those behind it. -/
theorem lowerSweep_held (p : AccPath) {l : List Tracked} (h : ∀ y ∈ l, y.path = p → y.lowered = true ∨ y.done = false)
    (hy : ∃ y ∈ l, y.path = p ∧ y.lowered = false ∧ y.done = false) (r : List Tracked) : (lowerSweep p (l ++ r)).2 = [] := by
  induction l with
  | nil => obtain ⟨y, hm, -⟩ := hy; cases hm
  | cons t l ih =>
    simp only [List.cons_append, lowerSweep]
    by_cases e : (t.path == p && !t.lowered) = true
    · rw [if_pos e]
      simp only [Bool.and_eq_true, beq_iff_eq, Bool.not_eq_true'] at e
      rcases h t (List.mem_cons_self ..) e.1 with hl | hd
      · rw [hl] at e; cases e.2
      · rw [hd]; rfl
    · rw [if_neg e]
      refine ih (fun y hm => h y (List.mem_cons_of_mem _ hm)) ?_
      obtain ⟨y, hm, hp, hl, hd⟩ := hy
      rcases List.mem_cons.mp hm with rfl | hm
      · exact absurd (by rw [hp, hl]; simp) e
      · exact ⟨y, hm, hp, hl, hd⟩

theorem Arch.getK_dropK (a : Arch) (c d : Nat) : (a.dropK c).getK d = a.getK d - if d = c then 1 else 0 := by
  unfold Arch.dropK Arch.setK Arch.getK
  dsimp only
  rw [Sparse.look_put]
  have := (Sparse.look a.k c).isLt
  split
  · next h => subst h; rw [BitVec.toNat_ofNat, Nat.mod_eq_of_lt (by omega)]
  · rfl

theorem Arch.foldl_dropK_rest (cs : List Nat) (a : Arch) : { cs.foldl Arch.dropK a with k := a.k } = a := by
  induction cs generalizing a with
  | nil => rfl
  | cons c cs ih => exact (congrArg (fun b : Arch => { b with k := a.k }) (ih (a.dropK c)) :)

theorem Arch.lower_rest (a : Arch) (p : AccPath) : { a.lower p with k := a.k, tracked := a.tracked } = a :=
  (congrArg (fun b : Arch => { b with tracked := a.tracked }) (Arch.foldl_dropK_rest (lowerSweep p a.tracked).2
    { a with tracked := prune a.spec (lowerSweep p a.tracked).1 }) :)

theorem Arch.getK_lower_nothing {a : Arch} {p : AccPath} (h : (lowerSweep p a.tracked).2 = []) (c : Nat) : (a.lower p).getK c = a.getK c := by
  unfold Arch.lower
  dsimp only
  rw [h]
  rfl

theorem Arch.getK_lower_one {a : Arch} {p : AccPath} {d : Nat} (h : (lowerSweep p a.tracked).2 = [d]) (c : Nat) :
    (a.lower p).getK c = a.getK c - if c = d then 1 else 0 := by
  unfold Arch.lower
  dsimp only
  rw [h, List.foldl_cons, List.foldl_nil, Arch.getK_dropK]
  rfl

/-! ### Data of an access in its registers (R132) -/

/-- Values written to registers and lanes, one after the other. -/
def Arch.bring (a : Arch) (ws : List (Nat × Nat × Word)) : Arch := ws.foldl (fun b e => b.setV e.1 e.2.1 e.2.2) a

theorem Arch.bring_rest (ws : List (Nat × Nat × Word)) (a : Arch) : { a.bring ws with v := a.v } = a := by
  induction ws generalizing a with
  | nil => rfl
  | cons e ws ih => exact (congrArg (fun b : Arch => { b with v := a.v }) (ih (a.setV e.1 e.2.1 e.2.2)) :)

theorem Arch.bring_append (a : Arch) (l r : List (Nat × Nat × Word)) : a.bring (l ++ r) = (a.bring l).bring r := List.foldl_append ..

/-- A register holds, in a lane, the last value brought to it there. -/
theorem Arch.getV_bring {ws : List (Nat × Nat × Word)} (h : ∀ e ∈ ws, e.2.1 < 32) (a : Arch) {n l : Nat} (hl : l < 32) :
    (a.bring ws).getV n l = ((ws.reverse.find? fun e => e.1 == n && e.2.1 == l).map fun e => e.2.2).getD (a.getV n l) := by
  induction ws generalizing a with
  | nil => rfl
  | cons e ws ih =>
    have hrest := ih (fun x hx => h x (List.mem_cons_of_mem _ hx)) (a.setV e.1 e.2.1 e.2.2)
    refine hrest.trans ?_
    rw [List.reverse_cons, List.find?_append]
    cases ws.reverse.find? fun e => e.1 == n && e.2.1 == l with
    | some x => rfl
    | none =>
      rw [Arch.getV_setV _ _ _ _ _ _ (h e (List.mem_cons_self ..)) hl, Option.none_or, List.find?_singleton]
      by_cases hn : n = e.1 ∧ l = e.2.1
      · rw [if_pos hn]
        obtain ⟨rfl, rfl⟩ := hn
        simp
      · rw [if_neg hn]
        have : ¬(e.1 = n ∧ e.2.1 = l) := fun hc => hn ⟨hc.1.symm, hc.2.symm⟩
        simp [this]

/-- Words for registers d, d + 1, … of one lane. -/
theorem Arch.getV_bring_range (a : Arch) (d lane m : Nat) (f : Nat → Word) (hlane : lane < 32) {v l : Nat} (hl : l < 32) :
    (a.bring ((List.range m).map fun j => (d + j, lane, f j))).getV v l =
      if l = lane ∧ d ≤ v ∧ v < d + m then f (v - d) else a.getV v l := by
  induction m with
  | zero => rw [if_neg (by omega)]; rfl
  | succ m ih =>
    rw [List.range_succ, List.map_append, Arch.bring_append]
    change ((a.bring _).setV (d + m) lane (f m)).getV v l = _
    rw [Arch.getV_setV _ _ _ _ _ _ hlane hl, ih]
    by_cases h : v = d + m ∧ l = lane
    · obtain ⟨rfl, rfl⟩ := h
      rw [if_pos ⟨rfl, rfl⟩, if_pos ⟨rfl, by omega, by omega⟩, Nat.add_sub_cancel_left]
    · rw [if_neg h]
      by_cases hr : l = lane ∧ d ≤ v ∧ v < d + m
      · rw [if_pos hr, if_pos ⟨hr.1, hr.2.1, by omega⟩]
      · rw [if_neg hr, if_neg (by omega)]

theorem Arch.complete_of_find {a : Arch} {seq : Nat} {x : Tracked} (h : a.tracked.find? (·.seq == seq) = some x) :
    a.complete seq =
      Arch.lower { a.bring x.data with tracked := mapIf a.tracked (·.seq == seq) fun u => { u with done := true, late := [] } } x.path := by
  unfold Arch.complete
  rw [h]
  have : (a.bring x.data).tracked = a.tracked := (congrArg Arch.tracked (Arch.bring_rest x.data a) :)
  exact (congrArg (fun l => Arch.lower { a.bring x.data with tracked := mapIf l (·.seq == seq) fun u => { u with done := true, late := [] } } x.path) this :)

theorem Arch.complete_v {a : Arch} {seq : Nat} {x : Tracked} (h : a.tracked.find? (·.seq == seq) = some x) : (a.complete seq).v = (a.bring x.data).v := by
  rw [Arch.complete_of_find h]
  exact (congrArg Arch.v (Arch.lower_rest _ x.path) :)

theorem Arch.complete_rest {a : Arch} {seq : Nat} {x : Tracked} (h : a.tracked.find? (·.seq == seq) = some x) :
    { a.complete seq with v := a.v, k := a.k, tracked := a.tracked } = a := by
  rw [Arch.complete_of_find h]
  exact (congrArg (fun b : Arch => { b with v := a.v, k := a.k, tracked := a.tracked }) (Arch.lower_rest _ x.path) :).trans
    (congrArg (fun b : Arch => { b with k := a.k, tracked := a.tracked }) (Arch.bring_rest x.data a) :)

/-! ### What was put off is performed (R152) -/

theorem State.store_group {s : State} {n : Nat} {g : Group} (k : Nat) (bs : List Byte) (e : s.group? n = some g) :
    ∃ u, (s.store k bs).group? n = some u ∧ u.quiet = g.quiet := by
  obtain ⟨u, hu, hf⟩ := MapsGroups.group? (R := Group.Fired k bs.length) (fun a b h => (congrArg Group.id h :)) (s.writeEvent_store k bs).groups e
  exact ⟨u, hu, Group.quiet_of_fired hf⟩

theorem State.stores_group {s : State} {n : Nat} {g : Group} (l : List (Nat × List Byte)) (e : s.group? n = some g) :
    ∃ u, (l.foldl (fun w r => w.store r.1 r.2) s).group? n = some u ∧ u.quiet = g.quiet := by
  induction l generalizing s g with
  | nil => exact ⟨g, e, rfl⟩
  | cons r l ih =>
    obtain ⟨u, hu, hq⟩ := State.store_group r.1 r.2 e
    obtain ⟨w, hw, hr⟩ := ih hu
    exact ⟨w, hw, hr.trans hq⟩

theorem State.performPart_group {s : State} {n : Nat} {g : Group} (p : Late) (e : s.group? n = some g) :
    ∃ u, (s.performPart p).1.group? n = some u ∧ u.quiet = g.quiet := by
  cases p with
  | store k bs => exact State.store_group k bs e
  | read => exact ⟨g, e, rfl⟩
  | rmw lane d ret op t b c runs => exact State.stores_group _ e

/-- A group tracks these instructions, with its vector registers and its counters as another has them. -/
def State.Tracks (s : State) (grp : Nat) (g : Group) (l : List Tracked) : Prop :=
  ∃ u, s.group? grp = some u ∧ u.arch.tracked = l ∧ u.arch.v = g.arch.v ∧ u.arch.k = g.arch.k

theorem find?_only {pre post : List Tracked} {x : Tracked} {seq : Nat} (hx : x.seq = seq) (hpre : ∀ y ∈ pre, y.seq ≠ seq) :
    (pre ++ x :: post).find? (·.seq == seq) = some x := by
  rw [List.find?_append, List.find?_eq_none.mpr fun y hy => by simpa using hpre y hy, List.find?_cons]
  simp [hx]

theorem mapIf_only {pre post : List Tracked} {x : Tracked} {seq : Nat} (hx : x.seq = seq) (hpre : ∀ y ∈ pre, y.seq ≠ seq)
    (hpost : ∀ y ∈ post, y.seq ≠ seq) (f : Tracked → Tracked) : mapIf (pre ++ x :: post) (·.seq == seq) f = pre ++ f x :: post := by
  have hid : ∀ l : List Tracked, (∀ y ∈ l, y.seq ≠ seq) → l.map (fun y => if (y.seq == seq) = true then f y else y) = l := fun l h =>
    List.map_congr_left (g := id) (fun y hy => if_neg (by simpa using h y hy)) |>.trans (List.map_id l)
  unfold mapIf
  rw [List.map_append, List.map_cons, hid pre hpre, hid post hpost, if_pos (by simp [hx])]

/-- The next part of an instruction of a group has been performed, and gave these values. -/
def Group.performed (g : Group) (seq : Nat) (ws : List (Nat × Nat × Word)) : Group :=
  { g with arch := { g.arch with tracked := mapIf g.arch.tracked (·.seq == seq) fun t => { t with late := t.late.eraseIdx 0, data := t.data ++ ws } } }

section Only
variable {s : State} {grp seq : Nat} {g : Group} {pre post : List Tracked} {x : Tracked} (hx : x.seq = seq) (hpre : ∀ y ∈ pre, y.seq ≠ seq)
  (hpost : ∀ y ∈ post, y.seq ≠ seq)
include hx hpre

theorem State.performAt_eq {p : Late} {r : List Late} (h : s.Tracks grp g (pre ++ x :: post)) (hl : x.late = p :: r) :
    s.performAt grp seq 0 = (s.performPart p).1.onGroup grp fun u => u.performed seq (s.performPart p).2 := by
  obtain ⟨u, hu, ht, -, -⟩ := h
  have hf : ((s.group? grp).bind fun g => (g.arch.tracked.find? (·.seq == seq)).bind fun t => t.late[0]?) = some p := by
    rw [hu, Option.bind_some, ht, find?_only hx hpre, Option.bind_some, hl]
    rfl
  unfold State.performAt
  rw [hf]
  rfl

include hpost

theorem State.performAt_tracks {p : Late} {r : List Late} (h : s.Tracks grp g (pre ++ x :: post)) (hl : x.late = p :: r) :
    (s.performAt grp seq 0).Tracks grp g (pre ++ { x with late := r, data := x.data ++ (s.performPart p).2 } :: post) := by
  rw [State.performAt_eq hx hpre h hl]
  obtain ⟨u, hu, ht, hv, hk⟩ := h
  obtain ⟨w, hw, hq⟩ := State.performPart_group p hu
  have hr : w.arch.regs = u.arch.regs := (congrArg Group.arch hq :)
  have hwt : w.arch.tracked = pre ++ x :: post := (congrArg Arch.tracked hr :).trans ht
  refine ⟨w.performed seq (s.performPart p).2, (State.group?_onGroup _ grp (fun u => u.performed seq (s.performPart p).2) fun _ => rfl).trans
    (congrArg (Option.map _) hw), ?_, ?_, ?_⟩
  · unfold Group.performed
    dsimp only
    rw [hwt, mapIf_only hx hpre hpost, hl]
    rfl
  · exact (congrArg Arch.v hr :).trans hv
  · exact (congrArg Arch.k hr :).trans hk

/-- All that is to be done of an instruction is done, whatever it is. -/
theorem State.performAll_tracks (h : s.Tracks grp g (pre ++ x :: post)) :
    ∃ d, (x.late.foldl (fun (u : State) _ => u.performAt grp seq 0) s).Tracks grp g (pre ++ { x with late := [], data := d } :: post) := by
  generalize hl : x.late = l
  induction l generalizing s x with
  | nil =>
    have e : ({ x with late := [], data := x.data } : Tracked) = x := by cases x; cases hl; rfl
    exact ⟨x.data, by rw [e]; exact h⟩
  | cons p l ih =>
    exact ih (x := { x with late := l, data := x.data ++ (s.performPart p).2 }) hx (State.performAt_tracks hx hpre hpost h hl) rfl

theorem State.performBy_eq (h : s.Tracks grp g (pre ++ x :: post)) :
    s.performBy grp (·.seq == seq) = x.late.foldl (fun (u : State) _ => u.performAt grp seq 0) s := by
  obtain ⟨u, hu, ht, -, -⟩ := h
  have hf : (pre ++ x :: post).filter (·.seq == seq) = [x] := by
    rw [List.filter_append, List.filter_cons, if_pos (by simp [hx]), List.filter_eq_nil_iff.mpr fun y hy => by simpa using hpre y hy,
      List.filter_eq_nil_iff.mpr fun y hy => by simpa using hpost y hy]
    rfl
  unfold State.performBy
  rw [hu]
  dsimp only
  rw [ht, hf, List.foldl_cons, List.foldl_nil, hx]

/-- Stores that were put off. -/
theorem State.byte_performStores {l : List (Nat × List Byte)} (h : s.Tracks grp g (pre ++ x :: post)) (hl : x.late = l.map fun e => .store e.1 e.2) :
    (x.late.foldl (fun (u : State) _ => u.performAt grp seq 0) s).byte =
      l.foldl (fun m e => putAt m ((List.range e.2.length).map fun j => e.1 + j) e.2) s.byte := by
  rw [hl]
  induction l generalizing s x with
  | nil => rfl
  | cons e l ih =>
    have hb : (s.performAt grp seq 0).byte = putAt s.byte ((List.range e.2.length).map fun j => e.1 + j) e.2 := by
      rw [State.performAt_eq hx hpre h hl]
      exact State.byte_store s e.1 e.2
    have ht := State.performAt_tracks hx hpre hpost h hl
    rw [List.map_cons, List.foldl_cons, List.foldl_cons, ← hb]
    exact ih (x := { x with late := l.map fun e => .store e.1 e.2, data := x.data ++ [] }) hx ht rfl

end Only

/-! ### A lane access completes (R132) -/

/-- A lane access of a group that has not completed. -/
theorem execLaneAccessComplete_eq {s : State} {grp seq : Nat} {g : Group} {x : Tracked} (hg : s.group? grp = some g) (hx : x ∈ g.arch.tracked)
    (hs : x.seq = seq) (hd : x.done = false) (hp : x.path = .T ∨ x.path = .D ∨ x.path = .P) :
    exec (.laneAccessComplete grp seq) s = .next ((s.performBy grp (·.seq == seq)).complete grp (some seq)) := by
  change execLaneAccessComplete grp seq s = _
  unfold execLaneAccessComplete State.completeAccess
  rw [if_pos]
  rw [hg, Option.any_some, Bool.or_eq_true]
  refine .inl (List.any_eq_true.mpr ⟨x, hx, ?_⟩)
  rcases hp with hp | hp | hp <;> simp [hs, hd, hp]

/-- The group in which an access has completed. -/
theorem State.complete_group {s : State} {grp seq : Nat} {g : Group} {l : List Tracked} (h : s.Tracks grp g l) {x : Tracked}
    (hx : l.find? (·.seq == seq) = some x) : ∃ (a : Arch) (u : Group), (s.complete grp (some seq)).group? grp = some u ∧ u.arch = a.complete seq ∧
      a.tracked.find? (·.seq == seq) = some x ∧ a.tracked = l ∧ a.v = g.arch.v ∧ a.k = g.arch.k := by
  obtain ⟨u, hu, ht, hv, hk⟩ := h
  refine ⟨u.arch, _, (State.group?_onGroup s grp (fun g => { g with arch := g.arch.complete seq, conts := g.conts.map fun c =>
    { c with arch := c.arch.complete seq } }) fun _ => rfl).trans (congrArg (Option.map _) hu), rfl, ?_, ht, hv, hk⟩
  rw [ht]
  exact hx

section Only
variable {a : Arch} {g : Group} {seq : Nat} {pre post : List Tracked} {x : Tracked} (ht : a.tracked = pre ++ x :: post) (hx : x.seq = seq)
  (hpre : ∀ y ∈ pre, y.seq ≠ seq) (hpost : ∀ y ∈ post, y.seq ≠ seq) (hdone : ∀ y ∈ post, y.path = x.path → y.lowered = true ∨ y.done = false)
include ht hx hpre hpost

theorem Arch.complete_only : a.complete seq =
    Arch.lower { a.bring x.data with tracked := pre ++ { x with done := true, late := [] } :: post } x.path := by
  rw [Arch.complete_of_find (x := x) (by rw [ht]; exact find?_only hx hpre), ht, mapIf_only hx hpre hpost]

/-- While an earlier access of the path has not completed, no counter falls (R136). -/
theorem Arch.getK_complete_held (hlow : ∀ y ∈ pre, y.done = true → y.lowered = true)
    (hy : ∃ y ∈ pre, y.path = x.path ∧ y.lowered = false ∧ y.done = false) (c : Nat) : (a.complete seq).getK c = a.getK c := by
  rw [Arch.complete_only ht hx hpre hpost, Arch.getK_lower_nothing]
  · exact (congrArg (fun b : Arch => b.getK c) (Arch.bring_rest x.data a) :)
  · refine lowerSweep_held x.path (fun y hm _ => ?_) hy _
    cases hd : y.done with
    | false => exact .inr rfl
    | true => exact .inl (hlow y hm hd)

include hdone

/-- With every earlier access of the path lowered, the access lowers its counter (R136). -/
theorem Arch.getK_complete_lowered (hx0 : x.lowered = false) (hlow : ∀ y ∈ pre, y.path = x.path → y.lowered = true) (c : Nat) :
    (a.complete seq).getK c = a.getK c - if c = x.ctr then 1 else 0 := by
  rw [Arch.complete_only ht hx hpre hpost, Arch.getK_lower_one (d := x.ctr)]
  · exact (congrArg (fun b : Arch => b.getK c - if c = x.ctr then 1 else 0) (Arch.bring_rest x.data a) :)
  · refine (lowerSweep_append_lowered x.path hlow _).trans ?_
    have hp := lowerSweep_nothing x.path hdone
    simp only [lowerSweep, hx0, Bool.not_false, Bool.and_true, beq_self_eq_true, if_true, hp]

end Only

/-- An access with nothing put off. -/
theorem State.performBy_nothing {s : State} {grp seq : Nat} {g : Group} (hg : s.group? grp = some g)
    (h : ∀ y ∈ g.arch.tracked, y.seq = seq → y.late = []) : s.performBy grp (·.seq == seq) = s := by
  unfold State.performBy
  rw [hg]
  dsimp only
  have hl : ∀ y ∈ g.arch.tracked.filter (·.seq == seq), y.late = [] := fun y hy =>
    h y (List.mem_filter.mp hy).1 (by simpa using (List.mem_filter.mp hy).2)
  generalize g.arch.tracked.filter (·.seq == seq) = l at hl
  induction l with
  | nil => rfl
  | cons y l ih =>
    rw [List.foldl_cons, hl y (List.mem_cons_self ..)]
    exact ih fun z hz => hl z (List.mem_cons_of_mem _ hz)

/-- An access of a group that stands at its place among those that the group tracks. -/
structure Group.Awaits (g : Group) (seq : Nat) (pre : List Tracked) (x : Tracked) (post : List Tracked) : Prop where
  tracked : g.arch.tracked = pre ++ x :: post
  named : x.seq = seq
  done : x.done = false
  lowered : x.lowered = false
  path : x.path = .T ∨ x.path = .D ∨ x.path = .P
  ahead : ∀ y ∈ pre, y.seq ≠ seq
  behind : ∀ y ∈ post, y.seq ≠ seq
  held : ∀ y ∈ post, y.path = x.path → y.lowered = true ∨ y.done = false

namespace Group.Awaits
variable {s : State} {grp seq : Nat} {g : Group} {pre post : List Tracked} {x : Tracked} (h : g.Awaits seq pre x post) (hg : s.group? grp = some g)
include h

theorem mem : x ∈ g.arch.tracked := by rw [h.tracked]; simp

include hg

theorem tracks : s.Tracks grp g (pre ++ x :: post) := ⟨g, hg, h.tracked, rfl, rfl⟩

/-- The access completes: all that was put off of it is performed, and it brings its data. -/
theorem completes : ∃ t, exec (.laneAccessComplete grp seq) s = .next t ∧
    t = (x.late.foldl (fun (u : State) _ => u.performAt grp seq 0) s).complete grp (some seq) :=
  ⟨_, execLaneAccessComplete_eq hg h.mem h.named h.done h.path, by rw [State.performBy_eq h.named h.ahead h.behind (h.tracks hg)]⟩

/-- The group behind it: what was put off gave it data d. -/
theorem group : ∃ (a : Arch) (u : Group) (d : List (Nat × Nat × Word)),
    ((x.late.foldl (fun (u : State) _ => u.performAt grp seq 0) s).complete grp (some seq)).group? grp = some u ∧ u.arch = a.complete seq ∧
      a.tracked = pre ++ { x with late := [], data := d } :: post ∧ a.k = g.arch.k := by
  obtain ⟨d, hd⟩ := State.performAll_tracks h.named h.ahead h.behind (h.tracks hg)
  obtain ⟨a, u, hu, hua, -, hat, -, hk⟩ := State.complete_group hd (find?_only (x := { x with late := [], data := d }) h.named h.ahead)
  exact ⟨a, u, d, hu, hua, hat, hk⟩

end Group.Awaits

theorem ofBytes_lt (bs : List Byte) : ofBytes bs < 2 ^ (8 * bs.length) := by
  induction bs with
  | nil => exact Nat.zero_lt_one
  | cons b bs ih =>
    have hb := b.isLt
    rw [ofBytes, List.length_cons, Nat.mul_succ, Nat.pow_add]
    omega

/-- The words of a load of 1, 2, 4, 8 or 16 bytes (R197). -/
theorem loadWords_eq {n : Nat} (hn : n = 1 ∨ n = 2 ∨ n = 4 ∨ n = 8 ∨ n = 16) (d : Nat) (signed : Bool) (l : Nat) {bs : List Byte} (hb : bs.length = n) :
    loadWords d n signed l bs = (List.range ((n + 3) / 4)).map fun j => (d + j, l, loadedWord n signed bs j) := by
  have hlt := ofBytes_lt bs
  rw [hb] at hlt
  have hshort : ∀ b : Nat, b = 8 ∨ b = 16 → ofBytes bs < 2 ^ b → BitVec.ofNat 32 (if signed = true then wrap (sext (ofBytes bs) b) 32 else ofBytes bs) =
      if signed = true then (BitVec.ofNat b (ofBytes bs)).signExtend 32 else (BitVec.ofNat b (ofBytes bs)).setWidth 32 := by
    intro b hb hlt
    generalize ofBytes bs = y at hlt
    cases signed with
    | false =>
      rw [if_neg Bool.false_ne_true, if_neg Bool.false_ne_true]
      rcases hb with rfl | rfl <;> bv_omega
    | true =>
      rw [if_pos rfl, if_pos rfl, wrap_eq_toNat_ofInt, BitVec.ofNat_toNat, BitVec.setWidth_eq]
      have hs : sext y b = (BitVec.ofNat b y).toInt := by
        rw [BitVec.toInt_eq_toNat_cond, BitVec.toNat_ofNat, sext]
        rcases hb with rfl | rfl <;> simp only [OfNat.ofNat_ne_zero, if_false] <;> split <;> split <;> omega
      rw [hs]
      rfl
  unfold loadWords loadedWord
  rcases hn with rfl | rfl | rfl | rfl | rfl
  · exact congrArg (fun w => [(d, l, w)]) (hshort 8 (.inl rfl) hlt)
  · exact congrArg (fun w => [(d, l, w)]) (hshort 16 (.inr rfl) hlt)
  · rfl
  · rfl
  · rfl

theorem ofBytes_append (a b : List Byte) : ofBytes (a ++ b) = ofBytes a + 2 ^ (8 * a.length) * ofBytes b := by
  induction a with
  | nil => simp [ofBytes]
  | cons x a ih =>
    rw [List.cons_append, ofBytes, ofBytes, ih, List.length_cons, Nat.mul_succ, Nat.pow_add]
    ring

theorem ofBytes_drop (k : Nat) (bs : List Byte) : ofBytes (bs.drop k) = ofBytes bs / 2 ^ (8 * k) := by
  induction k generalizing bs with
  | zero => simp
  | succ k ih =>
    cases bs with
    | nil => simp [ofBytes]
    | cons b bs =>
      have hb := b.isLt
      have h1 : ofBytes (b :: bs) / 2 ^ 8 = ofBytes bs := by rw [ofBytes]; omega
      rw [List.drop_succ_cons, ih, Nat.mul_succ, Nat.add_comm, Nat.pow_add, ← Nat.div_div_eq_div_mul, h1]

theorem ofBytes_take (k : Nat) (bs : List Byte) : ofBytes (bs.take k) = ofBytes bs % 2 ^ (8 * k) := by
  have h := ofBytes_append (bs.take k) (bs.drop k)
  rw [List.take_append_drop] at h
  have hlt := ofBytes_lt (bs.take k)
  by_cases hk : k ≤ bs.length
  · rw [List.length_take_of_le hk] at h hlt
    rw [h, Nat.add_mul_mod_self_left, Nat.mod_eq_of_lt hlt]
  · have hlen : bs.length ≤ k := by omega
    rw [List.take_of_length_le hlen]
    exact (Nat.mod_eq_of_lt (lt_of_lt_of_le (ofBytes_lt bs) (Nat.pow_le_pow_right (by omega) (by omega)))).symm

/-- A word of a number's bytes. -/
theorem fieldOf_word (bs : List Byte) (j : Nat) : BitVec.ofNat 32 (fieldOf bs (4 * j) 4) = BitVec.ofNat 32 (ofBytes bs / 2 ^ (32 * j)) := by
  unfold fieldOf
  rw [ofBytes_take, ofBytes_drop, show 8 * (4 * j) = 32 * j from by omega]
  apply BitVec.eq_of_toNat_eq
  rw [BitVec.toNat_ofNat, BitVec.toNat_ofNat, Nat.mod_mod]

/-! ### The clauses of O52 -/

/-- A group in which an access has completed (R281). -/
def Group.completed (g : Group) (seq : Nat) : Group :=
  { g with arch := g.arch.complete seq, conts := g.conts.map fun c => { c with arch := c.arch.complete seq } }

/-- Nothing but the groups differs where nothing is stored. -/
theorem State.complete_groupTurns (s : State) (grp seq : Nat) : GroupTurns s (s.complete grp (some seq)) grp fun h =>
    { h with arch := h.arch.complete seq, conts := h.conts.map fun c => { c with arch := c.arch.complete seq } } :=
  ⟨rfl, State.onGroup_groups_ite ..⟩

theorem laneAccess_data (grp seq : Nat) : Steps (.laneAccessComplete grp seq)
    (fun s => ∃ g x, s.group? grp = some g ∧ g.arch.tracked.find? (·.seq == seq) = some x ∧ x.done = false ∧
      (x.path = .T ∨ x.path = .D ∨ x.path = .P) ∧ ∀ y ∈ g.arch.tracked, y.seq = seq → y.late = [])
    fun s t => ∃ g x u, s.group? grp = some g ∧ g.arch.tracked.find? (·.seq == seq) = some x ∧ t.group? grp = some u ∧
      (∀ n l, l < 32 → (∀ e ∈ x.data, e.2.1 < 32) →
        u.arch.getV n l = ((x.data.reverse.find? fun e => e.1 == n && e.2.1 == l).map fun e => e.2.2).getD (g.arch.getV n l)) ∧
      { u.arch with v := g.arch.v, k := g.arch.k, tracked := g.arch.tracked } = g.arch ∧ GroupTurns s t grp fun h =>
        { h with arch := h.arch.complete seq, conts := h.conts.map fun c => { c with arch := c.arch.complete seq } } := by
  rintro s ⟨g, x, hg, hx, hd, hp, hlate⟩
  have hxs : x.seq = seq := by simpa using List.find?_some hx
  refine ⟨s.complete grp (some seq), ?_, g, x, g.completed seq, hg, hx, (State.group?_onGroup s grp (fun g => g.completed seq) fun _ => rfl).trans
    (congrArg (Option.map _) hg), ?_, ?_, s.complete_groupTurns grp seq⟩
  · rw [execLaneAccessComplete_eq hg (List.mem_of_find?_eq_some hx) hxs hd hp, State.performBy_nothing hg hlate]
  · intro n l hl he
    refine Eq.trans ?_ (Arch.getV_bring he g.arch hl)
    unfold Arch.getV
    rw [← Arch.complete_v hx]
    rfl
  · exact Arch.complete_rest hx

theorem laneAccess_held (grp seq : Nat) : Steps (.laneAccessComplete grp seq)
    (fun s => ∃ g pre x post, s.group? grp = some g ∧ g.Awaits seq pre x post ∧ ∃ y ∈ pre, y.path = x.path ∧ y.lowered = false ∧ y.done = false)
    fun s t => ∃ g u, s.group? grp = some g ∧ t.group? grp = some u ∧
      ∀ c, (∀ z ∈ g.arch.tracked, z.done = true → z.lowered = true) → u.arch.getK c = g.arch.getK c := by
  rintro s ⟨g, pre, x, post, hg, h, hy⟩
  obtain ⟨t, ht, rfl⟩ := h.completes hg
  obtain ⟨a, u, d, hu, hua, hat, hak⟩ := h.group hg
  refine ⟨_, ht, g, u, hg, hu, fun c hlow => ?_⟩
  rw [hua, Arch.getK_complete_held (x := { x with late := [], data := d }) hat h.named h.ahead h.behind
    (fun y hm => hlow y (by rw [h.tracked]; exact List.mem_append_left _ hm)) hy]
  unfold Arch.getK
  rw [hak]

theorem laneAccess_lowers (grp seq : Nat) : Steps (.laneAccessComplete grp seq)
    (fun s => ∃ g pre x post, s.group? grp = some g ∧ g.Awaits seq pre x post ∧ ∀ y ∈ pre, y.path = x.path → y.lowered = true)
    fun s t => ∃ g x u, s.group? grp = some g ∧ x ∈ g.arch.tracked ∧ x.seq = seq ∧ t.group? grp = some u ∧
      ∀ c, u.arch.getK c = g.arch.getK c - if c = x.ctr then 1 else 0 := by
  rintro s ⟨g, pre, x, post, hg, h, hlow⟩
  obtain ⟨t, ht, rfl⟩ := h.completes hg
  obtain ⟨a, u, d, hu, hua, hat, hak⟩ := h.group hg
  refine ⟨_, ht, g, x, u, hg, h.mem, h.named, hu, fun c => ?_⟩
  rw [hua, Arch.getK_complete_lowered (x := { x with late := [], data := d }) hat h.named h.ahead h.behind h.held h.lowered hlow]
  unfold Arch.getK
  rw [hak]

theorem laneAccess_stores (grp seq : Nat) : Steps (.laneAccessComplete grp seq)
    (fun s => ∃ g pre x post, ∃ l : List (Nat × List Byte), s.group? grp = some g ∧ g.Awaits seq pre x post ∧ x.late = l.map fun e => .store e.1 e.2)
    fun s t => ∃ g x, ∃ l : List (Nat × List Byte), s.group? grp = some g ∧ x ∈ g.arch.tracked ∧ x.seq = seq ∧
      x.late = (l.map fun e => .store e.1 e.2) ∧
      ∀ q, t.byte q = l.foldl (fun m e => putAt m ((List.range e.2.length).map fun j => e.1 + j) e.2) s.byte q := by
  rintro s ⟨g, pre, x, post, l, hg, h, hl⟩
  obtain ⟨t, ht, rfl⟩ := h.completes hg
  exact ⟨_, ht, g, x, l, hg, h.mem, h.named, hl, fun q =>
    congrFun (State.byte_performStores h.named h.ahead h.behind (h.tracks hg) hl) q⟩

/-- An access with one part put off, which gives it the data ws. -/
theorem Group.Awaits.one {s : State} {grp seq : Nat} {g : Group} {pre post : List Tracked} {x : Tracked} {p : Late} (h : g.Awaits seq pre x post)
    (hg : s.group? grp = some g) (hl : x.late = [p]) (hd : x.data = []) :
    ∃ t u, exec (.laneAccessComplete grp seq) s = .next t ∧ t.group? grp = some u ∧ u.arch.v = (g.arch.bring (s.performPart p).2).v ∧
      { t with groups := (s.performPart p).1.groups } = (s.performPart p).1 := by
  obtain ⟨t, ht, rfl⟩ := h.completes hg
  rw [hl, List.foldl_cons, List.foldl_nil] at ht
  have hp := State.performAt_tracks h.named h.ahead h.behind (h.tracks hg) hl
  obtain ⟨a, u, hu, hua, haf, -, hav, -⟩ := State.complete_group hp (find?_only (x := { x with late := [], data := x.data ++ (s.performPart p).2 })
    h.named h.ahead)
  refine ⟨_, u, ht, hu, ?_, ?_⟩
  · rw [hua, Arch.complete_v haf]
    dsimp only
    rw [hd, List.nil_append]
    have hb : ∀ (ws : List (Nat × Nat × Word)) (b c : Arch), b.v = c.v → (b.bring ws).v = (c.bring ws).v := by
      intro ws
      induction ws with
      | nil => exact fun _ _ e => e
      | cons e ws ih => exact fun b c hv => ih _ _ (congrArg (fun v => Sparse.put v (32 * e.1 + e.2.1) e.2.2) hv)
    exact hb _ _ _ hav
  · rw [State.performAt_eq h.named h.ahead (h.tracks hg) hl]
    rfl

theorem laneAccess_read (grp seq lane d n : Nat) (sg : Bool) (runs : List (Nat × Nat)) : Steps (.laneAccessComplete grp seq)
    (fun s => ∃ g pre x post, s.group? grp = some g ∧ g.Awaits seq pre x post ∧ x.late = [.read lane d n sg runs] ∧ x.data = [] ∧ lane < 32 ∧
      (n = 1 ∨ n = 2 ∨ n = 4 ∨ n = 8 ∨ n = 16) ∧ (runs.map (·.2)).sum = n)
    fun s t => ∃ g u, s.group? grp = some g ∧ t.group? grp = some u ∧ { t with groups := s.groups } = s ∧
      ∀ v l, l < 32 → u.arch.getV v l =
        if l = lane ∧ d ≤ v ∧ v < d + (n + 3) / 4 then
          loadedWord n sg (runs.flatMap fun r => (List.range r.2).map fun j => s.byte (r.1 + j)) (v - d)
        else g.arch.getV v l := by
  rintro s ⟨g, pre, x, post, hg, h, hl, hd, hlane, hn, hsum⟩
  obtain ⟨t, u, ht, hu, hv, hrest⟩ := h.one hg hl hd
  refine ⟨t, ht, g, u, hg, hu, hrest, fun v l hl32 => ?_⟩
  have hlen : (runs.flatMap fun r => s.bytes r.1 r.2).length = n := by
    rw [List.length_flatMap, ← hsum]
    simp [State.bytes]
  have hw : (s.performPart (.read lane d n sg runs)).2 = loadWords d n sg lane (runs.flatMap fun r => s.bytes r.1 r.2) := rfl
  rw [hw, loadWords_eq hn d sg lane hlen] at hv
  have hget : u.arch.getV v l = (g.arch.bring _).getV v l := congrArg (Sparse.look · (32 * v + l)) hv
  exact hget.trans (Arch.getV_bring_range g.arch d lane _ _ hlane hl32)

theorem laneAccess_atomic (grp seq lane d : Nat) (op : AtomicOp) (ty : Ty) (b c k : Nat) : Steps (.laneAccessComplete grp seq)
    (fun s => ∃ g pre x post, s.group? grp = some g ∧ g.Awaits seq pre x post ∧ x.late = [.rmw lane d true op ty b c [(k, 4 * ty.regs)]] ∧
      x.data = [] ∧ lane < 32)
    fun s t => ∃ g u, s.group? grp = some g ∧ t.group? grp = some u ∧
      let keys := (List.range (4 * ty.regs)).map fun j => k + j
      let old := ofBytes (keys.map s.byte)
      (∀ q, t.byte q = putAt s.byte keys (toBytes (4 * ty.regs) (op.eval ty old b c)) q) ∧
      ∀ v l, l < 32 → u.arch.getV v l =
        if l = lane ∧ d ≤ v ∧ v < d + ty.regs then BitVec.ofNat 32 (old / 2 ^ (32 * (v - d))) else g.arch.getV v l := by
  rintro s ⟨g, pre, x, post, hg, h, hl, hd, hlane⟩
  obtain ⟨t, u, ht, hu, hv, hrest⟩ := h.one hg hl hd
  have hkeys : ((List.range (4 * ty.regs)).map fun j => k + j).map s.byte = s.bytes k (4 * ty.regs) := by rw [List.map_map]; rfl
  have hlen : (s.bytes k (4 * ty.regs)).length = 4 * ty.regs := by simp [State.bytes]
  have hone : ([(k, 4 * ty.regs)].flatMap fun r => s.bytes r.1 r.2) = s.bytes k (4 * ty.regs) := List.flatMap_singleton ..
  have hpart : s.performPart (.rmw lane d true op ty b c [(k, 4 * ty.regs)]) =
      (s.store k (toBytes (4 * ty.regs) (op.eval ty (ofBytes (s.bytes k (4 * ty.regs))) b c)), loadWords d (4 * ty.regs) false lane (s.bytes k (4 * ty.regs))) := by
    unfold State.performPart
    dsimp only
    rw [hone, hlen, if_pos rfl]
    unfold runBytes runBytes
    rw [List.take_of_length_le (by simp)]
    rfl
  rw [hpart] at hv hrest
  refine ⟨t, ht, g, u, hg, hu, ?_, ?_⟩
  · intro q
    rw [hkeys]
    have hb : t.byte = (s.store k (toBytes (4 * ty.regs) (op.eval ty (ofBytes (s.bytes k (4 * ty.regs))) b c))).byte := (congrArg State.byte hrest :)
    rw [hb, State.byte_store, toBytes_length]
  · intro v l hl32
    have hregs : 0 < ty.regs := by unfold Ty.regs; split <;> omega
    have hwords : loadWords d (4 * ty.regs) false lane (s.bytes k (4 * ty.regs)) =
        (List.range ty.regs).map fun j => (d + j, lane, BitVec.ofNat 32 (ofBytes (s.bytes k (4 * ty.regs)) / 2 ^ (32 * j))) := by
      unfold loadWords
      rw [if_neg (by omega), Nat.mul_div_cancel_left _ (by omega)]
      exact List.map_congr_left fun j _ => by rw [fieldOf_word]
    rw [hwords] at hv
    have hget : u.arch.getV v l = (g.arch.bring _).getV v l := congrArg (Sparse.look · (32 * v + l)) hv
    rw [hkeys]
    exact hget.trans (Arch.getV_bring_range g.arch d lane _ _ hlane hl32)

/-- Settles O52: an access performs what was put off of it, brings its data and lowers what its path allows. -/
theorem laneAccessComplete : Obligations.LaneAccessComplete := by
  have awaits : ∀ {g : Group} {seq : Nat} {pre post : List Tracked} {x : Tracked}, g.arch.tracked = pre ++ x :: post ∧ x.seq = seq ∧ x.done = false ∧
      x.lowered = false ∧ (x.path = .T ∨ x.path = .D ∨ x.path = .P) ∧ (∀ y ∈ pre, y.seq ≠ seq) ∧
      (∀ y ∈ post, y.seq ≠ seq ∧ (y.path = x.path → y.lowered = true ∨ y.done = false)) → g.Awaits seq pre x post :=
    fun ⟨ht, hs, hd, hl, hp, hpre, hpost⟩ => ⟨ht, hs, hd, hl, hp, hpre, fun y hy => (hpost y hy).1, fun y hy => (hpost y hy).2⟩
  refine ⟨laneAccess_data, fun grp seq s => ?_, fun grp seq s => ?_, fun grp seq s => ?_, fun grp seq lane d n sg runs s => ?_,
    fun grp seq lane d op ty b c k s => ?_⟩
  · rintro ⟨g, pre, x, post, ⟨hg, h⟩, hy⟩
    exact laneAccess_held grp seq s ⟨g, pre, x, post, hg, awaits h, hy⟩
  · rintro ⟨g, pre, x, post, ⟨hg, h⟩, hlow⟩
    exact laneAccess_lowers grp seq s ⟨g, pre, x, post, hg, awaits h, hlow⟩
  · rintro ⟨g, pre, x, post, l, ⟨hg, h⟩, hl⟩
    exact laneAccess_stores grp seq s ⟨g, pre, x, post, l, hg, awaits h, hl⟩
  · rintro ⟨g, pre, x, post, ⟨hg, h⟩, hl⟩
    exact laneAccess_read grp seq lane d n sg runs s ⟨g, pre, x, post, hg, awaits h, hl⟩
  · rintro ⟨g, pre, x, post, ⟨hg, h⟩, hl⟩
    exact laneAccess_atomic grp seq lane d op ty b c k s ⟨g, pre, x, post, hg, awaits h, hl⟩

end Sys2Proof.Machine
end

section
/-!
SUPPORT. Ports and the host attachment (R403, R405, R409, R410).
-/
namespace Sys2Proof.Machine

/-! ### Signals to the host (R342) -/

theorem State.signal_hsig (s : State) (n : Nat) : (s.signal n).fe.hsig = s.fe.hsig ||| BitVec.twoPow 4 n := by
  unfold State.signal
  split
  · next h =>
    apply BitVec.eq_of_getLsbD_eq
    intro i hi
    rw [BitVec.getLsbD_or, BitVec.getLsbD_twoPow]
    by_cases e : n = i
    · subst e; simp [h]
    · simp [e]
  · rfl

theorem State.signal_rest (s : State) (n : Nat) :
    { s.signal n with fe := { (s.signal n).fe with hsig := s.fe.hsig, notified := s.fe.notified } } = s := by
  unfold State.signal
  split <;> rfl

theorem mapIf_eq_ite {α β : Type} [DecidableEq β] (l : List α) (key : α → β) (n : β) (f : α → α) :
    mapIf l (fun x => key x == n) f = l.map fun x => if key x = n then f x else x := by
  unfold mapIf
  refine List.map_congr_left fun x _ => ?_
  by_cases h : key x = n <;> simp [h]

/-! ### Ports (R409, R410) -/

theorem State.movePort_turns (s : State) (p : Nat) (f : Port → Port) : PortTurns s (s.movePort p f) p f := by
  have hr := (s.onPort p f).signal_rest 3
  refine ⟨?_, (s.onPort p f).signal_hsig 3, (congrArg (fun z : State => { z with ports := s.ports, free := s.free }) hr :)⟩
  exact (congrArg State.ports hr :).trans (mapIf_eq_ite s.ports (·.n) p f)

theorem portStep_eq {name : String} {p : Nat} {ok : PortState → Bool} {f : State → State} {s : State} {u : Port} (hu : s.port? p = some u)
    (hok : ok u.st = true) (hheld : s.pkg.held = false) : portStep name p ok f s = .next (f s) := by
  unfold portStep
  rw [hu]
  simp [hok, hheld]

theorem ports_replay (p : Nat) : Steps (.flitReplay p)
    (fun s => s.pkg.held = false ∧ ∃ u, s.port? p = some u ∧ (u.st = .training ∨ u.st = .up ∨ u.st = .degraded) ∧ u.replays < 16)
    fun s t => t = { s with
      ports := s.ports.map fun u => if u.n = p then
        { u with retry := if u.retry = 0xFFFF then u.retry else u.retry + 1, replays := u.replays + 1 } else u } := by
  rintro s ⟨hheld, u, hu, hst, hr⟩
  refine ⟨_, ?_, congrArg (fun l => { s with ports := l }) (mapIf_eq_ite s.ports (·.n) p _)⟩
  change execFlitReplay p s = _
  unfold execFlitReplay
  rw [if_neg, portStep_eq hu (by rcases hst with h | h | h <;> rw [h] <;> rfl) hheld]
  · rfl
  · rw [hu, Option.any_some, decide_eq_true_eq]; omega

theorem ports_limit (p : Nat) : Steps (.replayLimit p)
    (fun s => s.pkg.held = false ∧ ∃ u, s.port? p = some u ∧ 16 ≤ u.replays ∧ (u.st = .up ∨ u.st = .degraded))
    fun s t => PortTurns s t p fun u => { u with st := .training, lanes := 0, attempts := 0, replays := 0 } := by
  rintro s ⟨hheld, u, hu, hr, hst⟩
  refine ⟨_, ?_, s.movePort_turns p _⟩
  change execReplayLimit p s = _
  unfold execReplayLimit
  rw [if_neg, portStep_eq hu (by rcases hst with h | h <;> rw [h] <;> rfl) hheld]
  rw [hu, Option.all_some, decide_eq_true_eq]
  omega

theorem ports_enable (p : Nat) : Steps (.portEnable p)
    (fun s => s.pkg.stage = .d ∧ s.pkg.held = false ∧ ∃ u, s.port? p = some u ∧ u.st = .down)
    fun s t => PortTurns s t p fun u => { u with st := .training, attempts := 0, replays := 0 } := by
  rintro s ⟨hd, hheld, u, hu, hst⟩
  refine ⟨_, (portStep_eq hu ?_ hheld : execPortEnable p s = _), s.movePort_turns p _⟩
  rw [hst, hd]
  rfl

/-- A training port with n lanes that pass, or none where an attempt failed otherwise. -/
theorem execPortTrainingResult_eq {p n : Nat} {s : State} {u : Port} (hheld : s.pkg.held = false) (hu : s.port? p = some u) (hst : u.st = .training)
    (hn : n ≤ 9) : exec (.portTrainingResult p n) s = .next (
      if n < 4 then s.movePort p fun u => { u with st := .failed, lanes := 0, attempts := 0 }
      else if n = 9 then
        if (s.port? p).any fun u => 2 ≤ u.attempts then s.movePort p fun u => { u with st := .failed, lanes := 0, attempts := 0 }
        else s.onPort p fun u => { u with attempts := u.attempts + 1 }
      else
        s.draw.movePort p fun u =>
          { u with
            st := if n = 8 then .up else .degraded, lanes := if n = 8 then 8 else 4, attempts := 0, replays := 0
            peerPkg := Config.peerPkg s.free, peerPort := Config.peerPort s.free }) := by
  change execPortTrainingResult p n s = _
  unfold execPortTrainingResult
  rw [portStep_eq hu (by rw [hst, decide_eq_true hn]; rfl) hheld]

theorem ports_failed (p n : Nat) : Steps (.portTrainingResult p n)
    (fun s => n < 4 ∧ s.pkg.held = false ∧ ∃ u, s.port? p = some u ∧ u.st = .training)
    fun s t => PortTurns s t p fun u => { u with st := .failed, lanes := 0, attempts := 0 } := by
  rintro s ⟨hn, hheld, u, hu, hst⟩
  exact ⟨_, execPortTrainingResult_eq hheld hu hst (by omega), by rw [if_pos hn]; exact s.movePort_turns p _⟩

theorem ports_thirdAttempt (p : Nat) : Steps (.portTrainingResult p 9)
    (fun s => s.pkg.held = false ∧ ∃ u, s.port? p = some u ∧ u.st = .training ∧ 2 ≤ u.attempts)
    fun s t => PortTurns s t p fun u => { u with st := .failed, lanes := 0, attempts := 0 } := by
  rintro s ⟨hheld, u, hu, hst, ha⟩
  refine ⟨_, execPortTrainingResult_eq hheld hu hst (by omega), ?_⟩
  rw [if_neg (by omega), if_pos rfl, hu, Option.any_some, if_pos (decide_eq_true ha)]
  exact s.movePort_turns p _

theorem ports_attempt (p : Nat) : Steps (.portTrainingResult p 9)
    (fun s => s.pkg.held = false ∧ ∃ u, s.port? p = some u ∧ u.st = .training ∧ u.attempts < 2)
    fun s t => t = { s with ports := s.ports.map fun u => if u.n = p then { u with attempts := u.attempts + 1 } else u } := by
  rintro s ⟨hheld, u, hu, hst, ha⟩
  refine ⟨_, execPortTrainingResult_eq hheld hu hst (by omega), ?_⟩
  rw [if_neg (by omega), if_pos rfl, hu, Option.any_some, if_neg (by rw [decide_eq_true_eq]; omega)]
  exact congrArg (fun l => { s with ports := l }) (mapIf_eq_ite s.ports (·.n) p _)

theorem ports_trained (p n : Nat) : Steps (.portTrainingResult p n)
    (fun s => 4 ≤ n ∧ n ≤ 8 ∧ s.pkg.held = false ∧ ∃ u, s.port? p = some u ∧ u.st = .training)
    fun s t => ∃ pkg no, PortTurns s t p fun u =>
      { u with st := if n = 8 then .up else .degraded, lanes := if n = 8 then 8 else 4, attempts := 0, replays := 0, peerPkg := pkg, peerPort := no } := by
  rintro s ⟨h4, h8, hheld, u, hu, hst⟩
  refine ⟨_, execPortTrainingResult_eq hheld hu hst (by omega), Config.peerPkg s.free, Config.peerPort s.free, ?_⟩
  rw [if_neg (by omega), if_neg (by omega)]
  obtain ⟨hp, hh, hr⟩ := s.draw.movePort_turns p fun u =>
    { u with
      st := if n = 8 then .up else .degraded, lanes := if n = 8 then 8 else 4, attempts := 0, replays := 0
      peerPkg := Config.peerPkg s.free, peerPort := Config.peerPort s.free }
  exact ⟨hp, hh, (congrArg (fun z : State => { z with free := s.free }) hr :)⟩

theorem ports_laneFailure (p : Nat) : Steps (.laneFailure p) (fun s => s.pkg.held = false ∧ ∃ u, s.port? p = some u ∧ u.st = .up)
    fun s t => PortTurns s t p fun u => { u with st := .degraded, lanes := 4 } := by
  rintro s ⟨hheld, u, hu, hst⟩
  refine ⟨_, (portStep_eq hu ?_ hheld : execLaneFailure p s = _), s.movePort_turns p _⟩
  rw [hst]
  rfl

theorem ports_disable (p : Nat) : Steps (.portDisable p) (fun s => s.pkg.held = false ∧ ∃ u, s.port? p = some u ∧ u.st ≠ .down)
    fun s t => PortTurns s t p fun u => { u with st := .down, lanes := 0, attempts := 0, replays := 0, peerPkg := 0, peerPort := 0 } := by
  rintro s ⟨hheld, u, hu, hst⟩
  refine ⟨_, (portStep_eq hu rfl hheld : execPortDisable p s = _), ?_⟩
  rw [hu, Option.any_some, if_neg (by simpa using hst)]
  exact s.movePort_turns p _

theorem ports_disabled (p : Nat) : Steps (.portDisable p) (fun s => s.pkg.held = false ∧ ∃ u, s.port? p = some u ∧ u.st = .down)
    fun s t => t = s := by
  rintro s ⟨hheld, u, hu, hst⟩
  refine ⟨_, (portStep_eq hu rfl hheld : execPortDisable p s = _), ?_⟩
  rw [hu, Option.any_some, if_pos (by simpa using hst)]

/-! ### The host attachment (R403, R405) -/

theorem State.onModule_eq (s : State) (n : Nat) (f : UcieModule → UcieModule) :
    s.onModule n f = { s with pkg := { s.pkg with modules := s.pkg.modules.map fun u => if u.n = n then f u else u } } :=
  congrArg (fun l => { s with pkg := { s.pkg with modules := l } }) (mapIf_eq_ite s.pkg.modules (·.n) n f)

theorem ports_apertures (a b : DWord) : Steps (.apertureBaseWrite a b)
    (fun s => s.pkg.stage = .a ∧ s.pkg.held = false ∧ a.toNat % 2 ^ 25 = 0 ∧ b.toNat % 2 ^ 41 = 0)
    fun s t => PackageTurns s t { s.pkg with hrwbase := a, hmabase := b } := by
  rintro s ⟨hst, hheld, ha, hb⟩
  refine ⟨_, if_pos ?_, rfl⟩
  rw [hst, hheld, ha, hb]
  rfl

theorem ports_retry (m : Nat) : Steps (.moduleLevelRetry m) (fun s => ∃ u ∈ s.pkg.modules, u.n = m ∧ u.up = true)
    fun s t => PackageTurns s t { s.pkg with modules := s.pkg.modules.map fun u => if u.n = m then { u with retries := u.retries + 1 } else u } := by
  rintro s ⟨u, hu, hn, hup⟩
  exact ⟨_, if_pos (List.any_eq_true.mpr ⟨u, hu, by simp [hn, hup]⟩), s.onModule_eq m _⟩

theorem ports_repair (m l : Nat) : Steps (.laneRepair m l) (fun s => l < 64 ∧ ∃ u ∈ s.pkg.modules, u.n = m)
    fun s t => PackageTurns s t { s.pkg with modules := s.pkg.modules.map fun u =>
      if u.n = m then { u with repaired := if l ∈ u.repaired then u.repaired else u.repaired ++ [l] } else u } := by
  rintro s ⟨hl, u, hu, hn⟩
  have hany : s.pkg.modules.any (fun x => x.n == m) = true := List.any_eq_true.mpr ⟨u, hu, by simp [hn]⟩
  refine ⟨_, if_pos (by rw [hany, decide_eq_true hl]; rfl), (s.onModule_eq m _).trans ?_⟩
  simp only [List.contains_iff_mem]

/-- Settles O40, step by step. -/
theorem ports : Obligations.Ports :=
  ⟨ports_replay, ports_limit, ports_enable, ports_failed, ports_thirdAttempt, ports_attempt, ports_trained, ports_laneFailure, ports_disable,
    ports_disabled, ports_apertures, ports_retry, ports_repair⟩

end Sys2Proof.Machine
end

section
/-!
SUPPORT. The first register fault of an arithmetic instruction (R13, R438).
-/
namespace Sys2Proof.Machine

/-! ### The first register fault of an arithmetic instruction (R13, R438) -/

/-- An instruction is run by a plan that names these registers, and has nothing that comes before their faults. -/
def RunsNaming (i : Instr) (us : List Use) : Prop :=
  ∃ p : Plan, (∀ s, exec i s = run i p s) ∧ p.allUses = us ∧ p.raises = .nothing ∧ (∀ s h, p.stall s h = false) ∧ ∀ s h, p.early s h = none

theorem runsNaming_of_laneInt (i : Instr) (r : LaneResult) (h : laneInt i = some r) : RunsNaming i r.uses := by
  cases i with
  | iaddI32 | isubI32 | imulI32 | imulhiI32 | imulhiN32 | iminI32 | iminN32 | imaxI32 | imaxN32 | andB32 | orB32 | xorB32 | andnB32
  | shlB32 | shrN32 | shrI32 | rotlB32 | litI =>
    cases h
    exact ⟨_, fun _ => rfl, (List.append_assoc ..).symm, rfl, fun _ _ => rfl, fun _ _ => rfl⟩
  | _ => cases h

theorem runsNaming_of_laneOneWord (i : Instr) (r : LaneResult) (h : laneOneWord i = some r) : RunsNaming i r.uses := by
  cases i with
  | popcB32 | clzB32 | brevB32 | movB32 | movB64 | iabsI32 | inegI32 | faddF32 | fsubF32 | fmulF32 | fminF32 | fmaxF32 | faddF64 | fsubF64
  | fmulF64 | fminF64 | fmaxF64 | fabsF32 | fabsF64 | fnegF32 | fnegF64 | litF | litMov | iaddI64 | isubI64 =>
    cases h
    exact ⟨_, fun _ => rfl, (List.append_assoc ..).symm, rfl, fun _ _ => rfl, fun _ _ => rfl⟩
  | _ => cases h

theorem runsNaming_of_laneExtended (i : Instr) (r : LaneResult) (h : laneExtended i = some r) : RunsNaming i r.uses := by
  cases i with
  | iaddExt | isubExt | imulExt | imulhiExt | iminExt | imaxExt | shlExt | shrExt | faddExt | fsubExt | fmulExt | fdiv | fminExt | fmaxExt
  | imad | clamp | fma | bfe | bfi | iabsExt | inegExt | fsqrt | frcp | frint | frsqrt | fexp2 | flog2 | sel =>
    cases h
    exact ⟨_, fun _ => rfl, (List.append_assoc ..).symm, rfl, fun _ _ => rfl, fun _ _ => rfl⟩
  | _ => cases h

theorem runsNaming_of_laneAcross (i : Instr) (r : LaneResult) (h : laneAcross i = some r) : RunsNaming i r.uses := by
  cases i with
  | xchAt | xchFlip | cenBits | getLane | redAdd | redMin | redMax | cvt | cvtPk | cvtPk4 | xchSub | xchAdd | scanAdd =>
    cases h
    exact ⟨_, fun _ => rfl, (List.append_assoc ..).symm, rfl, fun _ _ => rfl, fun _ _ => rfl⟩
  | _ => cases h

theorem runsNaming_of_predResult (i : Instr) (r : PredResult) (h : predResult i = some r) : RunsNaming i r.uses := by
  cases i with
  | icmpI32 | icmpI64 | fcmpF32 | fcmpF64 | pand | por | pandn | pxor | icmpN32 | icmpN64 | cenAll | cenAny =>
    cases h
    exact ⟨_, fun _ => rfl, (List.append_assoc ..).symm, rfl, fun _ _ => rfl, fun _ _ => rfl⟩
  | _ => cases h

theorem runsNaming_of_uniArith (i : Instr) (r : UniResult) (h : uniArith i = some r) : RunsNaming i r.uses := by
  cases i with
  | uniformIadd | uniformIsub | uniformImul | uniformImulhiI | uniformImulhiN | uniformIminI | uniformIminN | uniformImaxI
  | uniformImaxN | uniformAnd | uniformOr | uniformXor | uniformAndn | uniformShl | uniformShrN | uniformShrI | uniformRotl
  | uniformIcmpI | uniformIcmpN | uniformFadd | uniformFsub | uniformFmul | uniformFmin | uniformFmax | uniformFcmp
  | uniformPopc | uniformClz | uniformBrev | uniformMov | uniformLiteralForm | uniformExtended =>
    cases h
    exact ⟨_, fun _ => rfl, rfl, rfl, fun _ _ => rfl, fun _ _ => rfl⟩
  | _ => cases h

theorem runsNaming_of_getResult (i : Instr) (r : UniResult) (h : getResult i = some r) : RunsNaming i r.uses := by
  cases i with
  | getGroup | getTeamX | getTeamY | getTeamZ | getGridX | getGridY | getGridZ | getCore | getCluster | getDie | getCtx | getEm
  | getLm | getFmt | getCycle =>
    cases h
    exact ⟨_, fun _ => rfl, rfl, rfl, fun _ _ => rfl, fun _ _ => rfl⟩
  | _ => cases h

/-- The first fault at issue is taken. -/
theorem run_issueFault {i : Instr} {p : Plan} {s : State} {h : Here} {r : Report} (hh : s.here = some h) (hs : p.stall s h = false)
    (hf : s.issueFault h i p = some r) : run i p s = .next (s.raise h.g h.slot h.p.pc i.first r) := by
  unfold run
  simp only [hh, hs, hf, Bool.false_eq_true, if_false]

/-- Settles O48: the faults at issue of a plan that names these registers are those of R13's order. -/
theorem registerFaults : Obligations.RegisterFaults := by
  intro i us hn s h hh
  have hruns : RunsNaming i us := by
    rcases hn with ⟨r, hr | hr | hr | hr, rfl⟩ | ⟨r, hr, rfl⟩ | ⟨r, hr | hr, rfl⟩
    · exact runsNaming_of_laneInt i r hr
    · exact runsNaming_of_laneOneWord i r hr
    · exact runsNaming_of_laneExtended i r hr
    · exact runsNaming_of_laneAcross i r hr
    · exact runsNaming_of_predResult i r hr
    · exact runsNaming_of_uniArith i r hr
    · exact runsNaming_of_getResult i r hr
  obtain ⟨p, hrun, huses, hraises, hstall, hearly⟩ := hruns
  have takes : ∀ r, s.issueFault h i p = some r → exec i s = .next (s.raise h.g h.slot h.p.pc i.first r) := fun r hf =>
    (hrun s).trans (run_issueFault hh (hstall s h) hf)
  have hregs : h.p.badLength i = false → ∀ r, h.a.regFaults us = some r → exec i s = .next (s.raise h.g h.slot h.p.pc i.first r) := by
    intro hb r hr
    refine takes r ?_
    unfold State.issueFault
    rw [hb, hearly, hraises, huses, hr]
    rfl
  refine ⟨fun hb => takes _ ?_, fun hb => ⟨fun u hu => hregs hb _ ?_, fun ho => ⟨fun u hu => hregs hb _ ?_, fun hp u hu => hregs hb _ ?_⟩⟩⟩
  · unfold State.issueFault
    rw [hb]
    rfl
  · unfold Arch.regFaults firstBad regFault
    rw [hu]
    rfl
  · unfold Arch.regFaults firstBad regFault
    rw [ho, hu]
    rfl
  · unfold Arch.regFaults firstBad regFault
    rw [ho, hp, hu]
    rfl

end Sys2Proof.Machine
end

section
/-!
SUPPORT. A step runs the decoded instruction (R88, R145, R152, R254, R255, R299).
-/
namespace Sys2Proof.Machine

/-! ### The cycle counted for the paths of a quadrant (R254, R255) -/

theorem Arch.uncounted_cyclePasses (a : Arch) (who could : Bool → Bool) :
    (a.cyclePasses who could).onPaths (fun p => { p with passed := 0, idle := 0 }) = a.onPaths fun p => { p with passed := 0, idle := 0 } := by
  have hp : ∀ (p : Path) w c, ({ p.cyclePasses w c with passed := 0, idle := 0 } : Path) = { p with passed := 0, idle := 0 } := fun p w c => by
    unfold Path.cyclePasses
    split <;> rfl
  unfold Arch.cyclePasses Arch.onPaths
  simp only [Option.map_map, List.map_map, Function.comp_def, hp]
  congr 1
  refine List.map_congr_left fun q _ => ?_
  cases q with
  | wait p d => dsimp only; rw [hp]
  | recon | call | wait2 => rfl

theorem Group.uncounted_cyclePasses (g : Group) (who could : Option Nat → Bool → Bool) : (g.cyclePasses who could).uncounted = g.uncounted := by
  unfold Group.cyclePasses Group.uncounted
  simp only [Arch.uncounted_cyclePasses, List.map_map, Function.comp_def]

theorem counted_afterCycle (s : State) (r : Ready) (o : Host.Outcome State Fault Refusal) : Counted o (s.afterCycle r o) := by
  cases o with
  | next t =>
    refine ⟨_, rfl, rfl, ?_⟩
    unfold State.cyclePasses
    dsimp only
    rw [List.map_map]
    refine List.map_congr_left fun g _ => ?_
    dsimp only [Function.comp_apply]
    split
    · exact Group.uncounted_cyclePasses ..
    · rfl
  | fault f => rfl
  | refused r => rfl

/-! ### A step runs the decoded instruction (R88, R145, R152, R254, R299) -/

/-- A group none of whose accesses was put off. -/
theorem State.drainLate_nothing {s : State} {g : Group} (hg : s.group? g.id = some g) (h : ∀ x ∈ g.arch.tracked, x.late = []) : s.drainLate g.id = s := by
  unfold State.drainLate State.performBy
  rw [hg]
  dsimp only
  rw [List.filter_true]
  generalize g.arch.tracked = l at h
  induction l with
  | nil => rfl
  | cons y l ih =>
    rw [List.foldl_cons, h y (List.mem_cons_self ..)]
    exact ih fun z hz => h z (List.mem_cons_of_mem _ hz)

theorem State.issue_of_here {s : State} {h : Here} (hh : s.here = some h) (hi : s.issueHeld h.t = false) : s.issue = s.runDecoded h := by
  unfold State.issue
  simp only [hh, hi, Bool.false_eq_true, if_false]

theorem step_issue {s : State} {grp : Nat} {slot : Bool} {r : List Act} (ha : s.agenda = .issue grp slot :: r) :
    step s = State.afterCycle { s with agenda := r, cur := (grp, slot), turn := none }
      (State.chosen { s with agenda := r, cur := (grp, slot), turn := none } grp slot none)
      (State.issue { s with agenda := r, cur := (grp, slot), turn := none }) := by
  unfold step
  rw [ha]
  rfl

theorem step_issueLate {s : State} {grp : Nat} {slot : Bool} {r : List Act} (ha : s.agenda = .issueLate grp slot :: r) :
    step s = State.afterCycle { s with agenda := r, cur := (grp, slot), turn := none }
      (State.chosen { s with agenda := r, cur := (grp, slot), turn := none } grp slot none)
      (match State.issue { s with agenda := r, cur := (grp, slot), turn := none, late := true } with
        | .next t => .next { t with late := false }
        | o => o) := by
  unfold step
  rw [ha]
  rfl

/-- Settles O56: an entry of the agenda is an issue of the path's next instruction, or a step of another agent. -/
theorem stepRunsDecoded : Obligations.StepRunsDecoded := by
  refine ⟨?_, ?_, fun s g hg h => State.drainLate_nothing hg h, ?_, ?_, ?_⟩
  · intro s grp slot r h ha s' hh
    refine ⟨fun hi => ⟨fun i hd => ?_, fun e hd => ?_⟩, fun hm => ?_, fun hi => ?_⟩
    · rw [step_issue ha, State.issue_of_here hh hi, State.runDecoded, hd]
      exact counted_afterCycle ..
    · rw [step_issue ha, State.issue_of_here hh hi, State.runDecoded, hd]
      exact counted_afterCycle ..
    · unfold State.issueHeld
      rw [hm, Bool.true_or]
    · have hr : s'.issue = .refused .noPath := by
        unfold State.issue
        simp only [hh, hi, if_true]
      rw [step_issue ha, hr]
      rfl
  · intro s grp slot r h i t ha s' hh hi hd hl ht
    rw [step_issueLate ha, State.issue_of_here hh hi, State.runDecoded, hd]
    dsimp only
    rw [if_pos hl, ht]
    exact counted_afterCycle ..
  · intro s grp seq i r g x ha hg hx hm
    unfold step
    rw [ha]
    change (if _ then _ else _) = _
    refine if_pos ?_
    rw [show State.group? { s with agenda := r } grp = some g from hg, Option.bind_some, hx]
    exact hm
  · intro s grp slot r ha s' hh
    have hr : s'.issue = exec .clauseEntry s' := by
      unfold State.issue
      simp only [hh]
    rw [step_issue ha, hr]
    exact counted_afterCycle ..
  · intro s i r ha
    unfold step
    rw [ha]
    rfl

end Sys2Proof.Machine
end

section
/-!
SUPPORT. A cache line that keeps more than its bytes (R388).
-/
namespace Sys2Proof.Machine

/-! ### A cache line that keeps more than its bytes (R388, R389) -/

/-- Stack 0 in operation, with a dirty line 0 of which 65 bytes are kept. -/
def longLine : State :=
  { State.reset with
    mstacks := State.reset.mstacks.map fun k => if k.n = 0 then { k with st := .owned 0 } else k
    cache := [⟨0, List.replicate 65 1, false⟩] }

/-- Refutes O42: the statement admits a cache line that keeps more bytes than a line has. As its stack is lost, line 0's 65 bytes go to DRAM, and
byte 64, which lies in no line of the cache, changes. -/
theorem not_baseDies : ¬ Obligations.BaseDies := by
  intro claim
  obtain ⟨-, -, lost, -⟩ := claim
  obtain ⟨t, ht, u, ⟨-, -, hbytes, hrest⟩, -, hsame⟩ := lost 0 longLine ⟨_, rfl, .inl ⟨0, by decide +kernel⟩⟩
  have hfe : u.fe = longLine.fe := (congrArg State.fe hrest :)
  have htu : t = u := hsame (by rw [hfe]; rfl) (by rw [hfe]; rfl) (by rw [hfe]; rfl)
  have h64 : u.byte 64 = longLine.byte 64 := hbytes 64 (by decide +kernel)
  have hnow : byteAfter (exec (.stackLost 0) longLine) 64 = 1 := by decide +kernel
  rw [ht, byteAfter, htu, h64] at hnow
  exact absurd hnow (by decide +kernel)

end Sys2Proof.Machine
end

section
/-!
SUPPORT. The steps of a hand-over (R382).
-/
namespace Sys2Proof.Machine

/-! ### What waited for a stack is served (R379, R405) -/

theorem State.servePorts_nothing {s : State} (h1 : s.fe.qcbDue = []) (h2 : s.fe.progDue = []) (h3 : s.fe.mbxq = []) : s.servePorts = s := by
  have hg : (s.onFe fun f => { f with progDue := [] }) = s := by
    unfold State.onFe
    rw [← h2]
  have hq : s.serveQcbs = s := by
    unfold State.serveQcbs
    simp only [h1, List.filter_nil, List.foldl_nil]
    have hf : s.fe.qcbDue.filter (fun e => s.keyHeld (s.qcbKey e.1)) = s.fe.qcbDue := by rw [h1]; rfl
    unfold State.onFe
    dsimp only
    rw [hf]
  unfold State.servePorts
  simp only [hq, h2, List.foldl_nil, hg, h3]

/-! ### The drain of a hand-over (R382, R383) -/

theorem State.drainAt_eq_some {s : State} {tid step n d : Nat} {x : Thread} (hx : s.thread? tid = some x) (hk : x.kind = .hand n d) (hi : x.idx = step) :
    s.drainAt tid step = some (x, n, d) := by
  unfold State.drainAt
  rw [hx]
  dsimp only
  rw [hk]
  exact if_pos hi

theorem State.drainAt_eq_none {s : State} {tid step n d : Nat} {x : Thread} (hx : s.thread? tid = some x) (hk : x.kind = .hand n d) (hi : x.idx ≠ step) :
    s.drainAt tid step = none := by
  unfold State.drainAt
  rw [hx]
  dsimp only
  rw [hk]
  exact if_neg hi

theorem Stack.handedBy_iff (k : Stack) (t : Thread) (d : Nat) : k.handedBy t d = true ↔ k.st = .handing t.die d t.idx := by
  unfold Stack.handedBy
  cases k.st <;> simp [and_assoc]

theorem State.drainTo_threads (s : State) (t : Thread) (n d step : Nat) (f : Stack → Stack) :
    (s.drainTo t n d step f).threads = s.threads.map fun u => if u.id = t.id then { u with idx := step } else u := mapIf_eq_ite s.threads (·.id) t.id _

theorem State.drainTo_stacks (s : State) (t : Thread) (n d step : Nat) (f : Stack → Stack) :
    (s.drainTo t n d step f).mstacks = s.mstacks.map fun k =>
      if k.n = n ∧ k.st = .handing t.die d t.idx then f { k with st := .handing t.die d step } else k := by
  refine (mapIf_eq_ite s.mstacks (·.n) n _).trans (List.map_congr_left fun k _ => ?_)
  by_cases hn : k.n = n
  · by_cases hh : k.st = .handing t.die d t.idx
    · rw [if_pos hn, if_pos ((Stack.handedBy_iff k t d).mpr hh), if_pos ⟨hn, hh⟩]
    · rw [if_pos hn, if_neg fun e => hh ((Stack.handedBy_iff k t d).mp e), if_neg fun e => hh e.2]
  · rw [if_neg hn, if_neg fun e => hn e.1]

theorem State.drainTo_rest (s : State) (t : Thread) (n d step : Nat) (f : Stack → Stack) :
    { s.drainTo t n d step f with threads := s.threads, mstacks := s.mstacks } = s := rfl

/-- An engine thread ends: it is no more, and where its group still knows it, its counter falls. -/
theorem State.endThread_threads (s : State) (x : Thread) : (s.endThread x).threads = s.threads.filter (·.id != x.id) := by
  unfold State.endThread
  dsimp only
  split
  · rfl
  · rw [State.complete_eq]

theorem State.endThread_rest (s : State) (x : Thread) : { s.endThread x with threads := s.threads, groups := s.groups } = s := by
  unfold State.endThread
  dsimp only
  split
  · rfl
  · rw [State.complete_eq]

theorem State.endThread_groups {s : State} {x : Thread} (ho : x.orphan = false) {m : Nat} (hm : x.seq = some m) :
    (s.endThread x).groups = s.groups.map fun g =>
      if g.id = x.grp then { g with arch := g.arch.complete m, conts := g.conts.map fun c => { c with arch := c.arch.complete m } } else g := by
  unfold State.endThread
  rw [ho, hm]
  exact State.onGroup_groups_ite ..

/-! ### The clauses of O43 -/

section Steps
variable (tid : Nat)

/-- A hand-over's thread at a step of its drain. -/
def State.HandsAt (s : State) (tid step : Nat) (x : Thread) (n d : Nat) : Prop := s.thread? tid = some x ∧ x.kind = .hand n d ∧ x.idx = step

theorem State.HandsAt.drainAt {s : State} {tid step n d : Nat} {x : Thread} (h : s.HandsAt tid step x n d) : s.drainAt tid step = some (x, n, d) :=
  State.drainAt_eq_some h.1 h.2.1 h.2.2

theorem State.HandsAt.drainAt_other {s : State} {tid step other n d : Nat} {x : Thread} (h : s.HandsAt tid step x n d) (ho : step ≠ other) :
    s.drainAt tid other = none :=
  State.drainAt_eq_none h.1 h.2.1 (by rw [h.2.2]; exact ho)

theorem handOver_first : Steps (.handoverDrain tid) (fun s => ∃ x n d, s.HandsAt tid 1 x n d)
    fun s t => ∃ x n d, s.HandsAt tid 1 x n d ∧ t = s.drainTo x n d 2 := by
  rintro s ⟨x, n, d, h⟩
  refine ⟨_, ?_, x, n, d, h, rfl⟩
  change execHandoverDrain tid s = _
  unfold execHandoverDrain
  rw [h.drainAt]

theorem handOver_drained : Steps (.handoverDrain tid)
    (fun s => ∃ x n d, s.HandsAt tid 2 x n d ∧
      ∀ u ∈ s.threads, u.die = x.die → u.kind.described = true → u.st = .ended ∨ n ∈ u.fenced ∨
        u.desc ≠ [] ∧ (∀ i, u.idx ≤ i → i < u.total → s.elementOn u n i = false) ∧
          (descCwe u.desc = true → descCws u.desc = 1 ∨ s.liesOn u n 2 (descCwa u.desc) 8 = false))
    fun s t => ∃ x n d, s.HandsAt tid 2 x n d ∧ t = s.drainTo x n d 3 := by
  rintro s ⟨x, n, d, h, hdone⟩
  have hp : s.preFence x.die n = false := by
    unfold State.preFence
    rw [List.any_eq_false]
    intro u hu hpre
    simp only [Bool.and_eq_true, beq_iff_eq, bne_iff_ne, ne_eq, Bool.not_eq_true', Bool.or_eq_true, List.any_eq_true, List.mem_range] at hpre
    obtain ⟨⟨⟨⟨hdie, hdesc⟩, hst⟩, hf⟩, hwhy⟩ := hpre
    rcases hdone u hu hdie hdesc with he | hn | ⟨hd, hel, hcw⟩
    · exact hst he
    · rw [List.contains_iff_mem.mpr hn] at hf
      cases hf
    · rcases hwhy with (he | ⟨j, hj, he⟩) | ⟨⟨hc, hs⟩, hl⟩
      · exact hd he
      · rw [hel (u.idx + j) (by omega) (by omega)] at he
        cases he
      · rcases hcw hc with h1 | h1
        · exact hs h1
        · rw [h1] at hl
          cases hl
  refine ⟨_, ?_, x, n, d, h, rfl⟩
  change execHandoverDrain tid s = _
  unfold execHandoverDrain
  rw [h.drainAt_other (by omega), h.drainAt]
  simp only [hp, Bool.false_eq_true, if_false]

theorem handOver_flush : Steps (.stackCacheFlush tid) (fun s => ∃ x n d, s.HandsAt tid 3 x n d)
    fun s t => ∃ x n d, s.HandsAt tid 3 x n d ∧ t = ((s.writeBack fun c => stackOf (64 * c.line) == n).drainTo x n d 4).discardStack x n := by
  rintro s ⟨x, n, d, h⟩
  refine ⟨_, ?_, x, n, d, h, rfl⟩
  change execStackCacheFlush tid s = _
  unfold execStackCacheFlush
  rw [h.drainAt]

theorem handOver_discard : Steps (.handoverTranslationDiscard tid)
    (fun s => ∃ x n d, s.HandsAt tid 4 x n d ∧
      ∀ w ∈ x.waits, ∀ g, s.group? w.1 = some g → ∀ e ∈ g.arch.tracked, e.seq = w.2 → e.done = true)
    fun s t => ∃ x n d, s.HandsAt tid 4 x n d ∧ t = s.drainTo x n d 5 := by
  rintro s ⟨x, n, d, h, hdone⟩
  have hw : x.waits.any s.stillOut = false := by
    rw [List.any_eq_false]
    intro w hw hout
    unfold State.stillOut at hout
    cases hg : s.group? w.1 with
    | none => rw [hg] at hout; cases hout
    | some g =>
      rw [hg, Option.any_some, List.any_eq_true] at hout
      obtain ⟨e, he, hb⟩ := hout
      simp only [Bool.and_eq_true, beq_iff_eq, Bool.not_eq_true'] at hb
      rw [hdone w hw g hg e he hb.1] at hb
      cases hb.2
  refine ⟨_, ?_, x, n, d, h, rfl⟩
  change execHandoverTranslationDiscard tid s = _
  unfold execHandoverTranslationDiscard
  rw [h.drainAt]
  simp only [hw, Bool.false_eq_true, if_false]

theorem handOver_switch : Steps (.portSwitch tid) (fun s => ∃ x n d, s.HandsAt tid 5 x n d)
    fun s t => ∃ x n d, s.HandsAt tid 5 x n d ∧ t = s.drainTo x n d 6 fun k => { k with portTo := some d } := by
  rintro s ⟨x, n, d, h⟩
  refine ⟨_, ?_, x, n, d, h, rfl⟩
  change execPortSwitch tid s = _
  unfold execPortSwitch
  rw [h.drainAt]

theorem handOver_update : Steps (.ownershipUpdate tid) (fun s => ∃ x n d, s.HandsAt tid 6 x n d)
    fun s t => ∃ x n d, s.HandsAt tid 6 x n d ∧ t = (s.drainTo x n d 7 fun k => (k.setCopy x.die .notOwned).setCopy d .owned).servePorts := by
  rintro s ⟨x, n, d, h⟩
  refine ⟨_, ?_, x, n, d, h, rfl⟩
  change execOwnershipUpdate tid s = _
  unfold execOwnershipUpdate
  rw [h.drainAt]

/-- The state of a hand-over's last step but for the end of its thread: HSEQ has counted, and the threads of the die are fenced no longer. -/
def State.handed (s : State) (x : Thread) (n d : Nat) : State :=
  let s := s.onStack n fun k => { k with hseq := k.hseq + 1, st := if k.handedBy x d then .owned d else k.st }
  { s with threads := mapIf s.threads (·.die == x.die) fun (u : Thread) => { u with fenced := u.fenced.filter (· != n) } }

theorem handOver_complete : Steps (.handoverComplete tid) (fun s => ∃ x n d, s.HandsAt tid 7 x n d)
    fun s t => ∃ x n d, s.HandsAt tid 7 x n d ∧ t = (s.handed x n d).endThread x := by
  rintro s ⟨x, n, d, h⟩
  refine ⟨_, ?_, x, n, d, h, rfl⟩
  change execHandoverComplete tid s = _
  unfold execHandoverComplete
  rw [h.drainAt]
  rfl

end Steps

/-- The copies of both dies beside a stack, one after the other. -/
theorem Stack.copies_set (k : Stack) (g d : Nat) (hne : g ≠ d) {n : Nat} (hn : k.n = n)
    (hp : g = (Stack.ports n).1 ∧ d = (Stack.ports n).2 ∨ d = (Stack.ports n).1 ∧ g = (Stack.ports n).2) :
    let q := (k.setCopy g .notOwned).setCopy d .owned
    (if (Stack.ports n).1 = d then q.copyA else if (Stack.ports n).2 = d then q.copyB else .notOwned) = .owned ∧
      (if (Stack.ports n).1 = g then q.copyA else if (Stack.ports n).2 = g then q.copyB else .notOwned) = .notOwned := by
  subst hn
  rcases hp with ⟨h1, h2⟩ | ⟨h1, h2⟩
  · have e1 : ¬ (Stack.ports k.n).1 = d := by rw [← h1]; exact hne
    simp [Stack.setCopy, ← h1, ← h2, hne]
  · simp [Stack.setCopy, ← h1, ← h2, Ne.symm hne]

theorem State.thread?_id {s : State} {tid : Nat} {x : Thread} (h : s.thread? tid = some x) : x.id = tid := by simpa using List.find?_some h

/-- The stack that step 6 leaves: the receiving die owns it, and the giving one does not. -/
theorem State.copies_updated {s : State} {tid n d : Nat} {x : Thread} {k : Stack} (h : s.HandsAt tid 6 x n d) (hk : s.stack? n = some k)
    (hst : k.st = .handing x.die d 6) (hne : x.die ≠ d)
    (hp : x.die = (Stack.ports n).1 ∧ d = (Stack.ports n).2 ∨ d = (Stack.ports n).1 ∧ x.die = (Stack.ports n).2) :
    (s.drainTo x n d 7 fun k => (k.setCopy x.die .notOwned).setCopy d .owned).copyOf d n = .owned ∧
      (s.drainTo x n d 7 fun k => (k.setCopy x.die .notOwned).setCopy d .owned).copyOf x.die n = .notOwned := by
  have hn : k.n = n := by simpa using List.find?_some hk
  have hset : ∀ (q : Stack) die c, (q.setCopy die c).n = q.n := fun q die c => by
    unfold Stack.setCopy
    split
    · rfl
    · split <;> rfl
  have hq : (s.drainTo x n d 7 fun k => (k.setCopy x.die .notOwned).setCopy d .owned).stack? n =
      some ((({ k with st := .handing x.die d 7 } : Stack).setCopy x.die .notOwned).setCopy d .owned) := by
    unfold State.stack?
    rw [State.drainTo_stacks, find?_map_key]
    · rw [show s.mstacks.find? (·.n == n) = some k from hk, Option.map_some, if_pos ⟨hn, by rw [hst, h.2.2]⟩]
    · intro q
      split
      · rw [hset, hset]
      · rfl
  unfold State.copyOf
  rw [hq]
  exact Stack.copies_set { k with st := .handing x.die d 7 } x.die d hne hn hp

/-- What step 4 discards: leaves that map a frame of the stack, and walk-cache entries read from a table there. -/
theorem TlbEntry.onStack_iff (e : TlbEntry) (die n : Nat) : e.onStack die n = true ↔ e.unit.die = die ∧
    ((∃ r g, e.unit = .leaf r g) ∧ pteTgt e.pte = 0 ∧ stackOf (ptePa e.pte) = n ∨ (∃ r g, e.unit = .walk r g) ∧ e.table = some n) := by
  unfold TlbEntry.onStack
  cases e.unit with
  | leaf r g => simp
  | walk r g => simp

/-- The stack that step 7 leaves. -/
theorem State.stack?_handed {s : State} {tid n d : Nat} {x : Thread} {k : Stack} (h : s.HandsAt tid 7 x n d) (hk : s.stack? n = some k) :
    ((s.handed x n d).endThread x).stack? n =
      some { k with hseq := k.hseq + 1, st := if k.st = .handing x.die d 7 then .owned d else k.st } := by
  have hn : k.n = n := by simpa using List.find?_some hk
  have hm : ((s.handed x n d).endThread x).mstacks = s.mstacks.map fun k =>
      if k.n = n then { k with hseq := k.hseq + 1, st := if k.handedBy x d then .owned d else k.st } else k :=
    (congrArg State.mstacks (State.endThread_rest (s.handed x n d) x) :).trans (mapIf_eq_ite s.mstacks (·.n) n _)
  unfold State.stack?
  rw [hm, find?_map_key]
  · rw [show s.mstacks.find? (·.n == n) = some k from hk, Option.map_some, if_pos hn]
    simp only [Stack.handedBy_iff, h.2.2]
  · intro q
    split <;> rfl

/-- Settles O43, step by step. -/
theorem handOver : Obligations.HandOver := by
  refine ⟨fun tid s hs => ?_, fun tid s hs => ?_, fun tid s hs => ?_, fun tid s hs => ?_, fun tid s hs => ?_, fun tid s hs => ?_, fun tid s hs => ?_⟩
  · obtain ⟨t, ht, x, n, d, h, rfl⟩ := handOver_first tid s hs
    exact ⟨_, ht, x, n, d, h, ⟨State.drainTo_threads .., State.drainTo_stacks ..⟩, rfl⟩
  · obtain ⟨t, ht, x, n, d, h, rfl⟩ := handOver_drained tid s hs
    exact ⟨_, ht, x, n, d, h, ⟨State.drainTo_threads .., State.drainTo_stacks ..⟩, rfl⟩
  · obtain ⟨t, ht, x, n, d, h, rfl⟩ := handOver_flush tid s hs
    refine ⟨_, ht, x, n, d, h, ?_, ?_, ?_, ?_, rfl⟩
    · refine (mapIf_eq_ite _ (fun u : Thread => u.id) x.id _).trans ?_
      rw [State.drainTo_threads, List.map_map]
      refine List.map_congr_left fun u _ => ?_
      by_cases hu : u.id = x.id
      · rw [Function.comp_apply, if_pos hu, if_pos hu, if_pos hu]
        rfl
      · rw [Function.comp_apply, if_neg hu, if_neg hu, if_neg hu]
    · refine (State.drainTo_stacks ..).trans ?_
      rw [h.2.2]
      rfl
    · intro c
      refine List.mem_filter.trans ?_
      simp
    · intro e
      refine List.mem_filter.trans (and_congr_right fun _ => ?_)
      rw [Bool.not_eq_true', ← Bool.not_eq_true, not_iff_not]
      exact TlbEntry.onStack_iff e x.die n
  · obtain ⟨t, ht, x, n, d, h, rfl⟩ := handOver_discard tid s hs
    exact ⟨_, ht, x, n, d, h, ⟨State.drainTo_threads .., State.drainTo_stacks ..⟩, rfl⟩
  · obtain ⟨t, ht, x, n, d, h, rfl⟩ := handOver_switch tid s hs
    exact ⟨_, ht, x, n, d, h, ⟨State.drainTo_threads .., State.drainTo_stacks ..⟩, rfl⟩
  · obtain ⟨x, n, d, k, h, hk, hst, hne, hp⟩ := hs
    obtain ⟨t, ht, y, m, e, h', rfl⟩ := handOver_update tid s ⟨x, n, d, h⟩
    obtain rfl : y = x := Option.some_inj.mp (h'.1.symm.trans h.1)
    obtain ⟨rfl, rfl⟩ : m = n ∧ e = d := by
      have := h'.2.1.symm.trans h.2.1
      injection this with h1 h2
      exact ⟨h1, h2⟩
    obtain ⟨hc, hc'⟩ := State.copies_updated h hk hst hne hp
    refine ⟨_, ht, y, m, e, h, _, ⟨hc, hc', ?_, rfl⟩, rfl, fun h1 h2 h3 => State.servePorts_nothing h1 h2 h3⟩
    rw [State.drainTo_threads, State.thread?_id h.1]
  · obtain ⟨x, n, d, k, h, hk⟩ := hs
    obtain ⟨t, ht, y, m, e, h', rfl⟩ := handOver_complete tid s ⟨x, n, d, h⟩
    obtain rfl : y = x := Option.some_inj.mp (h'.1.symm.trans h.1)
    obtain ⟨rfl, rfl⟩ : m = n ∧ e = d := by
      have := h'.2.1.symm.trans h.2.1
      injection this with h1 h2
      exact ⟨h1, h2⟩
    refine ⟨_, ht, y, m, e, k, _, h, hk, State.stack?_handed h hk, rfl, ?_, ?_, fun ho q hq => ?_⟩
    · intro u hu
      rw [State.endThread_threads] at hu
      simpa using (List.mem_filter.mp hu).2
    · exact (congrArg (fun z : State => { z with threads := s.threads, mstacks := s.mstacks, groups := s.groups }) (State.endThread_rest _ y) :)
    · exact State.endThread_groups ho hq

end Sys2Proof.Machine
end

section
/-!
SUPPORT. Queues, their control blocks and the entry cache (R344-R349); queues that share a number.
-/
namespace Sys2Proof.Machine

/-! ### Queues and their control blocks (R344-R349) -/

/-- A state with what accesses to control blocks change taken from another: what write events change, and what a lost block brings about
(R376). -/
def State.besidesQcbs (t s : State) : State :=
  { t.unwritten s with
    pkg := s.pkg, evSeq := s.evSeq
    fe := { t.fe with qcache := s.fe.qcache, qcbDue := s.fe.qcbDue, hsig := s.fe.hsig, notified := s.fe.notified } }

/-- Nothing but control blocks has been read or written. -/
def SavesQcbs (s t : State) : Prop := t.besidesQcbs s = s

theorem SavesQcbs.refl (s : State) : SavesQcbs s s := rfl

theorem SavesQcbs.trans {s t u : State} (h : SavesQcbs s t) (k : SavesQcbs t u) : SavesQcbs s u :=
  (congrArg (fun x : State => x.besidesQcbs s) k :).trans h

theorem SavesQcbs.onQcache {s t : State} (h : SavesQcbs s t) (c : List Nat) : SavesQcbs s { t with fe := { t.fe with qcache := c } } := h

theorem SavesQcbs.queues {s t : State} (h : SavesQcbs s t) : t.queues = s.queues := (congrArg State.queues h :)

theorem SavesQcbs.ctxs {s t : State} (h : SavesQcbs s t) : t.ctxs = s.ctxs := (congrArg State.ctxs h :)

theorem SavesQcbs.mstacks {s t : State} (h : SavesQcbs s t) : t.mstacks = s.mstacks := (congrArg State.mstacks h :)

theorem SavesQcbs.grids {s t : State} (h : SavesQcbs s t) : t.grids = s.grids := (congrArg State.grids h :)

/-- The front end but for what control blocks need. -/
theorem SavesQcbs.fe {s t : State} (h : SavesQcbs s t) :
    { t.fe with qcache := s.fe.qcache, qcbDue := s.fe.qcbDue, hsig := s.fe.hsig, notified := s.fe.notified } = s.fe := (congrArg State.fe h :)

theorem SavesQcbs.queue? {s t : State} (h : SavesQcbs s t) (q : Nat) : t.queue? q = s.queue? q := by
  unfold State.queue?
  rw [h.queues]

theorem SavesQcbs.ctx? {s t : State} (h : SavesQcbs s t) (c : Nat) : t.ctx? c = s.ctx? c := by
  unfold State.ctx?
  rw [h.ctxs]

theorem SavesQcbs.liveQueue {s t : State} (h : SavesQcbs s t) (q : Nat) : t.liveQueue q = s.liveQueue q := by
  unfold State.liveQueue
  rw [h.queue?]

theorem SavesQcbs.fetching {s t : State} (h : SavesQcbs s t) (c : Nat) : t.fetching c = s.fetching c := by
  unfold State.fetching
  rw [h.ctx?]

theorem SavesQcbs.mbxq {s t : State} (h : SavesQcbs s t) : t.fe.mbxq = s.fe.mbxq := (congrArg FrontEnd.mbxq h.fe :)

theorem SavesQcbs.reloading {s t : State} (h : SavesQcbs s t) : t.fe.reloading = s.fe.reloading := (congrArg FrontEnd.reloading h.fe :)

theorem State.keyHeld_congr {s t : State} (h : t.mstacks = s.mstacks) (k : Nat) : t.keyHeld k = s.keyHeld k := by
  unfold State.keyHeld State.training State.handing State.stack?
  rw [h]

theorem SavesQcbs.qcbHeld {s t : State} (h : SavesQcbs s t) (q : Nat) : t.keyHeld (t.qcbKey q) = s.keyHeld (s.qcbKey q) := by
  have hb : t.fe.qtbase = s.fe.qtbase := (congrArg FrontEnd.qtbase h.fe :)
  rw [State.keyHeld_congr h.mstacks]
  unfold State.qcbKey
  rw [hb]

theorem State.savesQcbs_signal (s : State) (n : Nat) : SavesQcbs s (s.signal n) := by
  unfold State.signal
  split <;> rfl

theorem State.savesQcbs_deviceLoss (s : State) (k : Nat) : SavesQcbs s (s.deviceLoss k) := by
  have h := (s.onPkg fun p => { p with log := p.log ++ [.loss s.evSeq 3 0 k] }).savesQcbs_signal 2
  unfold State.deviceLoss State.mgmtLog
  generalize (s.onPkg fun p => { p with log := p.log ++ [.loss s.evSeq 3 0 k] }).signal 2 = m at h ⊢
  exact (congrArg (fun x : State => x.besidesQcbs s) h :)

theorem WriteEvent.savesQcbs {s t : State} {k : Nat} {bs : List Byte} (h : WriteEvent s t k bs) : SavesQcbs s t :=
  (congrArg (fun x : State => x.besidesQcbs s) h.rest :)

theorem State.savesQcbs_accessQcb (s : State) (q : Nat) (k : QcbAccess) : SavesQcbs s (s.accessQcb q k) := by
  have hw (u : Queue) : SavesQcbs s (if s.mergesLost (s.qcbKey q) 256 then s.deviceLoss (s.qcbKey q) else s.store (s.qcbKey q) u.bytes) := by
    split
    · exact s.savesQcbs_deviceLoss _
    · exact (s.writeEvent_store _ _).savesQcbs
  unfold State.accessQcb
  split
  · unfold State.hubLoss
    split
    · exact s.savesQcbs_deviceLoss _
    · exact .refl s
  · dsimp only
    split
    · exact (hw _).trans (State.savesQcbs_signal _ 1)
    · exact hw _
  · exact .refl s

theorem State.savesQcbs_onQcb (s : State) (q : Nat) (k : QcbAccess) : SavesQcbs s (s.onQcb q k) := by
  unfold State.onQcb
  split
  · rfl
  · exact s.savesQcbs_accessQcb q k

theorem State.savesQcbs_writeQcbs (l : List Nat) (s : State) : SavesQcbs s (l.foldl State.writeQcb s) := by
  induction l generalizing s with
  | nil => exact .refl s
  | cons q l ih => exact (s.savesQcbs_onQcb q .write).trans (ih _)

theorem State.savesQcbs_touchQueue (s : State) (q : Nat) : SavesQcbs s (s.touchQueue q) := by
  unfold State.touchQueue
  split
  · dsimp only
    refine SavesQcbs.onQcache (SavesQcbs.trans ?_ (State.savesQcbs_writeQcbs _ _)) _
    split
    · exact .refl s
    · exact s.savesQcbs_onQcb q .load
  · exact .refl s

theorem State.savesQcbs_saveQueue (s : State) (q : Nat) : SavesQcbs s (s.saveQueue q) := by
  unfold State.saveQueue
  split
  · split
    · exact s.savesQcbs_onQcb q .write
    · exact .refl s
  · exact .refl s

/-! ### The entry cache (R345) -/

/-- A queue is the most recently used of its set of the entry cache, and the set holds no more than its ways. -/
def State.Touched (s : State) (q : Nat) : Prop :=
  ∃ r, s.fe.qcache = q :: r ∧ (∀ n ∈ r, n ≠ q) ∧ (qcacheSet s.fe.qcache q).length ≤ 8

theorem filter_ne_of_forall {r : List Nat} {q : Nat} (h : ∀ n ∈ r, n ≠ q) : r.filter (· != q) = r :=
  List.filter_eq_self.mpr fun n hn => by simpa using h n hn

/-- A touched queue stays as it is when touched again. -/
theorem State.Touched.again {s : State} {q : Nat} (h : s.Touched q) : s.touchQueue q = s := by
  obtain ⟨r, hr, hq, hl⟩ := h
  unfold State.touchQueue
  split
  · have hc : (q :: s.fe.qcache.filter (· != q)) = s.fe.qcache := by rw [hr, List.filter_cons_of_neg (by simp), filter_ne_of_forall hq]
    dsimp only
    rw [if_pos (by rw [hr]; simp), hc, List.drop_eq_nil_of_le hl]
    simp [State.onFe]
  · rfl

theorem State.Touched.of_qcache {s t : State} {q : Nat} (h : s.Touched q) (e : t.fe.qcache = s.fe.qcache) : t.Touched q := by
  unfold State.Touched
  rw [e]
  exact h

/-- What a set of the entry cache keeps once it has given up what stands beyond its ways. -/
theorem length_filter_not_drop (l : List Nat) (n : Nat) : (l.filter fun x => !(l.drop n).contains x).length ≤ n := by
  have h : (l.drop n).filter (fun x => !(l.drop n).contains x) = [] := List.filter_eq_nil_iff.mpr fun x hx => by simpa using hx
  calc (l.filter fun x => !(l.drop n).contains x).length
      = ((l.take n ++ l.drop n).filter fun x => !(l.drop n).contains x).length := by rw [List.take_append_drop]
    _ ≤ n := by rw [List.filter_append, h, List.append_nil]; exact (List.length_filter_le ..).trans (List.length_take_le ..)

theorem State.touched_touchQueue {s : State} {q : Nat} (h : s.liveQueue q = true) : (s.touchQueue q).Touched q := by
  unfold State.touchQueue
  rw [if_pos h]
  dsimp only
  have hc : (if s.fe.qcache.contains q then s else s.onQcb q .load).fe.qcache = s.fe.qcache := by
    split
    · rfl
    · unfold State.onQcb
      split
      · rfl
      · unfold State.accessQcb
        split
        · unfold State.hubLoss
          split
          · unfold State.deviceLoss State.mgmtLog State.signal
            split <;> rfl
          · rfl
        · contradiction
        · rfl
  rw [hc]
  have hset : qcacheSet (q :: s.fe.qcache.filter (· != q)) q = q :: qcacheSet (s.fe.qcache.filter (· != q)) q := List.filter_cons_of_pos (by simp)
  have hq : q ∉ (qcacheSet (q :: s.fe.qcache.filter (· != q)) q).drop 8 := by
    rw [hset, List.drop_succ_cons]
    intro hm
    have := List.mem_of_mem_filter (List.mem_of_mem_drop hm)
    simp at this
  refine ⟨(s.fe.qcache.filter (· != q)).filter fun n => !((qcacheSet (q :: s.fe.qcache.filter (· != q)) q).drop 8).contains n, ?_, ?_, ?_⟩
  · have : (!((qcacheSet (q :: s.fe.qcache.filter (· != q)) q).drop 8).contains q) = true := by simpa using hq
    exact List.filter_cons_of_pos (p := fun n => !((qcacheSet (q :: s.fe.qcache.filter (· != q)) q).drop 8).contains n) this
  · intro n hn
    simpa using (List.mem_filter.mp (List.mem_of_mem_filter hn)).2
  · unfold State.onFe
    dsimp only
    unfold qcacheSet
    rw [List.filter_comm]
    exact length_filter_not_drop (qcacheSet (q :: s.fe.qcache.filter (· != q)) q) 8

/-- Touching a queue that its set holds moves it to the front, and does nothing else. -/
theorem State.touchQueue_cached {s : State} {q : Nat} (hc : s.fe.qcache.contains q = true) (h8 : (qcacheSet s.fe.qcache q).length ≤ 8) :
    ∃ c, s.touchQueue q = { s with fe := { s.fe with qcache := c } } := by
  unfold State.touchQueue
  split
  · dsimp only
    rw [List.drop_eq_nil_of_le]
    · exact ⟨_, rfl⟩
    · have hq : q ∈ qcacheSet s.fe.qcache q := List.mem_filter.mpr ⟨by simpa using hc, by simp⟩
      have : qcacheSet (q :: s.fe.qcache.filter (· != q)) q = q :: (qcacheSet s.fe.qcache q).filter (· != q) := by
        unfold qcacheSet
        rw [List.filter_cons_of_pos (by simp), List.filter_comm]
      rw [this, List.length_cons]
      refine le_trans (Nat.succ_le_of_lt ?_) h8
      exact List.length_filter_lt_length_iff_exists.mpr ⟨q, hq, by simp⟩
  · exact ⟨_, rfl⟩

/-! ### A queue's fields -/

theorem State.queue?_id {s : State} {q : Nat} {u : Queue} (h : s.queue? q = some u) : u.id = q := by simpa using List.find?_some h

/-- A queue found after a change of it. -/
theorem State.queue?_onQueue (s : State) (q : Nat) (f : Queue → Queue) (h : ∀ u, (f u).id = u.id) :
    (s.onQueue q f).queue? q = (s.queue? q).map f := by
  unfold State.queue? State.onQueue mapIf
  dsimp only
  rw [find?_map_key]
  · cases hf : s.queues.find? (·.id == q) with
    | none => rfl
    | some u =>
      have : u.id = q := by simpa using List.find?_some hf
      simp [this]
  · intro u
    split
    · rw [h]
    · rfl

theorem State.queue?_onQueue_of {s : State} {q : Nat} {u : Queue} {f : Queue → Queue} (h : s.queue? q = some u) (hf : ∀ u, (f u).id = u.id) :
    (s.onQueue q f).queue? q = some (f u) := by
  rw [s.queue?_onQueue q f hf, h]
  rfl

theorem State.queue?_onQueue_some {s : State} {q : Nat} {u : Queue} {f : Queue → Queue} (h : s.queue? q = some u) (hf : ∀ u, (f u).id = u.id) :
    ∃ v, (s.onQueue q f).queue? q = some v := ⟨_, State.queue?_onQueue_of h hf⟩

theorem State.onQueue_onQueue (s : State) (q : Nat) (f g : Queue → Queue) (h : ∀ u, (f u).id = u.id) :
    (s.onQueue q f).onQueue q g = s.onQueue q fun u => g (f u) := by
  unfold State.onQueue mapIf
  simp only [List.map_map]
  congr 1
  refine List.map_congr_left fun u _ => ?_
  by_cases hu : u.id = q
  · simp [hu, h]
  · simp [hu]

theorem State.liveQueue_of {s : State} {q : Nat} {u : Queue} (h : s.queue? q = some u) (hs : u.st ≠ .absent) : s.liveQueue q = true := by
  unfold State.liveQueue
  rw [h]
  simpa using hs

/-- The fields of a queue that is neither OUT nor in ERROR are not written back. -/
theorem State.saveQueue_of {s : State} {q : Nat} {u : Queue} (h : s.queue? q = some u) (ho : u.st ≠ .out) (he : u.st ≠ .error) : s.saveQueue q = s := by
  unfold State.saveQueue
  rw [h]
  simp [ho, he]

/-- A queue without a progress word writes none. -/
theorem State.progress_of {s : State} {q : Nat} {u : Queue} (h : s.queue? q = some u) (hc : u.ctl.getLsbD 0 = false) : s.progress q = (s, none) := by
  unfold State.progress
  rw [h]
  dsimp only
  rw [if_pos (by rw [hc]; rfl)]

/-- A queue without a progress word enters a state. -/
theorem State.setQueue_of {s : State} {q : Nat} {u : Queue} (h : s.queue? q = some u) (st : QState) (hc : u.ctl.getLsbD 0 = false) :
    s.setQueue q st = (((s.touchQueue q).onQueue q fun u => { u with st := st }).saveQueue q, none) := by
  have hq : ((s.touchQueue q).onQueue q fun u => { u with st := st }).queue? q = some { u with st := st } :=
    State.queue?_onQueue_of (((s.savesQcbs_touchQueue q).queue? q).trans h) fun _ => rfl
  unfold State.setQueue
  dsimp only
  split
  · rw [State.progress_of hq hc]
  · rfl

/-- A queue enters ACTIVE, and writes no progress word. -/
theorem State.setQueue_active {s : State} {q : Nat} {u : Queue} (h : s.queue? q = some u) :
    s.setQueue q .active = ((s.touchQueue q).onQueue q fun u => { u with st := .active }, none) := by
  have hq : ((s.touchQueue q).onQueue q fun u => { u with st := .active }).queue? q = some { u with st := .active } :=
    State.queue?_onQueue_of (((s.savesQcbs_touchQueue q).queue? q).trans h) fun _ => rfl
  exact congrArg (·, none) (State.saveQueue_of hq nofun nofun)

/-- The queue in a state that it enters. -/
theorem State.queue?_setQueue {s : State} {q : Nat} {u : Queue} (h : s.queue? q = some u) (st : QState) (hc : u.ctl.getLsbD 0 = false) :
    (s.setQueue q st).1.queue? q = some { u with st := st } := by
  rw [State.setQueue_of h st hc]
  dsimp only
  rw [(State.savesQcbs_saveQueue _ q).queue?]
  exact State.queue?_onQueue_of (((s.savesQcbs_touchQueue q).queue? q).trans h) fun _ => rfl

/-! ### Queues that leave -/

theorem State.queue?_withdrawPacket {s : State} {q : Nat} {u : Queue} (h : s.queue? q = some u) : ∃ v, (s.withdrawPacket q).queue? q = some v := by
  unfold State.withdrawPacket
  rw [h]
  dsimp only
  split
  · exact State.queue?_onQueue_some h fun _ => rfl
  · exact ⟨u, h⟩

/-- A queue whose requests and packets have gone, as it becomes ABSENT (R349). -/
def State.emptied (s : State) (q : Nat) : State :=
  let s := s.withdrawPacket q
  let s := s.onFe fun f => { f with mbxq := f.mbxq.filter fun r => match r.src with | .queue n _ _ => n != q | .path .. => true }
  s.onQueue q fun v => { v with packet := none, feFault := none, st := .absent, getting := [] }

theorem State.savesQcbs_dropQueue (s : State) (q : Nat) : SavesQcbs (s.emptied q) (s.dropQueue q) :=
  ((s.emptied q).savesQcbs_onQcb q .write).onQcache _

theorem State.queue?_dropQueue {s : State} {q : Nat} {u : Queue} (h : s.queue? q = some u) :
    ∃ v, (s.dropQueue q).queue? q = some v ∧ v.st = .absent := by
  obtain ⟨v, hv⟩ := State.queue?_withdrawPacket h
  refine ⟨{ v with packet := none, feFault := none, st := .absent, getting := [] }, ?_, rfl⟩
  rw [(s.savesQcbs_dropQueue q).queue?]
  exact State.queue?_onQueue_of hv fun _ => rfl

/-! ### Queues that share a number (R347) -/

/-- A queue of number 0 that has a progress word at offset 0 of die 0's context window, at this index. -/
def sameNumber (idx : Nat) : Queue :=
  { gettingQueue with ctx := 0, ctl := 3, rdidx := idx, getting := [] }

/-- Two queues of one number, at different indices, in a context whose window on die 0 is 8 bytes long. -/
def twoQueues : State :=
  { State.reset with
    ctxs := [Ctx.first 0 (homeTag 0x9000)]
    mem := putBytes [] (homeKey 0x9064) [8]
    queues := [sameNumber 1, sameNumber 2] }

/-- Refutes O35: the statement admits queues of one number. A progress word written for it records in each of them the index of its own, where
the statement asks for the index of the first in both. -/
theorem not_queueStates : ¬ Obligations.QueueStates := by
  intro claim
  have hplace : twoQueues.wordTarget 0 (some 0) 0 = .ok (scratchKey 0 0) := by decide +kernel
  have hnow : (twoQueues.progress 0).1.queues.map (·.prog) = [1, 2] := by decide +kernel
  obtain ⟨-, hq, -⟩ := claim.2.2.2 twoQueues 0 (sameNumber 1) (scratchKey 0 0) (by decide +kernel) (by decide +kernel) (by decide +kernel)
    (by decide +kernel) hplace
  have := congrArg (List.map fun u : Queue => u.prog) hq
  exact absurd (hnow.symm.trans this) (by decide +kernel)

end Sys2Proof.Machine
end

section
/-!
SUPPORT. States outside a statement's conditions: a LOAD whose record cannot be reached, a return behind a store that was put off, and norms for a frame that waits for its stack (R152, R268, R379, R437).
-/
namespace Sys2Proof.Machine

/-! ### A LOAD whose record cannot be reached (R326, R437) -/

/-- The registers serve, context 0 is there, and CTXARG names a place on a stack in training. -/
def loadWaits : State :=
  { State.reset with
    pkg := { State.reset.pkg with stage := .d }
    ctxs := [Ctx.first 0 (homeTag 0x9000)] }

/-- Whether a step answers a next state. -/
def answers (o : Host.Outcome State Fault Refusal) : Bool :=
  match o with
  | .next _ => true
  | _ => false

/-- Refutes O34: a LOAD of a context that is not FREE gives STATUS 2 in the statement, wherever CTXARG points. The model's command has not
run while the place that CTXARG names lies on a stack in training. -/
theorem not_contextCommands : ¬ Obligations.ContextCommands := by
  intro claim
  obtain ⟨-, -, -, -, -, -, -, -, -, -, hload, -, -⟩ := claim
  have hrefused : answers (exec (.load 0) loadWaits) = false := by decide +kernel
  have hc : loadWaits.ctx? 0 = some (Ctx.first 0 (homeTag 0x9000)) := by decide +kernel
  have hheld : loadWaits.noHeld 0 := fun c h => by
    rw [← Option.some_inj.mp (hc.symm.trans h)]
    rfl
  obtain ⟨t, ht, -⟩ := hload 0 loadWaits ⟨by decide, ⟨rfl, by decide +kernel⟩, hheld, Ctx.first 0 (homeTag 0x9000), hc, by decide +kernel⟩
  exact nomatch (show true = false from (congrArg answers ht).symm.trans hrefused)

/-! ### A return behind a store that was put off (R152, R276) -/

/-- A store of the group that is still to be performed. -/
def storeToCome : Tracked :=
  { seq := 0, path := .T, ctr := 0, dests := [], data := [], acq := false, lanes := 1, late := [.store (homeKey 0x9000) [1]], launch := false
    done := false, lowered := false }

/-- Group 0 at the `ret` of a `call.fk` that did not fork, with that store. -/
def lateReturn : State :=
  let s := State.reset.loadWords (encode .ret)
  { s with groups := s.groups.map fun g => { g with arch := { g.arch with stack := [.call 0x100 0 0 1 0 0], tracked := [storeToCome] } } }

/-- The `ret` is clear to issue, without a continuation; and the store's byte before and after it. -/
theorem lateReturn_facts : ∃ c : Sys2Proof.Tests.clearB lateReturn .ret [] .nothing = true,
    let h := lateReturn.here.get (Sys2Proof.Tests.here_of_clearB c)
    h.g.conts = [] ∧ h.a.refillDue = false ∧ h.p.depth = h.p.floor ∧ h.a.stack = [.call 0x100 0 0 1 0 0] ∧
      (lateReturn.targetFault h.t 0x100 = none ∧ lateReturn.clauseHeld h.t 0x100 = false) ∧ lateReturn.byte (homeKey 0x9000) = 0 ∧
      byteAfter (exec .ret lateReturn) (homeKey 0x9000) = 1 := by
  decide +kernel

/-- Refutes O8: `ret` performs the group's stores that were put off before it trains the predictor (R152). One is outstanding at the `ret` of
a `call.fk` without a continuation, and memory changes, which the statement says it does not. -/
theorem not_returnsAndExits : ¬ Obligations.ReturnsAndExits := by
  intro claim
  obtain ⟨c, hconts, hrefill, hdepth, hstack, hgoes, hbefore, hafter⟩ := lateReturn_facts
  obtain ⟨t, u, hrun, -, pc, d, f, i, w, r, -, -, -, -, hrest, -⟩ := claim.2.1 _ _ (Sys2Proof.Tests.clear_of c)
    ⟨rfl, hconts, hrefill, hdepth, 0x100, 0, 0, 0, 0, [], hstack, hgoes⟩
  have hmem : t.mem = lateReturn.mem := (State.onCore_mem t _ _ _).symm.trans (congrArg State.mem hrest :)
  have hbyte : t.byte (homeKey 0x9000) = 1 := (congrArg (byteAfter · (homeKey 0x9000)) hrun).symm.trans hafter
  have hsame : t.byte (homeKey 0x9000) = lateReturn.byte (homeKey 0x9000) := (congrArg (fun m => Sparse.look m (homeKey 0x9000)) hmem :)
  exact absurd (hbyte.symm.trans (hsame.trans hbefore)) (by decide)

/-! ### Norms for a frame whose position waits for its stack (R268, R379, R399) -/

/-- Group 0 at `rfl.put`, with as many positions as the core holds, and below them in its spill area a controller frame of the block at offset 0. The stack of that area has come
into training; the block is in its residual phase. -/
def frameAway : State :=
  let s := State.reset.loadWords (encode (.rflPut 0 2))
  { s with
    mstacks := s.mstacks.map fun k => { k with st := .training }
    mem := putBytes (putBytes s.mem (homeKey 0x5000) (Pos.image (.call 0 0 0 2 0 0))) (teamKey 0 0x3F) [2]
    groups := s.groups.map fun g => { g with arch := { g.arch with stack := List.replicate heldPositions (.wait2 []), spilled := 1 } } }

/-- `rfl.put` is clear to issue, and finds its frame among the spilled positions; and PUTF behind it. -/
theorem frameAway_facts : ∃ c : Sys2Proof.Tests.clearB frameAway (.rflPut 0 2) (srcS 0 2 ++ srcS 2 2) .nothing = true,
    let h := frameAway.here.get (Sys2Proof.Tests.here_of_clearB c)
    h.t.id = 0 ∧ frameAway.spilledFault h h.a.spilled = none ∧ frameAway.innermost h = some 0 ∧ frameAway.isLost (teamKey h.t.id 0) 128 = false ∧
      Block.phase (frameAway.bytes (teamKey h.t.id 0) 128) = 2 ∧ byteAfter (exec (.rflPut 0 2) frameAway) (teamKey 0 0x68) = 0 := by
  decide +kernel

/-- Refutes O18: `rfl.put` looks for the innermost frame among the spilled positions, and waits while their stack is in training (R379). The
statement's conditions do not speak of that wait, and it has PUTF written at once. -/
theorem not_refinement : ¬ Obligations.Refinement := by
  intro claim
  obtain ⟨c, hteam, hfault, hin, hlost, hphase, hafter⟩ := frameAway_facts
  obtain ⟨t, u, hrun, -, o, ho, hfields, -⟩ := claim.2.1 0 2 frameAway _ (Sys2Proof.Tests.clear_of c) ⟨rfl, .inr hfault, 0, hin, hlost, hphase⟩
  obtain rfl : 0 = o := Option.some_inj.mp (hin.symm.trans ho)
  have hbyte : t.byte (teamKey 0 0x68) = 0 := (congrArg (byteAfter · (teamKey 0 0x68)) hrun).symm.trans hafter
  have hput := hfields (teamKey 0 0x68)
  rw [hbyte, hteam] at hput
  have hone (m : Nat → Byte) (x y : Nat) : fieldsAt m (teamKey 0 0) [(0x58, 8, x), (0x60, 8, y), (0x68, 1, 1)] (teamKey 0 0x68) = 1 := rfl
  exact absurd (hput.trans (hone ..)) (by decide)

end Sys2Proof.Machine
end

section
/-!
SUPPORT. A deal beside a watched control block; launches that are read and accepted (R309, R312, R314, R316, R327); teams that are chosen to leave
(R297, R299, R329).
-/
namespace Sys2Proof.Machine

/-! ### A deal beside a watched control block (R291, R345, R361) -/

/-- A queue in ERROR whose DEFICIT is above 0, though it has no grid. -/
def idleDebtor : Queue := { gettingQueue with id := 1, st := .error, deficit := 1, getting := [] }

/-- A grid whose queue is no more and whose one team is still to be dealt, with its descriptor at address 0x200. -/
def undealtGrid : Grid :=
  { Grid.first 2 1 { KDesc.first 0x100 with addr := 0x200 } with root := 0x200, queue := 9, st := .dispatching, nextDeal := 0 }

/-- That grid, the descriptor's bytes in the page that is mapped at address 0, and a group that watches the first word of the queue's control
block. -/
def watchedBlock : State :=
  let s := State.reset.loadWords (encode .nop)
  { s with
    mem := putBytes (putBytes s.mem (homeKey 0x4000) (toBytes 8 (codePte 0x5000 + 2))) (homeKey 0x5208) [1, 1, 1]
    pkg := { s.pkg with dieok := 1 }
    grids := s.grids ++ [undealtGrid]
    queues := [idleDebtor]
    groups := s.groups.map fun g => { g with cairn := some ⟨.priv, 0, homeKey 0x100, false⟩ } }

/-- The cairns of the groups in the state that a step answers. -/
def cairnsAfter (o : Host.Outcome State Fault Refusal) : List (Option Cairn) :=
  match o with
  | .next t => t.groups.map (·.cairn)
  | _ => []

/-- The descriptor's bytes as the deal reads them. -/
def undealtDesc : KDesc := descOf 0x200 (List.replicate 8 0 ++ [1, 1, 1] ++ List.replicate 117 0) [0, 0, 0, 0]

theorem Except.eq_ok_of_toOption {ε α : Type} {e : Except ε α} {x : α} (h : e.toOption = some x) : e = .ok x := by
  cases e with
  | error => cases h
  | ok y => exact congrArg Except.ok (Option.some_inj.mp h)

/-- Refutes O33: with the team dealt, a queue in ERROR that has no grid loses its DEFICIT, and its control block is written to memory (R345, R361). That
write fires the cairn of a group which watches the block's first word, where the statement has every group as it was. -/
theorem not_gridSteps : ¬ Obligations.GridSteps := by
  intro claim
  have hcairns : cairnsAfter (exec (.teamDeal 0) watchedBlock) = [some ⟨.priv, 0, homeKey 0x100, true⟩] := by decide +kernel
  have hreads : (watchedBlock.rereadDesc undealtGrid).toOption = some undealtDesc := by decide +kernel
  have hreread : watchedBlock.rereadDesc undealtGrid = .ok undealtDesc := Except.eq_ok_of_toOption hreads
  obtain ⟨t, hrun, g, -, -, -, -, -, -, -, -, hgroups, -⟩ := claim.2.1 0 watchedBlock
    ⟨by decide +kernel, undealtGrid, none, undealtDesc, by decide +kernel, by decide +kernel, hreread, nofun⟩
  have hafter : t.groups.map (·.cairn) = [some ⟨.priv, 0, homeKey 0x100, true⟩] :=
    (congrArg cairnsAfter hrun).symm.trans hcairns
  rw [hgroups] at hafter
  exact absurd hafter (by decide +kernel)

/-! ### Engine threads that move (R211, R312) -/

theorem State.moving_eq_some {s : State} {tid : Nat} {want : ThreadKind → Bool} {st : ThreadState} {x : Thread} {tm : Team}
    (h : s.moving tid want st = some (x, tm)) : s.thread? tid = some x ∧ s.team? x.team = some tm ∧ want x.kind = true ∧ x.st = st := by
  unfold State.moving at h
  split at h
  · cases h
  · next y hy =>
    split at h
    · cases h
    · next u hu =>
      split at h
      · next hk =>
        simp only [Option.some.injEq, Prod.mk.injEq] at h
        obtain ⟨rfl, rfl⟩ := h
        simp only [Bool.and_eq_true, beq_iff_eq] at hk
        exact ⟨hy, hu, hk⟩
      · cases h

theorem State.onThread_eq_map (s : State) (tid : Nat) (f : Thread → Thread) :
    s.onThread tid f = { s with threads := s.threads.map fun u => if u.id = tid then f u else u } := by
  unfold State.onThread
  rw [mapIf_eq_ite s.threads Thread.id tid f]

theorem State.thread?_onThread {s : State} {tid : Nat} {x : Thread} {f : Thread → Thread} (hf : ∀ u, (f u).id = u.id) (h : s.thread? tid = some x) :
    (s.onThread tid f).thread? tid = some (f x) := by
  unfold State.thread? State.onThread at *
  rw [find?_mapIf _ _ _ fun u hu => by simpa [hf] using hu, h]
  rfl

/-! ### The pending-launch queue (R312, R314) -/

/-- A core whose entry of a thread is freed. -/
def Core.freed (c : Core) (tid : Nat) : Core :=
  if c.plq.contains tid then { c with plq := c.plq.filter (· != tid), plqWakes := min c.plqWait.length (c.plqWakes + 1) } else c

theorem Core.freed_name (c : Core) (tid : Nat) : (c.freed tid).die = c.die ∧ (c.freed tid).site = c.site := by
  unfold Core.freed
  split <;> exact ⟨rfl, rfl⟩

theorem Core.freed_plq (c : Core) (tid : Nat) : (c.freed tid).plq.contains tid = false := by
  unfold Core.freed
  split
  · simp
  · next h => simpa using h

theorem State.wakens_foldl_wakeTeam (s : State) (l : List Nat) : Wakens s (l.foldl State.wakeTeam s) := by
  suffices h : ∀ (l : List Nat) (w : State), Wakens s w → Wakens s (l.foldl State.wakeTeam w) from h l s (.refl s)
  intro l
  induction l with
  | nil => exact fun _ h => h
  | cons y l ih => exact fun w h => ih _ (h.trans (w.wakens_wakeTeam y))

theorem State.wakens_freeEntry (s : State) (x : Thread) : Wakens (s.onCore x.die x.site fun c => c.freed x.id) (s.freeEntry x) :=
  State.wakens_foldl_wakeTeam _ _

theorem Wakens.thread? {s t : State} (h : Wakens s t) (tid : Nat) : t.thread? tid = s.thread? tid := by
  unfold State.thread?
  rw [(congrArg State.threads h.rest :)]

theorem Wakens.core {s t : State} (h : Wakens s t) (die site : Nat) : t.core die site = s.core die site := by
  unfold State.core
  rw [(congrArg State.cores h.rest :)]

/-- A core whose oldest parked launcher goes on. -/
def Core.wakesLauncher (c : Core) (r : List Nat) : Core := { c with plqWait := r, plqWakes := c.plqWakes - 1 }

/-! ### Acceptance (R309, R316, R327) -/

theorem State.accept_stopped {s : State} {r : LaunchReq} (l : Launcher)
    (h : ∀ c, s.ctx? r.ctx = some c → c.st = .faulted ∨ c.st = .dead ∨ c.st = .free) :
    s.accept r l = .ok (s.addGrid (s.newGrid r l (noDesc r.desc) [] .failed 6)) := by
  have hd : (s.ctx? r.ctx).all (fun c => c.st == .faulted || c.st == .dead || c.st == .free) = true := by
    cases hc : s.ctx? r.ctx with
    | none => rfl
    | some c => simpa [or_assoc] using h c hc
  unfold State.accept
  dsimp only
  rw [hd, if_pos rfl]

theorem State.accept_examined {s : State} {r : LaunchReq} {c : Ctx} {d : KDesc} {args : List Word} (l : Launcher) (hc : s.ctx? r.ctx = some c)
    (h1 : c.st ≠ .faulted) (h2 : c.st ≠ .dead) (h3 : c.st ≠ .free) (he : s.examine r = .ok (d, args)) :
    s.accept r l = .ok (s.addGrid (s.newGrid r l d args .submitted 0)) := by
  have hd : (s.ctx? r.ctx).all (fun c => c.st == .faulted || c.st == .dead || c.st == .free) = false := by
    rw [hc]
    simp [h1, h2, h3]
  unfold State.accept
  dsimp only
  rw [hd, if_neg (by decide), he]

/-! ### The steps -/

theorem launchThread_steps (tid : Nat) : Steps (.launchThread tid)
    (fun s => ∃ x tm, s.moving tid (fun k => k == .launch) .fresh = some (x, tm) ∧ s.isLost (teamKey x.team x.off) 64 = false ∧
      let b := s.threadTeam tm (teamKey x.team x.off) 64
      s.recordCheck x tm b = none ∧ (recCtl b 2 = true → s.isLost (teamKey x.team (fieldOf b 0x10 8)) 32 = false))
    fun s t => ∃ x tm, s.moving tid (fun k => k == .launch) .fresh = some (x, tm) ∧
      let b := s.threadTeam tm (teamKey x.team x.off) 64
      t = { s with
        free := s.free + 1
        threads := s.threads.map fun u =>
          if u.id = tid then
            { u with
              st := .running, desc := b
              args := if recCtl b 2 then wordsAt (s.threadTeam tm (teamKey x.team (fieldOf b 0x10 8)) 32) 0 8 else [] }
          else u } := by
  rintro s ⟨x, tm, hmove, hlost, hcheck, hargs⟩
  have hl : (recCtl (s.threadTeam tm (teamKey x.team x.off) 64) 2 &&
      s.isLost (teamKey x.team (fieldOf (s.threadTeam tm (teamKey x.team x.off) 64) 0x10 8)) 32) = false := by
    cases hc : recCtl (s.threadTeam tm (teamKey x.team x.off) 64) 2 with
    | false => rfl
    | true => exact hargs hc
  refine ⟨_, ?_, x, tm, hmove, rfl⟩
  change execLaunchThread tid s = _
  unfold execLaunchThread
  rw [hmove]
  dsimp only
  rw [hlost, if_neg (by decide), hcheck]
  dsimp only
  rw [hl, if_neg (by decide), State.onThread_eq_map]
  rfl

theorem launchAccept_steps (tid : Nat) : Steps (.launchAccept tid)
    (fun s => ∃ x s', s.thread? tid = some x ∧ x.kind = .launch ∧ x.st = .running ∧ x.child = none ∧ s.fe.reloading = false ∧
      s.liveGrids < 4096 ∧ s.accept (s.threadReq x) (.thread tid) = .ok s' ∧ s'.threads = s.threads)
    fun s t => ∃ x s' y, s.thread? tid = some x ∧ s.accept (s.threadReq x) (.thread tid) = .ok s' ∧ t.thread? tid = some y ∧
      y = { x with st := .waiting, child := some s.evSeq } ∧ t.grids = s'.grids ∧ t.mem = s'.mem ∧
      (t.core x.die x.site).plq.contains tid = false := by
  rintro s ⟨x, s', hx, hkind, hst, hchild, hload, hlive, hacc, hthreads⟩
  have hthread : s'.thread? tid = some x := by rw [← hx]; unfold State.thread?; rw [hthreads]
  generalize hu : s'.onThread tid (fun u => { u with st := .waiting, child := some s.evSeq }) = u
  have hux : u.thread? tid = some { x with st := .waiting, child := some s.evSeq } :=
    hu ▸ s'.thread?_onThread (fun _ => rfl) hthread
  have hwake := u.wakens_freeEntry x
  have hfield : (u.freeEntry x).grids = u.grids ∧ (u.freeEntry x).mem = u.mem := by
    have h1 := (congrArg State.grids hwake.rest :)
    have h2 := (congrArg State.mem hwake.rest :)
    exact ⟨h1.trans (State.onCore_grids ..), h2.trans (State.onCore_mem ..)⟩
  refine ⟨u.freeEntry x, ?_, x, s', _, hx, hacc, ?_, rfl, ?_, ?_, ?_⟩
  · change execLaunchAccept tid s = _
    unfold execLaunchAccept
    rw [hx]
    dsimp only
    rw [hacc, hkind, hst, hchild, hload, decide_eq_false (Nat.not_le.mpr hlive), if_neg (by decide)]
    dsimp only
    rw [hu]
  · rw [hwake.thread? tid]
    refine Eq.trans ?_ hux
    unfold State.thread?
    rw [State.onCore_threads]
  · rw [hfield.1, ← hu]; rfl
  · rw [hfield.2, ← hu]; rfl
  · rw [hwake.core, State.core_onCore_same _ _ _ _ fun c => c.freed_name _]
    exact State.thread?_id hx ▸ Core.freed_plq _ _

theorem launchQueueWake_steps (die site : Nat) : Steps (.launchQueueWake die site)
    (fun s => ∃ g r, (s.core die site).plqWait = g :: r ∧ (s.core die site).plqWakes ≠ 0)
    fun s t => ∃ g r, (s.core die site).plqWait = g :: r ∧ (t.core die site).plqWait = r ∧
      (t.core die site).plqWakes + 1 = (s.core die site).plqWakes ∧ { t with groups := s.groups, cores := s.cores } = s ∧
      ∀ q w, s.group? g = some q → q.placeOf (· == .lnchFull) = some w →
        (t.group? g).map (·.arch) = some (q.arch.onPathAt w fun p => { p with park := none }) := by
  rintro s ⟨g, r, hwait, hwakes⟩
  generalize hu : s.onCore die site (fun c => c.wakesLauncher r) = u
  have hcore : (u.core die site).plqWait = r ∧ (u.core die site).plqWakes + 1 = (s.core die site).plqWakes := by
    rw [← hu, State.core_onCore_same s die site (fun c => c.wakesLauncher r) fun _ => ⟨rfl, rfl⟩]
    exact ⟨rfl, Nat.succ_pred hwakes⟩
  have hgroup : ∀ n, u.group? n = s.group? n := fun n => State.group?_congr (by rw [← hu, State.onCore_groups]) n
  have hrest : { u with groups := s.groups, cores := s.cores } = s := by rw [← hu, State.onCore_eq]
  have hrun : exec (.launchQueueWake die site) s = match (u.group? g).bind fun q => q.placeOf (· == .lnchFull) with
      | some w => .next (u.onArch g fun a => a.onPathAt w fun p => { p with park := none })
      | none => .next u := by
    change execLaunchQueueWake die site s = _
    unfold execLaunchQueueWake
    dsimp only
    rw [hwait]
    dsimp only
    rw [if_neg hwakes]
    exact hu ▸ rfl
  cases hq : (u.group? g).bind fun q => q.placeOf (· == .lnchFull) with
  | some w =>
    rw [hq] at hrun
    refine ⟨_, hrun, g, r, hwait, hcore.1, hcore.2, hrest, fun q v hg hv => ?_⟩
    rw [hgroup, hg, Option.bind_some, hv] at hq
    obtain rfl := Option.some_inj.mp hq
    rw [State.group?_onArch, hgroup, hg]
    rfl
  | none =>
    rw [hq] at hrun
    refine ⟨_, hrun, g, r, hwait, hcore.1, hcore.2, hrest, fun q v hg hv => ?_⟩
    rw [hgroup, hg, Option.bind_some, hv] at hq
    cases hq

/-- Settles O32: each step, and the two outcomes of acceptance. -/
theorem launchSteps : Obligations.LaunchSteps := by
  refine ⟨launchThread_steps, launchAccept_steps, launchQueueWake_steps, fun s r l => ⟨fun h => ?_, fun c d args hc h1 h2 h3 he => ?_⟩⟩
  · exact ⟨_, _, s.accept_stopped l h, rfl, rfl, rfl, rfl, rfl, rfl⟩
  · refine ⟨_, _, s.accept_examined l hc h1 h2 h3 he, rfl, rfl, rfl, rfl, rfl, rfl, rfl, ?_, rfl, rfl, rfl⟩
    exact (congrArg (fun o => (o.map Ctx.dies).getD 0) hc :)

/-! ### Places that are kept, and teams that are set to leave (R330, R331) -/

theorem State.reserve_fields {s r : State} {v : List Nat} (h : s.reserve v = some r) : r.groups = s.groups ∧ r.dies = s.dies := by
  induction v generalizing s with
  | nil =>
    obtain rfl := Option.some_inj.mp h
    exact ⟨rfl, rfl⟩
  | cons id v ih =>
    unfold State.reserve at h
    split at h
    · exact ih h
    · next t _ =>
      split at h
      · exact ih h
      · cases hp : s.imagePlace t with
        | none => rw [hp] at h; cases h
        | some a =>
          rw [hp, Option.bind_some] at h
          exact (ih h :)

/-- A group whose continuations are gone where its number is one of some. -/
def Group.squashedIn (l : List Nat) (g : Group) : Group := if g.id ∈ l then { g with conts := [] } else g

theorem Group.squashedIn_id (l : List Nat) (g : Group) : (g.squashedIn l).id = g.id := by
  unfold Group.squashedIn
  split <;> rfl

theorem State.squashAll_groups {s : State} (hs : (s.groups.map (·.id)).Nodup) (n : Nat) :
    (s.squashAll n).groups = s.groups.map (·.squashedIn [n]) := by
  have heach (f : Group → Group) (h : ∀ g ∈ s.groups, g.id = n → f g = { g with conts := [] }) (k : ∀ g ∈ s.groups, g.id ≠ n → f g = g) :
      s.groups.map f = s.groups.map (·.squashedIn [n]) := by
    refine List.map_congr_left fun g hg => ?_
    unfold Group.squashedIn
    by_cases e : g.id = n
    · rw [h g hg e, if_pos (by simpa using e)]
    · rw [k g hg e, if_neg (by simpa using e)]
  have hsame : s.groups.map id = s.groups := List.map_id _
  unfold State.squashAll
  split
  · next hnone =>
    have hno : ∀ g ∈ s.groups, g.id ≠ n := by simpa [State.group?] using hnone
    exact hsame.symm.trans (heach id (fun g hg e => absurd e (hno g hg)) fun _ _ _ => rfl)
  · next g hg =>
    have hmem : g ∈ s.groups := List.mem_of_find?_eq_some hg
    have hid : g.id = n := by simpa using List.find?_some hg
    split
    · next hc =>
      refine hsame.symm.trans (heach id (fun u hu e => ?_) fun _ _ _ => rfl)
      rw [List.inj_on_of_nodup_map hs hu hmem (e.trans hid.symm), ← hc]
      rfl
    · have hcount : ∀ w : State, (w.countSquash g g.conts).groups = w.groups := fun w => w.perfGroup_groups g 5 _
      rw [hcount]
      refine heach _ (fun u _ e => ?_) fun u _ e => ?_
      · dsimp only; rw [if_pos (by simpa using e)]
      · dsimp only; rw [if_neg (by simpa using e)]

theorem State.squashAll_fold (l : List Group) {s : State} (hs : (s.groups.map (·.id)).Nodup) :
    (l.foldl (fun (w : State) g => w.squashAll g.id) s).groups = s.groups.map (·.squashedIn (l.map (·.id))) ∧
      Squashes s (l.foldl (fun (w : State) g => w.squashAll g.id) s) := by
  induction l generalizing s with
  | nil =>
    refine ⟨?_, .refl s⟩
    conv_lhs => rw [List.foldl_nil, ← List.map_id s.groups]
    exact List.map_congr_left fun _ _ => rfl
  | cons g l ih =>
    have hg := State.squashAll_groups hs g.id
    have hids : ((s.squashAll g.id).groups.map (·.id)).Nodup := by
      rw [hg, List.map_map]
      have e : s.groups.map ((·.id) ∘ (·.squashedIn [g.id])) = s.groups.map (·.id) := List.map_congr_left fun u _ => Group.squashedIn_id _ u
      exact e ▸ hs
    obtain ⟨hgroups, hsq⟩ := ih hids
    refine ⟨?_, (s.squashes_squashAll g.id).trans hsq⟩
    rw [List.foldl_cons, hgroups, hg, List.map_map]
    refine List.map_congr_left fun u _ => ?_
    simp only [Function.comp_apply, Group.squashedIn, List.map_cons, List.mem_cons, List.not_mem_nil, or_false]
    split
    · split <;> simp_all
    · split <;> simp_all

/-- What it is for teams to be set to leave. -/
def Leave (s t : State) (v : List Nat) (l : Leaving) : Prop :=
  (s.groups.map (·.id)).Nodup → ∃ r, s.reserve v = some r ∧
    { t with teams := r.teams, groups := r.groups, cores := r.cores, dies := r.dies, losses := r.losses } = r ∧
    t.teams = r.teams.map (fun x => if v.contains x.id && x.st == .resident then { x with leaving := l } else x) ∧
    t.groups = s.groups.map fun g => if v.contains g.team then { g with conts := [], detector := none } else g

theorem State.setLeaving_leave {s : State} {v : List Nat} (l : Leaving) (h : (s.reserve v).isSome = true) : Leave s (s.setLeaving v l) v l := by
  intro hs
  obtain ⟨r, hr⟩ := Option.isSome_iff_exists.mp h
  obtain ⟨hgroups, -⟩ := State.reserve_fields hr
  obtain ⟨hfold, hsq⟩ := State.squashAll_fold (r.groups.filter fun g => v.contains g.team) (hgroups ▸ hs)
  generalize hw : (r.groups.filter fun g => v.contains g.team).foldl (fun (w : State) g => w.squashAll g.id) r = w at hfold hsq
  have ht : s.setLeaving v l = { w with
      teams := w.teams.map fun (t : Team) => if v.contains t.id && t.st == .resident then { t with leaving := l } else t
      groups := w.groups.map fun (g : Group) => if v.contains g.team then { g with detector := none } else g } := by
    unfold State.setLeaving
    rw [hr, Option.getD_some]
    dsimp only
    rw [hw]
  have hteams := (congrArg State.teams hsq.rest :)
  refine ⟨r, hr, ?_, ?_, ?_⟩
  · rw [ht]
    exact (congrArg (fun z : State => { z with teams := r.teams, dies := r.dies }) hsq.rest :)
  · rw [ht]
    dsimp only
    rw [show w.teams = r.teams from hteams]
  · rw [ht]
    dsimp only
    rw [hfold, List.map_map, hgroups]
    refine List.map_congr_left fun g hg => ?_
    have hin : g.id ∈ (s.groups.filter fun g => v.contains g.team).map (·.id) ↔ v.contains g.team = true := by
      refine ⟨fun hm => ?_, fun hm => List.mem_map.mpr ⟨g, List.mem_filter.mpr ⟨hg, hm⟩, rfl⟩⟩
      obtain ⟨u, hu, hid⟩ := List.mem_map.mp hm
      obtain ⟨hu, hteam⟩ := List.mem_filter.mp hu
      exact List.inj_on_of_nodup_map hs hu hg hid ▸ hteam
    simp only [Function.comp_apply, Group.squashedIn]
    by_cases hv : v.contains g.team = true
    · rw [if_pos (hin.mpr hv)]
      dsimp only
      rw [if_pos hv, if_pos hv]
    · rw [if_neg (mt hin.mp hv), if_neg hv, if_neg hv]

theorem State.setLeaving_dies {s : State} {v : List Nat} (l : Leaving) (h : (s.reserve v).isSome = true) : (s.setLeaving v l).dies = s.dies := by
  obtain ⟨r, hr⟩ := Option.isSome_iff_exists.mp h
  obtain ⟨-, hdies⟩ := State.reserve_fields hr
  unfold State.setLeaving
  rw [hr, Option.getD_some]
  dsimp only
  refine Eq.trans ?_ hdies
  generalize r.groups.filter (fun g => v.contains g.team) = gs
  clear hdies hr
  induction gs generalizing r with
  | nil => rfl
  | cons g gs ih => exact (ih _).trans (congrArg State.dies (r.squashes_squashAll g.id).rest :)

/-! ### The teams that are chosen (R297, R329) -/

theorem State.victims_some {s : State} {u : List Nat} {g : Grid} {die : Nat} {places : List (List Nat × List Nat × Nat)} {cands : List Nat → List Team}
    {v a : List Nat} (h : s.victims u g die places cands = some (v, a)) :
    (∃ e ∈ places, e.1 = a) ∧ (s.fitArea u g die a (s.leavingOn die ++ v)).isSome = true ∧ s.canSave v = true := by
  unfold State.victims at h
  dsimp only at h
  split at h
  · cases h
  · next k hk =>
    obtain ⟨x, hx, hxv⟩ := Option.map_eq_some_iff.mp h
    obtain ⟨e, he, hoffer⟩ := List.mem_filterMap.mp (List.mem_of_find?_eq_some hx)
    obtain ⟨w, hw, rfl⟩ := Option.map_eq_some_iff.mp hoffer
    obtain ⟨rfl, rfl⟩ := Prod.mk.inj hxv
    unfold State.prefixFor at hw
    obtain ⟨hfit, hsave⟩ := Bool.and_eq_true_iff.mp (List.find?_some (p := fun v => (s.fitArea u g die e.1 (s.leavingOn die ++ v)).isSome && s.canSave v) hw)
    exact ⟨⟨e, he, rfl⟩, hfit, hsave⟩

theorem State.openAreas_gone {s : State} {u : List Nat} {g : Grid} {die : Nat} {a gone : List Nat} (h : a ∈ s.openAreas u g die []) :
    a ∈ s.openAreas u g die gone := by
  unfold State.openAreas at h ⊢
  split at h
  · next c hc =>
    split at h
    · cases h
    · next hwait =>
      have : s.claimWaits c gone = false := by
        unfold State.claimWaits at hwait ⊢
        rw [List.any_eq_false]
        intro x hx hand
        rw [Bool.and_eq_true_iff] at hand
        exact hwait (List.any_eq_true.mpr ⟨x, hx, by simpa using hand.2⟩)
      simpa [this] using h
  · exact h

theorem State.seatsFor_isSome {s : State} {u : List Nat} {g : Grid} {die : Nat} {a gone : List Nat} (hg : s.unitGrid u = some g)
    (ha : a ∈ s.openAreas u g die gone) (hfit : (s.fitArea u g die a gone).isSome = true) : (s.seatsFor u die gone).isSome = true := by
  obtain ⟨x, hx⟩ := Option.isSome_iff_exists.mp hfit
  unfold State.seatsFor
  rw [hg]
  dsimp only
  generalize hf : (s.openAreas u g die gone).filterMap (fun a => (s.fitArea u g die a gone).map fun x =>
    (s.siteKey (s.classOf g.ctx g.desc.addr) die a, x)) = fits
  have hin : (s.siteKey (s.classOf g.ctx g.desc.addr) die a, x) ∈ fits := hf ▸ List.mem_filterMap.mpr ⟨a, ha, by rw [hx]; rfl⟩
  split
  · next hmin =>
    rw [List.min?_eq_none_iff, List.map_eq_nil_iff] at hmin
    exact absurd hin (by simp [hmin])
  · next k hk =>
    obtain ⟨e, he, hek⟩ := List.mem_map.mp (List.min?_mem hk)
    rw [Option.isSome_map, List.find?_isSome]
    exact ⟨e, he, by simpa using hek⟩

/-- A unit that is stuck has not room where nothing more leaves. -/
theorem State.victims_ne_nil {s : State} {u : List Nat} {g : Grid} {die : Nat} {places : List (List Nat × List Nat × Nat)}
    {cands : List Nat → List Team} {v a : List Nat} (hg : s.unitGrid u = some g) (hstuck : s.stuck u die = true)
    (hplaces : ∀ e ∈ places, e.1 ∈ s.openAreas u g die []) (h : s.victims u g die places cands = some (v, a)) : v ≠ [] := by
  rintro rfl
  obtain ⟨⟨e, he, rfl⟩, hfit, -⟩ := State.victims_some h
  rw [List.append_nil] at hfit
  have := State.seatsFor_isSome hg (State.openAreas_gone (hplaces e he)) hfit
  unfold State.stuck at hstuck
  rw [Bool.and_eq_true_iff, Option.isNone_iff_eq_none, Option.isNone_iff_eq_none] at hstuck
  rw [hstuck.2] at this
  cases this

/-! ### The steps -/

/-- Settles O29: the chosen teams are set to leave, and there are some where a unit is stuck. -/
theorem evictions : Obligations.Evictions := by
  refine ⟨fun die ctx => ?_, fun team => ?_, fun die team => ?_⟩
  · rintro s ⟨u, v, hfirst, hstuck, hplacing, hw⟩
    obtain ⟨u', g, a, hu', hg, hv⟩ := id hw
    obtain rfl := Option.some_inj.mp (hfirst.symm.trans hu')
    have hsave := (State.victims_some hv).2.2
    refine ⟨s.setLeaving v .evict, ?_, v, hw, State.victims_ne_nil hg hstuck (fun e he => ?_) hv, State.setLeaving_leave _ hsave,
      State.setLeaving_dies _ hsave⟩
    · change execWaitingTeamEviction die ctx s = _
      unfold execWaitingTeamEviction
      rw [hfirst]
      dsimp only
      rw [hstuck, hplacing, hg, Bool.and_self]
      dsimp only
      rw [hv]
    · obtain ⟨b, hb, rfl⟩ := List.mem_map.mp he
      exact hb
  · rintro s ⟨tm, htm, hev, hret, hall, hplacing, hfirst, hsave⟩
    have hid : tm.id = team := by simpa using List.find?_some htm
    have hmembers : ((s.residentUnit team).filterMap s.team?).all Team.evictable = true := by
      rw [List.all_eq_true]
      intro x hx
      obtain ⟨id, hid, hxid⟩ := List.mem_filterMap.mp hx
      exact hall id hid x hxid
    have hrotates : s.rotates tm = true := by
      unfold State.rotates
      rw [hid]
      dsimp only
      rw [hmembers, hplacing, hfirst, hev, decide_eq_true hret]
      exact hsave
    refine ⟨s.setLeaving (s.residentUnit team) .evict, ?_, State.setLeaving_leave _ hsave, State.setLeaving_dies _ hsave⟩
    change execRotationEviction team s = _
    unfold execRotationEviction
    rw [htm]
    exact if_pos hrotates
  · rintro s ⟨g, v, a, hg, hqueue, hqueued, hwoken, hplacing, hstuck, hl⟩
    obtain ⟨g', hg', hv⟩ := id hl
    obtain rfl := Option.some_inj.mp (hg.symm.trans hg')
    have hsave := (State.victims_some hv).2.2
    refine ⟨(s.setLeaving v .preempt).onDie die fun d => { d with claims := d.claims ++ [⟨s.unit team, a, v⟩] }, ?_, v, a, hl,
      State.victims_ne_nil hg hstuck (fun e he => ?_) hv, fun hs => State.setLeaving_leave _ hsave hs, ?_⟩
    · change execPreEmption die team s = _
      unfold execPreEmption
      dsimp only
      rw [hg]
      dsimp only
      rw [hqueue, hqueued, hwoken, hplacing, hstuck, if_pos (by decide), hv]
    · obtain ⟨b, hb, hmem⟩ := List.mem_flatMap.mp he
      obtain ⟨c, -, rfl⟩ := List.mem_map.mp hmem
      exact hb
    · unfold State.onDie
      dsimp only
      rw [State.setLeaving_dies _ hsave, mapIf_eq_ite s.dies Die.n die]

end Sys2Proof.Machine
end

section
/-!
SUPPORT. The stages of a start (R417-R421), and the management mailbox and the sensor sweep (R33, R35, R420-R424).
-/
namespace Sys2Proof.Machine

/-! ### Memory of which parts are cleared (R417, R426) -/

theorem Sparse.look_filter {w : Nat} (t : List (Nat × BitVec w)) (p : Nat → Bool) (k : Nat) :
    Sparse.look (t.filter fun e => p e.1) k = if p k = true then Sparse.look t k else 0 := by
  induction t with
  | nil => simp [Sparse.look]
  | cons e t ih =>
    obtain ⟨a, b⟩ := e
    by_cases ha : p a = true
    · simp only [List.filter_cons, ha, if_true, Sparse.look, ih]
      by_cases hk : a = k
      · subst hk; simp [ha]
      · simp [hk]
    · simp only [List.filter_cons, ha, Bool.false_eq_true, if_false, ih, Sparse.look]
      by_cases hk : a = k
      · subst hk; simp [ha]
      · simp [hk]

theorem Sparse.look_clear {w : Nat} (t : List (Nat × BitVec w)) (lo n k : Nat) :
    Sparse.look (Sparse.clear t lo n) k = if lo ≤ k ∧ k < lo + n then 0 else Sparse.look t k := by
  unfold Sparse.clear
  rw [Sparse.look_filter t (fun a => !(lo ≤ a && a < lo + n)) k]
  by_cases h : lo ≤ k ∧ k < lo + n
  · simp [h]
  · rw [if_neg h, if_pos]
    simp only [Bool.not_eq_true', Bool.and_eq_false_iff, decide_eq_false_iff_not]
    omega

/-! ### Stage A (R418-R421) -/

/-- A package controller at which no reset is under way. -/
theorem Package.blocked_eq_false {p : Package} (h : p.held = false) (hr : p.pendingReset = none) : p.blocked = false := by
  unfold Package.blocked
  rw [h, hr]
  rfl

theorem execStageA_eq {s : State} (hst : s.pkg.stage = .a) (hdue : s.pkg.stageDue = true) (hb : s.pkg.blocked = false) :
    exec .stageA s = .next (match s.pkg.takeStaged.stageA with
      | .error c => { s with pkg := { s.pkg.takeStaged with stage := .halted, stageDue := false, cause := BitVec.ofNat 8 c } }
      | .ok (k, masks, ok) => { s with
        pkg := { s.pkg.takeStaged with
          stage := .b, stageDue := true, minver := minverOf s.pkg.takeStaged.flash, enmask := masks, dieok := ok
          idKey := some (identityKey (Config.pufSeed s.pkg.takeStaged.helper))
          lmsSeed := some (identitySeed (Config.pufSeed s.pkg.takeStaged.helper)) }
        fe := { s.fe with domid := BitVec.ofNat 32 k } }) := by
  change execStageA s = _
  unfold execStageA
  rw [hst, hdue, hb, if_neg (by decide)]
  dsimp only [State.onPkg]
  cases s.pkg.takeStaged.stageA with
  | error c => rfl
  | ok r => rfl

/-- An identity certificate that names the keys of the part. -/
def Image.names (c : Image) (seed : BitVec 384) : Bool := c.fields == identityPublic (identityKey seed) (identitySeed seed)

/-- What Stage A finds, by the images and the masks of the records. -/
theorem Package.stageA_eq (p : Package) :
    let v := minverOf p.flash
    let masks := (List.range 4).map (dieMask p.flash v)
    p.stageA = match imageOf p.flash v 1, imageOf p.flash v 5, imageOf p.flash v 6 with
      | none, _, _ => .error 1
      | some _, some r, some _ =>
        if 64 ≤ fieldOf r.fields 0 r.fields.length then .error 2
        else if masks.all Option.isNone then .error 5
        else if (imageOf p.flash v 7).any (·.names (Config.pufSeed p.helper)) then
          .ok (fieldOf r.fields 0 r.fields.length, masks.map fun m => m.getD 0, BitVec.ofNat 4 (ofBits (masks.map Option.isSome)))
        else .error 3
      | some _, _, _ => .error 2 := by
  dsimp only
  unfold Package.stageA
  dsimp only
  cases imageOf p.flash (minverOf p.flash) 1 with
  | none => rfl
  | some _ =>
    cases imageOf p.flash (minverOf p.flash) 5 with
    | none => rfl
    | some r =>
      cases imageOf p.flash (minverOf p.flash) 6 with
      | none => rfl
      | some _ =>
        cases imageOf p.flash (minverOf p.flash) 7 with
        | none => rfl
        | some c => rfl

theorem masks_not_all {masks : List (Option (BitVec 156))} {m : Option (BitVec 156)} (hm : m ∈ masks) (h : m.isSome = true) :
    ¬masks.all Option.isNone = true := fun hall => by
  rw [List.all_eq_true] at hall
  have := hall m hm
  cases m <;> simp_all

theorem takeStaged_helper (p : Package) : p.takeStaged.helper = p.helper := by
  unfold Package.takeStaged
  dsimp only
  generalize minverOf p.flash = v
  suffices h : ∀ (l : List (Nat × List Byte)) (q : Package), (l.foldl (fun (q : Package) e =>
      match parseImage e.2 with
      | some i =>
        if i.accepted v then
          { q with flash := q.flash.filter (fun x => !x.2.alike i) ++ [(e.1, i)], staged := q.staged.filter fun x => x.1 != e.1 }
        else q
      | none => q) q).helper = q.helper from h p.staged p
  intro l
  induction l with
  | nil => exact fun _ => rfl
  | cons e l ih =>
    refine fun q => (ih _).trans ?_
    dsimp only
    split
    · split <;> rfl
    · rfl

theorem stageA_steps : Steps .stageA
    (fun s => s.pkg.stage = .a ∧ s.pkg.stageDue = true ∧ s.pkg.held = false ∧ s.pkg.pendingReset = none)
    (fun s t =>
      let p := s.pkg.takeStaged
      let v := minverOf p.flash
      let image (kind : Nat) : Option Image := imageOf p.flash v kind
      let masks := (List.range 4).map (dieMask p.flash v)
      let puf := Config.pufSeed s.pkg.helper
      let known (c : Image) : Bool := c.names puf
      let halts (c : Nat) : Prop := PackageTurns s t { p with stage := .halted, stageDue := false, cause := BitVec.ofNat 8 c }
      let starts : Prop := ∃ r c, image 5 = some r ∧ image 7 = some c ∧ fieldOf r.fields 0 r.fields.length < 64 ∧
        known c = true ∧ ∃ m ∈ masks, m.isSome = true
      (image 1 = none → halts 1) ∧
        (image 1 ≠ none → image 5 = none ∨ image 6 = none → halts 2) ∧
        (image 1 ≠ none → image 6 ≠ none → ∀ r, image 5 = some r →
          (64 ≤ fieldOf r.fields 0 r.fields.length → halts 2) ∧
          (fieldOf r.fields 0 r.fields.length < 64 → (∀ m ∈ masks, m = none) → halts 5) ∧
          (fieldOf r.fields 0 r.fields.length < 64 → (∃ m ∈ masks, m.isSome = true) →
            (image 7 = none ∨ ∃ c, image 7 = some c ∧ known c = false) → halts 3)) ∧
        (image 1 ≠ none → image 6 ≠ none → starts → ∃ r, image 5 = some r ∧
          t = { s with
            pkg := { p with
              stage := .b, stageDue := true, minver := v, enmask := masks.map fun m => m.getD 0
              dieok := BitVec.ofNat 4 (ofBits (masks.map Option.isSome)), idKey := some (identityKey puf)
              lmsSeed := some (identitySeed puf) }
            fe := { s.fe with domid := BitVec.ofNat 32 (fieldOf r.fields 0 r.fields.length) } })) := by
  rintro s ⟨hst, hdue, hheld, hreset⟩
  refine ⟨_, execStageA_eq hst hdue (Package.blocked_eq_false hheld hreset), ?_⟩
  have hhelper : s.pkg.takeStaged.helper = s.pkg.helper := takeStaged_helper s.pkg
  dsimp only
  rw [Package.stageA_eq, ← hhelper]
  generalize s.pkg.takeStaged = p
  generalize minverOf p.flash = v
  generalize (List.range 4).map (dieMask p.flash v) = masks
  generalize Config.pufSeed p.helper = puf
  cases h1 : imageOf p.flash v 1 with
  | none => exact ⟨fun _ => rfl, fun h => absurd rfl h, fun h => absurd rfl h, fun h => absurd rfl h⟩
  | some _ =>
    cases h5 : imageOf p.flash v 5 with
    | none => exact ⟨nofun, fun _ _ => rfl, fun _ _ => nofun, fun _ _ ⟨_, _, h, _⟩ => nomatch h⟩
    | some r =>
      cases h6 : imageOf p.flash v 6 with
      | none => exact ⟨nofun, fun _ _ => rfl, fun _ h => absurd rfl h, fun _ h => absurd rfl h⟩
      | some _ =>
        refine ⟨nofun, fun _ h => (by rcases h with h | h <;> cases h), fun _ _ r' hr => ?_, fun _ _ ⟨r', c, hr, hc, hlt, hknown, m, hm, hsome⟩ => ?_⟩
        · obtain rfl := Option.some_inj.mp hr
          refine ⟨fun h => ?_, fun h hm => ?_, fun h ⟨m, hm, hsome⟩ h7 => ?_⟩
          · dsimp only
            rw [if_pos h]
            rfl
          · dsimp only
            rw [if_neg (Nat.not_le.mpr h), if_pos (List.all_eq_true.mpr fun m hmem => by rw [hm m hmem]; rfl)]
            rfl
          · have hany : (imageOf p.flash v 7).any (·.names puf) = false := by
              rcases h7 with h7 | ⟨c, h7, hc⟩ <;> rw [h7]
              · rfl
              · exact hc
            dsimp only
            rw [if_neg (Nat.not_le.mpr h), if_neg (masks_not_all hm hsome), hany, if_neg (by decide)]
            rfl
        · obtain rfl := Option.some_inj.mp hr
          have hany : (imageOf p.flash v 7).any (·.names puf) = true := by rw [hc]; exact hknown
          refine ⟨r, rfl, ?_⟩
          dsimp only
          rw [if_neg (Nat.not_le.mpr hlt), if_neg (masks_not_all hm hsome), hany, if_pos rfl]

/-! ### Stages B to D (R115, R417, R418) -/

theorem stageB_steps : Steps .stageB
    (fun s => s.pkg.stage = .b ∧ s.pkg.stageDue = true ∧ s.pkg.held = false ∧ s.pkg.pendingReset = none)
    (fun s t => t = { s with
      pkg := { s.pkg with stageDue := false }
      mstacks := s.mstacks.map fun k =>
        if imageOf s.pkg.flash s.pkg.minver 2 = none then { k with fwOk := false, st := .failed } else { k with fwOk := true } }) := by
  rintro s ⟨hst, hdue, hheld, hreset⟩
  refine ⟨_, ?_, rfl⟩
  change execStageB s = _
  unfold execStageB
  rw [hst, Package.blocked_eq_false hheld hreset, if_neg (by decide), hdue, if_pos rfl]
  cases imageOf s.pkg.flash s.pkg.minver 2 <;> rfl

theorem stageB_ends : Steps .stageB
    (fun s => s.pkg.stage = .b ∧ s.pkg.stageDue = false ∧ s.pkg.held = false ∧ s.pkg.pendingReset = none ∧ ∀ k ∈ s.mstacks, k.st ≠ .training)
    (fun s t => PackageTurns s t { s.pkg with stage := .c, stageDue := true }) := by
  rintro s ⟨hst, hdue, hheld, hreset, hstacks⟩
  refine ⟨_, ?_, rfl⟩
  change execStageB s = _
  unfold execStageB
  have hall : s.mstacks.all Stack.settled = true := List.all_eq_true.mpr fun k hk => bne_iff_ne.mpr (hstacks k hk)
  rw [hst, Package.blocked_eq_false hheld hreset, if_neg (by decide), hdue, if_neg (by decide), if_pos hall]
  rfl

/-- The bitstream decides whether Stage C ends in HALTED. -/
theorem execStageC_eq {s : State} (hst : s.pkg.stage = .c) (hdue : s.pkg.stageDue = true) (hheld : s.pkg.held = false)
    (hreset : s.pkg.pendingReset = none) : exec .stageC s = match imageOf s.pkg.flash s.pkg.minver 3 with
      | none => .next (s.halt 4)
      | some _ => .next (s.onPkg fun p =>
        { p with
          stageDue := false, signature := moduleSignature p.enmask
          modules := p.modules.map fun (m : UcieModule) => { m with up := true, full := true } }) := by
  change execStageC s = _
  unfold execStageC
  rw [hst, Package.blocked_eq_false hheld hreset, hdue, if_neg (by decide)] <;> rfl

theorem stageC_steps : Steps .stageC
    (fun s => (s.pkg.stage = .c ∧ s.pkg.stageDue = true ∧ s.pkg.held = false ∧ s.pkg.pendingReset = none) ∧
      imageOf s.pkg.flash s.pkg.minver 3 ≠ none)
    (fun s t => PackageTurns s t { s.pkg with
      stageDue := false, signature := moduleSignature s.pkg.enmask
      modules := s.pkg.modules.map fun m => { m with up := true, full := true } }) := by
  rintro s ⟨⟨hst, hdue, hheld, hreset⟩, hi⟩
  obtain ⟨i, hi⟩ := Option.ne_none_iff_exists'.mp hi
  have hrun := execStageC_eq hst hdue hheld hreset
  rw [hi] at hrun
  exact ⟨_, hrun, rfl⟩

theorem stageC_halts : Steps .stageC
    (fun s => (s.pkg.stage = .c ∧ s.pkg.stageDue = true ∧ s.pkg.held = false ∧ s.pkg.pendingReset = none) ∧
      imageOf s.pkg.flash s.pkg.minver 3 = none)
    (fun s t => PackageTurns s t { s.pkg with stage := .halted, stageDue := false, cause := BitVec.ofNat 8 4 }) := by
  rintro s ⟨⟨hst, hdue, hheld, hreset⟩, hi⟩
  have hrun := execStageC_eq hst hdue hheld hreset
  rw [hi] at hrun
  exact ⟨_, hrun, rfl⟩

/-- A port that Stage D enables. -/
def Port.enabled (u : Port) : Port := { u with st := .training }

/-- One port's enabling, where it is DOWN. -/
def State.enablePort (t : State) (u : Port) : State := if u.st = .down then t.movePort u.n Port.enabled else t

theorem State.enablePorts (l : List Port) (w : State) :
    (l.foldl State.enablePort w).ports = w.ports.map (fun u => if ∃ v ∈ l, v.n = u.n ∧ v.st = .down then u.enabled else u) ∧
    (l.foldl State.enablePort w).fe.hsig = (if l.any fun u => u.st == .down then w.fe.hsig ||| 8 else w.fe.hsig) ∧
    { l.foldl State.enablePort w with
        ports := w.ports, fe := { (l.foldl State.enablePort w).fe with hsig := w.fe.hsig, notified := w.fe.notified } } = w := by
  induction l generalizing w with
  | nil => exact ⟨by simp, rfl, rfl⟩
  | cons v l ih =>
    rw [List.foldl_cons]
    obtain ⟨hports, hsig, hrest⟩ := ih (w.enablePort v)
    generalize l.foldl State.enablePort (w.enablePort v) = t at hports hsig hrest ⊢
    unfold State.enablePort at hports hsig hrest
    by_cases hv : v.st = .down
    · rw [if_pos hv] at hports hsig hrest
      have hmove := (w.onPort v.n Port.enabled).signal_rest 3
      refine ⟨?_, ?_, ?_⟩
      · rw [hports, (w.movePort_turns v.n Port.enabled).1, List.map_map]
        refine List.map_congr_left fun u _ => ?_
        simp only [Function.comp_apply, List.exists_mem_cons_iff]
        by_cases hu : u.n = v.n
        · rw [if_pos hu]
          refine Eq.trans (b := u.enabled) ?_ (if_pos (Or.inl ⟨hu.symm, hv⟩)).symm
          split <;> rfl
        · rw [if_neg hu]
          exact if_congr ⟨.inr, fun h => h.resolve_left fun h => hu h.1.symm⟩ rfl rfl
      · rw [hsig, (w.movePort_turns v.n Port.enabled).2.1]
        simp only [List.any_cons, hv, beq_self_eq_true, Bool.true_or, if_true]
        split
        · rw [BitVec.or_assoc, BitVec.or_self]
        · rfl
      · exact (congrArg (fun z : State => { z with ports := w.ports, fe := { z.fe with hsig := w.fe.hsig, notified := w.fe.notified } }) hrest :).trans
          (congrArg (fun z : State => { z with ports := w.ports }) hmove :)
    · rw [if_neg hv] at hports hsig hrest
      refine ⟨?_, ?_, hrest⟩
      · rw [hports]
        refine List.map_congr_left fun u _ => if_congr ?_ rfl rfl
        rw [List.exists_mem_cons_iff]
        exact ⟨.inr, fun h => h.resolve_left fun h => hv h.2⟩
      · rw [hsig, List.any_cons, beq_eq_false_iff_ne.mpr hv, Bool.false_or]

theorem stageD_steps : Steps .stageD
    (fun s => s.pkg.stage = .c ∧ s.pkg.stageDue = false ∧ s.pkg.held = false ∧ s.pkg.pendingReset = none ∧ (s.ports.map (·.n)).Nodup)
    (fun s t =>
      (∀ q, t.byte q = if 2 ^ 64 ≤ q ∧ q < 2 ^ 64 + 2 ^ 24 then 0 else s.byte q) ∧
        t.ports = s.ports.map (fun u => if u.st = .down then { u with st := .training } else u) ∧
        t.fe.hsig = (if s.ports.any fun u => u.st == .down then s.fe.hsig ||| 8 else s.fe.hsig) ∧
        t.pkg = { s.pkg with stage := .d } ∧
        { t with mem := s.mem, lost := s.lost, ports := s.ports, pkg := s.pkg
                 fe := { t.fe with hsig := s.fe.hsig, notified := s.fe.notified } } = s) := by
  rintro s ⟨hst, hdue, hheld, hreset, hnodup⟩
  generalize hw : ({ s with
      mem := Sparse.clear s.mem (2 ^ 64) (2 ^ 24), lost := s.lost.filter fun q => !(2 ^ 64 / 64 ≤ q && q < 2 ^ 64 / 64 + 2 ^ 18)
      pkg := { s.pkg with stage := .d } } : State) = w
  obtain ⟨hports, hsig, hrest⟩ := State.enablePorts s.ports w
  have hrun : exec .stageD s = .next (s.ports.foldl State.enablePort w) := by
    change execStageD s = _
    unfold execStageD
    rw [hst, hdue, Package.blocked_eq_false hheld hreset, if_neg (by decide), ← hw]
    rfl
  refine ⟨_, hrun, fun q => ?_, ?_, ?_, ?_, ?_⟩
  · have hmem := (congrArg State.mem hrest :)
    unfold State.byte
    rw [show (s.ports.foldl State.enablePort w).mem = w.mem from hmem, ← hw, Sparse.look_clear]
  · rw [hports, ← hw]
    refine List.map_congr_left fun u hu => if_congr ⟨?_, fun h => ⟨u, hu, rfl, h⟩⟩ rfl rfl
    rintro ⟨v, hv, hn, hdown⟩
    exact List.inj_on_of_nodup_map hnodup hv hu hn ▸ hdown
  · rw [hsig, ← hw]
  · exact (congrArg State.pkg hrest :).trans (by rw [← hw])
  · subst hw
    exact (congrArg (fun z : State => { z with mem := s.mem, lost := s.lost, ports := s.ports, pkg := s.pkg }) hrest :)

theorem stages_halted {s : State} (h : s.pkg.stage = .halted) : ∀ i ∈ [Instr.stageA, .stageB, .stageC, .stageD], exec i s = .fault .halted := by
  have hno (name : String) : s.noStage name = .fault .halted := if_pos h
  intro i hi
  simp only [List.mem_cons, List.not_mem_nil, or_false] at hi
  rcases hi with rfl | rfl | rfl | rfl
  · exact (if_pos (by rw [h]; rfl)).trans (hno "STAGE_A")
  · exact (if_pos (by rw [h]; rfl)).trans (hno "STAGE_B")
  · exact (if_pos (by rw [h]; rfl)).trans (hno "STAGE_C")
  · exact (if_pos (by rw [h]; rfl)).trans (hno "STAGE_D")

/-- Settles O44, stage by stage. -/
theorem startStages : Obligations.StartStages :=
  ⟨stageA_steps, stageB_steps, stageB_ends, stageC_halts, stageC_steps, stageD_steps, fun _ => stages_halted⟩

/-! ### Replies (R423) -/

/-- From s to t the package controller is `p`, but for the messages of a reply. -/
def Replies (s t : State) (p : Package) (seq : Word) (op : Nat) (status : BitVec 16) (pay : List Byte) : Prop :=
  ∃ ms : List MgmtReply, PackageTurns s t { p with replies := s.pkg.replies ++ ms } ∧ ms ≠ [] ∧ ms.flatMap (·.payload) = pay ∧
    (∀ m ∈ ms, m.seq = seq ∧ m.op = BitVec.ofNat 16 op ∧ m.status = status ∧ m.payload.length ≤ 56) ∧
    ∀ m ∈ ms.dropLast, m.payload.length = 56

theorem flatMap_pieces {α : Type} (l : List α) (k n : Nat) : (List.range n).flatMap (fun i => (l.drop (k * i)).take k) = l.take (k * n) := by
  induction n with
  | zero => simp
  | succ n ih => rw [List.range_succ, List.flatMap_append, ih, List.flatMap_singleton, Nat.mul_succ, List.take_add]

theorem messages_payload (seq : Word) (op : Nat) (status : BitVec 16) (pay : List Byte) :
    (messages seq op status pay).flatMap (·.payload) = pay := by
  unfold messages
  rw [List.flatMap_map]
  refine (flatMap_pieces pay payloadSize _).trans (List.take_of_length_le ?_)
  unfold payloadSize
  omega

theorem messages_fields {seq : Word} {op : Nat} {status : BitVec 16} {pay : List Byte} {m : MgmtReply} (h : m ∈ messages seq op status pay) :
    m.seq = seq ∧ m.op = BitVec.ofNat 16 op ∧ m.status = status ∧ m.payload.length ≤ 56 := by
  obtain ⟨i, -, rfl⟩ := List.mem_map.mp h
  exact ⟨rfl, rfl, rfl, List.length_take_le _ _⟩

theorem messages_full {seq : Word} {op : Nat} {status : BitVec 16} {pay : List Byte} {m : MgmtReply} (h : m ∈ (messages seq op status pay).dropLast) :
    m.payload.length = 56 := by
  unfold messages at h
  generalize hn : max 1 ((pay.length + payloadSize - 1) / payloadSize) = n at h
  unfold payloadSize at hn
  obtain ⟨j, rfl⟩ : ∃ j, n = j + 1 := ⟨n - 1, by omega⟩
  rw [List.range_succ, List.map_append, List.map_singleton, List.dropLast_concat] at h
  obtain ⟨i, hi, rfl⟩ := List.mem_map.mp h
  rw [List.mem_range] at hi
  dsimp only
  rw [List.length_take, List.length_drop]
  unfold payloadSize
  omega

theorem State.replies_reply (s : State) (seq : Word) (op : Nat) (status : BitVec 16) (pay : List Byte) :
    Replies s (s.reply seq op status pay) s.pkg seq op status pay := by
  refine ⟨messages seq op status pay, rfl, ?_, messages_payload .., fun m => messages_fields, fun m => messages_full⟩
  unfold messages
  rw [Ne, List.map_eq_nil_iff, List.range_eq_nil]
  omega

/-- The controller may change otherwise around a reply. -/
theorem Replies.onPkg {s t : State} {p : Package} {seq : Word} {op : Nat} {status : BitVec 16} {pay : List Byte} (h : Replies s t p seq op status pay)
    (f : Package → Package) (hf : ∀ r, f { p with replies := r } = { f p with replies := r }) : Replies s (t.onPkg f) (f p) seq op status pay := by
  obtain ⟨ms, hturn, hne, hpay, hfields, hfull⟩ := h
  refine ⟨ms, ?_, hne, hpay, hfields, hfull⟩
  unfold PackageTurns at hturn ⊢
  rw [← hf, hturn]
  rfl

/-! ### The operations of the mailbox (R421-R424) -/

theorem identitySignatures_eq (key : BitVec 384) (seed : BitVec 256) (leaf n : Nat) (r : List Byte) : identitySignatures key seed leaf n r =
    toBytesBE 48 (ecdsaSign key.toNat (Config.signNumber n) r).1 ++ toBytesBE 48 (ecdsaSign key.toNat (Config.signNumber n) r).2 ++
      lmsSign (lmsIdOf seed) (toBytesBE 32 seed.toNat) leaf (toBytesBE 32 (Config.lmsRandom n).toNat) r := by
  unfold identitySignatures
  generalize ecdsaSign key.toNat (Config.signNumber n) r = sig
  cases sig
  rfl

theorem append_three (r a b c : List Byte) : r ++ (a ++ b ++ c) = r ++ a ++ b ++ c := by
  rw [List.append_assoc, List.append_assoc, List.append_assoc]

theorem attest_replies {s : State} {seq : Word} {nonce : Nat} {k : BitVec 384} (hk : s.pkg.idKey = some k) (hleaf : s.pkg.lmsLeaf < 2 ^ 20) :
    ∃ t, exec (.attest seq nonce) s = .next t ∧ t.free = s.free + 1 ∧
      Replies { s with free := t.free } t { s.pkg with lmsLeaf := s.pkg.lmsLeaf + 1 } seq 3 0
        (s.pkg.report nonce ++ identitySignatures k (s.pkg.lmsSeed.getD 0) s.pkg.lmsLeaf s.free (s.pkg.report nonce)) := by
  refine ⟨_, ?_, ?_, State.replies_reply (s.draw.onPkg fun p => { p with lmsLeaf := s.pkg.lmsLeaf + 1 }) seq 3 0 _⟩
  · change execAttest seq nonce s = _
    unfold execAttest
    rw [hk]
    dsimp only
    rw [if_neg (Nat.not_le.mpr hleaf)]
  · rfl

theorem mgmtReset_asks (seq : Word) (k : ResetKind) (p : Bool) (d : BitVec 4) (s : State) :
    ∃ w, w = (s.reply seq 4 0 []).keepWrites k p d ∧ Replies { s with cache := w.cache } w s.pkg seq 4 0 [] ∧
      (p = false ∨ k = .cold → w.cache = s.cache) ∧ (p = true → k = .warm → w.cache = []) := by
  refine ⟨_, rfl, ?_, ?_, ?_⟩
  · have h := s.replies_reply seq 4 0 []
    obtain ⟨ms, hturn, hrest⟩ := h
    refine ⟨ms, ?_, hrest⟩
    unfold PackageTurns at hturn ⊢
    rw [hturn]
    unfold State.keepWrites
    split <;> rfl
  · rintro (rfl | rfl)
    · cases k <;> rfl
    · rfl
  · rintro rfl rfl
    exact List.filter_eq_nil_iff.mpr fun _ _ => by simp

theorem List.getD_map_range {α : Type} (n i : Nat) (f : Nat → α) (d : α) (h : i < n) : ((List.range n).map f).getD i d = f i := by
  simp [List.getD, h]

theorem putChunk_length (old : List Byte) (off : Nat) (chunk : List Byte) (fill : Nat → Byte) :
    (putChunk old off chunk fill).length = max old.length (off + chunk.length) := by
  unfold putChunk
  rw [List.length_map, List.length_range]

theorem putChunk_getD (old : List Byte) (off : Nat) (chunk : List Byte) (fill : Nat → Byte) (i : Nat) :
    (off ≤ i → i < off + chunk.length → (putChunk old off chunk fill).getD i 0 = chunk.getD (i - off) 0) ∧
      (i < old.length → i < off ∨ off + chunk.length ≤ i → (putChunk old off chunk fill).getD i 0 = old.getD i 0) := by
  unfold putChunk
  refine ⟨fun h1 h2 => ?_, fun h1 h2 => ?_⟩
  · rw [List.getD_map_range _ _ _ _ (by omega), if_pos (by simp [h1, h2])]
  · rw [List.getD_map_range _ _ _ _ (by omega), if_neg (by simp; omega), if_pos h1]

/-! ### The sensor sweep (R33, R35) -/

theorem nextDuty_eq (d t limit : Nat) :
    nextDuty d t limit = if 105 < t ∨ limit < d then max 1 (d - 1) else if t < 100 ∧ d < 16 ∧ d + 1 ≤ limit then d + 1 else d := by
  unfold nextDuty
  simp only [Bool.or_eq_true, Bool.and_eq_true, decide_eq_true_eq, and_assoc]

/-- What a reset of the device with preserve keeps of the stacks, where no line is dirty. -/
theorem State.byte_deviceReset {s : State} (h : s.cache = []) {k : Nat} (hk : k / 2 ^ 64 = 0) : (s.deviceReset true true).byte k = s.byte k := by
  have hkeep : keptKey true k = true := by
    unfold keptKey
    rw [hk]
    rfl
  have hdrop : (s.dropCache fun _ => true).mem = s.mem := by
    unfold State.dropCache
    rw [h]
    rfl
  have hlook := Sparse.look_filter s.mem (keptKey true) k
  rw [if_pos hkeep] at hlook
  unfold State.deviceReset State.byte
  dsimp only
  rw [hdrop]
  exact hlook

/-- The first of four dies that is too hot. -/
theorem find?_hot {ts : List Nat} {x : Nat} (hlen : ts.length = 4) (hx : x ∈ ts) (h : 115 ≤ x) :
    ∃ d, (List.range 4).find? (fun d => 115 ≤ ts.getD d 0) = some d ∧ d < 4 ∧ 115 ≤ ts.getD d 0 := by
  obtain ⟨i, hi, rfl⟩ := List.getElem_of_mem hx
  cases hf : (List.range 4).find? (fun d => decide (115 ≤ ts.getD d 0)) with
  | none =>
    rw [List.find?_eq_none] at hf
    exact absurd (by simpa [List.getD, hi] using h) (hf i (List.mem_range.mpr (hlen ▸ hi)))
  | some d => exact ⟨d, rfl, List.mem_range.mp (List.mem_of_find?_eq_some hf), by simpa using List.find?_some hf⟩

theorem find?_cool {t0 t1 t2 t3 : Nat} (h0 : t0 < 115) (h1 : t1 < 115) (h2 : t2 < 115) (h3 : t3 < 115) :
    (List.range 4).find? (fun d => 115 ≤ [t0, t1, t2, t3].getD d 0) = none := by
  rw [List.find?_eq_none]
  intro d hd
  rw [List.mem_range] at hd
  have : d = 0 ∨ d = 1 ∨ d = 2 ∨ d = 3 := by omega
  rcases this with rfl | rfl | rfl | rfl <;> simp <;> omega

theorem State.holdHot_holds {s : State} (hheld : s.pkg.held = false) (die : Nat) :
    (s.holdHot die).pkg.held = true ∧ (s.holdHot die).pkg.stage = .a ∧ (s.holdHot die).evSeq = s.evSeq + 1 ∧
      (s.holdHot die).pkg.log = s.pkg.log ++ [.thermal s.evSeq die] ∧
      (s.cache = [] → ∀ k, k / 2 ^ 64 = 0 → (s.holdHot die).byte k = s.byte k) := by
  generalize hw : (s.mgmtLog (.thermal s.evSeq die)).nextSeqNo = w
  have hrest := (s.onPkg fun p => { p with log := p.log ++ [.thermal s.evSeq die] }).signal_rest 2
  have hpkg : w.pkg = { s.pkg with log := s.pkg.log ++ [.thermal s.evSeq die] } := by
    rw [← hw]
    exact (congrArg State.pkg hrest :)
  have hmem : w.mem = s.mem := by rw [← hw]; exact (congrArg State.mem hrest :)
  have hcache : w.cache = s.cache := by rw [← hw]; exact (congrArg State.cache hrest :)
  have hseq : w.evSeq = s.evSeq + 1 := by rw [← hw]; exact (congrArg (fun z : State => z.evSeq + 1) hrest :)
  have hrun : s.holdHot die = (w.deviceReset true true).onPkg fun p => { p with held := true, stageDue := false } := by
    unfold State.holdHot
    dsimp only
    rw [hw, hpkg, hheld, if_neg (by decide)]
  rw [hrun]
  refine ⟨rfl, rfl, hseq, (congrArg Package.log hpkg :), fun hc k hk => ?_⟩
  refine (w.byte_deviceReset (hcache.trans hc) hk).trans ?_
  unfold State.byte
  rw [hmem]

/-- Settles O46, operation by operation. -/
theorem management : Obligations.Management := by
  refine ⟨fun seq s _ => ⟨_, rfl, s.replies_reply seq 1 0 _⟩, fun seq s _ => ⟨_, rfl, ?_⟩, fun seq nonce => ?_, fun seq nonce => ?_,
    fun seq k p d => ?_, fun seq k p d => ?_, fun seq slot off chunk s hlen => ?_, fun seq op => ?_, fun t0 t1 t2 t3 => ?_, fun t0 t1 t2 t3 => ?_,
    fun t0 t1 t2 t3 => ?_, ?_⟩
  · exact (s.replies_reply seq 2 0 _).onPkg (fun p => { p with log := [] }) fun _ => rfl
  · rintro s ⟨k, hk, hleaf⟩
    obtain ⟨t, hrun, -, hrep⟩ := attest_replies (seq := seq) (nonce := nonce) hk hleaf
    rw [identitySignatures_eq, append_three] at hrep
    exact ⟨t, hrun, k, hk, hrep⟩
  · rintro s ⟨k, hk, hleaf⟩
    refine ⟨_, ?_, s.replies_reply seq 3 _ []⟩
    change execAttest seq nonce s = _
    unfold execAttest
    rw [hk]
    dsimp only
    rw [if_pos hleaf]
  · rintro s ⟨hheld, hreset⟩
    obtain ⟨w, hw, hrep, hstay⟩ := mgmtReset_asks seq k p d s
    have hpkg : w.pkg.held = false ∧ w.pkg.pendingReset = none := by
      obtain ⟨ms, hturn, -⟩ := hrep
      exact (congrArg (fun z : State => z.pkg.held = false ∧ z.pkg.pendingReset = none) hturn :).mpr ⟨hheld, hreset⟩
    refine ⟨w.onPkg fun q => { q with pendingReset := some (k, p, d) }, ?_, hrep.onPkg (fun q => { q with pendingReset := some (k, p, d) }) fun _ => rfl,
      hstay⟩
    change execMgmtReset seq k p d s = _
    unfold execMgmtReset
    dsimp only
    rw [← hw, hpkg.1, if_neg (by decide)]
    unfold State.askReset State.onPkg
    dsimp only
    rw [hpkg.2]
  · rintro s ⟨hheld, hreset⟩
    obtain ⟨w, hw, hrep, hstay⟩ := mgmtReset_asks seq k p d s
    have hpkg : w.pkg.held = true ∧ w.pkg.heldReset = none := by
      obtain ⟨ms, hturn, -⟩ := hrep
      exact (congrArg (fun z : State => z.pkg.held = true ∧ z.pkg.heldReset = none) hturn :).mpr ⟨hheld, hreset⟩
    refine ⟨w.onPkg fun q => { q with heldReset := some (k, p, d) }, ?_, hrep.onPkg (fun q => { q with heldReset := some (k, p, d) }) fun _ => rfl,
      hstay⟩
    change execMgmtReset seq k p d s = _
    unfold execMgmtReset
    dsimp only
    rw [← hw, hpkg.1, if_pos rfl]
    unfold State.onPkg
    dsimp only
    rw [hpkg.2]
  · refine ⟨_, if_neg (Nat.not_lt.mpr hlen), _, State.replies_reply _ seq 5 0 [], putChunk_length .., putChunk_getD _ _ _ _⟩
  · rintro s hop
    refine ⟨_, if_neg ?_, s.replies_reply seq op.toNat 0xFFFF []⟩
    rw [Bool.and_eq_true, decide_eq_true_eq, decide_eq_true_eq]
    rcases hop with rfl | hop
    · decide
    · omega
  · rintro s ⟨hheld, hlen, h0, h1, h2, h3⟩
    refine ⟨(s.onPkg fun p => { p with temps := [t0, t1, t2, t3], wake := none }).sweepDuties [t0, t1, t2, t3], ?_, rfl, rfl, ?_, rfl, rfl⟩
    · change execSensorSweep t0 t1 t2 t3 s = _
      unfold execSensorSweep
      dsimp only
      rw [find?_cool h0 h1 h2 h3]
      exact if_neg (by rw [show (s.onPkg _).pkg.held = s.pkg.held from rfl, hheld]; decide)
    · refine ⟨fun d => Config.envelopeDuty (s.free + d), fun d hd => ?_⟩
      have hold : s.pkg.duty.getD d 16 = s.pkg.duty.getD d 0 := by simp [List.getD, hlen, hd]
      dsimp only
      rw [← hold, ← nextDuty_eq]
      exact List.getD_map_range 4 d
        (fun d => nextDuty (s.pkg.duty.getD d 16) ([t0, t1, t2, t3].getD d 0) (Config.envelopeDuty (s.free + d))) 0 hd
  · rintro s ⟨hheld, h0, h1, h2, h3⟩
    refine ⟨_, ?_, rfl⟩
    change execSensorSweep t0 t1 t2 t3 s = _
    unfold execSensorSweep
    dsimp only
    rw [find?_cool h0 h1 h2 h3]
    refine (if_pos hheld).trans ?_
    simp only [List.all_cons, List.all_nil, Bool.and_true, Bool.and_eq_true, decide_eq_true_eq]
    rfl
  · rintro s ⟨hheld, x, hx, hhot⟩
    obtain ⟨d, hd, hlt, hge⟩ := find?_hot (ts := [t0, t1, t2, t3]) rfl hx hhot
    obtain ⟨h1, h2, h3, h4, h5⟩ := (s.onPkg fun p => { p with temps := [t0, t1, t2, t3], wake := none }).holdHot_holds hheld d
    refine ⟨_, ?_, h1, h2, h3, ⟨d, hlt, hge, h4⟩, h5⟩
    change execSensorSweep t0 t1 t2 t3 s = _
    unfold execSensorSweep
    dsimp only
    rw [hd]
  · rintro s ⟨hheld, hcool, hreset⟩
    refine ⟨s.deviceReset true true, ?_, rfl, rfl, rfl, fun hc k hk => s.byte_deviceReset hc hk⟩
    change execThermalRelease s = _
    unfold execThermalRelease
    rw [hheld, decide_eq_true hcool, Bool.and_self, if_pos rfl, hreset]

end Sys2Proof.Machine
end

section
/-!
SUPPORT. Queue commands, the window's registers and doorbells (R343, R344, R348, R406, R407); messages of groups and the reload of the front end
(R340, R342, R359, R425).
-/
namespace Sys2Proof.Machine

/-! ### Queues that enter a state (R347, R349) -/

/-- A queue without a progress word enters a state, and no loss is met. -/
theorem State.enterQueue_of {s : State} {q : Nat} {u : Queue} (h : s.queue? q = some u) (st : QState) (hc : u.ctl.getLsbD 0 = false) :
    s.enterQueue q st = (s.setQueue q st).1 := by
  unfold State.enterQueue
  rw [State.setQueue_of h st hc]

theorem State.enterQueue_active {s : State} {q : Nat} {u : Queue} (h : s.queue? q = some u) :
    s.enterQueue q .active = (s.touchQueue q).onQueue q fun u => { u with st := .active } := by
  unfold State.enterQueue
  rw [State.setQueue_active h]

theorem State.onQueue_eq_map (s : State) (q : Nat) (f : Queue → Queue) :
    s.onQueue q f = { s with queues := s.queues.map fun w => if w.id = q then f w else w } := by
  unfold State.onQueue
  rw [mapIf_eq_ite s.queues Queue.id q f]

/-- A queue that is not STALLED is not read again. -/
theorem State.reread_of {s : State} {q : Nat} {u : Queue} (h : s.queue? q = some u) (hs : u.st ≠ .stalled) : s.reread q = s := by
  unfold State.reread
  rw [h]
  simp [hs]

/-! ### QCMD (R343, R344, R349) -/

/-- A queue command that is about a queue of the table. -/
theorem State.qcmd_eq {s : State} {q : Nat} (f : State → State) (hd : s.pkg.stage = .d) (hq : q < 2 ^ s.fe.qtlog.toNat) : s.qcmd q f = .next (f s) := by
  unfold State.qcmd State.hostReady
  rw [hd, if_neg (by decide), if_neg (Nat.not_le.mpr hq)]

theorem State.queue?_qcmdDone (s : State) (n q : Nat) : (s.qcmdDone n).queue? q = s.queue? q := rfl

theorem ctl_even {b : List Byte} (h : fieldOf b 0x0B 1 % 2 = 0) : (BitVec.ofNat 8 (fieldOf b 0x0B 1)).getLsbD 0 = false := by
  rw [BitVec.getLsbD_ofNat, Nat.testBit_zero, h]
  rfl

theorem fieldOf_lt (b : List Byte) (o n : Nat) : fieldOf b o n < 2 ^ (8 * n) :=
  (ofBytes_lt _).trans_le (Nat.pow_le_pow_right (by decide) (Nat.mul_le_mul_left 8 (List.length_take_le ..)))

theorem toNat_field {b : List Byte} (o : Nat) : (BitVec.ofNat 64 (fieldOf b o 8)).toNat = fieldOf b o 8 :=
  BitVec.toNat_ofNat .. |>.trans (Nat.mod_eq_of_lt (fieldOf_lt b o 8))

theorem queueCreate_steps (q : Nat) : Steps (.queueCreate q)
    (fun s => (s.pkg.stage = .d ∧ q < 2 ^ s.fe.qtlog.toNat) ∧ (∀ u, s.queue? q = some u → u.st = .absent) ∧ s.keyHeld (s.qcbKey q) = false ∧
      s.isLost (s.qcbKey q) 256 = false ∧ qcbOk (s.bytes (s.qcbKey q) 256) = true ∧
      ∃ c, s.ctx? (fieldOf (s.bytes (s.qcbKey q) 256) 0x0C 2) = some c ∧ c.st ≠ .free)
    fun s t => t.fe.qStatus = 0 ∧
      let b := s.bytes (s.qcbKey q) 256
      fieldOf b 0x0B 1 % 2 = 0 → ∃ u, t.queue? q = some u ∧ u.st = (if s.fetching (fieldOf b 0x0C 2) then .idle else .out) ∧
        u.ring.toNat = fieldOf b 0 8 ∧ u.szlog = fieldOf b 8 1 ∧ u.prio = fieldOf b 9 1 ∧ u.ctx = fieldOf b 0x0C 2 ∧
        u.tail = fieldOf b 0x10 8 ∧ u.rdidx = fieldOf b 0x18 8 ∧ u.doneidx = fieldOf b 0x18 8 ∧ u.quantum = fieldOf b 0x28 4 ∧
        u.deficit = 0 ∧ u.pending = [] ∧ u.errcode = 0 := by
  rintro s ⟨⟨hd, hq⟩, habsent, hheld, hlost, hok, c, hc, hfree⟩
  generalize hb : s.bytes (s.qcbKey q) 256 = b at hok hc
  generalize hst : (if s.fetching (fieldOf b 0x0C 2) then QState.idle else .out) = st
  generalize hgen : ((s.queue? q).map fun u => u.gen + 1).getD 0 = gen
  generalize hw : ({ s with queues := s.queues.filter (fun (u : Queue) => u.id != q) ++ [queueOf q gen b st] } : State) = w
  have hwq : w.queue? q = some (queueOf q gen b st) := by
    unfold State.queue?
    rw [← hw]
    dsimp only
    rw [List.find?_append, List.find?_eq_none.mpr fun u hu => by simpa using (List.mem_filter.mp hu).2]
    simp [queueOf]
  have hnone : (s.queue? q).any (fun u => u.st != .absent) = false := by
    cases h : s.queue? q with
    | none => rfl
    | some u => simp [habsent u h]
  have hrun : exec (.queueCreate q) s = .next (((w.touchQueue q).enterQueue q st).qcmdDone 0) := by
    change execQueueCreate q s = _
    unfold execQueueCreate
    rw [hheld, Bool.and_false, if_neg (by decide), State.qcmd_eq _ hd hq, hnone, if_neg (by decide)]
    unfold State.hubLoss
    rw [hlost, if_neg (by decide)]
    dsimp only
    rw [hb, hok, hc, Option.all_some, beq_eq_false_iff_ne.mpr hfree, if_neg (by decide), hst, hgen, hw]
  refine ⟨_, hrun, rfl, fun heven => ?_⟩
  have hq1 : (w.touchQueue q).queue? q = some (queueOf q gen b st) := ((w.savesQcbs_touchQueue q).queue? q).trans hwq
  have hctl : (queueOf q gen b st).ctl.getLsbD 0 = false := ctl_even (hb ▸ heven)
  have hq2 : (((w.touchQueue q).enterQueue q st).qcmdDone 0).queue? q = some { queueOf q gen b st with st := st } := by
    rw [State.queue?_qcmdDone, State.enterQueue_of hq1 st hctl]
    exact State.queue?_setQueue hq1 st hctl
  refine ⟨_, hq2, ?_⟩
  rw [hb]
  exact ⟨hst.symm, toNat_field 0, rfl, rfl, rfl, rfl, rfl, rfl, rfl, rfl, rfl, rfl⟩

theorem queueDestroy_steps (q : Nat) : Steps (.queueDestroy q)
    (fun s => (s.pkg.stage = .d ∧ q < 2 ^ s.fe.qtlog.toNat) ∧ ∃ u, s.queue? q = some u ∧ u.st ≠ .absent)
    fun _ t => t.fe.qStatus = 0 ∧ ∃ u, t.queue? q = some u ∧ u.st = .absent := by
  rintro s ⟨⟨hd, hq⟩, u, hu, hst⟩
  have hall : (s.queue? q).all (fun u => u.st == .absent) = false := by rw [hu]; simpa using hst
  obtain ⟨v, hv, hvst⟩ := State.queue?_dropQueue hu
  refine ⟨(s.dropQueue q).qcmdDone 0, ?_, rfl, v, (State.queue?_qcmdDone _ 0 q).trans hv, hvst⟩
  change execQueueDestroy q s = _
  unfold execQueueDestroy
  rw [State.qcmd_eq _ hd hq, hall, if_neg (by decide)]

theorem queueReset_steps (q : Nat) : Steps (.queueReset q)
    (fun s => (s.pkg.stage = .d ∧ q < 2 ^ s.fe.qtlog.toNat) ∧ ∃ u, s.queue? q = some u ∧ u.st = .error ∧ u.rdidx ≤ s.fe.qarg.toNat)
    fun s t => t.fe.qStatus = 0 ∧ ∀ u, s.queue? q = some u → u.ctl.getLsbD 0 = false →
      t.queue? q = some { u with
        st := if s.fetching u.ctx then .idle else .out
        rdidx := s.fe.qarg.toNat, tail := s.fe.qarg.toNat, errcode := 0, errval := 0, packet := none
        doneidx := (u.pending.min?).getD s.fe.qarg.toNat } := by
  rintro s ⟨⟨hd, hq⟩, u, hu, hst, hidx⟩
  generalize hn : s.fe.qarg.toNat = n at hidx
  generalize hw : (s.touchQueue q).onQueue q (fun u => Queue.settleDone { u with rdidx := n, tail := n, errcode := 0, errval := 0, packet := none }) = w
  have hwq : w.queue? q = some (Queue.settleDone { u with rdidx := n, tail := n, errcode := 0, errval := 0, packet := none }) := by
    rw [← hw]
    exact State.queue?_onQueue_of (((s.savesQcbs_touchQueue q).queue? q).trans hu) fun _ => rfl
  have hfetch : w.fetching u.ctx = s.fetching u.ctx := by
    rw [← hw]
    exact (s.savesQcbs_touchQueue q).fetching u.ctx
  have hrun : exec (.queueReset q) s = .next ((w.enterQueue q (if s.fetching u.ctx then .idle else .out)).qcmdDone 0) := by
    change execQueueReset q s = _
    unfold execQueueReset
    rw [State.qcmd_eq _ hd hq]
    dsimp only
    rw [hu]
    dsimp only
    rw [hst, hn, if_neg (by decide), if_neg (Nat.not_lt.mpr hidx), hw, hfetch]
  refine ⟨_, hrun, rfl, fun v hv hctl => ?_⟩
  obtain rfl := Option.some_inj.mp (hu.symm.trans hv)
  rw [State.queue?_qcmdDone, State.enterQueue_of hwq _ hctl]
  rw [hn]
  exact State.queue?_setQueue hwq (if s.fetching u.ctx then .idle else .out) hctl

theorem qcmdReservedOp_steps (op q : Nat) : Steps (.qcmdReservedOp op q)
    (fun s => s.pkg.stage = .d ∧ q < 2 ^ 20 ∧ (op = 0 ∨ 4 ≤ op ∧ op < 16))
    fun s t => t = { s with fe := { s.fe with qStatus := 4 } } := by
  rintro s ⟨hd, hq, hop⟩
  refine ⟨_, ?_, rfl⟩
  change execQcmdReservedOp op q s = _
  unfold execQcmdReservedOp State.hostReady
  rw [if_neg, hd, if_pos (by decide)]
  · rfl
  · simp only [Bool.or_eq_true, Bool.and_eq_true, decide_eq_true_eq]
    omega

/-! ### The registers (R343, R406, R407, R411, R413) -/

theorem State.noQueues_iff (s : State) : s.noQueues = true ↔ ∀ u ∈ s.queues, u.st = .absent := by
  unfold State.noQueues
  rw [List.all_eq_true]
  exact forall₂_congr fun _ _ => beq_iff_eq

theorem qtbase_steps (v : DWord) : Steps (.queueTableRegisterWrite .qtbase v) (fun s => s.pkg.stage = .d)
    fun s t => t = if (∀ u ∈ s.queues, u.st = .absent) ∧ tagOk v 4096 = true then { s with fe := { s.fe with qtbase := v } } else s := by
  intro s hd
  refine ⟨_, ?_, rfl⟩
  change execQueueTableRegisterWrite .qtbase v s = _
  unfold execQueueTableRegisterWrite State.hostReady
  rw [hd, if_neg (by decide)]
  dsimp only
  exact (ite_congr (by rw [Bool.and_eq_true, State.noQueues_iff]) (fun _ => rfl) fun _ => rfl).trans (apply_ite Host.Outcome.next _ _ _).symm

theorem qtlog_steps (v : DWord) : Steps (.queueTableRegisterWrite .qtlog v) (fun s => s.pkg.stage = .d)
    fun s t => t = if (∀ u ∈ s.queues, u.st = .absent) ∧ 6 ≤ (v.setWidth 32).toNat ∧ (v.setWidth 32).toNat ≤ 20 then
        { s with fe := { s.fe with qtlog := v.setWidth 32 } } else s := by
  intro s hd
  refine ⟨_, ?_, rfl⟩
  change execQueueTableRegisterWrite .qtlog v s = _
  unfold execQueueTableRegisterWrite State.hostReady
  rw [hd, if_neg (by decide)]
  dsimp only
  rw [BitVec.toNat_setWidth]
  refine (ite_congr ?_ (fun _ => rfl) fun _ => rfl).trans (apply_ite Host.Outcome.next _ _ _).symm
  rw [Bool.and_eq_true, Bool.and_eq_true, State.noQueues_iff, decide_eq_true_eq, decide_eq_true_eq, and_assoc]

theorem mbtbase_steps (v : DWord) : Steps (.queueTableRegisterWrite .mbtbase v) (fun s => s.pkg.stage = .d)
    fun s t => t = if tagOk v 4096 = true then { s with fe := { s.fe with mbtbase := v } } else s := by
  intro s hd
  refine ⟨_, ?_, rfl⟩
  change execQueueTableRegisterWrite .mbtbase v s = _
  unfold execQueueTableRegisterWrite State.hostReady
  rw [hd, if_neg (by decide)]
  dsimp only
  split <;> rfl

theorem FrontEnd.writeReg_rest (f : FrontEnd) (off : Nat) (v : DWord) :
    { f.writeReg off v with ctxarg := f.ctxarg, qarg := f.qarg, expt := f.expt, cge := f.cge } = f := by
  unfold FrontEnd.writeReg
  dsimp only
  repeat' split
  all_goals rfl

theorem FrontEnd.writeReg_ctxarg (f : FrontEnd) (off : Nat) (v : DWord) : (f.writeReg off v).ctxarg = if off = 0 then v else f.ctxarg := by
  unfold FrontEnd.writeReg
  dsimp only
  by_cases h : off = 0
  · rw [if_pos h, if_pos h]
  · rw [if_neg h, if_neg h]
    repeat' split
    all_goals rfl

theorem FrontEnd.writeReg_qarg (f : FrontEnd) (off : Nat) (v : DWord) : (f.writeReg off v).qarg = if off = 0x28 then v else f.qarg := by
  unfold FrontEnd.writeReg
  dsimp only
  by_cases h : off = 0x28
  · rw [if_neg (by omega), if_pos h, if_pos h]
  · rw [if_neg h, if_neg h]
    repeat' split
    all_goals rfl

theorem FrontEnd.writeReg_expt (f : FrontEnd) {w : Nat} (hw : w < 32) (v : DWord) :
    Sparse.look (f.writeReg (0x200 + 8 * w) v).expt w = v &&& exptMask w := by
  unfold FrontEnd.writeReg
  have hdiv : (0x200 + 8 * w - 0x200) / 8 = w := by omega
  rw [if_neg (by omega), if_neg (by omega), if_pos (by simp only [Bool.and_eq_true, decide_eq_true_eq, beq_iff_eq]; omega)]
  dsimp only
  rw [hdiv, Sparse.look_put_self]

theorem FrontEnd.writeReg_cge (f : FrontEnd) {w : Nat} (hw : w < 512) (v : DWord) :
    Sparse.look (f.writeReg (0x400 + 8 * w) v).cge w = if ∃ j ∈ f.joins, j.cg = w / 2 then Sparse.look f.cge w else v &&& cgeMask w := by
  unfold FrontEnd.writeReg
  have hdiv : (0x400 + 8 * w - 0x400) / 8 = w := by omega
  rw [if_neg (by omega), if_neg (by omega), if_neg (by simp only [Bool.and_eq_true, decide_eq_true_eq, beq_iff_eq]; omega),
    if_pos (by simp only [Bool.and_eq_true, decide_eq_true_eq, beq_iff_eq]; omega)]
  dsimp only
  rw [hdiv]
  have hany : f.joins.any (fun j => j.cg == w / 2) = true ↔ ∃ j ∈ f.joins, j.cg = w / 2 := by simp
  by_cases h : ∃ j ∈ f.joins, j.cg = w / 2
  · rw [if_pos (hany.mpr h), if_pos h]
  · rw [if_neg (mt hany.mp h), if_neg h]
    exact Sparse.look_put_self ..

theorem exptMask_even (i : Nat) : exptMask (2 * i) = 0x000030FFFFFFFFFF := by
  unfold exptMask
  rw [if_pos (by omega)]
  decide

theorem exptMask_odd (i : Nat) : exptMask (2 * i + 1) = 0xC00000FFFFFFFFFF := by
  unfold exptMask
  rw [if_neg (by omega)]
  decide

theorem cgeMask_even (g : Nat) (v : DWord) : v &&& cgeMask (2 * g) = v := by
  unfold cgeMask
  rw [if_pos (by omega), show maskBits 0 64 = BitVec.allOnes 64 by decide, BitVec.and_allOnes]

theorem cgeMask_odd (g : Nat) : cgeMask (2 * g + 1) = 0x8000000000000FFF := by
  unfold cgeMask
  rw [if_neg (by omega)]
  decide

theorem registerWrite_steps (off : Nat) (v : DWord) : Steps (.registerWrite off v) (fun _ => True) fun s t =>
    (s.pkg.stage ≠ .d → t = s) ∧
    (s.pkg.stage = .d →
      { t.fe with ctxarg := s.fe.ctxarg, qarg := s.fe.qarg, expt := s.fe.expt, cge := s.fe.cge } = s.fe ∧ { t with fe := s.fe } = s ∧
      t.fe.ctxarg = (if off = 0 then v else s.fe.ctxarg) ∧ t.fe.qarg = (if off = 0x28 then v else s.fe.qarg) ∧
      (∀ i, i < 16 → off = 0x200 + 16 * i → Sparse.look t.fe.expt (2 * i) = v &&& 0x000030FFFFFFFFFF) ∧
      (∀ i, i < 16 → off = 0x208 + 16 * i → Sparse.look t.fe.expt (2 * i + 1) = v &&& 0xC00000FFFFFFFFFF) ∧
      (∀ g, g < 256 → off = 0x400 + 16 * g → Sparse.look t.fe.cge (2 * g) =
        if ∃ j ∈ s.fe.joins, j.cg = g then Sparse.look s.fe.cge (2 * g) else v) ∧
      (∀ g, g < 256 → off = 0x408 + 16 * g → Sparse.look t.fe.cge (2 * g + 1) =
        if ∃ j ∈ s.fe.joins, j.cg = g then Sparse.look s.fe.cge (2 * g + 1) else v &&& 0x8000000000000FFF)) := by
  intro s _
  by_cases hd : s.pkg.stage = .d
  · refine ⟨s.onFe fun f => f.writeReg off v, if_pos (by unfold State.hostReady; rw [hd]; rfl), fun h => absurd hd h, fun _ => ⟨?_, rfl, ?_, ?_, ?_,
      ?_, ?_, ?_⟩⟩
    · exact s.fe.writeReg_rest off v
    · exact s.fe.writeReg_ctxarg off v
    · exact s.fe.writeReg_qarg off v
    · rintro i hi rfl
      rw [← exptMask_even i, show 0x200 + 16 * i = 0x200 + 8 * (2 * i) by omega]
      exact s.fe.writeReg_expt (by omega) v
    · rintro i hi rfl
      rw [← exptMask_odd i, show 0x208 + 16 * i = 0x200 + 8 * (2 * i + 1) by omega]
      exact s.fe.writeReg_expt (by omega) v
    · rintro g hg rfl
      have h := s.fe.writeReg_cge (w := 2 * g) (by omega) v
      rw [cgeMask_even, show 2 * g / 2 = g by omega] at h
      rw [show 0x400 + 16 * g = 0x400 + 8 * (2 * g) by omega]
      exact h
    · rintro g hg rfl
      have h := s.fe.writeReg_cge (w := 2 * g + 1) (by omega) v
      rw [cgeMask_odd, show (2 * g + 1) / 2 = g by omega] at h
      rw [show 0x408 + 16 * g = 0x400 + 8 * (2 * g + 1) by omega]
      exact h
  · exact ⟨s, if_neg (by unfold State.hostReady; simpa using hd), fun _ => rfl, fun h => absurd h hd⟩

theorem hsigClear_steps (m : BitVec 4) : Steps (.hsigClear m) (fun s => s.pkg.stage = .d)
    fun s t => t = { s with fe := { s.fe with hsig := s.fe.hsig &&& ~~~m } } := by
  intro s hd
  exact ⟨_, if_pos (by unfold State.hostReady; rw [hd]; rfl), rfl⟩

/-! ### The doorbell (R348) -/

theorem execDoorbell_eq {s : State} (q : Nat) (v : DWord) (hd : s.pkg.stage = .d) (hload : s.fe.reloading = false) :
    exec (.doorbell q v) s = .next (s.ring q (some v.toNat)) := by
  change execDoorbell q v s = _
  unfold execDoorbell State.hostReady State.ringOrHold
  rw [hd, if_pos (by decide), hload, if_neg (by decide)]
  rfl

/-- A doorbell value within the ring. -/
theorem State.ring_within {s : State} {q v : Nat} {u : Queue} (hu : s.queue? q = some u) (hv : v ≤ u.rdidx + 2 ^ u.szlog)
    (hst : u.st = .idle ∨ u.st = .active ∨ u.st = .blocked) : s.ring q (some v) = { s.touchQueue q with queues := s.queues.map fun w =>
      if w.id = q then { w with tail := max w.tail v, st := if u.st = .idle ∧ u.rdidx < max u.tail v then .active else w.st } else w } := by
  have hno : u.st ≠ .absent ∧ u.st ≠ .error ∧ u.st ≠ .out ∧ u.st ≠ .stalled := by rcases hst with h | h | h <;> rw [h] <;> decide
  obtain ⟨habsent, herror, hout, hstalled⟩ := hno
  have hsaves := s.savesQcbs_touchQueue q
  have htouch := State.touched_touchQueue (State.liveQueue_of hu habsent)
  have hqueues := hsaves.queues
  have hq2 : ((s.touchQueue q).onQueue q fun u => { u with tail := max u.tail v }).queue? q = some { u with tail := max u.tail v } :=
    State.queue?_onQueue_of ((hsaves.queue? q).trans hu) fun _ => rfl
  unfold State.ring
  rw [hu]
  dsimp only
  rw [if_neg (by simp [habsent, herror]), if_neg (Nat.not_lt.mpr hv)]
  generalize s.touchQueue q = w at htouch hqueues hq2 ⊢
  by_cases hidle : u.st = .idle ∧ u.rdidx < max u.tail v
  · have hq3 : ((w.onQueue q fun u => { u with tail := max u.tail v }).onQueue q fun u => { u with st := .active }).queue? q =
        some { u with tail := max u.tail v, st := .active } := State.queue?_onQueue_of hq2 fun _ => rfl
    rw [if_pos (by simpa using hidle), State.enterQueue_active hq2, (htouch.of_qcache rfl : (w.onQueue q _).Touched q).again,
      State.reread_of hq3 nofun, State.onQueue_onQueue w q (fun u => { u with tail := max u.tail v }) _ fun _ => rfl, State.onQueue_eq_map, hqueues]
    simp only [if_pos hidle]
  · rw [if_neg (by simpa using hidle), State.saveQueue_of hq2 hout herror, State.reread_of hq2 hstalled, State.onQueue_eq_map, hqueues]
    simp only [if_neg hidle]

theorem doorbell_within (q : Nat) (v : DWord) : Steps (.doorbell q v)
    (fun s => s.pkg.stage = .d ∧ s.fe.reloading = false ∧ ∃ u, s.queue? q = some u ∧ v.toNat ≤ u.rdidx + 2 ^ u.szlog ∧
      (u.st = .idle ∨ u.st = .active ∨ u.st = .blocked))
    fun s t => ∃ u, s.queue? q = some u ∧ t = { s.touchQueue q with queues := s.queues.map fun w =>
      if w.id = q then { w with tail := max w.tail v.toNat, st := if u.st = .idle ∧ u.rdidx < max u.tail v.toNat then .active else w.st } else w } := by
  rintro s ⟨hd, hload, u, hu, hv, hst⟩
  exact ⟨_, execDoorbell_eq q v hd hload, u, hu, State.ring_within hu hv hst⟩

/-- A queue enters ERROR, and its control block's stack can be reached. -/
theorem State.queueError_eq {s : State} {q : Nat} {u : Queue} (hu : s.queue? q = some u) (code idx : Nat) (hdr : DWord)
    (hheld : s.keyHeld (s.qcbKey q) = false) : (s.queueError q code idx hdr).fe.hsig.getLsbD 1 = true ∧ (s.queueError q code idx hdr).queue? q =
      some { u with st := .error, errcode := code, erridx := idx % 2 ^ 64, errhdr := hdr, packet := none, feFault := none } := by
  generalize hw : s.onQueue q (fun u =>
    { u with st := .error, errcode := code, erridx := idx % 2 ^ 64, errhdr := hdr, packet := none, feFault := none }) = w
  have hq : w.queue? q = some { u with st := .error, errcode := code, erridx := idx % 2 ^ 64, errhdr := hdr, packet := none, feFault := none } := by
    rw [← hw]
    exact State.queue?_onQueue_of hu fun _ => rfl
  have hkey : w.keyHeld (w.qcbKey q) = false := by rw [← hw]; exact hheld
  have hrun : s.queueError q code idx hdr = w.onQcb q .error := by
    unfold State.queueError
    rw [hw]
  rw [hrun]
  refine ⟨?_, ((w.savesQcbs_onQcb q .error).queue? q).trans hq⟩
  unfold State.onQcb State.accessQcb
  rw [hkey, if_neg (by decide), hq]
  dsimp only
  rw [if_pos rfl, State.signal_hsig, BitVec.getLsbD_or, BitVec.getLsbD_twoPow]
  simp

theorem doorbell_beyond (q : Nat) (v : DWord) : Steps (.doorbell q v)
    (fun s => s.pkg.stage = .d ∧ s.fe.reloading = false ∧ ∃ u, s.queue? q = some u ∧ u.rdidx + 2 ^ u.szlog < v.toNat ∧
      u.st ≠ .absent ∧ u.st ≠ .error ∧ s.keyHeld (s.qcbKey q) = false)
    fun s t => ∃ u, s.queue? q = some u ∧ t.fe.hsig.getLsbD 1 = true ∧
      t.queue? q = some { u with st := .error, errcode := 1, erridx := v.toNat, packet := none, feFault := none } := by
  rintro s ⟨hd, hload, u, hu, hv, habsent, herror, hheld⟩
  have hsaves := s.savesQcbs_touchQueue q
  have hring : s.ring q (some v.toNat) = (s.touchQueue q).queueError q 1 v.toNat u.errhdr := by
    unfold State.ring
    rw [hu]
    dsimp only
    rw [if_neg (by simp [habsent, herror]), if_pos hv]
  obtain ⟨hsig, hq⟩ := State.queueError_eq ((hsaves.queue? q).trans hu) 1 v.toNat u.errhdr ((hsaves.qcbHeld q).trans hheld)
  rw [Nat.mod_eq_of_lt v.isLt] at hq
  exact ⟨_, (execDoorbell_eq q v hd hload).trans (congrArg _ hring), u, hu, hsig, hq⟩

theorem doorbell_reloading (q : Nat) (v : DWord) : Steps (.doorbell q v) (fun s => s.pkg.stage = .d ∧ s.fe.reloading = true)
    fun s t => t = { s with fe := { s.fe with heldBells := s.fe.heldBells ++ [(q, v, none)] } } := by
  rintro s ⟨hd, hload⟩
  refine ⟨_, ?_, rfl⟩
  change execDoorbell q v s = _
  unfold execDoorbell State.hostReady State.ringOrHold
  rw [hd, if_pos (by decide), hload, if_pos rfl, BitVec.ofNat_toNat, BitVec.setWidth_eq]
  rfl

/-- Settles O36, command by command and register by register. -/
theorem queueCommands : Obligations.QueueCommands :=
  ⟨queueCreate_steps, queueDestroy_steps, queueReset_steps, qcmdReservedOp_steps, qtbase_steps, qtlog_steps, mbtbase_steps, registerWrite_steps,
    hsigClear_steps, doorbell_within, doorbell_beyond, doorbell_reloading⟩

/-! ### Messages of groups to the front end (R340, R359, R425) -/

theorem fld_toNat {w : Nat} (x : BitVec w) (lo n : Nat) : (fld x lo n).toNat = x.toNat / 2 ^ lo % 2 ^ n := by
  unfold fld
  rw [BitVec.extractLsb'_toNat, Nat.shiftRight_eq_div_pow]

theorem fld_eq_iff {w : Nat} (x : BitVec w) (lo n : Nat) {y : BitVec n} : fld x lo n = y ↔ x.toNat / 2 ^ lo % 2 ^ n = y.toNat := by
  rw [← BitVec.toNat_inj, fld_toNat]

/-- The front end with the messages that stay once the first has been taken. -/
def State.leaves (s : State) (r : List FeMsg) : State := { s with fe := { s.fe with msgs := r } }

theorem takeMsg_head {p : FeMsg → Bool} {m : FeMsg} {r : List FeMsg} (h : p m = true) : takeMsg p (m :: r) = some (m, r) := by
  unfold takeMsg
  rw [List.find?_cons_of_pos h]
  simp [dropFirst]

theorem qbellDelivery_eq {s : State} {ctx : Nat} {q : Word} {v : DWord} {r : List FeMsg} (h : s.fe.msgs = .bell ctx q v :: r) :
    exec .qbellDelivery s = .next (if q.toNat < 2 ^ 20 then (s.leaves r).ringOrHold q.toNat v.toNat (some ctx) else s.leaves r) := by
  change execQbellDelivery s = _
  unfold execQbellDelivery
  rw [h, takeMsg_head rfl]
  have hq : (fld q 20 12 == 0) = true ↔ q.toNat < 2 ^ 20 := by
    rw [beq_iff_eq, fld_eq_iff]
    have := q.isLt
    change _ = 0 ↔ _
    omega
  dsimp only
  rw [ite_congr (propext hq) (fun _ => rfl) fun _ => rfl]
  exact (apply_ite Host.Outcome.next _ _ _).symm

theorem qbell_rings : Steps .qbellDelivery
    (fun s => s.pkg.stage = .d ∧ s.fe.reloading = false ∧
      ∃ ctx q v r u, s.fe.msgs = .bell ctx q v :: r ∧ q.toNat < 2 ^ 20 ∧ s.queue? q.toNat = some u ∧ u.ctx = ctx)
    fun s t => ∃ ctx q v r, s.fe.msgs = .bell ctx q v :: r ∧ exec (.doorbell q.toNat v) (s.leaves r) = .next t := by
  rintro s ⟨hd, hload, ctx, q, v, r, u, hm, hq, hu, hctx⟩
  refine ⟨_, qbellDelivery_eq hm, ctx, q, v, r, hm, ?_⟩
  rw [execDoorbell_eq (s := s.leaves r) _ _ hd hload, if_pos hq]
  unfold State.ringOrHold
  have hown : (some ctx).all (fun c => ((s.leaves r).queue? q.toNat).any fun u => u.ctx == c) = true := by
    rw [show (s.leaves r).queue? q.toNat = some u from hu]
    simpa using hctx
  rw [if_pos hown, show (s.leaves r).fe.reloading = false from hload, if_neg (by decide)]

theorem qbell_dropped : Steps .qbellDelivery
    (fun s => ∃ ctx q v r, s.fe.msgs = .bell ctx q v :: r ∧
      (2 ^ 20 ≤ q.toNat ∨ s.fe.reloading = false ∧ ∀ u, s.queue? q.toNat = some u → u.ctx ≠ ctx))
    fun s t => ∃ m r, s.fe.msgs = m :: r ∧ t = s.leaves r := by
  rintro s ⟨ctx, q, v, r, hm, hq⟩
  refine ⟨_, qbellDelivery_eq hm, _, r, hm, ?_⟩
  split
  · next hlt =>
    obtain hge | ⟨hload, hnone⟩ := hq
    · omega
    have hother : ¬(some ctx).all (fun c => ((s.leaves r).queue? q.toNat).any fun u => u.ctx == c) = true := by
      change ¬((s.queue? q.toNat).any fun u => u.ctx == ctx) = true
      cases hu : s.queue? q.toNat with
      | none => simp
      | some u => simpa using hnone u hu
    unfold State.ringOrHold
    rw [if_neg hother, show (s.leaves r).fe.reloading = false from hload, if_neg (by decide)]
  · rfl

theorem qbell_held : Steps .qbellDelivery
    (fun s => s.fe.reloading = true ∧ ∃ ctx q v r, s.fe.msgs = .bell ctx q v :: r ∧ q.toNat < 2 ^ 20)
    fun s t => ∃ ctx q v r, s.fe.msgs = .bell ctx q v :: r ∧
      t = { s with fe := { s.fe with msgs := r, heldBells := s.fe.heldBells ++ [(q.toNat, v, some ctx)] } } := by
  rintro s ⟨hload, ctx, q, v, r, hm, hq⟩
  refine ⟨_, qbellDelivery_eq hm, ctx, q, v, r, hm, ?_⟩
  unfold State.ringOrHold
  rw [if_pos hq, show (s.leaves r).fe.reloading = true from hload, if_pos rfl, BitVec.ofNat_toNat, BitVec.setWidth_eq]
  rfl

/-! ### Soft interrupts (R340, R425) -/

theorem sintDelivery_eq {s : State} {ctx : Nat} {v : Word} {r : List FeMsg} (hload : s.fe.reloading = false) (h : s.fe.msgs = .sint ctx v :: r) :
    exec .sintDelivery s = .next (
      if v.toNat / 2 ^ 30 = 0 then
        if v.toNat < 2 ^ 20 ∧ (s.queue? v.toNat).any (fun u => u.ctx == ctx) = true then (s.leaves r).ring v.toNat none else s.leaves r
      else if v.toNat / 2 ^ 30 = 3 then s.leaves r
      else (s.leaves r).wakeMgmt ctx v) := by
  change execSintDelivery s = _
  unfold execSintDelivery
  rw [h, takeMsg_head rfl]
  have hv := v.isLt
  have h0 : fld v 30 2 = 0 ↔ v.toNat / 2 ^ 30 = 0 := by
    rw [fld_eq_iff]
    change _ = 0 ↔ _
    omega
  have h3 : fld v 30 2 = 3 ↔ v.toNat / 2 ^ 30 = 3 := by
    rw [fld_eq_iff]
    change v.toNat / 2 ^ 30 % 2 ^ 2 = 3 ↔ _
    omega
  dsimp only
  rw [hload, if_neg (by decide)]
  by_cases hq : v.toNat / 2 ^ 30 = 0
  · rw [if_pos (h0.mpr hq), if_pos hq]
    have hlow : v.toNat / 2 ^ 20 % 2 ^ 10 = 0 ↔ v.toNat < 2 ^ 20 := by omega
    by_cases hown : v.toNat < 2 ^ 20 ∧ (s.queue? v.toNat).any (fun u => u.ctx == ctx) = true
    · obtain ⟨hlt, hany⟩ := hown
      have hn : (fld v 0 20).toNat = v.toNat := by
        rw [fld_toNat]
        omega
      rw [hn, if_pos, if_pos ⟨hlt, hany⟩]
      · rfl
      rw [Bool.and_eq_true, beq_iff_eq, fld_eq_iff]
      exact ⟨hlow.mpr hlt, hany⟩
    · rw [if_neg hown, if_neg]
      · rfl
      rw [Bool.and_eq_true, beq_iff_eq, fld_eq_iff]
      rintro ⟨hz, hany⟩
      have hlt := hlow.mp hz
      have hn : (fld v 0 20).toNat = v.toNat := by
        rw [fld_toNat]
        omega
      rw [hn] at hany
      exact hown ⟨hlt, hany⟩
  · rw [if_neg (mt h0.mp hq), if_neg hq, ite_congr (propext h3) (fun _ => rfl) fun _ => rfl]
    exact (apply_ite Host.Outcome.next _ _ _).symm

theorem State.wakeMgmt_package (s : State) (ctx : Nat) {v : Word} (hv : v.toNat / 2 ^ 30 = 1) :
    s.wakeMgmt ctx v = if v.toNat = 2 ^ 30 then { s with pkg := { s.pkg with wake := if s.pkg.held then s.pkg.wake else some ctx } } else s := by
  have h1 : fld v 30 2 = 1 := by
    rw [fld_eq_iff]
    change _ = 1
    omega
  have hz : fld v 0 30 = 0#30 ↔ v.toNat = 2 ^ 30 := by
    rw [fld_eq_iff]
    change _ = 0 ↔ _
    omega
  unfold State.wakeMgmt State.underReset
  rw [if_pos h1]
  by_cases hw : v.toNat = 2 ^ 30
  · rw [if_pos hw]
    cases hh : s.pkg.held with
    | true => rw [if_neg (by simp)]; rfl
    | false => rw [if_pos (by simp [hz.mpr hw])]; rfl
  · rw [if_neg hw, if_neg (by simp [mt hz.mp hw])]

/-- A stack's management core with its wake bit set. -/
def Stack.woken (c : Nat) (k : Stack) : Stack := { k with wake := some c }

theorem State.wakeMgmt_stack (s : State) (ctx : Nat) {v : Word} (hv : v.toNat / 2 ^ 30 = 2) :
    s.wakeMgmt ctx v = if v.toNat < 2 ^ 31 + 16 then { s with mstacks := s.mstacks.map fun k =>
      if k.n = v.toNat - 2 ^ 31 ∧ s.pkg.held = false ∧ s.training (v.toNat - 2 ^ 31) = false then { k with wake := some ctx } else k } else s := by
  have h1 : fld v 30 2 ≠ 1 := by
    rw [Ne, fld_eq_iff]
    change ¬_ = 1
    omega
  have hz : fld v 4 26 = 0#26 ↔ v.toNat < 2 ^ 31 + 16 := by
    rw [fld_eq_iff]
    change _ = 0 ↔ _
    omega
  unfold State.wakeMgmt State.underReset
  rw [if_neg h1]
  by_cases hw : v.toNat < 2 ^ 31 + 16
  · have hn : (fld v 0 4).toNat = v.toNat - 2 ^ 31 := by
      rw [fld_toNat]
      omega
    rw [hn, if_pos hw]
    by_cases hr : s.pkg.held = false ∧ s.training (v.toNat - 2 ^ 31) = false
    · obtain ⟨hh, ht⟩ := hr
      rw [if_pos (by rw [hz.mpr hw, hh, Option.any_some, ht]; rfl)]
      unfold State.onStack
      rw [show (fun k : Stack => { k with wake := some ctx }) = Stack.woken ctx from rfl, mapIf_eq_ite s.mstacks Stack.n _ (Stack.woken ctx)]
      simp only [hh, ht, and_self, and_true, Stack.woken]
    · rw [if_neg]
      · have hmap : (s.mstacks.map fun k => if k.n = v.toNat - 2 ^ 31 ∧ s.pkg.held = false ∧ s.training (v.toNat - 2 ^ 31) = false then
            { k with wake := some ctx } else k) = s.mstacks := List.map_id'' (fun k => if_neg fun h => hr h.2) _
        rw [hmap]
      · intro hb
        refine hr ?_
        simpa using (Bool.and_eq_true_iff.mp hb).2
  · rw [if_neg hw, if_neg (by simp [mt hz.mp hw])]

theorem sint_package : Steps .sintDelivery
    (fun s => s.fe.reloading = false ∧ ∃ ctx v r, s.fe.msgs = .sint ctx v :: r ∧ v.toNat = 2 ^ 30)
    fun s t => ∃ ctx v r, s.fe.msgs = .sint ctx v :: r ∧
      t = { s.leaves r with pkg := { s.pkg with wake := if s.pkg.held then s.pkg.wake else some ctx } } := by
  rintro s ⟨hload, ctx, v, r, hm, hv⟩
  refine ⟨_, sintDelivery_eq hload hm, ctx, v, r, hm, ?_⟩
  rw [if_neg (by omega), if_neg (by omega), State.wakeMgmt_package _ _ (by omega), if_pos hv]
  rfl

theorem sint_stack : Steps .sintDelivery
    (fun s => s.fe.reloading = false ∧ ∃ ctx v r, s.fe.msgs = .sint ctx v :: r ∧ 2 ^ 31 ≤ v.toNat ∧ v.toNat < 2 ^ 31 + 16)
    fun s t => ∃ ctx v r, s.fe.msgs = .sint ctx v :: r ∧ t = { s.leaves r with
      mstacks := s.mstacks.map fun k =>
        if k.n = v.toNat - 2 ^ 31 ∧ s.pkg.held = false ∧ s.training (v.toNat - 2 ^ 31) = false then { k with wake := some ctx } else k } := by
  rintro s ⟨hload, ctx, v, r, hm, hge, hlt⟩
  refine ⟨_, sintDelivery_eq hload hm, ctx, v, r, hm, ?_⟩
  rw [if_neg (by omega), if_neg (by omega), State.wakeMgmt_stack _ _ (by omega), if_pos hlt]
  rfl

theorem State.ring_idle {s : State} {q : Nat} {u : Queue} (hu : s.queue? q = some u) (hst : u.st = .absent ∨ u.st = .error) (v : Option Nat) :
    s.ring q v = s := by
  unfold State.ring
  rw [hu]
  exact if_pos (by simpa using hst)

/-- A wake without a value reads the ring of a STALLED queue again. -/
theorem State.ring_wake {s : State} {q : Nat} {u : Queue} (hu : s.queue? q = some u) (ha : u.st ≠ .absent) (he : u.st ≠ .error) :
    s.ring q none = (s.touchQueue q).reread q := by
  unfold State.ring
  rw [hu]
  exact if_neg (by simp [ha, he])

theorem sint_dropped : Steps .sintDelivery
    (fun s => s.fe.reloading = false ∧ ∃ ctx v r, s.fe.msgs = .sint ctx v :: r ∧
      (v.toNat / 2 ^ 30 = 3 ∨ v.toNat / 2 ^ 30 = 1 ∧ v.toNat ≠ 2 ^ 30 ∨ v.toNat / 2 ^ 30 = 2 ∧ 2 ^ 31 + 16 ≤ v.toNat ∨
        v.toNat / 2 ^ 30 = 0 ∧ (2 ^ 20 ≤ v.toNat ∨ ∀ u, s.queue? v.toNat = some u → u.ctx ≠ ctx ∨ u.st = .absent ∨ u.st = .error)))
    fun s t => ∃ m r, s.fe.msgs = m :: r ∧ t = s.leaves r := by
  rintro s ⟨hload, ctx, v, r, hm, hv⟩
  refine ⟨_, sintDelivery_eq hload hm, _, r, hm, ?_⟩
  obtain h3 | ⟨h1, hbits⟩ | ⟨h2, hbits⟩ | ⟨h0, hq⟩ := hv
  · rw [if_neg (by omega), if_pos h3]
  · rw [if_neg (by omega), if_neg (by omega), State.wakeMgmt_package _ _ h1, if_neg hbits]
  · rw [if_neg (by omega), if_neg (by omega), State.wakeMgmt_stack _ _ h2, if_neg (by omega)]
  · rw [if_pos h0]
    split
    · next hown =>
      obtain ⟨hlt, hany⟩ := hown
      obtain ⟨u, hu, hctx⟩ := (Option.any_eq_true _ _).mp hany
      obtain hge | hnone := hq
      · omega
      obtain hne | hst := hnone u hu
      · exact absurd (by simpa using hctx) hne
      · exact State.ring_idle (s := s.leaves r) hu hst none
    · rfl

/-- A wake that leaves the queue as it is. -/
theorem State.reread_stays {s : State} {q : Nat} {u : Queue} (hu : s.queue? q = some u)
    (h : u.st ≠ .stalled ∨ s.fetching u.ctx = false ∨ s.slotHeld u = true ∨ ∃ n, s.headerAt u = .ok n ∧ u.published n = false) : s.reread q = s := by
  unfold State.reread
  rw [hu]
  dsimp only
  split
  · rfl
  · next hgo =>
    simp only [Bool.or_eq_true, bne_iff_ne, Bool.not_eq_true', not_or, not_not, Bool.not_eq_false, Bool.not_eq_true] at hgo
    obtain ⟨⟨hst, hf⟩, hheld⟩ := hgo
    obtain h | h | h | ⟨n, hn, hp⟩ := h
    · exact absurd hst h
    · rw [hf] at h; contradiction
    · rw [hheld] at h; contradiction
    · rw [hn]
      exact if_neg (by simp [hp])

theorem sint_owner {s : State} {ctx : Nat} {v : Word} {r : List FeMsg} {u : Queue} (hload : s.fe.reloading = false)
    (hm : s.fe.msgs = .sint ctx v :: r) (hv : v.toNat < 2 ^ 20) (hu : s.queue? v.toNat = some u) (hctx : u.ctx = ctx) (ha : u.st ≠ .absent)
    (he : u.st ≠ .error) : exec .sintDelivery s = .next (((s.leaves r).touchQueue v.toNat).reread v.toNat) := by
  have hown : v.toNat < 2 ^ 20 ∧ (s.queue? v.toNat).any (fun u => u.ctx == ctx) = true := ⟨hv, by rw [hu]; simpa using hctx⟩
  rw [sintDelivery_eq hload hm, if_pos (by omega), if_pos hown, State.ring_wake (s := s.leaves r) hu ha he]

theorem sint_stays : Steps .sintDelivery
    (fun s => s.fe.reloading = false ∧ ∃ ctx v r u, s.fe.msgs = .sint ctx v :: r ∧ v.toNat < 2 ^ 20 ∧ s.queue? v.toNat = some u ∧ u.ctx = ctx ∧
      (u.st = .idle ∨ u.st = .active ∨ u.st = .blocked ∨ u.st = .out ∨ u.st = .stalled ∧ (s.fetching ctx = false ∨
        ((s.leaves r).touchQueue v.toNat).slotHeld u = true ∨
          ∃ n, ((s.leaves r).touchQueue v.toNat).headerAt u = .ok n ∧ u.published n = false)))
    fun s t => ∃ ctx v r, s.fe.msgs = .sint ctx v :: r ∧ t = (s.leaves r).touchQueue v.toNat := by
  rintro s ⟨hload, ctx, v, r, u, hm, hv, hu, hctx, hst⟩
  have hlive : u.st ≠ .absent ∧ u.st ≠ .error := by rcases hst with h | h | h | h | ⟨h, -⟩ <;> rw [h] <;> decide
  have hsaves := (s.leaves r).savesQcbs_touchQueue v.toNat
  have hq : ((s.leaves r).touchQueue v.toNat).queue? v.toNat = some u := (hsaves.queue? _).trans hu
  refine ⟨_, sint_owner hload hm hv hu hctx hlive.1 hlive.2, ctx, v, r, hm, State.reread_stays hq ?_⟩
  obtain h | h | h | h | ⟨-, h⟩ := hst
  · exact .inl (by rw [h]; decide)
  · exact .inl (by rw [h]; decide)
  · exact .inl (by rw [h]; decide)
  · exact .inl (by rw [h]; decide)
  · refine .inr (h.imp_left fun hf => ?_)
    rw [hsaves.fetching, hctx]
    exact hf

theorem sint_wakes : Steps .sintDelivery
    (fun s => s.fe.reloading = false ∧ ∃ ctx v r u n, s.fe.msgs = .sint ctx v :: r ∧ v.toNat < 2 ^ 20 ∧ s.queue? v.toNat = some u ∧ u.ctx = ctx ∧
      u.st = .stalled ∧ s.fetching ctx = true ∧ ((s.leaves r).touchQueue v.toNat).slotHeld u = false ∧
      ((s.leaves r).touchQueue v.toNat).headerAt u = .ok n ∧ u.published n = true)
    fun s t => ∃ ctx v r, s.fe.msgs = .sint ctx v :: r ∧ t = { (s.leaves r).touchQueue v.toNat with
      queues := s.queues.map fun w => if w.id = v.toNat then { w with st := .active } else w } := by
  rintro s ⟨hload, ctx, v, r, u, n, hm, hv, hu, hctx, hst, hf, hheld, hn, hp⟩
  have hlive : u.st ≠ .absent ∧ u.st ≠ .error := by rw [hst]; decide
  have hsaves := (s.leaves r).savesQcbs_touchQueue v.toNat
  have htouch : ((s.leaves r).touchQueue v.toNat).Touched v.toNat := State.touched_touchQueue (State.liveQueue_of (s := s.leaves r) hu hlive.1)
  have hq : ((s.leaves r).touchQueue v.toNat).queue? v.toNat = some u := (hsaves.queue? _).trans hu
  refine ⟨_, sint_owner hload hm hv hu hctx hlive.1 hlive.2, ctx, v, r, hm, ?_⟩
  have hqueues : ((s.leaves r).touchQueue v.toNat).queues = s.queues := hsaves.queues
  have hgo : ((s.leaves r).touchQueue v.toNat).fetching u.ctx = true := by
    rw [hsaves.fetching, hctx]
    exact hf
  generalize (s.leaves r).touchQueue v.toNat = w at htouch hq hqueues hgo hheld hn ⊢
  unfold State.reread
  rw [hq]
  dsimp only
  rw [if_neg (by simp [hst, hgo, hheld]), hn]
  dsimp only
  rw [if_pos hp, State.enterQueue_active hq, htouch.again, State.onQueue_eq_map, hqueues]

/-! ### Reload of the logic block (R342) -/

theorem feRuns_of {s : State} (hd : s.pkg.stage = .d) (hh : s.pkg.held = false) : s.feRuns = true := by
  unfold State.feRuns
  rw [hd, hh]
  rfl

theorem beginReload_steps (i : Instr) (hi : i = .configEccError ∨ ∃ q, i = .frontEndWatchdog q) : Steps i
    (fun s => s.pkg.stage = .d ∧ s.pkg.held = false ∧ s.fe.reloading = false ∧
      ∀ q, i = .frontEndWatchdog q → ∃ u, s.queue? q = some u ∧ (u.st = .active ∨ u.st = .stalled) ∧ u.rdidx < u.tail)
    fun s t => t = { s with
      queues := s.queues.map fun u =>
        { u with packet := if u.st == .blocked && u.packet.isSome then some [] else none, feFault := none }
      fe := { s.fe with reloading := true } } := by
  rintro s ⟨hd, hh, hload, hwork⟩
  refine ⟨s.beginReload, ?_, rfl⟩
  obtain rfl | ⟨q, rfl⟩ := hi
  · exact if_pos (by rw [feRuns_of hd hh, hload]; rfl)
  · obtain ⟨u, hu, hst, hlt⟩ := hwork q rfl
    refine if_pos ?_
    rw [feRuns_of hd hh, hload, hu]
    simpa using ⟨hst, hlt⟩

theorem State.signal_fe (s : State) (n : Nat) :
    (s.signal n).fe = { s.fe with hsig := (s.signal n).fe.hsig, notified := (s.signal n).fe.notified } := by
  unfold State.signal
  split <;> rfl

theorem logicBlockReload_steps : Steps .logicBlockReload (fun s => s.fe.reloading = true)
    fun s t => ∃ s1, s1.fe = { s.fe with reloading := false, reloads := s.fe.reloads + 1, heldBells := [], hsig := s1.fe.hsig, notified := s1.fe.notified } ∧
      s1.fe.hsig = s.fe.hsig ||| 4 ∧ s1.pkg = { s.pkg with log := s.pkg.log ++ [.reload s.evSeq] } ∧ s1.evSeq = s.evSeq + 1 ∧
      { s1 with fe := s.fe, pkg := s.pkg, evSeq := s.evSeq } = s ∧
      t = s.fe.mbxq.foldl State.serveHeld (s.fe.heldBells.foldl (fun a e => a.ringOrHold e.1 e.2.1.toNat e.2.2) s1) := by
  intro s hload
  generalize hb : ((s.onFe fun f => { f with reloading := false, reloads := f.reloads + 1, heldBells := [] }).onPkg fun p =>
    { p with log := p.log ++ [.reload s.evSeq] }) = b
  have hrest := b.signal_rest 2
  have hsig := b.signal_hsig 2
  have hrun : exec .logicBlockReload s = .next (s.fe.mbxq.foldl State.serveHeld
      (s.fe.heldBells.foldl (fun a e => a.ringOrHold e.1 e.2.1.toNat e.2.2) (b.signal 2).nextSeqNo)) := by
    change execLogicBlockReload s = _
    unfold execLogicBlockReload State.mgmtLog
    rw [hload, if_neg (by decide), hb]
  have hfe : b.fe = { s.fe with reloading := false, reloads := s.fe.reloads + 1, heldBells := [] } := by rw [← hb]; rfl
  have hpkg : b.pkg = { s.pkg with log := s.pkg.log ++ [.reload s.evSeq] } := by rw [← hb]; rfl
  have hseq : b.evSeq = s.evSeq := by rw [← hb]; rfl
  have hb' : { b with fe := s.fe, pkg := s.pkg, evSeq := s.evSeq } = s := by rw [← hb]; rfl
  refine ⟨_, hrun, (b.signal 2).nextSeqNo, ?_, ?_, (congrArg State.pkg hrest).trans hpkg,
    congrArg (· + 1) ((congrArg State.evSeq hrest).trans hseq), ?_, rfl⟩
  · exact (b.signal_fe 2).trans
      (congrArg (fun f : FrontEnd => { f with hsig := (b.signal 2).fe.hsig, notified := (b.signal 2).fe.notified }) hfe)
  · exact hsig.trans (congrArg (· ||| 4) (congrArg FrontEnd.hsig hfe :))
  · exact (congrArg (fun z : State => { z with fe := s.fe, pkg := s.pkg, evSeq := s.evSeq }) hrest).trans hb'

/-- Settles O37, message by message, and the reload's two ends. -/
theorem frontEndSteps : Obligations.FrontEndSteps :=
  ⟨qbell_rings, qbell_dropped, qbell_held, sint_package, sint_stack, sint_dropped, sint_stays, sint_wakes, beginReload_steps,
    logicBlockReload_steps⟩

end Sys2Proof.Machine
end

section
/-!
SUPPORT. Writes as readers outside a group see them; host transactions and accesses of other packages (R380, R387, R404-R407, R411); collective
instances (R414).
-/
namespace Sys2Proof.Machine

/-! ### Writes as a reader outside the group sees them -/

theorem Stores.refl (s : State) : Stores s s s.byte := ⟨fun _ => rfl, rfl, rfl, rfl, fun _ _ => rfl⟩

theorem Stores.trans {s t u : State} {m n : Nat → Byte} (h : Stores s t m) (k : Stores t u n) : Stores s u n where
  bytes := k.bytes
  rest := (congrArg (fun x : State => { x with mem := s.mem, lost := s.lost, cache := s.cache, groups := s.groups, teams := s.teams, dies := s.dies,
                                               cores := s.cores, free := s.free, losses := s.losses }) k.rest :).trans h.rest
  groups := k.groups.trans h.groups
  teams := k.teams.trans h.teams
  cores die site := (k.cores die site).trans (h.cores die site)

theorem Stores.congr {s t : State} {m n : Nat → Byte} (h : Stores s t m) (e : ∀ k, m k = n k) : Stores s t n :=
  ⟨fun k => (h.bytes k).trans (e k), h.rest, h.groups, h.teams, h.cores⟩

theorem State.stores_store (s : State) (k : Nat) (bs : List Byte) :
    Stores s (s.store k bs) (putAt s.byte ((List.range bs.length).map fun j => k + j) bs) where
  bytes q := congrFun (s.byte_store k bs) q
  rest := (congrArg (fun x : State => { x with free := s.free }) (s.writeEvent_store k bs).rest :)
  groups := by
    obtain ⟨F, hF, hf⟩ := (s.writeEvent_store k bs).groups
    rw [hF, List.map_map]
    exact List.map_congr_left fun g _ => Group.quiet_of_fired (hf g)
  teams := by
    obtain ⟨F, hF, hf⟩ := (s.writeEvent_store k bs).teams
    rw [hF, List.map_map]
    exact List.map_congr_left fun x _ => (congrArg Team.still (hf x) :)
  cores := (s.writeEvent_store k bs).cores

/-- What a byte reads as after a write. -/
theorem State.byte_store_eq (s : State) (k : Nat) (bs : List Byte) (q : Nat) :
    (s.store k bs).byte q = if k ≤ q ∧ q < k + bs.length then bs.getD (q - k) 0 else s.byte q := by
  unfold State.byte
  rw [State.store_mem, look_putBytes]

/-! ### Masked writes (R404, R406) -/

theorem getElem_takeWhile_range {n j : Nat} {p : Nat → Bool} (h : j < ((List.range n).takeWhile p).length) : p j = true := by
  have hj : ((List.range n).takeWhile p)[j] = j := by
    rw [(List.takeWhile_prefix p).getElem h, List.getElem_range]
  have := List.mem_takeWhile_imp (List.getElem_mem h)
  rwa [hj] at this

theorem lt_length_takeWhile_range {n m : Nat} {p : Nat → Bool} (hm : m < n) (h : ∀ j ≤ m, p j = true) :
    m < ((List.range n).takeWhile p).length := by
  obtain ⟨d, rfl⟩ := Nat.exists_eq_add_of_le (Nat.succ_le_of_lt hm)
  rw [List.range_add, List.takeWhile_append_of_pos fun j hj => h j (Nat.lt_succ_iff.mp (List.mem_range.mp hj)), List.length_append, List.length_range]
  omega

/-- The bytes of a run are bytes of the mask. -/
theorem testBit_of_mem_maskRuns {mask j : Nat} {r : Nat × Nat} (h : r ∈ maskRuns mask) (hj : j < r.2) : mask.testBit (r.1 + j) = true := by
  obtain ⟨i, -, hi⟩ := List.mem_filterMap.mp h
  split at hi
  · cases hi
    exact getElem_takeWhile_range (p := fun j => mask.testBit (i + j)) hj
  · contradiction

/-- A one that is reached from the first of its run. -/
theorem exists_run_start {mask j : Nat} (h : mask.testBit j = true) :
    ∃ i ≤ j, (i = 0 ∨ mask.testBit (i - 1) = false) ∧ ∀ l, i ≤ l → l ≤ j → mask.testBit l = true := by
  induction j with
  | zero => exact ⟨0, le_rfl, .inl rfl, fun l _ hl => by rwa [Nat.le_zero.mp hl]⟩
  | succ j ih =>
    cases hb : mask.testBit j with
    | false =>
      refine ⟨j + 1, le_rfl, .inr hb, fun l hl hl' => ?_⟩
      rwa [Nat.le_antisymm hl' hl]
    | true =>
      obtain ⟨i, hi, hs, hr⟩ := ih hb
      refine ⟨i, hi.trans (Nat.le_succ j), hs, fun l hl hl' => ?_⟩
      obtain hlt | rfl := Nat.lt_or_eq_of_le hl'
      · exact hr l hl (Nat.lt_succ_iff.mp hlt)
      · exact h

/-- Each byte of the mask is one of a run. -/
theorem exists_run_of_testBit {mask j : Nat} (hj : j < 64) (h : mask.testBit j = true) : ∃ r ∈ maskRuns mask, r.1 ≤ j ∧ j < r.1 + r.2 := by
  obtain ⟨i, hi, hs, hr⟩ := exists_run_start h
  have hstart : (mask.testBit i && (i == 0 || !mask.testBit (i - 1))) = true := by
    rw [hr i le_rfl hi]
    simpa using hs
  have hlen := lt_length_takeWhile_range (n := 64 - i) (m := j - i) (p := fun l => mask.testBit (i + l)) (by omega)
    fun l hl => hr _ (Nat.le_add_right i l) (by omega)
  exact ⟨_, List.mem_filterMap.mpr ⟨i, List.mem_range.mpr (by omega), if_pos hstart⟩, hi, by dsimp only; omega⟩

theorem toBytes_getD (n x j : Nat) (h : j < n) : (toBytes n x).getD j 0 = BitVec.ofNat 8 (x / 256 ^ j) := by
  induction n generalizing x j with
  | zero => omega
  | succ n ih =>
    cases j with
    | zero => simp [toBytes]
    | succ j =>
      rw [toBytes, List.getD_cons_succ, ih _ _ (Nat.lt_of_succ_lt_succ h), Nat.div_div_eq_div_mul, pow_succ']

/-- A run's bytes written. -/
theorem State.byte_storeRun (s : State) (k data : Nat) (r : Nat × Nat) (q : Nat) :
    (s.store (k + r.1) (dataBytes data r.1 r.2)).byte q =
      if k + r.1 ≤ q ∧ q < k + r.1 + r.2 then BitVec.ofNat 8 (data / 256 ^ (q - k)) else s.byte q := by
  rw [State.byte_store_eq]
  unfold dataBytes
  rw [toBytes_length]
  split
  · next h =>
    rw [toBytes_getD _ _ _ (by omega), Nat.div_div_eq_div_mul, ← pow_add]
    congr 3
    omega
  · rfl

/-- Runs of bytes written one after the other. -/
theorem State.stores_runs (k data : Nat) (l : List (Nat × Nat)) (s : State) :
    Stores s (l.foldl (fun t r => t.store (k + r.1) (dataBytes data r.1 r.2)) s) fun q =>
      if ∃ r ∈ l, k + r.1 ≤ q ∧ q < k + r.1 + r.2 then BitVec.ofNat 8 (data / 256 ^ (q - k)) else s.byte q := by
  induction l generalizing s with
  | nil => exact (Stores.refl s).congr fun q => by simp
  | cons r l ih =>
    refine ((s.stores_store _ _).trans (ih _)).congr fun q => ?_
    simp only [List.mem_cons, exists_eq_or_imp]
    rw [State.byte_storeRun]
    by_cases hl : ∃ r ∈ l, k + r.1 ≤ q ∧ q < k + r.1 + r.2
    · rw [if_pos hl, if_pos (.inr hl)]
    · rw [if_neg hl]
      exact if_congr (by simp [hl]) rfl rfl

/-- A masked write changes the bytes of its mask, and no others. -/
theorem State.stores_storeMask (s : State) (k data : Nat) {mask : Nat} (hmask : mask < 2 ^ 64) :
    Stores s (s.storeMask k mask data) fun q => if k ≤ q ∧ mask.testBit (q - k) then BitVec.ofNat 8 (data / 256 ^ (q - k)) else s.byte q := by
  refine (State.stores_runs k data (maskRuns mask) s).congr fun q => if_congr ⟨?_, ?_⟩ rfl rfl
  · rintro ⟨r, hr, hlo, hhi⟩
    have := testBit_of_mem_maskRuns hr (j := q - k - r.1) (by omega)
    exact ⟨by omega, by rwa [show r.1 + (q - k - r.1) = q - k by omega] at this⟩
  · rintro ⟨hk, hbit⟩
    have hlt : q - k < 64 := by
      by_contra hge
      rw [Nat.testBit_lt_two_pow (hmask.trans_le (Nat.pow_le_pow_right (by decide) (by omega)))] at hbit
      contradiction
    obtain ⟨r, hr, hlo, hhi⟩ := exists_run_of_testBit hlt hbit
    exact ⟨r, hr, by omega, by omega⟩

/-! ### Host reads of the register window (R343, R380, R404-R407, R410) -/

theorem inAperture_of {a base size o : Nat} (h : a = base + o) (ho : o < size) : inAperture a base size = some o := by
  unfold inAperture
  rw [if_pos (by simp; omega), h, Nat.add_sub_cancel_left]

theorem inAperture_none {a base size : Nat} (h : ¬(base ≤ a ∧ a < base + size)) : inAperture a base size = none := by
  unfold inAperture
  exact if_neg (by simpa using h)

/-- A read of a register. -/
theorem hostRead_window {s : State} {addr : DWord} {ord : Bool} {n off : Nat} (halign : s.pkg.hrwbase.toNat % 64 = 0)
    (ha : addr.toNat = s.pkg.hrwbase.toNat + off) (hoff : off < 2 ^ 25) (hn : 0 < n) (hin : off % 64 + n ≤ 64) :
    exec (.hostRead addr n ord) s = .next (s.readWindow off n) := by
  have hg : inGranule addr.toNat n = true := by
    unfold inGranule
    simp
    omega
  change execHostRead addr n ord s = _
  unfold execHostRead
  dsimp only
  rw [hg, if_neg (by decide), inAperture_of ha hoff]

theorem State.readWindow_reg32 {s : State} {off : Nat} {v : Word} (hd : s.pkg.stage = .d) (hr : s.reg32 off = some v) :
    s.readWindow off 4 = s.answer v.toNat := by
  unfold State.readWindow State.hostReady
  rw [if_neg (by simp), hd, if_neg (by decide), if_pos rfl, hr]
  rfl

theorem State.readWindow_reg64 {s : State} {off v : Nat} (hd : s.pkg.stage = .d) (hstat : ¬(0x040 ≤ off ∧ off < 0x0C0)) (h8 : off % 8 = 0)
    (hbell : off < 0x100000) (hr : s.reg64 off = some v) : s.readWindow off 8 = s.answer v := by
  have hb : bellQueue off = none := if_neg (by simp; omega)
  have hp : progressQueue off = none := if_neg (by simp; omega)
  unfold State.readWindow State.hostReady
  rw [if_neg (by simp; omega), hd, if_neg (by decide), if_neg (by decide), if_pos (by simp [h8]), hb, hp, hr]
  rfl

theorem State.reg64_port {s : State} {p : Nat} {u : Port} (hp : p < 16) (hu : s.port? p = some u) : s.reg64 (0x0C0 + 8 * p) = some u.stat.toNat := by
  unfold State.reg64
  rw [if_neg (by omega), if_neg (by omega), if_neg (by omega), if_neg (by omega), if_pos (by simp; omega),
    show (0x0C0 + 8 * p - 0x0C0) / 8 = p by omega, hu]
  rfl

theorem State.reg64_expt (s : State) {i : Nat} (hi : i < 32) : s.reg64 (0x200 + 8 * i) = some (Sparse.look s.fe.expt i).toNat := by
  unfold State.reg64
  rw [if_neg (by omega), if_neg (by omega), if_neg (by omega), if_neg (by omega), if_neg (by simp; omega), if_pos (by simp; omega),
    show (0x200 + 8 * i - 0x200) / 8 = i by omega]

theorem ctxStatus_reg {b : Option Nat} {n : Nat} (hn : n < 8) :
    (BitVec.ofNat 32 ((if b.isSome then 2 ^ 31 else 0) + 2 ^ 28 * n)).toNat = (if b = none then 0 else 2 ^ 31) + 2 ^ 28 * n % 2 ^ 31 := by
  rw [BitVec.toNat_ofNat]
  cases b with
  | none => simp; omega
  | some q => simp; omega

theorem hostRead_register (addr : DWord) (ord : Bool) (off n v : Nat) : Steps (.hostRead addr n ord)
    (fun s => s.pkg.stage = .d ∧ s.pkg.hrwbase.toNat % 64 = 0 ∧ addr.toNat = s.pkg.hrwbase.toNat + off ∧
      ((n, off, v) ∈ [(8, 0x000, s.fe.ctxarg.toNat), (4, 0x008, (if s.fe.ctxBusy = none then 0 else 2 ^ 31) + 2 ^ 28 * s.fe.ctxStatus % 2 ^ 31),
          (8, 0x010, s.fe.qtbase.toNat), (4, 0x018, s.fe.qtlog.toNat), (8, 0x020, s.fe.mbtbase.toNat), (8, 0x028, s.fe.qarg.toNat),
          (4, 0x140, s.fe.hsig.toNat), (4, 0x148, s.fe.domid.toNat)] ∨
        (∃ p u, p < 16 ∧ n = 8 ∧ off = 0x0C0 + 8 * p ∧ s.port? p = some u ∧ v = u.stat.toNat) ∨
        ∃ i, i < 32 ∧ n = 8 ∧ off = 0x200 + 8 * i ∧ v = (Sparse.look s.fe.expt i).toNat) ∧ s.fe.ctxStatus < 8)
    fun s t => t = { s with free := s.free + 0, fe := { s.fe with reads := v :: s.fe.reads } } := by
  rintro s ⟨hd, halign, ha, hreg, hstatus⟩
  suffices h : off < 0x1000 ∧ 0 < n ∧ off % 64 + n ≤ 64 ∧ s.readWindow off n = s.answer v by
    obtain ⟨hoff, hn, hin, hw⟩ := h
    exact ⟨_, hostRead_window halign ha (by omega) hn hin, hw⟩
  obtain hfixed | ⟨p, u, hp, rfl, rfl, hu, rfl⟩ | ⟨i, hi, rfl, rfl, rfl⟩ := hreg
  · simp only [List.mem_cons, Prod.mk.injEq, List.not_mem_nil, or_false] at hfixed
    obtain ⟨rfl, rfl, rfl⟩ | ⟨rfl, rfl, rfl⟩ | ⟨rfl, rfl, rfl⟩ | ⟨rfl, rfl, rfl⟩ | ⟨rfl, rfl, rfl⟩ | ⟨rfl, rfl, rfl⟩ | ⟨rfl, rfl, rfl⟩ |
      ⟨rfl, rfl, rfl⟩ := hfixed
    · exact ⟨by decide, by decide, by decide, State.readWindow_reg64 hd (by decide) rfl (by decide) rfl⟩
    · refine ⟨by decide, by decide, by decide, (State.readWindow_reg32 hd rfl).trans ?_⟩
      rw [ctxStatus_reg hstatus]
    · exact ⟨by decide, by decide, by decide, State.readWindow_reg64 hd (by decide) rfl (by decide) rfl⟩
    · exact ⟨by decide, by decide, by decide, State.readWindow_reg32 hd rfl⟩
    · exact ⟨by decide, by decide, by decide, State.readWindow_reg64 hd (by decide) rfl (by decide) rfl⟩
    · exact ⟨by decide, by decide, by decide, State.readWindow_reg64 hd (by decide) rfl (by decide) rfl⟩
    · refine ⟨by decide, by decide, by decide, (State.readWindow_reg32 hd rfl).trans ?_⟩
      rw [BitVec.toNat_setWidth, Nat.mod_eq_of_lt (s.fe.hsig.isLt.trans (by decide))]
    · exact ⟨by decide, by decide, by decide, State.readWindow_reg32 hd rfl⟩
  · exact ⟨by omega, by decide, by omega, State.readWindow_reg64 hd (by omega) (by omega) (by omega) (State.reg64_port hp hu)⟩
  · exact ⟨by omega, by decide, by omega, State.readWindow_reg64 hd (by omega) (by omega) (by omega) (s.reg64_expt hi)⟩

theorem State.reg64_progress (s : State) {q : Nat} {u : Queue} (done : Bool) (hq : q < 2 ^ 20) (hu : s.queue? q = some u) :
    s.reg64 (0x1000000 + 16 * q + if done then 8 else 0) = some (if u.st = .absent then 0 else if done then u.doneidx else u.rdidx) := by
  have hoff : (if done = true then 8 else 0) ≤ 8 := by cases done <;> decide
  unfold State.reg64 State.progressReg
  rw [if_neg (by omega), if_neg (by omega), if_neg (by omega), if_neg (by omega), if_neg (by simp; omega), if_neg (by simp; omega),
    if_neg (by simp; omega), if_pos (by simp; omega)]
  have hid : (0x1000000 + 16 * q + (if done then 8 else 0) - 0x1000000) / 16 = q := by omega
  have hdone : ((0x1000000 + 16 * q + (if done then 8 else 0)) % 16 == 8) = done := by
    cases done
    · simp
    · simp
      omega
  rw [hid, hdone, hu]

theorem hostRead_progress (addr : DWord) (ord : Bool) (q : Nat) (done : Bool) : Steps (.hostRead addr 8 ord)
    (fun s => s.pkg.stage = .d ∧ s.pkg.hrwbase.toNat % 64 = 0 ∧ q < 2 ^ 20 ∧ (∃ u, s.queue? q = some u) ∧
      addr.toNat = s.pkg.hrwbase.toNat + 0x1000000 + 16 * q + if done then 8 else 0)
    fun s t => ∃ u, s.queue? q = some u ∧ t = { s.touchQueue q with
      free := (s.touchQueue q).free + 0
      fe := { (s.touchQueue q).fe with reads := (if u.st = .absent then 0 else if done then u.doneidx else u.rdidx) :: (s.touchQueue q).fe.reads } } := by
  rintro s ⟨hd, halign, hq, ⟨u, hu⟩, ha⟩
  have hoff : (if done = true then 8 else 0) = 0 ∨ (if done = true then 8 else 0) = 8 := by cases done <;> simp
  have hwin := hostRead_window (s := s) (addr := addr) (ord := ord) (n := 8) (off := 0x1000000 + 16 * q + if done then 8 else 0) halign
    (by omega) (by omega) (by decide) (by omega)
  refine ⟨_, hwin, u, hu, ?_⟩
  have hb : bellQueue (0x1000000 + 16 * q + if done then 8 else 0) = none := if_neg (by simp; omega)
  have hp : progressQueue (0x1000000 + 16 * q + if done then 8 else 0) = some q := by
    unfold progressQueue
    rw [if_pos (by simp; omega)]
    congr 1
    omega
  have hr := s.reg64_progress done hq hu
  unfold State.readWindow State.hostReady
  rw [if_neg (by simp; omega), hd, if_neg (by decide), if_neg (by decide), if_pos (by simp; omega), hb, hp, hr]
  rfl

/-! ### Host accesses of device memory (R404, R405, R387) -/

/-- The key of a byte at an offset of the memory aperture. -/
def hostKey (o : Nat) : Nat := if o < 2 ^ 40 then o else 2 ^ 64 + (o - 2 ^ 40)

/-- Device memory that the host reaches: main memory of a stack with an owner, or a die's scratchpad. -/
def State.HostReaches (s : State) (o : Nat) : Prop :=
  o < 2 ^ 40 ∧ (o / 2 ^ 64 ≠ 0 ∨ ∃ q d, s.stack? (stackOf o) = some q ∧ q.st = .owned d) ∨
    2 ^ 40 ≤ o ∧ o < 2 ^ 40 + 2 ^ 30 ∧ o % 2 ^ 28 < 0x0C000000

theorem State.serveStack_owned {s : State} {pa d : Nat} {q : Stack} (hq : s.stack? (stackOf pa) = some q) (hst : q.st = .owned d) :
    s.serveStack pa = .bytes pa := by
  unfold State.serveStack physKey
  rw [hq]
  dsimp only
  rw [hst]
  dsimp only
  rw [Nat.zero_mul, Nat.zero_add]

theorem State.stack?_n {s : State} {n : Nat} {k : Stack} (h : s.stack? n = some k) : k.n = n := by simpa using List.find?_some h

theorem State.serveStack_failed {s : State} {pa : Nat} {q : Stack} (hq : s.stack? (stackOf pa) = some q) (hst : q.st = .failed) :
    s.serveStack pa = .lostStack (stackOf pa) := by
  unfold State.serveStack
  rw [hq]
  dsimp only
  rw [hst]
  dsimp only
  rw [State.stack?_n hq]

theorem State.serveHost_stack {s : State} {o : Nat} (hd : s.pkg.stage = .d) (hh : s.pkg.held = false) (ho : o < 2 ^ 40) :
    s.serveHost o = s.serveStack o := by
  unfold State.serveHost
  rw [hh, hd, if_neg (by decide), if_neg (by decide), if_pos ho]

theorem State.serveHost_of {s : State} {o : Nat} (hd : s.pkg.stage = .d) (hh : s.pkg.held = false) (h : s.HostReaches o) :
    s.serveHost o = .bytes (hostKey o) := by
  unfold hostKey
  obtain ⟨ho, hlive⟩ | ⟨hlo, hhi, hp⟩ := h
  · obtain hbig | ⟨q, d, hq, hst⟩ := hlive
    · exact absurd (Nat.div_eq_of_lt (ho.trans (by decide))) hbig
    · rw [State.serveHost_stack hd hh ho, State.serveStack_owned hq hst, if_pos ho]
  · have hpa : paOk 1 (o - 2 ^ 40) false = true := by
      unfold paOk
      simp
      omega
    unfold State.serveHost physKey
    rw [hh, hd, if_neg (by decide), if_neg (by decide), if_neg (by omega), if_pos hpa, if_neg (by omega), Nat.one_mul]

/-- An address of the memory aperture. -/
structure Mapped (s : State) (a o : Nat) : Prop where
  stage : s.pkg.stage = .d
  held : s.pkg.held = false
  at_ : a = s.pkg.hmabase.toNat + o
  lt : o < 2 ^ 41
  outside : ¬(s.pkg.hrwbase.toNat ≤ a ∧ a < s.pkg.hrwbase.toNat + 2 ^ 25)

theorem hostRead_memory {s : State} {addr : DWord} {ord : Bool} {n o : Nat} (hm : Mapped s addr.toNat o) (hn : 0 < n)
    (hin : addr.toNat % 64 + n ≤ 64) : exec (.hostRead addr n ord) s = match s.serveHost o with
      | .bytes k => .next ((s.drawN n).answer (ofBytes (s.outerBytes k n)))
      | .lostStack m => .next ((s.countHost m o).answer (256 ^ n - 1))
      | .held => .refused (.notEnabled "HOST_READ") := by
  have hg : inGranule addr.toNat n = true := by
    unfold inGranule
    simp [hn, hin]
  change execHostRead addr n ord s = _
  unfold execHostRead
  dsimp only
  rw [hg, if_neg (by decide), inAperture_none hm.outside, inAperture_of hm.at_ hm.lt] <;> rfl

theorem State.outerBytes_of {s : State} {k n : Nat} (h : ∀ i, i < n → s.isLost (k + i) 1 = false) : s.outerBytes k n = s.bytes k n :=
  List.map_congr_left fun i hi => if_neg (by rw [h i (List.mem_range.mp hi)]; decide)

theorem hostRead_bytes (addr : DWord) (ord : Bool) (n o : Nat) : Steps (.hostRead addr n ord)
    (fun s => Mapped s addr.toNat o ∧ 0 < n ∧ addr.toNat % 64 + n ≤ 64 ∧ s.HostReaches o ∧ ∀ i, i < n → s.isLost (hostKey o + i) 1 = false)
    fun s t => t = { s with free := s.free + n, fe := { s.fe with reads := s.readLE (hostKey o) n :: s.fe.reads } } := by
  rintro s ⟨hm, hn, hin, hreach, hlost⟩
  refine ⟨_, (hostRead_memory hm hn hin).trans ?_, rfl⟩
  rw [State.serveHost_of hm.stage hm.held hreach]
  dsimp only
  rw [State.outerBytes_of hlost]
  rfl

/-- An access to a FAILED stack, counted and logged by its controller. -/
def State.Counts (s t : State) (n pa : Nat) : Prop :=
  ∃ k q ch, s.stack? n = some k ∧ t.stack? n = some q ∧ q.st = k.st ∧ q.cecnt = k.cecnt ∧
    q.uecnt = (if k.uecnt = 0xFFFFFFFF then k.uecnt else k.uecnt + 1) ∧ q.lseq = k.lseq + 1 ∧
    (k.log.length < 256 → q.log = k.log ++ [⟨k.lseq, 64 * (pa / 64), 2, ch, k.cecnt, q.uecnt, k.logovf⟩]) ∧ { t with mstacks := s.mstacks } = s

theorem State.stack?_onStack (s : State) (n : Nat) (f : Stack → Stack) (h : ∀ k, (f k).n = k.n) :
    (s.onStack n f).stack? n = (s.stack? n).map f := by
  unfold State.stack? State.onStack mapIf
  dsimp only
  rw [find?_map_key]
  · cases hf : s.mstacks.find? (·.n == n) with
    | none => rfl
    | some k =>
      have : k.n = n := by simpa using List.find?_some hf
      simp [this]
  · intro k
    split
    · rw [h]
    · rfl

theorem Stack.event_n (k : Stack) (kind pa ch : Nat) : (k.event kind pa ch).n = k.n := by
  unfold Stack.event
  dsimp only
  split <;> split <;> rfl

theorem Stack.event_uncorrectable (k : Stack) (pa ch : Nat) : k.event 2 pa ch = if k.log.length < 256 then
      { k with uecnt := satInc k.uecnt, lseq := k.lseq + 1, log := k.log ++ [⟨k.lseq, pa, 2, ch, k.cecnt, satInc k.uecnt, k.logovf⟩] }
    else { k with uecnt := satInc k.uecnt, lseq := k.lseq + 1, logovf := satInc k.logovf } := rfl

theorem State.counts_countHost {s : State} {n : Nat} {k : Stack} (hk : s.stack? n = some k) (pa : Nat) : s.Counts (s.countHost n pa) n pa := by
  unfold State.countHost
  refine ⟨k, _, (Config.channelOf (64 * (pa / 64))).toNat, hk, (s.stack?_onStack n _ fun k => k.event_n ..).trans (congrArg (Option.map _) hk), ?_⟩
  dsimp only
  rw [Stack.event_uncorrectable]
  split
  · exact ⟨rfl, rfl, rfl, rfl, fun _ => rfl, rfl⟩
  · next h => exact ⟨rfl, rfl, rfl, rfl, fun hlt => absurd hlt h, rfl⟩

theorem hostRead_failed (addr : DWord) (ord : Bool) (n o : Nat) : Steps (.hostRead addr n ord)
    (fun s => Mapped s addr.toNat o ∧ 0 < n ∧ addr.toNat % 64 + n ≤ 64 ∧ o < 2 ^ 40 ∧ ∃ q, s.stack? (stackOf o) = some q ∧ q.st = .failed)
    fun s t => t.fe = { s.fe with reads := (256 ^ n - 1) :: s.fe.reads } ∧ s.Counts { t with fe := s.fe } (stackOf o) o := by
  rintro s ⟨hm, hn, hin, ho, q, hq, hst⟩
  refine ⟨(s.countHost (stackOf o) o).answer (256 ^ n - 1), (hostRead_memory hm hn hin).trans ?_, rfl, State.counts_countHost hq o⟩
  rw [State.serveHost_stack hm.stage hm.held ho, State.serveStack_failed hq hst]

theorem hostWrite_memory {s : State} {addr : DWord} {ord : Bool} {mask data o : Nat} (hm : Mapped s addr.toNat o) (halign : addr.toNat % 64 = 0)
    (hmask : mask < 2 ^ 64) : exec (.hostWrite addr mask data ord) s = match s.serveHost o with
      | .bytes k => .next (s.storeMask k mask data)
      | .lostStack n => .next (s.countHost n o)
      | .held => .refused (.notEnabled "HOST_WRITE") := by
  change execHostWrite addr mask data ord s = _
  unfold execHostWrite
  dsimp only
  rw [if_neg (by simp [halign]; omega), inAperture_none hm.outside, inAperture_of hm.at_ hm.lt] <;> rfl

theorem hostWrite_bytes (addr : DWord) (ord : Bool) (mask data o : Nat) : Steps (.hostWrite addr mask data ord)
    (fun s => Mapped s addr.toNat o ∧ addr.toNat % 64 = 0 ∧ mask < 2 ^ 64 ∧ s.HostReaches o)
    fun s t => Stores s t fun q => if hostKey o ≤ q ∧ mask.testBit (q - hostKey o) then BitVec.ofNat 8 (data / 256 ^ (q - hostKey o)) else s.byte q := by
  rintro s ⟨hm, halign, hmask, hreach⟩
  refine ⟨_, (hostWrite_memory hm halign hmask).trans ?_, s.stores_storeMask (hostKey o) data hmask⟩
  rw [State.serveHost_of hm.stage hm.held hreach]

theorem hostWrite_failed (addr : DWord) (ord : Bool) (mask data o : Nat) : Steps (.hostWrite addr mask data ord)
    (fun s => Mapped s addr.toNat o ∧ addr.toNat % 64 = 0 ∧ mask < 2 ^ 64 ∧ o < 2 ^ 40 ∧ ∃ q, s.stack? (stackOf o) = some q ∧ q.st = .failed)
    fun s t => s.Counts t (stackOf o) o := by
  rintro s ⟨hm, halign, hmask, ho, q, hq, hst⟩
  refine ⟨s.countHost (stackOf o) o, (hostWrite_memory hm halign hmask).trans ?_, State.counts_countHost hq o⟩
  rw [State.serveHost_stack hm.stage hm.held ho, State.serveStack_failed hq hst]

/-! ### Host writes of the register window (R326, R348, R406) -/

/-- A write of one register. -/
theorem hostWrite_window {s : State} {addr : DWord} {ord : Bool} {mask data o i n : Nat} (halign : addr.toNat % 64 = 0) (hmask : mask < 2 ^ 64)
    (ha : addr.toNat = s.pkg.hrwbase.toNat + o) (ho : o < 2 ^ 25) (hruns : maskRuns mask = [(i, n)]) (hi : i % n = 0) :
    exec (.hostWrite addr mask data ord) s = s.writeWindow (o + i) n (data / 256 ^ i % 256 ^ n) := by
  change execHostWrite addr mask data ord s = _
  unfold execHostWrite
  dsimp only
  rw [if_neg (by simp [halign]; omega), inAperture_of ha ho]
  dsimp only
  rw [hruns]
  exact if_pos (by simp [hi])

/-- The command of a CTXCMD operation (R326). -/
def commandOf (op c : Nat) : State → Host.Outcome State Fault Refusal :=
  match op with
  | 1 => execLoad c
  | 2 => execActivate c
  | 3 => execSwitchOut c
  | 4 => execResumeFault c
  | 5 => execClear c
  | 6 => execKill c
  | 7 => execFree c
  | op => execCtxcmdReservedOp op c

theorem ctxcmdStep_eq {v : Word} {c op : Nat} (hc : (fld v 0 12).toNat = c) (hop : (fld v 20 4).toNat = op) : ctxcmdStep v = commandOf op c := by
  subst hc hop
  rfl

theorem State.writeWindow_ctxcmd (s : State) (v : Nat) : s.writeWindow 8 4 v = ctxcmdStep (BitVec.ofNat 32 v) s := by
  unfold State.writeWindow
  exact if_pos rfl

theorem maskRuns_ctxcmd : maskRuns 0xF00 = [(8, 4)] := by decide

theorem hostWrite_ctxcmd {s : State} {addr : DWord} {ord : Bool} {data c op : Nat} (halign : s.pkg.hrwbase.toNat % 64 = 0)
    (ha : addr.toNat = s.pkg.hrwbase.toNat) (hc : c < 4096) (hlt : op < 16) (hop : data / 256 ^ 8 % 2 ^ 32 = op * 2 ^ 20 + c) :
    exec (.hostWrite addr 0xF00 data ord) s = commandOf op c s := by
  rw [hostWrite_window (o := 0) (by omega) (by decide) (by omega) (by decide) maskRuns_ctxcmd rfl, State.writeWindow_ctxcmd,
    show 256 ^ 4 = 2 ^ 32 by norm_num, hop]
  refine congrFun (ctxcmdStep_eq ?_ ?_) s
  · rw [fld_toNat, BitVec.toNat_ofNat]
    omega
  · rw [fld_toNat, BitVec.toNat_ofNat]
    omega

theorem hostWrite_commands (s : State) (addr : DWord) (ord : Bool) (data c op : Nat) (_hd : s.pkg.stage = .d) (halign : s.pkg.hrwbase.toNat % 64 = 0)
    (ha : addr.toNat = s.pkg.hrwbase.toNat) (hc : c < 4096) (hop : data / 256 ^ 8 % 2 ^ 32 = op * 2 ^ 20 + c) :
    (op = 1 → exec (.hostWrite addr 0xF00 data ord) s = exec (.load c) s) ∧ (op = 2 → exec (.hostWrite addr 0xF00 data ord) s = exec (.activate c) s) ∧
    (op = 3 → exec (.hostWrite addr 0xF00 data ord) s = exec (.switchOut c) s) ∧
    (op = 4 → exec (.hostWrite addr 0xF00 data ord) s = exec (.resumeFault c) s) ∧
    (op = 5 → exec (.hostWrite addr 0xF00 data ord) s = exec (.clear c) s) ∧ (op = 6 → exec (.hostWrite addr 0xF00 data ord) s = exec (.kill c) s) ∧
    (op = 7 → exec (.hostWrite addr 0xF00 data ord) s = exec (.free c) s) ∧
    (op = 0 ∨ 8 ≤ op ∧ op < 16 → exec (.hostWrite addr 0xF00 data ord) s = exec (.ctxcmdReservedOp op c) s) := by
  have h (hlt : op < 16) : exec (.hostWrite addr 0xF00 data ord) s = commandOf op c s := hostWrite_ctxcmd halign ha hc hlt hop
  refine ⟨?_, ?_, ?_, ?_, ?_, ?_, ?_, fun hr => ?_⟩
  · rintro rfl; exact h (by decide)
  · rintro rfl; exact h (by decide)
  · rintro rfl; exact h (by decide)
  · rintro rfl; exact h (by decide)
  · rintro rfl; exact h (by decide)
  · rintro rfl; exact h (by decide)
  · rintro rfl; exact h (by decide)
  · refine (h (by omega)).trans ?_
    obtain rfl | ⟨hlo, hhi⟩ := hr
    · rfl
    · interval_cases op <;> rfl

theorem maskRuns_bell {j : Nat} (hj : j < 8) : maskRuns (0xFF * 2 ^ (8 * j)) = [(8 * j, 8)] := by
  interval_cases j <;> decide

theorem hostWrite_doorbell (s : State) (addr : DWord) (ord : Bool) (data q : Nat) (_hd : s.pkg.stage = .d) (halign : s.pkg.hrwbase.toNat % 64 = 0)
    (hq : q < 2 ^ 20) (ha : addr.toNat = s.pkg.hrwbase.toNat + 0x100000 + 8 * q - 8 * (q % 8)) :
    exec (.hostWrite addr (0xFF * 2 ^ (8 * (q % 8))) data ord) s = exec (.doorbell q (BitVec.ofNat 64 (data / 256 ^ (8 * (q % 8))))) s := by
  have hj : q % 8 < 8 := Nat.mod_lt _ (by decide)
  have hmask : 0xFF * 2 ^ (8 * (q % 8)) < 2 ^ 64 := by
    have : 2 ^ (8 * (q % 8)) ≤ 2 ^ 56 := Nat.pow_le_pow_right (by decide) (by omega)
    omega
  refine (hostWrite_window (o := 0x100000 + 8 * q - 8 * (q % 8)) (by omega) hmask (by omega) (by omega) (maskRuns_bell hj) (by omega)).trans ?_
  rw [show 0x100000 + 8 * q - 8 * (q % 8) + 8 * (q % 8) = 0x100000 + 8 * q by omega]
  have hb : bellQueue (0x100000 + 8 * q) = some q := by
    unfold bellQueue
    rw [if_pos (by simp; omega)]
    congr 1
    omega
  unfold State.writeWindow
  dsimp only
  rw [if_neg (by decide), if_pos (by simp), if_neg (by omega), if_neg (by omega), hb]
  change execDoorbell q _ s = execDoorbell q _ s
  congr 1
  apply BitVec.eq_of_toNat_eq
  rw [BitVec.toNat_ofNat, BitVec.toNat_ofNat]
  exact Nat.mod_mod_of_dvd _ (by decide)

/-! ### Accesses of other packages (R411) -/

/-- Device memory that an access of another package reaches. -/
def State.Live (s : State) (k : Nat) : Prop := k / 2 ^ 64 ≠ 0 ∨ ∃ q d, s.stack? (stackOf k) = some q ∧ q.st = .owned d

/-- The bytes of an access of another package. -/
def remoteSize (a : RemoteAccess) : Nat := if a.write then a.data.length else a.len

theorem State.serveRemote {s : State} {pa : Nat} (h : s.Live (exportKey pa)) :
    (if pa / 2 ^ 44 % 4 = 0 then s.serveStack (pa % 2 ^ 40) else .bytes (exportKey pa)) = .bytes (exportKey pa) := by
  unfold State.Live exportKey at *
  split
  · next h0 =>
    rw [if_pos h0] at h
    have hk : physKey 0 (pa % 2 ^ 40) = pa % 2 ^ 40 := by unfold physKey; omega
    rw [hk] at h ⊢
    obtain hbig | ⟨q, d, hq, hst⟩ := h
    · omega
    · exact State.serveStack_owned hq hst
  · rfl

theorem remoteAccess_steps (acc : RemoteAccess) : Steps (.remoteAccess acc)
    (fun s => s.pkg.stage = .d ∧ (∃ p ∈ s.ports, p.st = .up ∨ p.st = .degraded) ∧ 0 < (remoteSize acc) ∧
      acc.pa % 64 + (remoteSize acc) ≤ 64 ∧ paOk 3 acc.pa false = true ∧ acc.pa < 2 ^ 52 ∧
      acc.pa / 2 ^ 46 % 64 = s.fe.domid.toNat % 64 ∧ (s.fe.exports acc.pa (remoteSize acc) acc.write = true →
        s.Live (exportKey acc.pa) ∧ (acc.write = false → ∀ i, i < acc.len → s.isLost (exportKey acc.pa + i) 1 = false)))
    fun s t =>
      (s.fe.exports acc.pa (remoteSize acc) acc.write = false → t = s) ∧
      (s.fe.exports acc.pa (remoteSize acc) acc.write = true →
        (acc.write = true → Stores s t (putAt s.byte ((List.range acc.data.length).map fun j => exportKey acc.pa + j) acc.data)) ∧
        (acc.write = false →
          t = { s with free := s.free + acc.len, fe := { s.fe with reads := s.readLE (exportKey acc.pa) acc.len :: s.fe.reads } })) := by
  rintro s ⟨hd, ⟨p, hp, hup⟩, hn, hin, hpa, hlt, hpkg, hlive⟩
  have hports : s.ports.any Port.carries = true := List.any_eq_true.mpr ⟨p, hp, by unfold Port.carries; simpa using hup⟩
  have hdom : (fld s.fe.domid 0 6).toNat = s.fe.domid.toNat % 64 := by
    rw [fld_toNat]
    norm_num
  have hgate : ¬((s.pkg.stage != .d || !s.ports.any Port.carries || (remoteSize acc) = 0 || !inGranule acc.pa (remoteSize acc) || !paOk 3 acc.pa false
      || 2 ^ 52 ≤ acc.pa || remotePkg acc.pa != (fld s.fe.domid 0 6).toNat) = true) := by
    unfold inGranule remotePkg
    rw [hdom, hports, hpa, hd]
    simp only [bne_iff_ne, Bool.or_eq_true, decide_eq_true_eq, Bool.not_eq_true', Bool.and_eq_false_iff, decide_eq_false_iff_not, not_or]
    simp
    omega
  have hrun : exec (.remoteAccess acc) s = if s.fe.exports acc.pa (remoteSize acc) acc.write = true then
      match (if acc.pa / 2 ^ 44 % 4 = 0 then s.serveStack (acc.pa % 2 ^ 40) else .bytes (exportKey acc.pa)) with
      | .held => .refused (.notEnabled "REMOTE_ACCESS")
      | .bytes k => if acc.write then .next (s.store k acc.data) else .next ((s.drawN (remoteSize acc)).answer (ofBytes (s.outerBytes k (remoteSize acc))))
      | .lostStack m => if acc.write then .next (s.countHost m (acc.pa % 2 ^ 40))
        else .next ((s.countHost m (acc.pa % 2 ^ 40)).answer (256 ^ (remoteSize acc) - 1))
      else .next s := by
    change execRemoteAccess acc s = _
    unfold execRemoteAccess
    refine (if_neg hgate).trans ?_
    unfold remoteSize
    cases s.fe.exports acc.pa (if acc.write then acc.data.length else acc.len) acc.write <;> rfl
  cases hexp : s.fe.exports acc.pa (remoteSize acc) acc.write with
  | false =>
    rw [hexp, if_neg (by decide)] at hrun
    exact ⟨s, hrun, fun _ => rfl, fun h => absurd (hexp.symm.trans h) (by decide)⟩
  | true =>
    obtain ⟨hl, hlost⟩ := hlive hexp
    rw [hexp, if_pos rfl, State.serveRemote hl] at hrun
    dsimp only at hrun
    cases hw : acc.write with
    | true =>
      rw [hw, if_pos rfl] at hrun
      rw [hw] at hexp
      exact ⟨_, hrun, fun h => absurd (hexp.symm.trans h) (by decide), fun _ => ⟨fun _ => s.stores_store _ _, nofun⟩⟩
    | false =>
      have hsize : (remoteSize acc) = acc.len := by unfold remoteSize; rw [hw]; rfl
      rw [hw, if_neg (by decide), hsize, State.outerBytes_of (hlost hw)] at hrun
      rw [hw] at hexp
      exact ⟨_, hrun, fun h => absurd (hexp.symm.trans h) (by decide), fun _ => ⟨nofun, fun _ => rfl⟩⟩

/-! ### STKSTAT (R380) -/

/-- The low word of STKSTAT. -/
def Stack.low (k : Stack) : Nat :=
  match k.st with
  | .training => 32 * (Stack.ports k.n).1
  | .owned g => 1 + 32 * g
  | .handing g d step => 2 + 32 * g + 128 * d + 512 * step
  | .failed => 3 + 32 * (Config.failedOwner k.n).toNat

theorem Stack.stat_eq (k : Stack) : k.stat = k.hseq ++ BitVec.ofNat 32 k.low := rfl

theorem Stack.stat_toNat (k : Stack) : k.stat.toNat = k.hseq.toNat * 2 ^ 32 + k.low % 2 ^ 32 := by
  rw [k.stat_eq, BitVec.toNat_append, BitVec.toNat_ofNat, ← Nat.shiftLeft_add_eq_or_of_lt (Nat.mod_lt _ (by decide)), Nat.shiftLeft_eq]

theorem stkstatRead_steps (n : Nat) : Steps (.stkstatRead n)
    (fun s => (s.pkg.stage = .b ∨ s.pkg.stage = .c ∨ s.pkg.stage = .d) ∧ ∃ k, s.stack? n = some k)
    fun s t => ∃ k v, s.stack? n = some k ∧ t = { s with free := s.free + 0, fe := { s.fe with reads := v :: s.fe.reads } } ∧
      v / 2 ^ 32 = k.hseq.toNat ∧ (k.st = .training → v % 32 = 0) ∧ (∀ d, k.st = .owned d → d < 4 → v % 2 ^ 32 = 1 + 32 * d) ∧
      (∀ a b i, k.st = .handing a b i → a < 4 → b < 4 → i < 8 → v % 2 ^ 32 = 2 + 32 * a + 128 * b + 512 * i) ∧ (k.st = .failed → v % 32 = 3) := by
  rintro s ⟨hstage, k, hk⟩
  have hready : s.statReady = true := by
    unfold State.statReady
    simpa [or_assoc] using hstage
  refine ⟨s.answer k.stat.toNat, ?_, k, k.stat.toNat, hk, rfl, ?_⟩
  · change execStkstatRead n s = _
    unfold execStkstatRead
    rw [hk]
    dsimp only
    rw [hready]
    rfl
  rw [Stack.stat_toNat]
  refine ⟨by omega, fun h => ?_, fun d h hd => ?_, fun a b i h ha hb hi => ?_, fun h => ?_⟩
  · have : k.low = 32 * (Stack.ports k.n).1 := by unfold Stack.low; rw [h]
    omega
  · have : k.low = 1 + 32 * d := by unfold Stack.low; rw [h]
    omega
  · have : k.low = 2 + 32 * a + 128 * b + 512 * i := by unfold Stack.low; rw [h]
    omega
  · have : k.low = 3 + 32 * (Config.failedOwner k.n).toNat := by unfold Stack.low; rw [h]
    omega

/-- Settles O39, transaction by transaction. -/
theorem hostAccess : Obligations.HostAccess := by
  refine ⟨hostRead_register, hostRead_progress, fun addr ord n o s => ?_, fun addr ord n o s => ?_, fun addr ord mask data o s => ?_,
    fun addr ord mask data o s => ?_, hostWrite_commands, hostWrite_doorbell, remoteAccess_steps, stkstatRead_steps⟩
  · rintro ⟨⟨hd, hh, ha, ho, hout⟩, hok⟩
    exact hostRead_bytes addr ord n o s ⟨⟨hd, hh, ha, ho, hout⟩, hok⟩
  · rintro ⟨⟨hd, hh, ha, ho, hout⟩, hok⟩
    exact hostRead_failed addr ord n o s ⟨⟨hd, hh, ha, ho, hout⟩, hok⟩
  · rintro ⟨⟨hd, hh, ha, ho, hout⟩, hok⟩
    exact hostWrite_bytes addr ord mask data o s ⟨⟨hd, hh, ha, ho, hout⟩, hok⟩
  · rintro ⟨⟨hd, hh, ha, ho, hout⟩, hok⟩
    exact hostWrite_failed addr ord mask data o s ⟨⟨hd, hh, ha, ho, hout⟩, hok⟩

/-! ### Bytes written to a team's memory (R203, R215) -/

theorem putAt_append (m : Nat → Byte) (ks ks' : List Nat) (bs bs' : List Byte) (h : ks.length = bs.length) :
    putAt m (ks ++ ks') (bs ++ bs') = putAt (putAt m ks bs) ks' bs' := by
  induction ks generalizing m bs with
  | nil =>
    obtain rfl := List.eq_nil_of_length_eq_zero h.symm
    rfl
  | cons k ks ih =>
    cases bs with
    | nil => contradiction
    | cons b bs => exact ih _ bs (Nat.succ.inj h)

theorem teamKey_add (team o j : Nat) : teamKey team (o + j) = teamKey team o + j := by
  unfold teamKey physKey
  omega

theorem two_pow_lt_teamKey (team o : Nat) : 2 ^ 40 < teamKey team o := by
  unfold teamKey physKey
  omega

/-- With nothing lost, a write outside main memory merges with nothing lost. -/
theorem State.mergedIn_zero {s : State} (h : s.lost = []) {k : Nat} (hk : 2 ^ 40 ≤ k) (n : Nat) : s.mergedIn k n = 0 := by
  unfold State.mergedIn State.mergesLost
  rw [h, decide_eq_false (Nat.not_lt.mpr hk)]
  rfl

theorem Place.loss_none {k n c : Nat} {count : Nat → Nat → Nat} (h : count k n = 0) : (⟨[(k, n)], [c]⟩ : Place).loss count = none := by
  unfold Place.loss
  simp [h, joinLosses]

theorem State.place_team (s : State) (x : Thread) {tm : Team} (k : AccKind) {a n : Nat} (hn : a + n ≤ tm.tmem) :
    s.place x tm 0 k a n = .ok ⟨[(teamKey tm.id a, n)], [0]⟩ := by
  have hk : teamMemKey tm a n = some (teamKey tm.id a) := if_neg (Nat.not_lt.mpr hn)
  unfold State.place
  simp only [hk]

/-- A write that merges with nothing lost. -/
theorem State.writeAt_of {s : State} {x : Thread} {tm : Team} {sp a n : Nat} {p : Place} (hp : s.place x tm sp .write a n = .ok p)
    (hl : p.loss s.mergedIn = none) : s.writeAt x tm sp (a : Nat) n = .ok p := by
  unfold State.writeAt
  rw [if_neg (Int.not_lt.mpr (Int.natCast_nonneg a)), Int.toNat_natCast, hp]
  simp only [Bool.false_eq_true, if_false, hl]

theorem State.writeAt_team {s : State} (x : Thread) {tm : Team} {a n : Nat} (hn : a + n ≤ tm.tmem) (hlost : s.lost = []) :
    s.writeAt x tm 0 (a : Nat) n = .ok ⟨[(teamKey tm.id a, n)], [0]⟩ :=
  State.writeAt_of (s.place_team x .write hn) (Place.loss_none (State.mergedIn_zero hlost (two_pow_lt_teamKey ..).le n))

theorem State.putPlace_team {s : State} {tm : Team} {a : Nat} {bs : List Byte} (hst : tm.st = .resident) (hn : a + bs.length ≤ tm.tmem)
    (hb : bs ≠ []) : s.putPlace tm 0 ⟨[(teamKey tm.id a, bs.length)], [0]⟩ bs = s.store (teamKey tm.id a) bs := by
  have hw : s.teamWindow tm = (teamKey tm.id 0, teamKey tm.id tm.tmem) := by
    unfold State.teamWindow
    rw [hst]
  have h0 : teamKey tm.id a = teamKey tm.id 0 + a := by rw [← teamKey_add, Nat.zero_add]
  have h1 : teamKey tm.id tm.tmem = teamKey tm.id 0 + tm.tmem := by rw [← teamKey_add, Nat.zero_add]
  unfold State.putPlace State.storeRuns State.storeRuns
  dsimp only
  rw [if_pos rfl, hw]
  dsimp only
  rw [List.take_length, List.take_of_length_le (by omega), show teamKey tm.id 0 - teamKey tm.id a = 0 by omega, List.drop_zero, if_neg hb,
    Nat.max_eq_left (by omega)]

/-! ### The results of instances (R414) -/

/-- The bytes of elements. -/
def collImage (ty : CollTy) (vals : List Word) : List Byte := vals.flatMap fun v => toBytes (collBytes ty) v.toNat

theorem collBytes_pos (ty : CollTy) : 0 < collBytes ty := by
  unfold collBytes
  split <;> decide

theorem length_collImage (ty : CollTy) (vals : List Word) : (collImage ty vals).length = vals.length * collBytes ty := by
  unfold collImage
  rw [List.length_flatMap]
  simp

theorem store_lost {s : State} (h : s.lost = []) (k : Nat) (bs : List Byte) : (s.store k bs).lost = [] := by
  rw [(s.writeEvent_store k bs).lost, h]
  rfl

/-- Keys of the elements of an array, of the first and of those behind it. -/
theorem range_keys (k e n : Nat) : ((List.range ((n + 1) * e)).map fun j => k + j) =
    ((List.range e).map fun j => k + j) ++ (List.range (n * e)).map fun j => k + e + j := by
  rw [Nat.succ_mul, Nat.add_comm, List.range_add, List.map_append, List.map_map]
  congr 1
  exact List.map_congr_left fun j _ => (Nat.add_assoc ..).symm

/-- A thread that stands at an element. -/
def Thread.standsAt (n : Nat) (u : Thread) : Thread := { u with idx := n }

/-- A result in team memory is written from the element on where its thread stands. -/
theorem State.collWrite_team {tm : Team} (ty : CollTy) (hst : tm.st = .resident) (vals : List Word) (s : State) (x : Thread)
    (hspace : descCtl x.desc 2 2 = 0) (hfit : fieldOf x.desc 0x08 8 + (x.idx + vals.length) * collBytes ty ≤ tm.tmem) (hlost : s.lost = []) :
    ∃ u, Stores s u (putAt s.byte ((List.range (vals.length * collBytes ty)).map fun j =>
        teamKey tm.id (fieldOf x.desc 0x08 8 + x.idx * collBytes ty) + j) (collImage ty vals)) ∧
      s.collWrite x tm ty vals = u.onThread x.id (Thread.standsAt (x.idx + vals.length)) := by
  induction vals generalizing s x with
  | nil => exact ⟨s, by simpa [collImage, putAt] using Stores.refl s, rfl⟩
  | cons v vals ih =>
    rw [List.length_cons, ← Nat.add_assoc, Nat.add_right_comm, Nat.add_mul, Nat.add_mul, Nat.one_mul] at hfit
    have hlen : (toBytes (collBytes ty) v.toNat).length = collBytes ty := toBytes_length ..
    have hput := State.putPlace_team (s := s) (bs := toBytes (collBytes ty) v.toNat) (a := fieldOf x.desc 0x08 8 + x.idx * collBytes ty) hst
      (by rw [hlen]; omega) (List.ne_nil_of_length_pos (by rw [hlen]; exact collBytes_pos ty))
    rw [hlen] at hput
    obtain ⟨u, hu, hrun⟩ := ih (s.store (teamKey tm.id (fieldOf x.desc 0x08 8 + x.idx * collBytes ty)) (toBytes (collBytes ty) v.toNat))
      { x with idx := x.idx + 1 } hspace (by dsimp only; rw [Nat.add_mul, Nat.add_mul, Nat.one_mul]; omega) (store_lost hlost ..)
    refine ⟨u, ((s.stores_store _ _).trans hu).congr fun q => ?_, ?_⟩
    · have himage : collImage ty (v :: vals) = toBytes (collBytes ty) v.toNat ++ collImage ty vals := List.flatMap_cons ..
      rw [List.length_cons, range_keys, himage, putAt_append _ _ _ _ _ (by simp), State.byte_store, hlen]
      dsimp only
      rw [Nat.add_mul, Nat.one_mul, ← Nat.add_assoc, teamKey_add tm.id (fieldOf x.desc 0x08 8 + x.idx * collBytes ty)]
    · have hw := State.writeAt_team (s := s) x (tm := tm) (a := fieldOf x.desc 0x08 8 + x.idx * collBytes ty) (n := collBytes ty) (by omega) hlost
      unfold State.collWrite
      rw [hspace, hw]
      dsimp only
      rw [hput, hrun, List.length_cons, Nat.add_assoc, Nat.add_comm 1]

/-! ### Collective instances (R414) -/

theorem State.pkgNo_eq (s : State) : s.pkgNo = s.fe.domid.toNat % 64 := by
  unfold State.pkgNo
  rw [fld_toNat]
  norm_num

/-- The thread of a collective and its team, with its participants not yet reduced. -/
def State.CollAt (s : State) (cg : Nat) (x : Thread) (tm : Team) (op : BitVec 2) (ty : CollTy) : Prop :=
  ∃ j, s.fe.joins.find? (fun j => j.cg == cg) = some j ∧ s.moving j.tid ThreadKind.described .running = some (x, tm) ∧ x.kind = .coll op ty ∧
    x.args = []

/-- The member packages of a collective group. -/
def State.members (s : State) (cg : Nat) : DWord := Sparse.look s.fe.cge (2 * cg)

/-- Every other member contributes. -/
def State.AllCome (s : State) (cg : Nat) (rs : List CollPart) : Prop :=
  ∀ k, k < 64 → (s.members cg).getLsbD k = true → k ≠ s.fe.domid.toNat % 64 → ∃ p ∈ rs, p.pkg = k

/-- The participants agree. -/
def State.AllAgree (s : State) (cg : Nat) (x : Thread) (op : BitVec 2) (ty : CollTy) (rs : List CollPart) : Prop :=
  ∀ p ∈ rs, p.members = s.members cg ∧ p.op = op ∧ p.ty = ty ∧ p.vals.length = x.total

theorem State.absent_iff (s : State) (cg : Nat) (rs : List CollPart) :
    ((List.range 64).any fun k => (s.members cg).getLsbD k && k != s.pkgNo && !(rs.any fun p => p.pkg == k)) = true ↔ ¬s.AllCome cg rs := by
  unfold State.AllCome
  rw [s.pkgNo_eq]
  simp only [List.any_eq_true, List.mem_range, Bool.and_eq_true, bne_iff_ne, Bool.not_eq_true', List.any_eq_false, beq_iff_eq]
  push Not
  simp only [and_assoc]

theorem State.agree_iff (s : State) (cg : Nat) (x : Thread) (op : BitVec 2) (ty : CollTy) (rs : List CollPart) :
    (rs.all fun p => p.members == s.members cg && p.op == op && p.ty == ty && p.vals.length == x.total) = true ↔ s.AllAgree cg x op ty rs := by
  unfold State.AllAgree
  simp only [List.all_eq_true, Bool.and_eq_true, beq_iff_eq, and_assoc]

theorem collectiveInstance_eq {s : State} {cg : Nat} {x : Thread} {tm : Team} {op : BitVec 2} {ty : CollTy} (rs : List CollPart)
    (h : s.CollAt cg x tm op ty) (hheld : s.collHeld x ty = false) :
    exec (.collectiveInstance cg rs) s = .next (s.collRun x tm op ty (s.members cg) rs) := by
  obtain ⟨j, hj, hm, hk, hargs⟩ := h
  change execCollectiveInstance cg rs s = _
  unfold execCollectiveInstance
  rw [hj]
  dsimp only
  rw [hm]
  dsimp only
  rw [hk]
  dsimp only
  rw [hheld, if_neg (by decide), if_pos hargs]
  rfl

theorem State.collRun_absent {s : State} {cg : Nat} {rs : List CollPart} (x : Thread) (tm : Team) (op : BitVec 2) (ty : CollTy)
    (h : ¬s.AllCome cg rs) : s.collRun x tm op ty (s.members cg) rs =
      (s.leaveColl x.id).raiseThread x { kind := .uncorrectable, addr := BitVec.ofNat 64 x.off, cls := 1 } :=
  if_pos ((s.absent_iff cg rs).mpr h)

theorem State.collRun_mismatch {s : State} {cg : Nat} {rs : List CollPart} {x : Thread} (tm : Team) {op : BitVec 2} {ty : CollTy}
    (hall : s.AllCome cg rs) (h : ¬s.AllAgree cg x op ty rs) : s.collRun x tm op ty (s.members cg) rs =
      (s.leaveColl x.id).raiseThread x { kind := .barrierCount, addr := BitVec.ofNat 64 x.off } :=
  (if_neg fun ha => (s.absent_iff cg rs).mp ha hall).trans (if_pos (by rw [Bool.not_eq_true', Bool.eq_false_iff]; exact mt (s.agree_iff ..).mp h))

/-- The elements that instances form. -/
def State.collVals (s : State) (x : Thread) (op : BitVec 2) (ty : CollTy) (members : DWord) (own : List Word) (rs : List CollPart) : List Word :=
  (List.range x.total).map fun e => collElement op.toNat ty
    ((s.pkgNo, own) :: (rs.filter fun p => members.getLsbD p.pkg).map fun p => (p.pkg, p.vals)) e

/-- A thread that holds the result of its collective. -/
def Thread.holds (vals : List Word) (u : Thread) : Thread := { u with args := vals }

theorem State.collRun_reduces {s : State} {cg : Nat} {rs : List CollPart} {x : Thread} {tm : Team} {op : BitVec 2} {ty : CollTy} {own : List Word}
    (hall : s.AllCome cg rs) (hsame : s.AllAgree cg x op ty rs) (hown : s.collSrc x tm ty x.total = .ok own) (horphan : x.orphan = false) :
    s.collRun x tm op ty (s.members cg) rs = ((s.onThread x.id (Thread.holds (s.collVals x op ty (s.members cg) own rs))).collWrite
      (x.holds (s.collVals x op ty (s.members cg) own rs)) tm ty (s.collVals x op ty (s.members cg) own rs)).settleColl x.id := by
  refine (if_neg fun ha => (s.absent_iff cg rs).mp ha hall).trans ((if_neg ?_).trans ?_)
  · rw [Bool.not_eq_true', (s.agree_iff cg x op ty rs).mpr hsame]
    decide
  · rw [hown]
    dsimp only
    exact congrArg (fun z : State => z.settleColl x.id) (if_neg (by rw [horphan]; decide))

/-- A join whose thread has written its whole result is done with. -/
theorem State.settleColl_written {s : State} {x : Thread} (h : s.thread? x.id = some x) (hi : x.idx = x.total) : s.settleColl x.id = s.leaveColl x.id := by
  unfold State.settleColl
  rw [h]
  exact if_pos (by simp [hi])

theorem collective_reduces (cg : Nat) (rs : List CollPart) : Steps (.collectiveInstance cg rs)
    (fun s => ∃ x tm op ty own, s.CollAt cg x tm op ty ∧ s.AllCome cg rs ∧ s.AllAgree cg x op ty rs ∧ s.collSrc x tm ty x.total = .ok own ∧
      s.collHeld x ty = false ∧ x.orphan = false ∧ x.idx = 0 ∧ tm.st = .resident ∧ s.lost = [] ∧ descCtl x.desc 2 2 = 0 ∧
      fieldOf x.desc 0x08 8 + x.total * collBytes ty ≤ tm.tmem)
    fun s t => ∃ x tm op ty own, s.CollAt cg x tm op ty ∧ s.collSrc x tm ty x.total = .ok own ∧
      let parts := (s.fe.domid.toNat % 64, own) :: (rs.filter fun p => (s.members cg).getLsbD p.pkg).map fun p => (p.pkg, p.vals)
      let vals := (List.range x.total).map fun e => collOut ty (treeReduce64 (collCombine op.toNat ty) fun k =>
        (parts.find? fun p => p.1 == k).map fun p => collIn ty (p.2.getD e 0))
      (∀ q, t.byte q = putAt s.byte ((List.range (x.total * collBytes ty)).map fun j => teamKey x.team (fieldOf x.desc 0x08 8) + j)
        (vals.flatMap fun v => toBytes (collBytes ty) v.toNat) q) ∧
      t.fe.joins = s.fe.joins.filter (fun j => j.tid != x.id) ∧
      t.threads = s.threads.map fun u => if u.id = x.id then { u with args := vals, idx := x.total } else u := by
  rintro s ⟨x, tm, op, ty, own, hat, hall, hsame, hown, hheld, horphan, hidx, hst, hlost, hspace, hfit⟩
  have hrun := (collectiveInstance_eq rs hat hheld).trans (congrArg _ (State.collRun_reduces hall hsame hown horphan))
  obtain ⟨j, -, hmoving, -, -⟩ := id hat
  obtain ⟨hthread, hteam, -, -⟩ := State.moving_eq_some hmoving
  have htid : x.id = j.tid := by simpa using List.find?_some hthread
  have hid : tm.id = x.team := by simpa using List.find?_some hteam
  rw [← htid] at hthread
  generalize hvals : s.collVals x op ty (s.members cg) own rs = vals at hrun
  have hlen : vals.length = x.total := by
    rw [← hvals]
    unfold State.collVals
    simp
  obtain ⟨u, hu, hwrite⟩ := State.collWrite_team ty hst vals (s.onThread x.id (Thread.holds vals)) (x.holds vals) hspace
    (by change fieldOf x.desc 8 8 + (x.idx + vals.length) * collBytes ty ≤ tm.tmem; rw [hidx, hlen, Nat.zero_add]; exact hfit) hlost
  have hthreads : u.threads = (s.onThread x.id (Thread.holds vals)).threads := (congrArg State.threads hu.rest :)
  have hfe : u.fe = s.fe := (congrArg State.fe hu.rest :)
  change _ = u.onThread x.id (Thread.standsAt (x.idx + vals.length)) at hwrite
  rw [hidx, Nat.zero_add, hlen] at hwrite
  have hfind : u.thread? x.id = some (x.holds vals) := by
    unfold State.thread?
    rw [hthreads]
    exact State.thread?_onThread (fun _ => rfl) hthread
  have hsettle : (u.onThread x.id (Thread.standsAt x.total)).settleColl x.id = (u.onThread x.id (Thread.standsAt x.total)).leaveColl x.id :=
    State.settleColl_written (x := (x.holds vals).standsAt x.total) (State.thread?_onThread (fun _ => rfl) hfind) rfl
  rw [hwrite, hsettle] at hrun
  have helems : vals = (List.range x.total).map fun e => collOut ty (treeReduce64 (collCombine op.toNat ty) fun k =>
      (((s.fe.domid.toNat % 64, own) :: (rs.filter fun p => (s.members cg).getLsbD p.pkg).map fun p => (p.pkg, p.vals)).find? fun p => p.1 == k).map
        fun p => collIn ty (p.2.getD e 0)) := by
    rw [← hvals, ← s.pkgNo_eq]
    rfl
  refine ⟨_, hrun, x, tm, op, ty, own, hat, hown, ?_⟩
  dsimp only
  rw [← helems]
  refine ⟨fun q => (hu.bytes q).trans ?_, ?_, ?_⟩
  · change putAt s.byte ((List.range (vals.length * collBytes ty)).map fun j => teamKey tm.id (fieldOf x.desc 8 8 + x.idx * collBytes ty) + j) _ q = _
    rw [hlen, hidx, Nat.zero_mul, Nat.add_zero, hid]
    rfl
  · change u.fe.joins.filter _ = _
    rw [hfe]
  · change mapIf u.threads _ _ = _
    rw [hthreads, State.onThread_eq_map]
    dsimp only
    rw [mapIf_eq_ite _ Thread.id x.id (Thread.standsAt x.total), List.map_map]
    refine List.map_congr_left fun y _ => ?_
    by_cases hy : y.id = x.id
    · simp [hy, Thread.holds, Thread.standsAt]
    · simp [hy]

theorem collective_mismatch (cg : Nat) (rs : List CollPart) : Steps (.collectiveInstance cg rs)
    (fun s => ∃ x tm op ty, s.CollAt cg x tm op ty ∧ s.collHeld x ty = false ∧ s.AllCome cg rs ∧ ¬s.AllAgree cg x op ty rs)
    fun s t => ∃ x tm op ty, s.CollAt cg x tm op ty ∧
      t = { s with fe := { s.fe with joins := s.fe.joins.filter fun j => j.tid != x.id } }.raiseThread x
        { kind := .barrierCount, addr := BitVec.ofNat 64 x.off } := by
  rintro s ⟨x, tm, op, ty, hat, hheld, hall, hsame⟩
  exact ⟨_, (collectiveInstance_eq rs hat hheld).trans (congrArg _ (State.collRun_mismatch tm hall hsame)), x, tm, op, ty, hat, rfl⟩

theorem collective_absent (cg : Nat) (rs : List CollPart) : Steps (.collectiveInstance cg rs)
    (fun s => ∃ x tm op ty, s.CollAt cg x tm op ty ∧ s.collHeld x ty = false ∧ ¬s.AllCome cg rs)
    fun s t => ∃ x tm op ty, s.CollAt cg x tm op ty ∧
      t = { s with fe := { s.fe with joins := s.fe.joins.filter fun j => j.tid != x.id } }.raiseThread x
        { kind := .uncorrectable, addr := BitVec.ofNat 64 x.off, cls := 1 } := by
  rintro s ⟨x, tm, op, ty, hat, hheld, hall⟩
  exact ⟨_, (collectiveInstance_eq rs hat hheld).trans (congrArg _ (State.collRun_absent x tm op ty hall)), x, tm, op, ty, hat, rfl⟩

/-- Settles O41, by the three outcomes of instances. -/
theorem collectives : Obligations.Collectives := ⟨collective_reduces, collective_mismatch, collective_absent⟩

end Sys2Proof.Machine
end

section
/-!
SUPPORT. What accesses of the front end read; the packets of a queue (R350-R357).
-/
namespace Sys2Proof.Machine

/-! ### What accesses of the front end read (R363-R371, R411) -/

/-- The states agree on all that a translated access reads: memory, what of it is lost, stacks, caches, windows and ports, and of each
context its record's place and its dies. -/
structure Reaches (s t : State) : Prop where
  mem : t.mem = s.mem
  lost : t.lost = s.lost
  mstacks : t.mstacks = s.mstacks
  tlb : t.tlb = s.tlb
  ports : t.ports = s.ports
  domid : t.fe.domid = s.fe.domid
  expt : t.fe.expt = s.fe.expt
  ctxs : ∀ c, (t.ctx? c).map (fun x => (x.recAddr, x.dies)) = (s.ctx? c).map fun x => (x.recAddr, x.dies)

/-- What a write event leaves as it was, of what accesses read. -/
theorem WriteEvent.outside {s t : State} {k : Nat} {bs : List Byte} (h : WriteEvent s t k bs) :
    t.mstacks = s.mstacks ∧ t.tlb = s.tlb ∧ t.ports = s.ports ∧ t.fe = s.fe ∧ t.ctxs = s.ctxs :=
  ⟨(congrArg State.mstacks h.rest :), (congrArg State.tlb h.rest :), (congrArg State.ports h.rest :), (congrArg State.fe h.rest :),
    (congrArg State.ctxs h.rest :)⟩

namespace Reaches

theorem refl (s : State) : Reaches s s := ⟨rfl, rfl, rfl, rfl, rfl, rfl, rfl, fun _ => rfl⟩

theorem trans {s t u : State} (h : Reaches s t) (k : Reaches t u) : Reaches s u :=
  ⟨k.mem.trans h.mem, k.lost.trans h.lost, k.mstacks.trans h.mstacks, k.tlb.trans h.tlb, k.ports.trans h.ports, k.domid.trans h.domid,
    k.expt.trans h.expt, fun c => (k.ctxs c).trans (h.ctxs c)⟩

theorem symm {s t : State} (h : Reaches s t) : Reaches t s :=
  ⟨h.mem.symm, h.lost.symm, h.mstacks.symm, h.tlb.symm, h.ports.symm, h.domid.symm, h.expt.symm, fun c => (h.ctxs c).symm⟩

variable {s t : State} (h : Reaches s t)
include h

theorem byte : t.byte = s.byte := by
  funext k
  unfold State.byte
  rw [h.mem]

theorem readLE (k n : Nat) : t.readLE k n = s.readLE k n := by
  unfold State.readLE State.bytes
  rw [h.byte]

theorem stack? (n : Nat) : t.stack? n = s.stack? n := by
  unfold State.stack?
  rw [h.mstacks]

theorem failed (n : Nat) : t.failed n = s.failed n := by
  unfold State.failed
  rw [h.stack?]

theorem isLost (k n : Nat) : t.isLost k n = s.isLost k n := by
  unfold State.isLost
  rw [h.lost, h.failed]

theorem mergesLost (k n : Nat) : t.mergesLost k n = s.mergesLost k n := by
  unfold State.mergesLost
  rw [h.lost, h.failed]

theorem keyHeld (k : Nat) : t.keyHeld k = s.keyHeld k := State.keyHeld_congr h.mstacks k

theorem refuses (w : Walker) (n : Nat) : t.refuses w n = s.refuses w n := by
  unfold State.refuses State.owns State.copyOf State.training State.portOpen State.draining
  simp only [h.stack?, h.failed]

theorem tlbHit (u : TlbUnit) (ctx va : Nat) : t.tlbHit u ctx va = s.tlbHit u ctx va := by
  unfold State.tlbHit
  rw [h.tlb]

theorem leafHit (w : Walker) (va : Nat) : t.leafHit w va = s.leafHit w va := by
  unfold State.leafHit
  rw [h.tlb]

theorem readEntry (w : Walker) (tgt pa : Nat) : t.readEntry w tgt pa = s.readEntry w tgt pa := by
  unfold State.readEntry
  rw [h.refuses, h.isLost, h.readLE]

theorem walkLevel (w : Walker) (va tgt table level : Nat) : t.walkLevel w va tgt table level = s.walkLevel w va tgt table level := by
  unfold State.walkLevel
  simp only [h.tlbHit, h.readEntry]

theorem walkFrom (w : Walker) (va level tgt table : Nat) : t.walkFrom w va level tgt table = s.walkFrom w va level tgt table := by
  induction level generalizing tgt table with
  | zero =>
    unfold State.walkFrom
    rw [h.walkLevel]
  | succ k ih =>
    unfold State.walkFrom
    simp only [h.walkLevel, ih]

/-- A field of a context's record. -/
theorem ctxField (ctx off n : Nat) : t.ctxField ctx off n = s.ctxField ctx off n := by
  have hc := h.ctxs ctx
  unfold State.ctxField State.record
  cases ht : t.ctx? ctx <;> cases hs : s.ctx? ctx <;> simp_all [h.readLE]

theorem fieldLoss (ctx off n : Nat) : t.fieldLoss ctx off n = s.fieldLoss ctx off n := by
  have hc := h.ctxs ctx
  unfold State.fieldLoss
  cases ht : t.ctx? ctx <;> cases hs : s.ctx? ctx <;> simp_all [h.isLost]

theorem rootOf (ctx : Nat) : t.rootOf ctx = s.rootOf ctx := by
  unfold State.rootOf
  rw [h.ctxField]

theorem leafOf (w : Walker) (va : Nat) : t.leafOf w va = s.leafOf w va := by
  unfold State.leafOf State.readsRecord
  rw [h.fieldLoss, h.leafHit, h.rootOf, h.walkFrom]

theorem translate (w : Walker) (k : AccKind) (va : Nat) : t.translate w k va = s.translate w k va := by
  unfold State.translate
  simp only [h.leafOf, h.refuses]

theorem reach (x : Xlat) (n : Nat) (write : Bool) : t.reach x n write = s.reach x n write := by
  unfold State.reach State.isLocal State.linked FrontEnd.exports
  rw [h.domid, h.expt, h.ports]

theorem access (w : Walker) (k : AccKind) (va n : Nat) : t.access w k va n = s.access w k va n := by
  unfold State.access
  simp only [h.translate, h.reach]

theorem feWalker (ctx : Nat) : t.feWalker ctx = s.feWalker ctx := by
  have hd : t.ctxDies ctx = s.ctxDies ctx := by
    have hc := h.ctxs ctx
    unfold State.ctxDies
    cases ht : t.ctx? ctx <;> cases hs : s.ctx? ctx <;> simp_all
  unfold State.feWalker State.feDie
  rw [h.rootOf, hd]

theorem feAccess (ctx : Nat) (k : AccKind) (va n : Nat) : t.feAccess ctx k va n = s.feAccess ctx k va n := by
  unfold State.feAccess
  rw [h.feWalker, h.access]

theorem wordTarget (ctx : Nat) (die : Option Nat) (a : Nat) : t.wordTarget ctx die a = s.wordTarget ctx die a := by
  unfold State.wordTarget State.wordKey State.windowKey State.spwlen State.spwbase
  simp only [h.feAccess, h.fieldLoss, h.ctxField, h.mergesLost]

/-- Writes of the same bytes keep the agreement. -/
theorem store (k : Nat) (bs : List Byte) : Reaches (s.store k bs) (t.store k bs) := by
  have hs := s.writeEvent_store k bs
  have ht := t.writeEvent_store k bs
  obtain ⟨sm, st, sp, sf, sc⟩ := hs.outside
  obtain ⟨tm, tt, tp, tf, tc⟩ := ht.outside
  refine ⟨?_, ?_, by rw [sm, tm, h.mstacks], by rw [st, tt, h.tlb], by rw [sp, tp, h.ports], by rw [sf, tf, h.domid], by rw [sf, tf, h.expt],
    fun c => ?_⟩
  · rw [hs.mem, ht.mem, h.mem]
  · rw [hs.lost, ht.lost, h.lost]
  · have := h.ctxs c
    unfold State.ctx? at *
    rw [sc, tc]
    exact this

end Reaches

/-- A change of the queues changes no access. -/
theorem State.reaches_queues (s : State) (l : List Queue) : Reaches s { s with queues := l } := ⟨rfl, rfl, rfl, rfl, rfl, rfl, rfl, fun _ => rfl⟩

/-! ### The entry cache beside a queue's own change (R345) -/

/-- What a loss of class DEVICE that the hub die meets changes. -/
theorem State.deviceLoss_rest (s : State) (k : Nat) : (s.deviceLoss k).losses = s.losses + 1 ∧ (s.deviceLoss k).evSeq = s.evSeq + 1 ∧
    { s.deviceLoss k with
      pkg := s.pkg, losses := s.losses, evSeq := s.evSeq
      fe := { (s.deviceLoss k).fe with hsig := s.fe.hsig, notified := s.fe.notified } } = s := by
  generalize hb : (s.onPkg fun p => { p with log := p.log ++ [.loss s.evSeq 3 0 k] }) = b
  have hseq : b.evSeq = s.evSeq := by rw [← hb]; rfl
  have hfe : b.fe = s.fe := by rw [← hb]; rfl
  have hrest : { b with pkg := s.pkg } = s := by rw [← hb]; rfl
  have h := b.signal_rest 2
  rw [hfe] at h
  unfold State.deviceLoss State.mgmtLog
  rw [hb]
  generalize b.signal 2 = m at h ⊢
  have hs : m.evSeq = b.evSeq := (congrArg State.evSeq h :)
  exact ⟨rfl, congrArg (· + 1) (hs.trans hseq),
    (congrArg (fun z : State => { z with pkg := s.pkg, losses := s.losses, evSeq := s.evSeq }) h :).trans
      (congrArg (fun z : State => { z with losses := s.losses, evSeq := s.evSeq }) hrest :)⟩

theorem State.reaches_deviceLoss (s : State) (k : Nat) : Reaches s (s.deviceLoss k) := by
  obtain ⟨-, -, h⟩ := s.deviceLoss_rest k
  exact ⟨(congrArg State.mem h :), (congrArg State.lost h :), (congrArg State.mstacks h :), (congrArg State.tlb h :), (congrArg State.ports h :),
    (congrArg (fun x : State => x.fe.domid) h :), (congrArg (fun x : State => x.fe.expt) h :),
    fun c => (congrArg (fun x : State => (x.ctx? c).map fun d => (d.recAddr, d.dies)) h :)⟩

/-- The states agree but for one queue, as far as writing control blocks back goes. -/
structure Twins (q : Nat) (s t : State) : Prop where
  reaches : Reaches s t
  qtbase : t.fe.qtbase = s.fe.qtbase
  queue? : ∀ n, n ≠ q → t.queue? n = s.queue? n

theorem Twins.qcbKey {q : Nat} {s t : State} (h : Twins q s t) (n : Nat) : t.qcbKey n = s.qcbKey n := by
  unfold State.qcbKey
  rw [h.qtbase]

/-- What a step that only saves control blocks leaves of the agreement. -/
theorem Twins.saved {q : Nat} {s t s' t' : State} (h : Twins q s t) (hs : SavesQcbs s s') (ht : SavesQcbs t t') (hr : Reaches s' t') :
    Twins q s' t' := by
  have a : s'.fe.qtbase = s.fe.qtbase := (congrArg FrontEnd.qtbase hs.fe :)
  have b : t'.fe.qtbase = t.fe.qtbase := (congrArg FrontEnd.qtbase ht.fe :)
  refine ⟨hr, by rw [a, b, h.qtbase], fun n hn => ?_⟩
  rw [hs.queue?, ht.queue?, h.queue? n hn]

theorem State.accessQcb_none {s : State} {n : Nat} (h : s.queue? n = none) (k : QcbAccess) : s.accessQcb n k = s := by
  unfold State.accessQcb
  rw [h]

theorem State.accessQcb_write {s : State} {n : Nat} {u : Queue} (h : s.queue? n = some u) :
    s.accessQcb n .write = if s.mergesLost (s.qcbKey n) 256 then s.deviceLoss (s.qcbKey n) else s.store (s.qcbKey n) u.bytes := by
  unfold State.accessQcb
  rw [h]
  exact if_neg nofun

theorem Twins.writeQcb {q : Nat} {s t : State} (h : Twins q s t) {n : Nat} (hn : n ≠ q) : Twins q (s.writeQcb n) (t.writeQcb n) := by
  refine h.saved (s.savesQcbs_onQcb n .write) (t.savesQcbs_onQcb n .write) ?_
  have r := h.reaches
  have hkey : t.keyHeld (t.qcbKey n) = s.keyHeld (s.qcbKey n) := by rw [h.qcbKey, r.keyHeld]
  unfold State.writeQcb State.onQcb
  rw [hkey]
  split
  · exact ⟨r.mem, r.lost, r.mstacks, r.tlb, r.ports, r.domid, r.expt, r.ctxs⟩
  · cases hu : s.queue? n with
    | none =>
      rw [State.accessQcb_none hu, State.accessQcb_none ((h.queue? n hn).trans hu)]
      exact r
    | some u =>
      rw [State.accessQcb_write hu, State.accessQcb_write ((h.queue? n hn).trans hu), h.qcbKey, r.mergesLost]
      split
      · exact (s.reaches_deviceLoss _).symm.trans (r.trans (t.reaches_deviceLoss _))
      · exact r.store _ _

theorem Twins.writeQcbs {q : Nat} (l : List Nat) {s t : State} (h : Twins q s t) (hl : ∀ n ∈ l, n ≠ q) :
    Twins q (l.foldl State.writeQcb s) (l.foldl State.writeQcb t) := by
  induction l generalizing s t with
  | nil => exact h
  | cons n l ih => exact ih (h.writeQcb (hl n List.mem_cons_self)) fun m hm => hl m (List.mem_cons_of_mem n hm)

theorem Reaches.onQcache {s t : State} (h : Reaches s t) (c d : List Nat) :
    Reaches { s with fe := { s.fe with qcache := c } } { t with fe := { t.fe with qcache := d } } :=
  ⟨h.mem, h.lost, h.mstacks, h.tlb, h.ports, h.domid, h.expt, h.ctxs⟩

theorem not_mem_evicted (l : List Nat) (q : Nat) : ∀ n ∈ (qcacheSet (q :: l.filter (· != q)) q).drop 8, n ≠ q := by
  intro n hn
  have hset : qcacheSet (q :: l.filter (· != q)) q = q :: qcacheSet (l.filter (· != q)) q := List.filter_cons_of_pos (by simp)
  rw [hset, List.drop_succ_cons] at hn
  simpa using (List.mem_filter.mp (List.mem_of_mem_filter (List.mem_of_mem_drop hn))).2

theorem State.qcache_onQcb_load (s : State) (q : Nat) : (s.onQcb q .load).fe.qcache = s.fe.qcache := by
  unfold State.onQcb
  split
  · rfl
  · unfold State.accessQcb
    split
    · unfold State.hubLoss
      split
      · unfold State.deviceLoss State.mgmtLog State.signal
        split <;> rfl
      · rfl
    · contradiction
    · rfl

/-- Loading the block of a queue that exists. -/
theorem State.onQcb_load {s : State} {q : Nat} {u : Queue} (h : s.queue? q = some u) : s.onQcb q .load =
    if s.keyHeld (s.qcbKey q) then s.onFe fun f => { f with qcbDue := f.qcbDue ++ [(q, .load)] }
    else (s.hubLoss (s.qcbKey q) 256).getD s := by
  unfold State.onQcb State.accessQcb
  rw [h]

/-- A state in which a queue's block is loaded. -/
def State.loaded (s : State) (q : Nat) : State := if s.fe.qcache.contains q then s else s.onQcb q .load

theorem State.qcache_loaded (s : State) (q : Nat) : (s.loaded q).fe.qcache = s.fe.qcache := by
  unfold State.loaded
  split
  · rfl
  · exact s.qcache_onQcb_load q

/-- The queues of a touched queue's set that are written back. -/
def State.evicted (s : State) (q : Nat) : List Nat := (qcacheSet (q :: s.fe.qcache.filter (· != q)) q).drop 8

theorem State.touchQueue_of_live {s : State} {q : Nat} (h : s.liveQueue q = true) : s.touchQueue q =
    ((s.evicted q).foldl State.writeQcb (s.loaded q)).onFe fun f =>
      { f with qcache := (q :: s.fe.qcache.filter (· != q)).filter fun n => !(s.evicted q).contains n } := by
  have hc := s.qcache_loaded q
  unfold State.touchQueue
  rw [if_pos h]
  unfold State.loaded at hc ⊢
  dsimp only
  rw [hc]
  rfl

/-- Touching a queue brings about the same, whatever changed in that queue but its state. -/
theorem State.reaches_touchQueue {s : State} {q : Nat} {u : Queue} (hu : s.queue? q = some u) {g : Queue → Queue} (hid : ∀ u, (g u).id = u.id)
    (hst : (g u).st = u.st) : Reaches (s.touchQueue q) ((s.onQueue q g).touchQueue q) := by
  have hgu : (s.onQueue q g).queue? q = some (g u) := State.queue?_onQueue_of hu hid
  have htwins : Twins q s (s.onQueue q g) := by
    refine ⟨s.reaches_queues _, rfl, fun n hn => ?_⟩
    unfold State.queue? State.onQueue mapIf
    dsimp only
    rw [find?_map_key]
    · cases hf : s.queues.find? (·.id == n) with
      | none => rfl
      | some v =>
        have hv : v.id = n := by simpa using List.find?_some hf
        simp [hv, hn]
    · intro v
      split
      · rw [hid]
      · rfl
  have hlive : (s.onQueue q g).liveQueue q = s.liveQueue q := by
    unfold State.liveQueue
    rw [hgu, hu, Option.any_some, Option.any_some, hst]
  cases hq : s.liveQueue q with
  | false =>
    unfold State.touchQueue
    rw [hlive, hq, if_neg (by decide), if_neg (by decide)]
    exact htwins.reaches
  | true =>
    rw [State.touchQueue_of_live hq, State.touchQueue_of_live (hlive.trans hq)]
    refine Reaches.onQcache (Twins.reaches (Twins.writeQcbs (q := q) _ ?_ (not_mem_evicted s.fe.qcache q))) _ _
    unfold State.loaded
    rw [show (s.onQueue q g).fe.qcache = s.fe.qcache from rfl]
    split
    · exact htwins
    · refine htwins.saved (s.savesQcbs_onQcb q .load) ((s.onQueue q g).savesQcbs_onQcb q .load) ?_
      rw [State.onQcb_load hu, State.onQcb_load hgu, htwins.qcbKey, htwins.reaches.keyHeld]
      unfold State.hubLoss
      rw [htwins.reaches.isLost]
      split
      · exact ⟨rfl, rfl, rfl, rfl, rfl, rfl, rfl, fun _ => rfl⟩
      · split
        · exact (s.reaches_deviceLoss _).symm.trans (htwins.reaches.trans (State.reaches_deviceLoss _ _))
        · exact htwins.reaches

/-! ### The fetcher (R350, R352) -/

theorem packetFetch_eq {s : State} {q : Nat} {u : Queue} (hu : s.queue? q = some u) (hst : u.st = .active) (hp : u.packet = none)
    (hlt : u.rdidx < u.tail) (hf : s.fetching u.ctx = true) (hload : s.fe.reloading = false) (hslot : s.slotHeld u = false)
    (hwait : s.qcbWaits q = false) {n : Nat} (hn : (s.touchQueue q).headerAt u = .ok n) : exec (.packetFetch q) s =
      .next (if u.published n then (s.touchQueue q).validate u n else (s.touchQueue q).enterQueue q .stalled) := by
  change execPacketFetch q s = _
  unfold execPacketFetch
  rw [hu]
  dsimp only
  rw [if_neg (by simp [hst, hp, hf, hload, hslot, hwait]; omega), hn]
  exact (apply_ite Host.Outcome.next _ _ _).symm

theorem State.touched_of {s : State} {q : Nat} {u : Queue} (hu : s.queue? q = some u) (hst : u.st ≠ .absent) : (s.touchQueue q).Touched q :=
  State.touched_touchQueue (State.liveQueue_of hu hst)

theorem State.queue?_touched {s : State} {q : Nat} {u : Queue} (hu : s.queue? q = some u) : (s.touchQueue q).queue? q = some u :=
  ((s.savesQcbs_touchQueue q).queue? q).trans hu

theorem packetFetch_stalls (q : Nat) : Steps (.packetFetch q)
    (fun s => ∃ u n, s.queue? q = some u ∧ u.st = .active ∧ u.packet = none ∧ u.rdidx < u.tail ∧ s.fetching u.ctx = true ∧ s.fe.reloading = false ∧
      s.slotHeld u = false ∧ s.qcbWaits q = false ∧ (s.touchQueue q).headerAt u = .ok n ∧ u.published n = false)
    fun s t => ∃ u, s.queue? q = some u ∧ (u.ctl.getLsbD 0 = false →
      t = { s.touchQueue q with queues := s.queues.map fun w => if w.id = q then { w with st := .stalled } else w }) := by
  rintro s ⟨u, n, hu, hst, hp, hlt, hf, hload, hslot, hwait, hn, hpub⟩
  refine ⟨_, packetFetch_eq hu hst hp hlt hf hload hslot hwait hn, u, hu, fun hc => ?_⟩
  have hq := State.queue?_touched hu
  have htouch : (s.touchQueue q).Touched q := State.touched_of hu (by rw [hst]; decide)
  have hqueues := (s.savesQcbs_touchQueue q).queues
  have hstalled : ((s.touchQueue q).onQueue q fun u => { u with st := .stalled }).queue? q = some { u with st := .stalled } :=
    State.queue?_onQueue_of hq fun _ => rfl
  rw [hpub, if_neg (by decide), State.enterQueue_of hq _ hc, State.setQueue_of hq _ hc, htouch.again]
  dsimp only
  rw [State.saveQueue_of hstalled nofun nofun, State.onQueue_eq_map, hqueues]

theorem packetFetch_unknown (q : Nat) : Steps (.packetFetch q)
    (fun s => ∃ u n, s.queue? q = some u ∧ u.st = .active ∧ u.packet = none ∧ u.rdidx < u.tail ∧ s.fetching u.ctx = true ∧ s.fe.reloading = false ∧
      s.slotHeld u = false ∧ s.qcbWaits q = false ∧ (s.touchQueue q).headerAt u = .ok n ∧ u.published n = true ∧ 4 < n / 2 ^ 32 % 256 ∧
      s.keyHeld (s.qcbKey q) = false)
    fun s t => ∃ u n, s.queue? q = some u ∧ (s.touchQueue q).headerAt u = .ok n ∧ t.fe.hsig.getLsbD 1 = true ∧
      t.queue? q = some { u with
        st := .error, errcode := 2, erridx := u.rdidx % 2 ^ 64, errhdr := BitVec.ofNat 64 n, packet := none, feFault := none } := by
  rintro s ⟨u, n, hu, hst, hp, hlt, hf, hload, hslot, hwait, hn, hpub, hop, hheld⟩
  have hrun := packetFetch_eq hu hst hp hlt hf hload hslot hwait hn
  have hv : (s.touchQueue q).validate u n = (s.touchQueue q).queueError q 2 u.rdidx (BitVec.ofNat 64 n) := by
    unfold State.validate
    dsimp only
    rw [if_pos hop, State.queue?_id hu]
  rw [hpub, if_pos rfl, hv] at hrun
  obtain ⟨hsig, hq⟩ := State.queueError_eq (State.queue?_touched hu) 2 u.rdidx (BitVec.ofNat 64 n)
    (((s.savesQcbs_touchQueue q).qcbHeld q).trans hheld)
  exact ⟨_, hrun, u, n, hu, hn, hsig, hq⟩

theorem packetFetch_waits (q : Nat) : Steps (.packetFetch q)
    (fun s => ∃ u n b, s.queue? q = some u ∧ u.st = .active ∧ u.packet = none ∧ u.rdidx < u.tail ∧ s.fetching u.ctx = true ∧ s.fe.reloading = false ∧
      s.slotHeld u = false ∧ s.qcbWaits q = false ∧ (s.touchQueue q).headerAt u = .ok n ∧ u.published n = true ∧ n / 2 ^ 32 % 256 ≤ 4 ∧ n / 2 ^ 40 < 2 ∧
      (s.touchQueue q).feRead u.ctx (u.ring.toNat + 64 * (u.rdidx % 2 ^ u.szlog) + 8) 56 = .ok b ∧
      (s.touchQueue q).packetFault u (toBytes 8 n ++ b) = none)
    fun s t => ∃ u n b, s.queue? q = some u ∧ (s.touchQueue q).headerAt u = .ok n ∧
      (s.touchQueue q).feRead u.ctx (u.ring.toNat + 64 * (u.rdidx % 2 ^ u.szlog) + 8) 56 = .ok b ∧
      t = { s.touchQueue q with queues := s.queues.map fun w => if w.id = q then { w with packet := some (toBytes 8 n ++ b) } else w } := by
  rintro s ⟨u, n, b, hu, hst, hp, hlt, hf, hload, hslot, hwait, hn, hpub, hop, hflags, hb, hfault⟩
  refine ⟨_, packetFetch_eq hu hst hp hlt hf hload hslot hwait hn, u, n, b, hu, hn, hb, ?_⟩
  have hslot : (s.touchQueue q).feRead u.ctx (u.slotVA u.rdidx + 8) 56 = .ok b := hb
  have hqueues := (s.savesQcbs_touchQueue q).queues
  unfold State.validate
  dsimp only
  rw [hpub, if_pos rfl, if_neg (by omega), if_neg (by omega), hslot]
  dsimp only
  rw [hfault, State.queue?_id hu]
  dsimp only
  rw [State.onQueue_eq_map, hqueues]

/-- The header of a STALLED queue, which is read again. -/
theorem State.reread_header {s : State} {q : Nat} {u : Queue} {n : Nat} (hu : s.queue? q = some u) (hst : u.st = .stalled)
    (hf : s.fetching u.ctx = true) (hslot : s.slotHeld u = false) (hn : s.headerAt u = .ok n) :
    s.reread q = if u.published n then s.enterQueue q .active else s := by
  unfold State.reread
  rw [hu]
  dsimp only
  rw [if_neg (by simp [hst, hf, hslot]), hn]

theorem stallReread_steps (q : Nat) : Steps (.stallReread q)
    (fun s => ∃ u n, s.queue? q = some u ∧ u.st = .stalled ∧ s.fetching u.ctx = true ∧ s.fe.reloading = false ∧
      s.slotHeld u = false ∧ s.qcbWaits q = false ∧ (s.touchQueue q).slotHeld u = false ∧ (s.touchQueue q).headerAt u = .ok n)
    fun s t => ∃ u n, s.queue? q = some u ∧ (s.touchQueue q).headerAt u = .ok n ∧
      t = if u.published n then { s.touchQueue q with queues := s.queues.map fun w => if w.id = q then { w with st := .active } else w }
        else s.touchQueue q := by
  rintro s ⟨u, n, hu, hst, hf, hload, hslot, hwait, hslot', hn⟩
  have hq := State.queue?_touched hu
  have htouch : (s.touchQueue q).Touched q := State.touched_of hu (by rw [hst]; decide)
  have hf' : (s.touchQueue q).fetching u.ctx = true := ((s.savesQcbs_touchQueue q).fetching u.ctx).trans hf
  have hqueues := (s.savesQcbs_touchQueue q).queues
  refine ⟨(s.touchQueue q).reread q, ?_, u, n, hu, hn, ?_⟩
  · change execStallReread q s = _
    unfold execStallReread
    rw [hu]
    exact if_neg (by simp [hst, hf, hload, hslot, hwait])
  · rw [State.reread_header hq hst hf' hslot' hn, State.enterQueue_active hq, htouch.again, State.onQueue_eq_map, hqueues]

/-! ### A packet's queue as it starts and completes (R350) -/

/-- Of the machine only queues have changed. -/
def OnlyQueues (s t : State) : Prop := { t with queues := s.queues } = s

theorem OnlyQueues.refl (s : State) : OnlyQueues s s := rfl

theorem OnlyQueues.trans {s t u : State} (h : OnlyQueues s t) (k : OnlyQueues t u) : OnlyQueues s u :=
  (congrArg (fun x : State => { x with queues := s.queues }) k :).trans h

theorem State.onlyQueues_onQueue (s : State) (q : Nat) (f : Queue → Queue) : OnlyQueues s (s.onQueue q f) := rfl

theorem OnlyQueues.byte {s t : State} (h : OnlyQueues s t) : t.byte = s.byte := (congrArg State.byte h :)

theorem OnlyQueues.touched {s t : State} {q : Nat} (h : OnlyQueues s t) (k : s.Touched q) : t.Touched q :=
  k.of_qcache (congrArg (fun x : State => x.fe.qcache) h :)

/-- A queue whose packet at an index has started. -/
def Queue.begun (i : Nat) (v : Queue) : Queue := Queue.settleDone { v with rdidx := i + 1, pending := v.pending ++ [i], packet := none }

/-- A queue whose packet at an index has completed. -/
def Queue.completed (i : Nat) (v : Queue) : Queue :=
  Queue.settleDone { v with pending := v.pending.filter (· != i), getting := v.getting.filter fun e => e.1 != i }

/-- A queue whose get at an index has its place. -/
def Queue.gets (i : Nat) (b : List Byte) (v : Queue) : Queue :=
  { v with getting := v.getting ++ [(i, BitVec.ofNat 64 (fieldOf b 0 8), BitVec.ofNat 64 (fieldOf b 0x10 8))] }

/-- A queue with no packet left goes from ACTIVE to IDLE. -/
def Queue.settled (v : Queue) : Queue := { v with st := if v.st = .active ∧ v.rdidx = v.tail then .idle else v.st }

theorem State.startable_spec {s : State} {q opc : Nat} {u : Queue} {b : List Byte} (h : s.startable q opc = some (u, b)) :
    s.queue? q = some u ∧ (u.st = .active ∨ u.st = .blocked) ∧ s.fe.reloading = false := by
  unfold State.startable at h
  split at h
  · cases h
  · next v hv =>
    split at h
    · cases h
    · split at h
      · next hok =>
        obtain ⟨rfl, rfl⟩ := Prod.mk.inj (Option.some.inj h)
        simp only [Bool.and_eq_true, Bool.or_eq_true, beq_iff_eq, Bool.not_eq_true'] at hok
        obtain ⟨⟨⟨⟨⟨-, hst⟩, -⟩, hload⟩, -⟩, -⟩ := hok
        exact ⟨hv, hst, hload⟩
      · cases h

theorem State.startPacket_eq {s : State} {q : Nat} {u : Queue} (hu : s.queue? q = some u) :
    s.startPacket u = (s.touchQueue q).onQueue q (Queue.begun u.rdidx) := by
  unfold State.startPacket
  rw [State.queue?_id hu]
  rfl

theorem State.completePacket_of {s : State} {q : Nat} {v : Queue} (hv : s.queue? q = some v) (ht : s.Touched q)
    (hst : v.st = .active ∨ v.st = .blocked) (i : Nat) : s.completePacket q v.gen i = s.onQueue q (Queue.completed i) := by
  have hne : v.st ≠ .absent ∧ v.st ≠ .out ∧ v.st ≠ .error := by rcases hst with h | h <;> rw [h] <;> decide
  obtain ⟨habsent, hout, herror⟩ := hne
  have hsame : s.sameQueue q v.gen = true := by
    unfold State.sameQueue
    rw [hv]
    simpa using habsent
  have hq : (s.onQueue q (Queue.completed i)).queue? q = some (v.completed i) := State.queue?_onQueue_of hv fun _ => rfl
  unfold State.completePacket
  rw [if_pos hsame, ht.again]
  exact State.saveQueue_of hq hout herror

/-- What a settled queue has come to, and that nothing else has changed. -/
theorem State.settleQueue_of {s : State} {q : Nat} {v : Queue} (hv : s.queue? q = some v) (ht : s.Touched q) (hc : v.ctl.getLsbD 0 = false) :
    (s.settleQueue q).queue? q = some v.settled ∧ OnlyQueues s (s.settleQueue q) := by
  unfold State.settleQueue Queue.settled
  rw [hv]
  dsimp only
  by_cases hidle : v.st = .active ∧ v.rdidx = v.tail
  · have hq : (s.onQueue q fun u => { u with st := .idle }).queue? q = some { v with st := .idle } := State.queue?_onQueue_of hv fun _ => rfl
    rw [if_pos (by simpa using hidle), State.enterQueue_of hv _ hc, State.setQueue_of hv _ hc, ht.again]
    dsimp only
    rw [State.saveQueue_of hq nofun nofun, if_pos hidle]
    exact ⟨hq, rfl⟩
  · rw [if_neg (by simpa using hidle), if_neg hidle]
    exact ⟨hv, rfl⟩

/-- What a mailbox word is when it can be served without another request. -/
def State.MbxWord (s : State) (u : Queue) (b : List Byte) (k : Nat) : Prop :=
  ∃ c, s.ctx? u.ctx = some c ∧ k = tagKey c.mba + 16 * fieldOf b 0x08 4 ∧ s.isLost k 16 = false ∧ s.readLE (k + 8) 8 ≤ 1 ∧
    s.keyHeld k = false ∧ s.mbxAhead k = false ∧ ∀ r ∈ s.fe.mbxq, ¬(r.ctx = u.ctx ∧ r.word = fieldOf b 0x08 4)

theorem State.MbxWord.packetWord {s : State} {u : Queue} {b : List Byte} {k : Nat} (h : s.MbxWord u b k) : s.packetWord u b = .ok k := by
  obtain ⟨c, hc, rfl, hlost, hsound, -⟩ := h
  unfold State.packetWord State.mbxSound mbxKey
  rw [hc]
  dsimp only
  rw [hlost, if_neg (by decide), if_neg (by simpa using hsound)]

theorem State.serveWord_none {s : State} {ctx word : Nat} (k n : Nat) (h : ∀ r ∈ s.fe.mbxq, ¬(r.ctx = ctx ∧ r.word = word)) :
    s.serveWord ctx word k n = s := by
  cases n with
  | zero => rfl
  | succ n =>
    have hnone : (s.fe.mbxq.find? fun r => r.ctx == ctx && r.word == word && !s.fe.reloading && s.mbxFull k != r.put.isSome) = none := by
      refine List.find?_eq_none.mpr fun r hr hp => h r hr ?_
      simp only [Bool.and_eq_true, beq_iff_eq] at hp
      exact hp.1.1
    unfold State.serveWord
    rw [hnone]

theorem State.wakens_afterService {s : State} {ctx word : Nat} (k : Nat) (h : ∀ r ∈ s.fe.mbxq, ¬(r.ctx = ctx ∧ r.word = word)) :
    Wakens s (s.afterService ctx word k) := by
  unfold State.afterService
  rw [State.serveWord_none k _ h]
  exact s.wakens_fireWake _

/-- What follows a service: the queue settles, and memory stays. -/
theorem State.service_of {s : State} {q : Nat} {u v : Queue} (hu : u.id = q) (hv : s.queue? q = some v) (ht : s.Touched q)
    (hst : v.st = .active) (hc : v.ctl.getLsbD 0 = false) {word : Nat} (k : Nat) (h : ∀ r ∈ s.fe.mbxq, ¬(r.ctx = u.ctx ∧ r.word = word)) :
    let t := ((s.afterService u.ctx word k).unblock u u.rdidx).settleQueue u.id
    t.queue? q = some v.settled ∧ t.byte = s.byte := by
  have hw := State.wakens_afterService k h
  generalize s.afterService u.ctx word k = w at hw
  have hq : w.queue? q = some v := (congrArg (fun x : State => x.queue? q) hw.rest :).trans hv
  have htw : w.Touched q := ht.of_qcache (congrArg (fun x : State => x.fe.qcache) hw.rest :)
  have hun : w.unblock u u.rdidx = w := by
    unfold State.unblock
    rw [hu, hq]
    exact if_neg (by simp [hst])
  dsimp only
  rw [hun, hu]
  obtain ⟨hsettled, honly⟩ := State.settleQueue_of hq htw hc
  exact ⟨hsettled, honly.byte.trans (congrArg State.byte hw.rest :)⟩

theorem State.queue?_store (s : State) (k : Nat) (bs : List Byte) (q : Nat) : (s.store k bs).queue? q = s.queue? q :=
  (congrArg (fun x : State => x.queue? q) (s.writeEvent_store k bs).rest :)

theorem State.fe_store (s : State) (k : Nat) (bs : List Byte) : (s.store k bs).fe = s.fe := (congrArg State.fe (s.writeEvent_store k bs).rest :)

/-- The queue's block is in its set, which writes none back. -/
def State.Cached (s : State) (q : Nat) (u : Queue) : Prop :=
  u.ctl.getLsbD 0 = false ∧ s.fe.qcache.contains q = true ∧ (qcacheSet s.fe.qcache q).length ≤ 8

theorem State.Cached.mem {s : State} {q : Nat} {u : Queue} (h : s.Cached q u) : (s.touchQueue q).mem = s.mem := by
  obtain ⟨-, hc, h8⟩ := h
  obtain ⟨c, hq⟩ := State.touchQueue_cached hc h8
  rw [hq]

theorem byte_of_mem {s t : State} (h : t.mem = s.mem) : t.byte = s.byte := by
  unfold State.byte
  rw [h]

/-! ### The packets (R353) -/

/-- A queue after a packet that starts. -/
def QueueIs (t : State) (q : Nat) (u : Queue) (p : Queue → Prop) : Prop :=
  u.ctl.getLsbD 0 = false → ∃ v, t.queue? q = some v ∧ v.packet = none ∧ v.rdidx = u.rdidx + 1 ∧ p v

/-- A queue after a packet that starts and completes. -/
def Queue.Ends (u v : Queue) : Prop :=
  v.pending = u.pending.filter (· != u.rdidx) ∧ v.st = if u.st = .active ∧ u.rdidx + 1 = u.tail then .idle else u.st

theorem Queue.ends_completed {u v : Queue} (h : { v with getting := u.getting } = u) : u.Ends ((v.begun u.rdidx).completed u.rdidx).settled := by
  obtain ⟨g, rfl⟩ : ∃ g, v = { u with getting := g } := ⟨v.getting, by rw [← h]⟩
  refine ⟨?_, rfl⟩
  change (u.pending ++ [u.rdidx]).filter (· != u.rdidx) = _
  rw [List.filter_append]
  simp

theorem launchPacket_steps (q : Nat) : Steps (.launchPacket q)
    (fun s => ∃ u b s', s.startable q 1 = some (u, b) ∧ s.liveGrids < 4096 ∧ s.accept (u.launchReq b) (.packet q u.gen u.rdidx) = .ok s' ∧
      s'.queues = s.queues)
    fun s t => ∃ u b s', s.startable q 1 = some (u, b) ∧ s.accept (u.launchReq b) (.packet q u.gen u.rdidx) = .ok s' ∧
      (u.ctl.getLsbD 0 = false → t.grids = s'.grids) ∧ (s'.Cached q u → t.mem = s'.mem) ∧
      QueueIs t q u fun v => v.pending = u.pending ++ [u.rdidx] ∧ v.st = if u.st = .active ∧ u.rdidx + 1 = u.tail then .idle else u.st := by
  rintro s ⟨u, b, s', hs, hlive, hacc, hqueues⟩
  obtain ⟨hu, hst, -⟩ := State.startable_spec hs
  have hu' : s'.queue? q = some u := by
    unfold State.queue?
    rw [hqueues]
    exact hu
  have hstart := State.startPacket_eq hu'
  have hbegun : (s'.startPacket u).queue? q = some (u.begun u.rdidx) := by
    rw [hstart]
    exact State.queue?_onQueue_of (State.queue?_touched hu') fun _ => rfl
  have htouch : (s'.startPacket u).Touched q := by
    rw [hstart]
    exact (State.onlyQueues_onQueue ..).touched (State.touched_of hu' (by rcases hst with h | h <;> rw [h] <;> decide))
  have honly : OnlyQueues (s'.touchQueue q) (s'.startPacket u) := by
    rw [hstart]
    rfl
  refine ⟨(s'.startPacket u).settleQueue q, ?_, u, b, s', hs, hacc, fun hc => ?_, fun hc => ?_, fun hc => ?_⟩
  · change execLaunchPacket q s = _
    unfold execLaunchPacket
    rw [hs]
    dsimp only
    rw [if_neg (by omega), hacc]
  · have h := honly.trans (State.settleQueue_of hbegun htouch hc).2
    exact (congrArg State.grids h :).trans (s'.savesQcbs_touchQueue q).grids
  · have h := honly.trans (State.settleQueue_of hbegun htouch hc.1).2
    exact (congrArg State.mem h :).trans hc.mem
  · exact ⟨_, (State.settleQueue_of hbegun htouch hc).1, rfl, rfl, rfl, rfl⟩

/-! ### Puts and gets (R353, R357) -/

theorem State.mbxPacket_put {s : State} {u : Queue} {b : List Byte} {k : Nat} {v : DWord} (h : s.mbxServable k true = true) :
    s.mbxPacket u b k (some v) = (((((s.startPacket u).mbxDo k (some v)).completePacket u.id u.gen u.rdidx).afterService u.ctx (fieldOf b 0x08 4)
      k).unblock u u.rdidx).settleQueue u.id := if_pos h

theorem State.mbxPacket_get {s : State} {u : Queue} {b : List Byte} {k : Nat} (h : s.mbxServable k false = true) :
    s.mbxPacket u b k none =
      let a := (s.onQueue u.id (Queue.gets u.rdidx b)).startPacket u
      let d := a.mbxDo k none
      (((d.finishGet ((d.queue? u.id).getD u) u.rdidx (BitVec.ofNat 64 (a.readLE k 8))).afterService u.ctx (fieldOf b 0x08 4) k).unblock u
        u.rdidx).settleQueue u.id := by
  unfold State.mbxPacket
  simp only [Option.isSome_none, Option.isNone_none, Bool.false_eq_true, if_false, if_true, h]
  rfl

theorem keys_split (k : Nat) : ((List.range 16).map fun j => k + j) = ((List.range 8).map fun j => k + 0 + j) ++ (List.range 8).map fun j => k + 8 + j :=
  rfl

/-- A served packet's queue, once its service is done with. -/
theorem State.served_of {a : State} {q : Nat} {u v : Queue} {word : Nat} (hid : u.id = q) (hq : a.queue? q = some v) (ht : a.Touched q)
    (hst : v.st = .active) (hgen : v.gen = u.gen) (hmbx : ∀ r ∈ a.fe.mbxq, ¬(r.ctx = u.ctx ∧ r.word = word)) (hc : v.ctl.getLsbD 0 = false) (k : Nat) :
    let t := ((((a.completePacket u.id u.gen u.rdidx).afterService u.ctx word k).unblock u u.rdidx).settleQueue u.id)
    t.queue? q = some (v.completed u.rdidx).settled ∧ t.byte = a.byte := by
  have hcomplete := State.completePacket_of hq ht (.inl hst) u.rdidx
  dsimp only
  rw [hid, ← hgen, hcomplete]
  subst hid
  exact State.service_of (s := a.onQueue u.id (Queue.completed u.rdidx)) rfl (State.queue?_onQueue_of hq fun _ => rfl)
    ((State.onlyQueues_onQueue ..).touched ht) hst hc k hmbx

/-- A put or a get that nothing holds back is sent. -/
theorem State.sendable_of {s : State} {u : Queue} {b : List Byte} {k : Nat} {put : Bool} (hst : u.st = .active) (hheld : s.keyHeld k = false)
    (hdest : put = true ∨ fieldOf b 0x10 8 = 0 ∨ s.wordHeld u.ctx none (fieldOf b 0x10 8) = false) : s.mbxSendable u b k put = true := by
  unfold State.mbxSendable
  rw [hst, hheld]
  obtain h | h | h := hdest
  · simp [h]
  · simp [h]
  · simp [h]

theorem mbxPut_eq {s : State} {q : Nat} {u : Queue} {b : List Byte} {k : Nat} (hs : s.startable q 2 = some (u, b)) (hw : s.MbxWord u b k)
    (hst : u.st = .active) : exec (.mbxPutPacket q) s = .next (s.mbxPacket u b k (some (BitVec.ofNat 64 (fieldOf b 0x10 8)))) := by
  obtain ⟨-, -, -, -, -, hheld, -⟩ := id hw
  change execMbxPutPacket q s = _
  unfold execMbxPutPacket
  rw [hs]
  dsimp only
  rw [hw.packetWord]
  exact if_pos (State.sendable_of hst hheld (.inl rfl))

theorem mbxPut_serves (q : Nat) : Steps (.mbxPutPacket q)
    (fun s => ∃ u b k, s.startable q 2 = some (u, b) ∧ s.MbxWord u b k ∧ s.mbxFull k = false ∧ u.st = .active)
    fun s t => ∃ u b k, s.startable q 2 = some (u, b) ∧ s.MbxWord u b k ∧ QueueIs t q u u.Ends ∧
      (s.Cached q u → ∀ j, t.byte j = fieldsAt s.byte k [(0, 8, fieldOf b 0x10 8), (8, 8, 1)] j) := by
  rintro s ⟨u, b, k, hs, hw, hfull, hst⟩
  obtain ⟨hu, -, hload⟩ := State.startable_spec hs
  obtain ⟨-, -, -, -, -, -, -, hmbx⟩ := id hw
  have hserv : s.mbxServable k true = true := by
    unfold State.mbxServable
    rw [hload, hfull]
    rfl
  have hrun := (mbxPut_eq hs hw hst).trans (congrArg _ (State.mbxPacket_put hserv))
  have htouch : (s.touchQueue q).Touched q := State.touched_of hu (by rw [hst]; decide)
  have hval : (BitVec.ofNat 64 (fieldOf b 0x10 8)).toNat = fieldOf b 0x10 8 := toNat_field 0x10
  unfold State.mbxDo at hrun
  dsimp only at hrun
  rw [State.startPacket_eq hu, hval] at hrun
  generalize ha : ((s.touchQueue q).onQueue q (Queue.begun u.rdidx)).store k (toBytes 8 (fieldOf b 0x10 8) ++ toBytes 8 1) = a at hrun
  have hqa : a.queue? q = some (u.begun u.rdidx) := by
    rw [← ha, State.queue?_store]
    exact State.queue?_onQueue_of (State.queue?_touched hu) fun _ => rfl
  have hfa : a.fe = (s.touchQueue q).fe := by rw [← ha, State.fe_store]; rfl
  have hmbx' : ∀ r ∈ a.fe.mbxq, ¬(r.ctx = u.ctx ∧ r.word = fieldOf b 0x08 4) := by
    rw [hfa, (s.savesQcbs_touchQueue q).mbxq]
    exact hmbx
  have hdone := State.served_of (State.queue?_id hu) hqa (htouch.of_qcache (congrArg FrontEnd.qcache hfa)) hst rfl hmbx'
  refine ⟨_, hrun, u, b, k, hs, hw, fun hc => ⟨_, (hdone hc k).1, rfl, rfl, Queue.ends_completed rfl⟩, fun hc j => ?_⟩
  refine (congrFun (hdone hc.1 k).2 j).trans ?_
  have hlen : (toBytes 8 (fieldOf b 0x10 8) ++ toBytes 8 1).length = 16 := rfl
  rw [← ha, State.byte_store, (State.onlyQueues_onQueue ..).byte, byte_of_mem hc.mem, hlen, keys_split, putAt_append _ _ _ _ _ rfl]
  rfl

theorem mbxPut_waits (q : Nat) : Steps (.mbxPutPacket q)
    (fun s => ∃ u b k, s.startable q 2 = some (u, b) ∧ s.MbxWord u b k ∧ s.mbxFull k = true ∧ u.st = .active ∧ s.fe.mbxq.length < 4096)
    fun s t => ∃ u b k, s.startable q 2 = some (u, b) ∧ s.MbxWord u b k ∧ QueueIs t q u (fun v => v.st = .blocked) ∧
      (s.Cached q u → t.mem = s.mem) ∧ (u.ctl.getLsbD 0 = false → t.fe.mbxq = s.fe.mbxq ++
        [⟨s.fe.nextReq, u.ctx, fieldOf b 0x08 4, some (BitVec.ofNat 64 (fieldOf b 0x10 8)), .queue q u.gen u.rdidx, 0⟩]) := by
  rintro s ⟨u, b, k, hs, hw, hfull, hst, hroom⟩
  obtain ⟨hu, -, hload⟩ := State.startable_spec hs
  have hid := State.queue?_id hu
  have hserv : ¬s.mbxServable k true = true := by
    unfold State.mbxServable
    rw [hload, hfull]
    simp
  have hsaves := s.savesQcbs_touchQueue q
  have htouch : (s.touchQueue q).Touched q := State.touched_of hu (by rw [hst]; decide)
  generalize ha : ((s.touchQueue q).onQueue q (Queue.begun u.rdidx)).onFe (fun f => { f with
    mbxq := f.mbxq ++ [⟨s.fe.nextReq, u.ctx, fieldOf b 0x08 4, some (BitVec.ofNat 64 (fieldOf b 0x10 8)), .queue q u.gen u.rdidx, 0⟩]
    nextReq := s.fe.nextReq + 1 }) = a
  have hrun : exec (.mbxPutPacket q) s = .next (a.enterQueue q .blocked) := by
    rw [mbxPut_eq hs hw hst, ← ha, ← State.startPacket_eq hu]
    have hlimit : ¬mbxLimit ≤ s.fe.mbxq.length := Nat.not_le.mpr hroom
    unfold State.mbxPacket
    simp only [Option.isSome_some, hserv, if_false, hlimit, hid, Bool.false_eq_true]
    rfl
  have hqa : a.queue? q = some (u.begun u.rdidx) := by
    rw [← ha]
    exact State.queue?_onQueue_of (State.queue?_touched hu) fun _ => rfl
  have hta : a.Touched q := by
    rw [← ha]
    exact htouch
  refine ⟨_, hrun, u, b, k, hs, hw, fun hc => ?_, fun hc => ?_, fun hc => ?_⟩
  all_goals
    have hq : (a.onQueue q fun u => { u with st := .blocked }).queue? q = some { u.begun u.rdidx with st := .blocked } :=
      State.queue?_onQueue_of hqa fun _ => rfl
  · rw [State.enterQueue_of hqa _ hc, State.setQueue_of hqa _ hc, hta.again]
    dsimp only
    rw [State.saveQueue_of hq nofun nofun]
    exact ⟨_, hq, rfl, rfl, rfl⟩
  · rw [State.enterQueue_of hqa _ hc.1, State.setQueue_of hqa _ hc.1, hta.again]
    dsimp only
    rw [State.saveQueue_of hq nofun nofun, ← ha]
    exact hc.mem
  · rw [State.enterQueue_of hqa _ hc, State.setQueue_of hqa _ hc, hta.again]
    dsimp only
    rw [State.saveQueue_of hq nofun nofun, ← ha]
    exact congrArg (· ++ _) hsaves.mbxq

theorem mbxGet_eq {s : State} {q : Nat} {u : Queue} {b : List Byte} {k : Nat} (hs : s.startable q 3 = some (u, b)) (hw : s.MbxWord u b k)
    (hst : u.st = .active) (hdest : fieldOf b 0x10 8 = 0 ∨ s.wordHeld u.ctx none (fieldOf b 0x10 8) = false) :
    exec (.mbxGetPacket q) s = .next (s.mbxPacket u b k none) := by
  obtain ⟨-, -, -, -, -, hheld, -⟩ := id hw
  change execMbxGetPacket q s = _
  unfold execMbxGetPacket
  rw [hs]
  dsimp only
  rw [hw.packetWord]
  exact if_pos (State.sendable_of hst hheld (.inr hdest))

/-- A get that has started, its word not yet taken. -/
def State.getBegun (s : State) (q : Nat) (u : Queue) (b : List Byte) : State :=
  ((s.onQueue q (Queue.gets u.rdidx b)).touchQueue q).onQueue q (Queue.begun u.rdidx)

/-- A get that is served: the word is taken, then the packet finishes. -/
theorem mbxGet_run {s : State} {q : Nat} {u : Queue} {b : List Byte} {k : Nat} (hs : s.startable q 3 = some (u, b)) (hw : s.MbxWord u b k)
    (hfull : s.mbxFull k = true) (hst : u.st = .active) (hdest : fieldOf b 0x10 8 = 0 ∨ s.wordHeld u.ctx none (fieldOf b 0x10 8) = false) :
    let d := (s.getBegun q u b).store (k + 8) (toBytes 8 0)
    d.queue? q = some ((u.gets u.rdidx b).begun u.rdidx) ∧ d.Touched q ∧ d.fe.mbxq = s.fe.mbxq ∧
      exec (.mbxGetPacket q) s = .next ((((d.finishGet ((u.gets u.rdidx b).begun u.rdidx) u.rdidx
        (BitVec.ofNat 64 ((s.getBegun q u b).readLE k 8))).afterService u.ctx (fieldOf b 0x08 4) k).unblock u u.rdidx).settleQueue u.id) := by
  obtain ⟨hu, -, hload⟩ := State.startable_spec hs
  have hid := State.queue?_id hu
  obtain ⟨-, -, -, -, -, -, hahead, -⟩ := id hw
  have hgets : (s.onQueue q (Queue.gets u.rdidx b)).queue? q = some (u.gets u.rdidx b) := State.queue?_onQueue_of hu fun _ => rfl
  have hbegun : (s.getBegun q u b).queue? q = some ((u.gets u.rdidx b).begun u.rdidx) :=
    State.queue?_onQueue_of (State.queue?_touched hgets) fun _ => rfl
  have htouch : ((s.onQueue q (Queue.gets u.rdidx b)).touchQueue q).Touched q := State.touched_of hgets (by change u.st ≠ _; rw [hst]; decide)
  have hstart : (s.onQueue u.id (Queue.gets u.rdidx b)).startPacket u = s.getBegun q u b := by
    unfold State.startPacket
    rw [hid]
    rfl
  have hserv : s.mbxServable k false = true := by
    unfold State.mbxServable
    rw [hload, hfull, hahead]
    rfl
  dsimp only
  have hfe : ((s.getBegun q u b).store (k + 8) (toBytes 8 0)).fe = ((s.onQueue q (Queue.gets u.rdidx b)).touchQueue q).fe := State.fe_store ..
  refine ⟨(State.queue?_store ..).trans hbegun, htouch.of_qcache (congrArg FrontEnd.qcache hfe), ?_, ?_⟩
  · rw [hfe, (State.savesQcbs_touchQueue _ q).mbxq]
    rfl
  · have hd : ((s.getBegun q u b).store (k + 8) (toBytes 8 0)).queue? u.id = some ((u.gets u.rdidx b).begun u.rdidx) := by
      rw [hid]
      exact (State.queue?_store ..).trans hbegun
    rw [mbxGet_eq hs hw hst hdest, State.mbxPacket_get hserv, hstart]
    unfold State.mbxDo
    dsimp only
    rw [hd]
    rfl

/-- Of the gets that have their place, only this packet's names its index. -/
theorem find?_getting {u : Queue} {b : List Byte} (h : ∀ e ∈ u.getting, e.1 ≠ u.rdidx) :
    ((u.gets u.rdidx b).begun u.rdidx).getting.find? (fun e => e.1 == u.rdidx && e.2.2 != 0) =
      if fieldOf b 0x10 8 = 0 then none else some (u.rdidx, BitVec.ofNat 64 (fieldOf b 0 8), BitVec.ofNat 64 (fieldOf b 0x10 8)) := by
  change (u.getting ++ [_]).find? _ = _
  have hnone : u.getting.find? (fun e => e.1 == u.rdidx && e.2.2 != 0) = none :=
    List.find?_eq_none.mpr fun e he => by simp [h e he]
  rw [List.find?_append, hnone, Option.none_or]
  have hz : BitVec.ofNat 64 (fieldOf b 0x10 8) = 0#64 ↔ fieldOf b 0x10 8 = 0 := by
    rw [← BitVec.toNat_inj, toNat_field]
    rfl
  split
  · next h0 => simp [hz.mpr h0]
  · next h0 => simp [mt hz.mp h0]

theorem mbxGet_drops (q : Nat) : Steps (.mbxGetPacket q)
    (fun s => ∃ u b k, s.startable q 3 = some (u, b) ∧ s.MbxWord u b k ∧ s.mbxFull k = true ∧ u.st = .active ∧ fieldOf b 0x10 8 = 0 ∧
      ∀ e ∈ u.getting, e.1 ≠ u.rdidx)
    fun s t => ∃ u b k, s.startable q 3 = some (u, b) ∧ s.MbxWord u b k ∧ QueueIs t q u u.Ends ∧
      (s.Cached q u → ∀ j, t.byte j = fieldsAt s.byte k [(8, 8, 0)] j) := by
  rintro s ⟨u, b, k, hs, hw, hfull, hst, hdest, hget⟩
  obtain ⟨hu, -, -⟩ := State.startable_spec hs
  obtain ⟨-, -, -, -, -, -, -, hmbx⟩ := id hw
  obtain ⟨hq, ht, hm, hrun⟩ := mbxGet_run hs hw hfull hst (.inl hdest)
  rw [← hm] at hmbx
  unfold State.finishGet at hrun
  rw [find?_getting hget, if_pos hdest] at hrun
  have hdone := State.served_of (State.queue?_id hu) hq ht hst rfl hmbx
  refine ⟨_, hrun, u, b, k, hs, hw, fun hc => ⟨_, (hdone hc k).1, rfl, rfl, Queue.ends_completed rfl⟩, fun hc j => ?_⟩
  have hcached : (s.onQueue q (Queue.gets u.rdidx b)).Cached q u := hc
  refine (congrFun (hdone hc.1 k).2 j).trans ?_
  unfold State.getBegun
  rw [State.byte_store, (State.onlyQueues_onQueue ..).byte, byte_of_mem hcached.mem]
  rfl

theorem mbxGet_writes (q : Nat) : Steps (.mbxGetPacket q)
    (fun s => ∃ u b k j, s.startable q 3 = some (u, b) ∧ s.MbxWord u b k ∧ s.mbxFull k = true ∧ u.st = .active ∧ fieldOf b 0x10 8 ≠ 0 ∧
      (∀ e ∈ u.getting, e.1 ≠ u.rdidx) ∧ s.wordHeld u.ctx none (fieldOf b 0x10 8) = false ∧
      ((s.touchQueue q).store (k + 8) (toBytes 8 0)).wordTarget u.ctx none (fieldOf b 0x10 8) = .ok j)
    fun s t => ∃ u b k j, s.startable q 3 = some (u, b) ∧ s.MbxWord u b k ∧
      ((s.touchQueue q).store (k + 8) (toBytes 8 0)).wordTarget u.ctx none (fieldOf b 0x10 8) = .ok j ∧ QueueIs t q u u.Ends ∧
      (s.Cached q u → ∀ x, t.byte x = fieldsAt (fieldsAt s.byte k [(8, 8, 0)]) j [(0, 8, s.readLE k 8)] x) := by
  rintro s ⟨u, b, k, j, hs, hw, hfull, hst, hdest, hget, hheld, hj⟩
  obtain ⟨hu, -, -⟩ := State.startable_spec hs
  obtain ⟨-, -, -, -, -, -, -, hmbx⟩ := id hw
  obtain ⟨hq, ht, hm, hrun⟩ := mbxGet_run hs hw hfull hst (.inr hheld)
  rw [← hm] at hmbx
  have hreach : Reaches (s.touchQueue q) (s.getBegun q u b) :=
    (State.reaches_touchQueue hu (g := Queue.gets u.rdidx b) (fun _ => rfl) rfl).trans (State.reaches_queues _ _)
  have htarget := ((hreach.store (k + 8) (toBytes 8 0)).wordTarget u.ctx none (fieldOf b 0x10 8)).trans hj
  unfold State.finishGet at hrun
  rw [find?_getting hget, if_neg hdest] at hrun
  dsimp only at hrun
  rw [toNat_field 0x10] at hrun
  have hctx : ((u.gets u.rdidx b).begun u.rdidx).ctx = u.ctx := rfl
  rw [hctx, htarget] at hrun
  dsimp only at hrun
  generalize hd : (s.getBegun q u b).store (k + 8) (toBytes 8 0) = d at hq ht hmbx hrun
  unfold State.storeLE at hrun
  generalize hx : toBytes 8 (BitVec.ofNat 64 ((s.getBegun q u b).readLE k 8)).toNat = x at hrun
  have hdone := State.served_of (a := d.store j x) (State.queue?_id hu) ((State.queue?_store ..).trans hq)
    (ht.of_qcache (congrArg FrontEnd.qcache (d.fe_store j x))) hst rfl (by rw [State.fe_store]; exact hmbx)
  refine ⟨_, hrun, u, b, k, j, hs, hw, hj, fun hc => ⟨_, (hdone hc k).1, rfl, rfl, Queue.ends_completed rfl⟩, fun hc y => ?_⟩
  have hcached : (s.onQueue q (Queue.gets u.rdidx b)).Cached q u := hc
  have hbyte : (s.getBegun q u b).byte = s.byte := by
    unfold State.getBegun
    rw [(State.onlyQueues_onQueue ..).byte, byte_of_mem hcached.mem]
    rfl
  have hread : (s.getBegun q u b).readLE k 8 = s.readLE k 8 := by
    unfold State.readLE State.bytes
    rw [hbyte]
  have hlt : s.readLE k 8 < 2 ^ 64 := (ofBytes_lt _).trans_le (by unfold State.bytes; simp)
  rw [hread, BitVec.toNat_ofNat, Nat.mod_eq_of_lt hlt] at hx
  refine (congrFun (hdone hc.1 k).2 y).trans ?_
  rw [State.byte_store, ← hx, ← hd, State.byte_store, hbyte]
  rfl

theorem signal_steps (q : Nat) : Steps (.signalPacket q)
    (fun s => ∃ u b j, s.startable q 4 = some (u, b) ∧ s.wordHeld u.ctx none (fieldOf b 0x08 8) = false ∧
      (s.touchQueue q).wordTarget u.ctx none (fieldOf b 0x08 8) = .ok j)
    fun s t => ∃ u b j, s.startable q 4 = some (u, b) ∧ (s.touchQueue q).wordTarget u.ctx none (fieldOf b 0x08 8) = .ok j ∧ QueueIs t q u u.Ends ∧
      (s.Cached q u → ∀ x, t.byte x = fieldsAt s.byte j [(0, 8, fieldOf b 0x10 8)] x) := by
  rintro s ⟨u, b, j, hs, hheld, hj⟩
  obtain ⟨hu, hst, -⟩ := State.startable_spec hs
  have htouch : (s.touchQueue q).Touched q := State.touched_of hu (by rcases hst with h | h <;> rw [h] <;> decide)
  have htarget : (s.startPacket u).wordTarget u.ctx none (fieldOf b 0x08 8) = .ok j := by
    rw [State.startPacket_eq hu]
    exact ((State.reaches_queues _ _).wordTarget ..).trans hj
  generalize ha : (s.startPacket u).store j (toBytes 8 (fieldOf b 0x10 8)) = a
  have hqa : a.queue? q = some (u.begun u.rdidx) := by
    rw [← ha, State.queue?_store, State.startPacket_eq hu]
    exact State.queue?_onQueue_of (State.queue?_touched hu) fun _ => rfl
  have hta : a.Touched q := by
    rw [← ha, State.startPacket_eq hu]
    exact htouch.of_qcache (congrArg FrontEnd.qcache (State.fe_store ..))
  have hrun : exec (.signalPacket q) s = .next ((a.onQueue q (Queue.completed u.rdidx)).settleQueue q) := by
    change execSignalPacket q s = _
    unfold execSignalPacket
    rw [hs]
    dsimp only
    rw [hheld, if_neg (by decide), htarget]
    dsimp only
    rw [← State.completePacket_of hqa hta hst, ← ha]
    rfl
  have hsettle := State.settleQueue_of (s := a.onQueue q (Queue.completed u.rdidx)) (v := (u.begun u.rdidx).completed u.rdidx)
    (State.queue?_onQueue_of hqa fun _ => rfl) ((State.onlyQueues_onQueue ..).touched hta)
  refine ⟨_, hrun, u, b, j, hs, hj, fun hc => ⟨_, (hsettle hc).1, rfl, rfl, Queue.ends_completed rfl⟩, fun hc x => ?_⟩
  refine (congrFun (hsettle hc.1).2.byte x).trans ?_
  change a.byte x = _
  rw [← ha, State.byte_store, State.startPacket_eq hu, (State.onlyQueues_onQueue ..).byte, byte_of_mem hc.mem]
  rfl

/-- Settles O38, packet by packet. -/
theorem packets : Obligations.Packets :=
  ⟨packetFetch_stalls, packetFetch_unknown, packetFetch_waits, stallReread_steps, launchPacket_steps, mbxPut_serves, mbxPut_waits, mbxGet_drops,
    mbxGet_writes, signal_steps⟩

end Sys2Proof.Machine
end

section
/-!
SUPPORT. Table walks, the end of tfence, and records of faults that are held (R156, R336, R369-R371).
-/
namespace Sys2Proof.Machine

/-! ### Table walks (R369-R371) -/

theorem leafSize_pos (level : Nat) (e : DWord) : 0 < leafSize level e := by
  unfold leafSize
  split
  · split <;> decide
  · decide
  · decide

/-- The entry of a level, cached or read. -/
def State.tableEntry (s : State) (w : Walker) (va tgt table level : Nat) : Except XFault DWord :=
  match w.die.bind fun d => if level = 0 then none else s.tlbHit (.walk d level) w.ctx va with
  | some e => .ok e
  | none => s.readEntry w tgt (table + 8 * vaIndex level va)

theorem State.walkLevel_eq (s : State) (w : Walker) (va tgt table level : Nat) : s.walkLevel w va tgt table level =
    (s.tableEntry w va tgt table level).bind fun e => if !pteV e then .error .page else if pteBad level e then .error .reserved else .ok e := by
  unfold State.walkLevel State.tableEntry
  dsimp only
  cases w.die.bind fun d => if level = 0 then none else s.tlbHit (.walk d level) w.ctx va with
  | some e => rfl
  | none =>
    dsimp only
    cases s.readEntry w tgt (table + 8 * vaIndex level va) <;> rfl

/-- A walk's last entry is a leaf. -/
theorem State.walkLevel_zero {s : State} {w : Walker} {va tgt table : Nat} {e : DWord} (h : s.walkLevel w va tgt table 0 = .ok e) :
    pteLeaf e = true := by
  rw [State.walkLevel_eq] at h
  cases hx : s.tableEntry w va tgt table 0 with
  | error f =>
    rw [hx] at h
    cases h
  | ok x =>
    rw [hx] at h
    simp only [Except.bind] at h
    split at h
    · cases h
    · split at h
      · cases h
      · next hbad =>
        cases h
        unfold pteBad at hbad
        simp only [Bool.or_eq_true, not_or, Bool.and_eq_true, Bool.not_eq_true', beq_self_eq_true, true_and, Bool.not_eq_false] at hbad
        tauto

/-- The leaf's entry in its cache. -/
def leafEntry (die : Nat) (u : WalkUnit) (ctx va size : Nat) (e : DWord) (src : Option Nat) : TlbEntry :=
  ⟨.leaf die u, ctx, va - va % size, size, e, src⟩

/-- A leaf that its cache takes. -/
def Cachable (u : WalkUnit) (e : DWord) : Prop := ptePoison e = false ∧ ∀ g, u = .fetch g → pteX e = true

theorem State.levelEntry_leaf {s : State} {die ctx va level tgt table : Nat} {u : WalkUnit} {e : DWord} (hc : Cachable u e)
    (hleaf : pteLeaf e = true) (h : s.walkLevel ⟨some die, none, ctx, []⟩ va tgt table level = .ok e) :
    s.levelEntry die ctx u va level tgt table = some (leafEntry die u ctx va (leafSize level e) e (if tgt = 0 then some (stackOf table) else none)) := by
  obtain ⟨hp, hx⟩ := hc
  unfold State.levelEntry leafEntry
  rw [h]
  cases u with
  | fetch g => simp [hleaf, hp, hx g rfl]
  | priv g => simp [hleaf, hp]
  | engine g => simp [hleaf, hp]

theorem State.levelEntry_table {s : State} {die ctx va level tgt table : Nat} {u : WalkUnit} {e : DWord} (hleaf : pteLeaf e = false)
    (h : s.walkLevel ⟨some die, none, ctx, []⟩ va tgt table level = .ok e) : ∃ x, s.levelEntry die ctx u va level tgt table = some x ∧
      x.unit = .walk die level ∧ x.pte = e := by
  unfold State.levelEntry
  rw [h]
  dsimp only
  rw [if_neg (by simp [hleaf])]
  exact ⟨_, rfl, by simp [hleaf], rfl⟩

/-- The entries of a walk that finds its leaf: those of tables, then the leaf's. -/
theorem State.walkEntries_leaf {s : State} {die ctx va : Nat} {u : WalkUnit} {size : Nat} {e : DWord} (hc : Cachable u e) (level tgt table : Nat)
    (h : s.walkFrom ⟨some die, none, ctx, []⟩ va level tgt table = .ok (size, e)) :
    ∃ l src, s.walkEntries die ctx u va level tgt table = l ++ [leafEntry die u ctx va size e src] ∧ 0 < size ∧
      ∀ x ∈ l, ∃ d n, x.unit = .walk d n := by
  induction level generalizing tgt table with
  | zero =>
    unfold State.walkFrom at h
    unfold State.walkEntries
    split at h
    · cases h
    · next e' he =>
      cases h
      rw [State.levelEntry_leaf hc (State.walkLevel_zero he) he]
      exact ⟨[], _, rfl, leafSize_pos 0 e, nofun⟩
  | succ k ih =>
    unfold State.walkFrom at h
    unfold State.walkEntries
    split at h
    · cases h
    · next e' he =>
      split at h
      · next hleaf =>
        cases h
        rw [State.levelEntry_leaf hc hleaf he]
        exact ⟨[], _, if_pos hleaf, leafSize_pos (k + 1) e, nofun⟩
      · next hleaf =>
        obtain ⟨x, hx, hunit, hpte⟩ := State.levelEntry_table (u := u) (Bool.eq_false_iff.mpr hleaf) he
        obtain ⟨l, src, hl, hsize, hwalk⟩ := ih _ _ h
        rw [hx]
        dsimp only
        rw [hpte, if_neg hleaf, hl]
        refine ⟨x :: l, src, rfl, hsize, fun y hy => ?_⟩
        obtain rfl | hy := List.mem_cons.mp hy
        · exact ⟨_, _, hunit⟩
        · exact hwalk y hy

/-- An entry brought in by a walk. -/
def State.brings (ctx va : Nat) (s : State) (e : TlbEntry) : State := if (s.tlbHit e.unit ctx va).isSome then s else s.tlbFill e

theorem State.brings_rest (ctx va : Nat) (s : State) (e : TlbEntry) : { s.brings ctx va e with tlb := s.tlb } = s := by
  unfold State.brings
  split <;> rfl

theorem State.foldl_brings_rest (ctx va : Nat) (l : List TlbEntry) (s : State) : { l.foldl (State.brings ctx va) s with tlb := s.tlb } = s := by
  induction l generalizing s with
  | nil => rfl
  | cons e l ih => exact (congrArg (fun x : State => { x with tlb := s.tlb }) (ih (s.brings ctx va e)) :).trans (s.brings_rest ctx va e)

theorem mem_of_mem_dropFirst {α : Type} {p : α → Bool} {l : List α} {x : α} (h : x ∈ dropFirst p l) : x ∈ l := by
  induction l with
  | nil => exact h
  | cons y l ih =>
    unfold dropFirst at h
    split at h
    · exact List.mem_cons_of_mem y h
    · obtain rfl | h := List.mem_cons.mp h
      · exact List.mem_cons_self
      · exact List.mem_cons_of_mem y (ih h)

/-- An entry that serves an address. -/
def TlbEntry.serves (u : TlbUnit) (ctx va : Nat) (e : TlbEntry) : Bool := e.unit == u && e.ctx == ctx && e.va ≤ va && va < e.va + e.size

theorem State.tlbHit_eq_none {s : State} {u : TlbUnit} {ctx va : Nat} : s.tlbHit u ctx va = none ↔ ∀ e ∈ s.tlb, TlbEntry.serves u ctx va e = false := by
  unfold State.tlbHit
  rw [Option.map_eq_none_iff, List.find?_eq_none]
  simp only [Bool.not_eq_true]
  rfl

/-- What a full cache keeps beside an entry put in. -/
def State.keptFor (s : State) (e : TlbEntry) : List TlbEntry :=
  if e.unit.capacity ≤ (s.tlb.filter fun x => x.unit.sameCache e.unit).length then dropFirst (fun x => x.unit.sameCache e.unit) s.tlb else s.tlb

theorem State.tlbFill_tlb (s : State) (e : TlbEntry) : (s.tlbFill e).tlb = s.keptFor e ++ [e] := rfl

theorem State.mem_keptFor {s : State} {e x : TlbEntry} (h : x ∈ s.keptFor e) : x ∈ s.tlb := by
  unfold State.keptFor at h
  split at h
  · exact mem_of_mem_dropFirst h
  · exact h

/-- A table's entry serves no leaf cache. -/
theorem State.tlbHit_brings {s : State} {die ctx va d n : Nat} {u : WalkUnit} {e : TlbEntry} (h : s.tlbHit (.leaf die u) ctx va = none)
    (he : e.unit = .walk d n) : (s.brings ctx va e).tlbHit (.leaf die u) ctx va = none := by
  unfold State.brings
  split
  · exact h
  · rw [State.tlbHit_eq_none] at h ⊢
    rw [s.tlbFill_tlb e]
    intro x hx
    obtain hx | hx := List.mem_append.mp hx
    · exact h x (State.mem_keptFor hx)
    · obtain rfl := List.mem_singleton.mp hx
      unfold TlbEntry.serves
      rw [he]
      rfl

theorem State.tlbHit_foldl {die ctx va : Nat} {u : WalkUnit} (l : List TlbEntry) {s : State} (h : s.tlbHit (.leaf die u) ctx va = none)
    (hl : ∀ x ∈ l, ∃ d n, x.unit = .walk d n) : (l.foldl (State.brings ctx va) s).tlbHit (.leaf die u) ctx va = none := by
  induction l generalizing s with
  | nil => exact h
  | cons e l ih =>
    obtain ⟨d, n, he⟩ := hl e List.mem_cons_self
    exact ih (State.tlbHit_brings h he) fun x hx => hl x (List.mem_cons_of_mem e hx)

/-- The leaf that has been brought in serves its address. -/
theorem State.tlbHit_leafEntry {s : State} {die ctx va size : Nat} {u : WalkUnit} {e : DWord} {src : Option Nat} (hsize : 0 < size)
    (h : s.tlbHit (.leaf die u) ctx va = none) : (s.brings ctx va (leafEntry die u ctx va size e src)).tlbHit (.leaf die u) ctx va = some e := by
  have hmiss : (s.tlbHit (leafEntry die u ctx va size e src).unit ctx va).isSome = false := by
    change (s.tlbHit (.leaf die u) ctx va).isSome = false
    rw [h]
    rfl
  have hkept : (s.keptFor (leafEntry die u ctx va size e src)).find? (TlbEntry.serves (.leaf die u) ctx va) = none :=
    List.find?_eq_none.mpr fun x hx => by rw [State.tlbHit_eq_none.mp h x (State.mem_keptFor hx)]; decide
  have hserves : TlbEntry.serves (.leaf die u) ctx va (leafEntry die u ctx va size e src) = true := by
    have hmod := Nat.mod_le va size
    have hlt := Nat.mod_lt va hsize
    unfold TlbEntry.serves leafEntry
    simp
    omega
  unfold State.brings
  rw [hmiss, if_neg (by decide)]
  change ((s.keptFor _ ++ [_]).find? (TlbEntry.serves (.leaf die u) ctx va)).map _ = _
  rw [List.find?_append, hkept, Option.none_or, List.find?_cons_of_pos hserves]
  rfl

theorem tableWalk_steps (die ctx va : Nat) (u : WalkUnit) : Steps (.tableWalk die ctx va u)
    (fun s => (∃ c, s.ctx? ctx = some c) ∧ die < 4 ∧ va < 2 ^ 52 ∧ s.tlbHit (.leaf die u) ctx va = none ∧
      s.walksFor die ctx u = true ∧ s.held ⟨some die, some u, ctx, []⟩ va = false)
    fun s t => { t with tlb := s.tlb } = s ∧
      ∀ size e, ptePoison e = false → (∀ g, u = .fetch g → pteX e = true) →
        s.walkFrom ⟨some die, none, ctx, []⟩ va 3 (tagTgt (s.rootOf ctx)) (fld (s.rootOf ctx) 0 52).toNat = .ok (size, e) →
        t.tlbHit (.leaf die u) ctx va = some e := by
  rintro s ⟨⟨c, hc⟩, hdie, hva, hmiss, hwalks, hheld⟩
  refine ⟨(s.walkEntries die ctx u va 3 (tagTgt (s.rootOf ctx)) (fld (s.rootOf ctx) 0 52).toNat).foldl (State.brings ctx va) s, ?_,
    State.foldl_brings_rest ctx va _ s, fun size e hp hx hwalk => ?_⟩
  · change execTableWalk die ctx va u s = _
    unfold execTableWalk
    dsimp only
    rw [if_neg (by simp [hc, hmiss, hwalks, hheld]; omega)]
    rfl
  · obtain ⟨l, src, hl, hsize, hunits⟩ := State.walkEntries_leaf ⟨hp, hx⟩ 3 _ _ hwalk
    rw [hl, List.foldl_append]
    exact State.tlbHit_leafEntry hsize (State.tlbHit_foldl l hmiss hunits)

/-! ### The end of `tfence` (R156) -/

/-- A group with an access completed, in its continuations too. -/
def Group.finishes (m : Nat) (g : Group) : Group :=
  { g with arch := g.arch.complete m, conts := g.conts.map fun c => { c with arch := c.arch.complete m } }

theorem State.threads_complete (s : State) (grp : Nat) (seq : Option Nat) : (s.complete grp seq).threads = s.threads := by
  unfold State.complete
  split <;> rfl

theorem State.threads_endThread (s : State) (x : Thread) : (s.endThread x).threads = s.threads.filter (·.id != x.id) := by
  unfold State.endThread
  dsimp only
  split
  · rfl
  · exact State.threads_complete ..

theorem State.groups_complete (s : State) (grp m : Nat) : (s.complete grp (some m)).groups = mapIf s.groups (·.id == grp) (Group.finishes m) := rfl

theorem State.groups_endThread (s : State) {x : Thread} {m : Nat} (ho : x.orphan = false) (hm : x.seq = some m) :
    (s.endThread x).groups = mapIf s.groups (·.id == x.grp) (Group.finishes m) := by
  unfold State.endThread
  dsimp only
  rw [ho, if_neg (by decide), hm]
  exact State.groups_complete ..

theorem tfenceComplete_steps (tid : Nat) : Steps (.tfenceComplete tid)
    (fun s => ∃ x sc, s.thread? tid = some x ∧ x.kind = .tfence sc ∧ ∀ w ∈ x.waits, s.stillOut w = false)
    fun s t => ∃ x, s.thread? tid = some x ∧ t.threads = s.threads.filter (·.id != tid) ∧
      { t with threads := s.threads, groups := s.groups } = s ∧
      (x.orphan = false → ∀ m, x.seq = some m → t.groups = s.groups.map fun g =>
        if g.id = x.grp then { g with arch := g.arch.complete m, conts := g.conts.map fun c => { c with arch := c.arch.complete m } } else g) := by
  rintro s ⟨x, sc, hx, hk, hw⟩
  have hid : x.id = tid := by simpa using List.find?_some hx
  have hdone : ¬x.waits.any s.stillOut = true := by simpa using hw
  refine ⟨s.endThread x, ?_, x, hx, ?_, s.endThread_rest x, fun ho m hm => ?_⟩
  · change execTfenceComplete tid s = _
    unfold execTfenceComplete
    rw [hx]
    dsimp only
    rw [hk]
    dsimp only
    rw [if_neg hdone]
  · rw [s.threads_endThread, hid]
  · rw [s.groups_endThread ho hm]
    exact mapIf_eq_ite s.groups Group.id x.grp (Group.finishes m)

/-! ### Records of faults (R336) -/

namespace Reaches
variable {s t : State} (h : Reaches s t)
include h

theorem feWrite (ctx va n : Nat) : t.feWrite ctx va n = s.feWrite ctx va n := by
  unfold State.feWrite
  simp only [h.feAccess, h.mergesLost]

theorem fring (ctx : Nat) : t.fring ctx = s.fring ctx := h.ctxField ..

theorem frlog (ctx : Nat) : t.frlog ctx = s.frlog ctx := h.ctxField ..

theorem notifya (ctx : Nat) : t.notifya ctx = s.notifya ctx := h.ctxField ..

end Reaches

/-- A change of a context that keeps its record's place and its dies changes no access. -/
theorem State.reaches_onCtx (s : State) (ctx : Nat) {f : Ctx → Ctx} (hid : ∀ c, (f c).id = c.id)
    (hf : ∀ c, ((f c).recAddr, (f c).dies) = (c.recAddr, c.dies)) : Reaches s (s.onCtx ctx f) := by
  refine ⟨rfl, rfl, rfl, rfl, rfl, rfl, rfl, fun c => ?_⟩
  unfold State.ctx? State.onCtx mapIf
  dsimp only
  rw [find?_map_key]
  · cases s.ctxs.find? (·.id == c) with
    | none => rfl
    | some d =>
      dsimp only [Option.map_some]
      split
      · exact congrArg some (hf d)
      · rfl
  · intro d
    split
    · rw [hid]
    · rfl

/-- The place of a context's next record, and of its notification. -/
def State.RecordAt (s : State) (c : Ctx) (bs : List Byte) (x y : Nat) : Prop :=
  s.feWrite c.id (s.fring c.id + 64 * (c.h % 2 ^ s.frlog c.id)) 64 = .ok x ∧ (s.store x bs).feWrite c.id ((s.store x bs).notifya c.id) 8 = .ok y

/-- A context with its count of records. -/
def Ctx.counts (n : Nat) (c : Ctx) : Ctx := { c with h := n }

/-- A record that is written. -/
theorem State.writeRecord_of {s : State} {c : Ctx} {r : FaultRec} {x y : Nat} (h : s.RecordAt c r.bytes x y) :
    s.writeRecord c r = (((s.store x r.bytes).onCtx c.id (Ctx.counts ((c.h + 1) % 2 ^ 32))).storeLE y 8 ((c.h + 1) % 2 ^ 32)).signal 0 := by
  obtain ⟨hx, hy⟩ := h
  unfold State.writeRecord
  dsimp only
  rw [hx]
  dsimp only
  rw [hy]
  rfl

theorem State.recordAt_congr {s t : State} (h : Reaches s t) {c d : Ctx} (hid : d.id = c.id) (hh : d.h = c.h) {bs : List Byte} {x y : Nat}
    (k : s.RecordAt c bs x y) : t.RecordAt d bs x y := by
  obtain ⟨hx, hy⟩ := k
  have hs := h.store x bs
  refine ⟨?_, ?_⟩
  · rw [hid, hh, h.fring, h.frlog, h.feWrite]
    exact hx
  · rw [hid, hs.notifya, hs.feWrite]
    exact hy

theorem State.signal_byte (s : State) (n : Nat) : (s.signal n).byte = s.byte := (congrArg State.byte (s.signal_rest n) :)

theorem State.signal_ctxs (s : State) (n : Nat) : (s.signal n).ctxs = s.ctxs := (congrArg State.ctxs (s.signal_rest n) :)

theorem State.ctxs_store (s : State) (k : Nat) (bs : List Byte) : (s.store k bs).ctxs = s.ctxs :=
  (congrArg State.ctxs (s.writeEvent_store k bs).rest :)

/-- What a record that is written leaves. -/
theorem State.writeRecord_leaves {s : State} {c : Ctx} {r : FaultRec} {x y : Nat} (h : s.RecordAt c r.bytes x y) :
    (∀ q, (s.writeRecord c r).byte q = putAt (putAt s.byte ((List.range 64).map fun j => x + j) r.bytes)
      ((List.range 8).map fun j => y + j) (toBytes 8 ((c.h + 1) % 2 ^ 32)) q) ∧
    (s.writeRecord c r).ctxs = s.ctxs.map (fun d => if d.id = c.id then { d with h := (c.h + 1) % 2 ^ 32 } else d) ∧
    (s.writeRecord c r).fe.hsig = s.fe.hsig ||| 1 := by
  rw [State.writeRecord_of h]
  have hbyte : (s.store x r.bytes).byte = putAt s.byte ((List.range 64).map fun j => x + j) r.bytes := by
    rw [s.byte_store, (faultRecordBytes r).1]
  have hctxs := s.ctxs_store x r.bytes
  have hfe := s.fe_store x r.bytes
  generalize s.store x r.bytes = w at hbyte hctxs hfe ⊢
  unfold State.storeLE
  refine ⟨fun q => ?_, ?_, ?_⟩
  · rw [State.signal_byte, State.byte_store, ← hbyte]
    rfl
  · rw [State.signal_ctxs, State.ctxs_store, ← hctxs]
    exact mapIf_eq_ite w.ctxs Ctx.id c.id (Ctx.counts ((c.h + 1) % 2 ^ 32))
  · rw [State.signal_hsig, State.fe_store, ← hfe]
    rfl

/-- The oldest held record of a context can be written. -/
def State.Releases (s : State) (ctx : Nat) (c : Ctx) (r : FaultRec) (rs : List FaultRec) (x y : Nat) : Prop :=
  s.ctx? ctx = some c ∧ c.held = r :: rs ∧ c.noRing = false ∧ s.ringFull c = false ∧ r.ctx = ctx ∧
    s.ringHeld c = false ∧ s.isLost (tagKey c.recAddr) 256 = false ∧
    s.feWrite ctx (s.fring ctx + 64 * (c.h % 2 ^ s.frlog ctx)) 64 = .ok x ∧
    (s.store x r.bytes).feWrite ctx ((s.store x r.bytes).notifya ctx) 8 = .ok y

/-- The oldest held record of a context has been written. -/
def State.Released (s t : State) (ctx : Nat) (c : Ctx) (r : FaultRec) (rs : List FaultRec) (x y : Nat) : Prop :=
  (∀ q, t.byte q = putAt (putAt s.byte ((List.range 64).map fun j => x + j) r.bytes)
      ((List.range 8).map fun j => y + j) (toBytes 8 ((c.h + 1) % 2 ^ 32)) q) ∧
    t.ctxs = s.ctxs.map (fun d => if d.id = ctx then { d with held := rs, h := (c.h + 1) % 2 ^ 32 } else d) ∧
    t.fe.hsig = s.fe.hsig ||| 1

theorem State.ctx?_id {s : State} {ctx : Nat} {c : Ctx} (h : s.ctx? ctx = some c) : c.id = ctx := by simpa using List.find?_some h

/-- A context that holds these records. -/
def Ctx.holds (rs : List FaultRec) (c : Ctx) : Ctx := { c with held := rs }

/-- One held record released. -/
theorem State.releaseHeld_one {s : State} {ctx : Nat} {c : Ctx} {r : FaultRec} {rs : List FaultRec} {x y : Nat} (h : s.Releases ctx c r rs x y) :
    s.Released (s.releaseHeld ctx 1) ctx c r rs x y := by
  obtain ⟨hc, hheld, hring, hfull, -, hwait, hlost, hx, hy⟩ := h
  have hid := State.ctx?_id hc
  have hrun : s.releaseHeld ctx 1 = (s.onCtx ctx (Ctx.holds rs)).writeRecord (c.holds rs) r := by
    unfold State.releaseHeld State.hubLoss
    rw [hc]
    dsimp only
    rw [hheld]
    dsimp only
    rw [if_neg (by simp [hring, hwait]), hlost, if_neg (by decide)]
    dsimp only
    rw [if_neg (by simp [hfull])]
    rfl
  have hat : s.RecordAt c r.bytes x y := by
    refine ⟨?_, ?_⟩ <;> rw [hid]
    · exact hx
    · exact hy
  obtain ⟨hbyte, hctxs, hsig⟩ := State.writeRecord_leaves
    (State.recordAt_congr (s.reaches_onCtx ctx (f := Ctx.holds rs) (fun _ => rfl) fun _ => rfl) (d := c.holds rs) rfl rfl hat)
  rw [hrun]
  refine ⟨hbyte, hctxs.trans ?_, hsig⟩
  unfold State.onCtx
  rw [mapIf_eq_ite s.ctxs Ctx.id ctx (Ctx.holds rs), List.map_map]
  refine List.map_congr_left fun d _ => ?_
  rw [Function.comp_apply]
  by_cases hd : d.id = ctx
  · rw [if_pos hd, if_pos hd]
    exact if_pos (hd.trans hid.symm)
  · rw [if_neg hd, if_neg hd]
    exact if_neg fun he => hd (he.trans hid)

theorem heldRecordRelease_steps (ctx : Nat) : Steps (.heldRecordRelease ctx) (fun s => ∃ c r rs x y, s.Releases ctx c r rs x y)
    fun s t => ∃ c r rs x y, s.Releases ctx c r rs x y ∧ s.Released t ctx c r rs x y := by
  rintro s ⟨c, r, rs, x, y, h⟩
  refine ⟨_, ?_, c, r, rs, x, y, h, State.releaseHeld_one h⟩
  obtain ⟨hc, hheld, hring, hfull, -, hwait, -⟩ := h
  change execHeldRecordRelease ctx s = _
  unfold execHeldRecordRelease
  rw [hc]
  exact if_neg (by simp [hheld, hring, hfull, hwait])

theorem frtailReread_eq {s : State} {ctx : Nat} {c : Ctx} (hc : s.ctx? ctx = some c) (hheld : c.held ≠ []) :
    exec (.frtailReread ctx) s = .next (s.releaseHeld ctx c.held.length) := by
  change execFrtailReread ctx s = _
  unfold execFrtailReread
  rw [hc]
  exact if_neg (by simpa using hheld)

theorem frtailReread_full (ctx : Nat) : Steps (.frtailReread ctx)
    (fun s => ∃ c, s.ctx? ctx = some c ∧ c.held ≠ [] ∧ s.ringFull c = true ∧ s.isLost (tagKey c.recAddr) 256 = false)
    fun s t => t = s := by
  rintro s ⟨c, hc, hheld, hfull, hlost⟩
  refine ⟨_, frtailReread_eq hc hheld, ?_⟩
  obtain ⟨r, rs, hr⟩ := List.exists_cons_of_ne_nil hheld
  rw [hr, List.length_cons]
  unfold State.releaseHeld State.hubLoss
  rw [hc]
  dsimp only
  rw [hr, hlost, if_neg (by decide)]
  dsimp only
  rw [hfull, if_pos rfl, ite_self]

theorem frtailReread_lost (ctx : Nat) : Steps (.frtailReread ctx)
    (fun s => ∃ c, s.ctx? ctx = some c ∧ c.held ≠ [] ∧ c.noRing = false ∧ s.ringHeld c = false ∧ s.isLost (tagKey c.recAddr) 256 = true)
    fun s t => t.losses = s.losses + 1 ∧ t.evSeq = s.evSeq + 1 ∧ { t with
      pkg := s.pkg, losses := s.losses, evSeq := s.evSeq
      fe := { t.fe with hsig := s.fe.hsig, notified := s.fe.notified } } = s := by
  rintro s ⟨c, hc, hheld, hring, hwait, hlost⟩
  refine ⟨s.deviceLoss (tagKey c.recAddr), ?_, ?_⟩
  · rw [frtailReread_eq hc hheld]
    obtain ⟨r, rs, hr⟩ := List.exists_cons_of_ne_nil hheld
    rw [hr, List.length_cons]
    unfold State.releaseHeld State.hubLoss
    rw [hc]
    dsimp only
    rw [hr, hlost, if_pos rfl]
    dsimp only
    rw [if_neg (by simp [hring, hwait])]
  · exact s.deviceLoss_rest (tagKey c.recAddr)

theorem frtailReread_releases (ctx : Nat) : Steps (.frtailReread ctx) (fun s => ∃ c r x y, s.Releases ctx c r [] x y)
    fun s t => ∃ c r x y, s.Releases ctx c r [] x y ∧ s.Released t ctx c r [] x y := by
  rintro s ⟨c, r, x, y, h⟩
  obtain ⟨hc, hheld, -⟩ := id h
  refine ⟨s.releaseHeld ctx 1, ?_, c, r, x, y, h, State.releaseHeld_one h⟩
  rw [frtailReread_eq hc (by rw [hheld]; nofun), hheld]
  rfl

/-- Settles O47, by the walks, the fence's end, and the records that are held. -/
theorem systemSteps : Obligations.SystemSteps :=
  ⟨tableWalk_steps, tfenceComplete_steps, heldRecordRelease_steps, frtailReread_full, frtailReread_lost, frtailReread_releases⟩

end Sys2Proof.Machine
end

section
/-!
SUPPORT. Grids and contexts that end; faults that are taken, and resets (R11, R12, R327, R334, R336, R389, R417, R426).
-/
namespace Sys2Proof.Machine

/-! ### Grids and contexts that end -/

/-- A grid that has ended. -/
def Grid.over (g : Grid) : Prop := g.st = .retired ∨ g.st = .failed

/-- A context whose run has ended. -/
def Ctx.stopped (c : Ctx) : Prop := c.st = .faulted ∨ c.st = .dead

/-- The same grid, which may have ended since. -/
structure Grid.Ages (g h : Grid) : Prop where
  id : h.id = g.id
  ctx : h.ctx = g.ctx
  ends : g.over → h.over

/-- Every grid of a context has ended. -/
def State.ctxOver (s : State) (ctx : Nat) : Prop := ∀ g ∈ s.grids, g.ctx = ctx → g.over

/-- A context between two states: its state is the same, or is any where it may be, or it has stopped where contexts may, and all its grids have
ended. -/
def State.CtxWinds (any may : Prop) (s t : State) (ctx : Nat) (d e : Ctx) : Prop :=
  e.st = d.st ∨ any ∨ may ∧ d.st ≠ .free ∧ (d.st = .dead → e.st = .dead) ∧ e.stopped ∧ ((s.grids.map (·.id)).Nodup → t.ctxOver ctx)

/-- A team that has ended. -/
def Team.ended (t : Team) : Prop := t.st = .done ∨ t.st = .killed

/-- From `s` to `t` grids only end, teams stay ended as they are, no group comes, contexts change in the ways that they may, and the stage of the
start is the same. -/
structure Winds (any may : Prop) (s t : State) : Prop where
  stage : t.pkg.stage = s.pkg.stage
  modules : t.pkg.modules = s.pkg.modules
  grids : ∃ F : Grid → Grid, t.grids = s.grids.map F ∧ ∀ g, Grid.Ages g (F g)
  ctxs : ∀ c d, s.ctx? c = some d → ∃ e, t.ctx? c = some e ∧ State.CtxWinds any may s t c d e
  teams : ∀ n x, s.team? n = some x → ∃ y, t.team? n = some y ∧ (x.ended → y.st = x.st)
  groups : ∀ g ∈ t.groups, ∃ h ∈ s.groups, h.team = g.team

theorem Grid.Ages.refl (g : Grid) : Grid.Ages g g := ⟨rfl, rfl, fun h => h⟩

theorem Grid.Ages.trans {g h k : Grid} (a : Grid.Ages g h) (b : Grid.Ages h k) : Grid.Ages g k :=
  ⟨b.id.trans a.id, b.ctx.trans a.ctx, fun o => b.ends (a.ends o)⟩

/-- A team as it leaves the machine. -/
def Team.ends (st : TeamState) (u : Team) : Team :=
  { u with st := st, image := none, record := none, recordAt := none, recDone := 0, leaving := .stay, wakeSet := [],
           bivouacking := false, recFault := none, saveFault := none, slotWait := none }

/-- A team of a list in which some teams have changed. -/
theorem State.team?_mapIf {w z : State} {p : Team → Bool} {f : Team → Team} {n : Nat} {v : Team} (hv : w.team? n = some v)
    (hf : ∀ x, (f x).id = x.id) (hz : z.teams = mapIf w.teams p f) : z.team? n = some (if p v then f v else v) := by
  unfold State.team? at hv ⊢
  rw [hz, mapIf, find?_map_key _ _ _ fun x => by split <;> simp [hf], hv]
  rfl

namespace Winds
variable {any may : Prop} {s t u : State}

theorem refl (s : State) : Winds any may s s :=
  ⟨rfl, rfl, ⟨id, (List.map_id _).symm, Grid.Ages.refl⟩, fun _ d h => ⟨d, h, .inl rfl⟩, fun _ x h => ⟨x, h, fun _ => rfl⟩, fun g hg => ⟨g, hg, rfl⟩⟩

theorem nodup (h : Winds any may s t) (n : (s.grids.map (·.id)).Nodup) : (t.grids.map (·.id)).Nodup := by
  obtain ⟨F, hF, hA⟩ := h.grids
  rw [hF, List.map_map]
  exact (List.map_congr_left (g := fun x : Grid => x.id) fun g _ => (hA g).id) ▸ n

theorem ctxOver (h : Winds any may s t) {c : Nat} (o : s.ctxOver c) : t.ctxOver c := by
  obtain ⟨F, hF, hA⟩ := h.grids
  intro g hg hc
  rw [hF] at hg
  obtain ⟨x, hx, rfl⟩ := List.mem_map.mp hg
  exact (hA x).ends (o x hx ((hA x).ctx.symm.trans hc))

theorem trans (h : Winds any may s t) (k : Winds any may t u) : Winds any may s u := by
  refine ⟨k.stage.trans h.stage, k.modules.trans h.modules, ?_, fun c d hd => ?_, fun n x hx => ?_, fun g hg => ?_⟩
  · obtain ⟨F, hF, hA⟩ := h.grids
    obtain ⟨G, hG, hB⟩ := k.grids
    exact ⟨G ∘ F, by rw [hG, hF, List.map_map], fun g => (hA g).trans (hB (F g))⟩
  · obtain ⟨e, he, hde⟩ := h.ctxs c d hd
    obtain ⟨x, hx, hex⟩ := k.ctxs c e he
    refine ⟨x, hx, ?_⟩
    obtain hex | hany | ⟨hmay, hfree, hdead, hstop, hover⟩ := hex
    · obtain hde | hany | ⟨hmay, hfree, hdead, hstop, hover⟩ := hde
      · exact .inl (hex.trans hde)
      · exact .inr (.inl hany)
      · refine .inr <| .inr ⟨hmay, hfree, fun hd => hex.trans (hdead hd), ?_, fun n => k.ctxOver (hover n)⟩
        unfold Ctx.stopped
        rwa [hex]
    · exact .inr (.inl hany)
    · obtain hde | hany | ⟨-, hfree', hdead', -, -⟩ := hde
      · exact .inr <| .inr ⟨hmay, fun h => hfree (hde.trans h), fun h => hdead (hde.trans h), hstop, fun n => hover (h.nodup n)⟩
      · exact .inr (.inl hany)
      · exact .inr <| .inr ⟨hmay, hfree', fun h => hdead (hdead' h), hstop, fun n => hover (h.nodup n)⟩
  · obtain ⟨y, hy, hxy⟩ := h.teams n x hx
    obtain ⟨z, hz, hyz⟩ := k.teams n y hy
    refine ⟨z, hz, fun he => ?_⟩
    have hst := hxy he
    refine (hyz ?_).trans hst
    unfold Team.ended
    rwa [hst]
  · obtain ⟨a, ha, hag⟩ := k.groups g hg
    obtain ⟨b, hb, hba⟩ := h.groups a ha
    exact ⟨b, hb, hba.trans hag⟩

/-- A change that leaves grids, contexts and the start as they are. -/
theorem same (h : Winds any may s t) (hst : u.pkg.stage = t.pkg.stage) (hmod : u.pkg.modules = t.pkg.modules) (hg : u.grids = t.grids)
    (hc : u.ctxs = t.ctxs) (ht : u.teams = t.teams) (hgr : ∀ g ∈ u.groups, ∃ h ∈ t.groups, h.team = g.team) : Winds any may s u :=
  h.trans ⟨hst, hmod, ⟨id, by rw [hg, List.map_id], Grid.Ages.refl⟩, fun c d hd => ⟨d, by unfold State.ctx? at hd ⊢; rwa [hc], .inl rfl⟩,
    fun n x hx => ⟨x, by unfold State.team? at hx ⊢; rwa [ht], fun _ => rfl⟩, hgr⟩

/-- The same where teams and groups are as they were, too. -/
theorem sameLists (h : Winds any may s t) (hst : u.pkg.stage = t.pkg.stage) (hmod : u.pkg.modules = t.pkg.modules) (hg : u.grids = t.grids)
    (hc : u.ctxs = t.ctxs) (ht : u.teams = t.teams) (hgr : u.groups = t.groups) : Winds any may s u :=
  h.same hst hmod hg hc ht fun g hg => ⟨g, hgr ▸ hg, rfl⟩

theorem mapGrids (h : Winds any may s t) {F : Grid → Grid} (hF : ∀ g, Grid.Ages g (F g)) : Winds any may s { t with grids := t.grids.map F } :=
  h.trans ⟨rfl, rfl, ⟨F, rfl, hF⟩, fun _ d hd => ⟨d, hd, .inl rfl⟩, fun _ x hx => ⟨x, hx, fun _ => rfl⟩, fun g hg => ⟨g, hg, rfl⟩⟩

theorem ite_ages {p : Grid → Bool} {f : Grid → Grid} (hf : ∀ g, Grid.Ages g (f g)) (g : Grid) : Grid.Ages g (if p g then f g else g) := by
  split
  · exact hf g
  · exact .refl g

/-- Contexts changed one by one, where the states are kept or the contexts have stopped. -/
theorem mapCtxs (h : Winds any may s t) {F : Ctx → Ctx} (hid : ∀ c, (F c).id = c.id) (hF : ∀ c d, t.ctx? c = some d → State.CtxWinds any may t t c d (F d)) :
    Winds any may s { t with ctxs := t.ctxs.map F } := by
  refine h.trans ⟨rfl, rfl, ⟨id, (List.map_id _).symm, Grid.Ages.refl⟩, fun c d hd => ⟨F d, ?_, ?_⟩, fun _ x hx => ⟨x, hx, fun _ => rfl⟩,
    fun g hg => ⟨g, hg, rfl⟩⟩
  · unfold State.ctx? at hd ⊢
    rw [find?_map_key _ _ F fun x => by rw [hid], hd]
    rfl
  · exact hF c d hd

/-- Teams changed one by one, where those that have ended keep their state. -/
theorem mapTeams (h : Winds any may s t) {F : Team → Team} (hid : ∀ x, (F x).id = x.id) (hF : ∀ n x, t.team? n = some x → x.ended → (F x).st = x.st) :
    Winds any may s { t with teams := t.teams.map F } := by
  refine h.trans ⟨rfl, rfl, ⟨id, (List.map_id _).symm, Grid.Ages.refl⟩, fun _ d hd => ⟨d, hd, .inl rfl⟩, fun n x hx => ⟨F x, ?_, hF n x hx⟩,
    fun g hg => ⟨g, hg, rfl⟩⟩
  unfold State.team? at hx ⊢
  rw [find?_map_key _ _ F fun y => by rw [hid], hx]
  rfl

theorem onCtx (h : Winds any may s t) {n : Nat} {f : Ctx → Ctx} (hid : ∀ c, (f c).id = c.id) (hst : ∀ c, (f c).st = c.st) :
    Winds any may s (t.onCtx n f) := by
  refine h.mapCtxs (F := fun c => if c.id == n then f c else c) (fun c => ?_) fun _ c _ => .inl ?_ <;> split
  · exact hid c
  · rfl
  · exact hst c
  · rfl

/-- A context stops, with all its grids ended. -/
theorem stopCtx (h : Winds any may s t) {n : Nat} {f : Ctx → Ctx} (hmay : may) (hid : ∀ c, (f c).id = c.id) (hover : (t.grids.map (·.id)).Nodup → t.ctxOver n)
    (hf : ∀ c, t.ctx? n = some c → c.st ≠ .free ∧ (c.st = .dead → (f c).st = .dead) ∧ (f c).stopped) : Winds any may s (t.onCtx n f) := by
  refine h.mapCtxs (F := fun c => if c.id == n then f c else c) (fun c => ?_) fun m c hc => ?_ <;> split
  · exact hid c
  · rfl
  · next hn =>
    have hm : m = n := (State.ctx?_id hc).symm.trans (eq_of_beq hn)
    subst hm
    obtain ⟨hfree, hdead, hstop⟩ := hf c hc
    exact .inr <| .inr ⟨hmay, hfree, hdead, hstop, hover⟩
  · exact .inl rfl

theorem ite (h : Winds any may s t) (k : Winds any may s u) {c : Prop} {_ : Decidable c} : Winds any may s (if c then t else u) := by
  split
  · exact h
  · exact k

theorem foldl (h : Winds any may s t) {α : Type} {l : List α} {f : State → α → State} (hf : ∀ t a, Winds any may t (f t a)) : Winds any may s (l.foldl f t) := by
  induction l generalizing t with
  | nil => exact h
  | cons a l ih => exact ih (h.trans (hf t a))

/-! ### Operations on the machine's parts -/

theorem onGroup (h : Winds any may s t) {n : Nat} {f : Group → Group} (hf : ∀ g, (f g).team = g.team) : Winds any may s (t.onGroup n f) :=
  h.same rfl rfl rfl rfl rfl fun g hg => by
    obtain ⟨x, hx, rfl⟩ := List.mem_map.mp hg
    refine ⟨x, hx, ?_⟩
    split
    · exact (hf x).symm
    · rfl
theorem onQueue (h : Winds any may s t) {n : Nat} {f : Queue → Queue} : Winds any may s (t.onQueue n f) := h.sameLists rfl rfl rfl rfl rfl rfl
theorem onDie (h : Winds any may s t) {n : Nat} {f : Die → Die} : Winds any may s (t.onDie n f) := h.sameLists rfl rfl rfl rfl rfl rfl
theorem onFe (h : Winds any may s t) {f : FrontEnd → FrontEnd} : Winds any may s (t.onFe f) := h.sameLists rfl rfl rfl rfl rfl rfl
theorem nextSeqNo (h : Winds any may s t) : Winds any may s t.nextSeqNo := h.sameLists rfl rfl rfl rfl rfl rfl
theorem losses (h : Winds any may s t) {n : Nat} : Winds any may s { t with losses := n } := h.sameLists rfl rfl rfl rfl rfl rfl

theorem setCore (h : Winds any may s t) {c : Core} : Winds any may s (t.setCore c) := by
  unfold State.setCore
  split <;> exact h.sameLists rfl rfl rfl rfl rfl rfl

theorem onCore (h : Winds any may s t) {die site : Nat} {f : Core → Core} : Winds any may s (t.onCore die site f) := h.setCore

theorem mem_mapsGroups {R : Group → Group → Prop} (hR : ∀ g h, R g h → h.team = g.team) {s t : State} (h : MapsGroups R s t) :
    ∀ g ∈ t.groups, ∃ h ∈ s.groups, h.team = g.team := by
  obtain ⟨F, hF, hr⟩ := h
  intro g hg
  rw [hF] at hg
  obtain ⟨x, hx, rfl⟩ := List.mem_map.mp hg
  exact ⟨x, hx, (hR _ _ (hr x)).symm⟩

theorem squashes (h : Winds any may s t) (k : Squashes t u) : Winds any may s u :=
  h.same (congrArg (fun x : State => x.pkg.stage) k.rest :) (congrArg (fun x : State => x.pkg.modules) k.rest :) (congrArg State.grids k.rest :)
    (congrArg State.ctxs k.rest :) (congrArg State.teams k.rest :)
    (mem_mapsGroups (fun _ _ (e : Group.SameButConts _ _) => (congrArg Group.team e :)) k.groups)

theorem countSquash (h : Winds any may s t) {g : Group} {cs : List Cont} : Winds any may s (t.countSquash g cs) := h.squashes (t.squashes_countSquash g cs)
theorem squashAll (h : Winds any may s t) {n : Nat} : Winds any may s (t.squashAll n) := h.squashes (t.squashes_squashAll n)

theorem store (h : Winds any may s t) {k : Nat} {bs : List Byte} : Winds any may s (t.store k bs) := by
  have w := t.writeEvent_store k bs
  obtain ⟨F, hF, hR⟩ := w.teams
  have hteams : Winds any may s { t with teams := t.teams.map F } :=
    h.mapTeams (fun x => (congrArg Team.id (hR x) :)) fun _ x _ _ => (congrArg Team.st (hR x) :)
  exact hteams.same (congrArg (fun x : State => x.pkg.stage) w.rest :) (congrArg (fun x : State => x.pkg.modules) w.rest :) (congrArg State.grids w.rest :)
    (congrArg State.ctxs w.rest :) hF fun g hg =>
      mem_mapsGroups (R := Group.Fired k bs.length) (s := t) (t := t.store k bs) (fun _ _ e => (congrArg Group.team e :)) w.groups g hg

theorem storeLE (h : Winds any may s t) {k n x : Nat} : Winds any may s (t.storeLE k n x) := h.store
theorem copyRange (h : Winds any may s t) {k j n : Nat} : Winds any may s (t.copyRange k j n) := h.sameLists rfl rfl rfl rfl rfl rfl

theorem performPart (h : Winds any may s t) {e : Late} : Winds any may s (t.performPart e).1 := by
  cases e with
  | store => exact h.store
  | read => exact h
  | rmw => exact h.foldl fun t _ => (Winds.refl t).store

theorem performAt (h : Winds any may s t) {grp seq i : Nat} : Winds any may s (t.performAt grp seq i) := by
  unfold State.performAt
  split
  · exact h
  · exact h.performPart.onGroup (by exact fun _ => rfl)

theorem performBy (h : Winds any may s t) {grp : Nat} {p : Tracked → Bool} : Winds any may s (t.performBy grp p) := by
  unfold State.performBy
  split
  · exact h
  · exact h.foldl fun t _ => (Winds.refl t).foldl fun t _ => (Winds.refl t).performAt

theorem drainLate (h : Winds any may s t) {grp : Nat} : Winds any may s (t.drainLate grp) := h.performBy

theorem signal (h : Winds any may s t) {n : Nat} : Winds any may s (t.signal n) := by
  have w := t.signal_rest n
  have hgroups : (t.signal n).groups = t.groups := (congrArg State.groups w :)
  exact h.same (congrArg (fun x : State => x.pkg.stage) w :) (congrArg (fun x : State => x.pkg.modules) w :) (congrArg State.grids w :)
    (congrArg State.ctxs w :) (congrArg State.teams w :) fun g hg => ⟨g, hgroups ▸ hg, rfl⟩

theorem onPkg (h : Winds any may s t) {f : Package → Package} (hst : ∀ p, (f p).stage = p.stage)
    (hmod : ∀ p, (f p).modules = p.modules) : Winds any may s (t.onPkg f) := h.sameLists (hst _) (hmod _) rfl rfl rfl rfl

theorem mgmtLog (h : Winds any may s t) {e : MgmtEntry} : Winds any may s (t.mgmtLog e) := (h.onPkg (by exact fun _ => rfl) (by exact fun _ => rfl)).signal
theorem requestReset (h : Winds any may s t) {k : ResetKind} {dies : BitVec 4} : Winds any may s (t.requestReset k dies) := h.sameLists rfl rfl rfl rfl rfl rfl
theorem deviceLoss (h : Winds any may s t) {k : Nat} : Winds any may s (t.deviceLoss k) := h.mgmtLog.nextSeqNo.requestReset.losses

theorem hubLoss (h : Winds any may s t) {k n : Nat} (e : t.hubLoss k n = some u) : Winds any may s u := by
  unfold State.hubLoss at e
  split at e
  · cases e; exact h.deviceLoss
  · cases e

/-! ### Queues -/

theorem accessQcb (h : Winds any may s t) {q : Nat} {k : QcbAccess} : Winds any may s (t.accessQcb q k) := by
  unfold State.accessQcb
  split
  · cases e : t.hubLoss (t.qcbKey q) 256 with
    | none => exact h
    | some u => exact h.hubLoss e
  · exact (h.deviceLoss.ite h.store).signal.ite (h.deviceLoss.ite h.store)
  · exact h

theorem onQcb (h : Winds any may s t) {q : Nat} {k : QcbAccess} : Winds any may s (t.onQcb q k) := by
  unfold State.onQcb
  exact h.onFe.ite h.accessQcb

theorem writeQcb (h : Winds any may s t) {q : Nat} : Winds any may s (t.writeQcb q) := h.onQcb

theorem touchQueue (h : Winds any may s t) {q : Nat} : Winds any may s (t.touchQueue q) := by
  unfold State.touchQueue
  exact ((h.ite h.onQcb).foldl fun t _ => (Winds.refl t).writeQcb).onFe.ite h

theorem saveQueue (h : Winds any may s t) {q : Nat} : Winds any may s (t.saveQueue q) := by
  unfold State.saveQueue
  split
  · exact h.writeQcb.ite h
  · exact h

theorem queueError (h : Winds any may s t) {q code idx : Nat} {hdr : DWord} : Winds any may s (t.queueError q code idx hdr) := h.onQueue.onQcb

theorem progress (h : Winds any may s t) {q : Nat} : Winds any may s (t.progress q).1 := by
  unfold State.progress
  split
  · exact h
  · extract_lets die
    split
    · exact h
    · split
      · dsimp only; exact h.onFe
      · split
        · split
          · exact h
          · exact h.queueError
        · exact h.storeLE.onQueue

theorem setQueue (h : Winds any may s t) {q : Nat} {st : QState} : Winds any may s (t.setQueue q st).1 := by
  have hq := h.touchQueue (q := q) |>.onQueue (n := q) (f := fun u => { u with st := st })
  unfold State.setQueue
  dsimp only
  split
  · exact hq.progress.saveQueue
  · exact hq.saveQueue

theorem withdrawPacket (h : Winds any may s t) {q : Nat} : Winds any may s (t.withdrawPacket q) := by
  unfold State.withdrawPacket
  split
  · exact h
  · exact h.onFe.onQueue.ite h

theorem dropQueue (h : Winds any may s t) {q : Nat} : Winds any may s (t.dropQueue q) := by
  unfold State.dropQueue
  exact h.withdrawPacket.onFe.onQueue.writeQcb.onFe

theorem syncQueue (h : Winds any may s t) {q : Nat} : Winds any may s (t.syncQueue q).1 := by
  unfold State.syncQueue
  split
  · exact h
  · split
    · split
      · exact h
      · exact h.dropQueue
    · split
      · exact h
      · exact h.dropQueue
    · split
      · split
        · exact h.setQueue
        · exact h
      · split
        · exact h.withdrawPacket.onQueue.setQueue
        · exact h.withdrawPacket.onQueue.setQueue
        · exact h.withdrawPacket.onQueue.setQueue
        · exact h.withdrawPacket.onQueue.setQueue
        · exact h

theorem syncQueues (h : Winds any may s t) {ctx : Nat} : Winds any may s (t.syncQueues ctx).1 := by
  unfold State.syncQueues
  generalize ((t.queues.filter fun u => u.ctx == ctx).map fun u => u.id) = l
  suffices q : ∀ (l : List Nat) (a : State × List Report), Winds any may s a.1 → Winds any may s (l.foldl (fun (a : State × List Report) q =>
      let r := a.1.syncQueue q
      (r.1, a.2 ++ r.2.toList)) a).1 from q l (t, []) h
  intro l
  induction l with
  | nil => exact fun _ h => h
  | cons q l ih => exact fun a h => ih _ h.syncQueue

/-! ### Teams that end -/

theorem recheckSlots (h : Winds any may s t) {grid : Nat} : Winds any may s (t.recheckSlots grid) := by
  unfold State.recheckSlots
  split
  · exact h
  · exact h.sameLists rfl rfl rfl rfl rfl rfl

theorem releaseWindow (h : Winds any may s t) {x : Team} : Winds any may s (t.releaseWindow x) := by
  unfold State.releaseWindow
  exact h.ite (h.onDie.ite h)

theorem chargeTeam (h : Winds any may s t) {x : Team} : Winds any may s (t.chargeTeam x) := by
  unfold State.chargeTeam
  split
  · exact h.touchQueue.onQueue.saveQueue.ite h
  · exact h

theorem leaveRange (h : Winds any may s t) {x : Team} : Winds any may s (t.leaveRange x) := by
  unfold State.leaveRange
  exact h.copyRange.ite h

theorem endTeam (h : Winds any may s t) {team : Nat} {st : TeamState} : Winds any may s (t.endTeam team st) := by
  unfold State.endTeam
  split
  · exact h
  · next x hx =>
    split
    · exact h
    · next hlive =>
      extract_lets gs ids privs ctx w z
      have hw : Winds any may t w := ((Winds.refl t).sameLists (u := t.withdrawGroups ids) rfl rfl rfl rfl rfl rfl).chargeTeam.leaveRange
      have hlists : Winds any may t { { w with ctxs := z.ctxs } with grids := z.grids } := by
        refine (hw.mapCtxs (F := fun c => if c.id == ctx then _ else c) (fun c => ?_) fun _ c _ => .inl ?_).mapGrids
          (ite_ages fun g => ⟨rfl, rfl, fun h => h⟩)
        · split <;> rfl
        · split <;> rfl
      have hteams : z.teams = mapIf w.teams (·.id == team) (Team.ends st) := rfl
      have hz : Winds any may t z := by
        refine ⟨hlists.stage, hlists.modules, hlists.grids, hlists.ctxs, fun n y hy => ?_, fun g hg => hw.groups g (List.mem_filter.mp hg).1⟩
        obtain ⟨v, hv, hyv⟩ := hw.teams n y hy
        have hvid : v.id = n := by simpa using List.find?_some hv
        refine ⟨_, State.team?_mapIf hv (f := Team.ends st) (fun _ => rfl) hteams, fun he => ?_⟩
        by_cases hn : n = team
        · subst hn
          cases hx.symm.trans hy
          exact absurd he (by simpa [Team.ended] using hlive)
        · rw [if_neg (by simpa [hvid] using hn)]
          exact hyv he
      exact (h.trans hz).releaseWindow.recheckSlots

theorem killTeam (h : Winds any may s t) {team : Nat} : Winds any may s (t.killTeam team) := by
  unfold State.killTeam
  split
  · exact h
  · split
    · exact h
    · extract_lets gs ids a b c d e
      have ha : Winds any may s a := h.foldl fun t _ => (Winds.refl t).ite (Winds.refl t).countSquash
      have hb : Winds any may s b := ha.foldl fun t _ => (Winds.refl t).drainLate
      have hc : Winds any may s c := hb.sameLists rfl rfl rfl rfl rfl rfl
      have hd : Winds any may s d := hc.onCore.ite hc
      have he : Winds any may s e := hd.sameLists rfl rfl rfl rfl rfl rfl
      exact he.endTeam

theorem dropSlots (h : Winds any may s t) {grid ctx : Nat} : Winds any may s (t.dropSlots grid ctx) := by
  unfold State.dropSlots
  exact (h.sameLists (u := { t with slots := t.slots.filter fun b => b.grid != grid }) rfl rfl rfl rfl rfl rfl).onCtx (by exact fun _ => rfl) (by exact fun _ => rfl)

theorem failGrid (h : Winds any may s t) {grid code : Nat} : Winds any may s (t.failGrid grid code) := by
  unfold State.failGrid
  split
  · exact h
  · split
    · exact h
    · extract_lets a done b
      have ha : Winds any may s a := h.foldl fun t _ => (Winds.refl t).killTeam
      have hb : Winds any may s b := ha.dropSlots
      exact hb.mapGrids (ite_ages fun g => ⟨rfl, rfl, fun _ => .inr rfl⟩)

theorem failCtxGrids (h : Winds any may s t) {ctx : Nat} {first : Option Nat} : Winds any may s (t.failCtxGrids ctx first) :=
  h.foldl fun t _ => (Winds.refl t).failGrid

end Winds

/-! ### Grids that fail -/

/-- The grids of a number have ended. -/
def State.gridOver (s : State) (grid : Nat) : Prop := ∀ g ∈ s.grids, g.id = grid → g.over

theorem Winds.gridOver {any may : Prop} {s t : State} (h : Winds any may s t) {n : Nat} (o : s.gridOver n) : t.gridOver n := by
  obtain ⟨F, hF, hA⟩ := h.grids
  intro g hg hn
  rw [hF] at hg
  obtain ⟨x, hx, rfl⟩ := List.mem_map.mp hg
  exact (hA x).ends (o x hx ((hA x).id.symm.trans hn))

/-- A grid's failure ends it. -/
theorem State.gridOver_failGrid {s : State} (hn : (s.grids.map (·.id)).Nodup) (grid code : Nat) : (s.failGrid grid code).gridOver grid := by
  unfold State.failGrid
  split
  · next hg =>
    intro g hmem hid
    unfold State.grid? at hg
    simpa [hid] using List.find?_eq_none.mp hg g hmem
  · next g hg =>
    have hgid : g.id = grid := by simpa using List.find?_some hg
    split
    · next hover =>
      intro x hmem hid
      have : x = g := List.inj_on_of_nodup_map hn hmem (List.mem_of_find?_eq_some hg) (hid.trans hgid.symm)
      rw [this]
      simpa [Grid.over] using hover
    · intro x hmem hid
      dsimp only at hmem
      obtain ⟨y, -, rfl⟩ := List.mem_map.mp hmem
      by_cases hy : (y.id == grid) = true
      · rw [if_pos hy]
        exact .inr rfl
      · rw [if_neg hy] at hid
        exact absurd (by simpa using hid) hy

theorem State.gridOver_foldl {l : List Grid} (code : Grid → Nat) {s : State} (hn : (s.grids.map (·.id)).Nodup) (g : Grid) (hg : g ∈ l) :
    (l.foldl (fun (st : State) g => st.failGrid g.id (code g)) s).gridOver g.id := by
  induction l generalizing s with
  | nil => cases hg
  | cons a l ih =>
    rw [List.foldl_cons]
    obtain rfl | hg := List.mem_cons.mp hg
    · exact Winds.gridOver (any := False) (may := False) ((Winds.refl _).foldl fun t _ => (Winds.refl t).failGrid) (State.gridOver_failGrid hn _ _)
    · exact ih (((Winds.refl s).failGrid : Winds False False s _).nodup hn) hg

/-- All grids of a context failed: all of them have ended. -/
theorem State.ctxOver_failCtxGrids {s : State} (hn : (s.grids.map (·.id)).Nodup) (ctx : Nat) (first : Option Nat) :
    (s.failCtxGrids ctx first).ctxOver ctx := by
  intro x hx hctx
  obtain ⟨F, hF, hA⟩ := ((Winds.refl s).failCtxGrids (ctx := ctx) (first := first) : Winds False False s _).grids
  have hmem := hx
  rw [hF] at hmem
  obtain ⟨g, hg, rfl⟩ := List.mem_map.mp hmem
  refine State.gridOver_foldl _ hn g ?_ (F g) hx (hA g).id
  unfold State.ctxGrids
  exact List.mem_filter.mpr ⟨hg, by simpa using (hA g).ctx.symm.trans hctx⟩

/-! ### Contexts that stop -/

/-- A context as it enters a state in which its queues are not fetched. -/
def Ctx.enters (st : CtxState) (c : Ctx) : Ctx := { c with st := st, switching := false, faults := c.faults.filter (keepFault st) }

/-- A context has stopped. -/
def State.ctxStopped (s : State) (ctx : Nat) : Prop := ∃ c, s.ctx? ctx = some c ∧ c.stopped

theorem Ctx.stopped_ne_free {c : Ctx} (h : c.stopped) : c.st ≠ .free := by
  obtain h | h := h <;> rw [h] <;> decide

theorem State.ctx?_onCtx {s : State} {ctx : Nat} {c : Ctx} (h : s.ctx? ctx = some c) {f : Ctx → Ctx} (hid : ∀ c, (f c).id = c.id) :
    (s.onCtx ctx f).ctx? ctx = some (f c) := by
  unfold State.ctx? at h ⊢
  unfold State.onCtx mapIf
  dsimp only
  rw [find?_map_key _ _ _ fun x => by split <;> simp [hid], h, Option.map_some, if_pos (List.find?_some h)]

namespace Winds
variable {any may : Prop} {s t u : State}

theorem ctxStopped (h : Winds False may s t) {c : Nat} (k : s.ctxStopped c) : t.ctxStopped c := by
  obtain ⟨d, hd, hstop⟩ := k
  obtain ⟨e, he, hde⟩ := h.ctxs c d hd
  refine ⟨e, he, ?_⟩
  obtain hde | ⟨⟨⟩⟩ | ⟨-, -, -, hstop', -⟩ := hde
  · unfold Ctx.stopped
    rwa [hde]
  · exact hstop'

theorem nodup_iff (h : Winds any may s t) : (t.grids.map (·.id)).Nodup ↔ (s.grids.map (·.id)).Nodup := by
  obtain ⟨F, hF, hA⟩ := h.grids
  rw [hF, List.map_map]
  exact iff_of_eq (congrArg List.Nodup (List.map_congr_left fun g _ => (hA g).id))

theorem endCommand (h : Winds any may s t) {ctx status : Nat} : Winds any may s (t.endCommand ctx status) := by
  unfold State.endCommand
  exact h.onFe.ite h

/-- A context changes in any way. -/
theorem anyCtx (ha : any) (h : Winds any may s t) {n : Nat} {f : Ctx → Ctx} (hid : ∀ c, (f c).id = c.id) : Winds any may s (t.onCtx n f) := by
  refine h.mapCtxs (F := fun c => if c.id == n then f c else c) (fun c => ?_) fun _ c _ => .inr (.inl ha)
  split
  · exact hid c
  · rfl

theorem lateLoss (h : Winds any may s t) {ctx : Nat} {r : Report} (k : any ∨ may ∧ t.ctxStopped ctx) : Winds any may s (t.lateLoss ctx r) := by
  have hl : Winds any may s { t.nextSeqNo with losses := t.nextSeqNo.losses + r.lost } := h.nextSeqNo.losses
  unfold State.lateLoss
  dsimp only
  split
  · exact hl.mgmtLog.requestReset
  · exact hl.mgmtLog.requestReset
  · obtain ha | ⟨hmay, k⟩ := k
    · exact hl.failCtxGrids.anyCtx ha (by exact fun _ => rfl)
    · have hw := (Winds.refl (any := False) (may := False) { t.nextSeqNo with losses := t.nextSeqNo.losses + r.lost }).failCtxGrids (ctx := ctx) (first := none)
      refine hl.failCtxGrids.stopCtx hmay (fun _ => rfl) (fun hn => State.ctxOver_failCtxGrids (hw.nodup_iff.mp hn) ctx none) fun c hc => ⟨?_, fun hd => if_pos hd, ?_⟩
      · obtain ⟨d, hd, hstop⟩ := hw.ctxStopped k
        cases hc.symm.trans hd
        exact Ctx.stopped_ne_free hstop
      · unfold Ctx.stopped
        dsimp only
        split
        · exact .inr rfl
        · exact .inl rfl

theorem foldl_lateLoss (hmay : may) {ctx : Nat} (l : List Report) {t : State} (k : t.ctxStopped ctx) :
    Winds False may t (l.foldl (fun (t : State) e => t.lateLoss ctx e) t) := by
  induction l generalizing t with
  | nil => exact .refl t
  | cons e l ih =>
    have h := (Winds.refl (any := False) t).lateLoss (r := e) (.inr ⟨hmay, k⟩)
    exact h.trans (ih (h.ctxStopped k))

/-- What follows where a context has stopped. -/
theorem enterCtx_after (hmay : may) {ctx status : Nat} {st : CtxState} (hst : st = .faulted ∨ st = .dead) {c : Ctx} (hc : t.ctx? ctx = some c) :
    Winds False may (t.onCtx ctx (Ctx.enters st)) (t.enterCtx ctx st status) := by
  have ka : (t.onCtx ctx (Ctx.enters st)).ctxStopped ctx := ⟨_, State.ctx?_onCtx hc fun _ => rfl, hst⟩
  unfold State.enterCtx
  extract_lets a b r
  change Winds False may a _
  have hb : Winds False may a b :=
    (Winds.refl a).ite (Winds.sameLists (u := { a with threads := mapIf a.threads (·.ctx == ctx) Thread.unpark }) (.refl a) rfl rfl rfl rfl rfl rfl)
  have hr : Winds False may a r.1 := hb.syncQueues
  exact (hr.trans (foldl_lateLoss hmay r.2 (hr.ctxStopped ka))).endCommand

/-- A context whose grids have all failed stops. -/
theorem enterCtx (hmay : may) (h : Winds False may s t) {ctx status : Nat} {st : CtxState} (hst : st = .faulted ∨ st = .dead) (hover : (t.grids.map (·.id)).Nodup → t.ctxOver ctx)
    {c : Ctx} (hc : t.ctx? ctx = some c) (hfree : c.st ≠ .free) (hdead : c.st ≠ .dead) :
    Winds False may s (t.enterCtx ctx st status) ∧ (t.enterCtx ctx st status).ctxStopped ctx := by
  have ha : Winds False may s (t.onCtx ctx (Ctx.enters st)) := h.stopCtx hmay (fun _ => rfl) hover fun d hd => by
    cases hc.symm.trans hd
    exact ⟨hfree, fun h => absurd h hdead, hst⟩
  have hend := enterCtx_after (status := status) hmay hst hc
  exact ⟨ha.trans hend, hend.ctxStopped ⟨_, State.ctx?_onCtx hc fun _ => rfl, hst⟩⟩

/-- A context stops with its grids. -/
theorem stops (hmay : may) {ctx status : Nat} {st : CtxState} {first : Option Nat} (hst : st = .faulted ∨ st = .dead) {c : Ctx} (hc : s.ctx? ctx = some c)
    (hfree : c.st ≠ .free) (hdead : c.st ≠ .dead) :
    Winds False may s ((s.failCtxGrids ctx first).enterCtx ctx st status) ∧ ((s.failCtxGrids ctx first).enterCtx ctx st status).ctxStopped ctx ∧
      ((s.grids.map (·.id)).Nodup → ((s.failCtxGrids ctx first).enterCtx ctx st status).ctxOver ctx) := by
  have h : Winds False False s (s.failCtxGrids ctx first) := (Winds.refl s).failCtxGrids
  obtain ⟨e, he, hce | hf | ⟨hf, -⟩⟩ := h.ctxs ctx c hc
  · have hover : ((s.failCtxGrids ctx first).grids.map (·.id)).Nodup → (s.failCtxGrids ctx first).ctxOver ctx := fun hn =>
      State.ctxOver_failCtxGrids (h.nodup_iff.mp hn) ctx first
    obtain ⟨hw, hs⟩ := enterCtx (status := status) hmay (.refl (s.failCtxGrids ctx first)) hst hover he (hce ▸ hfree) (hce ▸ hdead)
    exact ⟨(Winds.refl s).failCtxGrids.trans hw, hs, fun hn => hw.ctxOver (hover (h.nodup hn))⟩
  · exact hf.elim
  · exact hf.elim

/-- DEAD (R327). -/
theorem deadCtx (hmay : may) (h : Winds False may s t) {ctx : Nat} : Winds False may s (t.deadCtx ctx) := by
  unfold State.deadCtx
  split
  · exact h
  · next c hc =>
    split
    · exact h
    · exact h
    · next hfree hdead => exact h.trans (stops hmay (.inr rfl) hc hfree hdead).1

/-- FAULTED (R327). -/
theorem faultCtx (hmay : may) (h : Winds False may s t) {ctx : Nat} {first : Option Nat} : Winds False may s (t.faultCtx ctx first) := by
  unfold State.faultCtx
  split
  · exact h
  · next c hc =>
    split
    · exact h
    · exact h
    · exact h
    · next hfree hdead _ => exact h.trans (stops hmay (.inl rfl) hc hfree hdead).1

/-! ### Records of faults -/

theorem recordFails (hmay : may) (h : Winds False may s t) {r : FaultRec} {f : XFault} {va : Nat} : Winds False may s (t.recordFails r f va) := by
  unfold State.recordFails
  exact deadCtx hmay ((h.mgmtLog.mgmtLog.nextSeqNo.foldl fun t _ => (Winds.refl t).mgmtLog).onCtx (by exact fun _ => rfl) (by exact fun _ => rfl))

theorem writeRecord (hmay : may) (h : Winds False may s t) {c : Ctx} {r : FaultRec} : Winds False may s (t.writeRecord c r) := by
  unfold State.writeRecord
  extract_lets va
  split
  · exact h.recordFails hmay
  · extract_lets b na
    split
    · exact h.store.recordFails hmay
    · exact (h.store.onCtx (by exact fun _ => rfl) (by exact fun _ => rfl)).storeLE.signal

theorem releaseHeld (hmay : may) (h : Winds False may s t) {ctx n : Nat} : Winds False may s (t.releaseHeld ctx n) := by
  induction n generalizing t with
  | zero => exact h
  | succ n ih =>
    unfold State.releaseHeld
    split
    · exact h
    · split
      · exact h
      · split
        · exact h
        · split
          · next e => exact h.hubLoss e
          · exact h.ite (ih ((h.onCtx (by exact fun _ => rfl) (by exact fun _ => rfl)).writeRecord hmay))

theorem deliver (hmay : may) (h : Winds False may s t) {r : FaultRec} : Winds False may s (t.deliver r) := by
  have hr := h.releaseHeld hmay (ctx := r.ctx) (n := ((t.ctx? r.ctx).map fun c => c.held.length).getD 0)
  unfold State.deliver
  dsimp only
  split
  · exact hr
  · split
    · exact hr.mgmtLog
    · split
      · exact hr.deviceLoss
      · split
        · exact hr.onCtx (by exact fun _ => rfl) (by exact fun _ => rfl)
        · split
          · exact (hr.onCtx (by exact fun _ => rfl) (by exact fun _ => rfl)).ite hr.storeLE
          · exact hr.writeRecord hmay

/-! ### A context's queues, where its state may become any -/

theorem enterCtx_any (ha : any) (h : Winds any may s t) {ctx status : Nat} {st : CtxState} : Winds any may s (t.enterCtx ctx st status) := by
  unfold State.enterCtx
  extract_lets a b r
  have hs : Winds any may s a := h.anyCtx ha (by exact fun _ => rfl)
  have hb : Winds any may s b :=
    hs.ite (Winds.sameLists (u := { a with threads := mapIf a.threads (·.ctx == ctx) Thread.unpark }) hs rfl rfl rfl rfl rfl rfl)
  have hr : Winds any may s r.1 := hb.syncQueues
  exact (hr.foldl fun t _ => (Winds.refl t).lateLoss (.inl ha)).endCommand

theorem settleCtx_any (ha : any) (h : Winds any may s t) {ctx : Nat} : Winds any may s (t.settleCtx ctx) := by
  unfold State.settleCtx
  split
  · exact h
  · split
    · exact h.ite (enterCtx_any ha (h.sameLists (u := t.discardCtx ctx) rfl rfl rfl rfl rfl rfl))
    · split
      · exact (h.anyCtx ha (by exact fun _ => rfl)).ite ((h.anyCtx ha (by exact fun _ => rfl)).ite h)
      · exact (h.anyCtx ha (by exact fun _ => rfl)).ite ((h.anyCtx ha (by exact fun _ => rfl)).ite h)
      · exact h

end Winds

/-! ### Program faults (R11, R12, R327) -/

theorem State.teams_squashAll_record (s : State) (g : Group) (pc : DWord) (iw : Word) (r : Report) :
    (s.squashAll g.id).pathRecord g pc iw r = s.pathRecord g pc iw r :=
  (congrArg (fun x : State => x.pathRecord g pc iw r) (s.squashes_squashAll g.id).rest :)

theorem State.releaseWindow_teams (s : State) (t : Team) : (s.releaseWindow t).teams = s.teams := by
  unfold State.releaseWindow
  dsimp only
  split
  · rfl
  · split <;> rfl

theorem State.recheckSlots_teams (s : State) (grid : Nat) : (s.recheckSlots grid).teams = s.teams := by
  unfold State.recheckSlots
  split <;> rfl

/-- An ended team stays in the list of teams as one that has ended. -/
theorem State.team?_endTeam_killed {s : State} {n : Nat} {u : Team} (h : (s.endTeam n .killed).team? n = some u) : u.ended := by
  unfold State.endTeam at h
  split at h
  · next hn =>
    rw [hn] at h
    cases h
  · next t ht =>
    split at h
    · next hend =>
      rw [ht] at h
      cases h
      simpa [Team.ended] using hend
    · extract_lets gs ids privs ctx w z at h
      have hteams : ((z.releaseWindow t).recheckSlots t.grid).teams = z.teams := (State.recheckSlots_teams _ _).trans (z.releaseWindow_teams t)
      unfold State.team? at h
      rw [hteams] at h
      have hmem := List.mem_of_find?_eq_some h
      have hid := List.find?_some h
      obtain ⟨x, -, rfl⟩ := List.mem_map.mp hmem
      by_cases hx : (x.id == n) = true
      · rw [if_pos hx]
        exact .inr rfl
      · rw [if_neg hx] at hid
        exact absurd hid hx

theorem State.team?_killTeam {s : State} {n : Nat} {u : Team} (h : (s.killTeam n).team? n = some u) : u.ended := by
  unfold State.killTeam at h
  split at h
  · next hn =>
    rw [hn] at h
    cases h
  · next t ht =>
    split at h
    · next hend =>
      rw [ht] at h
      cases h
      simpa [Team.ended] using hend
    · exact State.team?_endTeam_killed h

/-- A context that can fetch or be resident. -/
def Ctx.live (c : Ctx) : Prop := c.st = .ready ∨ c.st = .resident ∨ c.st = .partly ∨ c.st = .out

/-- FAULTED, after anything that a record's delivery did. -/
theorem State.stopped_faultCtx {s t : State} (h : Winds False True s t) (hn : (s.grids.map (·.id)).Nodup) {ctx : Nat} {c : Ctx} (hc : s.ctx? ctx = some c)
    (hlive : c.live) (first : Option Nat) : (t.faultCtx ctx first).ctxStopped ctx ∧ (t.faultCtx ctx first).ctxOver ctx := by
  have hst : c.st ≠ .free ∧ c.st ≠ .dead ∧ c.st ≠ .faulted := by
    obtain h | h | h | h := hlive <;> rw [h] <;> decide
  obtain ⟨hfree, hdead, hfault⟩ := hst
  obtain ⟨e, he, hce⟩ := h.ctxs ctx c hc
  have hkeep : e.st = .dead ∨ e.st = .faulted → e.stopped ∧ t.ctxOver ctx := fun hd => by
    obtain hce | ⟨⟨⟩⟩ | ⟨-, -, -, hstop, hover⟩ := hce
    · rw [hce] at hd
      exact absurd hd (not_or.mpr ⟨hdead, hfault⟩)
    · exact ⟨hstop, hover hn⟩
  have hfree' : e.st ≠ .free := by
    obtain hce | ⟨⟨⟩⟩ | ⟨-, -, -, hstop, -⟩ := hce
    · rwa [hce]
    · exact Ctx.stopped_ne_free hstop
  unfold State.faultCtx
  rw [he]
  dsimp only
  split
  · next hst => exact absurd hst hfree'
  · next hst => exact ⟨⟨e, he, (hkeep (.inl hst)).1⟩, (hkeep (.inl hst)).2⟩
  · next hst => exact ⟨⟨e, he, (hkeep (.inr hst)).1⟩, (hkeep (.inr hst)).2⟩
  · next hdead' _ =>
    obtain ⟨-, hs, hover⟩ := Winds.stops (status := 2) (first := first) trivial (.inl rfl) he hfree' hdead'
    exact ⟨hs, hover (h.nodup hn)⟩

theorem FaultKind.cls_program {k : FaultKind} (hp : k ≠ .page) (hg : k ≠ .grow) (hu : k ≠ .uncorrectable) : k.cls = 1 := by
  unfold FaultKind.cls
  split
  · exact absurd rfl hp
  · exact absurd rfl hg
  · exact absurd rfl hu
  · rfl

/-- A program fault stops its context, every grid of it, and its team. -/
theorem State.raise_program {s : State} {g : Group} {slot : Bool} {pc : DWord} {iw : Word} {r : Report} {c : Ctx} (hp : r.kind ≠ .page)
    (hg : r.kind ≠ .grow) (hu : r.kind ≠ .uncorrectable) (hview : s.view = none) (hn : (s.grids.map (·.id)).Nodup)
    (hc : s.ctx? (s.pathRecord g pc iw r).ctx = some c) (hlive : c.live) :
    (s.raise g slot pc iw r).ctxStopped (s.pathRecord g pc iw r).ctx ∧ (s.raise g slot pc iw r).ctxOver (s.pathRecord g pc iw r).ctx ∧
      ∀ u, (s.raise g slot pc iw r).team? g.team = some u → u.ended := by
  have hrun : s.raise g slot pc iw r = (((s.squashAll g.id).nextSeqNo.deliver (s.pathRecord g pc iw r)).faultCtx (s.pathRecord g pc iw r).ctx
      (some (s.pathRecord g pc iw r).grid)).killTeam g.team := by
    have hcls : (s.pathRecord g pc iw r).cls = 1 := FaultKind.cls_program hp hg hu
    unfold State.raise
    rw [hview]
    dsimp only
    rw [s.teams_squashAll_record]
    unfold State.faultEffect
    rw [hcls]
    rfl
  rw [hrun]
  obtain ⟨hs, hover⟩ := State.stopped_faultCtx ((Winds.refl s).squashAll.nextSeqNo.deliver trivial (r := s.pathRecord g pc iw r)) hn hc hlive
    (some (s.pathRecord g pc iw r).grid)
  have hkill := (Winds.refl (any := False) (may := True) (((s.squashAll g.id).nextSeqNo.deliver (s.pathRecord g pc iw r)).faultCtx (s.pathRecord g pc iw r).ctx
      (some (s.pathRecord g pc iw r).grid))).killTeam (team := g.team)
  exact ⟨hkill.ctxStopped hs, hkill.ctxOver hover, fun u hu => State.team?_killTeam hu⟩

/-! ### The room for a record (R336, R379) -/

/-- A test of a context's record's place. -/
theorem any_recAddr (o : Option Ctx) (f : DWord → Bool) : (o.any fun c => f c.recAddr) = (o.map fun x => (x.recAddr, x.dies)).any fun p => f p.1 := by
  cases o <;> rfl

namespace Reaches
variable {s t : State} (h : Reaches s t)
include h

theorem recordWaits (ctx : Nat) : t.recordWaits ctx = s.recordWaits ctx := by
  unfold State.recordWaits
  rw [any_recAddr _ fun a => t.keyHeld (tagKey a), any_recAddr _ fun a => s.keyHeld (tagKey a), h.ctxs]
  simp only [h.keyHeld]

theorem readsRecord (w : Walker) (va : Nat) : t.readsRecord w va = s.readsRecord w va := by
  unfold State.readsRecord
  rw [h.leafHit]

theorem holds (w : Walker) : t.holds w = s.holds w := by
  funext n
  unfold State.holds State.training State.handing
  rw [h.stack?]

theorem pageHeld (w : Walker) : t.pageHeld w = s.pageHeld w := by
  unfold State.pageHeld State.isLocal State.training State.handing
  simp only [h.stack?, h.holds, h.domid]

theorem walkMeets (w : Walker) (va : Nat) (on : Nat → Bool) (page : DWord → Nat → Bool) (level tgt table : Nat) :
    t.walkMeets w va on page level tgt table = s.walkMeets w va on page level tgt table := by
  induction level generalizing tgt table with
  | zero =>
    unfold State.walkMeets
    rw [h.walkLevel]
  | succ k ih =>
    unfold State.walkMeets
    simp only [h.walkLevel, h.tlbHit, ih]

theorem held (w : Walker) (va : Nat) : t.held w va = s.held w va := by
  unfold State.held State.translationMeets
  simp only [h.recordWaits, h.readsRecord, h.holds, h.pageHeld, h.leafHit, h.walkMeets, h.rootOf]

theorem ringHeld {c d : Ctx} (hid : d.id = c.id) (hh : d.h = c.h) : t.ringHeld d = s.ringHeld c := by
  unfold State.ringHeld State.feHeld
  rw [hid, hh, h.fring, h.frlog, h.notifya, h.recordWaits, h.feWalker, h.held, h.held]

theorem ringFull {c d : Ctx} (hid : d.id = c.id) (hh : d.h = c.h) : t.ringFull d = s.ringFull c := by
  unfold State.ringFull State.frtail
  rw [hid, hh, h.frlog, h.ctxField]

theorem fpshare (ctx : Nat) : t.fpshare ctx = s.fpshare ctx := h.ctxField ..

end Reaches

/-! ### Recoverable faults (R11, R12, R334) -/

/-- A context with one more outstanding fault. -/
def Ctx.owes (e : Nat × FaultTarget) (c : Ctx) : Ctx := { c with faults := c.faults ++ [e] }

/-- What a recoverable fault needs in order to be written at once. -/
structure State.Writable (s : State) (r : FaultRec) (c : Ctx) (x y : Nat) : Prop where
  ctx : s.ctx? r.ctx = some c
  ring : c.noRing = false
  none : c.held = []
  live : c.st ≠ .free
  room : s.ringFull c = false
  held : s.ringHeld c = false
  lost : s.isLost (tagKey c.recAddr) 256 = false
  place : s.feWrite r.ctx (s.fring r.ctx + 64 * (c.h % 2 ^ s.frlog r.ctx)) 64 = .ok x
  note : (s.store x r.bytes).feWrite r.ctx ((s.store x r.bytes).notifya r.ctx) 8 = .ok y

theorem State.reaches_owes (s : State) (ctx : Nat) (e : Nat × FaultTarget) : Reaches s ((s.nextSeqNo).onCtx ctx (Ctx.owes e)) :=
  Reaches.trans (t := s.nextSeqNo) ⟨rfl, rfl, rfl, rfl, rfl, rfl, rfl, fun _ => rfl⟩ <| (s.nextSeqNo).reaches_onCtx ctx (f := Ctx.owes e) (fun _ => rfl) fun _ => rfl

/-- A record that is written at once, behind no other. -/
theorem State.deliver_of {s : State} {r : FaultRec} {c : Ctx} {x y : Nat} (h : s.Writable r c x y) (e : Nat × FaultTarget) :
    ((s.nextSeqNo).onCtx r.ctx (Ctx.owes e)).deliver r = ((s.nextSeqNo).onCtx r.ctx (Ctx.owes e)).writeRecord (c.owes e) r ∧
      ((s.nextSeqNo).onCtx r.ctx (Ctx.owes e)).RecordAt (c.owes e) r.bytes x y := by
  have hr := s.reaches_owes r.ctx e
  have hid : c.id = r.ctx := State.ctx?_id h.ctx
  have hc : ((s.nextSeqNo).onCtx r.ctx (Ctx.owes e)).ctx? r.ctx = some (c.owes e) := State.ctx?_onCtx (s := s.nextSeqNo) h.ctx fun _ => rfl
  have hat : s.RecordAt c r.bytes x y := by
    refine ⟨?_, ?_⟩ <;> rw [hid]
    · exact h.place
    · exact h.note
  refine ⟨?_, State.recordAt_congr hr rfl rfl hat⟩
  generalize (s.nextSeqNo).onCtx r.ctx (Ctx.owes e) = w at hr hc
  have hnone : (c.owes e).held.length = 0 := by
    change c.held.length = 0
    rw [h.none]
    rfl
  unfold State.deliver
  rw [hc]
  dsimp only [Option.map_some, Option.getD_some]
  rw [hnone]
  unfold State.releaseHeld
  rw [hc]
  dsimp only
  rw [if_neg, if_neg, if_neg, if_neg]
  · rw [hr.ringFull (c := c) (d := c.owes e) rfl rfl, h.room]
    decide
  · rw [hr.ringHeld (c := c) (d := c.owes e) rfl rfl, h.held]
    decide
  · change ¬w.isLost (tagKey c.recAddr) 256 = true
    rw [hr.isLost, h.lost]
    decide
  · change ¬(c.noRing || decide (c.st = .free)) = true
    rw [h.ring]
    simpa using h.live

/-- The share of a context that has none. -/
theorem State.shareTest_none {s : State} {ctx : Nat} (h : s.fpshare ctx = 0) : s.shareTest ctx = s := by
  unfold State.shareTest
  split
  · rfl
  · dsimp only
    rw [h, ite_eq_right_iff]
    intro _
    exact if_neg (by simp)

/-- A group whose spins a write may have hit. -/
def Group.SameButSpins (g u : Group) : Prop :=
  u.id = g.id ∧ u.arch.regs = g.arch.regs ∧ ∀ slot p, g.arch.path slot = some p → ∃ q, u.arch.path slot = some q ∧ q.pc = p.pc ∧ q.m = p.m ∧ q.pst = p.pst

theorem Group.sameButSpins_trans (a b c : Group) (h : a.SameButSpins b) (k : b.SameButSpins c) : a.SameButSpins c := by
  obtain ⟨hid, hregs, hpath⟩ := h
  obtain ⟨kid, kregs, kpath⟩ := k
  refine ⟨kid.trans hid, kregs.trans hregs, fun slot p hp => ?_⟩
  obtain ⟨q, hq, hpc, hm, hst⟩ := hpath slot p hp
  obtain ⟨x, hx, kpc, km, kst⟩ := kpath slot q hq
  exact ⟨x, hx, kpc.trans hpc, km.trans hm, kst.trans hst⟩

theorem Path.firedBy_same (p : Path) (k n : Nat) : (p.firedBy k n).pc = p.pc ∧ (p.firedBy k n).m = p.m ∧ (p.firedBy k n).pst = p.pst := by
  unfold Path.firedBy
  split <;> exact ⟨rfl, rfl, rfl⟩

theorem Group.sameButSpins_of_fired {k n : Nat} (g u : Group) (h : Group.Fired k n g u) : g.SameButSpins u := by
  have harch : u.arch = g.arch.onPaths (·.firedBy k n) := (congrArg Group.arch h :)
  refine ⟨(congrArg Group.id h :), by rw [harch]; rfl, fun slot p hp => ⟨p.firedBy k n, ?_, p.firedBy_same k n⟩⟩
  rw [harch]
  cases slot
  · exact (congrArg (Option.map fun q : Path => q.firedBy k n) hp :)
  · exact (congrArg (Option.map fun q : Path => q.firedBy k n) hp :)

theorem State.writeRecord_group {s : State} {c : Ctx} {r : FaultRec} {x y : Nat} (h : s.RecordAt c r.bytes x y) {n : Nat} {g : Group}
    (hg : s.group? n = some g) : ∃ u, (s.writeRecord c r).group? n = some u ∧ g.SameButSpins u := by
  have hstore : ∀ (t : State) (k : Nat) (bs : List Byte), MapsGroups Group.SameButSpins t (t.store k bs) := fun t k bs =>
    (MapsGroups.refl (R := Group.SameButSpins) (fun g => ⟨rfl, rfl, fun _ p hp => ⟨p, hp, rfl, rfl, rfl⟩⟩) rfl).trans
      (fun a b c h k => Group.sameButSpins_trans a b c h (Group.sameButSpins_of_fired b c k)) (t.writeEvent_store k bs).groups
  rw [State.writeRecord_of h]
  unfold State.storeLE
  have hmaps : MapsGroups Group.SameButSpins s (((s.store x r.bytes).onCtx c.id (Ctx.counts ((c.h + 1) % 2 ^ 32))).store y
      (toBytes 8 ((c.h + 1) % 2 ^ 32))) :=
    MapsGroups.trans Group.sameButSpins_trans (hstore s x r.bytes) (hstore ((s.store x r.bytes).onCtx c.id (Ctx.counts ((c.h + 1) % 2 ^ 32))) _ _)
  obtain ⟨u, hu, hs⟩ := hmaps.group? (fun _ _ h => h.1) hg
  refine ⟨u, ?_, hs⟩
  generalize ((s.store x r.bytes).onCtx c.id (Ctx.counts ((c.h + 1) % 2 ^ 32))).store y (toBytes 8 ((c.h + 1) % 2 ^ 32)) = w at hu ⊢
  unfold State.group? at hu ⊢
  rw [(congrArg State.groups (w.signal_rest 0) :)]
  exact hu

theorem State.reaches_signal (s : State) (n : Nat) : Reaches s (s.signal n) := by
  have h := s.signal_rest n
  generalize s.signal n = t at h
  exact ⟨(congrArg State.mem h :), (congrArg State.lost h :), (congrArg State.mstacks h :), (congrArg State.tlb h :), (congrArg State.ports h :),
    (congrArg (fun x : State => x.fe.domid) h :), (congrArg (fun x : State => x.fe.expt) h :), fun c => (congrArg (fun x : State => (x.ctx? c).map _) h :)⟩

theorem State.writeRecord_evSeq {s : State} {c : Ctx} {r : FaultRec} {x y : Nat} (h : s.RecordAt c r.bytes x y) :
    (s.writeRecord c r).evSeq = s.evSeq := by
  rw [State.writeRecord_of h]
  unfold State.storeLE
  have hstore : ∀ (t : State) (k : Nat) (bs : List Byte), (t.store k bs).evSeq = t.evSeq := fun t k bs =>
    (congrArg State.evSeq (t.writeEvent_store k bs).rest :)
  rw [(congrArg State.evSeq (State.signal_rest _ 0) :), hstore]
  exact hstore s x r.bytes

theorem State.writeRecord_reaches {s : State} {c : Ctx} {r : FaultRec} {x y : Nat} (h : s.RecordAt c r.bytes x y) :
    Reaches ((s.store x r.bytes).storeLE y 8 ((c.h + 1) % 2 ^ 32)) (s.writeRecord c r) := by
  rw [State.writeRecord_of h]
  exact (((s.store x r.bytes).reaches_onCtx c.id (f := Ctx.counts ((c.h + 1) % 2 ^ 32)) (fun _ => rfl) fun _ => rfl).store y _).trans (State.reaches_signal _ 0)

/-- A recoverable fault is its record's delivery, with the path parked behind it. -/
theorem State.raise_recoverable {s : State} {g : Group} {slot : Bool} {pc : DWord} {iw : Word} {r : Report} {c : Ctx} {x y : Nat}
    (hk : r.kind = .page ∨ r.kind = .grow) (hview : s.view = none) (hg : s.group? g.id = some g) (hconts : g.conts = [])
    (h : s.Writable (s.pathRecord g pc iw r) c x y)
    (hshare : ((s.store x (s.pathRecord g pc iw r).bytes).storeLE y 8 ((c.h + 1) % 2 ^ 32)).fpshare (s.pathRecord g pc iw r).ctx = 0) :
    s.raise g slot pc iw r = (((s.nextSeqNo).onCtx (s.pathRecord g pc iw r).ctx (Ctx.owes (s.evSeq, .path g.id))).writeRecord
      (c.owes (s.evSeq, .path g.id)) (s.pathRecord g pc iw r)).park g.id slot (some (.fault s.evSeq false)) := by
  have hsquash : s.squashAll g.id = s := by
    unfold State.squashAll
    rw [hg]
    exact if_pos hconts
  have hcls : (s.pathRecord g pc iw r).cls = 0 := by
    change r.kind.cls = 0
    obtain hk | hk := hk <;> rw [hk] <;> rfl
  obtain ⟨hdeliver, hat⟩ := State.deliver_of h (s.evSeq, .path g.id)
  have hreach := ((s.reaches_owes (s.pathRecord g pc iw r).ctx (s.evSeq, .path g.id)).store x (s.pathRecord g pc iw r).bytes).store y
    (toBytes 8 ((c.h + 1) % 2 ^ 32))
  have hzero : ((((s.nextSeqNo).onCtx (s.pathRecord g pc iw r).ctx (Ctx.owes (s.evSeq, .path g.id))).writeRecord
      (c.owes (s.evSeq, .path g.id)) (s.pathRecord g pc iw r)).park g.id slot (some (.fault s.evSeq false))).fpshare
      (s.pathRecord g pc iw r).ctx = 0 :=
    ((State.writeRecord_reaches hat).fpshare _).trans ((hreach.fpshare _).trans hshare)
  unfold State.raise
  rw [hview]
  dsimp only
  rw [hsquash]
  unfold State.faultEffect
  rw [hcls]
  dsimp only
  change (if _ then State.shareTest _ _ else _) = _
  split
  · exact (congrArg (fun z : State => (z.park g.id slot (some (.fault s.evSeq false))).shareTest (s.pathRecord g pc iw r).ctx) hdeliver :).trans
      (State.shareTest_none hzero)
  · exact (congrArg (fun z : State => z.park g.id slot (some (.fault s.evSeq false))) hdeliver :)

theorem State.raise_page {s : State} {g : Group} {slot : Bool} {pc : DWord} {iw : Word} {r : Report} {c : Ctx} {p : Path} {x y : Nat}
    (hk : r.kind = .page ∨ r.kind = .grow) (hview : s.view = none) (hg : s.group? g.id = some g) (hconts : g.conts = [])
    (hp : g.arch.path slot = some p) (h : s.Writable (s.pathRecord g pc iw r) c x y)
    (hshare : ((s.store x (s.pathRecord g pc iw r).bytes).storeLE y 8 ((c.h + 1) % 2 ^ 32)).fpshare (s.pathRecord g pc iw r).ctx = 0) :
    (∀ q, (s.raise g slot pc iw r).byte q = putAt (putAt s.byte ((List.range 64).map fun j => x + j) (s.pathRecord g pc iw r).bytes)
      ((List.range 8).map fun j => y + j) (toBytes 8 ((c.h + 1) % 2 ^ 32)) q) ∧
    (s.raise g slot pc iw r).evSeq = s.evSeq + 1 ∧
    (s.raise g slot pc iw r).ctxs = s.ctxs.map (fun d => if d.id = (s.pathRecord g pc iw r).ctx then
      { d with faults := d.faults ++ [(s.evSeq, .path g.id)], h := (c.h + 1) % 2 ^ 32 } else d) ∧
    (s.raise g slot pc iw r).fe.hsig = s.fe.hsig ||| 1 ∧
    ∃ u q, (s.raise g slot pc iw r).group? g.id = some u ∧ u.arch.path slot = some q ∧ q.pc = p.pc ∧ q.m = p.m ∧ q.pst = p.pst ∧
      q.park = some (.fault s.evSeq false) ∧ u.arch.regs = g.arch.regs := by
  obtain ⟨-, hat⟩ := State.deliver_of h (s.evSeq, .path g.id)
  obtain ⟨hbyte, hctxs, hsig⟩ := State.writeRecord_leaves hat
  obtain ⟨u, hu, -, hregs, hpath⟩ := State.writeRecord_group hat (n := g.id) (g := g) hg
  have hseq := State.writeRecord_evSeq hat
  obtain ⟨q, hq, hpc, hm, hst⟩ := hpath slot p hp
  have hid : c.id = (s.pathRecord g pc iw r).ctx := State.ctx?_id h.ctx
  rw [State.raise_recoverable hk hview hg hconts h hshare]
  refine ⟨hbyte, hseq, hctxs.trans ?_, hsig, { u with arch := u.arch.setPath slot (some { q with park := some (.fault s.evSeq false) }) },
    { q with park := some (.fault s.evSeq false) }, ?_, ?_, hpc, hm, hst, rfl, ?_⟩
  · unfold State.onCtx
    rw [mapIf_eq_ite _ Ctx.id (s.pathRecord g pc iw r).ctx (Ctx.owes (s.evSeq, .path g.id)), List.map_map]
    refine List.map_congr_left fun d _ => ?_
    rw [Function.comp_apply]
    by_cases hd : d.id = (s.pathRecord g pc iw r).ctx
    · rw [if_pos hd, if_pos hd]
      exact if_pos (hd.trans hid.symm)
    · rw [if_neg hd, if_neg hd]
      exact if_neg fun he => hd (he.trans hid)
  · unfold State.park State.onPath
    rw [State.group?_onArch, hu, Option.map_some, hq]
    rfl
  · cases slot <;> rfl
  · rw [← hregs]
    cases slot <;> rfl

/-- Settles O50, by the record's way to the ring, and by what stops with a context. -/
theorem takingFaults : Obligations.TakingFaults := by
  refine ⟨fun s g slot pc iw r c p x y hk hview hg hconts hp hc hring hnone hlive hfull hheld hlost hx hy hshare => ?_,
    fun s g slot pc iw r c hp hg hu hview hn hc hlive => State.raise_program hp hg hu hview hn hc hlive⟩
  obtain ⟨hbyte, hseq, hctxs, hsig, hgroup⟩ := State.raise_page hk hview hg hconts hp ⟨hc, hring, hnone, hlive, hfull, hheld, hlost, hx, hy⟩ hshare
  refine ⟨hbyte, rfl, ?_, hseq, hctxs, hsig, hgroup⟩
  change r.kind.cls = 0
  obtain hk | hk := hk <;> rw [hk] <;> rfl

/-! ### Cache lines that a reset loses (R389) -/

/-- Memory in which cache lines are as DRAM holds them. -/
def lineDram (l : List CacheLine) (m : List Host.Cell) : List Host.Cell := l.foldl (fun (m : List Host.Cell) c => putBytes m (64 * c.line) c.dram) m

theorem look_putLine {c : CacheLine} (hd : c.dram.length = 64) (m : List Host.Cell) (k : Nat) :
    Sparse.look (putBytes m (64 * c.line) c.dram) k = if c.line = k / 64 then c.dram.getD (k % 64) 0 else Sparse.look m k := by
  rw [look_putBytes, hd]
  by_cases h : c.line = k / 64
  · rw [if_pos h, if_pos (by omega)]
    exact congrArg (fun n => c.dram.getD n 0) (by omega)
  · rw [if_neg h, if_neg (by omega)]

theorem look_lineDram_other {l : List CacheLine} (hd : ∀ c ∈ l, c.dram.length = 64) {k : Nat} (m : List Host.Cell) (h : ∀ c ∈ l, c.line ≠ k / 64) :
    Sparse.look (lineDram l m) k = Sparse.look m k := by
  induction l generalizing m with
  | nil => rfl
  | cons c l ih =>
    have hl := ih (fun x hx => hd x (List.mem_cons_of_mem c hx)) (putBytes m (64 * c.line) c.dram) fun x hx => h x (List.mem_cons_of_mem c hx)
    exact hl.trans ((look_putLine (hd c List.mem_cons_self) m k).trans (if_neg (h c List.mem_cons_self)))

theorem look_lineDram {l : List CacheLine} (hd : ∀ c ∈ l, c.dram.length = 64) (hn : (l.map (·.line)).Nodup) {k : Nat} (m : List Host.Cell) {c : CacheLine}
    (hc : c ∈ l) (h : c.line = k / 64) : Sparse.look (lineDram l m) k = c.dram.getD (k % 64) 0 := by
  induction l generalizing m with
  | nil => cases hc
  | cons x l ih =>
    have htail : ∀ y ∈ l, y.dram.length = 64 := fun y hy => hd y (List.mem_cons_of_mem x hy)
    obtain ⟨hx, hn⟩ := List.nodup_cons.mp hn
    obtain rfl | hc := List.mem_cons.mp hc
    · refine (look_lineDram_other htail (putBytes m (64 * c.line) c.dram) fun y hy he => hx ?_).trans
        ((look_putLine (hd c List.mem_cons_self) m k).trans (if_pos h))
      exact List.mem_map.mpr ⟨y, hy, he.trans h.symm⟩
    · exact ih htail hn (putBytes m (64 * x.line) x.dram) hc

/-! ### Resets of the device (R417, R426) -/

/-- What a reset of the device keeps. -/
def Kept (keep : Bool) (k : Nat) : Prop := k / 2 ^ 64 = 2 ∨ k / 2 ^ 64 = 3 ∨ keep = true ∧ k / 2 ^ 64 = 0

theorem keptKey_iff (keep : Bool) (k : Nat) : keptKey keep k = true ↔ Kept keep k := by
  unfold keptKey Kept
  simp only [Bool.or_eq_true, Bool.and_eq_true, beq_iff_eq, or_assoc]

/-- Memory after a reset of the device. -/
theorem State.deviceReset_byte (s : State) (warm preserve : Bool) (k : Nat) : (s.deviceReset warm preserve).byte k =
    if keptKey (warm && preserve) k = true then Sparse.look (lineDram s.cache s.mem) k else 0 := by
  change Sparse.look (((s.dropCache fun _ => true).mem).filter fun c => keptKey (warm && preserve) c.1) k = _
  rw [Sparse.look_filter (s.dropCache fun _ => true).mem (keptKey (warm && preserve))]
  have hmem : (s.dropCache fun _ => true).mem = lineDram s.cache s.mem := by
    change lineDram (s.cache.filter fun _ => true) s.mem = _
    rw [List.filter_true]
  rw [hmem]

theorem State.deviceReset_lost (s : State) (warm preserve : Bool) (g : Nat) : g ∈ (s.deviceReset warm preserve).lost ↔
    Kept (warm && preserve) (64 * g) ∧ ((∃ c ∈ s.cache, c.line = g ∧ c.poison = true) ∨ g ∈ s.lost ∧ ∀ c ∈ s.cache, c.line ≠ g) := by
  change g ∈ (s.dropCache fun _ => true).lost.filter _ ↔ _
  rw [List.mem_filter, keptKey_iff]
  unfold State.dropCache
  simp only [List.filter_true, List.mem_append, List.mem_map, List.mem_filter, Bool.not_eq_true', List.any_eq_false, beq_iff_eq]
  constructor
  · rintro ⟨⟨c, ⟨hc, hp⟩, hl⟩ | ⟨hg, hc⟩, hk⟩
    · exact ⟨hk, .inl ⟨c, hc, hl, hp⟩⟩
    · exact ⟨hk, .inr ⟨hg, hc⟩⟩
  · rintro ⟨hk, ⟨c, hc, hl, hp⟩ | ⟨hg, hc⟩⟩
    · exact ⟨.inl ⟨c, ⟨hc, hp⟩, hl⟩, hk⟩
    · exact ⟨.inr ⟨hg, hc⟩, hk⟩

theorem State.deviceReset_bytes (s : State) (warm preserve : Bool) (k : Nat) :
    (¬Kept (warm && preserve) k → (s.deviceReset warm preserve).byte k = 0) ∧
    (Kept (warm && preserve) k → (∀ c ∈ s.cache, c.dram.length = 64) →
      ((∀ c ∈ s.cache, c.line ≠ k / 64) → (s.deviceReset warm preserve).byte k = s.byte k) ∧
        ((s.cache.map (·.line)).Nodup → ∀ c ∈ s.cache, c.line = k / 64 → (s.deviceReset warm preserve).byte k = c.dram.getD (k % 64) 0)) := by
  rw [State.deviceReset_byte, ← keptKey_iff]
  refine ⟨fun hk => if_neg hk, fun hk hd => ?_⟩
  rw [if_pos hk]
  exact ⟨fun h => look_lineDram_other hd s.mem h, fun hn c hc h => look_lineDram hd hn s.mem hc h⟩

/-! ### The reset of a partition (R426) -/

/-- A context that a partition's reset takes down. -/
def State.ctxDown (s : State) (ctx : Nat) : Prop := ∃ c, s.ctx? ctx = some c ∧ (c.st = .dead ∨ c.st = .free)

theorem Winds.ctxDown {s t : State} {may : Prop} (h : Winds False may s t) {c : Nat} (k : s.ctxDown c) : t.ctxDown c := by
  obtain ⟨d, hd, hst⟩ := k
  obtain ⟨e, he, hde | ⟨⟨⟩⟩ | ⟨-, hfree, hdead, -, -⟩⟩ := h.ctxs c d hd
  · exact ⟨e, he, by rwa [hde]⟩
  · exact ⟨e, he, .inl (hdead (hst.resolve_right hfree))⟩

theorem State.ctxDown_deadCtx {s : State} {ctx : Nat} {c : Ctx} (hc : s.ctx? ctx = some c) : (s.deadCtx ctx).ctxDown ctx := by
  have hf : Winds False False s (s.failCtxGrids ctx none) := (Winds.refl s).failCtxGrids
  obtain ⟨e, he, -⟩ := hf.ctxs ctx c hc
  unfold State.deadCtx
  rw [hc]
  dsimp only
  split
  · next hst => exact ⟨c, hc, .inr hst⟩
  · next hst => exact ⟨c, hc, .inl hst⟩
  · exact (Winds.enterCtx_after (may := True) (status := 2) trivial (.inr rfl) he).ctxDown ⟨_, State.ctx?_onCtx he fun _ => rfl, .inl rfl⟩

theorem State.ctxDown_foldl {l : List Nat} {s : State} {n : Nat} (hn : n ∈ l) {c : Ctx} (hc : s.ctx? n = some c) :
    (l.foldl (fun (t : State) c => t.deadCtx c) s).ctxDown n := by
  induction l generalizing s c with
  | nil => cases hn
  | cons m l ih =>
    rw [List.foldl_cons]
    obtain rfl | hn := List.mem_cons.mp hn
    · exact Winds.ctxDown (may := True) ((Winds.refl _).foldl fun t _ => (Winds.refl t).deadCtx trivial) (State.ctxDown_deadCtx hc)
    · obtain ⟨d, hd, -⟩ := ((Winds.refl s).deadCtx trivial : Winds False True s (s.deadCtx m)).ctxs n c hc
      exact ih hn hd

/-- The contexts of a partition that is reset, DEAD. -/
def State.downAll (s : State) (dies : BitVec 4) : State := (s.ctxsIn dies).foldl (fun (t : State) c => t.deadCtx c) s

theorem State.winds_downAll (s : State) (dies : BitVec 4) : Winds False True s (s.downAll dies) :=
  (Winds.refl s).foldl fun t _ => (Winds.refl t).deadCtx trivial

theorem State.ctxDown_downAll {s : State} {dies : BitVec 4} {n : Nat} (hn : n ∈ s.ctxsIn dies) : (s.downAll dies).ctxDown n := by
  have hmem := hn
  unfold State.ctxsIn at hmem
  obtain ⟨c, hc, rfl⟩ := List.mem_map.mp hmem
  have hex : ∃ d, s.ctx? c.id = some d := by
    rw [← Option.isSome_iff_exists]
    unfold State.ctx?
    rw [List.find?_isSome]
    exact ⟨c, (List.mem_filter.mp hc).1, by simp⟩
  obtain ⟨d, hd⟩ := hex
  exact State.ctxDown_foldl hn hd

theorem Package.abandon_stage (p : Package) : p.abandon.stage = (if p.stage = .d ∨ p.stage = .halted then p.stage else .a) ∧
    p.abandon.modules = (if p.stage = .d ∨ p.stage = .halted then p.modules else p.modules.map fun m => { m with up := m.n == 0, full := false }) ∧
    p.abandon.pendingReset = p.pendingReset := by
  unfold Package.abandon
  by_cases h : p.stage = .d ∨ p.stage = .halted
  · rw [if_pos (by simpa using h), if_pos h, if_pos h]
    exact ⟨rfl, rfl, rfl⟩
  · rw [if_neg (by simpa using h), if_neg h, if_neg h]
    exact ⟨rfl, rfl, rfl⟩

/-- The machine as a partition's reset leaves it. -/
def State.partitionAgain (s : State) (dies : BitVec 4) (p : Bool) : State := ((s.downAll dies).resetDies dies p).onPkg Package.abandon

theorem State.partitionAgain_byte (s : State) (dies : BitVec 4) (p : Bool) {k : Nat} (h1 : k / 2 ^ 64 = 1)
    (hd : dies.getLsbD (k % 2 ^ 64 / 2 ^ 28) = true) : (s.partitionAgain dies p).byte k = 0 := by
  change Sparse.look (((s.downAll dies).resetDies dies p).mem) k = 0
  unfold State.resetDies
  dsimp only
  rw [Sparse.look_filter _ (fun k => !(s.downAll dies).lostByPartition dies p k)]
  refine if_neg ?_
  unfold State.lostByPartition
  rw [if_neg (by omega), h1, hd]
  decide

theorem partitionReset_steps (dies : BitVec 4) : Steps (.partitionReset dies) (fun s => ∃ p, s.pkg.pendingReset = some (.partition, p, dies))
    fun s t =>
      (∀ c ∈ t.cores, dies.getLsbD c.die = false) ∧ (∀ x ∈ t.threads, dies.getLsbD x.die = false) ∧
        (∀ e ∈ t.tlb, dies.getLsbD e.unit.die = false) ∧ (∀ d ∈ t.dies, dies.getLsbD d.n = true → d = ⟨d.n, [], [], [], []⟩) ∧
        (∀ k, k / 2 ^ 64 = 1 → dies.getLsbD (k % 2 ^ 64 / 2 ^ 28) = true → t.byte k = 0) ∧ t.pkg.pendingReset = none ∧
        t.pkg.stage = (if s.pkg.stage = .d ∨ s.pkg.stage = .halted then s.pkg.stage else .a) ∧
        t.pkg.modules = (if s.pkg.stage = .d ∨ s.pkg.stage = .halted then s.pkg.modules
          else s.pkg.modules.map fun m => { m with up := m.n == 0, full := false }) ∧
        (∀ c ∈ s.ctxsIn dies, ∃ x, t.ctx? c = some x ∧ (x.st = .dead ∨ x.st = .free)) ∧
        (s.ctxsIn dies = [] → t.mstacks = s.mstacks.map fun k =>
          if k.ownedBy dies then { k with st := .training, copyA := .notOwned, copyB := .notOwned, hseq := 0, portTo := none, wake := none } else k) := by
  rintro s ⟨p, hp⟩
  have hw := s.winds_downAll dies
  obtain ⟨hstage, hmodules, hpending⟩ := ((s.downAll dies).resetDies dies p).pkg.abandon_stage
  have hold : ((s.downAll dies).resetDies dies p).pkg.stage = s.pkg.stage := hw.stage
  have holdm : ((s.downAll dies).resetDies dies p).pkg.modules = s.pkg.modules := hw.modules
  rw [hold] at hstage hmodules
  rw [holdm] at hmodules
  refine ⟨s.partitionAgain dies p, ?_, fun c hc => ?_, fun x hx => ?_, fun e he => ?_, fun d hd hn => ?_,
    fun k h1 hd => s.partitionAgain_byte dies p h1 hd, hpending, hstage, hmodules, fun c hc => State.ctxDown_downAll hc, fun hnone => ?_⟩
  · change execPartitionReset dies s = _
    unfold execPartitionReset
    rw [hp]
    exact if_pos rfl
  · simpa using (List.mem_filter.mp hc).2
  · simpa using (List.mem_filter.mp hx).2
  · simpa using (List.mem_filter.mp he).2
  · obtain ⟨x, -, rfl⟩ := List.mem_map.mp hd
    split
    · rfl
    · next hx =>
      rw [if_neg hx] at hn
      exact absurd hn hx
  · change ((s.downAll dies).mstacks.map _) = _
    unfold State.downAll
    rw [hnone]
    rfl

/-- Settles O45, by what each reset drops and keeps. -/
theorem resets : Obligations.Resets := by
  refine ⟨fun s _ => ⟨_, rfl, s.deviceReset_bytes false false, s.deviceReset_lost false false, rfl, rfl, rfl, rfl, rfl, rfl, rfl⟩,
    fun s ⟨p, d, hp⟩ => ⟨s.deviceReset false false, ?_, s.deviceReset_bytes false false, s.deviceReset_lost false false, rfl, rfl, rfl, rfl, rfl, rfl, rfl⟩,
    fun p s ⟨d, hp⟩ => ⟨s.deviceReset true p, ?_, s.deviceReset_bytes true p, s.deviceReset_lost true p, rfl, rfl, rfl, rfl, rfl, rfl, rfl⟩,
    partitionReset_steps⟩
  · change execColdReset s = _
    unfold execColdReset
    rw [hp]
  · change execWarmReset p s = _
    unfold execWarmReset
    rw [hp]
    exact if_pos rfl

end Sys2Proof.Machine
end

section
/-!
SUPPORT. Parked paths that go on; arrivals at named barriers and at slots, and a slot's release (R289, R299, R301-R304).
-/
namespace Sys2Proof.Machine

/-! ### Parked paths that go on (R289, R299, R303) -/

/-- The same group but for its registers and paths, and what its detector notes. -/
def Group.Marched (g u : Group) : Prop := { u with arch := g.arch, detector := g.detector } = g

theorem Group.marched_refl (g : Group) : g.Marched g := rfl

theorem Group.marched_trans (a b c : Group) (h : a.Marched b) (k : b.Marched c) : a.Marched c :=
  (congrArg (fun x : Group => { x with arch := a.arch, detector := a.detector }) k :).trans h

theorem Group.Marched.id {g u : Group} (h : g.Marched u) : u.id = g.id := (congrArg Group.id h :)
theorem Group.Marched.team {g u : Group} (h : g.Marched u) : u.team = g.team := (congrArg Group.team h :)
theorem Group.Marched.exited {g u : Group} (h : g.Marched u) : u.exited = g.exited := (congrArg Group.exited h :)

/-- Groups change in their registers and paths, teams in RET, and instructions are counted; nothing else changes. -/
structure Marches (s t : State) : Prop where
  rest : { t with groups := s.groups, teams := s.teams, cores := s.cores } = s
  groups : MapsGroups Group.Marched s t
  teams : ∃ F : Team → Team, t.teams = s.teams.map F ∧ ∀ x, { F x with ret := x.ret } = x

namespace Marches
variable {s t u : State}

theorem refl (s : State) : Marches s s := ⟨rfl, .refl Group.marched_refl rfl, fun k => k, by simp, fun _ => rfl⟩

theorem trans (h : Marches s t) (k : Marches t u) : Marches s u where
  rest := (congrArg (fun x : State => { x with groups := s.groups, teams := s.teams, cores := s.cores }) k.rest :).trans h.rest
  groups := h.groups.trans Group.marched_trans k.groups
  teams := by
    obtain ⟨F, hF, hR⟩ := h.teams
    obtain ⟨G, hG, hS⟩ := k.teams
    exact ⟨G ∘ F, by rw [hG, hF, List.map_map], fun x => (congrArg (fun y : Team => { y with ret := x.ret }) (hS (F x)) :).trans (hR x)⟩

theorem mem (h : Marches s t) : t.mem = s.mem := (congrArg State.mem h.rest :)
theorem slots (h : Marches s t) : t.slots = s.slots := (congrArg State.slots h.rest :)

/-- A team after the march. -/
theorem team? (h : Marches s t) {n : Nat} {x : Team} (hx : s.team? n = some x) : ∃ y, t.team? n = some y ∧ { y with ret := x.ret } = x := by
  obtain ⟨F, hF, hR⟩ := h.teams
  refine ⟨F x, ?_, hR x⟩
  unfold State.team? at hx ⊢
  rw [hF, find?_map_key _ _ F fun y => by rw [show (F y).id = y.id from (congrArg Team.id (hR y) :)], hx]
  rfl

theorem nodup (h : Marches s t) (hn : (s.groups.map (·.id)).Nodup) : (t.groups.map (·.id)).Nodup := by
  rw [h.groups.map_eq (·.id) fun a b (hab : a.Marched b) => hab.id]
  exact hn

theorem foldl {α : Type} (l : List α) {f : State → α → State} (hf : ∀ t a, Marches t (f t a)) (s : State) : Marches s (l.foldl f s) := by
  induction l generalizing s with
  | nil => exact .refl s
  | cons a l ih => exact (hf s a).trans (ih (f s a))

end Marches

theorem State.marches_onGroup (s : State) (n : Nat) {f : Group → Group} (hf : ∀ g : Group, g.Marched (f g)) : Marches s (s.onGroup n f) :=
  ⟨rfl, s.mapsGroups_onGroup n Group.marched_refl hf, id, by simp, fun _ => rfl⟩

theorem State.marches_onArch (s : State) (n : Nat) (f : Arch → Arch) : Marches s (s.onArch n f) := s.marches_onGroup n fun _ => rfl

/-- A team's count of issues changes. -/
theorem State.marches_ret (s : State) (n : Nat) (f : Team → Nat) : Marches s (s.onTeam n fun t => { t with ret := f t }) :=
  ⟨rfl, .refl Group.marched_refl rfl, fun x => if x.id == n then { x with ret := f x } else x, rfl, fun x => by dsimp only; split <;> rfl⟩

theorem State.marches_perfGroup (s : State) (g : Group) (n k : Nat) : Marches s (s.perfGroup g n k) :=
  ⟨(congrArg (fun x : State => { x with groups := s.groups, teams := s.teams }) (s.perfGroup_rest g n k) :),
    .refl Group.marched_refl (s.perfGroup_groups g n k), id, by
      rw [List.map_id]
      exact (congrArg State.teams (s.perfGroup_rest g n k) :), fun _ => rfl⟩

/-- What the detector of a group notes as one of its parked paths goes on (R294). -/
def Group.notes (slot : Bool) (g : Group) : Group :=
  { g with detector := if g.single then g.detector.bind fun d => (g.arch.path slot).bind d.parked else none }

theorem State.retireParked_eq {s : State} {grp : Nat} {g : Group} (hg : s.group? grp = some g) (slot : Bool) : s.retireParked grp slot =
    (((s.onGroup grp (Group.notes slot)).onPath grp slot fun p => p.advance 1).onTeam g.team fun t => { t with ret := satCount (t.ret + 1) }).perfGroup g 2 1 := by
  unfold State.retireParked
  rw [hg]
  rfl

theorem State.marches_retireParked (s : State) (grp : Nat) (slot : Bool) : Marches s (s.retireParked grp slot) := by
  cases hg : s.group? grp with
  | none =>
    unfold State.retireParked
    rw [hg]
    exact .refl s
  | some g =>
    rw [State.retireParked_eq hg]
    exact (((s.marches_onGroup grp (f := Group.notes slot) fun _ => rfl).trans (State.marches_onArch _ grp _)).trans (State.marches_ret _ g.team _)).trans
      (State.marches_perfGroup _ g 2 1)

theorem State.marches_retireAll (s : State) (l : List (Nat × Bool)) : Marches s (s.retireAll l) :=
  Marches.foldl l (fun t e => t.marches_retireParked e.1 e.2) s

theorem State.marches_retireWhere (s : State) (team : Nat) (p : Group → Path → Bool) : Marches s (s.retireWhere team p) := by
  unfold State.retireWhere
  refine (s.marches_retireAll _).trans (Marches.foldl _ (fun t g => ?_) _)
  dsimp only
  split
  · exact .refl t
  · exact ((t.marches_onArch g.id _).trans (State.marches_ret _ team _)).trans (State.marches_perfGroup _ g 2 _)

theorem State.marches_onTeamPaths (s : State) (team : Nat) (f : Group → Path → Path) : Marches s (s.onTeamPaths team f) := by
  refine ⟨rfl, ⟨fun g => if g.team == team then { g with arch := g.arch.onPaths (f g) } else g, rfl, fun g => ?_⟩, id, by simp [State.onTeamPaths], fun _ => rfl⟩
  dsimp only
  split <;> rfl

/-! ### The paths of one group -/

/-- In the group of a number, registers and paths change by `f`. -/
def State.Turns (s t : State) (n : Nat) (f : Arch → Arch) : Prop :=
  ∀ g, s.group? n = some g → ∃ u, t.group? n = some u ∧ u.arch = f g.arch ∧ g.Marched u

namespace State.Turns
variable {s t u : State} {n : Nat} {f k : Arch → Arch}

theorem trans (h : s.Turns t n f) (h' : t.Turns u n k) : s.Turns u n fun a => k (f a) := by
  intro g hg
  obtain ⟨x, hx, hxa, hxm⟩ := h g hg
  obtain ⟨y, hy, hya, hym⟩ := h' x hx
  exact ⟨y, hy, by rw [hya, hxa], Group.marched_trans g x y hxm hym⟩

theorem of_groups (h : t.groups = s.groups) : s.Turns t n id := fun g hg => ⟨g, by rwa [State.group?_congr h], rfl, rfl⟩

end State.Turns

theorem State.group?_onGroup_other (s : State) {n m : Nat} (hn : n ≠ m) {f : Group → Group} (hf : ∀ g, (f g).id = g.id) :
    (s.onGroup m f).group? n = s.group? n := by
  unfold State.group? State.onGroup mapIf
  dsimp only
  rw [find?_map_key _ _ _ fun x => by split <;> simp [hf]]
  cases h : s.groups.find? (·.id == n) with
  | none => rfl
  | some g =>
    have hg : g.id = n := by simpa using List.find?_some h
    rw [Option.map_some, if_neg (by simpa [hg] using hn)]

theorem State.turns_onArch (s : State) (n : Nat) (f : Arch → Arch) : s.Turns (s.onArch n f) n f := fun g hg =>
  ⟨{ g with arch := f g.arch }, by rw [State.group?_onArch, hg, Option.map_some], rfl, rfl⟩

theorem State.turns_onArch_other (s : State) {n m : Nat} (hn : n ≠ m) (f : Arch → Arch) : s.Turns (s.onArch m f) n id := fun g hg =>
  ⟨g, (s.group?_onGroup_other hn (f := fun g => { g with arch := f g.arch }) fun _ => rfl).trans hg, rfl, rfl⟩

theorem State.turns_retireParked (s : State) (n m : Nat) (slot : Bool) :
    s.Turns (s.retireParked m slot) n fun a => if m = n then a.goesOn slot else a := by
  by_cases hm : m = n
  · subst hm
    intro g hg
    obtain ⟨u, hu, hua, -⟩ := (s.within_retireParked m slot).group g hg
    obtain ⟨v, hv, hvm⟩ := (s.marches_retireParked m slot).groups.group? (fun _ _ h => h.id) hg
    cases hu.symm.trans hv
    exact ⟨u, hu, hua.trans (if_pos rfl).symm, hvm⟩
  · simp only [if_neg hm]
    cases hg : s.group? m with
    | none =>
      unfold State.retireParked
      rw [hg]
      exact .of_groups rfl
    | some g =>
      rw [State.retireParked_eq hg]
      have hdet : s.Turns (s.onGroup m (Group.notes slot)) n id := fun h hh =>
        ⟨h, (s.group?_onGroup_other (Ne.symm hm) (f := Group.notes slot) fun _ => rfl).trans hh, rfl, rfl⟩
      have hpath := hdet.trans (State.turns_onArch_other (s.onGroup m (Group.notes slot)) (Ne.symm hm) fun a => a.setPath slot ((a.path slot).map fun p => p.advance 1))
      exact hpath.trans (k := id) (State.Turns.of_groups (State.perfGroup_groups _ g 2 1))

theorem State.turns_retireAll (l : List (Nat × Bool)) (s : State) (n : Nat) :
    s.Turns (s.retireAll l) n fun a => (l.filter fun e => e.1 == n).foldl (fun a e => a.goesOn e.2) a := by
  induction l generalizing s with
  | nil => exact .of_groups rfl
  | cons e l ih =>
    have h := (s.turns_retireParked n e.1 e.2).trans (ih (s.retireParked e.1 e.2))
    rw [show (fun a : Arch => ((e :: l).filter fun e => e.1 == n).foldl (fun a e => a.goesOn e.2) a) =
      fun a => (l.filter fun e => e.1 == n).foldl (fun a e => a.goesOn e.2) (if e.1 = n then a.goesOn e.2 else a) from ?_]
    · exact h
    · funext a
      by_cases he : e.1 = n
      · rw [List.filter_cons_of_pos (by simpa using he), List.foldl_cons, if_pos he]
      · rw [List.filter_cons_of_neg (by simpa using he), if_neg he]

/-- A path that satisfies a test goes on. -/
def Path.marches (p : Path → Bool) (x : Path) : Path := if p x then x.advance 1 else x

/-- The paths in slots that satisfy a test go on. -/
def Arch.marchSlots (p : Path → Bool) (a : Arch) : Arch := { a with path0 := a.path0.map (Path.marches p), path1 := a.path1.map (Path.marches p) }

/-- All paths that satisfy a test go on. -/
def Arch.march (p : Path → Bool) (a : Arch) : Arch := (a.marchSlots p).retireWaits p

theorem Arch.march_path (p : Path → Bool) (a : Arch) (slot : Bool) : (a.march p).path slot = (a.path slot).map (Path.marches p) := by
  cases slot <;> rfl

/-- The marches of the slots that hold a path that satisfies a test. -/
theorem Arch.foldl_goesOn (p : Path → Bool) (n : Nat) (a : Arch) :
    ((a.paths.filter fun e => p e.2).map fun e => (n, e.1)).foldl (fun a (e : Nat × Bool) => a.goesOn e.2) a = a.marchSlots p := by
  have hnone : ∀ x : Path, p x = false → x.marches p = x := fun x h => if_neg (by simp [h])
  have hsome : ∀ x : Path, p x = true → x.marches p = x.advance 1 := fun x h => if_pos h
  obtain ⟨v, s, pr, k, tr, ns, sp, po, ec, bl, lm, path0, path1, st, spd, kept, low⟩ := a
  unfold Arch.paths Arch.marchSlots
  cases path0 with
  | none =>
    cases path1 with
    | none => rfl
    | some y => cases hy : p y <;> simp [hy, hnone, hsome, Arch.goesOn, Arch.setPath, Arch.path]
  | some x =>
    cases path1 with
    | none => cases hx : p x <;> simp [hx, hnone, hsome, Arch.goesOn, Arch.setPath, Arch.path]
    | some y => cases hx : p x <;> cases hy : p y <;> simp [hx, hy, hnone, hsome, Arch.goesOn, Arch.setPath, Arch.path]

/-- The groups of a number, where numbers are unique. -/
theorem filter_group {l : List Group} (hn : (l.map (·.id)).Nodup) {n : Nat} {g : Group} (hg : l.find? (·.id == n) = some g) :
    l.filter (·.id == n) = [g] := by
  induction l with
  | nil => cases hg
  | cons x l ih =>
    obtain ⟨hx, hn⟩ := List.nodup_cons.mp hn
    by_cases hid : x.id = n
    · have hxg : x = g := by simpa [List.find?_cons, hid] using hg
      subst hxg
      rw [List.filter_cons_of_pos (by simpa using hid), List.filter_eq_nil_iff.mpr]
      intro y hy he
      exact hx (List.mem_map.mpr ⟨y, hy, (by simpa using he : y.id = n).trans hid.symm⟩)
    · rw [List.filter_cons_of_neg (by simpa using hid)]
      exact ih hn (by simpa [List.find?_cons, hid] using hg)

/-- The parked places of one group among those of its team. -/
theorem State.teamPaths_group {s : State} (hn : (s.groups.map (·.id)).Nodup) {n : Nat} {g : Group} (hg : s.group? n = some g) (team : Nat)
    (p : Group → Path → Bool) : ((s.teamPaths team p).filter fun e => e.1 == n) =
      if g.team = team then (g.arch.paths.filter fun e => p g e.2).map fun e => (n, e.1) else [] := by
  have hone : s.groups.filter (·.id == n) = [g] := filter_group hn hg
  have hid : g.id = n := by simpa using List.find?_some hg
  unfold State.teamPaths State.teamGroups
  rw [List.filter_flatMap]
  have hzero : ∀ l : List Group, (l.flatMap fun h => ((h.arch.paths.filter fun e => p h e.2).map fun e => (h.id, e.1)).filter fun e => e.1 == n) =
      (l.filter (·.id == n)).flatMap fun h => (h.arch.paths.filter fun e => p h e.2).map fun e => (n, e.1) := by
    intro l
    induction l with
    | nil => rfl
    | cons x l ih =>
      rw [List.flatMap_cons, ih]
      by_cases hx : x.id = n
      · rw [List.filter_cons_of_pos (by simpa using hx), List.flatMap_cons, hx, List.filter_map]
        refine congrArg (· ++ _) ?_
        rw [List.filter_eq_self.mpr]
        simp
      · rw [List.filter_cons_of_neg (by simpa using hx), List.filter_eq_nil_iff.mpr, List.nil_append]
        intro e he
        obtain ⟨y, -, rfl⟩ := List.mem_map.mp he
        simpa using hx
  rw [hzero, List.filter_filter]
  have hswap : (s.groups.filter fun a => a.id == n && a.team == team) = (s.groups.filter (·.id == n)).filter (·.team == team) := by
    rw [List.filter_filter]
    exact List.filter_congr fun a _ => Bool.and_comm _ _
  rw [hswap, hone]
  by_cases ht : g.team = team
  · rw [List.filter_cons_of_pos (by simpa using ht), if_pos ht]
    simp
  · rw [List.filter_cons_of_neg (by simpa using ht), if_neg ht]
    rfl

theorem Arch.retireWaits_none {a : Arch} {p : Path → Bool} (h : a.waitsThat p = 0) : a.retireWaits p = a := by
  unfold Arch.waitsThat at h
  have hstack : ∀ q ∈ a.stack, ¬(match q with | .wait x _ => p x | _ => false) = true :=
    List.filter_eq_nil_iff.mp (List.length_eq_zero_iff.mp (Nat.eq_zero_of_add_eq_zero_right h))
  have hkept : ∀ e ∈ a.kept, ¬p e.2 = true := List.filter_eq_nil_iff.mp (List.length_eq_zero_iff.mp (Nat.eq_zero_of_add_eq_zero_left h))
  have e1 : (a.stack.map fun q => match q with | .wait x d => Pos.wait (if p x then x.advance 1 else x) d | q => q) = a.stack := by
    refine (List.map_congr_left fun q hq => ?_).trans (List.map_id _)
    have := hstack q hq
    cases q with
    | wait x d => exact congrArg (Pos.wait · d) (if_neg this)
    | recon => rfl
    | call => rfl
    | wait2 => rfl
  have e2 : (a.kept.map fun e => (e.1, if p e.2 then e.2.advance 1 else e.2)) = a.kept :=
    (List.map_congr_left fun e he => congrArg (Prod.mk e.1) (if_neg (hkept e he))).trans (List.map_id _)
  exact (congrArg₂ (fun st kp => { a with stack := st, kept := kp }) e1 e2 :)

/-- The split stacks of a team's groups, one after the other. -/
def State.retireWaiting (team : Nat) (p : Group → Path → Bool) (s : State) (g : Group) : State :=
  if g.arch.waitsThat (p g) = 0 then s
  else ((s.onArch g.id fun a => a.retireWaits (p g)).onTeam team fun t => { t with ret := satCount (t.ret + g.arch.waitsThat (p g)) }).perfGroup g 2
    (g.arch.waitsThat (p g))

theorem State.retireWhere_eq (s : State) (team : Nat) (p : Group → Path → Bool) : s.retireWhere team p =
    ((s.retireAll (s.teamPaths team p)).teamGroups team).foldl (State.retireWaiting team p) (s.retireAll (s.teamPaths team p)) := rfl

theorem State.turns_retireWaiting (s : State) (team : Nat) (p : Group → Path → Bool) (g : Group) (n : Nat) :
    s.Turns (State.retireWaiting team p s g) n fun a => if g.id = n ∧ g.arch.waitsThat (p g) ≠ 0 then a.retireWaits (p g) else a := by
  unfold State.retireWaiting
  by_cases hk : g.arch.waitsThat (p g) = 0
  · rw [if_pos hk]
    simp only [hk, ne_eq, not_true_eq_false, and_false, if_false]
    exact .of_groups rfl
  · rw [if_neg hk]
    have hperf := State.Turns.of_groups (s := (s.onArch g.id fun a => a.retireWaits (p g)).onTeam team fun t =>
      { t with ret := satCount (t.ret + g.arch.waitsThat (p g)) }) (n := n) (State.perfGroup_groups _ g 2 (g.arch.waitsThat (p g)))
    by_cases hid : g.id = n
    · simp only [hid, hk, ne_eq, not_false_eq_true, and_self, if_true]
      subst hid
      exact (s.turns_onArch g.id fun a => a.retireWaits (p g)).trans (k := id) hperf
    · simp only [hid, false_and, if_false]
      exact (s.turns_onArch_other (Ne.symm hid) fun a => a.retireWaits (p g)).trans (k := id) hperf

theorem State.turns_retireWaits (l : List Group) (s : State) (team : Nat) (p : Group → Path → Bool) (n : Nat) :
    s.Turns (l.foldl (State.retireWaiting team p) s) n fun a =>
      (l.filter (·.id == n)).foldl (fun a g => if g.arch.waitsThat (p g) ≠ 0 then a.retireWaits (p g) else a) a := by
  induction l generalizing s with
  | nil => exact .of_groups rfl
  | cons g l ih =>
    have h := (s.turns_retireWaiting team p g n).trans (ih (State.retireWaiting team p s g))
    by_cases hg : g.id = n
    · rw [List.filter_cons_of_pos (by simpa using hg)]
      simpa [hg] using h
    · rw [List.filter_cons_of_neg (by simpa using hg)]
      simpa [hg] using h

/-- Parked paths of a team's group go on where they satisfy a test, wherever they wait. -/
theorem State.turns_retireWhere {s : State} (hn : (s.groups.map (·.id)).Nodup) {n : Nat} {g : Group} (hg : s.group? n = some g)
    {p : Group → Path → Bool} (hp : ∀ a b : Group, a.id = b.id → p a = p b) :
    ∃ u, (s.retireWhere g.team p).group? n = some u ∧ u.arch = g.arch.march (p g) ∧ g.Marched u := by
  obtain ⟨x, hx, hxa, hxm⟩ := s.turns_retireAll (s.teamPaths g.team p) n g hg
  rw [State.teamPaths_group hn hg, if_pos rfl] at hxa
  replace hxa := hxa.trans (Arch.foldl_goesOn (p g) n g.arch)
  have hn' := (s.marches_retireAll (s.teamPaths g.team p)).nodup hn
  obtain ⟨u, hu, hua, hum⟩ := State.turns_retireWaits ((s.retireAll (s.teamPaths g.team p)).teamGroups g.team) _ g.team p n x hx
  rw [State.retireWhere_eq]
  refine ⟨u, hu, ?_, Group.marched_trans g x u hxm hum⟩
  have hone : ((s.retireAll (s.teamPaths g.team p)).teamGroups g.team).filter (·.id == n) = [x] := by
    unfold State.teamGroups
    rw [List.filter_filter]
    have hswap : ((s.retireAll (s.teamPaths g.team p)).groups.filter fun a => a.id == n && a.team == g.team) =
        ((s.retireAll (s.teamPaths g.team p)).groups.filter (·.id == n)).filter (·.team == g.team) := by
      rw [List.filter_filter]
      exact List.filter_congr fun a _ => Bool.and_comm _ _
    rw [hswap, filter_group hn' hx, List.filter_cons_of_pos (by simpa using hxm.team), List.filter_nil]
  rw [hua, hone]
  change (if x.arch.waitsThat (p x) ≠ 0 then x.arch.retireWaits (p x) else x.arch) = (g.arch.marchSlots (p g)).retireWaits (p g)
  rw [hp x g hxm.id, hxa]
  split
  · rfl
  · next hk => exact (Arch.retireWaits_none (not_not.mp hk)).symm

/-- Groups of other teams stay. -/
theorem State.turns_retireWhere_other {s : State} (hn : (s.groups.map (·.id)).Nodup) {n : Nat} {g : Group} (hg : s.group? n = some g)
    {team : Nat} (ht : g.team ≠ team) (p : Group → Path → Bool) :
    ∃ u, (s.retireWhere team p).group? n = some u ∧ u.arch = g.arch ∧ g.Marched u := by
  obtain ⟨x, hx, hxa, hxm⟩ := s.turns_retireAll (s.teamPaths team p) n g hg
  rw [State.teamPaths_group hn hg, if_neg ht] at hxa
  obtain ⟨u, hu, hua, hum⟩ := State.turns_retireWaits ((s.retireAll (s.teamPaths team p)).teamGroups team) _ team p n x hx
  rw [State.retireWhere_eq]
  refine ⟨u, hu, ?_, Group.marched_trans g x u hxm hum⟩
  have hnone : ((s.retireAll (s.teamPaths team p)).teamGroups team).filter (·.id == n) = [] := by
    have hn' := (s.marches_retireAll (s.teamPaths team p)).nodup hn
    rw [List.filter_eq_nil_iff]
    intro y hy hid
    obtain ⟨hmem, hteam⟩ := List.mem_filter.mp hy
    have hyx : y = x := by
      have : y ∈ (s.retireAll (s.teamPaths team p)).groups.filter (·.id == n) := List.mem_filter.mpr ⟨hmem, hid⟩
      rw [filter_group hn' hx] at this
      exact List.mem_singleton.mp this
    subst hyx
    exact ht (hxm.team.symm.trans (by simpa using hteam))
  rw [hua, hnone]
  exact hxa

/-! ### Named barriers (R289) -/

/-- A path's arrival at a named barrier marked. -/
def Path.marksArrival (n gen : Nat) (p : Path) : Path :=
  match p.park with
  | some (.bar .named m c hold false _) => if m = n then { p with park := some (.bar .named m c hold true gen) } else p
  | _ => p

/-- A path that passes a named barrier. -/
def Path.passesBar (n : Nat) (p : Path) : Bool := match p.park with | some (.bar .named m _ false true _) => m == n | _ => false

/-- A path that holds behind a named barrier for a generation. -/
def Path.holdsBar (n gen : Nat) (p : Path) : Bool :=
  match p.park with
  | some (.bar .named m _ true true g) => m == n && g == gen
  | _ => false

theorem Arch.path_onPaths (a : Arch) (f : Path → Path) (slot : Bool) : (a.onPaths f).path slot = (a.path slot).map f := by
  cases slot <;> rfl

theorem Arch.waits_map (a : Arch) (f : Path → Path) :
    ((a.stack.map fun q => match q with | .wait p d => Pos.wait (f p) d | q => q).filterMap fun q => match q with | .wait p _ => some p | _ => none) =
      (a.stack.filterMap fun q => match q with | .wait p _ => some p | _ => none).map f := by
  rw [List.filterMap_map, List.map_filterMap]
  refine List.filterMap_congr fun q _ => ?_
  cases q <;> rfl

theorem Arch.waits_onPaths (a : Arch) (f : Path → Path) : (a.onPaths f).waits = a.waits.map f := by
  unfold Arch.waits
  rw [List.map_append]
  refine congrArg₂ (· ++ ·) (a.waits_map f :) ?_
  change (a.kept.map fun e => (e.1, f e.2)).map (·.2) = _
  rw [List.map_map, List.map_map]
  rfl

theorem Arch.waits_march (a : Arch) (p : Path → Bool) : (a.march p).waits = a.waits.map (Path.marches p) := by
  unfold Arch.waits
  rw [List.map_append]
  refine congrArg₂ (· ++ ·) (a.waits_map (Path.marches p) :) ?_
  change (a.kept.map fun e => (e.1, Path.marches p e.2)).map (·.2) = _
  rw [List.map_map, List.map_map]
  rfl

/-- A path that is parked at a named barrier, where its arrival has not been made. -/
def Path.comes (n c : Nat) (p : Path) : Prop := ∃ hold gen, p.park = some (.bar .named n c hold false gen)

theorem Path.advance_park (p : Path) (k : Option Park) (n : Nat) : ({ p with park := k } : Path).advance n = p.advance n := rfl

/-- Marked, passed, and released by its generation: the path goes on behind its instruction. -/
theorem Path.goes_through {n c : Nat} {p : Path} (h : p.comes n c) (gen : Nat) :
    Path.marches (Path.holdsBar n gen) (Path.marches (Path.passesBar n) (p.marksArrival n gen)) = p.advance 1 := by
  obtain ⟨hold, g, hp⟩ := h
  have hmark : p.marksArrival n gen = { p with park := some (.bar .named n c hold true gen) } := by
    unfold Path.marksArrival
    rw [hp]
    exact if_pos rfl
  rw [hmark]
  cases hold
  · have hpass : Path.marches (Path.passesBar n) { p with park := some (.bar .named n c false true gen) } = p.advance 1 := if_pos (by simp [Path.passesBar])
    rw [hpass]
    exact if_neg (by simp [Path.holdsBar, Path.advance])
  · have hpass : Path.marches (Path.passesBar n) { p with park := some (.bar .named n c true true gen) } =
        { p with park := some (.bar .named n c true true gen) } := if_neg (by simp [Path.passesBar])
    rw [hpass]
    exact if_pos (by simp [Path.holdsBar])

theorem Arch.mem_paths {a : Arch} {e : Bool × Path} : e ∈ a.paths ↔ a.path e.1 = some e.2 := by
  obtain ⟨slot, p⟩ := e
  unfold Arch.paths Arch.path
  cases slot <;> simp [eq_comm]

/-- Nothing goes on where no path satisfies the test. -/
theorem Arch.march_none {a : Arch} {p : Path → Bool} (hp : (a.paths.any fun e => p e.2) = false) (hw : a.waitsThat p = 0) : a.march p = a := by
  have hslots : a.marchSlots p = a := by
    have hpath : ∀ slot, (a.path slot).map (Path.marches p) = a.path slot := fun slot => by
      cases h : a.path slot with
      | none => rfl
      | some x =>
        have hx : p x = false := by simpa using List.any_eq_false.mp hp (slot, x) (Arch.mem_paths.mpr h)
        exact congrArg some (if_neg (by simp [hx]))
    have h0 := hpath false
    have h1 := hpath true
    exact (congrArg₂ (fun x y => { a with path0 := x, path1 := y }) h0 h1 :)
  unfold Arch.march
  rw [hslots]
  exact Arch.retireWaits_none hw

/-! ### Teams behind a change of their barriers -/

theorem State.team?_onBar {s : State} {team n : Nat} {x : Team} (h : s.team? team = some x) (f : NamedBar → NamedBar) :
    (s.onBar team n f).team? team = some { x with bars := x.bars.mapIdx fun i b => if i = n then f b else b } := by
  unfold State.onBar
  rw [State.team?_onTeam s team (f := fun t => { t with bars := t.bars.mapIdx fun i b => if i = n then f b else b }) (fun _ => rfl), h, Option.map_some]
  have hid : x.id = team := by simpa using List.find?_some h
  rw [if_pos (by simpa using hid)]

theorem Team.bar_mapIdx {x : Team} {n : Nat} (h : n < x.bars.length) (f : NamedBar → NamedBar) :
    ({ x with bars := x.bars.mapIdx fun i b => if i = n then f b else b } : Team).bar n = f (x.bar n) := by
  unfold Team.bar
  simp [h]

theorem Marches.live {s t : State} (h : Marches s t) (team : Nat) : (t.liveGroups team).length = (s.liveGroups team).length := by
  obtain ⟨F, hF, hR⟩ := h.groups
  unfold State.liveGroups State.teamGroups
  rw [hF, List.filter_map, List.filter_map, List.length_map]
  refine congrArg List.length ?_
  have he : ∀ g : Group, (F g).team = g.team ∧ (F g).exited = g.exited := fun g => ⟨Group.Marched.team (hR g), Group.Marched.exited (hR g)⟩
  have h1 : ((fun g : Group => g.team == team) ∘ F) = fun g => g.team == team := funext fun g => by simp [(he g).1]
  have h2 : ((fun g : Group => !g.exited) ∘ F) = fun g => !g.exited := funext fun g => by simp [(he g).2]
  rw [h1, h2]

/-- From `s` to `t`, a group has become `u`, and its team `y`; no group has come or gone, and memory is the same. -/
structure Follows (s t : State) (g u : Group) (x y : Team) : Prop where
  group : t.group? g.id = some u
  marched : g.Marched u
  team : t.team? g.team = some y
  bars : y.bars.length = x.bars.length
  st : y.st = x.st
  mem : t.mem = s.mem
  live : (t.liveGroups g.team).length = (s.liveGroups g.team).length
  nodup : (s.groups.map (·.id)).Nodup → (t.groups.map (·.id)).Nodup

theorem Follows.trans {s t w : State} {g u v : Group} {x y z : Team} (h : Follows s t g u x y) (k : Follows t w u v y z) : Follows s w g v x z where
  group := h.marched.id ▸ k.group
  marched := Group.marched_trans g u v h.marched k.marched
  team := h.marched.team ▸ k.team
  bars := k.bars.trans h.bars
  st := k.st.trans h.st
  mem := k.mem.trans h.mem
  live := (h.marched.team ▸ k.live).trans h.live
  nodup hn := k.nodup (h.nodup hn)

/-- A march, seen at one group and its team. -/
theorem Marches.follows {s t : State} (h : Marches s t) {g u : Group} {x : Team} (hu : t.group? g.id = some u) (hm : g.Marched u)
    (hx : s.team? g.team = some x) : ∃ y, Follows s t g u x y ∧ y.bars = x.bars := by
  obtain ⟨y, hy, hyx⟩ := h.team? hx
  have hbars : y.bars = x.bars := (congrArg Team.bars hyx :)
  exact ⟨y, ⟨hu, hm, hy, congrArg List.length hbars, (congrArg Team.st hyx :), h.mem, h.live g.team, h.nodup⟩, hbars⟩

/-- A named barrier changes. -/
theorem State.follows_onBar {s : State} {g : Group} {x : Team} (hg : s.group? g.id = some g) (hx : s.team? g.team = some x) (n : Nat) (f : NamedBar → NamedBar) :
    Follows s (s.onBar g.team n f) g g x { x with bars := x.bars.mapIdx fun i b => if i = n then f b else b } :=
  ⟨hg, rfl, State.team?_onBar hx f, by simp, rfl, rfl, rfl, id⟩

/-- An arrival that counts in a generation. -/
def NamedBar.counts (c i : Nat) (b : NamedBar) : NamedBar := { b with arr := b.arr + 1, count := c, who := b.who ++ [i] }

/-- A generation that opens. -/
def NamedBar.opens (b : NamedBar) : NamedBar := { b with gen := b.gen + 1, arr := 0, who := [] }

/-- What marks an arrival, seen at its group. -/
theorem State.markArrival_follows {s : State} (hn : (s.groups.map (·.id)).Nodup) {g : Group} {x : Team} (hg : s.group? g.id = some g)
    (hx : s.team? g.team = some x) (n gen : Nat) : ∃ u y, Follows s (s.markArrival g n gen) g u x y ∧ y.bars = x.bars ∧
      u.arch = (g.arch.onPaths (Path.marksArrival n gen)).march (Path.passesBar n) := by
  have hmark := s.marches_onArch g.id fun a => a.onPaths (Path.marksArrival n gen)
  obtain ⟨v, hv, hva, hvm⟩ := s.turns_onArch g.id (fun a => a.onPaths (Path.marksArrival n gen)) g hg
  obtain ⟨u, hu, hua, hum⟩ := State.turns_retireWhere (hmark.nodup hn) hv
    (p := fun q p => q.id == g.id && Path.passesBar n p) fun a b hab => by funext p; rw [hab]
  rw [hvm.team] at hu
  have hpass : (fun p => v.id == g.id && Path.passesBar n p) = Path.passesBar n := funext fun p => by simp [hvm.id]
  rw [hpass, hva] at hua
  obtain ⟨y, hy, hyb⟩ := (hmark.trans (State.marches_retireWhere _ g.team _)).follows hu (Group.marched_trans g v u hvm hum) hx
  exact ⟨u, y, hy, hyb, hua⟩

theorem State.clearRet_team (s : State) (team : Nat) : Marches s (s.clearRet team) := s.marches_ret team fun _ => 0

/-- Whether anything waited for a generation. -/
def State.barWaited (s : State) (team n : Nat) (b : NamedBar) : Bool :=
  b.held != [] || (s.teamGroups team).any fun g =>
    (g.arch.paths.any fun e => Path.holdsBar n b.gen e.2) || g.arch.waitsThat (Path.holdsBar n b.gen) != 0

theorem State.completeBar_eq (s : State) (team n : Nat) (b : NamedBar) : s.completeBar team n b =
    if (s.onBar team n NamedBar.opens).barWaited team n b then
      ((s.onBar team n NamedBar.opens).clearRet team).retireWhere team fun _ => Path.holdsBar n b.gen
    else s.onBar team n NamedBar.opens := rfl

/-- A generation that completes, seen at a group of the team. -/
theorem State.completeBar_follows {s : State} (hn : (s.groups.map (·.id)).Nodup) {g : Group} {x : Team} (hg : s.group? g.id = some g)
    (hx : s.team? g.team = some x) {n : Nat} (hlen : n < x.bars.length) (b : NamedBar) : ∃ u y, Follows s (s.completeBar g.team n b) g u x y ∧
      y.bar n = (x.bar n).opens ∧ u.arch = g.arch.march (Path.holdsBar n b.gen) := by
  have hbar := State.follows_onBar hg hx n NamedBar.opens
  have hopen := Team.bar_mapIdx hlen NamedBar.opens
  rw [State.completeBar_eq]
  split
  · have hret := (s.onBar g.team n NamedBar.opens).clearRet_team g.team
    have hg' : ((s.onBar g.team n NamedBar.opens).clearRet g.team).group? g.id = some g := hg
    obtain ⟨u, hu, hua, hum⟩ := State.turns_retireWhere (hret.nodup (hbar.nodup hn)) hg' (p := fun _ => Path.holdsBar n b.gen) fun _ _ _ => rfl
    obtain ⟨y, hy, hyb⟩ := (hret.trans (State.marches_retireWhere _ g.team _)).follows hu hum hbar.team
    refine ⟨u, y, hbar.trans hy, ?_, hua⟩
    rw [← hopen]
    unfold Team.bar
    rw [hyb]
  · next hnone =>
    refine ⟨g, _, hbar, hopen, ?_⟩
    have hmem : g ∈ (s.onBar g.team n NamedBar.opens).teamGroups g.team :=
      List.mem_filter.mpr ⟨List.mem_of_find?_eq_some hg, by simp⟩
    unfold State.barWaited at hnone
    simp only [Bool.or_eq_true, not_or, Bool.not_eq_true] at hnone
    obtain ⟨-, hnone⟩ := hnone
    have hg := List.any_eq_false.mp hnone g hmem
    simp only [Bool.or_eq_true, not_or, Bool.not_eq_true, bne_eq_false_iff_eq] at hg
    exact (Arch.march_none hg.1 hg.2).symm

/-- A group's arrival with a count that its generation takes. -/
structure State.Comes (s : State) (g : Group) (x : Team) (n c : Nat) : Prop where
  group : s.group? g.id = some g
  team : s.team? g.team = some x
  nodup : (s.groups.map (·.id)).Nodup
  len : n < x.bars.length
  held : ∀ b ∈ x.bars, b.held = []
  arrives : x.arrives = true
  who : (x.bar n).who.contains g.gidx = false
  fits : c ≤ (s.liveGroups g.team).length
  count : (x.bar n).arr = 0 ∨ c = (x.bar n).count
  comes : ∀ p ∈ g.arch.paths.map (·.2) ++ g.arch.waits, p.comes n c
  enough : (if n = 0 then (s.liveGroups g.team).length else c) ≤ (x.bar n).arr + 1

theorem State.countArrival_eq {s : State} {g : Group} {x : Team} {n c : Nat} (h : s.Comes g x n c) :
    s.countArrival g n c = (s.onBar g.team n (NamedBar.counts c g.gidx)).markArrival g n (x.bar n).gen := by
  unfold State.countArrival
  rw [h.team]
  dsimp only
  rw [if_neg, if_neg (Nat.not_lt.mpr h.fits)]
  · rfl
  · have := h.count
    simp only [Bool.and_eq_true, decide_eq_true_eq, bne_iff_ne, ne_eq, not_and, not_not]
    omega

/-- The arrival counted. -/
theorem State.countArrival_follows {s : State} {g : Group} {x : Team} {n c : Nat} (h : s.Comes g x n c) : ∃ u y,
    Follows s (s.countArrival g n c) g u x y ∧ y.bar n = (x.bar n).counts c g.gidx ∧
      u.arch = (g.arch.onPaths (Path.marksArrival n (x.bar n).gen)).march (Path.passesBar n) := by
  have hbar := State.follows_onBar h.group h.team n (NamedBar.counts c g.gidx)
  obtain ⟨u, y, hy, hyb, hua⟩ := State.markArrival_follows (hbar.nodup h.nodup) hbar.group hbar.team n (x.bar n).gen
  rw [State.countArrival_eq h]
  refine ⟨u, y, hbar.trans hy, ?_, hua⟩
  rw [← Team.bar_mapIdx h.len (NamedBar.counts c g.gidx)]
  unfold Team.bar
  rw [hyb]

/-- The bar of a number is one of the team's, or has never been used. -/
theorem Team.held_bar {x : Team} (h : ∀ b ∈ x.bars, b.held = []) (n : Nat) : (x.bar n).held = [] := by
  unfold Team.bar
  by_cases hn : n < x.bars.length
  · rw [List.getD_eq_getElem _ _ hn]
    exact h _ (List.getElem_mem hn)
  · rw [List.getD_eq_default _ _ (Nat.not_lt.mp hn)]

theorem State.settleBar_completes {s : State} {team n k : Nat} {x : Team} (hx : s.team? team = some x) (hk : x.st ≠ .killed) (harr : 0 < (x.bar n).arr)
    (he : (x.bar n).expected n (s.liveGroups team).length ≤ (x.bar n).arr) :
    s.settleBar team n (k + 1) = (s.completeBar team n (x.bar n)).settleBar team n k := by
  rw [State.settleBar, hx]
  dsimp only
  rw [if_neg hk, if_pos (by simp [harr, he])]

theorem State.settleBar_rests {s : State} {team n k : Nat} {x : Team} (hx : s.team? team = some x) (harr : (x.bar n).arr = 0)
    (hheld : (x.bar n).held = []) : s.settleBar team n (k + 1) = s := by
  rw [State.settleBar, hx]
  dsimp only
  split
  · rfl
  · rw [if_neg (by simp [harr]), hheld]
    rfl

/-- A group with an advanced path, or with none in its slots, is not parked for good. -/
theorem State.barDeadlock_none {s : State} {u : Group} (hu : u ∈ s.liveGroups u.team) (h : ∀ e ∈ u.arch.paths, e.2.park = none) :
    s.barDeadlock u.team = none := by
  unfold State.barDeadlock
  dsimp only
  refine if_neg ?_
  intro hall
  have hstuck := List.all_eq_true.mp (Bool.and_eq_true_iff.mp hall).2 u hu
  simp only [Bool.and_eq_true, bne_iff_ne, ne_eq] at hstuck
  obtain ⟨⟨hne, hall⟩, -⟩ := hstuck
  obtain ⟨e, l, he⟩ := List.exists_cons_of_ne_nil hne
  have hpark := h e (by rw [he]; exact List.mem_cons_self)
  rw [he, List.all_cons, hpark] at hall
  simp at hall

/-- A group's arrival completes its generation. -/
theorem State.arriveNamed_completes {s : State} {g : Group} {x : Team} {n c : Nat} (h : s.Comes g x n c) (hlive : g.exited = false) : ∃ u y,
    Follows s (s.arriveNamed g n c) g u x y ∧ y.bar n = ⟨(x.bar n).gen + 1, 0, c, [], []⟩ ∧
      (∀ e ∈ g.arch.paths, u.arch.path e.1 = some (e.2.advance 1)) ∧ u.arch.waits = g.arch.waits.map (·.advance 1) := by
  have hheld := Team.held_bar h.held n
  obtain ⟨v, z, hz, hzb, hva⟩ := State.countArrival_follows h
  have hlen : n < z.bars.length := hz.bars ▸ h.len
  obtain ⟨u, y, hy, hyb, hua⟩ := State.completeBar_follows (hz.nodup h.nodup) (hz.marched.id ▸ hz.group) (hz.marched.team ▸ hz.team) hlen (z.bar n)
  rw [hz.marched.team] at hy
  have hfollow := hz.trans hy
  have hst : z.st ≠ .killed := by
    have := h.arrives
    unfold Team.arrives at this
    simp only [Bool.and_eq_true, beq_iff_eq] at this
    rw [hz.st, this.1.1]
    decide
  have hsettle : (s.countArrival g n c).settleBar g.team n (s.barSteps g.team) = (s.countArrival g n c).completeBar g.team n (z.bar n) := by
    unfold State.barSteps
    rw [State.settleBar_completes hz.team hst (by rw [hzb]; exact Nat.succ_pos _) ?_]
    · rw [State.settleBar_rests hfollow.team (by rw [hyb]; rfl) (by rw [hyb, hzb]; exact hheld)]
    · rw [hz.live, hzb]
      exact h.enough
  have hpaths : ∀ p ∈ g.arch.paths.map (·.2) ++ g.arch.waits,
      Path.marches (Path.holdsBar n (z.bar n).gen) (Path.marches (Path.passesBar n) (p.marksArrival n (x.bar n).gen)) = p.advance 1 := fun p hp => by
    rw [hzb]
    exact Path.goes_through (h.comes p hp) (x.bar n).gen
  have hslots : ∀ e ∈ g.arch.paths, u.arch.path e.1 = some (e.2.advance 1) := fun e he => by
    rw [hua, hva, Arch.march_path, Arch.march_path, Arch.path_onPaths, Arch.mem_paths.mp he, Option.map_some, Option.map_some, Option.map_some]
    exact congrArg some (hpaths e.2 (List.mem_append_left _ (List.mem_map_of_mem he)))
  have hback : ∀ slot q, u.arch.path slot = some q → q.park = none := fun slot q hq => by
    cases hp : g.arch.path slot with
    | none =>
      rw [hua, hva, Arch.march_path, Arch.march_path, Arch.path_onPaths, hp] at hq
      cases hq
    | some p =>
      have := hslots (slot, p) (Arch.mem_paths.mpr hp)
      cases this.symm.trans hq
      rfl
  have hdead : ((s.countArrival g n c).completeBar g.team n (z.bar n)).barDeadlock g.team = none := by
    have hmem : u ∈ ((s.countArrival g n c).completeBar g.team n (z.bar n)).liveGroups u.team :=
      List.mem_filter.mpr ⟨List.mem_filter.mpr ⟨List.mem_of_find?_eq_some hfollow.group, by simp⟩, by rw [hfollow.marched.exited, hlive]; rfl⟩
    have hnone := State.barDeadlock_none hmem fun e he => hback e.1 e.2 (Arch.mem_paths.mp he)
    rwa [hfollow.marched.team] at hnone
  have hrun : s.arriveNamed g n c = (s.countArrival g n c).completeBar g.team n (z.bar n) := by
    unfold State.arriveNamed
    rw [h.team]
    dsimp only
    rw [if_neg (by rw [h.who]; decide), hsettle, hdead]
  rw [hrun]
  refine ⟨u, y, hfollow, ?_, hslots, ?_⟩
  · rw [hyb, hzb]
    unfold NamedBar.opens NamedBar.counts
    rw [hheld]
  · rw [hua, hva, Arch.waits_march, Arch.waits_march, Arch.waits_onPaths, List.map_map, List.map_map]
    exact List.map_congr_left fun p hp => hpaths p (List.mem_append_right _ hp)

theorem Group.comes_of_arrivesAt {g : Group} {k : BarKind} {n c : Nat} {o : Bool} (h : g.arrivesAt = some (k, n, c, o)) :
    ∀ p ∈ g.arch.paths.map (·.2) ++ g.arch.waits, p.barKey = some (k, n, c, o) := by
  unfold Group.arrivesAt at h
  dsimp only at h
  split at h
  · cases h
  · next p l hl =>
    split at h
    · next hall =>
      simp only [Bool.and_eq_true] at hall
      intro q hq
      have hq := List.all_eq_true.mp hall.1.1 q hq
      simp only [Bool.and_eq_true, beq_iff_eq] at hq
      rw [hq.2, h]
    · cases h

/-- A path of a group that comes to a named barrier. -/
theorem Path.comes_of_barKey {p : Path} {n c : Nat} {o : Bool} (h : p.barKey = some (.named, n, c, o)) (ha : p.arrived = false) : p.comes n c := by
  unfold Path.barKey Park.barKey at h
  unfold Path.arrived at ha
  cases hp : p.park with
  | none => rw [hp] at h; cases h
  | some q =>
    rw [hp] at h ha
    cases q with
    | bar k m d hold a gen =>
      simp only [Option.bind_some, Option.some.injEq, Prod.mk.injEq] at h
      obtain ⟨rfl, rfl, rfl, -⟩ := h
      obtain rfl : a = false := ha
      exact ⟨hold, gen, hp⟩
    | _ => cases h

theorem groupBarrierArrival_named (grp : Nat) : Steps (.groupBarrierArrival grp)
    (fun s => ∃ g tm n c o, s.group? grp = some g ∧ s.team? g.team = some tm ∧ tm.arrives = true ∧ g.exited = false ∧
      g.arrivesAt = some (.named, n, c, o) ∧ n < tm.bars.length ∧ (∀ b ∈ tm.bars, b.held = []) ∧
      (s.groups.map (·.id)).Nodup ∧ (∀ e ∈ g.arch.paths, e.2.arrived = false) ∧ (∀ p ∈ g.arch.waits, p.arrived = false) ∧ (tm.bar n).who.contains g.gidx = false ∧ c ≤ (s.liveGroups g.team).length ∧
      ((tm.bar n).arr = 0 ∨ c = (tm.bar n).count) ∧
      (if n = 0 then (s.liveGroups g.team).length else c) ≤ (tm.bar n).arr + 1)
    fun s t => ∃ g tm n c o u, s.group? grp = some g ∧ s.team? g.team = some tm ∧ g.arrivesAt = some (.named, n, c, o) ∧
      t.group? grp = some u ∧ (t.team? g.team).map (fun x => x.bar n) = some ⟨(tm.bar n).gen + 1, 0, c, [], []⟩ ∧
      (∀ e ∈ g.arch.paths, u.arch.path e.1 = some (e.2.advance 1)) ∧ u.arch.waits = g.arch.waits.map (·.advance 1) ∧ t.mem = s.mem := by
  rintro s ⟨g, tm, n, c, o, hg, htm, harr, hlive, hat, hlen, hheld, hn, hpaths, hwaits, hwho, hfits, hcount, henough⟩
  have hid : g.id = grp := by simpa using List.find?_some hg
  have hkeys := Group.comes_of_arrivesAt hat
  have hcomes : ∀ p ∈ g.arch.paths.map (·.2) ++ g.arch.waits, p.comes n c := fun p hp => by
    refine Path.comes_of_barKey (hkeys p hp) ?_
    obtain hp | hp := List.mem_append.mp hp
    · obtain ⟨e, he, rfl⟩ := List.mem_map.mp hp
      exact hpaths e he
    · exact hwaits p hp
  obtain ⟨u, y, hy, hbar, hslots, hstack⟩ := State.arriveNamed_completes (x := tm) ⟨hid ▸ hg, htm, hn, hlen, hheld, harr, hwho, hfits, hcount, hcomes, henough⟩ hlive
  refine ⟨s.arriveNamed g n c, ?_, g, tm, n, c, o, u, hg, htm, hat, hid ▸ hy.group, by rw [hy.team, Option.map_some, hbar], hslots, hstack, hy.mem⟩
  change execGroupBarrierArrival grp s = _
  unfold execGroupBarrierArrival
  rw [hg]
  dsimp only
  rw [hat]
  dsimp only
  have hnone : (tm.bars.any fun b => b.held.any fun e => e.1 == g.gidx) = false := by
    rw [List.any_eq_false]
    intro b hb
    rw [hheld b hb]
    simp
  rw [if_neg (by simp [htm, harr, hnone]), if_pos rfl]

theorem groupBarrierArrival_slot (grp : Nat) : Steps (.groupBarrierArrival grp)
    (fun s => ∃ g tm k n c o, s.group? grp = some g ∧ s.team? g.team = some tm ∧ tm.arrives = true ∧ k ≠ .named ∧
      g.arrivesAt = some (k, n, c, o))
    fun s t => GroupTurns s t grp fun g => { g with arch := g.arch.onPaths fun p =>
      match p.park with
      | some (.bar k n c hold false m) => if k = .named then p else { p with park := some (.bar k n c hold true m) }
      | _ => p } := by
  rintro s ⟨g, tm, k, n, c, o, hg, htm, harr, hk, hat⟩
  refine ⟨s.markSlotArrival grp, ?_, rfl, ?_⟩
  · change execGroupBarrierArrival grp s = _
    unfold execGroupBarrierArrival
    rw [hg]
    dsimp only
    rw [hat]
    dsimp only
    rw [if_neg (by simp [htm, harr, hk]), if_neg hk]
  · exact mapIf_eq_ite s.groups Group.id grp _

/-! ### Arrivals at a slot (R301-R303) -/

theorem BarSlot.gen_cluster (b : BarSlot) (n : Nat) : (b.gen n).cluster = n := by
  unfold BarSlot.gen
  cases h : b.gens.find? (·.cluster == n) with
  | none => rfl
  | some x => simpa using List.find?_some h

theorem BarSlot.gen_setGen (b : BarSlot) {x : SlotGen} {n : Nat} (h : x.cluster = n) : (b.setGen x).gen n = x := by
  subst h
  unfold BarSlot.gen BarSlot.setGen
  dsimp only
  rw [List.find?_append, List.find?_eq_none.mpr, Option.none_or]
  · simp
  · intro y hy
    simpa using (List.mem_filter.mp hy).2

theorem SlotGen.arrive_eq (x : SlotGen) (e : Nat) :
    x.arrive e = { x with arr := x.arr + 1, st := if e ≤ x.arr + 1 then .releasing else .filling } := by
  unfold SlotGen.arrive
  dsimp only
  split <;> rfl

theorem State.slot?_id {s : State} {n : Nat} {b : BarSlot} (h : s.slot? n = some b) : b.id = n := by simpa using List.find?_some h

theorem State.slot?_onSlot {s : State} {n : Nat} {b : BarSlot} (h : s.slot? n = some b) {f : BarSlot → BarSlot} (hf : ∀ x, (f x).id = x.id) :
    (s.onSlot n f).slot? n = some (f b) := by
  unfold State.slot? at h ⊢
  unfold State.onSlot mapIf
  dsimp only
  rw [find?_map_key _ _ _ fun x => by split <;> simp [hf], h, Option.map_some, if_pos (List.find?_some h)]

/-- A slot with counts of its clusters at a place. -/
def BarSlot.counted (e : Nat × Bool × Nat) (b : BarSlot) : BarSlot := { b with counts := some e }

theorem State.placeCounts_leaves {s : State} {b : BarSlot} {n : Nat} (h : s.slot? n = some b) (g : Grid) (k : BarKind) :
    (∃ c, (s.placeCounts g b k).slot? n = some c ∧ c.gens = b.gens) ∧ { s.placeCounts g b k with slots := s.slots, ctxs := s.ctxs } = s := by
  unfold State.placeCounts
  dsimp only
  split
  · split
    · next m a _ =>
      refine ⟨⟨b.counted (((List.range 4).find? fun d => g.dies.getLsbD d).getD 0, m, a), ?_, rfl⟩, rfl⟩
      rw [State.slot?_id h]
      exact State.slot?_onSlot h (f := BarSlot.counted _) fun _ => rfl
    · exact ⟨⟨b, h, rfl⟩, rfl⟩
  · exact ⟨⟨b, h, rfl⟩, rfl⟩

/-- A slot with a generation of a kind. -/
def BarSlot.takes (k : BarKind) (y : SlotGen) (b : BarSlot) : BarSlot := { b.setGen y with kind := some k }

theorem BarSlot.gen_takes (b : BarSlot) (k : BarKind) {y : SlotGen} {n : Nat} (h : y.cluster = n) : (b.takes k y).gen n = y :=
  b.gen_setGen h

/-- What an arrival that comes first to its generation leaves in its slot. -/
theorem State.arriveSlot_leaves {s : State} {t : Team} {g : Grid} {b : BarSlot} {id n : Nat} {k : BarKind} (hb : s.slot? id = some b)
    (hgen : (b.gen (clusterKey k t)).g = t.arrivedAt n) :
    (∃ c, (s.arriveSlot t g b k n).slot? id = some c ∧ c.kind = some k ∧
      c.gen (clusterKey k t) = (b.gen (clusterKey k t)).arrive (s.slotExpected g k t)) ∧ (s.arriveSlot t g b k n).mem = s.mem := by
  obtain ⟨⟨c, hc, hgens⟩, hrest⟩ := State.placeCounts_leaves hb g k
  have hexp : (s.placeCounts g b k).slotExpected g k t = s.slotExpected g k t := (congrArg (fun x : State => x.slotExpected g k t) hrest :)
  have hcount : (s.placeCounts g b k).countInSlot t g b k (t.arrivedAt n) =
      (s.placeCounts g b k).onSlot id (BarSlot.takes k ((b.gen (clusterKey k t)).arrive (s.slotExpected g k t))) := by
    unfold State.countInSlot
    dsimp only
    rw [if_neg (by omega), if_pos hgen.symm, hexp, State.slot?_id hb]
    rfl
  have hkey : ((b.gen (clusterKey k t)).arrive (s.slotExpected g k t)).cluster = clusterKey k t := by
    rw [SlotGen.arrive_eq]
    exact b.gen_cluster _
  have hslots : (s.arriveSlot t g b k n).slots = ((s.placeCounts g b k).countInSlot t g b k (t.arrivedAt n)).slots :=
    (State.marches_retireWhere _ t.id _).slots
  have hmem : (s.arriveSlot t g b k n).mem = ((s.placeCounts g b k).countInSlot t g b k (t.arrivedAt n)).mem :=
    (State.marches_retireWhere _ t.id _).mem
  refine ⟨⟨c.takes k ((b.gen (clusterKey k t)).arrive (s.slotExpected g k t)), ?_, rfl, c.gen_takes k hkey⟩, ?_⟩
  · have hslot := State.slot?_onSlot hc (f := BarSlot.takes k ((b.gen (clusterKey k t)).arrive (s.slotExpected g k t))) fun _ => rfl
    rw [← hcount] at hslot
    unfold State.slot? at hslot ⊢
    rw [hslots]
    exact hslot
  · rw [hmem, hcount]
    exact (congrArg State.mem hrest :)

theorem teamSlotArrival_steps (team : Nat) : Steps (.teamSlotArrival team)
    (fun s => ∃ tm k n hold g id b, s.team? team = some tm ∧ tm.arrives = true ∧ s.teamAtSlot team = some (k, n, hold) ∧
      s.grid? tm.grid = some g ∧ g.slots[n]? = some id ∧ s.slot? id = some b ∧ (b.gen (clusterKey k tm)).g = tm.arrivedAt n ∧
      (b.kind = none ∨ b.kind = some k) ∧ (hold && g.desc.carries) = false)
    fun s t => ∃ tm k n hold g id b c, s.team? team = some tm ∧ s.teamAtSlot team = some (k, n, hold) ∧ s.grid? tm.grid = some g ∧
      g.slots[n]? = some id ∧ s.slot? id = some b ∧ t.slot? id = some c ∧ c.kind = some k ∧
      let x := b.gen (clusterKey k tm)
      let e := if k = .cluster then s.clusterExpected g tm.cluster else g.expected
      c.gen (clusterKey k tm) = { x with arr := x.arr + 1, st := if e ≤ x.arr + 1 then .releasing else .filling } ∧ t.mem = s.mem := by
  rintro s ⟨tm, k, n, hold, g, id, b, htm, harr, hat, hg, hid, hb, hgen, hkind, hcarry⟩
  obtain ⟨⟨c, hc, hck, hcg⟩, hmem⟩ := State.arriveSlot_leaves (g := g) hb hgen
  have htid : tm.id = team := by simpa using List.find?_some htm
  have hother : b.kind.any (· != k) = false := by
    obtain h | h := hkind <;> rw [h]
    · rfl
    · simp
  refine ⟨s.arriveSlot tm g b k n, ?_, tm, k, n, hold, g, id, b, c, htm, hat, hg, hid, hb, hc, hck, ?_, hmem⟩
  · have hdue : s.slotDue tm = true := by
      unfold State.slotDue
      rw [htid, hat, hg]
      dsimp only
      rw [hid]
      simp [harr, hcarry, hb, hother, hgen]
    change execTeamSlotArrival team s = _
    unfold execTeamSlotArrival
    rw [htm]
    dsimp only
    rw [hat, hg]
    dsimp only
    rw [hid, Option.bind_some, hb]
    dsimp only
    rw [hdue, if_neg (by decide), hother, if_neg (by decide), hcarry, if_neg (by decide)]
  · rw [hcg, SlotGen.arrive_eq]
    rfl

/-! ### A slot's release (R303, R304, R306) -/

/-- A path that waits behind a slot for a generation. -/
def Path.behindSlot (q : Path) : Bool := match q.park with | some (.bar k _ _ _ true m) => k != .named && m != 0 | _ => false

/-- What a waiting team's turn in a release leaves. -/
structure Hands (s u : State) (t : Team) : Prop where
  slots : u.slots = s.slots
  low : ∀ k, k < physKey 4 0 → u.byte k = s.byte k
  nodup : (s.groups.map (·.id)).Nodup → (u.groups.map (·.id)).Nodup
  teams : ∀ n m, s.team? n = some m → ∃ m', u.team? n = some m' ∧ m'.st = m.st ∧
    (n ≠ t.id → m'.slotWait = m.slotWait ∧ m'.record = m.record) ∧
    (n = t.id → m'.slotWait = none ∧ m'.record = if t.st = .bivouac then m.record.map (fun r => (r.1, true)) else m.record)
  dies : ∀ d' ∈ u.dies, ∃ d ∈ s.dies, d'.n = d.n ∧ (∀ x ∈ d.absent, x ∈ d'.absent) ∧ (t.st = .bivouac → d.n = t.die → t.id ∈ d'.absent)
  groups : (s.groups.map (·.id)).Nodup → ∀ n v, s.group? n = some v → ∃ v', u.group? n = some v' ∧ v'.team = v.team ∧
    ∀ slot, v'.arch.path slot = (v.arch.path slot).map (if v.team = t.id then Path.marches Path.behindSlot else id)

/-- A team whose record is handed on. -/
def Team.handed (u : Team) : Team := { u with record := u.record.map fun r => (r.1, true) }

/-- A team that waits no longer. -/
def Team.unwaits (holds : Bool) (u : Team) : Team := { u with slotWait := none, ret := if holds then 0 else u.ret }

/-- A die with one more absent team. -/
def Die.queues (n : Nat) (d : Die) : Die := { d with absent := d.absent ++ [n] }

theorem State.handRecord_eq (s : State) (t : Team) : s.handRecord t =
    if t.st = .bivouac then (s.onTeam t.id Team.handed).onDie t.die (Die.queues t.id) else s := rfl

theorem State.team?_onTeam_self {s : State} {n : Nat} {x : Team} (h : s.team? n = some x) {f : Team → Team} (hf : ∀ x, (f x).id = x.id) :
    (s.onTeam n f).team? n = some (f x) := by
  rw [s.team?_onTeam n hf, h, Option.map_some, if_pos (List.find?_some h)]

theorem State.team?_onTeam_other {s : State} {n m : Nat} {x : Team} (h : s.team? n = some x) (hn : n ≠ m) {f : Team → Team} (hf : ∀ x, (f x).id = x.id) :
    (s.onTeam m f).team? n = some x := by
  have hid : x.id = n := by simpa using List.find?_some h
  rw [s.team?_onTeam m hf, h, Option.map_some, if_neg (by simpa [hid] using hn)]

/-- The paths behind a slot go on. -/
theorem State.passSlot_groups {s : State} (hn : (s.groups.map (·.id)).Nodup) (team n : Nat) {v : Group} (hv : s.group? n = some v) :
    ∃ v', (s.passSlot team fun _ m => m != 0).group? n = some v' ∧ v'.team = v.team ∧
      ∀ slot, v'.arch.path slot = (v.arch.path slot).map (if v.team = team then Path.marches Path.behindSlot else id) := by
  by_cases ht : v.team = team
  · subst ht
    obtain ⟨u, hu, hua, hum⟩ := State.turns_retireWhere hn hv (p := fun _ => Path.behindSlot) fun _ _ _ => rfl
    refine ⟨u, hu, hum.team, fun slot => ?_⟩
    rw [hua, Arch.march_path, if_pos rfl]
  · obtain ⟨u, hu, hua, hum⟩ := State.turns_retireWhere_other hn hv ht fun _ => Path.behindSlot
    refine ⟨u, hu, hum.team, fun slot => ?_⟩
    rw [hua, if_neg ht, Option.map_id]
    rfl

/-- A team without its blocks and its barriers' counts. -/
def Team.cleared (d : KDesc) (u : Team) : Team :=
  { u with pools := [0, 0, 0, 0], takers := [], bars := List.replicate d.bars ⟨0, 0, 0, [], []⟩ }

/-- Team memory cleared, or registers: the paths and the package's memories stay. -/
theorem State.carryOver_leaves (s : State) (t : Team) (d : KDesc) : (s.carryOver t d).slots = s.slots ∧ (s.carryOver t d).dies = s.dies ∧
    (∀ k, k < physKey 4 0 → (s.carryOver t d).byte k = s.byte k) ∧
    (s.carryOver t d).groups = s.groups.map (fun g => if g.team == t.id && !g.exited then g.carryOver d else g) ∧
    (s.carryOver t d).teams = mapIf s.teams (·.id == t.id) (Team.cleared d) := by
  refine ⟨rfl, rfl, fun k hk => ?_, rfl, rfl⟩
  have hlow : ∀ off, k < teamKey t.id off := fun off => lt_of_lt_of_le hk (by
    unfold teamKey physKey
    omega)
  change Sparse.look (Sparse.clear (Sparse.clear s.mem (teamKey t.id 0) d.cwoff) (teamKey t.id (d.cwoff + d.cwlen)) (2 ^ 21 - (d.cwoff + d.cwlen))) k = _
  rw [Sparse.look_clear, if_neg (fun h => absurd h.1 (Nat.not_le.mpr (hlow _))), Sparse.look_clear,
    if_neg (fun h => absurd h.1 (Nat.not_le.mpr (hlow _)))]
  rfl

theorem Group.carryOver_path (g : Group) (d : KDesc) (slot : Bool) : (g.carryOver d).arch.path slot = g.arch.path slot := by
  cases slot <;> rfl

theorem Hands.carryOver {s w : State} {t : Team} (h : Hands s w t) (d : KDesc) : Hands s (w.carryOver t d) t := by
  obtain ⟨hslots, hdies, hlow, hgroups, hteams⟩ := w.carryOver_leaves t d
  have hkey : ∀ g : Group, (if g.team == t.id && !g.exited then g.carryOver d else g).id = g.id := fun g => by split <;> rfl
  have htid : ∀ u : Team, (if u.id == t.id then u.cleared d else u).id = u.id := fun u => by split <;> rfl
  refine ⟨hslots.trans h.slots, fun k hk => (hlow k hk).trans (h.low k hk), fun hn => ?_, fun n m hm => ?_, fun d' hd' => h.dies d' (hdies ▸ hd'),
    fun hn n v hv => ?_⟩
  · rw [hgroups, List.map_map]
    exact (List.map_congr_left (g := fun g : Group => g.id) fun g _ => hkey g) ▸ h.nodup hn
  · obtain ⟨x, hx, hst, hother, hself⟩ := h.teams n m hm
    refine ⟨if x.id == t.id then x.cleared d else x, ?_, ?_⟩
    · unfold State.team? at hx ⊢
      rw [hteams, mapIf, find?_map_key _ _ _ fun u => by rw [htid], hx]
      rfl
    · split <;> exact ⟨hst, hother, hself⟩
  · obtain ⟨x, hx, hteam, hpath⟩ := h.groups hn n v hv
    refine ⟨if x.team == t.id && !x.exited then x.carryOver d else x, ?_, ?_, fun slot => ?_⟩
    · unfold State.group? at hx ⊢
      rw [hgroups, find?_map_key _ _ _ fun g => by rw [hkey], hx]
      rfl
    · split <;> exact hteam
    · split
      · rw [Group.carryOver_path]
        exact hpath slot
      · exact hpath slot

/-- A team's record handed on, and the team READY. -/
theorem State.hands_passed (s : State) (t : Team) (holds : Bool) :
    Hands s (((s.handRecord t).onTeam t.id (Team.unwaits holds)).passSlot t.id fun _ m => m != 0) t := by
  have hmarch := State.marches_retireWhere ((s.handRecord t).onTeam t.id (Team.unwaits holds)) t.id fun _ => Path.behindSlot
  change Marches _ (((s.handRecord t).onTeam t.id (Team.unwaits holds)).passSlot t.id fun _ m => m != 0) at hmarch
  have hgroups : ((s.handRecord t).onTeam t.id (Team.unwaits holds)).groups = s.groups := by
    rw [State.handRecord_eq]
    split <;> rfl
  have hbyte : ((s.handRecord t).onTeam t.id (Team.unwaits holds)).mem = s.mem := by
    rw [State.handRecord_eq]
    split <;> rfl
  have hslots : ((s.handRecord t).onTeam t.id (Team.unwaits holds)).slots = s.slots := by
    rw [State.handRecord_eq]
    split <;> rfl
  have hdies : (((s.handRecord t).onTeam t.id (Team.unwaits holds)).passSlot t.id fun _ m => m != 0).dies = (s.handRecord t).dies :=
    (congrArg State.dies hmarch.rest :)
  refine ⟨hmarch.slots.trans hslots, fun k _ => ?_, fun hn => hmarch.nodup (by rwa [hgroups]), fun n m hm => ?_, fun d' hd' => ?_, fun hn n v hv => ?_⟩
  · unfold State.byte
    rw [hmarch.mem, hbyte]
  · by_cases hnt : n = t.id
    · subst hnt
      have hx : ∃ x, (s.handRecord t).team? t.id = some x ∧ x.st = m.st ∧
          x.record = if t.st = .bivouac then m.record.map (fun r => (r.1, true)) else m.record := by
        rw [State.handRecord_eq]
        split
        · exact ⟨m.handed, State.team?_onTeam_self hm (f := Team.handed) fun _ => rfl, rfl, rfl⟩
        · exact ⟨m, hm, rfl, rfl⟩
      obtain ⟨x, hx, hst, hrec⟩ := hx
      obtain ⟨y, hy, hyx⟩ := hmarch.team? (State.team?_onTeam_self hx (f := Team.unwaits holds) fun _ => rfl)
      exact ⟨y, hy, (congrArg Team.st hyx :).trans hst, fun h => absurd rfl h, fun _ => ⟨(congrArg Team.slotWait hyx :), (congrArg Team.record hyx :).trans hrec⟩⟩
    · have hx : (s.handRecord t).team? n = some m := by
        rw [State.handRecord_eq]
        split
        · exact State.team?_onTeam_other hm hnt (f := Team.handed) fun _ => rfl
        · exact hm
      obtain ⟨y, hy, hyx⟩ := hmarch.team? (State.team?_onTeam_other hx hnt (f := Team.unwaits holds) fun _ => rfl)
      exact ⟨y, hy, (congrArg Team.st hyx :), fun _ => ⟨(congrArg Team.slotWait hyx :), (congrArg Team.record hyx :)⟩, fun h => absurd h hnt⟩
  · rw [hdies, State.handRecord_eq] at hd'
    split at hd'
    · obtain ⟨d, hd, rfl⟩ := List.mem_map.mp hd'
      refine ⟨d, hd, ?_⟩
      split
      · exact ⟨rfl, fun x hx => List.mem_append_left _ hx, fun _ _ => List.mem_append_right _ List.mem_cons_self⟩
      · next hne => exact ⟨rfl, fun x hx => hx, fun _ hn => absurd hn (by simpa using hne)⟩
    · next hst => exact ⟨d', hd', rfl, fun x hx => hx, fun h => absurd h hst⟩
  · exact State.passSlot_groups (by rwa [hgroups]) t.id n (by unfold State.group? at hv ⊢; rwa [hgroups])

theorem State.hands_turn (s : State) (t : Team) : Hands s ((s.handRecord t).releaseTeam t) t := by
  have hpass := s.hands_passed t ((s.handRecord t).holdsAt t.id)
  unfold State.releaseTeam
  dsimp only
  split
  · split
    · exact hpass.carryOver _
    · exact hpass
  · exact hpass

/-! ### A team through a release -/

theorem find?_unique {α : Type} {l : List α} {k : α → Nat} (hn : (l.map k).Nodup) {x : α} (hx : x ∈ l) : l.find? (k · == k x) = some x := by
  induction l with
  | nil => cases hx
  | cons y l ih =>
    obtain ⟨hy, hn⟩ := List.nodup_cons.mp hn
    obtain rfl | hx := List.mem_cons.mp hx
    · exact List.find?_cons_of_pos (by simp)
    · rw [List.find?_cons_of_neg]
      · exact ih hn hx
      · exact fun he => hy (List.mem_map.mpr ⟨x, hx, (by simpa using he : k y = k x).symm⟩)

/-- How far a team has come in a release: `done` once it has been its turn. -/
structure Progress (s u : State) (tm : Team) (done : Prop) : Prop where
  slots : u.slots = s.slots
  low : ∀ k, k < physKey 4 0 → u.byte k = s.byte k
  nodup : (u.groups.map (·.id)).Nodup
  team : ∃ m, u.team? tm.id = some m ∧ m.st = tm.st ∧ (m.record.map (·.1) = tm.record.map (·.1)) ∧
    (done → m.slotWait = none ∧ (tm.st = .bivouac → m.record = tm.record.map fun r => (r.1, true)))
  dies : done → tm.st = .bivouac → ∀ d ∈ u.dies, d.n = tm.die → tm.id ∈ d.absent
  groups : ∀ q ∈ s.groups, q.team = tm.id → ∃ v, u.group? q.id = some v ∧ v.team = tm.id ∧ ∀ e ∈ q.arch.paths, e.2.behindSlot = true →
    v.arch.path e.1 = some (e.2.advance 1) ∨ ¬done ∧ v.arch.path e.1 = some e.2

theorem Progress.start {s : State} (hn : (s.groups.map (·.id)).Nodup) {tm : Team} (ht : s.team? tm.id = some tm) : Progress s s tm False := by
  refine ⟨rfl, fun _ _ => rfl, hn, ⟨tm, ht, rfl, rfl, False.elim⟩, False.elim, fun q hq hteam => ⟨q, ?_, hteam, fun e he _ => .inr ⟨id, Arch.mem_paths.mp he⟩⟩⟩
  exact find?_unique hn hq

theorem Path.behindSlot_advance (p : Path) : (p.advance 1).behindSlot = false := rfl

theorem Progress.turn {s u w : State} {tm t : Team} {done : Prop} (h : Progress s u tm done) (k : Hands u w t) (ht : t.id = tm.id → t = tm) :
    Progress s w tm (done ∨ t.id = tm.id) := by
  refine ⟨k.slots.trans h.slots, fun q hq => (k.low q hq).trans (h.low q hq), k.nodup h.nodup, ?_, fun hd hst d hdm hdn => ?_, fun q hq hteam => ?_⟩
  · obtain ⟨m, hm, hst, hrec, hdone⟩ := h.team
    obtain ⟨x, hx, hxst, hother, hself⟩ := k.teams tm.id m hm
    refine ⟨x, hx, hxst.trans hst, ?_, fun hd => ?_⟩
    · by_cases hid : tm.id = t.id
      · rw [(hself hid).2]
        split
        · rw [← hrec, Option.map_map]
          rfl
        · exact hrec
      · rw [(hother hid).2]
        exact hrec
    · by_cases hid : tm.id = t.id
      · refine ⟨(hself hid).1, fun hb => ?_⟩
        rw [(hself hid).2, ht hid.symm, if_pos hb]
        have h2 := congrArg (Option.map fun a => (a, true)) hrec
        rw [Option.map_map, Option.map_map] at h2
        exact h2
      · have hd := hd.resolve_right fun h => hid h.symm
        rw [(hother hid).1, (hother hid).2]
        exact hdone hd
  · obtain ⟨d0, hd0, hn, hkeep, hput⟩ := k.dies d hdm
    obtain hd | hid := hd
    · exact hkeep _ (h.dies hd hst d0 hd0 (hn.symm.trans hdn))
    · have := ht hid
      subst this
      exact hput hst (hn.symm.trans hdn)
  · obtain ⟨v, hv, hvt, hpath⟩ := h.groups q hq hteam
    obtain ⟨x, hx, hxt, hxp⟩ := k.groups h.nodup q.id v hv
    refine ⟨x, hx, hxt.trans hvt, fun e he hb => ?_⟩
    rw [hxp]
    obtain hp | ⟨hnd, hp⟩ := hpath e he hb
    · refine .inl ?_
      rw [hp, Option.map_some]
      split
      · exact congrArg some (if_neg (by rw [Path.behindSlot_advance]; decide))
      · rfl
    · rw [hp, Option.map_some]
      by_cases hid : t.id = tm.id
      · rw [if_pos (hvt.trans hid.symm)]
        exact .inl (congrArg some (if_pos hb))
      · rw [if_neg fun h => hid (h.symm.trans hvt)]
        exact .inr ⟨not_or.mpr ⟨hnd, hid⟩, rfl⟩

theorem Progress.turns {s u : State} {tm : Team} {done : Prop} (h : Progress s u tm done) (l : List Team) (hl : ∀ t ∈ l, t.id = tm.id → t = tm) :
    Progress s (l.foldl (fun (st : State) t => (st.handRecord t).releaseTeam t) u) tm (done ∨ tm ∈ l) := by
  induction l generalizing u done with
  | nil => simpa using h
  | cons t l ih =>
    have hstep := ih (h.turn (u.hands_turn t) (hl t List.mem_cons_self)) fun x hx => hl x (List.mem_cons_of_mem t hx)
    rw [List.foldl_cons]
    have he : (done ∨ tm ∈ t :: l) = ((done ∨ t.id = tm.id) ∨ tm ∈ l) := by
      rw [List.mem_cons, or_assoc]
      refine propext (or_congr Iff.rfl (or_congr ⟨fun e => by rw [e], fun e => (hl t List.mem_cons_self e).symm⟩ Iff.rfl))
    rw [he]
    exact hstep

/-- No team has left a die's queue. -/
def KeepsAbsent (s u : State) : Prop := ∀ d' ∈ u.dies, ∃ d ∈ s.dies, d'.n = d.n ∧ ∀ x ∈ d.absent, x ∈ d'.absent

theorem State.keepsAbsent_wakeTeam (s : State) (team : Nat) : KeepsAbsent s (s.wakeTeam team) := by
  intro d' hd'
  obtain ⟨d, hd, rfl⟩ := List.mem_map.mp hd'
  refine ⟨d, hd, rfl, fun x hx => ?_⟩
  dsimp only
  split
  · by_cases hu : (s.unit team).contains x = true
    · exact List.mem_append_left _ (List.mem_filter.mpr ⟨hx, hu⟩)
    · exact List.mem_append_right _ (List.mem_filter.mpr ⟨hx, by simpa using hu⟩)
  · exact hx

theorem State.keepsAbsent_fireWake (s : State) (hit : WakeOn → Bool) : KeepsAbsent s (s.fireWake hit) := by
  have hrefl : ∀ w : State, KeepsAbsent w w := fun w d hd => ⟨d, hd, rfl, fun _ hx => hx⟩
  unfold State.fireWake
  dsimp only
  split
  · exact hrefl s
  · clear * - hrefl
    generalize wokenBy s hit = l
    induction l generalizing s with
    | nil => exact hrefl s
    | cons n l ih =>
      intro d' hd'
      obtain ⟨d, hd, hn, hx⟩ := ih (s.wakeTeam n) d' hd'
      obtain ⟨d0, hd0, hn0, hx0⟩ := s.keepsAbsent_wakeTeam n d hd
      exact ⟨d0, hd0, hn.trans hn0, fun x h => hx x (hx0 x h)⟩

/-- Wakes change no record, no wait, and no membership of a die's queue. -/
theorem Progress.wakes {s u : State} {tm : Team} {done : Prop} (h : Progress s u tm done) (hit : WakeOn → Bool) :
    Progress s (u.fireWake hit) tm done := by
  have hw := u.wakens_fireWake hit
  have hgroups : (u.fireWake hit).groups = u.groups := (congrArg State.groups hw.rest :)
  refine ⟨(congrArg State.slots hw.rest :).trans h.slots, fun k hk => ?_, by rw [hgroups]; exact h.nodup, ?_, fun hd hst d hdm hdn => ?_, fun q hq hteam => ?_⟩
  · exact (congrArg (fun x : State => x.byte k) hw.rest :).trans (h.low k hk)
  · obtain ⟨m, hm, hst, hrec, hdone⟩ := h.team
    obtain ⟨F, hF, hR⟩ := hw.teams
    refine ⟨F m, ?_, (congrArg Team.st (hR m) :).trans hst, (congrArg (fun x : Team => x.record.map (·.1)) (hR m) :).trans hrec, fun hd => ?_⟩
    · unfold State.team? at hm ⊢
      rw [hF, find?_map_key _ _ F fun x => by rw [show (F x).id = x.id from (congrArg Team.id (hR x) :)], hm]
      rfl
    · have hslot : (F m).slotWait = m.slotWait := (congrArg Team.slotWait (hR m) :)
      have hrec' : (F m).record = m.record := (congrArg Team.record (hR m) :)
      rw [hslot, hrec']
      exact hdone hd
  · obtain ⟨d0, hd0, hn, hkeep⟩ := u.keepsAbsent_fireWake hit d hdm
    exact hkeep _ (h.dies hd hst d0 hd0 (hn.symm.trans hdn))
  · obtain ⟨v, hv, hrest⟩ := h.groups q hq hteam
    exact ⟨v, by rw [State.group?_congr hgroups]; exact hv, hrest⟩

/-! ### The step -/

/-- The teams that wait for a generation of a slot, those with records first, oldest first. -/
def State.released (s : State) (b : BarSlot) (slot cluster gen : Nat) : List Team :=
  (b.records.filterMap s.team?).filter (fun t => t.waitsAt slot cluster gen) ++
    (s.teams.filter fun t => t.waitsAt slot cluster gen).filter fun t => !b.records.contains t.id

theorem State.mem_released {s : State} (hn : (s.teams.map (·.id)).Nodup) (b : BarSlot) (slot cluster gen : Nat) {tm : Team} :
    tm ∈ s.released b slot cluster gen ↔ tm ∈ s.teams ∧ tm.waitsAt slot cluster gen = true := by
  unfold State.released
  simp only [List.mem_append, List.mem_filter, List.mem_filterMap]
  constructor
  · rintro (⟨⟨n, -, hx⟩, hw⟩ | ⟨⟨hm, hw⟩, -⟩)
    · exact ⟨List.mem_of_find?_eq_some hx, hw⟩
    · exact ⟨hm, hw⟩
  · rintro ⟨hm, hw⟩
    by_cases hr : tm.id ∈ b.records
    · exact .inl ⟨⟨tm.id, hr, find?_unique hn hm⟩, hw⟩
    · exact .inr ⟨⟨hm, hw⟩, by simpa using hr⟩

/-- A slot behind the generation that has been released. -/
def BarSlot.behind (ts : List Team) (x : SlotGen) (c : BarSlot) : BarSlot :=
  { c with records := c.records.filter fun id => !(ts.any fun t => t.id == id) }.setGen x

theorem SlotGen.check_of_armed {e : Nat} {x : SlotGen} (h : x.st = .armed) : (SlotGen.check e x).cluster = x.cluster ∧ (SlotGen.check e x).g = x.g ∧
    (SlotGen.check e x).arr = x.arr ∧ (SlotGen.check e x).next = x.next ∧
    ((SlotGen.check e x).st = .armed ∨ (SlotGen.check e x).st = .releasing ∧ 0 < x.arr) := by
  unfold SlotGen.check
  split
  · next hc =>
    simp only [Bool.and_eq_true, decide_eq_true_eq] at hc
    exact ⟨rfl, rfl, rfl, rfl, .inr ⟨rfl, hc.2⟩⟩
  · exact ⟨rfl, rfl, rfl, rfl, .inl h⟩

/-- The machine as a generation's release leaves it, but for the slot. -/
def State.releasing (s : State) (ts : List Team) (slot cluster gen : Nat) : State :=
  (ts.foldl (fun (st : State) t => (st.handRecord t).releaseTeam t) s).fireWake fun w =>
    match w with | .slotGen a c n => a == slot && c == cluster && n == gen | _ => false

theorem State.releasing_leaves (s : State) (ts : List Team) (slot cluster gen : Nat) : (s.releasing ts slot cluster gen).slots = s.slots ∧
    ∀ k, k < physKey 4 0 → (s.releasing ts slot cluster gen).byte k = s.byte k := by
  have hfold : ∀ (l : List Team) (u : State), (l.foldl (fun (st : State) t => (st.handRecord t).releaseTeam t) u).slots = u.slots ∧
      ∀ k, k < physKey 4 0 → (l.foldl (fun (st : State) t => (st.handRecord t).releaseTeam t) u).byte k = u.byte k := by
    intro l
    induction l with
    | nil => exact fun u => ⟨rfl, fun _ _ => rfl⟩
    | cons t l ih =>
      intro u
      have hturn := u.hands_turn t
      obtain ⟨hs, hl⟩ := ih ((u.handRecord t).releaseTeam t)
      exact ⟨hs.trans hturn.slots, fun k hk => (hl k hk).trans (hturn.low k hk)⟩
  obtain ⟨hs, hl⟩ := hfold ts s
  have hw := (State.wakens_fireWake (ts.foldl (fun (st : State) t => (st.handRecord t).releaseTeam t) s) fun w =>
    match w with | .slotGen a c n => a == slot && c == cluster && n == gen | _ => false).rest
  exact ⟨(congrArg State.slots hw :).trans hs, fun k hk => (congrArg (fun x : State => x.byte k) hw :).trans (hl k hk)⟩

theorem slotRelease_steps (slot cluster : Nat) : Steps (.slotRelease slot cluster)
    (fun s => ∃ b g, s.idsUnique ∧ s.slot? slot = some b ∧ s.grid? b.grid = some g ∧ (b.gen cluster).st = .releasing ∧
      ∀ tm ∈ s.teams, tm.waitsAt slot cluster (b.gen cluster).g = true → tm.bivouacking = false)
    fun s t => ∃ b g c, s.slot? slot = some b ∧ s.grid? b.grid = some g ∧ t.slot? slot = some c ∧
      let x := b.gen cluster
      (c.gen cluster).g = x.g + 1 ∧ (c.gen cluster).arr = x.next ∧ (c.gen cluster).next = 0 ∧
      ((c.gen cluster).st = .armed ∨ (c.gen cluster).st = .releasing ∧ 0 < x.next) ∧
      c.records = b.records.filter (fun id => !(s.teams.any fun tm => tm.waitsAt slot cluster x.g && tm.id == id)) ∧
      (∀ k, k < physKey 4 0 → t.byte k = s.byte k) ∧
      ∀ tm ∈ s.teams, tm.waitsAt slot cluster x.g = true → ∃ m, t.team? tm.id = some m ∧ m.st = tm.st ∧ m.slotWait = none ∧
        (tm.st = .bivouac → m.record = tm.record.map (fun r => (r.1, true)) ∧ ∀ d ∈ t.dies, d.n = tm.die → tm.id ∈ d.absent) ∧
        ∀ q ∈ s.groups, q.team = tm.id → ∃ v, t.group? q.id = some v ∧ ∀ e ∈ q.arch.paths, ∀ k n o h gen,
          e.2.park = some (.bar k n o h true gen) → k ≠ .named → gen ≠ 0 → v.arch.path e.1 = some (e.2.advance 1) := by
  rintro s ⟨b, g, hids, hb, hg, hst, hbiv⟩
  obtain ⟨hgn, -, htn, -⟩ := hids
  have hmem : ∀ tm, tm ∈ s.released b slot cluster (b.gen cluster).g ↔ tm ∈ s.teams ∧ tm.waitsAt slot cluster (b.gen cluster).g = true := fun tm =>
    State.mem_released htn b slot cluster _
  have hprog : ∀ tm ∈ s.teams, Progress s (s.releasing (s.released b slot cluster (b.gen cluster).g) slot cluster (b.gen cluster).g) tm
      (False ∨ tm ∈ s.released b slot cluster (b.gen cluster).g) := fun tm htm =>
    ((Progress.start hgn (find?_unique htn htm)).turns (s.released b slot cluster (b.gen cluster).g) fun t ht hid =>
      List.inj_on_of_nodup_map htn ((hmem t).mp ht).1 htm hid).wakes _
  obtain ⟨hslots, hlow⟩ := s.releasing_leaves (s.released b slot cluster (b.gen cluster).g) slot cluster (b.gen cluster).g
  have hrun : ∃ e, exec (.slotRelease slot cluster) s = .next ((s.releasing (s.released b slot cluster (b.gen cluster).g) slot cluster (b.gen cluster).g).onSlot slot
      (BarSlot.behind (s.released b slot cluster (b.gen cluster).g)
        (SlotGen.check e { b.gen cluster with st := .armed, g := (b.gen cluster).g + 1, arr := (b.gen cluster).next, next := 0 }))) := by
    have hnone : ((s.released b slot cluster (b.gen cluster).g).any fun t => t.bivouacking) = false := by
      rw [List.any_eq_false]
      intro t ht
      obtain ⟨htm, hw⟩ := (hmem t).mp ht
      rw [hbiv t htm hw]
      decide
    refine ⟨if b.kind = some .cluster then
      (s.releasing (s.released b slot cluster (b.gen cluster).g) slot cluster (b.gen cluster).g).clusterExpected g cluster else g.expected, ?_⟩
    change execSlotRelease slot cluster s = _
    unfold execSlotRelease
    rw [hb]
    dsimp only
    rw [hg]
    dsimp only
    refine if_neg ?_
    change ¬(((b.gen cluster).st != .releasing || (s.released b slot cluster (b.gen cluster).g).any fun t => t.bivouacking) = true)
    rw [hst, hnone]
    decide
  obtain ⟨e, hrun⟩ := hrun
  obtain ⟨hcl, hcg, harr, hnext, hcst⟩ := SlotGen.check_of_armed (e := e)
    (x := { b.gen cluster with st := .armed, g := (b.gen cluster).g + 1, arr := (b.gen cluster).next, next := 0 }) rfl
  have hslot : (s.releasing (s.released b slot cluster (b.gen cluster).g) slot cluster (b.gen cluster).g).slot? slot = some b := by
    unfold State.slot?
    rw [hslots]
    exact hb
  refine ⟨_, hrun, b, g, _, hb, hg, State.slot?_onSlot hslot (f := BarSlot.behind _ _) fun _ => rfl, ?_⟩
  have hgen := BarSlot.gen_setGen { b with records := b.records.filter fun id => !((s.released b slot cluster (b.gen cluster).g).any fun t => t.id == id) }
    (hcl.trans (b.gen_cluster cluster))
  dsimp only
  unfold BarSlot.behind
  rw [hgen]
  refine ⟨hcg, harr, hnext, hcst, ?_, hlow, fun tm htm hw => ?_⟩
  · refine List.filter_congr fun n hn => congrArg not ?_
    rw [Bool.eq_iff_iff, List.any_eq_true, List.any_eq_true]
    constructor
    · rintro ⟨t, ht, hid⟩
      obtain ⟨htm, hw⟩ := (hmem t).mp ht
      exact ⟨t, htm, by rw [hw, hid]; rfl⟩
    · rintro ⟨t, htm, hw⟩
      obtain ⟨hw, hid⟩ := Bool.and_eq_true_iff.mp hw
      exact ⟨t, (hmem t).mpr ⟨htm, hw⟩, hid⟩
  · have hp := hprog tm htm
    have hdone : False ∨ tm ∈ s.released b slot cluster (b.gen cluster).g := .inr ((hmem tm).mpr ⟨htm, hw⟩)
    obtain ⟨m, hm, hmst, -, hrest⟩ := hp.team
    obtain ⟨hwait, hrec⟩ := hrest hdone
    refine ⟨m, hm, hmst, hwait, fun hb => ⟨hrec hb, hp.dies hdone hb⟩, fun q hq hteam => ?_⟩
    obtain ⟨v, hv, -, hpath⟩ := hp.groups q hq hteam
    refine ⟨v, hv, fun e he k n o h gen hpark hk hgen => ?_⟩
    refine (hpath e he ?_).resolve_right fun h => h.1 hdone
    unfold Path.behindSlot
    rw [hpark]
    simp [hk, hgen]

/-- Settles O28, by the paths that go on, and by the turns of the teams in a release. -/
theorem barrierSteps : Obligations.BarrierSteps :=
  ⟨groupBarrierArrival_named, groupBarrierArrival_slot, teamSlotArrival_steps, slotRelease_steps⟩

end Sys2Proof.Machine
end

section
/-!
SUPPORT. Memory that lists a byte twice (R121).
-/
namespace Sys2Proof.Machine

/-! ### Memory that lists a byte twice -/

/-- A new team about to be placed on core 1 of die 0, whose team memory's first byte memory lists twice. -/
def listedTwice : State :=
  let s := Sys2Proof.Tests.crew (.cairn 0) id [Sys2Proof.Tests.team1 id] [1] fun d => { d with tmem := 4096 }
  { s with mem := s.mem ++ [(coreKey 0 1 0, 1), (coreKey 0 1 0, 2)] }

/-- A team of the state that an outcome gives. -/
def teamAfter (o : Host.Outcome State Fault Refusal) (n : Nat) : Option Team := match o with | .next t => t.team? n | _ => none

/-- The new team's seat; what its first byte reads as, before and once it is placed; and that the placement is due. -/
theorem listedTwice_facts : (listedTwice.nextUnit 0 1).map (·.2.1) = some [(1, 1, [0], 0)] ∧
    byteAfter (exec (.teamPlace 0 1) listedTwice) (teamKey 1 0) = 2 ∧ listedTwice.byte (coreKey 0 1 0 + 0) = 1 ∧
    (teamAfter (exec (.teamPlace 0 1) listedTwice) 1).map (·.tmem) = some 4096 ∧
    (∃ h : (listedTwice.nextUnit 0 1).isSome = true, ((listedTwice.nextUnit 0 1).get h).1 = [1]) ∧
    alone .unplaced ([1].filterMap listedTwice.team?) = true ∧ listedTwice.idsUnique ∧ listedTwice.recordWaits 1 = false ∧
    listedTwice.recordLoss 1 = none ∧ ∀ m ∈ listedTwice.absentOf [1], listedTwice.returnHeld m = false ∧ listedTwice.returnFault m = none := by
  unfold State.idsUnique
  decide +kernel

/-- Refutes O31: the bytes of a core's range are handed on entry by entry, and the last entry of a byte stands; a read takes the first. Where
memory lists a byte twice, as the canonical form rules out and the statement does not, the new team finds another value there. -/
theorem not_placements : ¬ Obligations.Placements := by
  intro claim
  obtain ⟨hseats, hbyte, hlisted, hteam, ⟨hsome, hunit⟩, halone, hready⟩ := listedTwice_facts
  obtain ⟨t, hrun, u, seats, b, hnext, -, hbytes⟩ := claim.1 0 1 listedTwice ⟨[1], _, _, Sys2Proof.Tests.unit_of [1] hsome hunit, halone, hready⟩
  rw [hrun] at hteam hbyte
  obtain ⟨tm, htm, hlen⟩ := Option.map_eq_some_iff.mp hteam
  rw [hnext] at hseats
  obtain rfl : seats = [(1, 1, [0], 0)] := Option.some.inj hseats
  have hfirst := hbytes 1 1 [0] 0 tm rfl htm 0 (by rw [hlen]; decide)
  have hsame : (2 : Byte) = 1 := (hbyte.symm.trans hfirst).trans hlisted
  exact absurd hsame (by decide)

end Sys2Proof.Machine
end

section
/-!
SUPPORT. Areas written page by page; bivouac records, save images and the ends of teams (R304-R306, R318, R323, R330, R331).
-/
namespace Sys2Proof.Machine

/-! ### Memory written page by page (R304, R331) -/

theorem putAt_nil (m : Nat → Byte) (ks : List Nat) : putAt m ks [] = m := by cases ks <;> rfl

/-- Keys beyond the bytes take none. -/
theorem putAt_take (m : Nat → Byte) (ks : List Nat) (bs : List Byte) : putAt m (ks.take bs.length) bs = putAt m ks bs := by
  induction bs generalizing m ks with
  | nil => rw [putAt_nil, putAt_nil]
  | cons b bs ih =>
    cases ks with
    | nil => rfl
    | cons k ks => exact ih _ ks

theorem putAt_append_keys (m : Nat → Byte) (ks ks' : List Nat) (bs : List Byte) :
    putAt m (ks ++ ks') bs = putAt (putAt m ks (bs.take ks.length)) ks' (bs.drop ks.length) := by
  induction ks generalizing m bs with
  | nil => rfl
  | cons k ks ih =>
    cases bs with
    | nil => simp [putAt_nil]
    | cons b bs => exact ih _ bs

/-- Pieces of which each begins where the one before it ends; the first begins `off` bytes behind `base`. -/
def Joined (base off : Nat) : List (Nat × Nat) → Prop
  | [] => True
  | p :: r => p.1 = base + off ∧ Joined base (off + p.2) r

theorem joined_map_range' {base : Nat} (f : Nat → Nat × Nat) (i k off : Nat) (h0 : k = 0 ∨ (f i).1 = base + off)
    (h : ∀ j, i ≤ j → j + 1 < i + k → (f j).1 + (f j).2 = (f (j + 1)).1) : Joined base off ((List.range' i k).map f) := by
  induction k generalizing i off with
  | zero => trivial
  | succ k ih =>
    have hi : (f i).1 = base + off := h0.resolve_left (Nat.succ_ne_zero k)
    refine ⟨hi, ih (i + 1) _ ?_ fun j hj hk => h j (by omega) (by omega)⟩
    obtain rfl | hk := Nat.eq_zero_or_pos k
    · exact .inl rfl
    · right
      rw [← h i le_rfl (by omega), hi, Nat.add_assoc]

theorem joined_pagePieces (a n : Nat) : Joined a 0 (pagePieces a n) := by
  unfold pagePieces
  rw [List.range_eq_range']
  refine joined_map_range' _ 0 _ 0 (.inr (by simp)) fun j _ hj => ?_
  simp only [Nat.succ_ne_zero, if_false]
  split <;> omega

/-- An area that is written whole: the bytes are at the places of its pages. -/
theorem State.stores_writeArea (w : Walker) (bs : List Byte) (base : Nat) (l : List (Nat × Nat)) (off : Nat) (s : State)
    (hl : Joined base off l) (h : (s.writeArea w bs base l).2.2 = none) :
    Stores s (s.writeArea w bs base l).1 (putAt s.byte (keysOf (s.pageRuns w bs base l)) (bs.drop off)) := by
  induction l generalizing off s with
  | nil => exact Stores.refl s
  | cons p r ih =>
    obtain ⟨a, n⟩ := p
    obtain ⟨ha, hr⟩ := hl
    obtain rfl : a = base + off := ha
    unfold State.writeArea at h ⊢
    unfold State.pageRuns
    cases hx : s.access w .write (base + off) n with
    | error f => rw [hx] at h; contradiction
    | ok x =>
      rw [hx] at h
      dsimp only at h ⊢
      split at h
      · contradiction
      next hm =>
      rw [if_neg hm]
      have hdrop : base + off - base = off := Nat.add_sub_cancel_left ..
      rw [hdrop] at h ⊢
      refine ((s.stores_store x.1 ((bs.drop off).take n)).trans (ih (off + n) _ hr h)).congr fun k => congrFun ?_ k
      have hkeys : keysOf ((x.1, n) :: State.pageRuns (s.store x.1 ((bs.drop off).take n)) w bs base r) =
          ((List.range n).map fun j => x.1 + j) ++ keysOf (State.pageRuns (s.store x.1 ((bs.drop off).take n)) w bs base r) := rfl
      have hfirst : (s.store x.1 ((bs.drop off).take n)).byte = putAt s.byte ((List.range n).map fun j => x.1 + j) ((bs.drop off).take n) := by
        rw [s.byte_store, ← putAt_take s.byte ((List.range n).map fun j => x.1 + j), ← List.map_take, List.take_range, List.length_take,
          Nat.min_eq_left (Nat.min_le_left ..)]
      rw [hkeys, putAt_append_keys, List.length_map, List.length_range, List.drop_drop, hfirst]

/-! ### Team memory that stays behind (R121) -/

theorem look_copyBytesTo_below {m : List Host.Cell} {k j n q : Nat} (h : q < j) : Sparse.look (copyBytesTo m k j n) q = Sparse.look m q := by
  have hfold : ∀ (l t : List Host.Cell), Sparse.look (l.foldl (fun (t : List Host.Cell) e => Sparse.put t (j + (e.1 - k)) e.2) t) q = Sparse.look t q := by
    intro l
    induction l with
    | nil => exact fun _ => rfl
    | cons e l ih => exact fun t => (ih _).trans (Sparse.look_put_other t e.2 (by omega))
  unfold copyBytesTo
  rw [hfold, Sparse.look_clear, if_neg (by omega)]

/-- A team that leaves its core changes only the core's memory, beyond the package's memories. -/
theorem State.leaveRange_leaves (s : State) (t : Team) : (∀ k, k < physKey 4 0 → (s.leaveRange t).byte k = s.byte k) ∧
    { s.leaveRange t with mem := s.mem, lost := s.lost } = s := by
  unfold State.leaveRange
  split
  · refine ⟨fun k hk => look_copyBytesTo_below (hk.trans_le ?_), rfl⟩
    unfold coreKey physKey
    omega
  · exact ⟨fun _ _ => rfl, rfl⟩

/-- A context that is not being switched out: only its state may change as a team leaves. -/
theorem State.settleCtx_of {s : State} {ctx : Nat} (h : ∀ c, s.ctx? ctx = some c → c.switching = false) :
    { s.settleCtx ctx with ctxs := s.ctxs } = s := by
  unfold State.settleCtx
  split
  · rfl
  · next c hc =>
    rw [h c hc, if_neg (by decide)]
    split
    · split
      · rfl
      · split <;> rfl
    · split
      · rfl
      · split <;> rfl
    · rfl

/-! ### What a write leaves of teams and groups -/

theorem find?_map_congr {α β : Type} {l m : List α} {q : α → β} (h : m.map q = l.map q) (key : α → Nat) (k : β → Nat) (hk : ∀ x, key x = k (q x)) (n : Nat) :
    (m.find? fun x => key x == n).map q = (l.find? fun x => key x == n).map q := by
  have hp : (fun x => key x == n) = (fun y => k y == n) ∘ q := by
    funext x
    simp [hk x]
  rw [hp, ← List.find?_map, ← List.find?_map, h]

theorem Stores.team? {s t : State} {m : Nat → Byte} (h : Stores s t m) {n : Nat} {x : Team} (hx : s.team? n = some x) :
    ∃ y, t.team? n = some y ∧ y.still = x.still := by
  have hmap : (t.team? n).map Team.still = (s.team? n).map Team.still := find?_map_congr h.teams (·.id) (·.id) (fun _ => rfl) n
  rw [hx] at hmap
  exact Option.map_eq_some_iff.mp hmap

theorem Stores.group? {s t : State} {m : Nat → Byte} (h : Stores s t m) {n : Nat} {v g : Group} (hv : t.group? n = some v) (hg : s.group? n = some g) :
    v.quiet = g.quiet := by
  have hmap : (t.group? n).map Group.quiet = (s.group? n).map Group.quiet := find?_map_congr h.groups (·.id) (·.id) (fun _ => rfl) n
  rw [hv, hg] at hmap
  exact Option.some.inj hmap

/-! ### A team in BIVOUAC (R302, R304) -/

/-- A team whose record is written. -/
def Team.camps (cost : Nat) (u : Team) : Team :=
  { u with st := .bivouac, cost := cost, bivouacking := false, leaving := .stay, recDone := 0, record := u.recordAt.map fun a => (a.2.2, false) }

/-- A team without a place for its image. -/
def Team.imageless (u : Team) : Team := { u with image := none }

/-- A context that keeps no image at a place. -/
def Ctx.withoutSave (die a : Nat) (c : Ctx) : Ctx := { c with saves := c.saves.filter fun e => !(e.1 == die && e.2.1 == a) }

/-- A slot with one more record. -/
def BarSlot.withRecord (n : Nat) (b : BarSlot) : BarSlot := { b with records := b.records ++ [n] }

theorem State.toBivouac_eq (s : State) (t : Team) (d : KDesc) (slot : Nat) : s.toBivouac t d slot =
    ((((s.leaveRange t).carryOver t d).onTeam t.id (Team.camps (s.costOf t))).onSlot slot (BarSlot.withRecord t.id)).unreserve t := rfl

/-- Contexts changed one by one: those that are switched out are the same. -/
theorem State.switching_onCtx (s : State) (ctx : Nat) {f : Ctx → Ctx} (hid : ∀ c, (f c).id = c.id) (hf : ∀ c, (f c).switching = c.switching) (n : Nat) :
    ((s.onCtx ctx f).ctx? n).map (·.switching) = (s.ctx? n).map (·.switching) := by
  unfold State.ctx? State.onCtx mapIf
  dsimp only
  rw [find?_map_key _ _ _ fun c => by split <;> simp [hid], Option.map_map]
  refine congrArg (fun g => Option.map g _) (funext fun c => ?_)
  dsimp only [Function.comp_apply]
  split
  · exact hf c
  · rfl

theorem State.unreserve_leaves {s : State} {t x : Team} (hx : s.team? t.id = some x) (hi : x.image = t.image) :
    (s.unreserve t).team? t.id = some x.imageless ∧ (∀ n, ((s.unreserve t).ctx? n).map (·.switching) = (s.ctx? n).map (·.switching)) ∧
      { s.unreserve t with teams := s.teams, ctxs := s.ctxs } = s := by
  unfold State.unreserve
  cases he : t.image with
  | none =>
    have hnone : x.imageless = x := by
      rw [he] at hi
      unfold Team.imageless
      rw [← hi]
    exact ⟨by rw [hnone]; exact hx, fun _ => rfl, rfl⟩
  | some e =>
    obtain ⟨a, n⟩ := e
    refine ⟨State.team?_onTeam_self hx (f := Team.imageless) fun _ => rfl, fun n => ?_, rfl⟩
    exact (s.onTeam t.id Team.imageless).switching_onCtx _ (f := Ctx.withoutSave t.die a) (fun _ => rfl) (fun _ => rfl) n

theorem State.toBivouac_leaves {s : State} {t x : Team} (hx : s.team? t.id = some x) (hi : x.image = t.image) (d : KDesc) (slot : Nat) :
    (s.toBivouac t d slot).team? t.id = some ((x.cleared d).camps (s.costOf t)).imageless ∧
      (∀ b, s.slot? slot = some b → (s.toBivouac t d slot).slot? slot = some (b.withRecord t.id)) ∧
      (∀ k, k < physKey 4 0 → (s.toBivouac t d slot).byte k = s.byte k) ∧
      (s.toBivouac t d slot).groups = s.groups.map (fun g => if g.team == t.id && !g.exited then g.carryOver d else g) ∧
      ∀ n, ((s.toBivouac t d slot).ctx? n).map (·.switching) = (s.ctx? n).map (·.switching) := by
  obtain ⟨hlow, hrest⟩ := s.leaveRange_leaves t
  have hteams : (s.leaveRange t).teams = s.teams := (congrArg State.teams hrest :)
  have hslots : (s.leaveRange t).slots = s.slots := (congrArg State.slots hrest :)
  have hgroups : (s.leaveRange t).groups = s.groups := (congrArg State.groups hrest :)
  have hctxs : (s.leaveRange t).ctxs = s.ctxs := (congrArg State.ctxs hrest :)
  obtain ⟨hcslots, -, hclow, hcgroups, hcteams⟩ := (s.leaveRange t).carryOver_leaves t d
  rw [State.toBivouac_eq]
  have hcctxs : ((s.leaveRange t).carryOver t d).ctxs = (s.leaveRange t).ctxs := rfl
  generalize hv : s.leaveRange t = v at *
  generalize hc : v.carryOver t d = c at *
  have hcx : c.team? t.id = some (x.cleared d) := by
    have h := State.team?_mapIf (w := v) (z := c) (p := (·.id == t.id)) (n := t.id) (v := x) (by unfold State.team? at hx ⊢; rwa [hteams])
      (f := Team.cleared d) (fun _ => rfl) hcteams
    rwa [if_pos (List.find?_some hx)] at h
  obtain ⟨huteam, huctx, hurest⟩ := State.unreserve_leaves (s := (c.onTeam t.id (Team.camps (s.costOf t))).onSlot slot (BarSlot.withRecord t.id)) (t := t)
    (State.team?_onTeam_self hcx (f := Team.camps (s.costOf t)) fun _ => rfl) hi
  generalize State.unreserve _ t = u at *
  refine ⟨huteam, fun b hb => ?_, fun k hk => ?_, ?_, fun n => ?_⟩
  · have hcb : (c.onTeam t.id (Team.camps (s.costOf t))).slot? slot = some b := by
      change c.slots.find? _ = _
      rw [hcslots, hslots]
      exact hb
    have h := State.slot?_onSlot hcb (f := BarSlot.withRecord t.id) fun _ => rfl
    have hs : u.slots = _ := (congrArg State.slots hurest :)
    unfold State.slot? at h ⊢
    rwa [hs]
  · have hmem : u.mem = c.mem := (congrArg State.mem hurest :)
    calc u.byte k = c.byte k := congrArg (fun m => Sparse.look m k) hmem
      _ = v.byte k := hclow k hk
      _ = s.byte k := hlow k hk
  · have hg : u.groups = c.groups := (congrArg State.groups hurest :)
    rw [hg, hcgroups, hgroups]
  · rw [huctx n]
    change (c.ctxs.find? _).map _ = (s.ctxs.find? _).map _
    rw [hcctxs, hctxs]

/-- A group behind its barrier with a carry set. -/
theorem Group.carryOver_registers (g : Group) (d : KDesc) : (g.carryOver d).arch.p = [] ∧ (g.carryOver d).arch.blocks = d.regs ∧
    (∀ n, 16 ≤ n → (g.carryOver d).arch.getS n = 0) ∧ ∀ n l, l < 32 → d.carryv.getLsbD n = false → (g.carryOver d).arch.getV n l = 0 := by
  refine ⟨rfl, rfl, fun n hn => ?_, fun n l hl hd => ?_⟩
  · change Sparse.look (g.arch.s.filter fun e => e.1 < 16) n = 0
    rw [Sparse.look_filter g.arch.s (fun k => k < 16), if_neg (by simpa using hn)]
  · change Sparse.look (g.arch.v.filter fun e => d.carryv.getLsbD (e.1 / 32) && e.1 / 32 < 8 * g.arch.blocks) (32 * n + l) = 0
    rw [Sparse.look_filter g.arch.v (fun k => d.carryv.getLsbD (k / 32) && k / 32 < 8 * g.arch.blocks), if_neg]
    have hn : (32 * n + l) / 32 = n := by omega
    rw [hn, hd, Bool.false_and]
    decide

/-- A team with a place kept for its record. -/
def Team.keepsRecord (m : Bool) (a n link : Nat) (u : Team) : Team := { u with recordAt := some (m, a, n), recDone := 0, recLink := link }

/-- A context with a place of its pool taken. -/
def Ctx.withPool (e : Nat × Bool × Nat × Nat) (c : Ctx) : Ctx := { c with pools := c.pools ++ [e] }

theorem State.reserveRecord_eq (s : State) (t : Team) (ctx n : Nat) (m : Bool) (a : Nat) : s.reserveRecord t ctx n (m, a) =
    ((s.onTeam t.id (Team.keepsRecord m a n s.free)).onCtx ctx (Ctx.withPool (t.die, m, a, n))).draw := rfl

theorem State.reaches_reserveRecord (s : State) (t : Team) (ctx n : Nat) (p : Bool × Nat) : Reaches s (s.reserveRecord t ctx n p) :=
  let h := (s.onTeam t.id (Team.keepsRecord p.1 p.2 n s.free)).reaches_onCtx ctx (f := Ctx.withPool (t.die, p.1, p.2, n)) (fun _ => rfl) fun _ => rfl
  ⟨h.mem, h.lost, h.mstacks, h.tlb, h.ports, h.domid, h.expt, h.ctxs⟩

/-- What a written record leaves of a team that bivouacs: from `s`, where the record's place was found, to the state behind it. -/
theorem teamEnds_written {s w : State} {tm x : Team} {g : Grid} {slot : Nat} {m : Bool} {a n : Nat} {mem : Nat → Byte}
    (hx : s.team? tm.id = some x) (hst : Stores (s.reserveRecord tm g.ctx n (m, a)) w mem) (hi : x.image = tm.image)
    (hsw : ∀ c, s.ctx? g.ctx = some c → c.switching = false) (link : Nat) :
    let t := (w.toBivouac { tm with recLink := link, recDone := 0 } g.desc slot).settleCtx g.ctx
    ∃ u, t.team? tm.id = some u ∧ u.st = .bivouac ∧ u.leaving = .stay ∧ u.image = none ∧ u.recordAt = some (m, a, n) ∧ u.pools = [0, 0, 0, 0] ∧
      (∀ b, s.slot? slot = some b → (t.slot? slot).map (·.records) = some (b.records ++ [tm.id])) ∧ (∀ k, k < physKey 4 0 → t.byte k = mem k) ∧
      ∀ q ∈ t.groups, q.team = tm.id → q.exited = false →
        q.arch.p = [] ∧ q.arch.blocks = g.desc.regs ∧ (∀ n, 16 ≤ n → q.arch.getS n = 0) ∧
          ∀ n l, l < 32 → g.desc.carryv.getLsbD n = false → q.arch.getV n l = 0 := by
  have hkx : (s.reserveRecord tm g.ctx n (m, a)).team? tm.id = some (x.keepsRecord m a n s.free) :=
    State.team?_onTeam_self hx (f := Team.keepsRecord m a n s.free) fun _ => rfl
  obtain ⟨y, hy, hys⟩ := hst.team? hkx
  have hslots : w.slots = s.slots := (congrArg State.slots hst.rest :)
  have hctx : ∀ c, (w.ctx? c).map (·.switching) = (s.ctx? c).map (·.switching) := fun c =>
    (congrArg (fun z : State => (z.ctx? c).map (·.switching)) hst.rest :).trans
      ((s.onTeam tm.id (Team.keepsRecord m a n s.free)).switching_onCtx g.ctx (f := Ctx.withPool (tm.die, m, a, n)) (fun _ => rfl) (fun _ => rfl) c)
  obtain ⟨hteam, hslot, hlow, hgroups, hswitch⟩ := State.toBivouac_leaves (t := { tm with recLink := link, recDone := 0 }) hy
    ((congrArg Team.image hys :).trans hi) g.desc slot
  generalize State.toBivouac w _ g.desc slot = v at *
  have hrest := State.settleCtx_of (s := v) (ctx := g.ctx) fun c hc => by
    have h := (hswitch g.ctx).trans (hctx g.ctx)
    rw [hc] at h
    obtain ⟨d, hd, hdc⟩ := Option.map_eq_some_iff.mp h.symm
    exact hdc.symm.trans (hsw d hd)
  generalize v.settleCtx g.ctx = t at *
  have hteams : t.teams = v.teams := (congrArg State.teams hrest :)
  have hslots' : t.slots = v.slots := (congrArg State.slots hrest :)
  have hgroups' : t.groups = v.groups := (congrArg State.groups hrest :)
  have hmem : t.mem = v.mem := (congrArg State.mem hrest :)
  have hcamp : t.team? tm.id = _ := (congrArg (fun l : List Team => l.find? (·.id == tm.id)) hteams :).trans hteam
  refine ⟨_, hcamp, rfl, rfl, rfl, (congrArg Team.recordAt hys :), rfl, fun b hb => ?_, fun k hk => ?_, fun q hq hqt hqe => ?_⟩
  · have h := hslot b (by unfold State.slot? at hb ⊢; rwa [hslots])
    unfold State.slot? at h ⊢
    rw [hslots', h]
    rfl
  · calc t.byte k = v.byte k := congrArg (fun m => Sparse.look m k) hmem
      _ = w.byte k := hlow k hk
      _ = mem k := hst.bytes k
  · rw [hgroups', hgroups] at hq
    obtain ⟨p, -, rfl⟩ := List.mem_map.mp hq
    split at hqt
    · next h =>
      rw [if_pos h]
      exact p.carryOver_registers g.desc
    · next h =>
      rw [if_neg h] at hqe
      exact absurd (by simp [hqt, hqe]) h

/-- The record of a team is written whole, page by page in main memory, or in the die's scratchpad. -/
theorem State.writeRecordOf_of {s : State} {t : Team} {g : Grid} {slot gen a n : Nat} (m : Bool) {bs : List Byte}
    (hbs : s.recordBytes t g (((s.slot? slot).bind (·.kind)).getD .grid) ((g.slots.findIdx? (· == slot)).getD 0) gen = bs) (hdone : t.recDone = 0)
    (hscratch : m = false → s.mergesLost (scratchKey t.die (s.bpdoff g.ctx t.die + a)) bs.length = false)
    (hmain : m = true → (s.writeArea (dieWalker t.die g.ctx) bs (s.bpma g.ctx t.die + a) (pagePieces (s.bpma g.ctx t.die + a) bs.length)).2.2 = none) :
    ∃ w, s.writeRecordOf t g slot gen (m, a, n) = (w.toBivouac t g.desc slot).settleCtx g.ctx ∧
      Stores s w (putAt s.byte (if m then
          keysOf (s.pageRuns (dieWalker t.die g.ctx) bs (s.bpma g.ctx t.die + a) (pagePieces (s.bpma g.ctx t.die + a) bs.length))
        else (List.range bs.length).map fun j => scratchKey t.die (s.bpdoff g.ctx t.die + a) + j) bs) := by
  unfold State.writeRecordOf
  rw [hbs, hdone]
  cases m with
  | false =>
    refine ⟨s.store (scratchKey t.die (s.bpdoff g.ctx t.die + a)) bs, ?_, s.stores_store _ _⟩
    dsimp only
    rw [if_neg Bool.false_ne_true, if_neg (by rw [hscratch rfl]; decide)]
  | true =>
    have hnone := hmain rfl
    refine ⟨_, ?_, State.stores_writeArea _ bs _ _ 0 s (joined_pagePieces _ _) hnone⟩
    dsimp only
    rw [if_pos rfl, List.drop_zero, Nat.add_zero, Nat.sub_zero]
    generalize State.writeArea s _ bs _ _ = r at hnone ⊢
    obtain ⟨u, k, e⟩ := r
    cases e with
    | none => rfl
    | some e => contradiction

/-- A team whose bivouac finds a place for its record. -/
theorem execBivouac_of {s : State} {team : Nat} {tm : Team} {g : Grid} {w : Nat × Nat × Nat} {m : Bool} {a : Nat} (htm : s.team? team = some tm)
    (hg : s.grid? tm.grid = some g) (hw : tm.slotWait = some w) (hb : tm.bivouacking = true) (hf : tm.recFault = none) (hst : tm.st = .resident)
    (hat : tm.recordAt = none) (hp : s.poolPlace g.ctx tm.die (roundUp (recordLen g.desc (s.liveGroups team).length) 64) = some (m, a))
    (hh : s.recordHeld tm g.ctx (m, a, roundUp (recordLen g.desc (s.liveGroups team).length) 64) = false) :
    exec (.bivouac team) s = .next ((s.reserveRecord tm g.ctx (roundUp (recordLen g.desc (s.liveGroups team).length) 64) (m, a)).writeRecordOf
      { tm with recLink := s.free, recDone := 0 } g w.1 w.2.2 (m, a, roundUp (recordLen g.desc (s.liveGroups team).length) 64)) := by
  change execBivouac team s = _
  unfold execBivouac
  rw [htm]
  dsimp only
  rw [hg, hw]
  dsimp only
  rw [hat]
  dsimp only
  rw [hp]
  dsimp only
  rw [if_neg (by simp [hb, hf, hst]), hh, if_neg Bool.false_ne_true]

/-! ### Teams that end, and the classifier (R318, R323) -/

theorem State.team?_id {s : State} {n : Nat} {x : Team} (h : s.team? n = some x) : x.id = n := by simpa using List.find?_some h

/-- A team that ends: it is in its last state, and its groups are gone. -/
theorem State.endTeam_of {s : State} {team : Nat} {st : TeamState} {x : Team} (hx : s.team? team = some x) (hlive : ¬x.ended)
    (hst : st = .done ∨ st = .killed) :
    (∃ u, (s.endTeam team st).team? team = some u ∧ u.st = st) ∧ ∀ g ∈ (s.endTeam team st).groups, g.team ≠ team := by
  have hnot : ¬(decide (x.st = TeamState.done) || decide (x.st = TeamState.killed)) = true := by simpa [Team.ended] using hlive
  generalize he : s.endTeam team st = e
  unfold State.endTeam at he
  rw [hx] at he
  replace he := (if_neg hnot).symm.trans he
  extract_lets gs ids privs ctx w z at he
  subst he
  have hw : Winds False False s w := ((Winds.refl s).sameLists (u := s.withdrawGroups ids) rfl rfl rfl rfl rfl rfl).chargeTeam.leaveRange
  obtain ⟨v, hv, -⟩ := hw.teams team x hx
  have hz := State.team?_mapIf (z := z) hv (f := Team.ends st) (fun _ => rfl) rfl
  rw [if_pos (List.find?_some hv)] at hz
  have hend : Winds False False z ((z.releaseWindow x).recheckSlots x.grid) := (Winds.refl z).releaseWindow.recheckSlots
  constructor
  · obtain ⟨u, hu, hkeep⟩ := hend.teams team _ hz
    exact ⟨u, hu, hkeep hst⟩
  · intro g hg
    obtain ⟨h, hh, hhg⟩ := hend.groups g hg
    rw [← hhg]
    simpa using (List.mem_filter.mp hh).2

/-- A core's matrix unit that a team's end releases. -/
def Matrix.endsTeam (team : Nat) (gs : List Group) (m : Matrix) : Matrix :=
  { m with ropeq := m.ropeq.filter fun e => !(gs.any fun q => q.id == e.1), release := m.release || m.team == some team }

theorem teamEnds_done (team : Nat) : Steps (.teamDone team)
    (fun s => ∃ tm, s.team? team = some tm ∧ tm.st = .resident ∧ s.teamGroups team ≠ [] ∧ s.mxThreadsOf tm = [] ∧
      ∀ g ∈ s.teamGroups team, g.exited = true ∧ g.retired = true)
    fun _ t => ∃ u, t.team? team = some u ∧ u.st = .done ∧ ∀ g ∈ t.groups, g.team ≠ team := by
  rintro s ⟨tm, htm, hst, hgs, hmx, hex⟩
  have hrun : exec (.teamDone team) s = .next ((((s.onMx tm.die tm.site (Matrix.endsTeam team (s.teamGroups team))).onGrid tm.grid fun g => g.classify tm).endTeam team .done).settleCtx
        (((s.onMx tm.die tm.site (Matrix.endsTeam team (s.teamGroups team))).onGrid tm.grid fun g => g.classify tm).gridCtx tm.grid)) := by
    change execTeamDone team s = _
    unfold execTeamDone
    rw [htm]
    dsimp only
    have hall : (s.teamGroups team).all (fun g => g.exited && g.retired) = true :=
      List.all_eq_true.mpr fun g hg => by simp [hex g hg]
    exact if_neg (by simp [hst, hgs, hmx, hall])
  refine ⟨_, hrun, ?_⟩
  generalize hv : State.onGrid _ tm.grid _ = v
  have htmv : v.team? team = some tm := by 
    rw [← hv]
    have hteams : (s.onMx tm.die tm.site (Matrix.endsTeam team (s.teamGroups team))).teams = s.teams :=
      (congrArg State.teams (s.onMx_rest tm.die tm.site (Matrix.endsTeam team (s.teamGroups team))) :)
    exact (congrArg (fun l : List Team => l.find? (·.id == team)) hteams :).trans htm
  obtain ⟨⟨u, hu, hdone⟩, hgroups⟩ := State.endTeam_of htmv (st := .done) (by simp [Team.ended, hst]) (.inl rfl)
  have hsettle : Winds True True (v.endTeam team .done) ((v.endTeam team .done).settleCtx (v.gridCtx tm.grid)) := (Winds.refl _).settleCtx_any trivial
  obtain ⟨y, hy, hkeep⟩ := hsettle.teams team u hu
  refine ⟨y, hy, (hkeep (.inl hdone)).trans hdone, fun g hg => ?_⟩
  obtain ⟨h, hh, hhg⟩ := hsettle.groups g hg
  exact hhg ▸ hgroups h hh

theorem teamEnds_classifier (grid : Nat) : Steps (.classifierClose grid)
    (fun s => ∃ g, s.grid? grid = some g ∧ g.clsDone = false ∧ 0 < g.clsTeams ∧ (64 ≤ g.clsTeams ∨ g.total ≤ g.clsTeams ∨ g.total ≤ g.ended))
    fun s t => ∃ g, s.grid? grid = some g ∧
      t.grids = s.grids.map (fun h => if h.id = grid then { h with clsDone := true } else h) ∧
      t.fe.classes.head? = some (g.ctx, g.desc.addr,
        if 256 * max g.clsBytes 1 ≤ g.clsOps then .compute else if g.clsOps < 16 * max g.clsBytes 1 then .memory else .mixed) ∧
      t.fe.classes.length ≤ 1024 ∧ { t with grids := s.grids, fe := { t.fe with classes := s.fe.classes } } = s := by
  rintro s ⟨g, hg, hdone, hteams, hcount⟩
  have hrun : exec (.classifierClose grid) s = .next ((s.onGrid grid fun h => { h with clsDone := true }).onFe fun f =>
        { f with classes := ((g.ctx, g.desc.addr, intensityOf g.clsOps g.clsBytes) ::
            f.classes.filter fun e => !(e.1 == g.ctx && e.2.1 == g.desc.addr)).take 1024 }) := by
    change execClassifierClose grid s = _
    unfold execClassifierClose
    rw [hg]
    dsimp only
    rw [if_neg]
    rw [hdone]
    simp only [Bool.false_or, Bool.or_eq_true, Bool.and_eq_true, decide_eq_true_eq]
    omega
  refine ⟨_, hrun, g, hg, mapIf_eq_ite s.grids (·.id) grid _, rfl, ?_, rfl⟩
  exact List.length_take_le _ _

/-! ### A team that is saved (R330, R331) -/

/-- What stays as a team leaves its core: the groups, each team's state and the place of its image, the package's memories, and which contexts are
switched out. -/
structure Retains (s t : State) : Prop where
  teams : ∀ n x, s.team? n = some x → ∃ y, t.team? n = some y ∧ y.st = x.st ∧ y.image = x.image
  groups : t.groups = s.groups
  low : ∀ k, k < physKey 4 0 → t.byte k = s.byte k
  switching : ∀ n, (t.ctx? n).map (·.switching) = (s.ctx? n).map (·.switching)

/-- A team whose matrix state is saved. -/
def Team.savesMatrix (u : Team) : Team := { u with savedMatrix := true }

/-- A team that is woken. -/
def Team.wakes (u : Team) : Team := { u with woken := true, wakeSet := [] }

namespace Retains
variable {s t u : State}

theorem trans (h : Retains s t) (k : Retains t u) : Retains s u := by
  refine ⟨fun n x hx => ?_, k.groups.trans h.groups, fun q hq => (k.low q hq).trans (h.low q hq), fun n => (k.switching n).trans (h.switching n)⟩
  obtain ⟨y, hy, hst, him⟩ := h.teams n x hx
  obtain ⟨z, hz, hst', him'⟩ := k.teams n y hy
  exact ⟨z, hz, hst'.trans hst, him'.trans him⟩

theorem of_same (ht : t.teams = s.teams) (hg : t.groups = s.groups) (hl : ∀ k, k < physKey 4 0 → t.byte k = s.byte k) (hc : t.ctxs = s.ctxs) :
    Retains s t :=
  ⟨fun n x hx => ⟨x, (congrArg (fun l : List Team => l.find? (·.id == n)) ht :).trans hx, rfl, rfl⟩, hg, hl,
    fun n => congrArg (fun l : List Ctx => (l.find? (·.id == n)).map (·.switching)) hc⟩

theorem refl (s : State) : Retains s s := of_same rfl rfl (fun _ _ => rfl) rfl

theorem onTeam (s : State) (n : Nat) {f : Team → Team} (hid : ∀ x, (f x).id = x.id) (hst : ∀ x, (f x).st = x.st)
    (him : ∀ x, (f x).image = x.image) : Retains s (s.onTeam n f) := by
  refine ⟨fun n x hx => ⟨_, State.team?_mapIf hx hid rfl, ?_, ?_⟩, rfl, fun _ _ => rfl, fun _ => rfl⟩
  · split
    · exact hst x
    · rfl
  · split
    · exact him x
    · rfl

theorem onMx (s : State) (die site : Nat) (f : Matrix → Matrix) : Retains s (s.onMx die site f) :=
  let h := s.onMx_rest die site f
  of_same (congrArg State.teams h :) (congrArg State.groups h :) (fun k _ => (congrArg (fun z : State => z.byte k) h :)) (congrArg State.ctxs h :)

theorem leaveRange (s : State) (t : Team) : Retains s (s.leaveRange t) :=
  let h := s.leaveRange_leaves t
  of_same (congrArg State.teams h.2 :) (congrArg State.groups h.2 :) h.1 (congrArg State.ctxs h.2 :)

theorem unqueueTeam (s : State) (t : Team) : Retains s (s.unqueueTeam t) := by
  unfold State.unqueueTeam
  extract_lets ids
  have hw : Retains s (s.withdrawGroups ids) := of_same rfl rfl (fun _ _ => rfl) rfl
  exact hw.trans (onMx _ _ _ _)

theorem saveMatrix (s : State) (t : Team) : Retains s (s.saveMatrix t) := by
  unfold State.saveMatrix
  extract_lets m ids v
  split
  · have hs : Retains s { s with saved := s.saved ++ [v] } := of_same rfl rfl (fun _ _ => rfl) rfl
    exact (hs.trans (onMx _ _ _ _)).trans (onTeam _ _ (f := Team.savesMatrix) (fun _ => rfl) (fun _ => rfl) fun _ => rfl)
  · exact refl s

theorem wakeTeam (s : State) (team : Nat) : Retains s (s.wakeTeam team) :=
  (onTeam s team (f := Team.wakes) (fun _ => rfl) (fun _ => rfl) fun _ => rfl).trans (of_same rfl rfl (fun _ _ => rfl) rfl)

end Retains

/-- A team with its image at a place. -/
def Team.evicts (cost : Nat) (at_ : Nat × Nat) (woken : Bool) (ws : List WakeOn) (l : Leaving) (u : Team) : Team :=
  { u with st := .evicted, cost := cost, image := some at_, woken := woken, wakeSet := ws, leaving := l }

/-- A team that is EVICTED with its image at a place. -/
theorem State.toEvicted_leaves {s : State} {t x : Team} (hx : s.team? t.id = some x) (a n ctx : Nat) :
    (∃ u, (s.toEvicted t a n ctx).team? t.id = some u ∧ u.st = .evicted ∧ u.image = some (a, n)) ∧ (s.toEvicted t a n ctx).groups = s.groups ∧
      (∀ k, k < physKey 4 0 → (s.toEvicted t a n ctx).byte k = s.byte k) ∧
      ∀ m, ((s.toEvicted t a n ctx).ctx? m).map (·.switching) = (s.ctx? m).map (·.switching) := by
  unfold State.toEvicted
  extract_lets ws table atOnce woken v w z
  have hv : Retains s v := ((Retains.leaveRange s t).trans (.saveMatrix _ t)).trans (.unqueueTeam _ t)
  clear_value v atOnce woken ws table
  obtain ⟨y, hy, -⟩ := hv.teams _ x hx
  have hz : Retains z (if atOnce then z.wakeTeam t.id else z) := by
    split
    · exact .wakeTeam z t.id
    · exact .refl z
  have hzteam := State.team?_mapIf (z := z) hy
    (f := Team.evicts (v.costOf t) (a, n) woken (if woken then [] else ws) (if t.leaving = .preempt then .preempt else .stay)) (fun _ => rfl) rfl
  rw [if_pos (List.find?_some hy)] at hzteam
  obtain ⟨u, hu, hst, him⟩ := hz.teams _ _ hzteam
  refine ⟨⟨u, hu, hst, him⟩, hz.groups.trans hv.groups, fun k hk => (hz.low k hk).trans (hv.low k hk), fun m => ((hz.switching m).trans ?_).trans (hv.switching m)⟩
  exact (v.onTeam t.id fun u => _).switching_onCtx ctx (f := fun c =>
    { c with saves := if t.image.isSome then c.saves else c.saves ++ [(t.die, a, n)]
             st := if t.leaving = .preempt && c.st = .resident then .partly else c.st }) (fun _ => rfl) (fun _ => rfl) m

/-! ### Images, records and the ends of teams (R304, R318, R323, R331) -/

/-- A path whose mailbox request was served. -/
def Path.mailServed (p : Path) : Bool := match p.park with | some (.mbx _ _ _ served) => served | _ => false

theorem Path.not_mailServed {p : Path} (h : ∀ b w r, p.park ≠ some (.mbx b w r true)) : p.mailServed = false := by
  unfold Path.mailServed
  split
  · next b w r served hp =>
    cases served with
    | true => exact absurd hp (h b w r)
    | false => rfl
  · rfl

/-- No path of the team has a request that was served: none goes on. -/
theorem State.retireServed_none {s : State} {team : Nat}
    (h : ∀ g ∈ s.teamGroups team, g.arch.stack = [] ∧ (∀ e ∈ g.arch.paths, ∀ b w r, e.2.park ≠ some (.mbx b w r true)) ∧
      ∀ e ∈ g.arch.kept, ∀ b w r, e.2.park ≠ some (.mbx b w r true)) : s.retireServed team = s := by
  change s.retireWhere team (fun _ => Path.mailServed) = s
  have hpaths : s.teamPaths team (fun _ => Path.mailServed) = [] := by
    unfold State.teamPaths
    refine List.flatMap_eq_nil_iff.mpr fun g hg => ?_
    obtain ⟨-, hp, -⟩ := h g hg
    rw [List.filter_eq_nil_iff.mpr fun e he => Bool.eq_false_iff.mp (Path.not_mailServed (hp e he)), List.map_nil]
  have hwaits : ∀ g ∈ s.teamGroups team, g.arch.waitsThat Path.mailServed = 0 := fun g hg => by
    obtain ⟨hs, -, hk⟩ := h g hg
    unfold Arch.waitsThat
    rw [hs, (List.filter_eq_nil_iff (l := g.arch.kept)).mpr fun e he => Bool.eq_false_iff.mp (Path.not_mailServed (hk e he))]
    rfl
  unfold State.retireWhere
  rw [hpaths]
  have hfold : ∀ (l : List Group), (∀ g ∈ l, g ∈ s.teamGroups team) → l.foldl (fun (st : State) g =>
      let k := g.arch.waitsThat Path.mailServed
      if k = 0 then st
      else ((st.onArch g.id fun a => a.retireWaits Path.mailServed).onTeam team fun t => { t with ret := satCount (t.ret + k) }).perfGroup g 2 k) s = s := by
    intro l
    induction l with
    | nil => exact fun _ => rfl
    | cons g l ih =>
      intro hl
      rw [List.foldl_cons]
      dsimp only
      rw [if_pos (hwaits g (hl g List.mem_cons_self))]
      exact ih fun q hq => hl q (List.mem_cons_of_mem g hq)
  exact hfold _ fun _ h => h

theorem State.spillGroups_empty {s : State} {l : List Group} (h : ∀ g ∈ l, g.arch.stack = []) : s.spillGroups l = .ok s := by
  induction l with
  | nil => rfl
  | cons g l ih =>
    unfold State.spillGroups
    rw [h g List.mem_cons_self]
    exact ih fun q hq => h q (List.mem_cons_of_mem g hq)

/-- A team's image written at a place of its save area. -/
def State.writeImage (s : State) (t : Team) (a : Nat) : State × Nat × Option Report :=
  s.writeArea (dieWalker t.die (s.gridCtx t.grid)) (s.imageBytes t) (s.savea (s.gridCtx t.grid) t.die + a)
    (pagePieces (s.savea (s.gridCtx t.grid) t.die + a) (s.imageLen t))

/-- A team whose image is written leaves its core. -/
def State.saveTeam (w : State) (t : Team) (a n ctx : Nat) : State :=
  (({ w with free := w.free + n }.perf t.die t.site ctx 9 1).toEvicted t a n ctx).settleCtx ctx

/-- A saved team: its registers, and what its write left of memory, stay. -/
theorem State.saveTeam_of {s w : State} {t : Team} {x : Team} {mem : Nat → Byte} (hst : Stores s w mem) (hx : s.team? t.id = some x) (a n : Nat) {ctx : Nat}
    (hsw : ∀ c, s.ctx? ctx = some c → c.switching = false) :
    (∃ u, (w.saveTeam t a n ctx).team? t.id = some u ∧ u.st = .evicted ∧ u.image = some (a, n)) ∧
      (∀ k, k < physKey 4 0 → (w.saveTeam t a n ctx).byte k = mem k) ∧
      ∀ g v m, (w.saveTeam t a n ctx).group? m = some v → s.group? m = some g → v.arch.regs = g.arch.regs := by
  obtain ⟨y, hy, -⟩ := hst.team? hx
  have hperf := State.perf_rest { w with free := w.free + n } t.die t.site ctx 9 1
  unfold State.saveTeam
  generalize State.perf _ _ _ _ _ _ = z at hperf ⊢
  have hz : z.team? t.id = some y := (congrArg (fun q : State => q.team? t.id) hperf :).trans hy
  obtain ⟨⟨u, hu, hev, him⟩, hgroups, hlow, hswitch⟩ := State.toEvicted_leaves hz a n ctx
  generalize z.toEvicted t a n ctx = e at *
  have hrest := State.settleCtx_of (s := e) (ctx := ctx) fun c hc => by
    have h := (hswitch ctx).trans ((congrArg (fun q : State => (q.ctx? ctx).map (·.switching)) hperf :).trans
      (congrArg (fun q : State => (q.ctx? ctx).map (·.switching)) hst.rest :))
    rw [hc] at h
    obtain ⟨d, hd, hdc⟩ := Option.map_eq_some_iff.mp h.symm
    exact hdc.symm.trans (hsw d hd)
  generalize e.settleCtx ctx = v at *
  refine ⟨⟨u, (congrArg (fun q : State => q.team? t.id) hrest :).trans hu, hev, him⟩, fun k hk => ?_, fun g q m hq hg => ?_⟩
  · calc v.byte k = e.byte k := (congrArg (fun q : State => q.byte k) hrest :)
      _ = z.byte k := hlow k hk
      _ = w.byte k := (congrArg (fun q : State => q.byte k) hperf :)
      _ = mem k := hst.bytes k
  · have hqw : w.group? m = some q := by
      rw [← hq]
      calc w.group? m = z.group? m := (congrArg (fun q : State => q.group? m) hperf :).symm
        _ = e.group? m := (State.group?_congr hgroups m).symm
        _ = v.group? m := (congrArg (fun q : State => q.group? m) hrest :).symm
    exact (congrArg (fun g : Group => g.arch.regs) (hst.group? hqw hg) :)

theorem teamEnds_save (team : Nat) : Steps (.teamSave team)
    (fun s => ∃ tm a, s.team? team = some tm ∧ tm.st = .resident ∧ tm.leaving ≠ .stay ∧ tm.saveFault = none ∧
      s.liveGroups team ≠ [] ∧ (∀ g ∈ s.liveGroups team, g.arch.laneBusy = false) ∧
      (∀ g ∈ s.teamGroups team, g.arch.stack = [] ∧ (∀ e ∈ g.arch.paths, ∀ b w r, e.2.park ≠ some (.mbx b w r true)) ∧
        ∀ e ∈ g.arch.kept, ∀ b w r, e.2.park ≠ some (.mbx b w r true)) ∧
      s.mxToFinish tm = false ∧ s.saveWaits tm = false ∧ s.arrivalDue tm = false ∧ s.recordWaits (s.gridCtx tm.grid) = false ∧
      s.recordLoss (s.gridCtx tm.grid) = none ∧ (∀ c, s.ctx? (s.gridCtx tm.grid) = some c → c.switching = false) ∧
      ((tm.image.map (·.1)) <|> s.imagePlace tm) = some a ∧
      s.areaHeld tm.die (s.gridCtx tm.grid) (s.savea (s.gridCtx tm.grid) tm.die + a) (s.imageLen tm) = false ∧
      (s.writeArea (dieWalker tm.die (s.gridCtx tm.grid)) (s.imageBytes tm) (s.savea (s.gridCtx tm.grid) tm.die + a)
        (pagePieces (s.savea (s.gridCtx tm.grid) tm.die + a) (s.imageLen tm))).2.2 = none)
    fun s t => ∃ tm a u, s.team? team = some tm ∧ ((tm.image.map (·.1)) <|> s.imagePlace tm) = some a ∧
      t.team? team = some u ∧ u.st = .evicted ∧ u.image = some (a, s.imageLen tm) ∧
      (∀ k, k < physKey 4 0 → t.byte k = putAt s.byte (keysOf (s.pageRuns (dieWalker tm.die (s.gridCtx tm.grid)) (s.imageBytes tm)
        (s.savea (s.gridCtx tm.grid) tm.die + a) (pagePieces (s.savea (s.gridCtx tm.grid) tm.die + a) (s.imageLen tm)))) (s.imageBytes tm) k) ∧
      (∀ g ∈ s.liveGroups team, ∀ v, t.group? g.id = some v → s.group? g.id = some g → v.arch.regs = g.arch.regs) := by
  rintro s ⟨tm, a, htm, hst, hleave, hfault, hlive, hbusy, hquiet, hfinish, hwaits, hdue, hrec, hloss, hswitch, hplace, hheld, hwrite⟩
  have hrun : exec (.teamSave team) s = .next ((s.writeImage tm a).1.saveTeam tm a (s.imageLen tm) (s.gridCtx tm.grid)) := by
    change execTeamSave team s = _
    unfold execTeamSave
    rw [htm]
    dsimp only
    have hidle : ((s.liveGroups team).any fun g => g.arch.laneBusy) = false := List.any_eq_false.mpr fun g hg => by rw [hbusy g hg]; decide
    have hspill : s.spillGroups (s.liveGroups team) = .ok s := State.spillGroups_empty fun g hg => (hquiet g (List.mem_filter.mp hg).1).1
    rw [if_neg (by simp [hst, hleave, hfault, hlive, hidle, hfinish, hwaits, hdue, hrec]), hloss]
    dsimp only
    rw [State.retireServed_none hquiet, hspill]
    dsimp only
    rw [hplace]
    dsimp only
    rw [hheld, if_neg Bool.false_ne_true]
    change (s.writeImage tm a).2.2 = none at hwrite
    change (match s.writeImage tm a with | (s2, _, some r) => _ | (s2, _, none) => _) = _
    generalize s.writeImage tm a = r at hwrite ⊢
    obtain ⟨w, k, e⟩ := r
    cases e with
    | none => rfl
    | some e => contradiction
  have hid := State.team?_id htm
  obtain ⟨⟨u, hu, hev, him⟩, hlow, hregs⟩ := State.saveTeam_of (State.stores_writeArea _ _ _ _ 0 s (joined_pagePieces _ _) hwrite)
    (t := tm) (hid ▸ htm) a (s.imageLen tm) hswitch
  exact ⟨_, hrun, tm, a, u, htm, hplace, hid ▸ hu, hev, him, hlow, fun g _ v hv hg => hregs g v g.id hv hg⟩

/-- Settles O30: a record or an image is a list of writes, page by page, and the team's leaving touches no byte below team memory; what a
group keeps behind its barrier is `Group.carryOver`; an ended team stays ended. -/
theorem teamEnds : Obligations.TeamEnds := by
  unfold Obligations.TeamEnds
  extract_lets recordOf place kept
  refine ⟨?_, ?_, teamEnds_save, teamEnds_done, teamEnds_classifier⟩
  · rintro team s ⟨tm, g, w, m, a, htm, hg, hw, hb, hf, hst, hat, hp, hh, hscratch, hmain, hsw⟩
    obtain rfl := State.team?_id htm
    have hrun := execBivouac_of htm hg hw hb hf hst hat hp hh
    have hreach := s.reaches_reserveRecord tm g.ctx (roundUp (recordLen g.desc (s.liveGroups tm.id).length) 64) (m, a)
    have hbpma : (kept s tm g m a).bpma g.ctx tm.die = s.bpma g.ctx tm.die := hreach.ctxField _ _ _
    have hbpdoff : (kept s tm g m a).bpdoff g.ctx tm.die = s.bpdoff g.ctx tm.die := hreach.ctxField _ _ _
    obtain ⟨v, hv, hstores⟩ := State.writeRecordOf_of (s := kept s tm g m a) (t := { tm with recLink := s.free, recDone := 0 }) (g := g) (slot := w.1)
      (gen := w.2.2) (a := a) (n := roundUp (recordLen g.desc (s.liveGroups tm.id).length) 64) m (bs := recordOf s tm g w) rfl rfl
      (fun h => by
        rw [hbpdoff, hreach.mergesLost]
        exact hscratch h)
      (fun h => by
        rw [hbpma]
        exact hmain h)
    obtain ⟨u, hu, hbiv, hstay, him, hrec, hpools, hslot, hlow, hgroups⟩ := teamEnds_written htm hstores rfl hsw s.free
    refine ⟨_, hrun.trans (congrArg Host.Outcome.next hv), tm, g, w, m, a, u, htm, hg, hw, hp, hu, hbiv, hstay, him, hrec, hpools, hslot, fun k hk => ?_,
      hgroups⟩
    rw [hlow k hk, hbpma, hbpdoff]
    rfl
  · rintro team s ⟨tm, g, w, htm, hg, hw, hb, hf, hst, hat, hp⟩
    refine ⟨_, ?_, congrArg (fun l => { s with teams := l }) (mapIf_eq_ite s.teams (·.id) team fun x => { x with bivouacking := false })⟩
    change execBivouac team s = _
    unfold execBivouac
    rw [htm]
    dsimp only
    rw [hg, hw]
    dsimp only
    rw [hat]
    dsimp only
    rw [hp, if_neg (by simp [hb, hf, hst])]
    rfl

end Sys2Proof.Machine
end

section
/-!
SUPPORT. Lane loads, stores and atomics (R120-R131, R152, R196-R200).
-/
namespace Sys2Proof.Machine

/-! ### Lane accesses at issue (R13, R120, R128, R130, R152, R197) -/

/-- A group none of whose accesses was put off. -/
theorem State.performBy_idle {s : State} {grp : Nat} {g : Group} (hg : s.group? grp = some g) (h : ∀ x ∈ g.arch.tracked, x.late = []) (p : Tracked → Bool) :
    s.performBy grp p = s := by
  unfold State.performBy
  rw [hg]
  dsimp only
  have hl : ∀ x ∈ g.arch.tracked.filter p, x.late = [] := fun x hx => h x (List.mem_filter.mp hx).1
  generalize g.arch.tracked.filter p = l at hl
  induction l with
  | nil => rfl
  | cons y l ih =>
    rw [List.foldl_cons, hl y List.mem_cons_self]
    exact ih fun z hz => hl z (List.mem_cons_of_mem _ hz)

theorem State.settleLate_idle {s : State} {h : Here} {g : Group} (hg : s.group? h.g.id = some g) (ht : ∀ x ∈ g.arch.tracked, x.late = []) (o : MemOrder)
    (write : Bool) (xs : List (Nat × LaneBytes)) : s.settleLate h o write xs = s := by
  unfold State.settleLate
  dsimp only
  split
  · exact State.performBy_idle hg ht _
  · split
    · exact State.performBy_idle hg ht _
    · rfl

/-- States that agree on what accesses read, and on grids. -/
structure ReachesLanes (s w : State) : Prop where
  reaches : Reaches s w
  grids : w.grids = s.grids

namespace ReachesLanes
variable {s w : State} (r : ReachesLanes s w)
include r

theorem gridCtx (n : Nat) : w.gridCtx n = s.gridCtx n := by
  unfold State.gridCtx State.grid?
  rw [r.grids]

theorem privVA (h : Here) (l o : Nat) : w.privVA h l o = s.privVA h l o := by
  unfold State.privVA State.privbase State.hereCtx
  rw [r.gridCtx, r.reaches.ctxField]

theorem privWalker (h : Here) : w.privWalker h = s.privWalker h := by
  unfold State.privWalker State.hereCtx
  rw [r.gridCtx]

theorem privRuns (h : Here) (k : AccKind) (n : Nat) (l : List (Nat × Nat)) : w.privRuns h k n l = s.privRuns h k n l := by
  induction l with
  | nil => rfl
  | cons e l ih =>
    unfold State.privRuns
    rw [r.privVA, r.privWalker, ih]
    dsimp only
    rw [r.reaches.access]

theorem dieKey (t : Team) (o n : Nat) : w.dieKey t o n = s.dieKey t o n := by
  unfold State.dieKey State.window State.spwbase State.spwlen
  dsimp only
  rw [r.gridCtx, r.reaches.ctxField, r.reaches.ctxField]

theorem windowLoss (t : Team) (o : Nat) : w.windowLoss t o = s.windowLoss t o := by
  unfold State.windowLoss
  rw [r.gridCtx, r.reaches.fieldLoss]

theorem laneBytes (h : Here) (sp : Space) (store : Bool) (n l o : Nat) : w.laneBytes h sp store n l o = s.laneBytes h sp store n l o := by
  unfold State.laneBytes State.hwm State.hereCtx
  rw [r.dieKey, r.windowLoss, r.gridCtx, r.reaches.ctxField, r.reaches.fieldLoss, r.privVA, r.privRuns]

end ReachesLanes

theorem State.reachesLanes_groups (s : State) (l : List Group) : ReachesLanes s { s with groups := l } :=
  ⟨⟨rfl, rfl, rfl, rfl, rfl, rfl, rfl, fun _ => rfl⟩, rfl⟩

theorem State.privRuns_keys {s : State} {h : Here} {k : AccKind} {n : Nat} {r : List (Nat × Nat)} {b : LaneBytes} (e : s.privRuns h k n r = .ok b) :
    b.runs.map (·.2) = r.map (·.2) := by
  induction r generalizing b with
  | nil =>
    cases e
    rfl
  | cons p r ih =>
    unfold State.privRuns at e
    dsimp only at e
    split at e
    · contradiction
    split at e
    · contradiction
    next hr =>
    cases e
    exact congrArg (p.2 :: ·) (ih hr)

theorem keysOf_length (runs : List (Nat × Nat)) : (keysOf runs).length = (runs.map (·.2)).sum := by
  unfold keysOf
  rw [List.length_flatMap]
  congr 1
  exact List.map_congr_left fun r _ => by rw [List.length_map, List.length_range]

/-- A lane access of 1, 2, 4, 8 or 16 bytes reaches that many. -/
theorem State.laneBytes_keys {s : State} {h : Here} {sp : Space} {store : Bool} {n l o : Nat} {b : LaneBytes} (e : s.laneBytes h sp store n l o = .ok b)
    (hn : n ≤ 4 ∨ n % 4 = 0) : (keysOf b.runs).length = n ∧ ∀ r ∈ b.runs, r.2 ≤ n := by
  have hone : ∀ {k c : Nat} {b : LaneBytes}, (⟨[(k, n)], [c]⟩ : LaneBytes) = b → (keysOf b.runs).length = n ∧ ∀ r ∈ b.runs, r.2 ≤ n := by
    rintro k c b rfl
    rw [keysOf_length]
    exact ⟨rfl, fun r hr => (List.mem_singleton.mp hr) ▸ le_rfl⟩
  unfold State.laneBytes at e
  dsimp only at e
  split at e
  · contradiction
  split at e
  · split at e
    · exact hone (Except.ok.inj e)
    · contradiction
  · split at e
    · contradiction
    · exact hone (Except.ok.inj e)
    · contradiction
  · split at e
    · contradiction
    split at e
    · contradiction
    have hkeys := State.privRuns_keys e
    rw [keysOf_length, hkeys]
    have hmem : ∀ r ∈ b.runs, r.2 ∈ (privPieces o n).map (·.2) := fun r hr => hkeys ▸ List.mem_map_of_mem hr
    unfold privPieces at hmem ⊢
    split
    · next hle =>
      rw [if_pos hle] at hmem
      exact ⟨rfl, fun r hr => (List.mem_singleton.mp (hmem r hr)).le⟩
    · next hgt =>
      rw [if_neg hgt] at hmem
      constructor
      · have hfour : ((List.range (n / 4)).map fun j => (o + 4 * j, 4)).map (·.2) = (List.range (n / 4)).map fun _ => 4 := by
          rw [List.map_map]
          rfl
        rw [hfour, List.map_const', List.sum_replicate, List.length_range, smul_eq_mul]
        omega
      · intro r hr
        obtain ⟨e, he, her⟩ := List.mem_map.mp (hmem r hr)
        obtain ⟨j, -, rfl⟩ := List.mem_map.mp he
        rw [← her]
        dsimp only
        omega

theorem State.reached_of {s : State} {h : Here} {a : VReg} {sp : Space} {store : Bool} {n l : Nat} {b : LaneBytes}
    (e : s.laneBytes h sp store n l (h.offset a l) = .ok b) : s.reached h a sp store n l = b := by
  unfold State.reached
  rw [e]

section
variable {s : State} {h : Here} {g : Guard} {a : VReg} {sp : Space} {store : Bool} {n : Nat} (ok : s.lanesOk h g a sp store n)
include ok

theorem State.lanesOk.bytes {l : Nat} (hl : l ∈ lanesOf (h.active g)) : s.laneBytes h sp store n l (h.offset a l) = .ok (s.reached h a sp store n l) ∧
    (s.reached h a sp store n l).runs.all (fun r => !s.isLost r.1 r.2) = true := by
  obtain ⟨b, hb, hlost⟩ := ok.1 l hl
  rw [State.reached_of hb]
  exact ⟨hb, hlost⟩

theorem State.lanesOk.laneAll {w : State} (r : ReachesLanes s w) : w.laneAll h g a sp store n =
    (lanesOf (h.active g)).map fun l => (l, .ok (s.reached h a sp store n l)) :=
  List.map_congr_left fun l hl => by rw [r.laneBytes, (ok.bytes hl).1]

/-- The lanes of a sound access, with their bytes. -/
theorem State.lanesOk.lanes {w : State} (r : ReachesLanes s w) : laneOk (w.laneAll h g a sp store n) =
    (lanesOf (h.active g)).map fun l => (l, s.reached h a sp store n l) := by
  unfold laneOk
  rw [ok.laneAll r, List.filterMap_map]
  exact congrFun List.filterMap_eq_map _

theorem State.lanesOk.noFault : memLate s h g a sp store n = none := by
  unfold memLate laneFaultOf
  rw [ok.laneAll (s.reachesLanes_groups s.groups), List.filterMap_map]
  exact congrArg pickLanes (List.filterMap_eq_nil_iff.mpr fun l _ => rfl)

theorem State.lanesOk.noLoss : memLoss s h g a sp store n = none := by
  unfold memLoss State.laneLoss
  rw [ok.lanes (s.reachesLanes_groups s.groups)]
  have hnone : ((lanesOf (h.active g)).map fun l => (l, s.reached h a sp store n l)).filter (fun e => s.lostRuns e.2 != []) = [] := by
    refine List.filter_eq_nil_iff.mpr fun e he => ?_
    obtain ⟨l, hl, rfl⟩ := List.mem_map.mp he
    have hall := List.all_eq_true.mp (ok.bytes hl).2
    have hlost : s.lostRuns (s.reached h a sp store n l) = [] := by
      refine List.filterMap_eq_nil_iff.mpr fun r hr => ?_
      have := hall r.1 (List.of_mem_zip hr).1
      rw [if_neg (by simpa using this)]
    rw [hlost]
    decide
  rw [hnone]

end

/-! ### What a continuation's instruction reads (R279) -/

theorem Cont.own_belay (c : Cont) (us : List Use) (act : Word) (seen : Reg → Word) : (c.own us act seen).belay = c.belay := rfl

theorem Cont.keepPriv_belay (c : Cont) (sp : Space) (xs : List (Nat × LaneBytes)) : (c.keepPriv sp xs).belay = c.belay := by
  unfold Cont.keepPriv
  split <;> rfl

theorem State.viewByte_congr {s w : State} {c d : Option Cont} (hc : d.map (·.belay) = c.map (·.belay)) (hm : w.byte = s.byte) (k : Nat) :
    w.viewByte d k = s.viewByte c k := by
  have hbind : ∀ e : Option Cont, (e.bind fun c => c.belay.find? (·.1 == k)) = (e.map (·.belay)).bind fun l => l.find? (·.1 == k) := fun e => by
    cases e <;> rfl
  unfold State.viewByte
  rw [hbind, hbind, hc, hm]

theorem State.viewBytes_congr {s w : State} {c d : Option Cont} (hc : d.map (·.belay) = c.map (·.belay)) (hm : w.byte = s.byte) (b : LaneBytes) :
    w.viewBytes d b = s.viewBytes c b := by
  unfold State.viewBytes
  simp only [State.viewByte_congr hc hm]

theorem State.viewBytes_length (s : State) (c : Option Cont) (b : LaneBytes) : (s.viewBytes c b).length = (keysOf b.runs).length := by
  unfold State.viewBytes keysOf
  simp only [List.length_flatMap, List.length_map]

/-- The bytes that the continuation under way holds back are the same behind the retirement. -/
theorem State.viewCont_retire {s : State} {h : Here} (e : s.here = some h) (i : Instr) (p : Plan) (sp : Space) (xs : List (Nat × LaneBytes)) :
    (((s.retire h i p).keepPriv h.g.id sp xs).viewCont h.g.id).map (·.belay) = (s.viewCont h.g.id).map (·.belay) := by
  have hg := State.here_group e
  have hretire : (s.retire h i p).group? h.g.id = some (h.g.issued h i p.allUses (h.active p.guard) s.view) := by
    refine (State.group?_onGroup s h.g.id (fun g => g.issued h i p.allUses (h.active p.guard) s.view) fun _ => rfl).trans ?_
    rw [hg]
    rfl
  have hkeep : ((s.retire h i p).keepPriv h.g.id sp xs).group? h.g.id = _ :=
    (State.group?_onGroup (s.retire h i p) h.g.id (fun g => { g with conts := g.conts.mapIdx fun j c => if s.view = some j then c.keepPriv sp xs else c })
      fun _ => rfl).trans (congrArg (Option.map _) hretire)
  have hview : ((s.retire h i p).keepPriv h.g.id sp xs).view = s.view := rfl
  unfold State.viewCont
  rw [hkeep, hg, hview]
  cases hv : s.view with
  | none => rfl
  | some k =>
    dsimp only [Option.map_some, Group.issued]
    rw [List.getElem?_mapIdx, List.getElem?_mapIdx, Option.map_map, Option.map_map]
    refine congrArg (fun f => Option.map f _) (funext fun c => ?_)
    simp only [Function.comp_apply, if_pos, Cont.keepPriv_belay, Cont.own_belay]

/-! ### Lane loads (R132, R197) -/

theorem Within.before {grp : Nat} {f : Arch → Arch} {s t u : State} (h : Within grp id s t) (k : Within grp f t u) : Within grp f s u := h.trans k

theorem Within.after {grp : Nat} {f : Arch → Arch} {s t u : State} (h : Within grp f s t) (k : Within grp id t u) : Within grp f s u := h.trans k

theorem State.within_keepPriv (s : State) (grp : Nat) (sp : Space) (xs : List (Nat × LaneBytes)) : Within grp id s (s.keepPriv grp sp xs) :=
  s.within_onGroup grp (k := fun g => { g with conts := g.conts.mapIdx fun j c => if s.view = some j then c.keepPriv sp xs else c }) (fun _ => rfl) fun _ => rfl

theorem State.within_perf (s : State) (die site ctx n k grp : Nat) : Within grp id s (s.perf die site ctx n k) := by
  have hrest := s.perf_rest die site ctx n k
  have hg : (s.perf die site ctx n k).groups = s.groups := (congrArg State.groups hrest :)
  refine .of_groups hg ⟨?_, by rw [hg], (congrArg (fun z : State => z.teams.map Team.calm) hrest :), s.perf_core die site ctx n k⟩
  exact (congrArg (fun z : State => { z with groups := s.groups, teams := s.teams, free := s.free, losses := s.losses }) hrest :)

theorem State.within_countPasses (s : State) (h : Here) (sp : Space) (k grp : Nat) : Within grp id s (s.countPasses h sp k) := by
  unfold State.countPasses
  split
  · exact s.within_perf ..
  · exact Within.refl ..

/-- What is kept of a group's accesses is the same behind the retirement. -/
theorem State.retire_idle {s : State} {h : Here} (e : s.here = some h) (ht : ∀ x ∈ h.a.tracked, x.late = []) (i : Instr) (p : Plan) :
    ∃ v, (s.retire h i p).group? h.g.id = some v ∧ ∀ x ∈ v.arch.tracked, x.late = [] := by
  obtain ⟨v, hv, hva, -⟩ := State.retire_group e i p
  refine ⟨v, hv, ?_⟩
  rw [hva]
  have htr : (h.behind i p.allUses (h.active p.guard)).tracked = h.a.tracked := by
    unfold Here.behind Arch.cleansed Arch.setPath
    split <;> rfl
  rwa [htr]

/-- What an instruction leaves of its group and of the rest, from what its act leaves of the retired state. -/
theorem Within.leaves {s t : State} {h : Here} {i : Instr} {p : Plan} {f : Arch → Arch} (e : s.here = some h)
    (hact : Within h.g.id f (s.retire h i p) (p.act h (s.retire h i p))) (acc : Accounted (p.act h (s.retire h i p)) t h.g.id) :
    ∃ u, t.group? h.g.id = some u ∧ Leaves h i p.allUses f u (h.active p.guard) ∧ OnlyGroup s t h.g.id := by
  obtain ⟨v, hv, hva, hvr⟩ := State.retire_group e i p
  obtain ⟨x, hx, hxa, hxr⟩ := hact.group v hv
  obtain ⟨u, hu, hua, hur⟩ := acc.group x hx
  refine ⟨u, hu, ⟨hua.trans (hxa.trans (congrArg f hva)), ?_⟩, ((s.within_retire h i p).only.trans hact.only).trans acc.only⟩
  exact Group.sameRest_trans (congrArg (fun z : Group => { z with arch := x.arch, detector := x.detector }) hur :) (Group.sameRest_trans hxr hvr)

/-- What the lanes of a load have read. -/
theorem loadData_retire {s : State} {h : Here} (e : s.here = some h) {i : Instr} {p : Plan} {g : Guard} {a : VReg} {n : Nat} {sp : Space}
    (hn : n = 1 ∨ n = 2 ∨ n = 4 ∨ n = 8 ∨ n = 16) (ok : s.lanesOk h g a sp false n) (d : VReg) (signed : Bool) :
    (((lanesOf (h.active g)).map fun l => (l, s.reached h a sp false n l)).map fun x =>
      (x.1, ((s.retire h i p).keepPriv h.g.id sp ((lanesOf (h.active g)).map fun l => (l, s.reached h a sp false n l))).viewBytes
        (((s.retire h i p).keepPriv h.g.id sp ((lanesOf (h.active g)).map fun l => (l, s.reached h a sp false n l))).viewCont h.g.id) x.2)).flatMap
      (fun x => loadWords d.toNat n signed x.1 x.2) =
    (lanesOf (h.active g)).flatMap fun l => (List.range ((n + 3) / 4)).map fun j =>
      (d.toNat + j, l, loadedWord n signed (s.viewBytes (s.viewCont h.g.id) (s.reached h a sp false n l)) j) := by
  rw [List.map_map, List.flatMap_map]
  refine List.flatMap_congr fun l hl => ?_
  have hlen : (s.viewBytes (s.viewCont h.g.id) (s.reached h a sp false n l)).length = n := by
    rw [State.viewBytes_length]
    exact (State.laneBytes_keys (ok.bytes hl).1 (by omega)).1
  dsimp only [Function.comp_apply]
  have hview := State.viewCont_retire e i p sp ((lanesOf (h.active g)).map fun l => (l, s.reached h a sp false n l))
  have hbyte : ((s.retire h i p).keepPriv h.g.id sp ((lanesOf (h.active g)).map fun l => (l, s.reached h a sp false n l))).byte = s.byte := rfl
  generalize (s.retire h i p).keepPriv h.g.id sp _ = w at hview hbyte ⊢
  rw [State.viewBytes_congr hview hbyte, loadWords_eq hn _ _ _ hlen]

theorem completes_load {i : Instr} {g : Guard} {d a : VReg} {n : Nat} {signed : Bool} {o : MemOrder} {sp : Space}
    (hn : n = 1 ∨ n = 2 ∨ n = 4 ∨ n = 8 ∨ n = 16) (he : ∀ s, exec i s = run i (loadPlan g d a n signed o sp) s) :
    Completes i (loadEffect i g d a n signed o sp) := by
  refine completes_of_plan he ⟨rfl, rfl, rfl⟩ (fun s h here ok => ?_) fun s h here ok t acc => ?_
  · obtain ⟨hstall, hlanes⟩ := ok
    exact ⟨by
      change (memStall o h || s.privHeld h g a sp n) = false
      rw [hstall, hlanes.2.1]; rfl, rfl, hlanes.noFault, rfl, hlanes.noLoss⟩
  · obtain ⟨-, hlanes⟩ := ok
    obtain ⟨v, hv, hidle⟩ := State.retire_idle here hlanes.2.2 i (loadPlan g d a n signed o sp)
    have hxs := hlanes.lanes (s.reachesLanes_groups (s.retire h i (loadPlan g d a n signed o sp)).groups)
    change laneOk ((s.retire h i (loadPlan g d a n signed o sp)).laneAll h g a sp false n) = _ at hxs
    have hview := State.viewCont_retire here i (loadPlan g d a n signed o sp) sp ((lanesOf (h.active g)).map fun l => (l, s.reached h a sp false n l))
    have hact : Within h.g.id (fun r => r.raise (h.p.counter (.ka false))
          { path := pathOf sp, dests := regsFrom .v d.toNat ((n + 3) / 4)
            data := if s.putsOffLoad h o sp (h.active g) then [] else (lanesOf (h.active g)).flatMap fun l =>
              (List.range ((n + 3) / 4)).map fun j =>
                (d.toNat + j, l, loadedWord n signed (s.viewBytes (s.viewCont h.g.id) (s.reached h a sp false n l)) j)
            late := if s.putsOffLoad h o sp (h.active g) then
              (lanesOf (h.active g)).map fun l => .read l d.toNat n signed (s.reached h a sp false n l).runs else []
            acq := (o == .acq || o == .acqRel) && h.active g != 0
            lanes := h.p.m
            done := h.active g == 0 })
        (s.retire h i (loadPlan g d a n signed o sp)) ((loadPlan g d a n signed o sp).act h (s.retire h i (loadPlan g d a n signed o sp))) := by
      have hdata := loadData_retire here (p := loadPlan g d a n signed o sp) (i := i) hn hlanes d signed
      revert hv hxs hdata
      generalize hw : s.retire h i (loadPlan g d a n signed o sp) = w
      intro hv hxs hdata
      unfold loadPlan
      dsimp only
      rw [hxs, State.settleLate_idle hv hidle, hdata, List.map_map]
      have hoff : (w.keepPriv h.g.id sp ((lanesOf (h.active g)).map fun l => (l, s.reached h a sp false n l))).putsOffLoad h o sp (h.active g) =
          s.putsOffLoad h o sp (h.active g) := by
        rw [← hw]
        rfl
      rw [hoff]
      refine ((w.within_keepPriv ..).before (State.within_onGroup _ _ ?_ ?_)).after (State.within_countPasses ..)
      · exact fun _ => rfl
      · exact fun _ => rfl
    obtain ⟨u, hu, hleaves, honly⟩ := hact.leaves here acc
    exact ⟨u, hu, hleaves, honly⟩

/-! ### What lane stores leave (R123, R197, R279) -/

theorem OnlyMemory.trans {s t u : State} {grp : Nat} (h : OnlyMemory s t grp) (k : OnlyMemory t u grp) : OnlyMemory s u grp where
  rest := (congrArg (fun z : State => { z with mem := s.mem, cache := s.cache, groups := s.groups, teams := s.teams, dies := s.dies, cores := s.cores,
                                               free := s.free, losses := s.losses }) k.rest :).trans h.rest
  others := k.others.trans h.others
  teams := k.teams.trans h.teams
  cores die site := (k.cores die site).trans (h.cores die site)

theorem OnlyGroup.onlyMemory {s t : State} {grp : Nat} (h : OnlyGroup s t grp) : OnlyMemory s t grp where
  rest := (congrArg (fun z : State => { z with mem := s.mem, cache := s.cache, dies := s.dies }) h.rest :)
  others := congrArg (List.map Group.quiet) h.others
  teams := by
    have hcalm := congrArg (List.map Team.quiet) h.teams
    rw [List.map_map, List.map_map] at hcalm
    exact hcalm
  cores := h.cores

/-- A write that fills no granule leaves what is lost. -/
theorem lostAfter_short (l : List Nat) {k n : Nat} (h : n < 64) : lostAfter l k n = l := by
  refine List.filter_eq_self.mpr fun q _ => ?_
  simp only [Bool.not_eq_true', Bool.and_eq_false_iff, decide_eq_false_iff_not]
  omega

/-- The stores of a group's lanes: memory reads as `m`, and of the group its cairn, its spins and its continuations alone may have changed. -/
structure LaneWrites (s t : State) (grp : Nat) (m : Nat → Byte) : Prop where
  bytes : ∀ k, t.byte k = m k
  only : OnlyMemory s t grp
  group : ∀ v, s.group? grp = some v → ∃ u, t.group? grp = some u ∧ u.quiet = v.quiet ∧
    ∀ slot p, v.arch.path slot = some p → p.park = none → u.arch.path slot = some p

namespace LaneWrites
variable {s t u : State} {grp : Nat} {m m' : Nat → Byte}

theorem refl (s : State) (grp : Nat) : LaneWrites s s grp s.byte :=
  ⟨fun _ => rfl, (OnlyGroup.refl s grp).onlyMemory, fun v hv => ⟨v, hv, rfl, fun _ _ hp _ => hp⟩⟩

theorem trans (h : LaneWrites s t grp m) (k : LaneWrites t u grp m') : LaneWrites s u grp m' where
  bytes := k.bytes
  only := h.only.trans k.only
  group v hv := by
    obtain ⟨x, hx, hxq, hxp⟩ := h.group v hv
    obtain ⟨y, hy, hyq, hyp⟩ := k.group x hx
    exact ⟨y, hy, hyq.trans hxq, fun slot p hp hn => hyp slot p (hxp slot p hp hn) hn⟩

theorem byte_eq (h : LaneWrites s t grp m) : t.byte = m := funext h.bytes

theorem view (h : LaneWrites s t grp m) : t.view = s.view := (congrArg State.view h.only.rest :)

end LaneWrites

theorem Path.firedBy_unparked {p : Path} (h : p.park = none) (k n : Nat) : p.firedBy k n = p := by
  unfold Path.firedBy
  rw [h]

theorem State.laneWrites_store (s : State) (grp k : Nat) (bs : List Byte) (hb : bs.length < 64) :
    LaneWrites s (s.store k bs) grp (putAt s.byte ((List.range bs.length).map fun j => k + j) bs) where
  bytes q := congrFun (s.byte_store k bs) q
  only :=
    { rest := by
        have h := s.writeEvent_store k bs
        have hlost : (s.store k bs).lost = s.lost := h.lost.trans (lostAfter_short _ hb)
        generalize s.store k bs = t at h hlost
        have hrest := (congrArg (fun z : State => { z with lost := s.lost, free := s.free }) h.rest :)
        rw [← hlost] at hrest
        exact (hrest :).trans (by rw [hlost])
      others := (s.writeEvent_store k bs).quiet_groups _ fun g u e => by rw [e]
      teams := (s.writeEvent_store k bs).quiet_teams
      cores := (s.writeEvent_store k bs).cores }
  group v hv := by
    obtain ⟨u, hu, hfired⟩ := MapsGroups.group? (R := Group.Fired k bs.length) (fun a b e => (congrArg Group.id e :)) (s.writeEvent_store k bs).groups hv
    refine ⟨u, hu, Group.quiet_of_fired hfired, fun slot p hp hn => ?_⟩
    have hua : u.arch = v.arch.onPaths (·.firedBy k bs.length) := (congrArg Group.arch hfired :)
    rw [hua]
    cases slot with
    | false => exact (congrArg (Option.map (·.firedBy k bs.length)) hp :).trans (congrArg some (Path.firedBy_unparked hn ..))
    | true => exact (congrArg (Option.map (·.firedBy k bs.length)) hp :).trans (congrArg some (Path.firedBy_unparked hn ..))

/-- One lane's bytes, run by run. -/
theorem State.laneWrites_storeRuns {put : State → Nat → List Byte → State} (hput : ∀ (t : State) k bs, t.view = none → put t k bs = t.store k bs) (grp : Nat)
    (runs : List (Nat × Nat)) (bs : List Byte) (s : State) (hv : s.view = none) (hr : ∀ r ∈ runs, r.2 < 64) :
    LaneWrites s (s.storeRuns put runs bs) grp (putAt s.byte (keysOf runs) bs) := by
  induction runs generalizing s bs with
  | nil => exact LaneWrites.refl s grp
  | cons r runs ih =>
    obtain ⟨k, n⟩ := r
    have hn : n < 64 := hr (k, n) List.mem_cons_self
    have hfirst := s.laneWrites_store grp k (bs.take n) ((List.length_take_le ..).trans_lt hn)
    unfold State.storeRuns
    rw [hput s k _ hv]
    refine (congrArg (LaneWrites s _ grp) ?_ : _ = _) ▸ hfirst.trans (ih (bs.drop n) _ (hfirst.view.trans hv) fun r h => hr r (List.mem_cons_of_mem _ h))
    rw [hfirst.byte_eq]
    have hkeys : keysOf ((k, n) :: runs) = ((List.range n).map fun j => k + j) ++ keysOf runs := rfl
    rw [hkeys, putAt_append_keys, List.length_map, List.length_range, ← putAt_take s.byte ((List.range n).map fun j => k + j), ← List.map_take,
      List.take_range, List.length_take, Nat.min_eq_left (Nat.min_le_left ..)]

/-- The lanes' stores, lowest lane first. -/
theorem State.laneWrites_lanes {s : State} {h : Here} {d a : VReg} {sp : Space} {n : Nat} (hr : ∀ l, ∀ r ∈ (s.reached h a sp true n l).runs, r.2 < 64)
    (ls : List Nat) (t : State) (hv : t.view = none) (grp : Nat) :
    LaneWrites t ((ls.map fun l => (l, s.reached h a sp true n l)).foldl
      (fun (st : State) e => st.storeRuns (State.viewStore h.g.id) e.2.runs (h.storeBytes d.toNat n e.1)) t) grp (storeLanes s h d a sp n t.byte ls) := by
  induction ls generalizing t with
  | nil => exact LaneWrites.refl t grp
  | cons l ls ih =>
    have hlane := t.laneWrites_storeRuns (put := State.viewStore h.g.id) (fun t k bs hv => by unfold State.viewStore; rw [hv]) grp
      (s.reached h a sp true n l).runs (h.storeBytes d.toNat n l) hv (hr l)
    have hrest := ih _ (hlane.view.trans hv)
    rw [hlane.byte_eq] at hrest
    exact hlane.trans hrest

/-- In a continuation the lanes' stores are held back. -/
theorem State.within_viewStore {s : State} (hv : s.view ≠ none) (grp k : Nat) (bs : List Byte) : Within grp id s (s.viewStore grp k bs) := by
  unfold State.viewStore
  split
  · next h => exact absurd h hv
  · refine State.within_onGroup s grp ?_ ?_
    · exact fun _ => rfl
    · exact fun _ => rfl

theorem Group.quiet_of_sameRest {u g : Group} (h : u.sameRest g) (ha : u.arch.regs = g.arch.regs) : u.quiet = g.quiet := by
  have hq := (congrArg (fun z : Group => { z.quiet with arch := u.arch.regs }) h :)
  exact (hq :).trans (by rw [ha]; rfl)

theorem Within.laneWrites {s t : State} {grp : Nat} (h : Within grp id s t) : LaneWrites s t grp s.byte where
  bytes k := congrFun h.only.byte k
  only := h.only.onlyMemory
  group v hv := by
    obtain ⟨u, hu, hua, hur⟩ := h.group v hv
    exact ⟨u, hu, Group.quiet_of_sameRest hur (by rw [hua]; rfl), fun slot p hp _ => by rw [hua]; exact hp⟩

theorem Arch.regs_setK (a : Arch) (c x : Nat) : (a.setK c x).regs = a.regs.setK c x := rfl

theorem Arch.regs_lower (a : Arch) (p : AccPath) : (a.lower p).regs = a.regs.lower p := by
  unfold Arch.lower
  have hfold : ∀ (l : List Nat) (b : Arch), (l.foldl Arch.dropK b).regs = l.foldl Arch.dropK b.regs := by
    intro l
    induction l with
    | nil => exact fun _ => rfl
    | cons c l ih => exact fun b => ih (b.dropK c)
  exact hfold _ _

theorem Arch.regs_raise (a : Arch) (c : Option Nat) (f : Flight) : (a.raise c f).regs = a.regs.raise c f := by
  cases c with
  | none => rfl
  | some c => exact Arch.regs_lower _ _

theorem Arch.path_raise (a : Arch) (c : Option Nat) (f : Flight) (slot : Bool) : (a.raise c f).path slot = a.path slot := by
  cases c with
  | none => rfl
  | some c =>
    unfold Arch.raise
    dsimp only
    have hrest := Arch.lower_rest { a.setK c (a.getK c + 1) with
      tracked := a.tracked ++ [{ seq := a.nextSeq, path := f.path, ctr := c, dests := f.dests, data := f.data, acq := f.acq, launch := f.launch,
                                 lanes := f.lanes, late := f.late, done := f.done, lowered := false }]
      nextSeq := a.nextSeq + 1 } f.path
    exact (congrArg (fun b : Arch => b.path slot) hrest :)

/-- An instruction whose lanes wrote memory, once it is tracked and counted. -/
theorem LaneWrites.leaves {s x t : State} {h : Here} {i : Instr} {p : Plan} {m : Nat → Byte} {c : Option Nat} {f : Flight} (e : s.here = some h)
    (hx : LaneWrites (s.retire h i p) x h.g.id m) (hact : Within h.g.id (fun a => a.raise c f) x (p.act h (s.retire h i p)))
    (acc : Accounted (p.act h (s.retire h i p)) t h.g.id) :
    ∃ u, t.group? h.g.id = some u ∧ (∀ k, t.byte k = m k) ∧ LeavesWriter h i p.allUses (fun a => a.raise c f) u (h.active p.guard) ∧
      OnlyMemory s t h.g.id := by
  obtain ⟨v, hv, hva, hvr⟩ := State.retire_group e i p
  obtain ⟨y, hy, hyq, hyp⟩ := hx.group v hv
  obtain ⟨z, hz, hza, hzr⟩ := hact.group y hy
  obtain ⟨u, hu, hua, hur⟩ := acc.group z hz
  have hregs : y.arch.regs = (h.behind i p.allUses (h.active p.guard)).regs := (congrArg Group.arch hyq :).trans (congrArg Arch.regs hva)
  have huz : u.quiet = z.quiet := Group.quiet_of_sameRest (congrArg (fun q : Group => { q with arch := z.arch, detector := z.detector }) hur :) (by rw [hua])
  have hzy : z.quiet = { y.quiet with arch := z.arch.regs } := (congrArg (fun q : Group => { q.quiet with arch := z.arch.regs }) hzr :)
  have hvh : v.quiet = { h.g.quiet with arch := v.arch.regs } := (congrArg (fun q : Group => { q.quiet with arch := v.arch.regs }) hvr :)
  refine ⟨u, hu, fun k => ?_, ⟨?_, ?_⟩, ((s.within_retire h i p).only.onlyMemory.trans hx.only).trans
    (hact.only.onlyMemory.trans acc.only.onlyMemory)⟩
  · rw [acc.only.byte, hact.only.byte]
    exact hx.bytes k
  · rw [hua, hza, Arch.path_raise]
    refine hyp h.slot _ ?_ rfl
    rw [hva]
    exact h.path_behind i _ _
  · rw [huz, hzy, hyq, hvh, hza, Arch.regs_raise, hregs, ← Arch.regs_raise]

/-! ### Lane stores (R123, R197) -/

theorem State.within_storeRuns (grp : Nat) (runs : List (Nat × Nat)) (bs : List Byte) (s : State) (hv : s.view ≠ none) :
    Within grp id s (s.storeRuns (State.viewStore grp) runs bs) := by
  induction runs generalizing s bs with
  | nil => exact Within.refl grp s
  | cons r runs ih =>
    have hfirst := State.within_viewStore hv grp r.1 (bs.take r.2)
    have hview : (s.viewStore grp r.1 (bs.take r.2)).view = s.view := (congrArg State.view hfirst.only.rest :)
    exact hfirst.trans (ih (bs.drop r.2) _ (hview ▸ hv))

theorem State.within_lanes {h : Here} {f : Nat × LaneBytes → List Byte} (xs : List (Nat × LaneBytes)) (t : State) (hv : t.view ≠ none) :
    Within h.g.id id t (xs.foldl (fun (st : State) e => st.storeRuns (State.viewStore h.g.id) e.2.runs (f e)) t) := by
  induction xs generalizing t with
  | nil => exact Within.refl h.g.id t
  | cons x xs ih =>
    have hfirst := State.within_storeRuns h.g.id x.2.runs (f x) t hv
    have hview : (t.storeRuns (State.viewStore h.g.id) x.2.runs (f x)).view = t.view := (congrArg State.view hfirst.only.rest :)
    exact hfirst.trans (ih _ (hview ▸ hv))

theorem State.reached_runs {s : State} {h : Here} {a : VReg} {sp : Space} {store : Bool} {n l : Nat} (hn : n = 1 ∨ n = 2 ∨ n = 4 ∨ n = 8 ∨ n = 16) :
    ∀ r ∈ (s.reached h a sp store n l).runs, r.2 < 64 := by
  intro r hr
  unfold State.reached at hr
  split at hr
  · next b hb =>
    have := (State.laneBytes_keys hb (by omega)).2 r hr
    omega
  · contradiction

/-- The parts of a store that is put off. -/
def State.lateStores (s : State) (h : Here) (d a : VReg) (sp : Space) (n : Nat) (act : Word) : List Late :=
  (lanesOf act).flatMap fun l => (runBytes (s.reached h a sp true n l).runs (toBytes n (h.a.lane d.toNat ((n + 3) / 4) l))).map fun r => Late.store r.1 r.2

/-- The lanes' stores performed as the instruction issues. -/
def State.storeNow (s w : State) (h : Here) (d a : VReg) (sp : Space) (n : Nat) (act : Word) : State :=
  ((lanesOf act).map fun l => (l, s.reached h a sp true n l)).foldl
    (fun (st : State) e => st.storeRuns (State.viewStore h.g.id) e.2.runs (h.storeBytes d.toNat n e.1)) w

/-- What a store that is sound does, behind its retirement. -/
theorem storePlan_act {s : State} {h : Here} (here : s.here = some h) {i : Instr} {g : Guard} {d a : VReg} {n : Nat} {o : MemOrder} {sp : Space}
    (ok : s.lanesOk h g a sp true n) : ∃ w, Within h.g.id id (s.retire h i (storePlan g d a n o sp)) w ∧ w.byte = s.byte ∧ w.view = s.view ∧
      Within h.g.id (fun r => r.raise (h.p.counter (.ka true))
        { path := pathOf sp, lanes := h.p.m, late := if s.putsOff h o sp true (h.active g) then s.lateStores h d a sp n (h.active g) else []
          done := h.active g == 0 })
        (if s.putsOff h o sp true (h.active g) then w else s.storeNow w h d a sp n (h.active g))
        ((storePlan g d a n o sp).act h (s.retire h i (storePlan g d a n o sp))) := by
  obtain ⟨v, hv, hidle⟩ := State.retire_idle here ok.2.2 i (storePlan g d a n o sp)
  have hxs := ok.lanes (s.reachesLanes_groups (s.retire h i (storePlan g d a n o sp)).groups)
  change laneOk ((s.retire h i (storePlan g d a n o sp)).laneAll h g a sp true n) = _ at hxs
  refine ⟨(s.retire h i (storePlan g d a n o sp)).keepPriv h.g.id sp ((lanesOf (h.active g)).map fun l => (l, s.reached h a sp true n l)),
    State.within_keepPriv .., rfl, rfl, ?_⟩
  have hoff : ((s.retire h i (storePlan g d a n o sp)).keepPriv h.g.id sp ((lanesOf (h.active g)).map fun l => (l, s.reached h a sp true n l))).putsOff h o sp
      true (h.active g) = s.putsOff h o sp true (h.active g) := rfl
  revert hv hxs hoff
  generalize s.retire h i (storePlan g d a n o sp) = w
  intro hv hxs hoff
  unfold storePlan
  dsimp only
  rw [hxs, State.settleLate_idle hv hidle, hoff, List.flatMap_map]
  exact (State.within_onArch _ _ _).after (State.within_countPasses ..)

theorem completes_store {i : Instr} {g : Guard} {d a : VReg} {n : Nat} {o : MemOrder} {sp : Space}
    (hn : n = 1 ∨ n = 2 ∨ n = 4 ∨ n = 8 ∨ n = 16) (he : ∀ s, exec i s = run i (storePlan g d a n o sp) s) :
    Completes i (storeEffect i g d a n o sp) := by
  refine completes_of_plan he ⟨rfl, rfl, rfl⟩ (fun s h here ok => ?_) fun s h here ok t acc => ?_
  · obtain ⟨hstall, hlanes⟩ := ok
    exact ⟨by
      change (memStall o h || s.privHeld h g a sp n) = false
      rw [hstall, hlanes.2.1]; rfl, rfl, hlanes.noFault, rfl, hlanes.noLoss⟩
  · obtain ⟨w, hw, hbyte, hview, hact⟩ := storePlan_act here ok.2 (i := i) (d := d) (o := o)
    unfold storeEffect
    dsimp only
    cases hoff : s.putsOff h o sp true (h.active g) with
    | true =>
      rw [hoff, if_pos rfl, if_pos rfl] at hact
      obtain ⟨u, hu, hleaves, honly⟩ := (hw.before hact).leaves here acc
      refine ⟨u, hu, ?_⟩
      rw [if_neg (by simp)]
      exact ⟨hleaves, honly⟩
    | false =>
      rw [hoff, if_neg Bool.false_ne_true, if_neg Bool.false_ne_true] at hact
      cases hv : s.view with
      | none =>
        have hwrites : LaneWrites w (s.storeNow w h d a sp n (h.active g)) h.g.id _ :=
          State.laneWrites_lanes (fun l => State.reached_runs hn) (lanesOf (h.active g)) w (hview.trans hv) h.g.id
        rw [hbyte] at hwrites
        obtain ⟨u, hu, hbytes, hleaves, honly⟩ := (hw.laneWrites.trans hwrites).leaves here hact acc
        exact ⟨u, hu, hbytes, hleaves, honly⟩
      | some k =>
        have hwithin : Within h.g.id id w (s.storeNow w h d a sp n (h.active g)) :=
          State.within_lanes _ w (by rw [hview, hv]; exact Option.some_ne_none k)
        obtain ⟨u, hu, hleaves, honly⟩ := ((hw.trans hwithin).before hact).leaves here acc
        exact ⟨u, hu, hleaves, honly⟩

/-- Settles O10: an access that is sound has no fault and no loss, nothing that was put off is performed before it, and its lanes' bytes are those
of the state before the instruction. -/
theorem loadsAndStores : Obligations.LoadsAndStores := by
  intro i e h
  unfold laneMemEffect at h
  split at h
  · cases h; exact completes_load (by decide) fun _ => rfl
  · cases h; exact completes_load (by decide) fun _ => rfl
  · cases h; exact completes_load (by decide) fun _ => rfl
  · cases h; exact completes_load (by decide) fun _ => rfl
  · cases h; exact completes_load (by decide) fun _ => rfl
  · cases h; exact completes_load (by decide) fun _ => rfl
  · cases h; exact completes_load (by decide) fun _ => rfl
  · cases h; exact completes_store (by decide) fun _ => rfl
  · cases h; exact completes_store (by decide) fun _ => rfl
  · cases h; exact completes_store (by decide) fun _ => rfl
  · cases h; exact completes_store (by decide) fun _ => rfl
  · cases h; exact completes_store (by decide) fun _ => rfl
  · contradiction

/-! ### Lane atomics (R123, R200) -/

theorem State.viewBytes_none (s : State) (b : LaneBytes) : s.viewBytes none b = (keysOf b.runs).map s.byte := by
  unfold State.viewBytes keysOf
  rw [List.map_flatMap]
  refine List.flatMap_congr fun r _ => ?_
  rw [List.map_map]
  rfl

/-- The words of an old value. -/
theorem loadWords_toBytes {k : Nat} (hk : k = 1 ∨ k = 2) (d l x : Nat) :
    loadWords d (4 * k) false l (toBytes (4 * k) x) = (List.range k).map fun j => (d + j, l, BitVec.ofNat 32 (x / 2 ^ (32 * j))) := by
  unfold loadWords
  rw [if_neg (by omega), Nat.mul_div_cancel_left k (by decide)]
  refine List.map_congr_left fun j hj => ?_
  have hj := List.mem_range.mp hj
  rw [fieldOf_word, ofBytes_toBytes]
  refine congrArg (fun w => (d + j, l, w)) (BitVec.eq_of_toNat_eq ?_)
  rw [BitVec.toNat_ofNat, BitVec.toNat_ofNat]
  obtain rfl | rfl := hk
  · obtain rfl : j = 0 := by omega
    omega
  · obtain rfl | rfl : j = 0 ∨ j = 1 := by omega
    · omega
    · omega

/-- One lane's read-modify-write. -/
def atomicLane (op : AtomicOp) (t : Ty) (h : Here) (b c : VReg) (acc : State × List (Nat × Nat)) (e : Nat × LaneBytes) : State × List (Nat × Nat) :=
  let old := ofBytes (acc.1.viewBytes none e.2)
  (acc.1.storeRuns State.store e.2.runs (toBytes (4 * t.regs) (op.eval t old (h.a.lane b.toNat t.regs e.1) (h.a.lane c.toNat t.regs e.1))),
    acc.2 ++ [(e.1, old)])

theorem atomicLanes_eq (op : AtomicOp) (t : Ty) (h : Here) (b c : VReg) (s : State) (xs : List (Nat × LaneBytes)) :
    atomicLanes op t h b c s xs = xs.foldl (atomicLane op t h b c) (s, []) := rfl

/-- The result of a lane's operation on an old value. -/
def Here.atomicNew (h : Here) (op : AtomicOp) (t : Ty) (b c : VReg) (l old : Nat) : Nat :=
  op.eval t old (h.a.lane b.toNat t.regs l) (h.a.lane c.toNat t.regs l)

/-- The keys that a lane reaches, in order. -/
def State.reachedKeys (s : State) (h : Here) (a : VReg) (sp : Space) (n l : Nat) : List Nat := keysOf (s.reached h a sp true n l).runs

theorem atomicLane_eq (s : State) (h : Here) (a : VReg) (sp : Space) (op : AtomicOp) (t : Ty) (b c : VReg) (w : State) (acc : List (Nat × Nat)) (l : Nat) :
    atomicLane op t h b c (w, acc) (l, s.reached h a sp true (4 * t.regs) l) =
      (w.storeRuns State.store (s.reached h a sp true (4 * t.regs) l).runs (toBytes (4 * t.regs)
          (h.atomicNew op t b c l (ofBytes ((s.reachedKeys h a sp (4 * t.regs) l).map w.byte)))),
        acc ++ [(l, ofBytes ((s.reachedKeys h a sp (4 * t.regs) l).map w.byte))]) := by
  unfold atomicLane
  dsimp only
  rw [w.viewBytes_none]
  rfl

/-- The lanes' read-modify-writes, one after the other. -/
theorem atomicLanes_writes {s : State} {h : Here} {a : VReg} {sp : Space} {op : AtomicOp} {t : Ty} {b c : VReg}
    (ls : List Nat) (hkeys : ∀ l ∈ ls, (s.reachedKeys h a sp (4 * t.regs) l).length = 4 * t.regs)
    (hr : ∀ l, ∀ r ∈ (s.reached h a sp true (4 * t.regs) l).runs, r.2 < 64) (w : State) (hv : w.view = none) (grp : Nat) (acc : List (Nat × Nat)) :
    let r := atomicSteps (h.atomicNew op t b c) (s.reachedKeys h a sp (4 * t.regs)) w.byte ls
    let x := (ls.map fun l => (l, s.reached h a sp true (4 * t.regs) l)).foldl (atomicLane op t h b c) (w, acc)
    LaneWrites w x.1 grp r.1 ∧ x.2 = acc ++ r.2 := by
  induction ls generalizing w acc with
  | nil => exact ⟨LaneWrites.refl w grp, (List.append_nil acc).symm⟩
  | cons l ls ih =>
    have hlane := w.laneWrites_storeRuns (put := State.store) (fun _ _ _ _ => rfl) grp (s.reached h a sp true (4 * t.regs) l).runs
      (toBytes (4 * t.regs) (h.atomicNew op t b c l (ofBytes ((s.reachedKeys h a sp (4 * t.regs) l).map w.byte)))) hv (hr l)
    obtain ⟨hrest, holds⟩ := ih (fun l hl => hkeys l (List.mem_cons_of_mem _ hl)) _ (hlane.view.trans hv)
      (acc ++ [(l, ofBytes ((s.reachedKeys h a sp (4 * t.regs) l).map w.byte))])
    rw [hlane.byte_eq] at hrest holds
    rw [List.map_cons, List.foldl_cons, atomicLane_eq]
    unfold atomicSteps
    dsimp only
    rw [hkeys l List.mem_cons_self]
    refine ⟨hlane.trans hrest, holds.trans ?_⟩
    rw [List.append_assoc]
    rfl

/-- The values that an atomic returns to its registers. -/
def atomicData (d : VReg) (t : Ty) (olds : List (Nat × Nat)) : List (Nat × Nat × Word) :=
  olds.flatMap fun e => (List.range t.regs).map fun j => (d.toNat + j, e.1, BitVec.ofNat 32 (e.2 / 2 ^ (32 * j)))

theorem atomicData_eq (d : VReg) (t : Ty) (olds : List (Nat × Nat)) :
    (olds.flatMap fun e => loadWords d.toNat (4 * t.regs) false e.1 (toBytes (4 * t.regs) e.2)) = atomicData d t olds :=
  List.flatMap_congr fun e _ => loadWords_toBytes (regs_cases t) d.toNat e.1 e.2

/-- What a lane atomic tracks. -/
def atomicFlight (s : State) (h : Here) (op : AtomicOp) (g : Guard) (d a b c : VReg) (t : Ty) (o : MemOrder) (sp : Space) (ret off : Bool)
    (olds : List (Nat × Nat)) : Flight :=
  { path := pathOf sp, dests := if ret then regsFrom .v d.toNat t.regs else []
    data := if ret && !off then atomicData d t olds else []
    late := if off then (lanesOf (h.active g)).map fun l =>
      .rmw l d.toNat ret op t (h.a.lane b.toNat t.regs l) (h.a.lane c.toNat t.regs l) (s.reached h a sp true (4 * t.regs) l).runs else []
    acq := acquires o (h.active g)
    lanes := h.p.m
    done := h.active g == 0 }

/-- What an atomic that is sound does, behind its retirement. -/
theorem atomicPlan_act {s : State} {h : Here} (here : s.here = some h) {i : Instr} {op : AtomicOp} {g : Guard} {d a b c : VReg} {t : Ty} {o : MemOrder}
    {sp : Space} {ret : Bool} (hview : s.view = none) (ok : s.lanesOk h g a sp true (4 * t.regs)) :
    let r := atomicSteps (h.atomicNew op t b c) (s.reachedKeys h a sp (4 * t.regs)) s.byte (lanesOf (h.active g))
    let off := s.putsOff h o sp false (h.active g)
    ∃ x, LaneWrites (s.retire h i (atomicPlan op g d a b c t o sp ret)) x h.g.id (if off then s.byte else r.1) ∧
      Within h.g.id (fun q => q.raise (h.p.counter (.ka false)) (atomicFlight s h op g d a b c t o sp ret off r.2)) x
        ((atomicPlan op g d a b c t o sp ret).act h (s.retire h i (atomicPlan op g d a b c t o sp ret))) := by
  extract_lets r off
  obtain ⟨v, hv, hidle⟩ := State.retire_idle here ok.2.2 i (atomicPlan op g d a b c t o sp ret)
  have hxs := ok.lanes (s.reachesLanes_groups (s.retire h i (atomicPlan op g d a b c t o sp ret)).groups)
  change laneOk ((s.retire h i (atomicPlan op g d a b c t o sp ret)).laneAll h g a sp true (4 * t.regs)) = _ at hxs
  have hkeep := (s.retire h i (atomicPlan op g d a b c t o sp ret)).within_keepPriv h.g.id sp
    ((lanesOf (h.active g)).map fun l => (l, s.reached h a sp true (4 * t.regs) l))
  have hoff : ((s.retire h i (atomicPlan op g d a b c t o sp ret)).keepPriv h.g.id sp
    ((lanesOf (h.active g)).map fun l => (l, s.reached h a sp true (4 * t.regs) l))).putsOff h o sp false (h.active g) = off := rfl
  have hbyte : ((s.retire h i (atomicPlan op g d a b c t o sp ret)).keepPriv h.g.id sp
    ((lanesOf (h.active g)).map fun l => (l, s.reached h a sp true (4 * t.regs) l))).byte = s.byte := rfl
  have hnone : ((s.retire h i (atomicPlan op g d a b c t o sp ret)).keepPriv h.g.id sp
    ((lanesOf (h.active g)).map fun l => (l, s.reached h a sp true (4 * t.regs) l))).view = none := hview
  have hbyte' : (s.retire h i (atomicPlan op g d a b c t o sp ret)).byte = s.byte := rfl
  unfold atomicPlan at *
  dsimp only at *
  rw [hxs, State.settleLate_idle hv hidle, hoff]
  clear_value off
  generalize hw : State.keepPriv _ h.g.id sp _ = w at *
  obtain ⟨hwrites, holds⟩ := atomicLanes_writes (op := op) (b := b) (c := c) (lanesOf (h.active g)) (fun l hl => (State.laneBytes_keys (ok.bytes hl).1
    (.inr (by omega))).1) (fun l => State.reached_runs (by have := regs_cases t; omega)) w hnone h.g.id []
  rw [hbyte] at hwrites holds
  cases off with
  | true =>
    refine ⟨w, hbyte' ▸ hkeep.laneWrites, ?_⟩
    rw [if_pos rfl]
    dsimp only
    rw [if_pos rfl, List.map_map, List.map_map]
    cases ret with
    | false => exact (State.within_onArch _ _ _).after (State.within_countPasses ..)
    | true => exact (State.within_onArch _ _ _).after (State.within_countPasses ..)
  | false =>
    refine ⟨_, hkeep.laneWrites.trans hwrites, ?_⟩
    rw [if_neg Bool.false_ne_true, atomicLanes_eq]
    rw [List.nil_append] at holds
    generalize List.foldl (atomicLane op t h b c) (w, []) _ = x at holds ⊢
    obtain ⟨x, olds⟩ := x
    obtain rfl : olds = r.2 := holds
    dsimp only
    rw [if_neg Bool.false_ne_true, List.map_map, atomicData_eq]
    cases ret with
    | false => exact (State.within_onArch _ _ _).after (State.within_countPasses ..)
    | true => exact (State.within_onArch _ _ _).after (State.within_countPasses ..)

theorem completes_atomic {i : Instr} {op : AtomicOp} {g : Guard} {d a b c : VReg} {t : Ty} {o : MemOrder} {sp : Space} {ret : Bool}
    (he : ∀ s, exec i s = run i (atomicPlan op g d a b c t o sp ret) s) : Completes i (atomicEffect i op g d a b c t o sp ret) := by
  refine completes_of_plan he ⟨rfl, rfl, rfl⟩ (fun s h here ok => ?_) fun s h here ok u acc => ?_
  · obtain ⟨-, hstall, hlanes⟩ := ok
    exact ⟨by
      change (memStall o h || s.privHeld h g a sp (4 * t.regs)) = false
      rw [hstall, hlanes.2.1]; rfl, rfl, hlanes.noFault, rfl, hlanes.noLoss⟩
  · obtain ⟨hview, -, hlanes⟩ := ok
    obtain ⟨x, hwrites, hact⟩ := atomicPlan_act here hview hlanes (i := i) (op := op) (d := d) (b := b) (c := c) (o := o) (ret := ret)
    obtain ⟨v, hv, hbytes, hleaves, honly⟩ := hwrites.leaves here hact acc
    refine ⟨v, hv, fun q => (hbytes q).trans ?_, hleaves, honly⟩
    split
    · rfl
    · rfl

/-- Settles O11: the lanes' steps run over memory as `atomicSteps` does, and the values that they return are the old ones, word by word. -/
theorem laneAtomics : Obligations.LaneAtomics := by
  intro i e h
  unfold laneAtomicEffect at h
  split at h
  · cases h; exact completes_atomic fun _ => rfl
  · cases h; exact completes_atomic fun _ => rfl
  · cases h; exact completes_atomic fun _ => rfl
  · cases h; exact completes_atomic fun _ => rfl
  · cases h; exact completes_atomic fun _ => rfl
  · cases h; exact completes_atomic fun _ => rfl
  · cases h; exact completes_atomic fun _ => rfl
  · cases h; exact completes_atomic fun _ => rfl
  · contradiction

end Sys2Proof.Machine
end

section
/-!
SUPPORT. RIGHTS in lost data (R338, R388).
-/
namespace Sys2Proof.Machine

/-! ### RIGHTS in lost data (R338, R388) -/

/-- A group about to write PERFCTL, without a right in its context's record, whose granule is lost. -/
def rightless : State := { Sys2Proof.Tests.entitled (.sysWr 26 16) 0 with lost := [0] }

/-- The grids of the state that an outcome gives, as far as they have come. -/
def gridsAfter (o : Host.Outcome State Fault Refusal) : List GridState := match o with | .next t => t.grids.map (·.st) | _ => []

/-- The instruction is clear to issue and its context has no right; what it takes leaves its grid as it is, where PRIVILEGE would end it. -/
theorem rightless_facts : ∃ c : Sys2Proof.Tests.clearB rightless (.sysWr 26 16) (srcS 26) .nothing = true,
    let h := rightless.here.get (Sys2Proof.Tests.here_of_clearB c)
    rightless.rightPERF (rightless.hereCtx h) = false ∧ gridsAfter (exec (.sysWr 26 16) rightless) = [.draining] ∧
      (rightless.raise h.g h.slot h.p.pc (Instr.sysWr 26 16).first { kind := .privilege }).grids.map (·.st) = [.failed] := by
  decide +kernel

/-- Refutes O49: where the granule of a context's record with RIGHTS is lost, the check of a system instruction meets the loss (R388), and the fault is
UNCORRECTABLE, whatever the bits that are lost. -/
theorem not_accessFaults : ¬ Obligations.AccessFaults := by
  intro claim
  obtain ⟨c, hright, hloss, hnone⟩ := rightless_facts
  have htakes := claim.2.2.1 26 16 rightless _ (Sys2Proof.Tests.clear_of c) hright
  have hsame := (congrArg gridsAfter htakes).symm.trans hloss
  exact absurd (hnone.symm.trans hsame) (by decide)

end Sys2Proof.Machine
end

section
/-!
SUPPORT. Engine threads: descriptors, copies, gathers, scatters, bulk atomics and completion (R144, R203-R213).
-/
namespace Sys2Proof.Machine

/-! ### Places that a thread writes (R203, R215) -/

theorem keysOf_cons (k n : Nat) (runs : List (Nat × Nat)) : keysOf ((k, n) :: runs) = ((List.range n).map fun j => k + j) ++ keysOf runs := rfl

/-- Runs of keys given bytes, where each run's bytes are put at its keys. -/
theorem State.stores_storeRuns {put : State → Nat → List Byte → State} (runs : List (Nat × Nat))
    (hput : ∀ (t : State) (r : Nat × Nat) (bs : List Byte), r ∈ runs → bs.length ≤ r.2 →
      Stores t (put t r.1 bs) (putAt t.byte ((List.range bs.length).map fun j => r.1 + j) bs))
    (bs : List Byte) (s : State) : Stores s (s.storeRuns put runs bs) (putAt s.byte (keysOf runs) bs) := by
  induction runs generalizing s bs with
  | nil => exact Stores.refl s
  | cons r runs ih =>
    obtain ⟨k, n⟩ := r
    have hfirst := hput s (k, n) (bs.take n) List.mem_cons_self (List.length_take_le ..)
    unfold State.storeRuns
    refine (hfirst.trans (ih (fun t r bs h => hput t r bs (List.mem_cons_of_mem _ h)) (bs.drop n) _)).congr fun q => congrFun ?_ q
    rw [funext hfirst.bytes, keysOf_cons, putAt_append_keys, List.length_map, List.length_range,
      ← putAt_take s.byte ((List.range n).map fun j => k + j), ← List.map_take, List.take_range, List.length_take, Nat.min_eq_left (Nat.min_le_left ..)]

/-- A place of a team whose memory still takes a write: in team memory, within its bytes. -/
def Team.takes (tm : Team) (sp : Nat) (p : Place) : Prop :=
  sp = 0 → tm.st = .resident ∧ ∀ r ∈ p.runs, ∃ a, r.1 = teamKey tm.id a ∧ a + r.2 ≤ tm.tmem

theorem State.stores_putPlace (s : State) {tm : Team} {sp : Nat} {p : Place} (h : tm.takes sp p) (bs : List Byte) :
    Stores s (s.putPlace tm sp p bs) (putAt s.byte (keysOf p.runs) bs) := by
  unfold State.putPlace
  refine State.stores_storeRuns p.runs (fun t r bs hr hlen => ?_) bs s
  by_cases hsp : sp = 0
  · obtain ⟨hst, hruns⟩ := h hsp
    obtain ⟨a, hk, ha⟩ := hruns r hr
    have h0 : teamKey tm.id a = teamKey tm.id 0 + a := by rw [← teamKey_add, Nat.zero_add]
    have h1 : teamKey tm.id tm.tmem = teamKey tm.id 0 + tm.tmem := by rw [← teamKey_add, Nat.zero_add]
    have hw : t.teamWindow tm = (teamKey tm.id 0, teamKey tm.id tm.tmem) := by
      unfold State.teamWindow
      rw [hst]
    rw [if_pos hsp, hw]
    dsimp only
    rw [hk, List.take_of_length_le (by omega), show teamKey tm.id 0 - teamKey tm.id a = 0 by omega, List.drop_zero, Nat.max_eq_left (by omega)]
    split
    · next hb =>
      subst hb
      exact Stores.refl t
    · exact t.stores_store _ bs
  · rw [if_neg hsp]
    exact t.stores_store _ bs

theorem State.place_of_writeAt {s : State} {x : Thread} {tm : Team} {sp : Nat} {a : Int} {n : Nat} {whole : Bool} {p : Place}
    (h : s.writeAt x tm sp a n whole = .ok p) : s.place x tm sp .write a.toNat n = .ok p := by
  unfold State.writeAt at h
  split at h
  · cases h
  · split at h
    · cases h
    · next q hq =>
      split at h
      · cases h
      · rwa [← Except.ok.inj h]

theorem State.place_zero {s : State} {x : Thread} {tm : Team} {k : AccKind} {a n : Nat} {p : Place} (h : s.place x tm 0 k a n = .ok p) :
    p = ⟨[(teamKey tm.id a, n)], [0]⟩ ∧ a + n ≤ tm.tmem := by
  have hn : a + n ≤ tm.tmem := by
    refine Nat.not_lt.mp fun hlt => ?_
    have hk : teamMemKey tm a n = none := if_pos hlt
    unfold State.place at h
    simp only [hk] at h
    cases h
  exact ⟨(Except.ok.inj ((s.place_team x k hn).symm.trans h)).symm, hn⟩

/-- A place that a write finds takes it, where the team is resident or the place lies elsewhere. -/
theorem State.takes_of_writeAt {s : State} {x : Thread} {tm : Team} {sp : Nat} {a : Int} {n : Nat} {whole : Bool} {p : Place}
    (h : s.writeAt x tm sp a n whole = .ok p) (hst : sp = 0 → tm.st = .resident) : tm.takes sp p := by
  intro hsp
  subst hsp
  obtain ⟨rfl, hn⟩ := State.place_zero (State.place_of_writeAt h)
  refine ⟨hst rfl, fun r hr => ?_⟩
  obtain rfl := List.mem_singleton.mp hr
  exact ⟨_, rfl, hn⟩

/-! ### Threads that have moved elements (R205-R209, R323) -/

theorem Stores.threads {s t : State} {m : Nat → Byte} (h : Stores s t m) : t.threads = s.threads := (congrArg State.threads h.rest :)
theorem Stores.slots {s t : State} {m : Nat → Byte} (h : Stores s t m) : t.grids = s.grids := (congrArg State.grids h.rest :)

theorem State.moved_threads (s : State) (x : Thread) (n k : Nat) :
    (s.moved x n k).threads = s.threads.map fun u => if u.id = x.id then { u with idx := x.idx + k } else u := by
  unfold State.moved
  rw [State.onThread_eq_map]
  rfl

/-- Elements moved, and the thread's words behind them. -/
theorem State.moved_ahead_threads (s : State) (x : Thread) (n k : Nat) (r : List Byte) :
    ((s.moved x n k).onThread x.id fun u => { u with ahead := r }).threads =
      s.threads.map fun u => if u.id = x.id then { u with idx := x.idx + k, ahead := r } else u := by
  rw [State.onThread_eq_map]
  dsimp only
  rw [State.moved_threads, List.map_map]
  refine List.map_congr_left fun u _ => ?_
  by_cases hu : u.id = x.id
  · simp [hu]
  · simp [hu]

/-- What a thread has moved counts for its team, and changes nothing else but the thread. -/
theorem Stores.moved {s t : State} {m : Nat → Byte} (h : Stores s t m) (x : Thread) (n k : Nat) :
    Stores s { t.moved x n k with threads := s.threads } m where
  bytes := h.bytes
  rest := (congrArg (fun z : State => { z with threads := s.threads }) h.rest :)
  groups := h.groups
  teams := by
    refine Eq.trans ?_ h.teams
    unfold State.moved State.onTeam mapIf
    dsimp only
    rw [List.map_map]
    refine List.map_congr_left fun y _ => ?_
    by_cases hy : (y.id == x.team) = true
    · simp only [Function.comp, hy, if_true]
      rfl
    · simp only [Function.comp, hy]
      rfl
  cores := h.cores

theorem Stores.losing {s t : State} {m : Nat → Byte} (h : Stores s t m) (l : List Nat) : Stores s { t with lost := l } m :=
  ⟨h.bytes, h.rest, h.groups, h.teams, h.cores⟩

/-! ### Descriptors that are read (R211) -/

/-- A thread with its descriptor read. -/
def Thread.started (b : List Byte) (u : Thread) : Thread := { u with st := .running, desc := b, idx := 0 }

/-- A thread that runs with its descriptor, and has joined its collective. -/
def State.starts (s : State) (tid : Nat) (x : Thread) (b : List Byte) : State :=
  let t := s.draw.onThread tid (Thread.started b)
  match x.kind with
  | .coll _ _ => t.onFe fun f => f.join tid (fieldOf b 0x14 2)
  | _ => t

theorem State.starts_threads (s : State) (tid : Nat) (x : Thread) (b : List Byte) :
    (s.starts tid x b).threads = s.threads.map fun u => if u.id = tid then u.started b else u := by
  have hmap : (s.draw.onThread tid (Thread.started b)).threads = s.threads.map fun u => if u.id = tid then u.started b else u := by
    rw [State.onThread_eq_map]
    rfl
  unfold State.starts
  dsimp only
  split
  · exact hmap
  · exact hmap

theorem State.starts_rest (s : State) (tid : Nat) (x : Thread) (b : List Byte) :
    { s.starts tid x b with
      threads := s.threads, free := s.free, fe := { (s.starts tid x b).fe with joins := s.fe.joins, instances := s.fe.instances } } = s := by
  unfold State.starts
  dsimp only
  split
  · rfl
  · rfl

/-- Bulk threads leave the front end as it is. -/
theorem State.starts_fe (s : State) (tid : Nat) {x : Thread} (b : List Byte) (hk : x.kind.bulk = true) : (s.starts tid x b).fe = s.fe := by
  unfold State.starts
  split
  · next h =>
    rw [h] at hk
    cases hk
  · rfl

theorem execEngineDescriptorRead_of {s : State} {tid : Nat} {x : Thread} {tm : Team} (hm : s.moving tid ThreadKind.described .fresh = some (x, tm))
    (hlost : s.isLost (teamKey x.team x.off) 64 = false)
    (hf : s.descFault tm x.ctx x.kind x.off (s.threadTeam tm (teamKey x.team x.off) 64) = none) :
    exec (.engineDescriptorRead tid) s = .next (s.starts tid x (s.threadTeam tm (teamKey x.team x.off) 64)) := by
  change execEngineDescriptorRead tid s = _
  unfold execEngineDescriptorRead State.starts
  simp only [hm, hlost, hf, Bool.false_eq_true, if_false]
  cases x.kind <;> rfl

theorem engineSteps_descriptor (tid : Nat) : Steps (.engineDescriptorRead tid)
    (fun s => ∃ x tm, s.moving tid ThreadKind.described .fresh = some (x, tm) ∧ s.isLost (teamKey x.team x.off) 64 = false ∧
      s.descFault tm x.ctx x.kind x.off (s.threadTeam tm (teamKey x.team x.off) 64) = none)
    fun s t => ∃ x tm, s.moving tid ThreadKind.described .fresh = some (x, tm) ∧
      t.threads = s.threads.map (fun u =>
        if u.id = tid then { u with st := .running, desc := s.threadTeam tm (teamKey x.team x.off) 64, idx := 0 } else u) ∧
      { t with threads := s.threads, free := s.free, fe := { t.fe with joins := s.fe.joins, instances := s.fe.instances } } = s ∧
      (x.kind.bulk = true → t.fe = s.fe) := by
  rintro s ⟨x, tm, hm, hlost, hf⟩
  exact ⟨_, execEngineDescriptorRead_of hm hlost hf, x, tm, hm, s.starts_threads tid x _, s.starts_rest tid x _, s.starts_fe tid _⟩

/-! ### Completion (R210) -/

/-- A group whose tracked instruction of that number has completed, where there is one. -/
def Group.lowered (g : Group) (seq : Option Nat) : Group :=
  match seq with
  | none => g
  | some n => g.completed n

/-- A thread that is no orphan ends: it is no more, and its group has its instruction completed. -/
theorem State.endThread_eq (s : State) {x : Thread} (ho : x.orphan = false) :
    s.endThread x =
      { s with threads := s.threads.filter (·.id != x.id), groups := s.groups.map fun g => if g.id = x.grp then g.lowered x.seq else g } := by
  unfold State.endThread
  rw [ho]
  unfold State.complete
  cases hseq : x.seq with
  | none =>
    have hid : (s.groups.map fun g => if g.id = x.grp then g.lowered none else g) = s.groups :=
      (List.map_congr_left fun g _ => ite_self g).trans (List.map_id s.groups)
    rw [hid]
    rfl
  | some n =>
    have hmap := mapIf_eq_ite s.groups Group.id x.grp fun g => g.completed n
    exact (congrArg (fun l => ({ s with threads := s.threads.filter (·.id != x.id), groups := l } : State)) hmap :)

theorem unwritten_trans {s t u : State} (h : t.unwritten s = s) (k : u.unwritten t = t) : u.unwritten s = s :=
  (congrArg (fun x : State => x.unwritten s) k :).trans h

/-- A write to a place leaves what write events leave. -/
theorem State.putPlace_unwritten (s : State) (tm : Team) (sp : Nat) (p : Place) (bs : List Byte) : (s.putPlace tm sp p bs).unwritten s = s := by
  unfold State.putPlace
  generalize p.runs = runs
  induction runs generalizing s bs with
  | nil => rfl
  | cons r runs ih =>
    unfold State.storeRuns
    refine unwritten_trans ?_ (ih ..)
    split
    · dsimp only
      split
      · rfl
      · exact (State.writeEvent_store ..).rest
    · exact (State.writeEvent_store ..).rest

/-- What an ended thread changes, where no more than memory was written before. -/
theorem State.endThread_unwritten {s w : State} (hw : w.unwritten s = s) {x : Thread} (ho : x.orphan = false) :
    (w.endThread x).threads = s.threads.filter (·.id != x.id) ∧ { (w.endThread x).unwritten s with threads := s.threads } = s := by
  rw [w.endThread_eq ho]
  exact ⟨congrArg (List.filter fun u : Thread => u.id != x.id) (congrArg State.threads hw :), (congrArg (fun z : State => { z with threads := s.threads }) hw :)⟩

theorem engineSteps_completion (tid : Nat) : Steps (.engineCompletion tid)
    (fun s => ∃ x tm, s.moving tid ThreadKind.described .running = some (x, tm) ∧ x.total ≤ x.idx ∧ x.orphan = false ∧
      (descCwe x.desc = true → descCws x.desc ≠ 1 → s.threadHeld x 2 (descCwa x.desc) 8 = false) ∧
      (descCwe x.desc = true → ∃ p, s.writeAt x tm (if descCws x.desc = 1 then 1 else 2) (descCwa x.desc) 8 = .ok p))
    fun s t => ∃ x tm, s.moving tid ThreadKind.described .running = some (x, tm) ∧ t.threads = s.threads.filter (·.id != x.id) ∧
      (descCwe x.desc = false → GroupTurns s { t with threads := s.threads } x.grp fun g => g.lowered x.seq) ∧
      ∀ p, descCwe x.desc = true → s.writeAt x tm (if descCws x.desc = 1 then 1 else 2) (descCwa x.desc) 8 = .ok p →
        (∀ k, t.byte k = putAt s.byte (keysOf p.runs) (toBytes 8 (descCwv x.desc)) k) ∧
        { t with mem := s.mem, lost := s.lost, cache := s.cache, groups := s.groups, teams := s.teams, dies := s.dies, cores := s.cores,
                 threads := s.threads, losses := s.losses } = s := by
  rintro s ⟨x, tm, hm, hdone, ho, hheld, hword⟩
  have hnot : ¬ x.idx < x.total := Nat.not_lt.mpr hdone
  change ∃ t, execEngineCompletion tid s = _ ∧ _
  unfold execEngineCompletion
  cases hc : descCwe x.desc with
  | false =>
    refine ⟨s.endThread x, by simp [hm, hnot, ho, hc], x, tm, hm, ?_⟩
    rw [State.endThread_eq s ho]
    exact ⟨rfl, fun _ => ⟨rfl, rfl⟩, fun p h => absurd h (by simp [hc])⟩
  | true =>
    obtain ⟨p, hp⟩ := hword hc
    have hwait : (descCws x.desc != 1 && s.threadHeld x 2 (descCwa x.desc) 8) = false := by
      by_cases hcws : descCws x.desc = 1
      · simp [hcws]
      · simp [hheld hc hcws]
    refine ⟨(s.putPlace tm (if descCws x.desc = 1 then 1 else 2) p (toBytes 8 (descCwv x.desc))).endThread x, ?_, x, tm, hm, ?_⟩
    · simp only [hm, hnot, ho, hc, hp, hwait, Bool.true_and, Bool.or_false, decide_false, Bool.false_eq_true, if_false, Bool.not_true]
    · have hsp : (if descCws x.desc = 1 then 1 else 2) ≠ 0 := by split <;> decide
      have hst := s.stores_putPlace (State.takes_of_writeAt hp fun h => absurd h hsp) (toBytes 8 (descCwv x.desc))
      obtain ⟨hthreads, hrest⟩ := State.endThread_unwritten (s.putPlace_unwritten tm (if descCws x.desc = 1 then 1 else 2) p (toBytes 8 (descCwv x.desc))) ho
      refine ⟨hthreads, fun h => Bool.noConfusion (hc.symm.trans h), fun q _ hq => ?_⟩
      obtain rfl : p = q := Except.ok.inj (hp.symm.trans hq)
      refine ⟨fun k => ?_, hrest⟩
      rw [State.endThread_eq _ ho]
      exact hst.bytes k

/-! ### Bulk atomics (R209) -/

/-- A resident team's memory reads for a thread as it stands. -/
theorem State.threadTeam_of {s : State} {tm : Team} (h : tm.st = .resident) (k n : Nat) : s.threadTeam tm k n = s.bytes k n := by
  unfold State.threadTeam
  simp [h, State.bytes]

theorem State.placeBytes_eq (s : State) (p : Place) : s.placeBytes p = (keysOf p.runs).map s.byte := by
  unfold State.placeBytes keysOf State.bytes
  rw [List.map_flatMap]
  simp only [List.map_map, Function.comp_def]

theorem State.threadBytes_of {s : State} {tm : Team} (h : tm.st = .resident) (sp : Nat) (p : Place) :
    s.threadBytes tm sp p = (keysOf p.runs).map s.byte := by
  unfold State.threadBytes
  split
  · simp only [State.threadTeam_of h]
    exact s.placeBytes_eq p
  · exact s.placeBytes_eq p

/-- What a bulk atomic makes of an element. -/
def State.bamValue (s : State) (x : Thread) (tm : Team) (op : AtomicOp) (args : List Byte) (p : Place) : List Byte :=
  let e := bamBytes x.desc
  toBytes e (op.eval (bamTy x.desc) (ofBytes (s.threadBytes tm (descCtl x.desc 0 2) p)) (fieldOf args 0 e) (fieldOf args e e))

theorem execBulkAtomicThread_of {s : State} {tid : Nat} {x : Thread} {tm : Team} {op : AtomicOp} {args : List Byte} {p : Place}
    (hm : s.moving tid (fun k => match k with | .bam _ => true | _ => false) .running = some (x, tm)) (hk : x.kind = .bam op)
    (hi : x.idx < x.total) (hret : bamRet x.desc = false)
    (hheld : s.threadHeld x (descCtl x.desc 0 2) (fieldOf x.desc 0 8 + x.idx * bamTstr x.desc) (bamBytes x.desc) = false)
    (hargs : s.readAt x tm 0 (fieldOf x.desc 0x08 4 + x.idx * (if op = .cas then 2 * bamBytes x.desc else bamBytes x.desc) : Nat)
      (if op = .cas then 2 * bamBytes x.desc else bamBytes x.desc) = .ok args)
    (hp : s.writeAt x tm (descCtl x.desc 0 2) (fieldOf x.desc 0 8 + x.idx * bamTstr x.desc) (bamBytes x.desc) = .ok p) :
    exec (.bulkAtomicThread tid) s =
      .next ((s.putPlace tm (descCtl x.desc 0 2) p (s.bamValue x tm op args p)).moved x (bamBytes x.desc)) := by
  change execBulkAtomicThread tid s = _
  unfold execBulkAtomicThread
  split
  · next h => exact absurd (h.symm.trans hm) nofun
  · next y z h =>
    obtain ⟨rfl, rfl⟩ := Prod.mk.inj (Option.some.inj (h.symm.trans hm))
    simp only [hk, Nat.not_le.mpr hi, hheld, hargs, hp, hret, decide_false, Bool.or_false, Bool.false_eq_true, if_false]
    rfl

theorem engineSteps_atomic (tid : Nat) : Steps (.bulkAtomicThread tid)
    (fun s => ∃ x tm op args p, s.moving tid (fun k => match k with | .bam _ => true | _ => false) .running = some (x, tm) ∧
      x.kind = .bam op ∧ x.idx < x.total ∧ tm.st = .resident ∧ bamRet x.desc = false ∧
      let e := bamBytes x.desc
      let w := if op = .cas then 2 * e else e
      s.threadHeld x (descCtl x.desc 0 2) (fieldOf x.desc 0 8 + x.idx * bamTstr x.desc) e = false ∧
      s.readAt x tm 0 (fieldOf x.desc 0x08 4 + x.idx * w : Nat) w = .ok args ∧
      s.writeAt x tm (descCtl x.desc 0 2) (fieldOf x.desc 0 8 + x.idx * bamTstr x.desc) e = .ok p)
    fun s t => ∃ x tm op args p, s.moving tid (fun k => match k with | .bam _ => true | _ => false) .running = some (x, tm) ∧
      x.kind = .bam op ∧
      let e := bamBytes x.desc
      let w := if op = .cas then 2 * e else e
      s.readAt x tm 0 (fieldOf x.desc 0x08 4 + x.idx * w : Nat) w = .ok args ∧
      s.writeAt x tm (descCtl x.desc 0 2) (fieldOf x.desc 0 8 + x.idx * bamTstr x.desc) e = .ok p ∧
      t.threads = s.threads.map (fun u => if u.id = x.id then { u with idx := x.idx + 1 } else u) ∧
      Stores s { t with threads := s.threads } (putAt s.byte (keysOf p.runs) (toBytes e
        (op.eval (bamTy x.desc) (ofBytes ((keysOf p.runs).map s.byte)) (fieldOf args 0 e) (fieldOf args e e)))) := by
  rintro s ⟨x, tm, op, args, p, hm, hk, hi, hst, hret, hheld, hargs, hp⟩
  refine ⟨_, execBulkAtomicThread_of hm hk hi hret hheld hargs hp, x, tm, op, args, p, hm, hk, hargs, hp, ?_⟩
  have hput := s.stores_putPlace (State.takes_of_writeAt hp fun _ => hst) (s.bamValue x tm op args p)
  unfold State.bamValue at hput ⊢
  rw [State.threadBytes_of hst] at hput ⊢
  exact ⟨by rw [State.moved_threads, hput.threads], hput.moved x _ _⟩

/-! ### Copies and fills (R205) -/

/-- A copy's next bytes are those that its step takes. -/
theorem copyBytes_iff (s : State) (x : Thread) (tm : Team) (k : Nat) (bs : List Byte) :
    CopyBytes s x tm k bs ↔ ∃ r, s.copySource x tm k = .ok (bs, r) := by
  unfold CopyBytes State.copySource
  dsimp only
  by_cases hfill : x.kind = .fill
  · simp only [hfill, if_true, Except.ok.injEq, Prod.mk.injEq]
    exact ⟨fun h => ⟨[], h.symm, rfl⟩, fun ⟨_, h, _⟩ => h.symm⟩
  · by_cases hahead : k * copyBytes x.desc ≤ x.ahead.length
    · simp only [hfill, hahead, if_true, if_false, Except.ok.injEq, Prod.mk.injEq]
      exact ⟨fun h => ⟨_, h.symm, rfl⟩, fun ⟨_, h, _⟩ => h.symm⟩
    · simp only [hfill, hahead, if_false]
      split
      · next e he =>
        simp only [he]
        exact ⟨fun ⟨_, h, _⟩ => (nomatch h), fun ⟨_, h⟩ => (nomatch h)⟩
      · next r hr =>
        simp only [hr, Except.ok.injEq, Prod.mk.injEq]
        exact ⟨fun ⟨_, h, hbs⟩ => ⟨_, (hbs.trans (by rw [h])).symm, rfl⟩, fun ⟨_, h, _⟩ => ⟨r, rfl, h.symm⟩⟩

/-- A copy moves its next elements exactly where they are due. -/
theorem copyDue_iff (s : State) (x : Thread) (tm : Team) (bs : List Byte) (p : Place) :
    CopyDue s x tm bs p ↔ s.copyHeld x (copyRun x.desc x.idx) = false ∧ (∃ r, s.copySource x tm (copyRun x.desc x.idx) = .ok (bs, r)) ∧
      s.writeAt x tm (descCtl x.desc 2 2) (copyAt x.desc x.idx).2.1 (copyRun x.desc x.idx * copyBytes x.desc)
        (rowFills (copyAt x.desc x.idx).2.1 (copyAt x.desc x.idx).2.2.1 (copyAt x.desc x.idx).2.2.2) = .ok p := by
  unfold CopyDue State.copyHeld
  dsimp only
  rw [copyBytes_iff]
  by_cases hfill : x.kind = .fill <;> simp [hfill, and_assoc]

/-- A state in which a copy has moved elements: the bytes are at their place, and the thread stands behind them. -/
def CopyMoved (s : State) (x : Thread) (k : Nat) (bs : List Byte) (p : Place) (m : State) : Prop :=
  ∃ r, m.threads = s.threads.map (fun u => if u.id = x.id then { u with idx := x.idx + k, ahead := r } else u) ∧
    Stores s { m with threads := s.threads } (putAt s.byte (keysOf p.runs) bs)

/-- The lost granules that a row's last element fills are lost no longer. -/
def State.filled (s : State) (b : Bool) (p : Place) : State :=
  if b then { s with lost := s.lost.filter fun q => !(p.runs.any fun r => r.1 / 64 == q) } else s

theorem State.copyStep_eq {s : State} {x : Thread} {tm : Team} {k : Nat} {bs r : List Byte} {p : Place} (hs : s.copySource x tm k = .ok (bs, r))
    (hp : s.writeAt x tm (descCtl x.desc 2 2) (copyAt x.desc x.idx).2.1 (k * copyBytes x.desc)
      (rowFills (copyAt x.desc x.idx).2.1 (copyAt x.desc x.idx).2.2.1 (copyAt x.desc x.idx).2.2.2) = .ok p) :
    s.copyStep x tm k = .ok ((((s.putPlace tm (descCtl x.desc 2 2) p bs).filled
      (rowFills (copyAt x.desc x.idx).2.1 (copyAt x.desc x.idx).2.2.1 (copyAt x.desc x.idx).2.2.2 &&
        ((copyAt x.desc x.idx).2.1 + (k * copyBytes x.desc : Nat)) % 64 = 0) p).moved x (k * copyBytes x.desc) k).onThread x.id
          fun u => { u with ahead := r }) := by
  unfold State.copyStep
  rw [hs]
  dsimp only
  rw [hp]
  rfl

theorem State.copyMoved_of {s : State} {x : Thread} {tm : Team} {k : Nat} {bs r : List Byte} {p : Place} (hst : tm.st = .resident)
    (hs : s.copySource x tm k = .ok (bs, r))
    (hp : s.writeAt x tm (descCtl x.desc 2 2) (copyAt x.desc x.idx).2.1 (k * copyBytes x.desc)
      (rowFills (copyAt x.desc x.idx).2.1 (copyAt x.desc x.idx).2.2.1 (copyAt x.desc x.idx).2.2.2) = .ok p) :
    ∃ m, s.copyStep x tm k = .ok m ∧ CopyMoved s x k bs p m := by
  refine ⟨_, State.copyStep_eq hs hp, r, ?_⟩
  have hput := s.stores_putPlace (State.takes_of_writeAt hp fun _ => hst) bs
  have hfilled (b : Bool) : Stores s ((s.putPlace tm (descCtl x.desc 2 2) p bs).filled b p) (putAt s.byte (keysOf p.runs) bs) := by
    unfold State.filled
    split
    · exact hput.losing _
    · exact hput
  have h := hfilled (rowFills (copyAt x.desc x.idx).2.1 (copyAt x.desc x.idx).2.2.1 (copyAt x.desc x.idx).2.2.2 &&
    ((copyAt x.desc x.idx).2.1 + (k * copyBytes x.desc : Nat)) % 64 = 0)
  exact ⟨by rw [State.moved_ahead_threads, h.threads], h.moved x _ _⟩

/-! ### A copy's elements of one aligned word (R144, R205, R212) -/

theorem State.copyMoved_of_due {s : State} {x : Thread} {tm : Team} {bs : List Byte} {p : Place} (hst : tm.st = .resident)
    (hd : CopyDue s x tm bs p) :
    s.copyHeld x (copyRun x.desc x.idx) = false ∧ ∃ m, s.copyStep x tm (copyRun x.desc x.idx) = .ok m ∧
      CopyMoved s x (copyRun x.desc x.idx) bs p m := by
  obtain ⟨hheld, ⟨r, hr⟩, hp⟩ := (copyDue_iff s x tm bs p).mp hd
  exact ⟨hheld, State.copyMoved_of hst hr hp⟩

/-- A copy's step that succeeds moves elements that are due. -/
theorem State.copyDue_of_step {s m : State} {x : Thread} {tm : Team} (hst : tm.st = .resident)
    (hheld : s.copyHeld x (copyRun x.desc x.idx) = false) (h : s.copyStep x tm (copyRun x.desc x.idx) = .ok m) :
    ∃ bs p, CopyDue s x tm bs p ∧ CopyMoved s x (copyRun x.desc x.idx) bs p m := by
  cases hs : s.copySource x tm (copyRun x.desc x.idx) with
  | error e =>
    unfold State.copyStep at h
    simp only [hs] at h
    cases h
  | ok b =>
    obtain ⟨bs, r⟩ := b
    cases hp : s.writeAt x tm (descCtl x.desc 2 2) (copyAt x.desc x.idx).2.1 (copyRun x.desc x.idx * copyBytes x.desc)
        (rowFills (copyAt x.desc x.idx).2.1 (copyAt x.desc x.idx).2.2.1 (copyAt x.desc x.idx).2.2.2) with
    | error e =>
      unfold State.copyStep at h
      simp only [hs, hp] at h
      cases h
    | ok p =>
      obtain ⟨m', hm', hmoved⟩ := State.copyMoved_of hst hs hp
      obtain rfl : m' = m := Except.ok.inj (hm'.symm.trans h)
      exact ⟨bs, p, (copyDue_iff s x tm bs p).mpr ⟨hheld, ⟨r, hs⟩, hp⟩, hmoved⟩

theorem CopyMoves.cons {tid : Nat} {tm : Team} {s m t : State} {x : Thread} {bs : List Byte} {p : Place} {n : Nat} {word : Int}
    (hx : s.thread? tid = some x) (hi : x.idx < x.total) (hw : x.copyWord = word) (hd : CopyDue s x tm bs p)
    (hm : CopyMoved s x (copyRun x.desc x.idx) bs p m) (hrest : CopyMoves tid tm word n m t) : CopyMoves tid tm word (n + 1) s t := by
  obtain ⟨r, hthreads, hst⟩ := hm
  rw [State.thread?_id hx] at hthreads
  exact ⟨m, x, bs, p, r, hx, hi, hw, hd, hthreads, hst, hrest⟩

/-- Elements of that word are due for a copy. -/
def WordDue (tid : Nat) (tm : Team) (word : Int) (t : State) : Prop :=
  ∃ y bs p, t.thread? tid = some y ∧ y.idx < y.total ∧ y.copyWord = word ∧ CopyDue t y tm bs p

/-- A copy goes on while elements of the word are due, at most as often as the fuel says. -/
theorem State.copyOn_moves (tid : Nat) {tm : Team} (hst : tm.st = .resident) (word : Int) (fuel : Nat) (s : State) :
    ∃ n, CopyMoves tid tm word n s (s.copyOn tid tm word fuel) ∧ (n = fuel ∨ ¬ WordDue tid tm word (s.copyOn tid tm word fuel)) := by
  induction fuel generalizing s with
  | zero => exact ⟨0, rfl, .inl rfl⟩
  | succ fuel ih =>
    unfold State.copyOn
    split
    · next hnone => exact ⟨0, rfl, .inr fun ⟨y, _, _, hy, _⟩ => nomatch hnone.symm.trans hy⟩
    · next x hx =>
      dsimp only
      split
      · next hstop =>
        refine ⟨0, rfl, .inr fun ⟨y, bs, p, hy, hi, hw, hd⟩ => ?_⟩
        obtain rfl : x = y := Option.some.inj (hx.symm.trans hy)
        simp [Nat.not_le.mpr hi, hw, (State.copyMoved_of_due hst hd).1] at hstop
      · next hgo =>
        simp only [Bool.or_eq_true, decide_eq_true_eq, bne_iff_ne, not_or, ne_eq, not_not, Nat.not_le, Bool.not_eq_true] at hgo
        obtain ⟨⟨hi, hw⟩, hheld⟩ := hgo
        split
        · next u hu =>
          obtain ⟨bs, p, hd, hm⟩ := State.copyDue_of_step hst hheld hu
          obtain ⟨n, hmoves, hend⟩ := ih u
          exact ⟨n + 1, CopyMoves.cons hx hi hw hd hm hmoves, hend.imp_left (congrArg (· + 1))⟩
        · next e he =>
          refine ⟨0, rfl, .inr fun ⟨y, bs, p, hy, _, _, hd⟩ => ?_⟩
          obtain rfl : x = y := Option.some.inj (hx.symm.trans hy)
          obtain ⟨-, m, hm, -⟩ := State.copyMoved_of_due hst hd
          exact nomatch he.symm.trans hm

theorem execCopyThread_of {s m : State} {tid : Nat} {x : Thread} {tm : Team}
    (hm : s.moving tid (fun k => match k with | .copy _ | .fill => true | _ => false) .running = some (x, tm)) (hi : x.idx < x.total)
    (hheld : s.copyHeld x (copyRun x.desc x.idx) = false) (hstep : s.copyStep x tm (copyRun x.desc x.idx) = .ok m) :
    exec (.copyThread tid) s = .next (m.copyOn tid tm x.copyWord 8) := by
  change execCopyThread tid s = _
  unfold execCopyThread
  split
  · next h => exact absurd (h.symm.trans hm) nofun
  · next y z h =>
    obtain ⟨rfl, rfl⟩ := Prod.mk.inj (Option.some.inj (h.symm.trans hm))
    simp only [Nat.not_le.mpr hi, hheld, hstep, decide_false, Bool.or_false, Bool.false_eq_true, if_false]

theorem engineSteps_copy (tid : Nat) : Steps (.copyThread tid)
    (fun s => ∃ x tm bs p, s.moving tid (fun k => match k with | .copy _ | .fill => true | _ => false) .running = some (x, tm) ∧
      x.idx < x.total ∧ tm.st = .resident ∧ CopyDue s x tm bs p)
    fun s t => ∃ x tm n, s.moving tid (fun k => match k with | .copy _ | .fill => true | _ => false) .running = some (x, tm) ∧
      CopyMoves tid tm x.copyWord (n + 1) s t ∧
      (n = 8 ∨ ∀ y bs p, t.thread? tid = some y → y.idx < y.total → y.copyWord = x.copyWord → ¬ CopyDue t y tm bs p) := by
  rintro s ⟨x, tm, bs, p, hm, hi, hst, hd⟩
  obtain ⟨hheld, m, hstep, hmoved⟩ := State.copyMoved_of_due hst hd
  obtain ⟨n, hmoves, hend⟩ := m.copyOn_moves tid hst x.copyWord 8
  have hx := (State.moving_eq_some hm).1
  exact ⟨_, execCopyThread_of hm hi hheld hstep, x, tm, n, hm, CopyMoves.cons hx hi rfl hd hmoved hmoves,
    hend.imp_right fun hnot y bs p hy hi hw hd => hnot ⟨y, bs, p, hy, hi, hw, hd⟩⟩

/-! ### Gathers and scatters (R207) -/

/-- An element's index and place, where it is due: what its step moves, and where. -/
theorem elementDue_iff (s : State) (x : Thread) (tm : Team) (xb bs : List Byte) (p : Place) :
    ElementDue s x tm xb bs p ↔
      s.readAt x tm 0 (fieldOf x.desc 0x10 4 + 4 * x.idx : Nat) 4 = .ok xb ∧ (descCtl x.desc 8 1 = 1 && ofBytes xb = 0xFFFFFFFF) = false ∧
      (s.threadHeld x (x.gsPlaces (ofBytes xb)).1.1 (x.gsPlaces (ofBytes xb)).1.2 (fieldOf x.desc 0x18 4) ||
        s.threadHeld x (x.gsPlaces (ofBytes xb)).2.1 (x.gsPlaces (ofBytes xb)).2.2 (fieldOf x.desc 0x18 4)) = false ∧
      s.readAt x tm (x.gsPlaces (ofBytes xb)).1.1 (x.gsPlaces (ofBytes xb)).1.2 (fieldOf x.desc 0x18 4) = .ok bs ∧
      s.writeAt x tm (x.gsPlaces (ofBytes xb)).2.1 (x.gsPlaces (ofBytes xb)).2.2 (fieldOf x.desc 0x18 4) = .ok p := by
  unfold ElementDue Thread.gsPlaces
  dsimp only
  by_cases hk : x.kind = .gather
  · simp only [hk, if_true, Bool.or_eq_false_iff, Bool.and_eq_false_imp, decide_eq_true_eq, decide_eq_false_iff_not, ne_eq, and_assoc]
    push_cast
    rfl
  · simp only [hk, if_false, Bool.or_eq_false_iff, Bool.and_eq_false_imp, decide_eq_true_eq, decide_eq_false_iff_not, ne_eq, and_assoc]
    push_cast
    rfl

theorem State.gsStep_of_due {s : State} {x : Thread} {tm : Team} {xb bs : List Byte} {p : Place} (hd : ElementDue s x tm xb bs p) :
    s.gsStep x tm = .ok ((s.putPlace tm (x.gsPlaces (ofBytes xb)).2.1 p bs).moved x (fieldOf x.desc 0x18 4), some (x.gsPlaces (ofBytes xb)).2) := by
  obtain ⟨hx, hskip, hheld, hr, hw⟩ := (elementDue_iff s x tm xb bs p).mp hd
  unfold State.gsStep
  simp only [hx, hskip, Bool.false_eq_true, if_false, hheld, hr, hw]

/-- A step that moves an element moves one that is due. -/
theorem State.elementDue_of_step {s u : State} {x : Thread} {tm : Team} {d : Nat × Int} (h : s.gsStep x tm = .ok (u, some d)) :
    ∃ xb bs p, ElementDue s x tm xb bs p := by
  unfold State.gsStep at h
  dsimp only at h
  split at h
  · cases h
  · next xb hx =>
    split at h
    · cases h
    · next hskip =>
      split at h
      · cases h
      · next hheld =>
        split at h
        · cases h
        · next bs hr =>
          split at h
          · cases h
          · next p hw => exact ⟨xb, bs, p, (elementDue_iff s x tm xb bs p).mpr ⟨hx, Bool.eq_false_of_not_eq_true hskip, Bool.eq_false_of_not_eq_true hheld, hr, hw⟩⟩

theorem elementMove_of {s : State} {tid : Nat} {x : Thread} {tm : Team} {xb bs : List Byte} {p : Place} (hx : s.thread? tid = some x)
    (hi : x.idx < x.total) (hst : tm.st = .resident) (hd : ElementDue s x tm xb bs p) :
    ElementMove tid tm s ((s.putPlace tm (x.gsPlaces (ofBytes xb)).2.1 p bs).moved x (fieldOf x.desc 0x18 4)) (x.gsPlaces (ofBytes xb)).2 := by
  have hput := s.stores_putPlace (State.takes_of_writeAt ((elementDue_iff s x tm xb bs p).mp hd).2.2.2.2 fun _ => hst) bs
  exact ⟨x, xb, bs, p, hx, hi, hd, rfl, by rw [State.moved_threads, hput.threads, State.thread?_id hx], hput.moved x _ _⟩

/-- The element behind one that has moved goes with it, where the two share a word of the destination. -/
def State.gsSecond (u : State) (tid : Nat) (tm : Team) (n : Nat) (d : Nat × Int) : State :=
  match u.thread? tid with
  | none => u
  | some y =>
    if y.total ≤ y.idx then u
    else
      match u.gsStep y tm with
      | .ok (w, some e) => if sharesWord n d e then w else u
      | _ => u

/-- No element that is due shares a word with one that has gone to d. -/
def LeavesElement (tid : Nat) (tm : Team) (n : Nat) (d : Nat × Int) (m : State) : Prop :=
  ∀ y xb bs p, m.thread? tid = some y → y.idx < y.total → ElementDue m y tm xb bs p → sharesWord n d (y.gsPlaces (ofBytes xb)).2 = false

theorem State.gsSecond_moves (m : State) (tid : Nat) {tm : Team} (hst : tm.st = .resident) (n : Nat) (d : Nat × Int) :
    (m.gsSecond tid tm n d = m ∧ LeavesElement tid tm n d m) ∨ ∃ e, sharesWord n d e = true ∧ ElementMove tid tm m (m.gsSecond tid tm n d) e := by
  unfold State.gsSecond
  split
  · next hy => exact .inl ⟨rfl, fun y _ _ _ h => nomatch hy.symm.trans h⟩
  · next y hy =>
    split
    · next hi =>
      refine .inl ⟨rfl, fun z _ _ _ hz hlt => ?_⟩
      obtain rfl := Option.some.inj (hy.symm.trans hz)
      exact absurd hi (Nat.not_le.mpr hlt)
    · next hi =>
      split
      · next w e hstep =>
        obtain ⟨xb, bs, p, hd⟩ := State.elementDue_of_step hstep
        have hmoved := elementMove_of hy (Nat.not_le.mp hi) hst hd
        obtain ⟨hw, he⟩ := Prod.mk.inj (Except.ok.inj ((State.gsStep_of_due hd).symm.trans hstep))
        rw [hw, Option.some.inj he] at hmoved
        split
        · next hshare => exact .inr ⟨e, hshare, hmoved⟩
        · next hshare =>
          refine .inl ⟨rfl, fun z xb' bs' p' hz _ hd' => ?_⟩
          obtain rfl := Option.some.inj (hy.symm.trans hz)
          have hsame := Prod.mk.inj (Except.ok.inj (hstep.symm.trans (State.gsStep_of_due hd')))
          rw [← Option.some.inj hsame.2]
          exact Bool.eq_false_of_not_eq_true hshare
      · next hno =>
        refine .inl ⟨rfl, fun z xb bs p hz _ hd => ?_⟩
        obtain rfl := Option.some.inj (hy.symm.trans hz)
        exact (hno _ _ (State.gsStep_of_due hd)).elim

theorem execGatherScatterThread_of {s : State} {tid : Nat} {x : Thread} {tm : Team} {xb bs : List Byte} {p : Place}
    (hm : s.moving tid (fun k => k == .gather || k == .scatter) .running = some (x, tm)) (hi : x.idx < x.total) (hd : ElementDue s x tm xb bs p) :
    exec (.gatherScatterThread tid) s =
      .next (((s.putPlace tm (x.gsPlaces (ofBytes xb)).2.1 p bs).moved x (fieldOf x.desc 0x18 4)).gsSecond tid tm (fieldOf x.desc 0x18 4)
        (x.gsPlaces (ofBytes xb)).2) := by
  change execGatherScatterThread tid s = _
  unfold execGatherScatterThread
  simp only [hm, Nat.not_le.mpr hi, if_false, State.gsStep_of_due hd]
  generalize (s.putPlace tm (x.gsPlaces (ofBytes xb)).2.1 p bs).moved x (fieldOf x.desc 0x18 4) = u
  unfold State.gsSecond
  cases u.thread? tid with
  | none => rfl
  | some y =>
    dsimp only
    split
    · rfl
    · cases u.gsStep y tm with
      | error e => rfl
      | ok r =>
        obtain ⟨w, d⟩ := r
        cases d <;> rfl

theorem engineSteps_element (tid : Nat) : Steps (.gatherScatterThread tid)
    (fun s => ∃ x tm xb bs p, s.moving tid (fun k => k == .gather || k == .scatter) .running = some (x, tm) ∧
      x.idx < x.total ∧ tm.st = .resident ∧ ElementDue s x tm xb bs p)
    fun s t => ∃ x tm m d, s.moving tid (fun k => k == .gather || k == .scatter) .running = some (x, tm) ∧ ElementMove tid tm s m d ∧
      (t = m ∧ (∀ y xb bs p, m.thread? tid = some y → y.idx < y.total → ElementDue m y tm xb bs p →
          sharesWord (fieldOf x.desc 0x18 4) d (y.gsPlaces (ofBytes xb)).2 = false) ∨
        ∃ e, sharesWord (fieldOf x.desc 0x18 4) d e = true ∧ ElementMove tid tm m t e) := by
  rintro s ⟨x, tm, xb, bs, p, hm, hi, hst, hd⟩
  have hx := (State.moving_eq_some hm).1
  exact ⟨_, execGatherScatterThread_of hm hi hd, x, tm, _, _, hm, elementMove_of hx hi hst hd, State.gsSecond_moves _ tid hst _ _⟩

/-- Settles O27, clause by clause: each step is computed under its premise, and its writes go through `State.stores_putPlace`. -/
theorem engineSteps : Obligations.EngineSteps :=
  ⟨engineSteps_descriptor, engineSteps_copy, engineSteps_element, engineSteps_atomic, engineSteps_completion⟩

end Sys2Proof.Machine
end

section
/-!
SUPPORT. What every step keeps: the canonical form of memory (R119) and unique identifiers.
-/
namespace Sys2Proof.Machine

/-! ### What every step keeps -/

/-- From `s` to `t` the canonical form of memory is kept, and so is the uniqueness of identifiers. -/
structure Keeps (s t : State) : Prop where
  mem : Memory.wf s.mem = true → Memory.wf t.mem = true
  ids : s.idsUnique → t.idsUnique

theorem Keeps.refl (s : State) : Keeps s s := ⟨id, id⟩

theorem Keeps.trans {s t u : State} (h : Keeps s t) (k : Keeps t u) : Keeps s u := ⟨fun m => k.mem (h.mem m), fun i => k.ids (h.ids i)⟩

/-- The identifiers of `t` are some of those of `s`, in their order, and no counter of identifiers has fallen. -/
structure NoNewIds (s t : State) : Prop where
  groups : (t.groups.map (·.id)).Sublist (s.groups.map (·.id))
  teams : (t.teams.map (·.id)).Sublist (s.teams.map (·.id))
  threads : (t.threads.map (·.id)).Sublist (s.threads.map (·.id))
  slots : (t.slots.map (·.id)).Sublist (s.slots.map (·.id))
  grids : (t.grids.map (·.id)).Sublist (s.grids.map (·.id))
  ports : (t.ports.map (·.n)).Sublist (s.ports.map (·.n))
  nextGroup : s.nextGroup ≤ t.nextGroup
  nextTeam : s.nextTeam ≤ t.nextTeam
  nextThread : s.nextThread ≤ t.nextThread
  evSeq : s.evSeq ≤ t.evSeq

/-- Fewer things, numbered below a bound, are below any higher bound. -/
theorem bound_of_sublist {α : Type} {f : α → Nat} {l k : List α} {m n : Nat} (h : (k.map f).Sublist (l.map f)) (hmn : m ≤ n)
    (b : ∀ x ∈ l, f x < m) : ∀ x ∈ k, f x < n := by
  intro x hx
  obtain ⟨y, hy, e⟩ := List.mem_map.mp (h.subset (List.mem_map_of_mem hx))
  have := b y hy
  omega

theorem NoNewIds.ids {s t : State} (h : NoNewIds s t) : s.idsUnique → t.idsUnique := by
  rintro ⟨hg, hgb, ht, htb, hx, hxb, hsl, hgr, hgrb, hp⟩
  exact ⟨hg.sublist h.groups, bound_of_sublist h.groups h.nextGroup hgb, ht.sublist h.teams, bound_of_sublist h.teams h.nextTeam htb,
    hx.sublist h.threads, bound_of_sublist h.threads h.nextThread hxb, hsl.sublist h.slots, hgr.sublist h.grids,
    bound_of_sublist h.grids h.evSeq hgrb, hp.sublist h.ports⟩

theorem NoNewIds.refl (s : State) : NoNewIds s s := ⟨.refl _, .refl _, .refl _, .refl _, .refl _, .refl _, le_rfl, le_rfl, le_rfl, le_rfl⟩

theorem map_mapIf_of_eq {α β : Type} {l : List α} {p : α → Bool} {f : α → α} {k : α → β} (h : ∀ x, p x = true → k (f x) = k x) :
    (mapIf l p f).map k = l.map k := by
  rw [mapIf, List.map_map]
  refine List.map_congr_left fun x _ => ?_
  simp only [Function.comp_apply]
  split
  · next hp => exact h x hp
  · rfl

theorem map_map_of_eq {α β : Type} {l : List α} {f : α → α} {k : α → β} (h : ∀ x, k (f x) = k x) : (l.map f).map k = l.map k := by
  rw [List.map_map]
  exact List.map_congr_left fun x _ => h x

section
variable {s t u : State}

/-! ### Replacements -/

/-- An entry replaced by one of its own number. -/
theorem Keeps.onGroupEach (h : Keeps s t) {n : Nat} {f : Group → Group} (hf : ∀ g, g.id = n → (f g).id = n) : Keeps s (t.onGroup n f) :=
  h.trans ⟨id, NoNewIds.ids { NoNewIds.refl t with
    groups := by
      rw [State.onGroup_groups, map_mapIf_of_eq fun g hg => by rw [hf g (by simpa using hg)]; exact (by simpa using hg : g.id = n).symm] }⟩

theorem Keeps.onGroup (h : Keeps s t) {n : Nat} {f : Group → Group} (hf : ∀ g, (f g).id = g.id) : Keeps s (t.onGroup n f) :=
  h.onGroupEach fun g hg => (hf g).trans hg

theorem Keeps.onTeam (h : Keeps s t) {n : Nat} {f : Team → Team} (hf : ∀ x, (f x).id = x.id) : Keeps s (t.onTeam n f) :=
  h.trans ⟨id, NoNewIds.ids { NoNewIds.refl t with teams := by rw [State.onTeam_teams, map_mapIf_of_eq fun x _ => hf x] }⟩

theorem Keeps.onGrid (h : Keeps s t) {n : Nat} {f : Grid → Grid} (hf : ∀ x, (f x).id = x.id) : Keeps s (t.onGrid n f) :=
  h.trans ⟨id, NoNewIds.ids { NoNewIds.refl t with grids := by rw [State.onGrid_grids, map_mapIf_of_eq fun x _ => hf x] }⟩

theorem Keeps.onThread (h : Keeps s t) {n : Nat} {f : Thread → Thread} (hf : ∀ x, (f x).id = x.id) :
    Keeps s (t.onThread n f) :=
  h.trans ⟨id, NoNewIds.ids { NoNewIds.refl t with threads := by rw [State.onThread_threads, map_mapIf_of_eq fun x _ => hf x] }⟩

theorem Keeps.onSlot (h : Keeps s t) {n : Nat} {f : BarSlot → BarSlot} (hf : ∀ x, (f x).id = x.id) : Keeps s (t.onSlot n f) :=
  h.trans ⟨id, NoNewIds.ids { NoNewIds.refl t with slots := by rw [State.onSlot_slots, map_mapIf_of_eq fun x _ => hf x] }⟩

theorem Keeps.onPort (h : Keeps s t) {n : Nat} {f : Port → Port} (hf : ∀ x, (f x).n = x.n) : Keeps s (t.onPort n f) :=
  h.trans ⟨id, NoNewIds.ids { NoNewIds.refl t with ports := by rw [State.onPort_ports, map_mapIf_of_eq fun x _ => hf x] }⟩

theorem Keeps.onCtx (h : Keeps s t) {n : Nat} {f : Ctx → Ctx} : Keeps s (t.onCtx n f) := h.trans ⟨id, id⟩
theorem Keeps.onQueue (h : Keeps s t) {n : Nat} {f : Queue → Queue} : Keeps s (t.onQueue n f) := h.trans ⟨id, id⟩
theorem Keeps.onDie (h : Keeps s t) {n : Nat} {f : Die → Die} : Keeps s (t.onDie n f) := h.trans ⟨id, id⟩
theorem Keeps.onStack (h : Keeps s t) {n : Nat} {f : Stack → Stack} : Keeps s (t.onStack n f) := h.trans ⟨id, id⟩
theorem Keeps.onFe (h : Keeps s t) {f : FrontEnd → FrontEnd} : Keeps s (t.onFe f) := h.trans ⟨id, id⟩
theorem Keeps.onPkg (h : Keeps s t) {f : Package → Package} : Keeps s (t.onPkg f) := h.trans ⟨id, id⟩
theorem Keeps.draw (h : Keeps s t) : Keeps s t.draw := h.trans ⟨id, id⟩

theorem Keeps.setCore (h : Keeps s t) {c : Core} : Keeps s (t.setCore c) := by
  unfold State.setCore
  split <;> exact h.trans ⟨id, id⟩

theorem Keeps.onCore (h : Keeps s t) {die site : Nat} {f : Core → Core} : Keeps s (t.onCore die site f) := h.setCore

theorem Keeps.setPath (h : Keeps s t) {n : Nat} {slot : Bool} {p : Option Path} : Keeps s (t.setPath n slot p) := h.onGroup (by exact fun _ => rfl)
theorem Keeps.onArch (h : Keeps s t) {n : Nat} {f : Arch → Arch} : Keeps s (t.onArch n f) := h.onGroup (by exact fun _ => rfl)
theorem Keeps.onPath (h : Keeps s t) {n : Nat} {slot : Bool} {f : Path → Path} : Keeps s (t.onPath n slot f) := h.onArch
theorem Keeps.park (h : Keeps s t) {n : Nat} {slot : Bool} {k : Option Park} : Keeps s (t.park n slot k) := h.onPath

theorem Keeps.nextSeqNo (h : Keeps s t) : Keeps s t.nextSeqNo :=
  h.trans ⟨id, NoNewIds.ids { NoNewIds.refl t with evSeq := Nat.le_succ _ }⟩

/-! ### Ways through a definition -/

theorem Keeps.ite (h : Keeps s t) (k : Keeps s u) {c : Prop} {_ : Decidable c} : Keeps s (if c then t else u) := by
  split
  · exact h
  · exact k

theorem Keeps.foldl (h : Keeps s t) {α : Type} {l : List α} {f : State → α → State} (hf : ∀ t a, Keeps t (f t a)) : Keeps s (l.foldl f t) := by
  induction l generalizing t with
  | nil => exact h
  | cons a l ih => exact ih (h.trans (hf t a))

/-! ### Performance counters, squashed continuations and woken teams -/

theorem Keeps.squashes (h : Keeps s t) (k : Squashes t u) : Keeps s u := by
  have e : u = { t with groups := u.groups, cores := u.cores, losses := u.losses } := by rw [← k.rest]
  refine h.trans ⟨?_, NoNewIds.ids ?_⟩
  · rw [e]; exact id
  · have hg := k.groups.map_eq (·.id) fun a b (r : Group.SameButConts a b) => (congrArg Group.id r :)
    rw [e]
    exact { NoNewIds.refl t with groups := by rw [← hg] }

theorem Keeps.perf (h : Keeps s t) {die site ctx n k : Nat} : Keeps s (t.perf die site ctx n k) := by
  unfold State.perf
  exact h.setCore.ite h

theorem Keeps.perfGroup (h : Keeps s t) {g : Group} {n k : Nat} : Keeps s (t.perfGroup g n k) := h.squashes (t.squashes_perfGroup g n k)
theorem Keeps.countSquash (h : Keeps s t) {g : Group} {cs : List Cont} : Keeps s (t.countSquash g cs) := h.squashes (t.squashes_countSquash g cs)
theorem Keeps.squashIf (h : Keeps s t) {p : Group → Cont → Bool} : Keeps s (t.squashIf p) := h.squashes (t.squashes_squashIf p)
theorem Keeps.squashAll (h : Keeps s t) {n : Nat} : Keeps s (t.squashAll n) := h.squashes (t.squashes_squashAll n)

theorem Keeps.wakens (h : Keeps s t) (k : Wakens t u) : Keeps s u := by
  have e : u = { t with teams := u.teams, dies := u.dies } := by rw [← k.rest]
  obtain ⟨F, hF, hR⟩ := k.teams
  refine h.trans ⟨?_, NoNewIds.ids ?_⟩
  · rw [e]; exact id
  · rw [e]
    exact { NoNewIds.refl t with teams := by rw [hF, map_map_of_eq fun x => show (F x).id = x.id from (congrArg Team.id (hR x) :)] }

theorem Keeps.wakeTeam (h : Keeps s t) {n : Nat} : Keeps s (t.wakeTeam n) := h.wakens (t.wakens_wakeTeam n)
theorem Keeps.fireWake (h : Keeps s t) {p : WakeOn → Bool} : Keeps s (t.fireWake p) := h.wakens (t.wakens_fireWake p)

/-! ### Memory -/

theorem Keeps.store (h : Keeps s t) {k : Nat} {bs : List Byte} : Keeps s (t.store k bs) := by
  have w := t.writeEvent_store k bs
  generalize t.store k bs = u at w ⊢
  have e : u = { t with mem := u.mem, lost := u.lost, cache := u.cache, groups := u.groups, teams := u.teams, dies := u.dies, cores := u.cores,
                        losses := u.losses } := by rw [← w.rest]; rfl
  obtain ⟨F, hF, hR⟩ := w.teams
  refine h.trans ⟨fun hm => ?_, NoNewIds.ids ?_⟩
  · rw [w.mem]; exact putBytes_wf _ _ _ hm
  · have hg := w.groups.map_eq (·.id) fun a b (r : Group.Fired k bs.length a b) => (congrArg Group.id r :)
    rw [e]
    exact { NoNewIds.refl t with
      groups := by rw [← hg]
      teams := by rw [hF, map_map_of_eq fun x => show (F x).id = x.id from (congrArg Team.id (hR x) :)] }

theorem Keeps.storeLE (h : Keeps s t) {k n x : Nat} : Keeps s (t.storeLE k n x) := h.store

theorem putAll_wf (l : List Host.Cell) (f : Host.Cell → Nat) {m : List Host.Cell} (h : Memory.wf m = true) :
    Memory.wf (l.foldl (fun t e => Sparse.put t (f e) e.2) m) = true := by
  induction l generalizing m with
  | nil => exact h
  | cons e l ih => exact ih (Sparse.wf_put _ _ _ h)

theorem Keeps.copyRange (h : Keeps s t) {k j n : Nat} : Keeps s (t.copyRange k j n) :=
  h.trans ⟨fun hm => putAll_wf _ (fun e => j + (e.1 - k)) (Sparse.wf_clear _ j n hm), id⟩

theorem Keeps.writeBack (h : Keeps s t) {p : CacheLine → Bool} : Keeps s (t.writeBack p) := h.trans ⟨id, id⟩

theorem putLines_wf (l : List CacheLine) {m : List Host.Cell} (h : Memory.wf m = true) :
    Memory.wf (l.foldl (fun m c => putBytes m (64 * c.line) c.dram) m) = true := by
  induction l generalizing m with
  | nil => exact h
  | cons e l ih => exact ih (putBytes_wf _ _ _ h)

theorem Keeps.dropCache (h : Keeps s t) {p : CacheLine → Bool} : Keeps s (t.dropCache p) := h.trans ⟨fun hm => putLines_wf _ hm, id⟩

/-! ### Lane accesses that are put off -/

theorem Keeps.performPart (h : Keeps s t) {e : Late} : Keeps s (t.performPart e).1 := by
  cases e with
  | store => exact h.store
  | read => exact h
  | rmw => exact h.foldl fun t _ => (Keeps.refl t).store

theorem Keeps.performAt (h : Keeps s t) {grp seq i : Nat} : Keeps s (t.performAt grp seq i) := by
  unfold State.performAt
  split
  · exact h
  · exact h.performPart.onGroup (by exact fun _ => rfl)

theorem Keeps.performBy (h : Keeps s t) {grp : Nat} {p : Tracked → Bool} : Keeps s (t.performBy grp p) := by
  unfold State.performBy
  split
  · exact h
  · exact h.foldl fun t _ => (Keeps.refl t).foldl fun t _ => (Keeps.refl t).performAt

theorem Keeps.drainLate (h : Keeps s t) {grp : Nat} : Keeps s (t.drainLate grp) := h.performBy
theorem Keeps.drainAll (h : Keeps s t) : Keeps s t.drainAll := h.foldl fun t _ => (Keeps.refl t).drainLate

/-! ### Translations, signals, the log and resets that are asked for -/

theorem Keeps.tlbFill (h : Keeps s t) {e : TlbEntry} : Keeps s (t.tlbFill e) := h.trans ⟨id, id⟩
theorem Keeps.discardCtx (h : Keeps s t) {ctx : Nat} : Keeps s (t.discardCtx ctx) := h.trans ⟨id, id⟩

theorem Keeps.signal (h : Keeps s t) {n : Nat} : Keeps s (t.signal n) := by
  unfold State.signal
  split
  · exact h
  · exact h.trans ⟨id, id⟩

theorem Keeps.mgmtLog (h : Keeps s t) {e : MgmtEntry} : Keeps s (t.mgmtLog e) := h.onPkg.signal
theorem Keeps.askReset (h : Keeps s t) {r : ResetKind × Bool × BitVec 4} : Keeps s (t.askReset r) := h.onPkg
theorem Keeps.requestReset (h : Keeps s t) {k : ResetKind} {dies : BitVec 4} : Keeps s (t.requestReset k dies) := h.askReset
theorem Keeps.deviceLoss (h : Keeps s t) {k : Nat} : Keeps s (t.deviceLoss k) := (h.mgmtLog.nextSeqNo.requestReset (k := .warm) (dies := 0)).trans ⟨id, id⟩

theorem Keeps.hubLoss (h : Keeps s t) {k n : Nat} (e : t.hubLoss k n = some u) : Keeps s u := by
  unfold State.hubLoss at e
  split at e
  · cases e; exact h.deviceLoss
  · cases e

theorem Keeps.recordLoss (h : Keeps s t) {ctx : Nat} (e : t.recordLoss ctx = some u) : Keeps s u := by
  unfold State.recordLoss at e
  cases hc : t.ctx? ctx with
  | none => rw [hc] at e; cases e
  | some c => rw [hc] at e; exact h.hubLoss e

/-! ### Queues -/

theorem Keeps.accessQcb (h : Keeps s t) {q : Nat} {k : QcbAccess} : Keeps s (t.accessQcb q k) := by
  unfold State.accessQcb
  split
  · cases e : t.hubLoss (t.qcbKey q) 256 with
    | none => exact h
    | some u => exact h.hubLoss e
  · exact (h.deviceLoss.ite h.store).signal.ite (h.deviceLoss.ite h.store)
  · exact h

theorem Keeps.onQcb (h : Keeps s t) {q : Nat} {k : QcbAccess} : Keeps s (t.onQcb q k) := by
  unfold State.onQcb
  exact h.onFe.ite h.accessQcb

theorem Keeps.writeQcb (h : Keeps s t) {q : Nat} : Keeps s (t.writeQcb q) := h.onQcb
theorem Keeps.serveQcbs (h : Keeps s t) : Keeps s t.serveQcbs := h.onFe.foldl fun t _ => (Keeps.refl t).accessQcb

theorem Keeps.touchQueue (h : Keeps s t) {q : Nat} : Keeps s (t.touchQueue q) := by
  unfold State.touchQueue
  exact ((h.ite h.onQcb).foldl fun t _ => (Keeps.refl t).writeQcb).onFe.ite h

theorem Keeps.saveQueue (h : Keeps s t) {q : Nat} : Keeps s (t.saveQueue q) := by
  unfold State.saveQueue
  split
  · exact h.writeQcb.ite h
  · exact h

theorem Keeps.queueError (h : Keeps s t) {q code idx : Nat} {hdr : DWord} : Keeps s (t.queueError q code idx hdr) := h.onQueue.onQcb

theorem Keeps.progress (h : Keeps s t) {q : Nat} : Keeps s (t.progress q).1 := by
  unfold State.progress
  split
  · exact h
  · extract_lets die
    split
    · exact h
    · split
      · dsimp only; exact h.onFe
      · split
        · split
          · exact h
          · exact h.queueError
        · exact h.storeLE.onQueue

theorem Keeps.setQueue (h : Keeps s t) {q : Nat} {st : QState} : Keeps s (t.setQueue q st).1 := by
  have hq := h.touchQueue (q := q) |>.onQueue (n := q) (f := fun u => { u with st := st })
  unfold State.setQueue
  dsimp only
  split
  · exact hq.progress.saveQueue
  · exact hq.saveQueue

theorem Keeps.completePacket (h : Keeps s t) {q gen idx : Nat} : Keeps s (t.completePacket q gen idx) := by
  unfold State.completePacket
  exact h.touchQueue.onQueue.saveQueue.ite h

theorem Keeps.withdrawPacket (h : Keeps s t) {q : Nat} : Keeps s (t.withdrawPacket q) := by
  unfold State.withdrawPacket
  split
  · exact h
  · exact h.onFe.onQueue.ite h

theorem Keeps.dropQueue (h : Keeps s t) {q : Nat} : Keeps s (t.dropQueue q) := by
  unfold State.dropQueue
  exact h.withdrawPacket.onFe.onQueue.writeQcb.onFe

theorem Keeps.syncQueue (h : Keeps s t) {q : Nat} : Keeps s (t.syncQueue q).1 := by
  unfold State.syncQueue
  split
  · exact h
  · split
    · split
      · exact h
      · exact h.dropQueue
    · split
      · exact h
      · exact h.dropQueue
    · split
      · split
        · exact h.setQueue
        · exact h
      · split
        · exact h.withdrawPacket.onQueue.setQueue
        · exact h.withdrawPacket.onQueue.setQueue
        · exact h.withdrawPacket.onQueue.setQueue
        · exact h.withdrawPacket.onQueue.setQueue
        · exact h

theorem Keeps.syncQueues (h : Keeps s t) {ctx : Nat} : Keeps s (t.syncQueues ctx).1 := by
  unfold State.syncQueues
  generalize ((t.queues.filter fun u => u.ctx == ctx).map fun u => u.id) = l
  suffices q : ∀ (l : List Nat) (a : State × List Report), Keeps s a.1 → Keeps s (l.foldl (fun (a : State × List Report) q =>
      let r := a.1.syncQueue q
      (r.1, a.2 ++ r.2.toList)) a).1 from q l (t, []) h
  intro l
  induction l with
  | nil => exact fun _ h => h
  | cons q l ih => exact fun a h => ih _ h.syncQueue

end

theorem sublist_of_eq {α : Type} {l k : List α} (h : l = k) : l.Sublist k := h ▸ .refl _

section
variable {s t u : State}

/-! ### Teams that end -/

theorem Keeps.mapSlots (h : Keeps s t) {f : BarSlot → BarSlot} (hf : ∀ x, (f x).id = x.id) : Keeps s { t with slots := t.slots.map f } :=
  h.trans ⟨id, NoNewIds.ids { NoNewIds.refl t with slots := by rw [map_map_of_eq hf] }⟩

theorem Keeps.mapThreads (h : Keeps s t) {f : Thread → Thread} (hf : ∀ x, (f x).id = x.id) : Keeps s { t with threads := t.threads.map f } :=
  h.trans ⟨id, NoNewIds.ids { NoNewIds.refl t with threads := by rw [map_map_of_eq hf] }⟩

theorem Keeps.mapTeams (h : Keeps s t) {f : Team → Team} (hf : ∀ x, (f x).id = x.id) : Keeps s { t with teams := t.teams.map f } :=
  h.trans ⟨id, NoNewIds.ids { NoNewIds.refl t with teams := by rw [map_map_of_eq hf] }⟩

theorem Keeps.mapGroups (h : Keeps s t) {f : Group → Group} (hf : ∀ x, (f x).id = x.id) : Keeps s { t with groups := t.groups.map f } :=
  h.trans ⟨id, NoNewIds.ids { NoNewIds.refl t with groups := by rw [map_map_of_eq hf] }⟩

theorem Keeps.mapGrids (h : Keeps s t) {f : Grid → Grid} (hf : ∀ x, (f x).id = x.id) : Keeps s { t with grids := t.grids.map f } :=
  h.trans ⟨id, NoNewIds.ids { NoNewIds.refl t with grids := by rw [map_map_of_eq hf] }⟩

theorem ite_key_eq {α β : Type} {f : α → α} {k : α → β} {p : α → Bool} (h : ∀ x, k (f x) = k x) (x : α) : k (if p x then f x else x) = k x := by
  split
  · exact h x
  · rfl

theorem Keeps.recheckSlots (h : Keeps s t) {grid : Nat} : Keeps s (t.recheckSlots grid) := by
  unfold State.recheckSlots
  split
  · exact h
  · exact h.mapSlots (ite_key_eq fun _ => rfl)

theorem Keeps.withdrawGroups (h : Keeps s t) {ids : List Nat} : Keeps s (t.withdrawGroups ids) := h.trans ⟨id, id⟩
theorem Keeps.dropJoins (h : Keeps s t) : Keeps s t.dropJoins := h.trans ⟨id, id⟩

theorem Keeps.releaseWindow (h : Keeps s t) {x : Team} : Keeps s (t.releaseWindow x) := by
  unfold State.releaseWindow
  exact h.ite (h.onDie.ite h)

theorem Keeps.chargeTeam (h : Keeps s t) {x : Team} : Keeps s (t.chargeTeam x) := by
  unfold State.chargeTeam
  split
  · exact h.touchQueue.onQueue.saveQueue.ite h
  · exact h

theorem Keeps.leaveRange (h : Keeps s t) {x : Team} : Keeps s (t.leaveRange x) := by
  unfold State.leaveRange
  exact h.copyRange.ite h

theorem Keeps.enterRange (h : Keeps s t) {team die site base tmem : Nat} : Keeps s (t.enterRange team die site base tmem) := h.copyRange

theorem Keeps.filterSlots (h : Keeps s t) {p : BarSlot → Bool} : Keeps s { t with slots := t.slots.filter p } :=
  h.trans ⟨id, NoNewIds.ids { NoNewIds.refl t with slots := List.filter_sublist.map _ }⟩

theorem Keeps.filterThreads (h : Keeps s t) {p : Thread → Bool} : Keeps s { t with threads := t.threads.filter p } :=
  h.trans ⟨id, NoNewIds.ids { NoNewIds.refl t with threads := List.filter_sublist.map _ }⟩

theorem Keeps.dropSlots (h : Keeps s t) {grid ctx : Nat} : Keeps s (t.dropSlots grid ctx) := by
  unfold State.dropSlots
  exact h.filterSlots.onCtx

theorem Keeps.endTeam (h : Keeps s t) {team : Nat} {st : TeamState} : Keeps s (t.endTeam team st) := by
  unfold State.endTeam
  split
  · exact h
  · next x _ =>
    split
    · exact h
    · extract_lets gs ids privs ctx w z
      have hw : Keeps s w := h.withdrawGroups.chargeTeam.leaveRange
      have hz : Keeps s z := hw.trans ⟨fun hm => Sparse.wf_clear _ _ _ hm, NoNewIds.ids { NoNewIds.refl w with
        slots := sublist_of_eq (map_map_of_eq fun _ => rfl)
        groups := List.filter_sublist.map _
        teams := sublist_of_eq (map_mapIf_of_eq fun _ _ => rfl)
        grids := sublist_of_eq (map_mapIf_of_eq fun _ _ => rfl) }⟩
      exact hz.releaseWindow.recheckSlots

theorem Thread.onKill_id (x : Thread) : x.onKill.id = x.id := by
  unfold Thread.onKill
  split <;> first | rfl | split <;> rfl

theorem Keeps.killTeam (h : Keeps s t) {team : Nat} : Keeps s (t.killTeam team) := by
  unfold State.killTeam
  split
  · exact h
  · split
    · exact h
    · extract_lets gs ids a b c d e
      have ha : Keeps s a := h.foldl fun t _ => (Keeps.refl t).ite (Keeps.refl t).countSquash
      have hb : Keeps s b := ha.foldl fun t _ => (Keeps.refl t).drainLate
      have hc : Keeps s c := (hb.mapThreads (ite_key_eq Thread.onKill_id)).dropJoins
      have hd : Keeps s d := hc.onCore.ite hc
      have he : Keeps s e := hd.trans ⟨id, id⟩
      exact he.endTeam

theorem Keeps.failGrid (h : Keeps s t) {grid code : Nat} : Keeps s (t.failGrid grid code) := by
  unfold State.failGrid
  split
  · exact h
  · split
    · exact h
    · extract_lets a done b
      have ha : Keeps s a := h.foldl fun t _ => (Keeps.refl t).killTeam
      have hb : Keeps s b := ha.dropSlots
      exact hb.mapGrids (ite_key_eq fun _ => rfl)

theorem Keeps.failCtxGrids (h : Keeps s t) {ctx : Nat} {first : Option Nat} : Keeps s (t.failCtxGrids ctx first) :=
  h.foldl fun t _ => (Keeps.refl t).failGrid

/-! ### Contexts that change their state -/

theorem Keeps.endCommand (h : Keeps s t) {ctx status : Nat} : Keeps s (t.endCommand ctx status) := by
  unfold State.endCommand
  exact h.onFe.ite h

theorem Keeps.losses (h : Keeps s t) {n : Nat} : Keeps s { t with losses := n } := h.trans ⟨id, id⟩

theorem Keeps.lateLoss (h : Keeps s t) {ctx : Nat} {r : Report} : Keeps s (t.lateLoss ctx r) := by
  have hl : Keeps s { t.nextSeqNo with losses := t.nextSeqNo.losses + r.lost } := h.nextSeqNo.losses
  unfold State.lateLoss
  dsimp only
  split
  · exact hl.mgmtLog.requestReset
  · exact hl.mgmtLog.requestReset
  · exact hl.failCtxGrids.onCtx

theorem Thread.unpark_id (x : Thread) : x.unpark.id = x.id := by
  unfold Thread.unpark
  split <;> rfl

theorem Keeps.enterCtx (h : Keeps s t) {ctx status : Nat} {st : CtxState} : Keeps s (t.enterCtx ctx st status) := by
  unfold State.enterCtx
  extract_lets a b r
  have ha : Keeps s a := h.onCtx
  have hb : Keeps s b := ha.ite (ha.mapThreads (ite_key_eq Thread.unpark_id))
  have hr : Keeps s r.1 := hb.syncQueues
  exact (hr.foldl fun t _ => (Keeps.refl t).lateLoss).endCommand

theorem Keeps.settleCtx (h : Keeps s t) {ctx : Nat} : Keeps s (t.settleCtx ctx) := by
  unfold State.settleCtx
  split
  · exact h
  · split
    · exact h.ite h.discardCtx.enterCtx
    · split
      · exact h.onCtx.ite (h.onCtx.ite h)
      · exact h.onCtx.ite (h.onCtx.ite h)
      · exact h

theorem Keeps.faultCtx (h : Keeps s t) {ctx : Nat} {first : Option Nat} : Keeps s (t.faultCtx ctx first) := by
  unfold State.faultCtx
  split
  · exact h
  · split
    · exact h
    · exact h
    · exact h
    · exact h.failCtxGrids.enterCtx

theorem Keeps.deadCtx (h : Keeps s t) {ctx : Nat} : Keeps s (t.deadCtx ctx) := by
  unfold State.deadCtx
  split
  · exact h
  · split
    · exact h
    · exact h
    · exact h.failCtxGrids.enterCtx

/-! ### Fault records -/

theorem Keeps.recordFails (h : Keeps s t) {r : FaultRec} {f : XFault} {va : Nat} : Keeps s (t.recordFails r f va) := by
  unfold State.recordFails
  exact (h.mgmtLog.mgmtLog.nextSeqNo.foldl fun t _ => (Keeps.refl t).mgmtLog).onCtx.deadCtx

theorem Keeps.writeRecord (h : Keeps s t) {c : Ctx} {r : FaultRec} : Keeps s (t.writeRecord c r) := by
  unfold State.writeRecord
  extract_lets va
  split
  · exact h.recordFails
  · extract_lets b na
    split
    · exact h.store.recordFails
    · exact h.store.onCtx.storeLE.signal

theorem Keeps.releaseHeld (h : Keeps s t) {ctx n : Nat} : Keeps s (t.releaseHeld ctx n) := by
  induction n generalizing t with
  | zero => exact h
  | succ n ih =>
    unfold State.releaseHeld
    split
    · exact h
    · split
      · exact h
      · split
        · exact h
        · split
          · next e => exact h.hubLoss e
          · exact h.ite (ih h.onCtx.writeRecord)

theorem Keeps.deliver (h : Keeps s t) {r : FaultRec} : Keeps s (t.deliver r) := by
  have hr := h.releaseHeld (ctx := r.ctx) (n := ((t.ctx? r.ctx).map fun c => c.held.length).getD 0)
  unfold State.deliver
  dsimp only
  split
  · exact hr
  · split
    · exact hr.mgmtLog
    · split
      · exact hr.deviceLoss
      · split
        · exact hr.onCtx
        · split
          · exact hr.onCtx.ite hr.storeLE
          · exact hr.writeRecord

theorem Keeps.escalate (h : Keeps s t) {r : FaultRec} {w : Report} {team : Option Nat} : Keeps s (t.escalate r w team) := by
  have hl : Keeps s { t with losses := t.losses + w.lost } := h.losses
  unfold State.escalate
  extract_lets a
  split
  · exact hl.deliver.killTeam.settleCtx
  · exact hl.deliver.faultCtx
  · exact hl.deliver.faultCtx
  · exact hl.mgmtLog.requestReset
  · exact hl.mgmtLog.requestReset

theorem Keeps.switchOutCtx (h : Keeps s t) {ctx : Nat} : Keeps s (t.switchOutCtx ctx) := by
  unfold State.switchOutCtx
  extract_lets ids a b
  have ha : Keeps s a := h.squashIf
  have hb : Keeps s b := ha.mapTeams (ite_key_eq fun _ => rfl)
  exact hb.onCtx.settleCtx

theorem Keeps.shareTest (h : Keeps s t) {ctx : Nat} : Keeps s (t.shareTest ctx) := by
  unfold State.shareTest
  split
  · exact h
  · exact (h.switchOutCtx.ite h).ite h

theorem Keeps.parkTest (h : Keeps s t) {grp : Nat} : Keeps s (t.parkTest grp) := by
  unfold State.parkTest
  split
  · exact h
  · exact h.shareTest.ite h

theorem Keeps.faultEffect (h : Keeps s t) {rec : FaultRec} {r : Report} {team grid : Nat} {target : FaultTarget} {park : State → State}
    (hp : ∀ {s t}, Keeps s t → Keeps s (park t)) : Keeps s (t.faultEffect rec r team grid target park) := by
  unfold State.faultEffect
  split
  · exact (hp h.onCtx.deliver).shareTest.ite (hp h.onCtx.deliver)
  · exact h.deliver.faultCtx.killTeam
  · exact h.escalate

theorem Keeps.raise (h : Keeps s t) {g : Group} {slot : Bool} {pc : DWord} {iw : Word} {r : Report} : Keeps s (t.raise g slot pc iw r) := by
  unfold State.raise
  split
  · exact h.onGroup (by exact fun _ => rfl)
  · exact h.squashAll.nextSeqNo.faultEffect fun h => h.park

theorem Keeps.raiseThread (h : Keeps s t) {x : Thread} {r : Report} : Keeps s (t.raiseThread x r) := by
  unfold State.raiseThread
  exact (h.nextSeqNo.ite (h.nextSeqNo.onThread (by exact fun _ => rfl))).faultEffect fun h => h.onThread (by exact fun _ => rfl)

theorem Keeps.feFault (h : Keeps s t) {ctx grid : Nat} {r : Report} : Keeps s (t.feFault ctx grid r) := by
  unfold State.feFault
  exact h.nextSeqNo.escalate.ite h.nextSeqNo.deliver

theorem Keeps.feHold (h : Keeps s t) {ctx grid : Nat} {r : Report} {target : FaultTarget} {park : Nat → State → State}
    (hp : ∀ {n s t}, Keeps s t → Keeps s (park n t)) : Keeps s (t.feHold ctx grid r target park) := hp h.nextSeqNo.onCtx.deliver

theorem Keeps.releasePath (h : Keeps s t) {grp seq : Nat} : Keeps s (t.releasePath grp seq) := by
  unfold State.releasePath
  exact h.onArch

theorem Keeps.resume (h : Keeps s t) {ctx seq : Nat} {target : FaultTarget} : Keeps s (t.resume ctx seq target) := by
  have hc := h.onCtx (n := ctx) (f := fun c => { c with faults := c.faults.filter fun e => e.1 != seq })
  unfold State.resume
  cases target with
  | path => exact hc.releasePath
  | spill => exact hc.onGroup (by exact fun _ => rfl)
  | thread => exact hc.onThread (by exact fun _ => rfl)
  | bivouac => exact hc.onTeam (by exact fun _ => rfl)
  | accept => exact hc.onThread (by exact fun _ => rfl)
  | packet => exact hc.onQueue
  | image => exact hc.onTeam (by exact fun _ => rfl)
  | grid => exact hc.onGrid (by exact fun _ => rfl)
  | report => exact hc.onGrid (by exact fun _ => rfl)

end

/-! ### Outcomes and plans -/

/-- Where an outcome is a next state, what every step keeps is kept. -/
def KeepsNext (s : State) (o : Host.Outcome State Fault Refusal) : Prop := ∀ t, o = .next t → Keeps s t

theorem of_none_eq_some {α : Type} {a : α} {P : Prop} (e : none = some a) : P := nomatch e

theorem KeepsNext.next {s t : State} (h : Keeps s t) : KeepsNext s (.next t) := by
  rintro u ⟨⟩
  exact h

theorem of_refused_eq_next {σ φ ρ : Type} {r : ρ} {t : σ} {P : Prop} (e : (.refused r : Host.Outcome σ φ ρ) = .next t) : P := nomatch e
theorem of_fault_eq_next {σ φ ρ : Type} {f : φ} {t : σ} {P : Prop} (e : (.fault f : Host.Outcome σ φ ρ) = .next t) : P := nomatch e

theorem KeepsNext.refused {s : State} {r : Refusal} : KeepsNext s (.refused r) := fun _ e => of_refused_eq_next e
theorem KeepsNext.fault {s : State} {f : Fault} : KeepsNext s (.fault f) := fun _ e => of_fault_eq_next e

theorem KeepsNext.ite {s : State} {o p : Host.Outcome State Fault Refusal} (h : KeepsNext s o) (k : KeepsNext s p) {c : Prop} {_ : Decidable c} :
    KeepsNext s (if c then o else p) := by
  split
  · exact h
  · exact k

theorem KeepsNext.of_keeps {s t : State} {o : Host.Outcome State Fault Refusal} (h : Keeps s t) (k : KeepsNext t o) : KeepsNext s o :=
  fun u e => h.trans (k u e)

/-- The effect of a plan, and its wait, keep what every step keeps. -/
structure Plan.Keeping (p : Plan) : Prop where
  act : ∀ (h : Here) {s t : State}, Keeps s t → Keeps s (p.act h t)
  hold : ∀ (s : State) (h : Here) (f : State → State), p.hold s h = some f → ∀ {u t : State}, Keeps u t → Keeps u (f t)

section
variable {s t u : State}

theorem Keeps.tick (h : Keeps s t) {x : Team} : Keeps s (t.tick x) := by
  unfold State.tick
  exact h.setCore.draw

theorem Keeps.retire (h : Keeps s t) {x : Here} {i : Instr} {p : Plan} : Keeps s (t.retire x i p) := h.onGroup (by exact fun _ => rfl)

theorem Keeps.count (h : Keeps s t) {x : Here} {i : Instr} {act : Word} : Keeps s (t.count x i act) := by
  unfold State.count
  exact ((h.onGroup (by exact fun _ => rfl)).ite (h.onTeam (by exact fun _ => rfl))).perf

theorem Keeps.account (h : Keeps s t) {x : Here} {i : Instr} {act : Word} : Keeps s (t.account x i act) := by
  unfold State.account
  exact h.count.ite h.count.tick

theorem Keeps.retireParked (h : Keeps s t) {grp : Nat} {slot : Bool} : Keeps s (t.retireParked grp slot) := by
  unfold State.retireParked
  split
  · exact h
  · exact ((h.onGroup (by exact fun _ => rfl)).onPath.onTeam (by exact fun _ => rfl)).perfGroup

theorem Keeps.clearRet (h : Keeps s t) {team : Nat} : Keeps s (t.clearRet team) := h.onTeam (by exact fun _ => rfl)

/-- An instruction that issues, whatever becomes of it. -/
theorem Plan.Keeping.run {p : Plan} (k : p.Keeping) (i : Instr) (s : State) : KeepsNext s (run i p s) := by
  unfold Machine.run
  split
  · exact .refused
  · split
    · exact .next (Keeps.refl s).tick
    · split
      · exact .next (Keeps.refl s).raise
      · split
        · next e => exact .next (k.hold _ _ _ e (Keeps.refl s)).parkTest.tick
        · split
          · exact .next (Keeps.refl s).raise
          · split
            · exact .next (Keeps.refl s).raise
            · exact .next (k.act _ (Keeps.refl s).retire).account

/-! ### Plans that change registers and paths of their group -/

theorem lanePlan_keeping (g : Guard) (d : VReg) (k : Nat) (src : List Use) (val : Arch → Word → Nat → Nat) :
    (lanePlan g d k src val).Keeping :=
  ⟨fun _ _ _ h => by unfold lanePlan; dsimp only; exact h.onArch, fun _ _ _ e => of_none_eq_some e⟩

theorem predPlan_keeping (g : Guard) (p : PReg) (src : List Use) (val : Arch → Word → Nat → Bool) : (predPlan g p src val).Keeping :=
  ⟨fun _ _ _ h => by unfold predPlan; dsimp only; exact h.onArch, fun _ _ _ e => of_none_eq_some e⟩

theorem uniPlan_keeping (d : SReg) (k : Nat) (src : List Use) (val : Arch → Nat) : (uniPlan d k src val).Keeping :=
  ⟨fun _ _ _ h => by unfold uniPlan; dsimp only; exact h.onArch, fun _ _ _ e => of_none_eq_some e⟩

theorem getPlan_keeping (d : SReg) (k : Nat) (src : List Use) (f : State → Here → Nat) : (getPlan d k src f).Keeping :=
  ⟨fun _ _ _ h => by unfold getPlan; dsimp only; exact h.onArch, fun _ _ _ e => of_none_eq_some e⟩

theorem Keeps.setPst (h : Keeps s t) {x : Here} {l : List Word} : Keeps s (t.setPst x l) := h.onPath
theorem Keeps.setFmt (h : Keeps s t) {x : Here} {v : Word} : Keeps s (t.setFmt x v) := h.onPath
theorem Keeps.ownUses (h : Keeps s t) {grp : Nat} {us : List Use} {act : Word} {seen : Reg → Word} : Keeps s (t.ownUses grp us act seen) :=
  (h.onGroup (by exact fun _ => rfl))
theorem Keeps.goto (h : Keeps s t) {grp : Nat} {slot : Bool} {a : DWord} {e : Entry} : Keeps s (t.goto grp slot a e) := h.onPath

theorem Keeps.spinAt (h : Keeps s t) {x : Here} {i : Instr} {taken : Bool} {a : DWord} : Keeps s (t.spinAt x i taken a) := by
  unfold State.spinAt
  exact h.ite (h.onGroup (by exact fun _ => rfl))

/-! ### Lane memory -/

theorem Keeps.keepPriv (h : Keeps s t) {grp : Nat} {sp : Space} {xs : List (Nat × LaneBytes)} : Keeps s (t.keepPriv grp sp xs) := h.onGroup (by exact fun _ => rfl)

theorem Keeps.settleLate (h : Keeps s t) {x : Here} {o : MemOrder} {write : Bool} {xs : List (Nat × LaneBytes)} :
    Keeps s (t.settleLate x o write xs) := by
  unfold State.settleLate
  exact h.drainLate.ite (h.performBy.ite h)

theorem Keeps.countPasses (h : Keeps s t) {x : Here} {sp : Space} {k : Nat} : Keeps s (t.countPasses x sp k) := by
  unfold State.countPasses
  exact h.perf.ite h

theorem Keeps.viewStore (h : Keeps s t) {grp k : Nat} {bs : List Byte} : Keeps s (State.viewStore grp t k bs) := by
  unfold State.viewStore
  split
  · exact h.store
  · exact h.onGroup (by exact fun _ => rfl)

theorem Keeps.storeRuns (h : Keeps s t) {put : State → Nat → List Byte → State} (hp : ∀ t k bs, Keeps t (put t k bs)) {runs : List (Nat × Nat)}
    {bs : List Byte} : Keeps s (t.storeRuns put runs bs) := by
  induction runs generalizing t bs with
  | nil => exact h
  | cons r runs ih => exact ih (h.trans (hp t _ _))

theorem loadPlan_keeping (g : Guard) (d a : VReg) (n : Nat) (signed : Bool) (o : MemOrder) (sp : Space) :
    (loadPlan g d a n signed o sp).Keeping :=
  ⟨fun _ _ _ h => by unfold loadPlan; exact (h.settleLate.keepPriv.onGroup (by exact fun _ => rfl)).countPasses, fun _ _ _ e => of_none_eq_some e⟩

theorem storePlan_keeping (g : Guard) (d a : VReg) (n : Nat) (o : MemOrder) (sp : Space) : (storePlan g d a n o sp).Keeping where
  act x s t h := by
    unfold storePlan
    dsimp only
    refine Keeps.countPasses (Keeps.onArch (Keeps.ite ?_ (Keeps.foldl ?_ fun t _ => (Keeps.refl t).storeRuns fun t _ _ => (Keeps.refl t).viewStore)))
    · exact h.settleLate.keepPriv
    · exact h.settleLate.keepPriv
  hold _ _ _ e := of_none_eq_some e

theorem Keeps.atomicLanes (h : Keeps s t) {op : AtomicOp} {ty : Ty} {x : Here} {b c : VReg} {xs : List (Nat × LaneBytes)} :
    Keeps s (atomicLanes op ty x b c t xs).1 := by
  suffices q : ∀ (l : List (Nat × Nat)) {t}, Keeps s t → Keeps s (xs.foldl (fun (acc : State × List (Nat × Nat)) e =>
      let st := acc.1
      let old := ofBytes (st.viewBytes none e.2)
      let new := op.eval ty old (x.a.lane b.toNat ty.regs e.1) (x.a.lane c.toNat ty.regs e.1)
      (st.storeRuns State.store e.2.runs (toBytes (4 * ty.regs) new), acc.2 ++ [(e.1, old)])) (t, l)).1 from q [] h
  induction xs with
  | nil => exact fun _ _ h => h
  | cons e xs ih => exact fun l t h => ih _ (h.storeRuns fun t _ _ => (Keeps.refl t).store)

theorem atomicPlan_keeping (op : AtomicOp) (g : Guard) (d a b c : VReg) (t : Ty) (o : MemOrder) (sp : Space) (ret : Bool) :
    (atomicPlan op g d a b c t o sp ret).Keeping where
  act x s t h := by
    unfold atomicPlan
    dsimp only
    split
    · exact h.settleLate.keepPriv.onArch.countPasses
    · exact h.settleLate.keepPriv.atomicLanes.onArch.countPasses
  hold _ _ _ e := of_none_eq_some e

/-! ### Barriers -/

theorem Keeps.onTeamPaths (h : Keeps s t) {team : Nat} {f : Group → Path → Path} : Keeps s (t.onTeamPaths team f) :=
  h.mapGroups (ite_key_eq fun _ => rfl)

theorem Keeps.retireAll (h : Keeps s t) {l : List (Nat × Bool)} : Keeps s (t.retireAll l) := h.foldl fun t _ => (Keeps.refl t).retireParked
theorem Keeps.onBar (h : Keeps s t) {team n : Nat} {f : NamedBar → NamedBar} : Keeps s (t.onBar team n f) := h.onTeam (by exact fun _ => rfl)

theorem Keeps.retireWhere (h : Keeps s t) {team : Nat} {p : Group → Path → Bool} : Keeps s (t.retireWhere team p) := by
  unfold State.retireWhere
  exact h.retireAll.foldl fun t _ => (Keeps.refl t).ite ((Keeps.refl t).onArch.onTeam (by exact fun _ => rfl)).perfGroup

theorem Keeps.markArrival (h : Keeps s t) {g : Group} {n gen : Nat} : Keeps s (t.markArrival g n gen) := by
  unfold State.markArrival
  exact h.onArch.retireWhere

theorem Keeps.completeBar (h : Keeps s t) {team n : Nat} {b : NamedBar} : Keeps s (t.completeBar team n b) := by
  unfold State.completeBar
  exact h.onBar.clearRet.retireWhere.ite h.onBar

theorem Keeps.countArrival (h : Keeps s t) {g : Group} {n count : Nat} : Keeps s (t.countArrival g n count) := by
  unfold State.countArrival
  split
  · exact h
  · have hf : ∀ k, Keeps s (match (g.arch.paths.find? fun e => !e.2.arrived) <|> g.arch.paths.head? with
      | some (slot, p) => t.raise g slot p.pc p.iword { kind := k, addr := BitVec.ofNat 64 n }
      | none => t) := fun k => by
        split
        · exact h.raise
        · exact h
    exact (hf _).ite ((hf _).ite h.onBar.markArrival)

theorem Keeps.settleBar (h : Keeps s t) {team n k : Nat} : Keeps s (t.settleBar team n k) := by
  induction k generalizing t with
  | zero => exact h
  | succ k ih =>
    unfold State.settleBar
    split
    · exact h
    · dsimp only
      split
      · exact h
      · split
        · exact ih h.completeBar
        · split
          · exact h
          · split
            · exact ih h.onBar.countArrival
            · exact ih h.onBar

theorem Keeps.arriveNamed (h : Keeps s t) {g : Group} {n count : Nat} : Keeps s (t.arriveNamed g n count) := by
  unfold State.arriveNamed
  split
  · exact h
  · extract_lets a
    have ha : Keeps s a := h.onBar.ite h.countArrival.settleBar
    split
    · exact ha.raise
    · exact ha

theorem Keeps.leftSlot (h : Keeps s t) {g : Group} {slot : Bool} {pc : DWord} {iw : Word} : Keeps s (t.leftSlot g slot pc iw) := by
  unfold State.leftSlot
  split
  · exact h.raise
  · exact h.parkTest

theorem Keeps.exitBars (h : Keeps s t) {team gidx : Nat} : Keeps s (t.exitBars team gidx) := h.onBar.settleBar

theorem Keeps.groupExits (h : Keeps s t) {x : Here} {i : Instr} : Keeps s (t.groupExits x i) := by
  unfold State.groupExits
  extract_lets a b c d
  have hd : Keeps s d := ((h.onGroup (by exact fun _ => rfl)).onTeam (by exact fun _ => rfl)).onCore.exitBars
  split
  · exact hd.raise
  · exact hd

theorem barPlan_keeping (src : List Use) (late : State → Here → Option Report) (key : Here → BarKind × Nat × Nat) (hold : Bool) :
    (barPlan src late key hold).Keeping where
  act _ _ _ h := h
  hold x y f e u t h := by
    cases e
    dsimp only
    split
    · exact h.park.raise
    · exact h.park

theorem tbarPlan_keeping (c : BitVec 6) (n : BitVec 4) (hold : Bool) : (tbarPlan c n hold).Keeping :=
  let k := barPlan_keeping [] (fun _ h => if h.t.bars.length ≤ n.toNat then some { kind := .bounds, addr := BitVec.ofNat 64 n.toNat } else none)
    (fun _ => (.named, n.toNat, c.toNat)) hold
  ⟨k.act, k.hold⟩

theorem slotPlan_keeping (k : BarKind) (a : SReg) (hold : Bool) : (slotPlan k a hold).Keeping := barPlan_keeping _ _ _ hold

/-! ### Forks -/

theorem Keeps.fork (h : Keeps s t) {x : Here} {rets : Word} : Keeps s (t.fork x rets) := by
  unfold State.fork
  split
  · exact h
  · exact (h.onGroup (by exact fun _ => rfl)).perfGroup

theorem Keeps.resolve (h : Keeps s t) {x : Here} : Keeps s (t.resolve x) := by
  unfold State.resolve
  split
  · exact h
  · split
    · exact h
    · exact h.ite (((((h.onGroup (by exact fun _ => rfl)).onTeam (by exact fun _ => rfl))).foldl fun t _ => (Keeps.refl t).store).perfGroup.ite (h.onGroup (by exact fun _ => rfl)).countSquash)

theorem Keeps.trainPred (h : Keeps s t) {x : Here} {pidx : BitVec 16} {rets : Word} : Keeps s (t.trainPred x pidx rets) := by
  unfold State.trainPred
  split
  · exact h
  · exact h.onCore

end

section
variable {s t u : State}

/-! ### The matrix unit -/

theorem Keeps.onMx (h : Keeps s t) {die site : Nat} {f : Matrix → Matrix} : Keeps s (t.onMx die site f) := h.onCore

theorem Keeps.complete (h : Keeps s t) {grp : Nat} {seq : Option Nat} : Keeps s (t.complete grp seq) := by
  unfold State.complete
  split
  · exact h
  · exact h.onGroup (by exact fun _ => rfl)

theorem Keeps.queueMx (h : Keeps s t) {x : Here} {i : Instr} {k : MxKind} {tracked : Bool} : Keeps s (t.queueMx x i k tracked) := by
  unfold State.queueMx
  exact h.onMx.onArch.ite h.onMx

/-- A full queue leaves the state. -/
theorem keeps_holdIf {full : State → Here → Bool} {w : State} {x : Here} {f : State → State} (e : holdIf full w x = some f) (h : Keeps s t) :
    Keeps s (f t) := by
  unfold holdIf at e
  split at e
  · cases e; exact h
  · exact of_none_eq_some e

theorem Plan.keeping_of_holdIf {p : Plan} {full : State → Here → Bool} (hh : p.hold = holdIf full)
    (ha : ∀ (h : Here) {s t : State}, Keeps s t → Keeps s (p.act h t)) : p.Keeping :=
  ⟨ha, fun _ _ _ e _ _ h => keeps_holdIf (by rw [← hh]; exact e) h⟩

theorem mldPlan_keeping (i : Instr) (a : SReg) (scl : Bool) : (mldPlan i a scl).Keeping :=
  Plan.keeping_of_holdIf rfl fun _ _ _ h => by unfold mldPlan; dsimp only; exact h.queueMx

theorem mlpPlan_keeping (i : Instr) (a : SReg) (zero : Bool) : (mlpPlan i a zero).Keeping :=
  Plan.keeping_of_holdIf rfl fun _ _ _ h => by unfold mlpPlan; dsimp only; exact h.queueMx

theorem mdrnPlan_keeping (i : Instr) (a : SReg) (scl : Bool) : (mdrnPlan i a scl).Keeping :=
  Plan.keeping_of_holdIf rfl fun _ _ _ h => by unfold mdrnPlan; dsimp only; exact h.queueMx

theorem execMswp_keeps (s : State) : KeepsNext s (execMswp s) :=
  Plan.Keeping.run (Plan.keeping_of_holdIf rfl fun _ _ _ h => by dsimp only; exact h.queueMx) _ s

theorem execRopeTake_keeps (s : State) : KeepsNext s (execRopeTake s) := by
  refine Plan.Keeping.run ⟨fun _ _ _ h => h, fun _ _ _ e _ _ h => ?_⟩ _ s
  dsimp only at e
  split at e
  · exact of_none_eq_some e
  · cases e; exact h.park.onMx

theorem execRopeGive_keeps (s : State) : KeepsNext s (execRopeGive s) :=
  Plan.Keeping.run ⟨fun _ _ _ h => by dsimp only; exact h.onMx, fun _ _ _ e => of_none_eq_some e⟩ _ s

theorem Keeps.retireAt (h : Keeps s t) {grp : Nat} {w : PathAt} : Keeps s (t.retireAt grp w) := by
  unfold State.retireAt
  split
  · exact h.retireParked
  · exact (h.onArch.onTeam (by exact fun _ => rfl)).perfGroup
  · exact h

theorem execRopeGrant_keeps (die site : Nat) (s : State) : KeepsNext s (execRopeGrant die site s) := by
  unfold execRopeGrant
  dsimp only
  split
  · exact .refused
  · split
    · exact .refused
    · refine .ite ?_ .refused
      split
      · exact .next (Keeps.refl s).onMx.retireAt
      · exact .next (Keeps.refl s).onMx

theorem Keeps.raiseMx (h : Keeps s t) {die site : Nat} {x : MxThread} {r : Report} : Keeps s (t.raiseMx die site x r) := by
  unfold State.raiseMx
  exact h.onMx.nextSeqNo.faultEffect fun h => h

theorem Keeps.endMx (h : Keeps s t) {die site : Nat} {x : MxThread} : Keeps s (t.endMx die site x) := by
  unfold State.endMx
  exact h.onMx.complete

theorem execMatrixLoadThread_keeps (die site : Nat) (s : State) : KeepsNext s (execMatrixLoadThread die site s) := by
  unfold execMatrixLoadThread
  split
  · exact .refused
  · dsimp only
    exact .ite (.next (Keeps.refl s).raiseMx) (.next (Keeps.refl s).onMx.endMx)

theorem execMswpExchange_keeps (die site : Nat) (s : State) : KeepsNext s (execMswpExchange die site s) := by
  unfold execMswpExchange
  split
  · exact .refused
  · exact .next (Keeps.refl s).onMx.endMx

theorem execMatrixLoopStep_keeps (die site : Nat) (s : State) : KeepsNext s (execMatrixLoopStep die site s) := by
  unfold execMatrixLoopStep
  split
  · exact .refused
  · split
    · dsimp only
      split
      · exact .next (Keeps.refl s).raiseMx
      · split
        · exact .next (Keeps.refl s).raiseMx
        · exact .ite (.next ((Keeps.refl s).onMx.perf.onTeam (by exact fun _ => rfl)).endMx) (.next ((Keeps.refl s).onMx.perf.onTeam (by exact fun _ => rfl)))
    · exact .refused

theorem Keeps.mergeAmax (h : Keeps s t) {x : Team} {off : Nat} {m : Word} : Keeps s (t.mergeAmax x off m) := by
  unfold State.mergeAmax
  split
  · exact h.storeLE
  · exact h

theorem execDrainThread_keeps (die site : Nat) (s : State) : KeepsNext s (execDrainThread die site s) := by
  unfold execDrainThread
  split
  · exact .refused
  · split
    · dsimp only
      split
      · exact .next (Keeps.refl s).raiseMx
      · split
        · exact .next (Keeps.refl s).raiseMx
        · refine .ite (.next ?_) (.next ?_)
          · split
            · exact ((Keeps.refl s).store.ite (Keeps.refl s).store.store).mergeAmax.endMx
            · exact ((Keeps.refl s).store.ite (Keeps.refl s).store.store).endMx
          · exact ((Keeps.refl s).store.ite (Keeps.refl s).store.store).onMx
    · exact .refused

theorem execMatrixRelease_keeps (die site : Nat) (s : State) : KeepsNext s (execMatrixRelease die site s) := by
  unfold execMatrixRelease
  exact .ite (.next (Keeps.refl s).onMx) .refused

theorem execBlkGive_keeps (n : BitVec 5) (s : State) : KeepsNext s (execBlkGive n s) :=
  Plan.Keeping.run ⟨fun _ _ _ h => by dsimp only; exact (h.onGroup (by exact fun _ => rfl)).onTeam (by exact fun _ => rfl), fun _ _ _ e => of_none_eq_some e⟩ _ s

theorem Keeps.takeBlocks (h : Keeps s t) {grp team quad n : Nat} : Keeps s (t.takeBlocks grp team quad n) := (h.onGroup (by exact fun _ => rfl)).onTeam (by exact fun _ => rfl)

theorem execBlkTake_keeps (n : BitVec 5) (s : State) : KeepsNext s (execBlkTake n s) := by
  refine Plan.Keeping.run ⟨fun _ _ _ h => by dsimp only; exact h.takeBlocks, fun _ _ _ e _ _ h => ?_⟩ _ s
  dsimp only at e
  split at e
  · exact of_none_eq_some e
  · cases e; exact h.park.onTeam (by exact fun _ => rfl)

theorem execBlockWake_keeps (team quad : Nat) (s : State) : KeepsNext s (execBlockWake team quad s) := by
  unfold execBlockWake
  split
  · exact .refused
  · split
    · exact .refused
    · exact .ite (.next ((Keeps.refl s).onTeam (by exact fun _ => rfl)).takeBlocks.retireAt) .refused

/-! ### The refinement controller -/

theorem Keeps.setBlock (h : Keeps s t) {grp k : Nat} {fs : List (Nat × Nat × Nat)} : Keeps s (t.setBlock grp k fs) :=
  h.foldl fun t _ => (Keeps.refl t).viewStore

theorem Keeps.controllerWrites (h : Keeps s t) {r : Run} {regs : List Reg} : Keeps s (t.controllerWrites r regs) := h.onGroup (by exact fun _ => rfl)

theorem Keeps.enterRoutine (h : Keeps s t) {r : Run} {target : Nat} {resid : Bool} : Keeps s (t.enterRoutine r target resid) := h.onArch.goto

theorem Keeps.enterSolve (h : Keeps s t) {r : Run} {b : Block} {rung : Nat} : Keeps s (t.enterSolve r b rung) :=
  h.onPath.controllerWrites.setBlock.enterRoutine

theorem Keeps.enterResid (h : Keeps s t) {r : Run} {b : Block} : Keeps s (t.enterResid r b) := h.setBlock.enterRoutine

theorem Keeps.setStatus (h : Keeps s t) {r : Run} {w : Word} : Keeps s (t.setStatus r w) := h.onArch.controllerWrites

theorem Keeps.leaveRun (h : Keeps s t) {r : Run} {phase kind reason rung target : Nat} : Keeps s (t.leaveRun r phase kind reason rung target) :=
  h.setBlock.setStatus.goto

theorem Keeps.raiseRun (h : Keeps s t) {r : Run} {f : Report} : Keeps s (t.raiseRun r f) := by
  unfold State.raiseRun
  split
  · exact h.raise
  · exact h

theorem Keeps.escalateRun (h : Keeps s t) {r : Run} {b : Block} {stag : Bool} {reason : Nat} : Keeps s (t.escalateRun r b stag reason) := by
  unfold State.escalateRun
  exact h.setBlock.setBlock.enterSolve.ite (h.setBlock.setBlock.setStatus.raiseRun.ite h.setBlock.leaveRun)

theorem Keeps.testRun (h : Keeps s t) {r : Run} {b : Block} : Keeps s (t.testRun r b) := by
  unfold State.testRun
  dsimp only
  split
  · exact h.setBlock.enterSolve
  · exact h.setBlock.leaveRun
  · exact h.setBlock.escalateRun
  · exact h.setBlock.escalateRun

theorem Keeps.transition (h : Keeps s t) {x : Here} {pc : DWord} {resid : Bool} {off : Nat} : Keeps s (t.transition x pc resid off) := by
  unfold State.transition
  dsimp only
  split
  · exact h.raiseRun
  · exact (h.onGroup (by exact fun _ => rfl)).testRun.ite (h.onGroup (by exact fun _ => rfl)).enterResid

theorem execRflRun_keeps (a : SReg) (s : State) : KeepsNext s (execRflRun a s) :=
  Plan.Keeping.run ⟨fun _ _ _ h => by dsimp only; exact h.setBlock.enterSolve, fun _ _ _ e => of_none_eq_some e⟩ _ s

theorem execRflPut_keeps (a b : SReg) (s : State) : KeepsNext s (execRflPut a b s) := by
  refine Plan.Keeping.run ⟨fun _ _ _ h => ?_, fun _ _ _ e => of_none_eq_some e⟩ _ s
  dsimp only
  split
  · exact h
  · exact h.setBlock

end

section
variable {s t u : State}

/-! ### Branches, calls and returns -/

theorem Plan.keeping_of_act {p : Plan} (hh : ∀ s h, p.hold s h = none) (ha : ∀ (h : Here) {s t : State}, Keeps s t → Keeps s (p.act h t)) :
    p.Keeping :=
  ⟨ha, fun s h _ e => of_none_eq_some ((hh s h).symm.trans e)⟩

theorem Keeps.call (h : Keeps s t) {x : Here} {target : DWord} {flags : BitVec 8} {pidx : BitVec 16} {rets : Word} :
    Keeps s (t.call x target flags pidx rets) := h.onArch.goto

theorem execBra_keeps (c : BrCond) (a : SReg) (disp : BitVec 16) (s : State) : KeepsNext s (execBra c a disp s) :=
  Plan.Keeping.run (Plan.keeping_of_act (fun _ _ => rfl) fun _ _ _ h => by dsimp only; exact h.spinAt.goto.ite h.spinAt) _ s

theorem execBrd_keeps (p : PReg) (neg : Bool) (disp rdisp : BitVec 16) (s : State) : KeepsNext s (execBrd p neg disp rdisp s) :=
  Plan.Keeping.run (Plan.keeping_of_act (fun _ _ => rfl) fun _ _ _ h => by
    dsimp only
    exact h.spinAt.ite ((h.onGroup (by exact fun _ => rfl)).ownUses.perfGroup.ite h.spinAt.goto)) _ s

theorem execBraInd_keeps (a : SReg) (s : State) : KeepsNext s (execBraInd a s) :=
  Plan.Keeping.run (Plan.keeping_of_act (fun _ _ => rfl) fun _ _ _ h => by dsimp only; exact h.goto) _ s

theorem execCall_keeps (disp : BitVec 16) (s : State) : KeepsNext s (execCall disp s) :=
  Plan.Keeping.run (Plan.keeping_of_act (fun _ _ => rfl) fun _ _ _ h => by dsimp only; exact h.call) _ s

theorem execCallInd_keeps (a : SReg) (s : State) : KeepsNext s (execCallInd a s) :=
  Plan.Keeping.run (Plan.keeping_of_act (fun _ _ => rfl) fun _ _ _ h => by dsimp only; exact h.call) _ s

theorem execCallFk_keeps (disp : BitVec 16) (nret : BitVec 3) (r0 r1 r2 r3 : VReg) (s : State) : KeepsNext s (execCallFk disp nret r0 r1 r2 r3 s) :=
  Plan.Keeping.run (Plan.keeping_of_act (fun _ _ => rfl) fun _ _ _ h => by dsimp only; exact (h.fork.ite h).call) _ s

theorem execRet_keeps (s : State) : KeepsNext s (execRet s) := by
  refine Plan.Keeping.run (Plan.keeping_of_act (fun _ _ => rfl) fun x u t h => ?_) _ s
  dsimp only
  split
  · refine .ite ?_ (.ite (.ite ?_ ?_) ?_)
    · exact (h.drainLate.ite h).onArch.transition
    · exact (h.drainLate.ite h).onArch.trainPred
    · exact (h.drainLate.ite h).onArch.trainPred.resolve
    · exact (h.drainLate.ite h).onArch
  · exact h

theorem execExit_keeps (s : State) : KeepsNext s (execExit s) :=
  Plan.Keeping.run (Plan.keeping_of_act (fun _ _ => rfl) fun _ _ _ h => by
    dsimp only
    exact h.squashAll.onArch.groupExits.ite (h.squashAll.ite h.squashAll.onArch.leftSlot)) _ s

theorem execNop_keeps (s : State) : KeepsNext s (execNop s) :=
  Plan.Keeping.run (Plan.keeping_of_act (fun _ _ => rfl) fun _ _ _ h => h) _ s

/-- An instruction that sets the predicate stack. -/
theorem keepsNext_setPst {i : Instr} {p : Plan} {f : Here → List Word} (hh : ∀ s h, p.hold s h = none) (ha : ∀ h s, p.act h s = s.setPst h (f h))
    (s : State) : KeepsNext s (run i p s) :=
  Plan.Keeping.run (Plan.keeping_of_act hh fun x _ t h => by rw [ha]; exact h.setPst) _ s

theorem execEmSet_keeps (a : SReg) (s : State) : KeepsNext s (execEmSet a s) := keepsNext_setPst (fun _ _ => rfl) (fun _ _ => rfl) s
theorem execPmPush_keeps (p : PReg) (s : State) : KeepsNext s (execPmPush p s) := keepsNext_setPst (fun _ _ => rfl) (fun _ _ => rfl) s
theorem execPmInv_keeps (s : State) : KeepsNext s (execPmInv s) := keepsNext_setPst (fun _ _ => rfl) (fun _ _ => rfl) s
theorem execPmPop_keeps (s : State) : KeepsNext s (execPmPop s) := keepsNext_setPst (fun _ _ => rfl) (fun _ _ => rfl) s

theorem execFmtSet_keeps (a : SReg) (s : State) : KeepsNext s (execFmtSet a s) :=
  Plan.Keeping.run (Plan.keeping_of_act (fun _ _ => rfl) fun _ _ _ h => by dsimp only; exact h.setFmt) _ s

theorem execFmtSetImm_keeps (lit : Word) (s : State) : KeepsNext s (execFmtSetImm lit s) :=
  Plan.Keeping.run (Plan.keeping_of_act (fun _ _ => rfl) fun _ _ _ h => by dsimp only; exact h.setFmt) _ s

theorem execWaitK_keeps (a : SReg) (n : BitVec 4) (s : State) : KeepsNext s (execWaitK a n s) := by
  refine Plan.Keeping.run ⟨fun _ _ _ h => by dsimp only; exact h.onArch, fun _ _ _ e _ _ h => ?_⟩ _ s
  dsimp only at e
  split at e
  · cases e; exact h.park.ownUses
  · exact of_none_eq_some e

/-! ### Steps of a group's paths -/

theorem Keeps.wakeCounter (h : Keeps s t) {grp : Nat} {slot : Bool} {p : Path} : Keeps s (t.wakeCounter grp slot p) := by
  unfold State.wakeCounter
  split
  · exact h.onArch.retireParked
  · exact h.onArch.onPath
  · exact h

theorem execWaitKWake_keeps (grp : Nat) (slot : Bool) (s : State) : KeepsNext s (execWaitKWake grp slot s) := by
  unfold execWaitKWake
  split
  · exact .refused
  · split
    · exact .refused
    · exact .ite (.next (Keeps.refl s).wakeCounter) .refused

theorem Keeps.enterClause (h : Keeps s t) {x : Here} : Keeps s (t.enterClause x) := by
  unfold State.enterClause
  split
  · exact h.raise
  · exact h.onArch.setPath.ite h.setPath.parkTest

theorem Keeps.refetch (h : Keeps s t) {x : Here} : Keeps s (t.refetch x) := by
  unfold State.refetch
  split
  · exact h.raise
  · exact h.setPath

theorem Keeps.arrived (h : Keeps s t) {grp : Nat} : Keeps s (t.arrived grp) := by
  unfold State.arrived
  split
  · exact h
  · split
    · exact h.leftSlot
    · exact h

theorem Keeps.enter (h : Keeps s t) {x : Here} : Keeps s (t.enter x) := by
  unfold State.enter
  exact (h.raise.ite (h.drainLate.ite h).onArch.arrived).ite h.enterClause

theorem execClauseEntry_keeps (s : State) : KeepsNext s (execClauseEntry s) := by
  unfold execClauseEntry
  split
  · exact .refused
  · refine .ite .refused (.ite ?_ (.next (Keeps.refl s).enter))
    split
    · exact .next (Keeps.refl s).raise
    · exact .ite (.next (Keeps.refl s).refetch) (.next (Keeps.refl s).enter)

theorem Keeps.completeAccess (h : Keeps s t) {grp seq : Nat} : Keeps s (t.completeAccess grp seq) := h.performBy.complete

theorem execLaneAccessComplete_keeps (grp seq : Nat) (s : State) : KeepsNext s (execLaneAccessComplete grp seq s) := by
  unfold execLaneAccessComplete
  exact .ite (.next (Keeps.refl s).completeAccess) .refused

theorem Group.promote_id (g : Group) (slot : Bool) (cont : Option Nat) : (g.promote slot cont).id = g.id := by cases cont <;> rfl

theorem execStarvationPromotion_keeps (die site quad : Nat) (s : State) : KeepsNext s (execStarvationPromotion die site quad s) := by
  unfold execStarvationPromotion
  dsimp only
  split
  · exact .refused
  · exact .next ((Keeps.refl s).onCore.onGroup fun g => g.promote_id _ _)

theorem Keeps.spillFails (h : Keeps s t) {x : Here} {r : Report} : Keeps s (t.spillFails x r) := by
  unfold State.spillFails
  exact h.squashAll.nextSeqNo.faultEffect fun h => h.onGroup (by exact fun _ => rfl)

theorem Keeps.withdrawFor (h : Keeps s t) {p : Pos} : Keeps s (t.withdrawFor p) := by
  unfold State.withdrawFor
  split
  · exact h.onFe
  · exact h

theorem spillOne_keeps {x : Here} {q : Pos} : Keeps s (match s.spillOne x q with | .ok t => t | .error t => t) := by
  unfold State.spillOne
  dsimp only
  split
  · next e =>
    split at e
    · cases e
    · split at e
      · cases e
      · cases e; exact (Keeps.refl s).withdrawFor.store.onArch.perfGroup
  · next e =>
    split at e
    · cases e; exact (Keeps.refl s).spillFails
    · split at e
      · cases e; exact (Keeps.refl s).spillFails
      · cases e

theorem execSplitStackSpill_keeps (grp : Nat) (s : State) : KeepsNext s (execSplitStackSpill grp s) := by
  unfold execSplitStackSpill
  split
  · exact .refused
  · split
    · exact .next spillOne_keeps
    · exact .refused

theorem execSplitStackRefill_keeps (grp : Nat) (s : State) : KeepsNext s (execSplitStackRefill grp s) := by
  unfold execSplitStackRefill
  split
  · exact .refused
  · refine .ite ?_ .refused
    split
    · exact .next (Keeps.refl s).spillFails
    · exact .ite (.next (Keeps.refl s).spillFails) (.next (Keeps.refl s).onArch.perfGroup)

theorem execGroupRetire_keeps (grp : Nat) (s : State) : KeepsNext s (execGroupRetire grp s) := by
  unfold execGroupRetire
  exact .ite (.next ((Keeps.refl s).onGroup (by exact fun _ => rfl))) .refused

theorem execSpinRecognition_keeps (grp : Nat) (s : State) : KeepsNext s (execSpinRecognition grp s) := by
  unfold execSpinRecognition
  split
  · exact .refused
  · split
    · exact .ite (.next ((Keeps.refl s).onGroup (by exact fun _ => rfl)).park.perfGroup.parkTest) .refused
    · exact .refused

theorem execSpinWake_keeps (grp : Nat) (s : State) : KeepsNext s (execSpinWake grp s) := by
  unfold execSpinWake
  split
  · exact .refused
  · split
    · exact .ite (.next ((Keeps.refl s).park.onGroup (by exact fun _ => rfl)).clearRet) .refused
    · exact .refused

theorem execWaitWWake_keeps (grp : Nat) (slot : Bool) (s : State) : KeepsNext s (execWaitWWake grp slot s) := by
  unfold execWaitWWake
  split
  · exact .refused
  · exact .ite (.next ((Keeps.refl s).onGroup (by exact fun _ => rfl)).clearRet.retireParked) .refused

end

section
variable {s t u : State}

/-! ### Threads that start -/

/-- One thing more, numbered by the counter of its kind, which then counts on. -/
theorem nodup_append_new {α : Type} {key : α → Nat} {l m : List α} {n : Nat} (h : (l.map key).Nodup) (hb : ∀ x ∈ l, key x < n)
    (hm : (m.map key).Nodup) (hn : ∀ x ∈ m, n ≤ key x) : ((l ++ m).map key).Nodup := by
  rw [List.map_append]
  refine List.Nodup.append h hm (List.disjoint_left.mpr fun k hk hk' => ?_)
  obtain ⟨x, hx, rfl⟩ := List.mem_map.mp hk
  obtain ⟨y, hy, e⟩ := List.mem_map.mp hk'
  have := hb x hx
  have := hn y hy
  omega

theorem bound_append_new {α : Type} {key : α → Nat} {l m : List α} {n k : Nat} (hb : ∀ x ∈ l, key x < n) (hm : ∀ x ∈ m, key x < n + k) :
    ∀ x ∈ l ++ m, key x < n + k := by
  intro x hx
  rcases List.mem_append.mp hx with hl | hr
  · exact (hb x hl).trans_le (Nat.le_add_right n k)
  · exact hm x hr

theorem Keeps.addThread (h : Keeps s t) {x : Thread} (hx : x.id = t.nextThread) :
    Keeps s { t with threads := t.threads ++ [x], nextThread := t.nextThread + 1 } := by
  refine h.trans ⟨id, fun ⟨hg, hgb, ht, htb, hth, hthb, hrest⟩ => ⟨hg, hgb, ht, htb, ?_, ?_, hrest⟩⟩
  · exact nodup_append_new hth hthb (List.nodup_singleton _) fun y hy => by rw [List.mem_singleton.mp hy, hx]
  · exact bound_append_new hthb fun y hy => by rw [List.mem_singleton.mp hy, hx]; omega

theorem Keeps.startThread (h : Keeps s t) {x : Here} {i : Instr} {k : ThreadKind} {p : AccPath} {off : Nat} {launch : Bool} {f : Thread → Thread}
    (hf : ∀ y, (f y).id = y.id) : Keeps s (t.startThread x i k p off launch f) := by
  unfold State.startThread
  exact (h.addThread (hf _)).onArch

theorem commandPlan_keeping (i : Instr) (k : ThreadKind) (p : AccPath) (a : SReg) (full : State → Here → Bool) :
    (commandPlan i k p a full).Keeping :=
  Plan.keeping_of_holdIf rfl fun _ _ _ h => by unfold commandPlan; dsimp only; exact h.startThread (by exact fun _ => rfl)

theorem bulkPlan_keeping (i : Instr) (k : ThreadKind) (p : AccPath) (a : SReg) : (bulkPlan i k p a).Keeping := commandPlan_keeping ..
theorem collPlan_keeping (i : Instr) (op : BitVec 2) (ty : CollTy) (a : SReg) : (collPlan i op ty a).Keeping := commandPlan_keeping ..

/-! ### Engine threads that move -/

theorem Keeps.putPlace (h : Keeps s t) {tm : Team} {sp : Nat} {p : Place} {bs : List Byte} : Keeps s (t.putPlace tm sp p bs) := by
  unfold State.putPlace
  refine h.storeRuns fun t k b => ?_
  split
  · exact (Keeps.refl t).ite (Keeps.refl t).store
  · exact (Keeps.refl t).store

theorem Keeps.moved (h : Keeps s t) {x : Thread} {n k : Nat} : Keeps s (t.moved x n k) := (h.draw.onThread (by exact fun _ => rfl)).onTeam (by exact fun _ => rfl)
theorem Keeps.lostSet (h : Keeps s t) {l : List Nat} : Keeps s { t with lost := l } := h.trans ⟨id, id⟩

theorem execEngineDescriptorRead_keeps (tid : Nat) (s : State) : KeepsNext s (execEngineDescriptorRead tid s) := by
  unfold execEngineDescriptorRead
  split
  · exact .refused
  · dsimp only
    split
    · exact .next (Keeps.refl s).raiseThread
    · split
      · exact .next ((Keeps.refl s).draw.onThread (by exact fun _ => rfl)).onFe
      · exact .next ((Keeps.refl s).draw.onThread (by exact fun _ => rfl))

theorem Keeps.copyStep (h : Keeps s t) {x : Thread} {tm : Team} {k : Nat} (e : t.copyStep x tm k = .ok u) : Keeps s u := by
  unfold State.copyStep at e
  dsimp only at e
  split at e
  · cases e
  · split at e
    · cases e
    · cases e
      exact (h.putPlace.lostSet.ite h.putPlace).moved.onThread (by exact fun _ => rfl)

theorem Keeps.copyOn (h : Keeps s t) {tid : Nat} {tm : Team} {word : Int} {fuel : Nat} : Keeps s (t.copyOn tid tm word fuel) := by
  induction fuel generalizing t with
  | zero => exact h
  | succ fuel ih =>
    unfold State.copyOn
    split
    · exact h
    · dsimp only
      split
      · exact h
      · split
        · next e => exact ih (h.copyStep e)
        · exact h

theorem execCopyThread_keeps (tid : Nat) (s : State) : KeepsNext s (execCopyThread tid s) := by
  unfold execCopyThread
  split
  · exact .refused
  · refine .ite .refused ?_
    split
    · next e => exact .next ((Keeps.refl s).copyStep e).copyOn
    · split
      · next e => exact .next ((Keeps.refl s).copyStep e)
      · exact .next (Keeps.refl s).raiseThread

theorem Keeps.gsStep (h : Keeps s t) {x : Thread} {tm : Team} {d : Option (Nat × Int)} (e : t.gsStep x tm = .ok (u, d)) : Keeps s u := by
  unfold State.gsStep at e
  dsimp only at e
  split at e
  · cases e
  · split at e
    · cases e; exact h.moved
    · split at e
      · cases e
      · split at e
        · cases e
        · split at e
          · cases e
          · cases e; exact h.putPlace.moved

theorem execGatherScatterThread_keeps (tid : Nat) (s : State) : KeepsNext s (execGatherScatterThread tid s) := by
  unfold execGatherScatterThread
  split
  · exact .refused
  · refine .ite .refused ?_
    split
    · exact .refused
    · exact .next (Keeps.refl s).raiseThread
    · next e =>
      have hu := (Keeps.refl s).gsStep e
      split
      · refine .ite (.next hu) ?_
        split
        · next e' => exact .next ((hu.gsStep e').ite hu)
        · exact .next hu
      · exact .next hu

theorem execBulkAtomicThread_keeps (tid : Nat) (s : State) : KeepsNext s (execBulkAtomicThread tid s) := by
  unfold execBulkAtomicThread
  split
  · exact .refused
  · refine .ite .refused ?_
    split
    · exact .next (Keeps.refl s).raiseThread
    · split
      · exact .next (Keeps.refl s).raiseThread
      · split
        · exact .next (Keeps.refl s).raiseThread
        · refine .next (Keeps.moved ?_)
          split
          · exact (Keeps.refl s).putPlace.putPlace
          · exact (Keeps.refl s).putPlace

theorem Keeps.endThread (h : Keeps s t) {x : Thread} : Keeps s (t.endThread x) := by
  unfold State.endThread
  exact h.filterThreads.ite h.filterThreads.complete

theorem execEngineCompletion_keeps (tid : Nat) (s : State) : KeepsNext s (execEngineCompletion tid s) := by
  unfold execEngineCompletion
  split
  · exact .refused
  · refine .ite .refused (.ite (.next (Keeps.refl s).endThread) ?_)
    dsimp only
    split
    · exact .next (Keeps.refl s).raiseThread
    · exact .next (Keeps.refl s).putPlace.endThread

/-! ### System instructions, walks and held records -/

theorem execFence_keeps (sc : Scope) (s : State) : KeepsNext s (execFence sc s) :=
  Plan.Keeping.run (Plan.keeping_of_act (fun _ _ => rfl) fun _ _ _ h => h) _ s

theorem Keeps.discardOn (h : Keeps s t) {ctx : Nat} {dies : List Nat} : Keeps s (t.discardOn ctx dies) := h.trans ⟨id, id⟩

theorem execTfence_keeps (sc : Scope) (s : State) : KeepsNext s (execTfence sc s) :=
  Plan.Keeping.run (Plan.keeping_of_act (fun _ _ => rfl) fun _ _ _ h => by dsimp only; exact (h.squashIf.discardOn.startThread (by exact fun _ => rfl))) _ s

theorem execTfenceComplete_keeps (tid : Nat) (s : State) : KeepsNext s (execTfenceComplete tid s) := by
  unfold execTfenceComplete
  split
  · exact .refused
  · split
    · exact .ite .refused (.next (Keeps.refl s).endThread)
    · exact .refused

theorem execTrap_keeps (code : BitVec 6) (s : State) : KeepsNext s (execTrap code s) :=
  Plan.Keeping.run (Plan.keeping_of_act (fun _ _ => rfl) fun _ _ _ h => h) _ s

theorem execSysRd_keeps (d : SReg) (n : BitVec 6) (s : State) : KeepsNext s (execSysRd d n s) :=
  Plan.Keeping.run (Plan.keeping_of_act (fun _ _ => rfl) fun _ _ _ h => by dsimp only; exact h.onArch) _ s

theorem execSysWr_keeps (a : SReg) (n : BitVec 6) (s : State) : KeepsNext s (execSysWr a n s) :=
  Plan.Keeping.run (Plan.keeping_of_act (fun _ _ => rfl) fun _ _ _ h => by dsimp only; exact h.onCore) _ s

theorem execSint_keeps (a : SReg) (s : State) : KeepsNext s (execSint a s) :=
  Plan.Keeping.run (Plan.keeping_of_act (fun _ _ => rfl) fun _ _ _ h => by dsimp only; exact h.onFe) _ s

theorem execTableWalk_keeps (die ctx va : Nat) (w : WalkUnit) (s : State) : KeepsNext s (execTableWalk die ctx va w s) := by
  unfold execTableWalk
  exact .ite .refused (.next ((Keeps.refl s).foldl fun t _ => (Keeps.refl t).ite (Keeps.refl t).tlbFill))

theorem execHeldRecordRelease_keeps (ctx : Nat) (s : State) : KeepsNext s (execHeldRecordRelease ctx s) := by
  unfold execHeldRecordRelease
  split
  · exact .refused
  · exact .ite .refused (.next (Keeps.refl s).releaseHeld)

theorem execFrtailReread_keeps (ctx : Nat) (s : State) : KeepsNext s (execFrtailReread ctx s) := by
  unfold execFrtailReread
  split
  · exact .refused
  · exact .ite .refused (.next (Keeps.refl s).releaseHeld)

/-! ### Collectives -/

theorem Keeps.collWrite (h : Keeps s t) {x : Thread} {tm : Team} {ty : CollTy} {vals : List Word} : Keeps s (t.collWrite x tm ty vals) := by
  induction vals generalizing t x with
  | nil => exact h.onThread (by exact fun _ => rfl)
  | cons v vals ih =>
    unfold State.collWrite
    split
    · exact (h.onThread (by exact fun _ => rfl)).raiseThread
    · exact ih h.putPlace

theorem Keeps.leaveColl (h : Keeps s t) {tid : Nat} : Keeps s (t.leaveColl tid) := h.onFe

theorem Keeps.settleColl (h : Keeps s t) {tid : Nat} : Keeps s (t.settleColl tid) := by
  unfold State.settleColl
  exact h.leaveColl.ite h

theorem Keeps.collRun (h : Keeps s t) {x : Thread} {tm : Team} {op : BitVec 2} {ty : CollTy} {members : DWord} {remote : List CollPart} :
    Keeps s (t.collRun x tm op ty members remote) := by
  unfold State.collRun
  refine h.leaveColl.raiseThread.ite (h.leaveColl.raiseThread.ite ?_)
  split
  · exact h.raiseThread.settleColl
  · exact (((h.onThread (by exact fun _ => rfl)).onThread (by exact fun _ => rfl)).ite (h.onThread (by exact fun _ => rfl)).collWrite).settleColl

theorem execCollectiveInstance_keeps (cg : Nat) (remote : List CollPart) (s : State) : KeepsNext s (execCollectiveInstance cg remote s) := by
  unfold execCollectiveInstance
  split
  · exact .refused
  · split
    · exact .refused
    · split
      · exact .ite .refused (.ite (.next (Keeps.refl s).collRun) (.next (Keeps.refl s).collWrite.settleColl))
      · exact .refused

/-! ### Memory stacks -/

theorem execStkHand_keeps (stack : BitVec 4) (die : BitVec 2) (s : State) : KeepsNext s (execStkHand stack die s) :=
  Plan.Keeping.run (Plan.keeping_of_act (fun _ _ => rfl) fun _ _ _ h => by dsimp only; exact (h.squashIf.startThread (by exact fun _ => rfl)).onStack) _ s

theorem Keeps.drainTo (h : Keeps s t) {x : Thread} {n d step : Nat} {f : Stack → Stack} : Keeps s (t.drainTo x n d step f) := (h.onThread (by exact fun _ => rfl)).onStack

theorem execHandoverDrain_keeps (tid : Nat) (s : State) : KeepsNext s (execHandoverDrain tid s) := by
  unfold execHandoverDrain
  split
  · exact .next (Keeps.refl s).drainTo
  · exact .ite .refused (.next (Keeps.refl s).drainTo)
  · exact .refused

theorem Keeps.tlbSet (h : Keeps s t) {l : List TlbEntry} : Keeps s { t with tlb := l } := h.trans ⟨id, id⟩
theorem Keeps.discardStack (h : Keeps s t) {x : Thread} {n : Nat} : Keeps s (t.discardStack x n) := h.tlbSet.onThread (by exact fun _ => rfl)

theorem execStackCacheFlush_keeps (tid : Nat) (s : State) : KeepsNext s (execStackCacheFlush tid s) := by
  unfold execStackCacheFlush
  split
  · exact .next (Keeps.refl s).writeBack.drainTo.discardStack
  · exact .refused

theorem execHandoverTranslationDiscard_keeps (tid : Nat) (s : State) : KeepsNext s (execHandoverTranslationDiscard tid s) := by
  unfold execHandoverTranslationDiscard
  split
  · exact .ite .refused (.next (Keeps.refl s).drainTo)
  · exact .refused

theorem execPortSwitch_keeps (tid : Nat) (s : State) : KeepsNext s (execPortSwitch tid s) := by
  unfold execPortSwitch
  split
  · exact .next (Keeps.refl s).drainTo
  · exact .refused

theorem execHandoverComplete_keeps (tid : Nat) (s : State) : KeepsNext s (execHandoverComplete tid s) := by
  unfold execHandoverComplete
  split
  · refine .next (Keeps.endThread (Keeps.mapThreads ?_ (ite_key_eq ?_)))
    · exact (Keeps.refl s).onStack
    · exact fun _ => rfl
  · exact .refused

theorem Keeps.poison (h : Keeps s t) {q : Nat} : Keeps s (t.poison q) := by
  unfold State.poison
  split
  · exact h.trans ⟨id, id⟩
  · exact h.lostSet

theorem execPatrolScrub_keeps (n : Nat) (found : ScrubFinding) (s : State) : KeepsNext s (execPatrolScrub n found s) := by
  unfold execPatrolScrub
  split
  · exact .refused
  · refine .ite .refused ?_
    dsimp only
    split
    · exact .next (Keeps.refl s).onStack
    · exact .next (Keeps.refl s).onStack
    · exact .next (Keeps.refl s).poison.onStack

theorem execRefresh_keeps (n temp : Nat) (s : State) : KeepsNext s (execRefresh n temp s) := by
  unfold execRefresh
  split
  · exact .refused
  · exact .ite (.next (Keeps.refl s).onStack) .refused

theorem execLogDrain_keeps (n : Nat) (s : State) : KeepsNext s (execLogDrain n s) := by
  unfold execLogDrain
  split
  · exact .refused
  · split
    · exact .refused
    · exact .next (Keeps.refl s).onStack.mgmtLog.nextSeqNo

theorem execStkstatRead_keeps (n : Nat) (s : State) : KeepsNext s (execStkstatRead n s) := by
  unfold execStkstatRead
  split
  · exact .refused
  · exact .next (Keeps.refl s).onFe

end

/-- Things numbered one after the other from n on. -/
theorem numbered_nodup {α : Type} {key : α → Nat} {m : List α} {n k : Nat} (h : m.map key = (List.range k).map fun i => n + i) :
    (m.map key).Nodup ∧ (∀ x ∈ m, n ≤ key x) ∧ ∀ x ∈ m, key x < n + k := by
  have hmem {x : α} (hx : x ∈ m) : ∃ i < k, n + i = key x := by
    have hk := List.mem_map_of_mem (f := key) hx
    rw [h] at hk
    obtain ⟨i, hi, e⟩ := List.mem_map.mp hk
    exact ⟨i, List.mem_range.mp hi, e⟩
  refine ⟨h ▸ List.nodup_range.map fun i j e => Nat.add_left_cancel e, fun x hx => ?_, fun x hx => ?_⟩
  · obtain ⟨i, -, e⟩ := hmem hx
    omega
  · obtain ⟨i, hi, e⟩ := hmem hx
    omega

section
variable {s t u : State}

/-! ### Teams that are placed -/

theorem Keeps.addGroups (h : Keeps s t) {gs : List Group} {k : Nat} (hid : gs.map (·.id) = (List.range k).map fun i => t.nextGroup + i) :
    Keeps s { t with groups := t.groups ++ gs, nextGroup := t.nextGroup + k } := by
  obtain ⟨hnew, hge, hlt⟩ := numbered_nodup hid
  exact h.trans ⟨id, fun ⟨hg, hgb, hrest⟩ => ⟨nodup_append_new hg hgb hnew hge, bound_append_new hgb hlt, hrest⟩⟩

theorem Keeps.addTeams (h : Keeps s t) {ts : List Team} {k : Nat} (hid : ts.map (·.id) = (List.range k).map fun i => t.nextTeam + i) :
    Keeps s { t with teams := t.teams ++ ts, nextTeam := t.nextTeam + k } := by
  obtain ⟨hnew, hge, hlt⟩ := numbered_nodup hid
  exact h.trans ⟨id, fun ⟨hg, hgb, ht, htb, hrest⟩ => ⟨hg, hgb, nodup_append_new ht htb hnew hge, bound_append_new htb hlt, hrest⟩⟩

theorem Keeps.createGroups (h : Keeps s t) {team : Nat} {g : Grid} {slots : List Nat} : Keeps s (t.createGroups team g slots) := by
  unfold State.createGroups
  refine ((Keeps.addGroups h ?_).onCtx.onTeam (by exact fun _ => rfl))
  refine List.ext_getElem (by simp) fun i _ _ => ?_
  simp [newGroup]

theorem Keeps.reseatGroups (h : Keeps s t) {team : Nat} {slots : List Nat} : Keeps s (t.reseatGroups team slots) :=
  h.foldl fun t _ => (Keeps.refl t).onGroup (by exact fun _ => rfl)

theorem Keeps.savedSet (h : Keeps s t) {l : List SavedMatrix} : Keeps s { t with saved := l } := h.trans ⟨id, id⟩
theorem Keeps.diesSet (h : Keeps s t) {l : List Die} : Keeps s { t with dies := l } := h.trans ⟨id, id⟩
theorem Keeps.ageSet (h : Keeps s t) {n : Nat} : Keeps s { t with nextAge := n } := h.trans ⟨id, id⟩

theorem Keeps.restoreMatrix (h : Keeps s t) {team die site : Nat} : Keeps s (t.restoreMatrix team die site) := by
  unfold State.restoreMatrix
  split
  · exact h.savedSet.onMx.onTeam (by exact fun _ => rfl)
  · exact h.onMx

theorem Keeps.freeStored (h : Keeps s t) {x : Team} {ctx : Nat} : Keeps s (t.freeStored x ctx) := h.onCtx
theorem Keeps.dequeue (h : Keeps s t) {team : Nat} : Keeps s (t.dequeue team) := h.diesSet

theorem Keeps.seatTeam (h : Keeps s t) {die : Nat} {seat : Nat × Nat × List Nat × Nat} : Keeps s (t.seatTeam die seat) := by
  unfold State.seatTeam
  dsimp only
  split
  · exact h
  · split
    · exact h
    · refine Keeps.ageSet (Keeps.onTeam (Keeps.tick ?_) (by exact fun _ => rfl))
      split
      · exact h.dequeue.reseatGroups.restoreMatrix.freeStored
      · exact (h.dequeue.reseatGroups.onTeam (by exact fun _ => rfl)).freeStored
      · exact h.dequeue.createGroups.enterRange.onGrid (by exact fun _ => rfl)

theorem Keeps.ctxPlaced (h : Keeps s t) {ctx : Nat} : Keeps s (t.ctxPlaced ctx) := h.onCtx.settleCtx

theorem Keeps.gridPlaced (h : Keeps s t) {grid : Nat} : Keeps s (t.gridPlaced grid) :=
  h.onGrid fun g => by split <;> rfl

theorem Keeps.placeUnit (h : Keeps s t) {unit : List Nat} {die : Nat} {seats : List (Nat × Nat × List Nat × Nat)} {base : Nat} :
    Keeps s (t.placeUnit unit die seats base) := by
  unfold State.placeUnit
  split
  · exact h
  · refine Keeps.gridPlaced (Keeps.ctxPlaced (Keeps.foldl (Keeps.onFe (Keeps.ite (Keeps.onDie (Keeps.mapTeams h fun x => ?_)) h)) fun t _ =>
      (Keeps.refl t).seatTeam))
    split <;> rfl

theorem Keeps.raiseArea (h : Keeps s t) {x : Team} {image : Bool} {at_ : Option (Group × Path)} {r : Report} : Keeps s (t.raiseArea x image at_ r) := by
  unfold State.raiseArea
  exact h.nextSeqNo.faultEffect fun h => h.onTeam fun y => by dsimp only; split <;> rfl

theorem placeNext_keeps (die ctx : Nat) (name : String) (ok : List Team → Bool) (s : State) : KeepsNext s (s.placeNext die ctx name ok) := by
  unfold State.placeNext
  split
  · exact .refused
  · refine .ite .refused ?_
    split
    · next e => exact .next ((Keeps.refl s).recordLoss e)
    · split
      · exact .next (Keeps.refl s).raiseArea
      · exact .next (Keeps.refl s).placeUnit

theorem execTeamPlace_keeps (die ctx : Nat) (s : State) : KeepsNext s (execTeamPlace die ctx s) := placeNext_keeps die ctx _ _ s
theorem execClusterPlace_keeps (die ctx : Nat) (s : State) : KeepsNext s (execClusterPlace die ctx s) := placeNext_keeps die ctx _ _ s

theorem returnTeam_keeps (team : Nat) (st : TeamState) (name : String) (s : State) : KeepsNext s (s.returnTeam team st name) := by
  unfold State.returnTeam
  split
  · exact .refused
  · exact placeNext_keeps _ _ name _ s

theorem execTeamRestore_keeps (team : Nat) (s : State) : KeepsNext s (execTeamRestore team s) := returnTeam_keeps team _ _ s
theorem execBivouacDispatch_keeps (team : Nat) (s : State) : KeepsNext s (execBivouacDispatch team s) := returnTeam_keeps team _ _ s

end

section
variable {s t u : State} {e : Except State State}

theorem Keeps.groupsIf (h : Keeps s t) {p : Group → Bool} {f : Group → Group} (hf : ∀ x, (f x).id = x.id) :
    Keeps s { t with groups := mapIf t.groups p f } := h.mapGroups (ite_key_eq hf)

/-! ### Arrivals at slots, and their release -/

theorem Keeps.markSlotArrival (h : Keeps s t) {grp : Nat} : Keeps s (t.markSlotArrival grp) := h.onArch

theorem execGroupBarrierArrival_keeps (grp : Nat) (s : State) : KeepsNext s (execGroupBarrierArrival grp s) := by
  unfold execGroupBarrierArrival
  split
  · exact .refused
  · dsimp only
    split
    · exact .ite .refused (.ite (.next (Keeps.refl s).arriveNamed) (.next (Keeps.refl s).markSlotArrival))
    · exact .refused

theorem Keeps.clearOutside (h : Keeps s t) {team : Nat} {d : KDesc} : Keeps s (t.clearOutside team d) :=
  h.trans ⟨fun hm => Sparse.wf_clear _ _ _ (Sparse.wf_clear _ _ _ hm), id⟩

theorem Keeps.carryOver (h : Keeps s t) {x : Team} {d : KDesc} : Keeps s (t.carryOver x d) := by
  unfold State.carryOver
  exact ((h.groupsIf (by exact fun _ => rfl)).onTeam (by exact fun _ => rfl)).clearOutside

/-- The state that positions spilled leave, or the first spill that faults. -/
def endState (e : Except State State) : State := match e with | .ok u => u | .error u => u

theorem Keeps.spillOne (h : Keeps s t) {x : Here} {q : Pos} : Keeps s (endState (t.spillOne x q)) := h.trans spillOne_keeps

theorem Keeps.of_ok (h : Keeps s (endState e)) (he : e = .ok u) : Keeps s u := by
  subst he
  exact h

theorem Keeps.of_error (h : Keeps s (endState e)) (he : e = .error u) : Keeps s u := by
  subst he
  exact h

theorem Keeps.spillGroup (h : Keeps s t) {grp n : Nat} : Keeps s (endState (t.spillGroup grp n)) := by
  induction n generalizing t with
  | zero => exact h
  | succ n ih =>
    unfold State.spillGroup
    cases t.group? grp with
    | none => exact h
    | some g =>
      cases ht : t.team? g.team with
      | none => simp only [ht]; exact h
      | some x =>
        cases hq : g.arch.stack.getLast? with
        | none => simp only [ht, hq]; exact h
        | some q =>
          simp only [ht, hq]
          split
          · exact h
          · split
            · next he => exact ih (h.spillOne.of_ok he)
            · next he => exact h.spillOne.of_error he

theorem Keeps.spillGroups (h : Keeps s t) {l : List Group} : Keeps s (endState (t.spillGroups l)) := by
  induction l generalizing t with
  | nil => exact h
  | cons g l ih =>
    unfold State.spillGroups
    split
    · next he => exact ih (h.spillGroup.of_ok he)
    · next he => exact h.spillGroup.of_error he

theorem Keeps.releaseForBivouac (h : Keeps s t) {x : Team} {d : KDesc} : Keeps s (t.releaseForBivouac x d) := by
  unfold State.releaseForBivouac
  exact (h.onMx.groupsIf (by exact fun _ => rfl)).onTeam (by exact fun _ => rfl)

theorem Keeps.placeCounts (h : Keeps s t) {g : Grid} {b : BarSlot} {k : BarKind} : Keeps s (t.placeCounts g b k) := by
  unfold State.placeCounts
  split
  · dsimp only
    split
    · exact (h.onSlot (by exact fun _ => rfl)).onCtx
    · exact h
  · exact h

theorem Keeps.passSlot (h : Keeps s t) {team : Nat} {p : Bool → Nat → Bool} : Keeps s (t.passSlot team p) := h.retireWhere
theorem Keeps.markGen (h : Keeps s t) {team gen : Nat} : Keeps s (t.markGen team gen) := h.onTeamPaths
theorem Keeps.countInSlot (h : Keeps s t) {x : Team} {g : Grid} {b : BarSlot} {k : BarKind} {gen : Nat} : Keeps s (t.countInSlot x g b k gen) :=
  (h.onSlot (by exact fun _ => rfl))

theorem Keeps.arriveSlot (h : Keeps s t) {x : Team} {g : Grid} {b : BarSlot} {k : BarKind} {n : Nat} : Keeps s (t.arriveSlot x g b k n) :=
  (h.placeCounts.countInSlot.markGen.onTeam (by exact fun _ => rfl)).passSlot

theorem Keeps.arriveCarry (h : Keeps s t) {x : Team} {g : Grid} {b : BarSlot} {k : BarKind} {n : Nat} : Keeps s (t.arriveCarry x g b k n) := by
  unfold State.arriveCarry
  exact (h.arriveSlot.carryOver.onTeam (by exact fun _ => rfl)).passSlot.ite (h.arriveSlot.onTeam (by exact fun _ => rfl))

theorem Keeps.slotKindFault (h : Keeps s t) {team n : Nat} : Keeps s (t.slotKindFault team n) := by
  unfold State.slotKindFault
  split
  · exact h
  · split
    · exact h
    · exact h.raise

theorem execTeamSlotArrival_keeps (team : Nat) (s : State) : KeepsNext s (execTeamSlotArrival team s) := by
  unfold execTeamSlotArrival
  split
  · exact .refused
  · split
    · split
      · exact .refused
      · refine .ite .refused (.ite (.next (Keeps.refl s).slotKindFault) (.ite (.ite .refused ?_) (.next (Keeps.refl s).arriveSlot)))
        dsimp only
        have hq : Keeps s ((s.teamGroups team).foldl (fun (st : State) q => st.squashAll q.id) s) :=
          (Keeps.refl s).foldl fun t _ => (Keeps.refl t).squashAll
        split
        · next he => exact .next (hq.releaseForBivouac.spillGroups.of_error he)
        · next he => exact .next (hq.releaseForBivouac.spillGroups.of_ok he).arriveCarry
    · exact .refused

theorem Keeps.releaseTeam (h : Keeps s t) {x : Team} : Keeps s (t.releaseTeam x) := by
  unfold State.releaseTeam
  dsimp only
  split
  · exact (h.onTeam (by exact fun _ => rfl)).passSlot.carryOver.ite (h.onTeam (by exact fun _ => rfl)).passSlot
  · exact (h.onTeam (by exact fun _ => rfl)).passSlot

theorem Keeps.handRecord (h : Keeps s t) {x : Team} : Keeps s (t.handRecord x) := by
  unfold State.handRecord
  exact (h.onTeam (by exact fun _ => rfl)).onDie.ite h

theorem execSlotRelease_keeps (slot cluster : Nat) (s : State) : KeepsNext s (execSlotRelease slot cluster s) := by
  unfold execSlotRelease
  split
  · exact .refused
  · dsimp only
    split
    · exact .refused
    · exact .ite .refused (.next (((Keeps.refl s).foldl fun t _ => (Keeps.refl t).handRecord.releaseTeam).fireWake.onSlot (by exact fun _ => rfl)))

/-! ### Bivouac records -/

theorem Keeps.writeArea (h : Keeps s t) {w : Walker} {bs : List Byte} {base : Nat} {l : List (Nat × Nat)} : Keeps s (t.writeArea w bs base l).1 := by
  induction l generalizing t with
  | nil => exact h
  | cons r l ih =>
    unfold State.writeArea
    split
    · exact h
    · split
      · exact h
      · exact ih h.store

theorem Keeps.unreserve (h : Keeps s t) {x : Team} : Keeps s (t.unreserve x) := by
  unfold State.unreserve
  split
  · exact h
  · exact (h.onTeam (by exact fun _ => rfl)).onCtx

theorem Keeps.toBivouac (h : Keeps s t) {x : Team} {d : KDesc} {slot : Nat} : Keeps s (t.toBivouac x d slot) :=
  ((h.leaveRange.carryOver.onTeam (by exact fun _ => rfl)).onSlot (by exact fun _ => rfl)).unreserve

theorem Keeps.reserveRecord (h : Keeps s t) {x : Team} {ctx n : Nat} {a : Bool × Nat} : Keeps s (t.reserveRecord x ctx n a) := (h.onTeam (by exact fun _ => rfl)).onCtx.draw

theorem Keeps.writeRecordOf (h : Keeps s t) {x : Team} {g : Grid} {slot gen : Nat} {a : Bool × Nat × Nat} :
    Keeps s (t.writeRecordOf x g slot gen a) := by
  unfold State.writeRecordOf
  dsimp only
  split
  · have hw := h.writeArea (w := dieWalker x.die g.ctx)
      (bs := (t.recordBytes x g (((t.slot? slot).bind (·.kind)).getD .grid) ((g.slots.findIdx? (· == slot)).getD 0) gen).drop x.recDone)
      (base := t.bpma g.ctx x.die + a.2.1 + x.recDone)
      (l := pagePieces (t.bpma g.ctx x.die + a.2.1 + x.recDone)
        ((t.recordBytes x g (((t.slot? slot).bind (·.kind)).getD .grid) ((g.slots.findIdx? (· == slot)).getD 0) gen).length - x.recDone))
    split
    · next e => rw [e] at hw; exact hw.toBivouac.settleCtx
    · next e => rw [e] at hw; exact (hw.onTeam (by exact fun _ => rfl)).raiseArea
  · exact h.raiseArea.ite h.store.toBivouac.settleCtx

theorem execBivouac_keeps (team : Nat) (s : State) : KeepsNext s (execBivouac team s) := by
  unfold execBivouac
  split
  · exact .refused
  · split
    · refine .ite .refused ?_
      dsimp only
      split
      · exact .ite .refused (.next (Keeps.refl s).writeRecordOf)
      · split
        · exact .next ((Keeps.refl s).onTeam (by exact fun _ => rfl))
        · exact .ite .refused (.next (Keeps.refl s).reserveRecord.writeRecordOf)
    · exact .refused

/-! ### Teams that are to leave -/

theorem Keeps.reserve (h : Keeps s t) {l : List Nat} (e : t.reserve l = some u) : Keeps s u := by
  induction l generalizing t with
  | nil => cases e; exact h
  | cons n l ih =>
    unfold State.reserve at e
    split at e
    · exact ih h e
    · split at e
      · exact ih h e
      · obtain ⟨a, -, e⟩ := Option.bind_eq_some_iff.mp e
        exact ih (Keeps.onCtx (Keeps.onTeam h (by exact fun _ => rfl))) e

theorem Keeps.setLeaving (h : Keeps s t) {ids : List Nat} {l : Leaving} : Keeps s (t.setLeaving ids l) := by
  have hr : Keeps s ((t.reserve ids).getD t) := by
    cases e : t.reserve ids with
    | none => exact h
    | some u => exact h.reserve e
  unfold State.setLeaving
  dsimp only
  generalize (t.reserve ids).getD t = w at hr ⊢
  have hq : Keeps s ((w.groups.filter fun g => ids.contains g.team).foldl (fun (st : State) g => st.squashAll g.id) w) :=
    hr.foldl fun t _ => (Keeps.refl t).squashAll
  generalize (w.groups.filter fun g => ids.contains g.team).foldl (fun (st : State) g => st.squashAll g.id) w = v at hq ⊢
  exact hq.trans ⟨id, NoNewIds.ids { NoNewIds.refl v with
    groups := sublist_of_eq (map_map_of_eq (ite_key_eq fun _ => rfl))
    teams := sublist_of_eq (map_map_of_eq (ite_key_eq fun _ => rfl)) }⟩

theorem execWaitingTeamEviction_keeps (die ctx : Nat) (s : State) : KeepsNext s (execWaitingTeamEviction die ctx s) := by
  unfold execWaitingTeamEviction
  split
  · exact .refused
  · dsimp only
    split
    · split
      · exact .next (Keeps.refl s).setLeaving
      · exact .refused
    · exact .refused

theorem execRotationEviction_keeps (team : Nat) (s : State) : KeepsNext s (execRotationEviction team s) := by
  unfold execRotationEviction
  split
  · exact .refused
  · exact .ite (.next (Keeps.refl s).setLeaving) .refused

theorem execPreEmption_keeps (die team : Nat) (s : State) : KeepsNext s (execPreEmption die team s) := by
  unfold execPreEmption
  dsimp only
  split
  · exact .refused
  · refine .ite ?_ .refused
    split
    · exact .next (Keeps.refl s).setLeaving.onDie
    · exact .refused

/-! ### Saving a team, and its end -/

theorem Keeps.unqueueTeam (h : Keeps s t) {x : Team} : Keeps s (t.unqueueTeam x) := by
  unfold State.unqueueTeam
  exact h.withdrawGroups.onMx

theorem Keeps.saveMatrix (h : Keeps s t) {x : Team} : Keeps s (t.saveMatrix x) := by
  unfold State.saveMatrix
  exact (h.savedSet.onMx.onTeam (by exact fun _ => rfl)).ite h

theorem Keeps.toEvicted (h : Keeps s t) {x : Team} {a n ctx : Nat} : Keeps s (t.toEvicted x a n ctx) := by
  unfold State.toEvicted
  exact (h.leaveRange.saveMatrix.unqueueTeam.onTeam (by exact fun _ => rfl)).onCtx.onDie.wakeTeam.ite (h.leaveRange.saveMatrix.unqueueTeam.onTeam (by exact fun _ => rfl)).onCtx.onDie

theorem Keeps.saveAreaFull (h : Keeps s t) {x : Team} {ctx : Nat} : Keeps s (t.saveAreaFull x ctx) := h.nextSeqNo.deliver.faultCtx
theorem Keeps.retireServed (h : Keeps s t) {team : Nat} : Keeps s (t.retireServed team) := h.retireWhere
theorem Keeps.freeSet (h : Keeps s t) {n : Nat} : Keeps s { t with free := n } := h.trans ⟨id, id⟩

theorem execTeamSave_keeps (team : Nat) (s : State) : KeepsNext s (execTeamSave team s) := by
  unfold execTeamSave
  split
  · exact .refused
  · next x _ =>
    refine .ite .refused ?_
    split
    · next e => exact .next ((Keeps.refl s).recordLoss e)
    · have hs := (Keeps.refl s).retireServed (team := team)
      dsimp only
      split
      · next he => exact .next (hs.spillGroups.of_error he)
      · next w he =>
        have hw := hs.spillGroups.of_ok he
        split
        · exact .next hw.saveAreaFull
        · next a _ =>
          refine .ite .refused ?_
          have hx := hw.writeArea (w := dieWalker x.die (s.gridCtx x.grid)) (bs := w.imageBytes x) (base := w.savea (s.gridCtx x.grid) x.die + a)
            (l := pagePieces (w.savea (s.gridCtx x.grid) x.die + a) (w.imageLen x))
          split
          · next e => rw [e] at hx; exact .next hx.raiseArea
          · next e => rw [e] at hx; exact .next hx.freeSet.perf.toEvicted.settleCtx

theorem Grid.classify_id (g : Grid) (x : Team) : (g.classify x).id = g.id := by
  unfold Grid.classify
  split <;> rfl

theorem execTeamDone_keeps (team : Nat) (s : State) : KeepsNext s (execTeamDone team s) := by
  unfold execTeamDone
  split
  · exact .refused
  · exact .ite .refused (.next ((Keeps.refl s).onMx.onGrid fun g => g.classify_id _).endTeam.settleCtx)

theorem execClassifierClose_keeps (grid : Nat) (s : State) : KeepsNext s (execClassifierClose grid s) := by
  unfold execClassifierClose
  split
  · exact .refused
  · exact .ite .refused (.next ((Keeps.refl s).onGrid (by exact fun _ => rfl)).onFe)

end

section
variable {s t u : State}

/-! ### Launches -/

theorem execLnch_keeps (a : SReg) (s : State) : KeepsNext s (execLnch a s) := by
  refine Plan.Keeping.run ⟨fun _ _ _ h => ?_, fun _ _ _ e _ _ h => ?_⟩ _ s
  · dsimp only
    exact (h.startThread (by exact fun _ => rfl)).onCore
  · dsimp only at e
    split at e
    · cases e; exact h.park.onCore
    · exact of_none_eq_some e

theorem Keeps.freeEntry (h : Keeps s t) {x : Thread} : Keeps s (t.freeEntry x) := h.onCore.foldl fun t _ => (Keeps.refl t).wakeTeam

theorem execLaunchQueueWake_keeps (die site : Nat) (s : State) : KeepsNext s (execLaunchQueueWake die site s) := by
  unfold execLaunchQueueWake
  dsimp only
  split
  · exact .refused
  · refine .ite .refused ?_
    split
    · exact .next (Keeps.refl s).onCore.onArch
    · exact .next (Keeps.refl s).onCore

theorem execLaunchThread_keeps (tid : Nat) (s : State) : KeepsNext s (execLaunchThread tid s) := by
  unfold execLaunchThread
  split
  · exact .refused
  · dsimp only
    split
    · exact .next (Keeps.refl s).freeEntry.raiseThread
    · exact .ite (.next (Keeps.refl s).freeEntry.raiseThread) (.next ((Keeps.refl s).draw.onThread (by exact fun _ => rfl)))

/-- A grid numbered by the next event number, which is then the grid's. -/
theorem Keeps.addGrid (h : Keeps s t) {g : Grid} (hg : g.id = t.evSeq) : Keeps s (t.addGrid g) := by
  refine h.trans ⟨id, fun ⟨hgr, hgb, ht, htb, hx, hxb, hsl, hgd, hgdb, hp⟩ => ⟨hgr, hgb, ht, htb, hx, hxb, hsl, ?_, ?_, hp⟩⟩
  · exact nodup_append_new hgd hgdb (List.nodup_singleton _) fun y hy => by rw [List.mem_singleton.mp hy, hg]
  · exact bound_append_new (k := 1) hgdb fun y hy => by rw [List.mem_singleton.mp hy, hg]; exact Nat.lt_succ_self _

theorem Keeps.accept (h : Keeps s t) {r : LaunchReq} {l : Launcher} (e : t.accept r l = .ok u) : Keeps s u := by
  unfold State.accept at e
  dsimp only at e
  split at e
  · cases e; exact h.addGrid rfl
  · split at e
    · cases e
    · cases e
    · cases e
      split
      · exact (h.addGrid rfl).feFault
      · exact h.addGrid rfl
    · cases e; exact h.addGrid rfl

theorem execLaunchAccept_keeps (tid : Nat) (s : State) : KeepsNext s (execLaunchAccept tid s) := by
  unfold execLaunchAccept
  split
  · exact .refused
  · refine .ite .refused ?_
    split
    · exact .refused
    · exact .next ((Keeps.refl s).feHold fun h => h.onThread (by exact fun _ => rfl))
    · next e => exact .next (((Keeps.refl s).accept e).onThread (by exact fun _ => rfl)).freeEntry

/-! ### Grids that dispatch, deal, retire and report -/

theorem rereadStops_keeps (s : State) (g : Grid) (e : Stop) (name : String) : KeepsNext s (s.rereadStops g e name) := by
  unfold State.rereadStops
  split
  · exact .refused
  · exact .next ((Keeps.refl s).feHold fun h => h.onGrid (by exact fun _ => rfl))
  · refine .next ?_
    split
    · exact (Keeps.refl s).failGrid.settleCtx.feFault
    · exact (Keeps.refl s).failGrid.settleCtx

/-- The slots that are free are other slots than those in use. -/
theorem State.freeBarSlots_new (s : State) (k : Nat) :
    (s.freeBarSlots k).Nodup ∧ List.Disjoint (s.slots.map (·.id)) (s.freeBarSlots k) := by
  unfold State.freeBarSlots
  refine ⟨(List.nodup_range.filter _).sublist (List.take_sublist ..), List.disjoint_left.mpr fun n hn hfree => ?_⟩
  obtain ⟨b, hb, rfl⟩ := List.mem_map.mp hn
  have hnone := (List.mem_filter.mp (List.mem_of_mem_take hfree)).2
  simp only [Bool.not_eq_true', List.any_eq_false, beq_iff_eq] at hnone
  exact hnone b hb rfl

/-- Slots allocated for a grid. -/
theorem Keeps.addSlots (h : Keeps s t) {k grid : Nat} :
    Keeps s { t with slots := t.slots ++ (t.freeBarSlots k).map fun (n : Nat) => (⟨n, grid, none, [], none, []⟩ : BarSlot) } := by
  obtain ⟨hnew, hdis⟩ := t.freeBarSlots_new k
  refine h.trans ⟨id, fun ⟨hgr, hgb, ht, htb, hx, hxb, hsl, hrest⟩ => ⟨hgr, hgb, ht, htb, hx, hxb, ?_, hrest⟩⟩
  have hids : ((t.freeBarSlots k).map fun (n : Nat) => (⟨n, grid, none, [], none, []⟩ : BarSlot)).map (·.id) = t.freeBarSlots k := by
    rw [List.map_map]
    exact List.map_id _
  rw [List.map_append, hids]
  exact List.Nodup.append hsl hnew hdis

theorem execGridDispatch_keeps (grid : Nat) (s : State) : KeepsNext s (execGridDispatch grid s) := by
  unfold execGridDispatch
  split
  · exact .refused
  · refine .ite .refused ?_
    split
    · exact rereadStops_keeps s _ _ _
    · refine .ite .refused (.next ?_)
      exact (Keeps.refl s).draw.addSlots.onGrid (by exact fun _ => rfl)

theorem Keeps.setDeficit (h : Keeps s t) {q : Nat} {d : Int} : Keeps s (t.setDeficit q d) := h.touchQueue.onQueue.saveQueue
theorem Keeps.capDeficits (h : Keeps s t) : Keeps s t.capDeficits := h.foldl fun t _ => (Keeps.refl t).setDeficit

theorem Keeps.dealTo (h : Keeps s t) {g : Grid} {die : Nat} : Keeps s (t.dealTo g die) := by
  unfold State.dealTo
  refine (Keeps.addTeams h ?_).onDie.onGrid (by exact fun _ => rfl)
  rw [List.map_map]
  rfl

theorem Keeps.advanceTurn (h : Keeps s t) {level : Nat} {x : Nat × List (Nat × Int)} : Keeps s (t.advanceTurn level x) := by
  unfold State.advanceTurn
  exact (h.foldl fun t _ => (Keeps.refl t).setDeficit).touchQueue.onFe

theorem execTeamDeal_keeps (die : Nat) (s : State) : KeepsNext s (execTeamDeal die s) := by
  unfold execTeamDeal
  split
  · exact .refused
  · refine .ite .refused ?_
    split
    · exact rereadStops_keeps s _ _ _
    · dsimp only
      split
      · exact .next (Keeps.refl s).advanceTurn.draw.dealTo.capDeficits
      · exact .next (Keeps.refl s).draw.dealTo.capDeficits

theorem execGridRetire_keeps (grid : Nat) (s : State) : KeepsNext s (execGridRetire grid s) := by
  unfold execGridRetire
  split
  · exact .refused
  · exact .ite .refused (.next ((Keeps.refl s).dropSlots.onGrid (by exact fun _ => rfl)))

theorem Keeps.notifyLauncher (h : Keeps s t) {l : Launcher} : Keeps s (t.notifyLauncher l) := by
  unfold State.notifyLauncher
  split
  · exact h.completePacket
  · split
    · exact h.endThread
    · exact h

theorem Keeps.reportFails (h : Keeps s t) {g : Grid} {r : Report} : Keeps s (t.reportFails g r) := by
  unfold State.reportFails
  split
  · exact h.feHold fun h => h.onGrid (by exact fun _ => rfl)
  · exact (h.feFault.deadCtx.onGrid (by exact fun _ => rfl)).notifyLauncher

theorem execGridReport_keeps (grid : Nat) (s : State) : KeepsNext s (execGridReport grid s) := by
  unfold execGridReport
  split
  · exact .refused
  · dsimp only
    split
    · refine .ite ?_ .refused
      split
      · exact .next (Keeps.refl s).reportFails
      · exact .next ((Keeps.refl s).storeLE.onGrid (by exact fun _ => rfl))
    · refine .ite ?_ .refused
      split
      · exact .next (Keeps.refl s).reportFails
      · exact .next ((Keeps.refl s).storeLE.onGrid (by exact fun _ => rfl)).notifyLauncher

/-! ### Mailboxes -/

theorem Keeps.enterQueue (h : Keeps s t) {q : Nat} {st : QState} : Keeps s (t.enterQueue q st) := by
  have hq := h.setQueue (q := q) (st := st)
  unfold State.enterQueue
  split
  · next e => rw [e] at hq; exact hq
  · next e => rw [e] at hq; exact hq.feFault

theorem Keeps.writeProgress (h : Keeps s t) {q : Nat} : Keeps s (t.writeProgress q) := by
  have hq := h.progress (q := q)
  unfold State.writeProgress
  refine h.ite ?_
  split
  · next e => rw [e] at hq; exact hq
  · next e => rw [e] at hq; exact hq.feFault

theorem Keeps.settleQueue (h : Keeps s t) {q : Nat} : Keeps s (t.settleQueue q) := by
  unfold State.settleQueue
  split
  · exact h.enterQueue.ite h
  · exact h

theorem Keeps.packetWriteFails (h : Keeps s t) {q : Queue} {idx : Nat} {hdr value : DWord} {r : Report} :
    Keeps s (t.packetWriteFails q idx hdr value r) := by
  unfold State.packetWriteFails
  exact h.completePacket.feFault.ite h.completePacket.onQueue.queueError

theorem Keeps.finishGet (h : Keeps s t) {q : Queue} {idx : Nat} {v : DWord} : Keeps s (t.finishGet q idx v) := by
  unfold State.finishGet
  split
  · exact h.completePacket
  · split
    · exact h.packetWriteFails
    · exact h.storeLE.completePacket

theorem Keeps.unblock (h : Keeps s t) {q : Queue} {idx : Nat} : Keeps s (t.unblock q idx) := by
  unfold State.unblock
  split
  · exact h.enterQueue.settleQueue.ite h
  · exact h

theorem Keeps.mbxDo (h : Keeps s t) {k : Nat} {put : Option DWord} : Keeps s (t.mbxDo k put) := by
  unfold State.mbxDo
  split
  · exact h.store
  · exact h.store

theorem Group.servedMbx_id (g : Group) (r : MbxReq) (v : DWord) : (g.servedMbx r v).id = g.id := by
  unfold Group.servedMbx
  dsimp only
  split <;> rfl

theorem Keeps.serveReq (h : Keeps s t) {k : Nat} {r : MbxReq} : Keeps s (t.serveReq k r) := by
  unfold State.serveReq
  dsimp only
  split
  · exact h.mbxDo.onGroup fun g => g.servedMbx_id r _
  · split
    · exact h.mbxDo.ite (h.mbxDo.finishGet.ite h.mbxDo.completePacket).unblock
    · exact h.mbxDo

theorem Keeps.serveWord (h : Keeps s t) {ctx word k n : Nat} : Keeps s (t.serveWord ctx word k n) := by
  induction n generalizing t with
  | zero => exact h
  | succ n ih =>
    unfold State.serveWord
    split
    · exact h
    · exact h.ite (ih h.onFe.serveReq)

theorem Keeps.afterService (h : Keeps s t) {ctx word k : Nat} : Keeps s (t.afterService ctx word k) := h.serveWord.fireWake

theorem mbxPlan_keeping (a : SReg) (us : List Use) (put : Here → Option DWord) (dest : Nat) : (mbxPlan a us put dest).Keeping where
  act x s t h := by
    unfold mbxPlan
    dsimp only
    split
    · exact (h.mbxDo.onArch.ite h.mbxDo).afterService
    · exact h
  hold v x f e := by
    intro u t h
    unfold mbxPlan at e
    dsimp only at e
    split at e
    · split at e
      · exact of_none_eq_some e
      · cases e
        dsimp only
        split
        · exact h.park
        · exact h.park.onFe
    · exact of_none_eq_some e

theorem execMbxGet_keeps (d a : SReg) (s : State) : KeepsNext s (execMbxGet d a s) := (mbxPlan_keeping ..).run _ s
theorem execMbxPut_keeps (a b : SReg) (s : State) : KeepsNext s (execMbxPut a b s) := (mbxPlan_keeping ..).run _ s

theorem execMailboxWake_keeps (grp : Nat) (slot : Bool) (s : State) : KeepsNext s (execMailboxWake grp slot s) := by
  unfold execMailboxWake
  split
  · exact .refused
  · split
    · exact .refused
    · split
      · split
        · exact .next (Keeps.refl s).clearRet.retireParked
        · exact .next (Keeps.refl s).clearRet.park
      · exact .refused

theorem execQBell_keeps (a b : SReg) (s : State) : KeepsNext s (execQBell a b s) :=
  Plan.Keeping.run (Plan.keeping_of_act (fun _ _ => rfl) fun _ _ _ h => by dsimp only; exact h.onFe) _ s

end

section
variable {s t u : State}

/-! ### Doorbells and interrupts -/

theorem Keeps.ringFails (h : Keeps s t) {q : Queue} {hdr : DWord} {r : Option Report} : Keeps s (t.ringFails q hdr r) := by
  cases r with
  | none => exact h
  | some r => exact h.feFault.ite h.queueError

theorem Keeps.reread (h : Keeps s t) {q : Nat} : Keeps s (t.reread q) := by
  unfold State.reread
  split
  · exact h
  · refine h.ite ?_
    split
    · exact h.draw.ringFails
    · exact h.enterQueue.ite h

theorem Keeps.ring (h : Keeps s t) {q : Nat} {v : Option Nat} : Keeps s (t.ring q v) := by
  unfold State.ring
  split
  · exact h
  · refine h.ite ?_
    dsimp only
    split
    · refine h.touchQueue.queueError.ite ?_
      exact (h.touchQueue.onQueue.enterQueue.ite h.touchQueue.onQueue.saveQueue).reread
    · exact h.touchQueue.reread

theorem Keeps.ringOrHold (h : Keeps s t) {q v : Nat} {who : Option Nat} : Keeps s (t.ringOrHold q v who) :=
  h.onFe.ite (h.ring.ite h)

theorem execDoorbell_keeps (q : Nat) (v : DWord) (s : State) : KeepsNext s (execDoorbell q v s) :=
  .ite (.next (Keeps.refl s).ringOrHold) (.next (.refl s))

theorem execQbellDelivery_keeps (s : State) : KeepsNext s (execQbellDelivery s) := by
  unfold execQbellDelivery
  split
  · exact .ite (.next (Keeps.refl s).onFe.ringOrHold) (.next (Keeps.refl s).onFe)
  · exact .refused

theorem Keeps.wakeMgmt (h : Keeps s t) {ctx : Nat} {v : Word} : Keeps s (t.wakeMgmt ctx v) :=
  (h.onPkg.ite h).ite (h.onStack.ite h)

theorem execSintDelivery_keeps (s : State) : KeepsNext s (execSintDelivery s) := by
  unfold execSintDelivery
  split
  · refine .ite .refused (.ite (.ite (.next (Keeps.refl s).onFe.ring) (.next (Keeps.refl s).onFe)) ?_)
    exact .ite (.next (Keeps.refl s).onFe) (.next (Keeps.refl s).onFe.wakeMgmt)
  · exact .refused

/-! ### The fetcher -/

theorem Keeps.validate (h : Keeps s t) {q : Queue} {hdr : Nat} : Keeps s (t.validate q hdr) := by
  unfold State.validate
  refine h.queueError.ite (h.queueError.ite ?_)
  split
  · exact h.ringFails
  · dsimp only
    split
    · exact h.queueError
    · exact h.feFault
    · exact h.onQueue

theorem execPacketFetch_keeps (q : Nat) (s : State) : KeepsNext s (execPacketFetch q s) := by
  unfold execPacketFetch
  split
  · exact .refused
  · refine .ite .refused ?_
    dsimp only
    split
    · exact .next (Keeps.refl s).touchQueue.draw.ringFails
    · exact .ite (.next (Keeps.refl s).touchQueue.validate) (.next (Keeps.refl s).touchQueue.enterQueue)

theorem execStallReread_keeps (q : Nat) (s : State) : KeepsNext s (execStallReread q s) := by
  unfold execStallReread
  split
  · exact .refused
  · exact .ite .refused (.next (Keeps.refl s).touchQueue.reread)

/-! ### Packets -/

theorem Keeps.startPacket (h : Keeps s t) {q : Queue} : Keeps s (t.startPacket q) := h.touchQueue.onQueue

theorem execLaunchPacket_keeps (q : Nat) (s : State) : KeepsNext s (execLaunchPacket q s) := by
  unfold execLaunchPacket
  split
  · exact .refused
  · refine .ite .refused ?_
    split
    · exact .refused
    · exact .next ((Keeps.refl s).feHold fun h => h.onQueue)
    · next e => exact .next ((Keeps.refl s).accept e).startPacket.settleQueue

theorem execSignalPacket_keeps (q : Nat) (s : State) : KeepsNext s (execSignalPacket q s) := by
  unfold execSignalPacket
  split
  · exact .refused
  · refine .ite .refused ?_
    dsimp only
    split
    · exact .next (Keeps.refl s).startPacket.packetWriteFails
    · exact .next (Keeps.refl s).startPacket.storeLE.completePacket.settleQueue

theorem Keeps.packetWord (h : Keeps s t) {q : Queue} {b : List Byte} (e : t.packetWord q b = .error u) : Keeps s u := by
  unfold State.packetWord at e
  split at e
  · cases e; exact h
  · dsimp only at e
    split at e
    · cases e; exact h.feFault
    · split at e
      · cases e; exact h.queueError
      · cases e

theorem Keeps.mbxPacket (h : Keeps s t) {q : Queue} {b : List Byte} {k : Nat} {put : Option DWord} : Keeps s (t.mbxPacket q b k put) := by
  have h0 : ∀ {f : Queue → Queue}, Keeps s (if put.isSome then t else t.onQueue q.id f) := fun {f} => h.ite h.onQueue
  unfold State.mbxPacket
  refine Keeps.ite ?_ (.ite (h.ite h.enterQueue) h0.startPacket.onFe.enterQueue)
  exact (h0.startPacket.mbxDo.finishGet.ite h0.startPacket.mbxDo.completePacket).afterService.unblock.settleQueue

theorem execMbxPutPacket_keeps (q : Nat) (s : State) : KeepsNext s (execMbxPutPacket q s) := by
  unfold execMbxPutPacket
  split
  · exact .refused
  · split
    · next e => exact .next ((Keeps.refl s).packetWord e)
    · exact .ite (.next (Keeps.refl s).mbxPacket) .refused

theorem execMbxGetPacket_keeps (q : Nat) (s : State) : KeepsNext s (execMbxGetPacket q s) := by
  unfold execMbxGetPacket
  split
  · exact .refused
  · split
    · next e => exact .next ((Keeps.refl s).packetWord e)
    · exact .ite (.next (Keeps.refl s).mbxPacket) .refused

/-! ### Queue commands -/

theorem Keeps.qcmdDone (h : Keeps s t) {n : Nat} : Keeps s (t.qcmdDone n) := h.onFe

/-- A queue command keeps what its effect keeps. -/
theorem qcmd_keeps {q : Nat} {f : State → State} (hf : ∀ t, Keeps t (f t)) (s : State) : KeepsNext s (s.qcmd q f) :=
  .ite (.next (.refl s)) (.ite (.next (Keeps.refl s).qcmdDone) (.next (hf s)))

theorem Keeps.queuesSet (h : Keeps s t) {l : List Queue} : Keeps s { t with queues := l } := h.trans ⟨id, id⟩

theorem execQueueCreate_keeps (q : Nat) (s : State) : KeepsNext s (execQueueCreate q s) := by
  refine .ite .refused (qcmd_keeps (fun t => ?_) s)
  refine (Keeps.refl t).qcmdDone.ite ?_
  split
  · next e => exact (Keeps.refl t).hubLoss e
  · exact (Keeps.refl t).qcmdDone.ite (Keeps.refl t).queuesSet.touchQueue.enterQueue.qcmdDone

theorem execQueueDestroy_keeps (q : Nat) (s : State) : KeepsNext s (execQueueDestroy q s) :=
  qcmd_keeps (fun t => (Keeps.refl t).qcmdDone.ite (Keeps.refl t).dropQueue.qcmdDone) s

theorem execQueueReset_keeps (q : Nat) (s : State) : KeepsNext s (execQueueReset q s) := by
  refine qcmd_keeps (fun t => ?_) s
  dsimp only
  split
  · exact (Keeps.refl t).qcmdDone
  · exact (Keeps.refl t).qcmdDone.ite ((Keeps.refl t).qcmdDone.ite (Keeps.refl t).touchQueue.onQueue.enterQueue.qcmdDone)

theorem execQcmdReservedOp_keeps (op q : Nat) (s : State) : KeepsNext s (execQcmdReservedOp op q s) :=
  .ite .refused (.ite (.next (Keeps.refl s).qcmdDone) (.next (.refl s)))

theorem execQueueTableRegisterWrite_keeps (reg : QTReg) (v : DWord) (s : State) : KeepsNext s (execQueueTableRegisterWrite reg v s) := by
  unfold execQueueTableRegisterWrite
  refine .ite (.next (.refl s)) ?_
  cases reg <;> exact .ite (.next (Keeps.refl s).onFe) (.next (.refl s))

/-! ### The reload of the logic block -/

theorem Keeps.beginReload (h : Keeps s t) : Keeps s t.beginReload := h.queuesSet.onFe

theorem execFrontEndWatchdog_keeps (q : Nat) (s : State) : KeepsNext s (execFrontEndWatchdog q s) :=
  .ite (.next (Keeps.refl s).beginReload) .refused

theorem execConfigEccError_keeps (s : State) : KeepsNext s (execConfigEccError s) :=
  .ite (.next (Keeps.refl s).beginReload) .refused

theorem Keeps.serveHeld (h : Keeps s t) {r : MbxReq} : Keeps s (t.serveHeld r) := by
  unfold State.serveHeld
  split
  · refine h.ite ?_
    cases e : t.hubLoss _ 16 with
    | none => exact h.afterService
    | some u => exact h.hubLoss e
  · exact h

theorem Keeps.servePorts (h : Keeps s t) : Keeps s t.servePorts :=
  (h.serveQcbs.onFe.foldl fun t _ => (Keeps.refl t).writeProgress).foldl fun t _ => (Keeps.refl t).serveHeld

theorem execLogicBlockReload_keeps (s : State) : KeepsNext s (execLogicBlockReload s) := by
  refine .ite .refused (.next ?_)
  exact ((Keeps.refl s).onFe.mgmtLog.nextSeqNo.foldl fun t _ => (Keeps.refl t).ringOrHold).foldl fun t _ => (Keeps.refl t).serveHeld

/-! ### What a stack's ports held -/

theorem execStackTrainingComplete_keeps (n : Nat) (ok : Bool) (s : State) : KeepsNext s (execStackTrainingComplete n ok s) := by
  unfold execStackTrainingComplete
  split
  · exact .refused
  · exact .ite (.ite (.next (Keeps.refl s).onStack.servePorts) (.next (Keeps.refl s).draw.onStack.servePorts)) .refused

theorem execStackLost_keeps (n : Nat) (s : State) : KeepsNext s (execStackLost n s) := by
  unfold execStackLost
  split
  · exact .refused
  · split
    · exact .next (Keeps.refl s).dropCache.onStack.servePorts
    · exact .next (Keeps.refl s).dropCache.onStack.servePorts
    · exact .refused

theorem execOwnershipUpdate_keeps (tid : Nat) (s : State) : KeepsNext s (execOwnershipUpdate tid s) := by
  unfold execOwnershipUpdate
  split
  · exact .next (Keeps.refl s).drainTo.servePorts
  · exact .refused

end

section
variable {s t u : State}

/-! ### Context commands -/

theorem Keeps.ctxDone (h : Keeps s t) {n : Nat} : Keeps s (t.ctxDone n) := h.onFe
theorem Keeps.atCtxcmd (h : Keeps s t) {ctx : Nat} : Keeps s (t.atCtxcmd ctx) := h.releaseHeld
theorem Keeps.ctxsSet (h : Keeps s t) {l : List Ctx} : Keeps s { t with ctxs := l } := h.trans ⟨id, id⟩

/-- A context command keeps what its effect keeps. -/
theorem ctxcmd_keeps {ctx : Nat} {kill : Bool} {name : String} {f : State → State} (hf : ∀ t, Keeps t (f t)) (s : State) :
    KeepsNext s (s.ctxcmd ctx kill name f) :=
  .ite .refused (.ite (.next (.refl s)) (.ite (.next (.refl s)) (.next ((Keeps.refl s).atCtxcmd.trans (hf _)))))

theorem Keeps.loadCtx (h : Keeps s t) {ctx : Nat} : Keeps s (t.loadCtx ctx) := by
  unfold State.loadCtx
  refine h.ctxDone.ite ?_
  split
  · next e =>
    cases e1 : t.hubLoss (tagKey t.fe.ctxarg) 256 with
    | none =>
      rw [e1] at e
      exact h.hubLoss e
    | some v =>
      rw [e1] at e
      cases e
      exact h.hubLoss e1
  · exact h.ctxDone.ite (h.deviceLoss.ctxDone.ite h.ctxsSet.ctxDone)

theorem execLoad_keeps (ctx : Nat) (s : State) : KeepsNext s (execLoad ctx s) :=
  .ite .refused (ctxcmd_keeps (fun t => (Keeps.refl t).loadCtx.ite (Keeps.refl t).ctxDone) s)

theorem Keeps.readyCtx (h : Keeps s t) {ctx : Nat} : Keeps s (t.readyCtx ctx) := h.onCtx.syncQueues.foldl fun t _ => (Keeps.refl t).feFault

theorem execActivate_keeps (ctx : Nat) (s : State) : KeepsNext s (execActivate ctx s) :=
  ctxcmd_keeps (fun t => (Keeps.refl t).readyCtx.ctxDone.ite (Keeps.refl t).ctxDone) s

theorem execSwitchOut_keeps (ctx : Nat) (s : State) : KeepsNext s (execSwitchOut ctx s) := by
  refine ctxcmd_keeps (fun t => ?_) s
  split
  · exact (Keeps.refl t).discardCtx.enterCtx.ctxDone
  · exact (Keeps.refl t).onFe.switchOutCtx
  · exact (Keeps.refl t).onFe.switchOutCtx
  · exact (Keeps.refl t).ctxDone

theorem execResumeFault_keeps (ctx : Nat) (s : State) : KeepsNext s (execResumeFault ctx s) := by
  refine ctxcmd_keeps (fun t => ?_) s
  split
  · exact (Keeps.refl t).ctxDone
  · refine (Keeps.refl t).ctxDone.ite ?_
    split
    · exact (Keeps.refl t).ctxDone
    · exact (Keeps.refl t).resume.ctxDone

theorem execClear_keeps (ctx : Nat) (s : State) : KeepsNext s (execClear ctx s) :=
  ctxcmd_keeps (fun t => (Keeps.refl t).readyCtx.ctxDone.ite (Keeps.refl t).ctxDone) s

theorem execKill_keeps (ctx : Nat) (s : State) : KeepsNext s (execKill ctx s) := by
  refine ctxcmd_keeps (fun t => ?_) s
  split
  · exact (Keeps.refl t).ctxDone
  · exact (Keeps.refl t).ctxDone
  · exact (Keeps.refl t).deadCtx.ctxDone

theorem Keeps.filterTeams (h : Keeps s t) {p : Team → Bool} : Keeps s { t with teams := t.teams.filter p } :=
  h.trans ⟨id, NoNewIds.ids { NoNewIds.refl t with teams := List.filter_sublist.map _ }⟩

theorem Keeps.filterGrids (h : Keeps s t) {p : Grid → Bool} : Keeps s { t with grids := t.grids.filter p } :=
  h.trans ⟨id, NoNewIds.ids { NoNewIds.refl t with grids := List.filter_sublist.map _ }⟩

theorem execFree_keeps (ctx : Nat) (s : State) : KeepsNext s (execFree ctx s) :=
  ctxcmd_keeps (fun t => (Keeps.refl t).discardCtx.onCtx.syncQueues.filterGrids.filterTeams.filterThreads.ctxDone.ite (Keeps.refl t).ctxDone) s

theorem execCtxcmdReservedOp_keeps (op ctx : Nat) (s : State) : KeepsNext s (execCtxcmdReservedOp op ctx s) :=
  .ite .refused (ctxcmd_keeps (fun t => (Keeps.refl t).ctxDone) s)

theorem execPartitionChange_keeps (ctx : Nat) (dies : BitVec 4) (s : State) : KeepsNext s (execPartitionChange ctx dies s) :=
  .ite .refused (.next (Keeps.refl s).onCtx)

/-! ### The register window -/

theorem Keeps.answer (h : Keeps s t) {v : Nat} : Keeps s (t.answer v) := h.onFe

theorem Keeps.readWindow (h : Keeps s t) {off n : Nat} : Keeps s (t.readWindow off n) := by
  unfold State.readWindow
  refine h.answer.ite (h.answer.ite (h.answer.ite (.ite (h.draw.answer.ite ?_) h.answer)))
  cases progressQueue off with
  | none => exact h.answer
  | some q => exact h.touchQueue.answer

theorem execRegisterWrite_keeps (off : Nat) (v : DWord) (s : State) : KeepsNext s (execRegisterWrite off v s) :=
  .ite (.next (Keeps.refl s).onFe) (.next (.refl s))

theorem execHsigClear_keeps (mask : BitVec 4) (s : State) : KeepsNext s (execHsigClear mask s) :=
  .ite (.next (Keeps.refl s).onFe) (.next (.refl s))

/-- A step of an agent keeps what every step keeps. -/
def KeepsStep (f : Agent) : Prop := ∀ s, KeepsNext s (f s)

theorem ctxcmdStep_keeps (v : Word) : KeepsStep (ctxcmdStep v) := by
  unfold ctxcmdStep
  dsimp only
  split
  · exact execLoad_keeps _
  · exact execActivate_keeps _
  · exact execSwitchOut_keeps _
  · exact execResumeFault_keeps _
  · exact execClear_keeps _
  · exact execKill_keeps _
  · exact execFree_keeps _
  · exact execCtxcmdReservedOp_keeps _ _

theorem qcmdStep_keeps (v : Word) : KeepsStep (qcmdStep v) := by
  unfold qcmdStep
  dsimp only
  split
  · exact execQueueCreate_keeps _
  · exact execQueueDestroy_keeps _
  · exact execQueueReset_keeps _
  · exact execQcmdReservedOp_keeps _ _

theorem writeWindow_keeps (s : State) (off n v : Nat) : KeepsNext s (s.writeWindow off n v) := by
  refine .ite ?_ (.ite (.ite (execQueueTableRegisterWrite_keeps _ _ s) (.ite (execQueueTableRegisterWrite_keeps _ _ s) ?_)) (.next (.refl s)))
  · split
    · exact ctxcmdStep_keeps _ s
    · exact execQueueTableRegisterWrite_keeps _ _ s
    · exact qcmdStep_keeps _ s
    · exact execHsigClear_keeps _ s
    · exact .next (.refl s)
  · split
    · exact execDoorbell_keeps _ _ s
    · exact execRegisterWrite_keeps _ _ s

/-! ### Accesses from outside -/

theorem Keeps.countHost (h : Keeps s t) {n pa : Nat} : Keeps s (t.countHost n pa) := h.onStack
theorem Keeps.drawN (h : Keeps s t) {n : Nat} : Keeps s (t.drawN n) := h.trans ⟨id, id⟩
theorem Keeps.storeMask (h : Keeps s t) {k mask data : Nat} : Keeps s (t.storeMask k mask data) := h.foldl fun t _ => (Keeps.refl t).store

theorem execHostRead_keeps (addr : DWord) (size : Nat) (ord : Bool) (s : State) : KeepsNext s (execHostRead addr size ord s) := by
  refine .ite .refused ?_
  split
  · exact .next (Keeps.refl s).readWindow
  · split
    · exact .next (Keeps.refl s).drawN.answer
    · exact .next (Keeps.refl s).countHost.answer
    · exact .refused
  · exact .refused

theorem execHostWrite_keeps (addr : DWord) (mask data : Nat) (ord : Bool) (s : State) : KeepsNext s (execHostWrite addr mask data ord s) := by
  refine .ite .refused ?_
  split
  · split
    · exact .ite (writeWindow_keeps s _ _ _) (.next (.refl s))
    · exact .next (.refl s)
  · split
    · exact .next (Keeps.refl s).storeMask
    · exact .next (Keeps.refl s).countHost
    · exact .refused
  · exact .refused

theorem execRemoteAccess_keeps (acc : RemoteAccess) (s : State) : KeepsNext s (execRemoteAccess acc s) := by
  refine .ite .refused (.ite (.next (.refl s)) ?_)
  dsimp only
  split
  · exact .refused
  · exact .ite (.next (Keeps.refl s).store) (.next (Keeps.refl s).drawN.answer)
  · exact .ite (.next (Keeps.refl s).countHost) (.next (Keeps.refl s).countHost.answer)

/-! ### Ports and modules -/

theorem Keeps.movePort (h : Keeps s t) {p : Nat} {f : Port → Port} (hf : ∀ x, (f x).n = x.n) : Keeps s (t.movePort p f) := (h.onPort hf).signal

/-- A port's step keeps what its effect keeps. -/
theorem portStep_keeps {name : String} {p : Nat} {ok : PortState → Bool} {f : State → State} (hf : ∀ t, Keeps t (f t)) (s : State) :
    KeepsNext s (portStep name p ok f s) := by
  unfold portStep
  split
  · exact .refused
  · exact .ite (.next (hf s)) .refused

theorem execFlitReplay_keeps (p : Nat) (s : State) : KeepsNext s (execFlitReplay p s) :=
  .ite .refused (portStep_keeps (fun t => (Keeps.refl t).onPort (by exact fun _ => rfl)) s)

theorem execReplayLimit_keeps (p : Nat) (s : State) : KeepsNext s (execReplayLimit p s) :=
  .ite .refused (portStep_keeps (fun t => (Keeps.refl t).movePort (by exact fun _ => rfl)) s)

theorem execPortEnable_keeps (p : Nat) (s : State) : KeepsNext s (execPortEnable p s) :=
  portStep_keeps (fun t => (Keeps.refl t).movePort (by exact fun _ => rfl)) s

theorem execPortTrainingResult_keeps (p lanes : Nat) (s : State) : KeepsNext s (execPortTrainingResult p lanes s) := by
  refine portStep_keeps (fun t => ?_) s
  refine Keeps.ite ((Keeps.refl t).movePort (by exact fun _ => rfl)) (.ite (.ite ?_ ?_) ?_)
  · exact (Keeps.refl t).movePort (by exact fun _ => rfl)
  · exact (Keeps.refl t).onPort (by exact fun _ => rfl)
  · exact (Keeps.refl t).draw.movePort (by exact fun _ => rfl)

theorem execLaneFailure_keeps (p : Nat) (s : State) : KeepsNext s (execLaneFailure p s) :=
  portStep_keeps (fun t => (Keeps.refl t).movePort (by exact fun _ => rfl)) s

theorem execPortDisable_keeps (p : Nat) (s : State) : KeepsNext s (execPortDisable p s) :=
  portStep_keeps (fun t => (Keeps.refl t).ite ((Keeps.refl t).movePort (by exact fun _ => rfl))) s

theorem execApertureBaseWrite_keeps (hrw hma : DWord) (s : State) : KeepsNext s (execApertureBaseWrite hrw hma s) :=
  .ite (.next (Keeps.refl s).onPkg) .refused

theorem Keeps.onModule (h : Keeps s t) {n : Nat} {f : UcieModule → UcieModule} : Keeps s (t.onModule n f) := h.onPkg

theorem execModuleLevelRetry_keeps (mod : Nat) (s : State) : KeepsNext s (execModuleLevelRetry mod s) :=
  .ite (.next (Keeps.refl s).onModule) .refused

theorem execLaneRepair_keeps (mod lane : Nat) (s : State) : KeepsNext s (execLaneRepair mod lane s) :=
  .ite (.next (Keeps.refl s).onModule) .refused

end

section
variable {s t u : State}

/-! ### The stages of a start -/

theorem Keeps.halt (h : Keeps s t) {cause : Nat} : Keeps s (t.halt cause) := h.onPkg

theorem noStage_keeps (s : State) (name : String) : KeepsNext s (s.noStage name) := .ite .fault .refused

theorem execStageA_keeps (s : State) : KeepsNext s (execStageA s) := by
  refine .ite (noStage_keeps s _) ?_
  dsimp only
  split
  · exact .next (Keeps.refl s).onPkg.halt
  · exact .next (Keeps.refl s).onPkg.onPkg.onFe

theorem Keeps.loadFirmware (h : Keeps s t) {p : Package} {l : List Stack} : Keeps s { t with pkg := p, mstacks := l } := h.trans ⟨id, id⟩

theorem execStageB_keeps (s : State) : KeepsNext s (execStageB s) :=
  .ite (noStage_keeps s _) (.ite (.next (Keeps.refl s).loadFirmware) (.ite (.next (Keeps.refl s).onPkg) .refused))

theorem execStageC_keeps (s : State) : KeepsNext s (execStageC s) := by
  refine .ite (noStage_keeps s _) ?_
  split
  · exact .next (Keeps.refl s).halt
  · exact .next (Keeps.refl s).onPkg

theorem Keeps.clearScratch (h : Keeps s t) {lo n : Nat} {l : List Nat} {p : Package} :
    Keeps s { t with mem := Sparse.clear t.mem lo n, lost := l, pkg := p } :=
  h.trans ⟨fun hm => Sparse.wf_clear _ _ _ hm, id⟩

theorem execStageD_keeps (s : State) : KeepsNext s (execStageD s) := by
  refine .ite (noStage_keeps s _) (.next ?_)
  exact (Keeps.refl s).clearScratch.foldl fun t _ => ((Keeps.refl t).movePort (by exact fun _ => rfl)).ite (Keeps.refl t)

/-! ### Resets -/

/-- Nothing is numbered after a reset but the ports. -/
theorem State.idsUnique_of_reset (hg : t.groups = []) (ht : t.teams = []) (hx : t.threads = []) (hs : t.slots = []) (hr : t.grids = [])
    (hp : t.ports = (List.range 16).map Port.reset) : t.idsUnique := by
  unfold State.idsUnique
  rw [hg, ht, hx, hs, hr, hp]
  exact ⟨.nil, List.forall_mem_nil _, .nil, List.forall_mem_nil _, .nil, List.forall_mem_nil _, .nil, .nil, List.forall_mem_nil _, by decide⟩

theorem Keeps.deviceReset (h : Keeps s t) {warm preserve : Bool} : Keeps s (t.deviceReset warm preserve) :=
  h.trans ⟨fun hm => Sparse.wf_filter _ _ ((Keeps.refl t).dropCache.mem hm), fun _ => State.idsUnique_of_reset rfl rfl rfl rfl rfl rfl⟩

theorem execPowerGood_keeps (s : State) : KeepsNext s (execPowerGood s) := .next (Keeps.refl s).deviceReset

theorem execColdReset_keeps (s : State) : KeepsNext s (execColdReset s) := by
  unfold execColdReset
  split
  · exact .next (Keeps.refl s).deviceReset
  · exact .refused

theorem execWarmReset_keeps (preserve : Bool) (s : State) : KeepsNext s (execWarmReset preserve s) := by
  unfold execWarmReset
  split
  · exact .ite (.next (Keeps.refl s).deviceReset) .refused
  · exact .refused

theorem Keeps.resetDies (h : Keeps s t) {dies : BitVec 4} {preserve : Bool} : Keeps s (t.resetDies dies preserve) :=
  (h.trans (Keeps.refl t).dropCache).trans
    ⟨fun hm => Sparse.wf_filter _ _ hm, NoNewIds.ids { NoNewIds.refl _ with threads := List.filter_sublist.map _ }⟩

theorem execPartitionReset_keeps (dies : BitVec 4) (s : State) : KeepsNext s (execPartitionReset dies s) := by
  unfold execPartitionReset
  split
  · exact .ite (.next ((Keeps.refl s).foldl fun t _ => (Keeps.refl t).deadCtx).resetDies.onPkg) .refused
  · exact .refused

/-! ### The management mailbox -/

theorem Keeps.reply (h : Keeps s t) {seq : Word} {op : Nat} {st : BitVec 16} {b : List Byte} : Keeps s (t.reply seq op st b) := h.onPkg

theorem execMgmtStatus_keeps (seq : Word) (s : State) : KeepsNext s (execMgmtStatus seq s) := .next (Keeps.refl s).reply
theorem execLogRead_keeps (seq : Word) (s : State) : KeepsNext s (execLogRead seq s) := .next (Keeps.refl s).reply.onPkg

theorem execAttest_keeps (seq : Word) (nonce : Nat) (s : State) : KeepsNext s (execAttest seq nonce s) := by
  unfold execAttest
  split
  · exact .next (Keeps.refl s).reply
  · exact .ite (.next (Keeps.refl s).reply) (.next (Keeps.refl s).draw.onPkg.reply)

theorem Keeps.keepWrites (h : Keeps s t) {kind : ResetKind} {preserve : Bool} {dies : BitVec 4} : Keeps s (t.keepWrites kind preserve dies) := by
  unfold State.keepWrites
  split
  · exact h.writeBack
  · exact h.writeBack
  · exact h

theorem execMgmtReset_keeps (seq : Word) (kind : ResetKind) (preserve : Bool) (dies : BitVec 4) (s : State) :
    KeepsNext s (execMgmtReset seq kind preserve dies s) :=
  .ite (.next (Keeps.refl s).reply.keepWrites.onPkg) (.next (Keeps.refl s).reply.keepWrites.askReset)

theorem execFlashWrite_keeps (seq : Word) (slot off : Nat) (chunk : List Byte) (s : State) : KeepsNext s (execFlashWrite seq slot off chunk s) :=
  .ite .refused (.next (Keeps.refl s).drawN.onPkg.reply)

theorem execMgmtUnknownOp_keeps (seq : Word) (op : BitVec 16) (s : State) : KeepsNext s (execMgmtUnknownOp seq op s) :=
  .ite .refused (.next (Keeps.refl s).reply)

/-! ### Temperature -/

theorem Keeps.sweepDuties (h : Keeps s t) {ts : List Nat} : Keeps s (t.sweepDuties ts) := h.trans ⟨id, id⟩

theorem Keeps.holdHot (h : Keeps s t) {die : Nat} : Keeps s (t.holdHot die) :=
  h.mgmtLog.nextSeqNo.onPkg.ite h.mgmtLog.nextSeqNo.deviceReset.onPkg

theorem execSensorSweep_keeps (t0 t1 t2 t3 : Nat) (s : State) : KeepsNext s (execSensorSweep t0 t1 t2 t3 s) := by
  unfold execSensorSweep
  dsimp only
  split
  · exact .next (Keeps.refl s).onPkg.holdHot
  · exact .ite (.next (Keeps.refl s).onPkg.onPkg) (.next (Keeps.refl s).onPkg.sweepDuties)

theorem execThermalRelease_keeps (s : State) : KeepsNext s (execThermalRelease s) := by
  refine .ite ?_ .refused
  split
  · exact .next (Keeps.refl s).deviceReset
  · exact .next (Keeps.refl s).deviceReset
  · exact .next (Keeps.refl s).deviceReset

end

section
variable {s t u : State}

/-! ### Cairns -/

theorem execWatch_keeps (a : SReg) (sp : WatchSpace) (s : State) : KeepsNext s (execWatch a sp s) :=
  Plan.Keeping.run (Plan.keeping_of_act (fun _ _ => rfl) fun _ _ _ h => by dsimp only; exact h.onGroup (by exact fun _ => rfl)) _ s

theorem execUnwatch_keeps (a : SReg) (s : State) : KeepsNext s (execUnwatch a s) :=
  Plan.Keeping.run (Plan.keeping_of_act (fun _ _ => rfl) fun _ _ _ h => by dsimp only; exact h.onGroup (by exact fun _ => rfl)) _ s

theorem execWaitW_keeps (a : SReg) (s : State) : KeepsNext s (execWaitW a s) := by
  refine Plan.Keeping.run ⟨fun _ _ _ h => ?_, fun _ _ _ e _ _ h => ?_⟩ _ s
  · dsimp only
    exact h.onGroup (by exact fun _ => rfl)
  · dsimp only at e
    split at e
    · cases e; exact h.park
    · exact of_none_eq_some e

end

/-! ### Every instruction and hardware step -/

/-- An instruction word's plan is of one of a few kinds; the others have each their own lemma. -/
theorem exec_keeps (i : Instr) : KeepsStep (exec i) := by
  intro s
  cases i with
  | iaddI32 | isubI32 | imulI32 | imulhiI32 | imulhiN32 | iminI32 | iminN32 | imaxI32 | imaxN32 | andB32 | orB32 | xorB32 | andnB32 |
  shlB32 | shrN32 | shrI32 | rotlB32 | faddF32 | fsubF32 | fmulF32 | fminF32 | fmaxF32 | faddF64 | fsubF64 | fmulF64 | fminF64 | fmaxF64 |
  iaddI64 | isubI64 | iaddExt | isubExt | imulExt | imulhiExt | iminExt | imaxExt | shlExt | shrExt | faddExt | fsubExt | fmulExt |
  fminExt | fmaxExt | fdiv | popcB32 | clzB32 | brevB32 | movB32 | iabsI32 | inegI32 | fabsF32 | fnegF32 | fabsF64 | fnegF64 | movB64 |
  litI | litF | iabsExt | inegExt | fsqrt | frcp | frsqrt | fexp2 | flog2 | frint | litMov | cenBits | getLane | sel | cvt | cvtPk |
  cvtPk4 | scanAdd | xchAt | xchSub | xchAdd | xchFlip | imad | clamp | bfe | bfi | fma | redAdd | redMin | redMax =>
    exact Plan.Keeping.run (lanePlan_keeping ..) _ s
  | icmpI32 | icmpN32 | icmpI64 | icmpN64 | fcmpF32 | fcmpF64 | pand | por | pxor | pandn | cenAll | cenAny =>
    exact Plan.Keeping.run (predPlan_keeping ..) _ s
  | uniformIadd | uniformIsub | uniformImul | uniformImulhiI | uniformImulhiN | uniformIminI | uniformIminN | uniformImaxI | uniformImaxN
  | uniformAnd | uniformOr | uniformXor | uniformAndn | uniformShl | uniformShrN | uniformShrI | uniformRotl | uniformIcmpI | uniformIcmpN
  | uniformFadd | uniformFsub | uniformFmul | uniformFmin | uniformFmax | uniformFcmp | uniformPopc | uniformClz | uniformBrev |
  uniformMov | uniformLiteralForm | uniformExtended =>
    exact Plan.Keeping.run (uniPlan_keeping ..) _ s
  | getGroup | getTeamX | getTeamY | getTeamZ | getGridX | getGridY | getGridZ | getCore | getCluster | getDie | getCtx | getCycle | getEm
  | getLm | getFmt =>
    exact Plan.Keeping.run (getPlan_keeping ..) _ s
  | ldN8 | ldI8 | ldN16 | ldI16 | ldB32 | ldB64 | ldB128 =>
    exact Plan.Keeping.run (loadPlan_keeping ..) _ s
  | stB8 | stB16 | stB32 | stB64 | stB128 =>
    exact Plan.Keeping.run (storePlan_keeping ..) _ s
  | atmAdd | atmMin | atmMax | atmAnd | atmOr | atmXor | atmXchg | atmCas =>
    exact Plan.Keeping.run (atomicPlan_keeping ..) _ s
  | bcpT1 | bcpT2 | bcpT3 | bcpFill | bgsGather | bgsScatter | bamAdd | bamMin | bamMax | bamAnd | bamOr | bamXor | bamXchg | bamCas =>
    exact Plan.Keeping.run (bulkPlan_keeping ..) _ s
  | collSum | collMax | collMin =>
    exact Plan.Keeping.run (collPlan_keeping ..) _ s
  | mldE | mldS =>
    exact Plan.Keeping.run (mldPlan_keeping ..) _ s
  | mlp | mlpZero =>
    exact Plan.Keeping.run (mlpPlan_keeping ..) _ s
  | mdrn | mdrnScl =>
    exact Plan.Keeping.run (mdrnPlan_keeping ..) _ s
  | tbarPass | tbarHold =>
    exact Plan.Keeping.run (tbarPlan_keeping ..) _ s
  | gbarHold | gbarPass | cbarHold | cbarPass =>
    exact Plan.Keeping.run (slotPlan_keeping ..) _ s
  | bra c a disp => exact execBra_keeps c a disp s
  | brd p neg disp rdisp => exact execBrd_keeps p neg disp rdisp s
  | call disp => exact execCall_keeps disp s
  | callFk disp nret r0 r1 r2 r3 => exact execCallFk_keeps disp nret r0 r1 r2 r3 s
  | braInd a => exact execBraInd_keeps a s
  | callInd a => exact execCallInd_keeps a s
  | ret => exact execRet_keeps s
  | exit => exact execExit_keeps s
  | waitK a n => exact execWaitK_keeps a n s
  | emSet a => exact execEmSet_keeps a s
  | pmPush p => exact execPmPush_keeps p s
  | pmInv => exact execPmInv_keeps s
  | pmPop => exact execPmPop_keeps s
  | blkGive n => exact execBlkGive_keeps n s
  | blkTake n => exact execBlkTake_keeps n s
  | fmtSet a => exact execFmtSet_keeps a s
  | fmtSetImm lit => exact execFmtSetImm_keeps lit s
  | nop => exact execNop_keeps s
  | mswp => exact execMswp_keeps s
  | ropeTake => exact execRopeTake_keeps s
  | ropeGive => exact execRopeGive_keeps s
  | watch a sp => exact execWatch_keeps a sp s
  | unwatch a => exact execUnwatch_keeps a s
  | waitW a => exact execWaitW_keeps a s
  | fence sc => exact execFence_keeps sc s
  | tfence sc => exact execTfence_keeps sc s
  | lnch a => exact execLnch_keeps a s
  | qBell a b => exact execQBell_keeps a b s
  | mbxGet d a => exact execMbxGet_keeps d a s
  | mbxPut a b => exact execMbxPut_keeps a b s
  | sint a => exact execSint_keeps a s
  | stkHand stack die => exact execStkHand_keeps stack die s
  | rflRun a => exact execRflRun_keeps a s
  | rflPut a b => exact execRflPut_keeps a b s
  | trap code => exact execTrap_keeps code s
  | sysRd d n => exact execSysRd_keeps d n s
  | sysWr a n => exact execSysWr_keeps a n s
  | clauseEntry => exact execClauseEntry_keeps s
  | starvationPromotion die site quad => exact execStarvationPromotion_keeps die site quad s
  | laneAccessComplete grp seq => exact execLaneAccessComplete_keeps grp seq s
  | waitKWake grp slot => exact execWaitKWake_keeps grp slot s
  | heldRecordRelease ctx => exact execHeldRecordRelease_keeps ctx s
  | frtailReread ctx => exact execFrtailReread_keeps ctx s
  | splitStackSpill grp => exact execSplitStackSpill_keeps grp s
  | splitStackRefill grp => exact execSplitStackRefill_keeps grp s
  | ropeGrant die site => exact execRopeGrant_keeps die site s
  | matrixLoadThread die site => exact execMatrixLoadThread_keeps die site s
  | mswpExchange die site => exact execMswpExchange_keeps die site s
  | matrixLoopStep die site => exact execMatrixLoopStep_keeps die site s
  | drainThread die site => exact execDrainThread_keeps die site s
  | matrixRelease die site => exact execMatrixRelease_keeps die site s
  | blockWake team quad => exact execBlockWake_keeps team quad s
  | engineDescriptorRead tid => exact execEngineDescriptorRead_keeps tid s
  | copyThread tid => exact execCopyThread_keeps tid s
  | gatherScatterThread tid => exact execGatherScatterThread_keeps tid s
  | bulkAtomicThread tid => exact execBulkAtomicThread_keeps tid s
  | engineCompletion tid => exact execEngineCompletion_keeps tid s
  | tableWalk die ctx va u => exact execTableWalk_keeps die ctx va u s
  | tfenceComplete tid => exact execTfenceComplete_keeps tid s
  | groupRetire grp => exact execGroupRetire_keeps grp s
  | groupBarrierArrival grp => exact execGroupBarrierArrival_keeps grp s
  | teamSlotArrival team => exact execTeamSlotArrival_keeps team s
  | slotRelease slot cluster => exact execSlotRelease_keeps slot cluster s
  | bivouac team => exact execBivouac_keeps team s
  | bivouacDispatch team => exact execBivouacDispatch_keeps team s
  | waitWWake grp slot => exact execWaitWWake_keeps grp slot s
  | spinRecognition grp => exact execSpinRecognition_keeps grp s
  | spinWake grp => exact execSpinWake_keeps grp s
  | waitingTeamEviction die ctx => exact execWaitingTeamEviction_keeps die ctx s
  | rotationEviction team => exact execRotationEviction_keeps team s
  | preEmption die team => exact execPreEmption_keeps die team s
  | teamSave team => exact execTeamSave_keeps team s
  | teamRestore team => exact execTeamRestore_keeps team s
  | teamDeal die => exact execTeamDeal_keeps die s
  | teamPlace die ctx => exact execTeamPlace_keeps die ctx s
  | clusterPlace die ctx => exact execClusterPlace_keeps die ctx s
  | teamDone team => exact execTeamDone_keeps team s
  | classifierClose grid => exact execClassifierClose_keeps grid s
  | launchThread tid => exact execLaunchThread_keeps tid s
  | launchQueueWake die site => exact execLaunchQueueWake_keeps die site s
  | launchAccept tid => exact execLaunchAccept_keeps tid s
  | gridDispatch grid => exact execGridDispatch_keeps grid s
  | gridRetire grid => exact execGridRetire_keeps grid s
  | gridReport grid => exact execGridReport_keeps grid s
  | load ctx => exact execLoad_keeps ctx s
  | activate ctx => exact execActivate_keeps ctx s
  | switchOut ctx => exact execSwitchOut_keeps ctx s
  | resumeFault ctx => exact execResumeFault_keeps ctx s
  | clear ctx => exact execClear_keeps ctx s
  | kill ctx => exact execKill_keeps ctx s
  | free ctx => exact execFree_keeps ctx s
  | ctxcmdReservedOp op ctx => exact execCtxcmdReservedOp_keeps op ctx s
  | queueCreate q => exact execQueueCreate_keeps q s
  | queueDestroy q => exact execQueueDestroy_keeps q s
  | queueReset q => exact execQueueReset_keeps q s
  | qcmdReservedOp op q => exact execQcmdReservedOp_keeps op q s
  | queueTableRegisterWrite reg v => exact execQueueTableRegisterWrite_keeps reg v s
  | registerWrite off v => exact execRegisterWrite_keeps off v s
  | doorbell q v => exact execDoorbell_keeps q v s
  | qbellDelivery => exact execQbellDelivery_keeps s
  | sintDelivery => exact execSintDelivery_keeps s
  | packetFetch q => exact execPacketFetch_keeps q s
  | stallReread q => exact execStallReread_keeps q s
  | launchPacket q => exact execLaunchPacket_keeps q s
  | mbxPutPacket q => exact execMbxPutPacket_keeps q s
  | mbxGetPacket q => exact execMbxGetPacket_keeps q s
  | signalPacket q => exact execSignalPacket_keeps q s
  | mailboxWake grp slot => exact execMailboxWake_keeps grp slot s
  | frontEndWatchdog q => exact execFrontEndWatchdog_keeps q s
  | configEccError => exact execConfigEccError_keeps s
  | logicBlockReload => exact execLogicBlockReload_keeps s
  | sensorSweep t0 t1 t2 t3 => exact execSensorSweep_keeps t0 t1 t2 t3 s
  | thermalRelease => exact execThermalRelease_keeps s
  | stackTrainingComplete n ok => exact execStackTrainingComplete_keeps n ok s
  | stackLost n => exact execStackLost_keeps n s
  | handoverDrain tid => exact execHandoverDrain_keeps tid s
  | stackCacheFlush tid => exact execStackCacheFlush_keeps tid s
  | handoverTranslationDiscard tid => exact execHandoverTranslationDiscard_keeps tid s
  | portSwitch tid => exact execPortSwitch_keeps tid s
  | ownershipUpdate tid => exact execOwnershipUpdate_keeps tid s
  | handoverComplete tid => exact execHandoverComplete_keeps tid s
  | patrolScrub n found => exact execPatrolScrub_keeps n found s
  | refresh n temp => exact execRefresh_keeps n temp s
  | logDrain n => exact execLogDrain_keeps n s
  | stkstatRead n => exact execStkstatRead_keeps n s
  | hsigClear mask => exact execHsigClear_keeps mask s
  | hostRead addr size ord => exact execHostRead_keeps addr size ord s
  | hostWrite addr mask data ord => exact execHostWrite_keeps addr mask data ord s
  | remoteAccess acc => exact execRemoteAccess_keeps acc s
  | flitReplay p => exact execFlitReplay_keeps p s
  | replayLimit p => exact execReplayLimit_keeps p s
  | portEnable p => exact execPortEnable_keeps p s
  | portTrainingResult p lanes => exact execPortTrainingResult_keeps p lanes s
  | laneFailure p => exact execLaneFailure_keeps p s
  | portDisable p => exact execPortDisable_keeps p s
  | collectiveInstance cg remote => exact execCollectiveInstance_keeps cg remote s
  | powerGood => exact execPowerGood_keeps s
  | stageA => exact execStageA_keeps s
  | stageB => exact execStageB_keeps s
  | stageC => exact execStageC_keeps s
  | stageD => exact execStageD_keeps s
  | mgmtStatus seq => exact execMgmtStatus_keeps seq s
  | logRead seq => exact execLogRead_keeps seq s
  | attest seq nonce => exact execAttest_keeps seq nonce s
  | mgmtReset seq kind preserve dies => exact execMgmtReset_keeps seq kind preserve dies s
  | flashWrite seq slot off chunk => exact execFlashWrite_keeps seq slot off chunk s
  | mgmtUnknownOp seq op => exact execMgmtUnknownOp_keeps seq op s
  | coldReset => exact execColdReset_keeps s
  | warmReset preserve => exact execWarmReset_keeps preserve s
  | partitionReset dies => exact execPartitionReset_keeps dies s
  | partitionChange ctx dies => exact execPartitionChange_keeps ctx dies s
  | apertureBaseWrite hrw hma => exact execApertureBaseWrite_keeps hrw hma s
  | moduleLevelRetry mod => exact execModuleLevelRetry_keeps mod s
  | laneRepair mod lane => exact execLaneRepair_keeps mod lane s

section
variable {s t u : State}

/-! ### A path issues -/

/-- The scheduler's own fields say nothing of memory or identifiers. -/
theorem Keeps.curSet (h : Keeps s t) {c : Nat × Bool} {v : Option Nat} {late : Bool} {turn : Option Turn} :
    Keeps s { t with cur := c, view := v, late := late, turn := turn } := h.trans ⟨id, id⟩

theorem runDecoded_keeps (s : State) (x : Here) : KeepsNext s (s.runDecoded x) := by
  unfold State.runDecoded
  split
  · exact .of_keeps ((Keeps.refl s).ite (Keeps.refl s).drainLate) (exec_keeps _ _)
  · exact .next (Keeps.refl s).raise

theorem issue_keeps : KeepsStep State.issue := by
  intro s
  unfold State.issue
  split
  · exact .ite .refused (runDecoded_keeps s _)
  · exact exec_keeps _ s

/-! ### A continuation issues -/

theorem Keeps.viewOf (h : Keeps s t) {g : Group} {k : Nat} {c : Cont} {slot : Bool} : Keeps s (t.viewOf g k c slot) :=
  (h.groupsIf (f := fun x => { x with arch := c.arch, spillFault := none }) fun _ => rfl).curSet

theorem Keeps.unview {before after : State} (hb : Keeps s before) (ha : Keeps s after) {g : Group} {k : Nat} : Keeps s (before.unview after g k) := by
  have ha' : Keeps s { after with cur := before.cur, view := none } := ha.curSet
  unfold State.unview
  dsimp only
  split
  · exact ha'
  · split
    · exact ha'.onGroupEach (by exact fun _ _ => rfl)
    · refine Keeps.ite ?_ (.ite ?_ ?_)
      · exact (ha'.onGroupEach (by exact fun _ _ => rfl)).countSquash
      · exact hb.onGroupEach (by exact fun _ _ => rfl)
      · exact ha'.onGroupEach (by exact fun _ _ => rfl)

theorem Keeps.stopCont (h : Keeps s t) {grp k losses : Nat} {g : Group} (hg : g.id = grp) : Keeps s (t.onGroup grp fun _ => g.stopCont k losses) :=
  h.onGroupEach fun _ _ => hg

theorem shadowStep_keeps (s : State) (grp k : Nat) : KeepsNext s (s.shadowStep grp k) := by
  unfold State.shadowStep
  split
  · exact .refused
  · next g hg =>
    split
    · exact .refused
    · split
      · exact .refused
      · next c _ _ slot p _ =>
        refine .ite .refused (.ite (.next (.unview (Keeps.refl s) (Keeps.refl s).viewOf.wakeCounter)) ?_)
        refine .ite (.next ((Keeps.refl s).stopCont (eq_of_beq (List.find?_some hg :)))) ?_
        split
        · next e => exact .next (.unview (Keeps.refl s) ((Keeps.refl s).viewOf.trans (issue_keeps _ _ e)))
        · exact .fault
        · exact .refused

/-! ### Cycles of a quadrant -/

theorem issueOf_keeps (s : State) (r : Ready) : KeepsNext s (s.issueOf r) := by
  unfold State.issueOf
  split
  · exact .of_keeps (Keeps.refl s).curSet (issue_keeps _)
  · exact shadowStep_keeps s _ _

theorem firstIssue_keeps {l : List Ready} {r : Ready} {o : Host.Outcome State Fault Refusal} (e : s.firstIssue l = some (r, o)) : KeepsNext s o := by
  induction l with
  | nil => exact of_none_eq_some e
  | cons x l ih =>
    unfold State.firstIssue at e
    dsimp only at e
    split at e
    · cases e
      exact issueOf_keeps s _
    · exact ih e

theorem Keeps.cyclePasses (h : Keeps s t) {v : State} {quad : Nat} {who : Option (Nat × Option Nat × Bool)} : Keeps s (v.cyclePasses t quad who) :=
  h.mapGroups (ite_key_eq fun _ => rfl)

theorem Keeps.setCurrent (h : Keeps s t) {r : Ready} : Keeps s (t.setCurrent r) := h.onCore

theorem afterCycle_keeps {o : Host.Outcome State Fault Refusal} (h : KeepsNext s o) (v : State) (r : Ready) : KeepsNext s (v.afterCycle r o) := by
  unfold State.afterCycle
  split
  · exact .next (h _ rfl).cyclePasses
  · exact h

theorem newCycle_keeps (s : State) (ps : List Ready) (last : Nat) : KeepsNext s (s.newCycle ps last) := by
  have hs : Keeps s { s with turn := none } := (Keeps.refl s).curSet
  unfold State.newCycle
  dsimp only
  split
  · next e => exact .next (hs.trans (firstIssue_keeps e _ rfl)).cyclePasses.setCurrent.curSet
  · next e => exact .of_keeps hs (firstIssue_keeps e)
  · split
    · exact .next hs
    · split
      · next e => exact .next (hs.trans (issueOf_keeps _ _ _ e)).cyclePasses.curSet
      · exact .next (Keeps.refl s).curSet

theorem Keeps.issuedIn (h : Keeps s t) {who : Nat × Option Nat × Bool} : Keeps s (t.issuedIn who) := h.onGroup (by exact fun _ => rfl)

theorem cycle_keeps : KeepsStep State.cycle := by
  intro s
  unfold State.cycle
  dsimp only
  split
  · exact newCycle_keeps s _ _
  · next turn _ =>
    have hs : Keeps s { s with turn := some { turn with both := true } } := (Keeps.refl s).curSet
    split
    · next e =>
      split at e
      · exact of_none_eq_some e
      · exact .next (hs.trans (firstIssue_keeps e _ rfl)).issuedIn.curSet
    · next e =>
      split at e
      · exact of_none_eq_some e
      · exact .of_keeps hs (firstIssue_keeps e)
    · exact newCycle_keeps s _ _

/-! ### Agents -/

/-- Every agent of a list keeps what every step keeps. -/
def AllKeep (l : List Agent) : Prop := ∀ f ∈ l, KeepsStep f

theorem AllKeep.nil : AllKeep [] := List.forall_mem_nil _
theorem AllKeep.cons {f : Agent} {l : List Agent} (h : KeepsStep f) (k : AllKeep l) : AllKeep (f :: l) := List.forall_mem_cons.mpr ⟨h, k⟩
theorem AllKeep.append {l m : List Agent} (h : AllKeep l) (k : AllKeep m) : AllKeep (l ++ m) := List.forall_mem_append.mpr ⟨h, k⟩
theorem AllKeep.map {α : Type} {l : List α} {f : α → Agent} (h : ∀ x, KeepsStep (f x)) : AllKeep (l.map f) := List.forall_mem_map.mpr fun x _ => h x

theorem AllKeep.flatMap {α : Type} {l : List α} {f : α → List Agent} (h : ∀ x, AllKeep (f x)) : AllKeep (l.flatMap f) := fun a ha => by
  obtain ⟨x, _, hx⟩ := List.mem_flatMap.mp ha
  exact h x a hx

theorem groupAgents_keep (s : State) (g : Group) : AllKeep (groupAgents s g) := by
  unfold groupAgents
  refine .append ?_ ?_
  · exact .cons (execSplitStackSpill_keeps _) <| .cons (execSplitStackRefill_keeps _) <| .cons (execSpinRecognition_keeps _) <|
      .cons (execSpinWake_keeps _) <| .cons (execWaitKWake_keeps _ _) <| .cons (execWaitKWake_keeps _ _) <| .cons (execWaitWWake_keeps _ _) <|
      .cons (execWaitWWake_keeps _ _) <| .cons (execMailboxWake_keeps _ _) <| .cons (execMailboxWake_keeps _ _) <|
      .cons (execGroupBarrierArrival_keeps _) <| .cons (execGroupRetire_keeps _) .nil
  · split
    · exact .map fun _ => execLaneAccessComplete_keeps _ _
    · exact .nil

theorem coreAgents_keep (c : Core) : AllKeep (coreAgents c) := by
  refine .append ?_ (.map fun _ => execStarvationPromotion_keeps _ _ _)
  exact .cons (execRopeGrant_keeps _ _) <| .cons (execMatrixLoadThread_keeps _ _) <| .cons (execMswpExchange_keeps _ _) <|
    .cons (execMatrixLoopStep_keeps _ _) <| .cons (execDrainThread_keeps _ _) <| .cons (execMatrixRelease_keeps _ _) <|
    .cons (execLaunchQueueWake_keeps _ _) .nil

theorem threadAgents_keep (x : Thread) : AllKeep (threadAgents x) :=
  .cons (execEngineDescriptorRead_keeps _) <| .cons (execCopyThread_keeps _) <| .cons (execGatherScatterThread_keeps _) <|
    .cons (execBulkAtomicThread_keeps _) <| .cons (execEngineCompletion_keeps _) <| .cons (execTfenceComplete_keeps _) <|
    .cons (execLaunchThread_keeps _) <| .cons (execLaunchAccept_keeps _) <| .cons (execHandoverDrain_keeps _) <|
    .cons (execStackCacheFlush_keeps _) <| .cons (execHandoverTranslationDiscard_keeps _) <| .cons (execPortSwitch_keeps _) <|
    .cons (execOwnershipUpdate_keeps _) <| .cons (execHandoverComplete_keeps _) .nil

theorem teamAgents_keep (x : Team) : AllKeep (teamAgents x) := by
  refine .append ?_ (.map fun _ => execBlockWake_keeps _ _)
  exact .cons (execTeamDone_keeps _) <| .cons (execTeamSlotArrival_keeps _) <| .cons (execBivouac_keeps _) <| .cons (execTeamSave_keeps _) <|
    .cons (execBivouacDispatch_keeps _) <| .cons (execTeamRestore_keeps _) .nil

theorem gridAgents_keep (g : Grid) : AllKeep (gridAgents g) :=
  .cons (execGridDispatch_keeps _) <| .cons (execGridRetire_keeps _) <| .cons (execGridReport_keeps _) <| .cons (execClassifierClose_keeps _) .nil

theorem slotAgents_keep (b : BarSlot) : AllKeep (slotAgents b) := .map fun _ => execSlotRelease_keeps _ _

theorem dieAgents_keep (s : State) (d : Die) : AllKeep (dieAgents s d) :=
  .append (.append (.append (.cons (execTeamDeal_keeps _) .nil)
    (.flatMap fun _ => .cons (execTeamPlace_keeps _ _) (.cons (execClusterPlace_keeps _ _) .nil))) (.map fun _ => execWaitingTeamEviction_keeps _ _))
    (.map fun _ => execPreEmption_keeps _ _)

theorem queueAgents_keep (q : Queue) : AllKeep (queueAgents q) :=
  .cons (execPacketFetch_keeps _) <| .cons (execLaunchPacket_keeps _) <| .cons (execMbxPutPacket_keeps _) <| .cons (execMbxGetPacket_keeps _) <|
    .cons (execSignalPacket_keeps _) .nil

theorem startAgents_keep (s : State) : AllKeep (startAgents s) := by
  unfold startAgents
  refine .append ?_ ?_
  · split
    · exact .cons execColdReset_keeps .nil
    · exact .cons (execWarmReset_keeps _) .nil
    · exact .cons (execPartitionReset_keeps _) .nil
    · exact .nil
  · split
    · exact .cons execStageA_keeps (.cons execThermalRelease_keeps .nil)
    · exact .cons execStageB_keeps .nil
    · exact .cons execStageC_keeps (.cons execStageD_keeps .nil)
    · exact .nil

theorem agents_keep (s : State) : AllKeep s.agents := by
  unfold State.agents
  refine .append (.append (.append (.append (.append (.append (.append (.append (.append (.append (.append (.append ?_ ?_) ?_) ?_) ?_) ?_) ?_) ?_) ?_) ?_) ?_) ?_) ?_
  · exact startAgents_keep s
  · exact .flatMap (groupAgents_keep s)
  · exact .flatMap coreAgents_keep
  · exact .flatMap threadAgents_keep
  · exact .flatMap teamAgents_keep
  · exact .flatMap slotAgents_keep
  · exact .flatMap gridAgents_keep
  · exact .cons execQbellDelivery_keeps (.cons execSintDelivery_keeps (.cons execLogicBlockReload_keeps .nil))
  · exact .flatMap queueAgents_keep
  · exact .map fun _ => execHeldRecordRelease_keeps _
  · exact .flatMap (dieAgents_keep s)
  · exact .map fun _ => execRotationEviction_keeps _
  · exact .map fun _ => execLogDrain_keeps _

theorem firstDue_keeps {l : List Agent} (h : AllKeep l) {o : Host.Outcome State Fault Refusal} (e : firstDue s l = some o) : KeepsNext s o := by
  induction l with
  | nil => exact of_none_eq_some e
  | cons f l ih =>
    obtain ⟨hf, hl⟩ := List.forall_mem_cons.mp h
    unfold firstDue at e
    split at e
    · exact ih hl e
    · cases e
      exact hf s

theorem idleStep_keeps : KeepsStep State.idleStep := by
  intro s
  unfold State.idleStep
  split
  · next e =>
    split at e
    · exact firstDue_keeps (.cons execThermalRelease_keeps .nil) e
    · exact firstDue_keeps (agents_keep s) e
  · exact cycle_keeps s

/-! ### The agenda, and a step -/

theorem noAct_keeps (s : State) (name : String) : KeepsNext s (noAct name) := .refused

theorem eccAt_keeps (s : State) (a : EccSite) : KeepsNext s (s.eccAt a) := by
  cases a with
  | granule q => exact .ite (noAct_keeps s _) (.next (Keeps.refl s).drainAll.lostSet)
  | clean q => exact .ite (noAct_keeps s _) (.next (Keeps.refl s).losses)
  | request q corrected => exact .ite (noAct_keeps s _) (.ite (.next (Keeps.refl s).onStack) (.next (Keeps.refl s).poison.onStack))
  | reg grp r => exact .ite (.next (Keeps.refl s).onArch) (noAct_keeps s _)
  | matrix die site => exact .ite (.next (Keeps.refl s).onMx) (noAct_keeps s _)
  | belay grp k =>
    unfold State.eccAt
    dsimp only
    split
    · exact .ite (noAct_keeps s _) (.next ((Keeps.refl s).onGroup (by exact fun _ => rfl)).countSquash.losses)
    · exact noAct_keeps s _
  | hub => exact .ite (.next (Keeps.refl s).deviceLoss) (noAct_keeps s _)

theorem doAct_keeps (s : State) (a : Act) : KeepsNext s (s.doAct a) := by
  cases a with
  | issue g slot => exact afterCycle_keeps (.of_keeps (Keeps.refl s).curSet (issue_keeps _)) _ _
  | issueLate g slot =>
    refine afterCycle_keeps ?_ _ _
    split
    · next e => exact .next ((Keeps.refl s).curSet.trans (issue_keeps _ _ e)).curSet
    · exact .of_keeps (Keeps.refl s).curSet (issue_keeps _)
  | perform g n i => exact .ite (.next (Keeps.refl s).performAt) (noAct_keeps s _)
  | writeBack l => exact .ite (.next (Keeps.refl s).writeBack) (noAct_keeps s _)
  | ecc e => exact eccAt_keeps s e
  | flit p => exact .ite (.next ((Keeps.refl s).onPort (by exact fun _ => rfl))) (noAct_keeps s _)
  | shadow g k => exact afterCycle_keeps (.of_keeps (Keeps.refl s).curSet (shadowStep_keeps _ _ _)) _ _
  | event i => exact exec_keeps i s

theorem step_keeps : KeepsStep step := by
  intro s
  unfold step
  split
  · next r _ => exact .of_keeps (t := { s with agenda := r }) ⟨id, id⟩ (doAct_keeps _ _)
  · exact idleStep_keeps s

end

/-- Settles O59: every part of a step keeps the canonical form, the tables by `Sparse.put`, `Sparse.clear` and filters alone. -/
theorem memoryCanonical : Obligations.MemoryCanonical := fun s t hm e => (step_keeps s t e).mem hm

/-- Settles O60: a step changes things under their number, drops some, or adds some numbered from the counter that then passes them. -/
theorem identifiersUnique : Obligations.IdentifiersUnique := fun s t hi e => (step_keeps s t e).ids hi

end Sys2Proof.Machine
end
